-- ==== Sys2Proof/Word.lean ====
section
/-!
DEFINITION. The word types and the numbers that name the module's units.
-/

namespace Sys2Proof

/-- One byte. -/
abbrev Byte := BitVec 8
/-- A 16-bit word: status codes, generations. -/
abbrev Word16 := BitVec 16
/-- A 32-bit word. -/
abbrev Word32 := BitVec 32
/-- A 64-bit word. -/
abbrev Word64 := BitVec 64
/-- A SHA-384 digest, or any 48-byte octet string. -/
abbrev Digest := BitVec 384

/-- Partition number n of Pn (R16). -/
abbrev PartId := Fin 64
/-- Physical matrix engine within a partition (R17). -/
abbrev EngId := Fin 38
/-- Physical vector tile within a partition. -/
abbrev VtId := Fin 19
/-- Scalar tile within a partition. -/
abbrev StId := Fin 4
/-- Unit island number 61 n + k (R389). -/
abbrev UnitId := Fin 3904
/-- Router number 64 gy + gx in the module mesh (R104). -/
abbrev RouterId := Fin 4096
/-- Composition identifier (R165). -/
abbrev CidT := Fin 256
/-- Context identifier (R238). -/
abbrev XidT := Fin 4096
/-- Host port (R20). -/
abbrev HPort := Fin 4
/-- Function of a host port; 0 is PF0 (R296). -/
abbrev Func := Fin 256
/-- Far-memory port (R20). -/
abbrev FarId := Fin 4
/-- Fabric port (R20). -/
abbrev FabId := Fin 32

end Sys2Proof
end

