-- ==== Sys2Proof/Types.lean ====
section
/-!
DEFINITION. The plain data that commands carry: flits, frames, requests, and what a sensor or a check reports.
-/

namespace Sys2Proof

/-- A flit of the die network: control word (Table 5.2) and payload (R107). `eccBad` says the control word holds an
uncorrectable error, `parityBad` that a payload word fails its parity. -/
structure Flit where
  dst : Nat
  src : Nat
  wpt : Nat
  leg : Bool
  vc : Nat
  kind : Nat
  fidx : Nat
  tail : Bool
  gen : BitVec 16
  group : Nat
  op : Nat
  last : Bool
  xid : Nat
  poison : Bool
  payload : BitVec 512
  eccBad : Bool
  /-- Bit i: payload word i fails its even parity. -/
  parityBad : BitVec 8
  deriving DecidableEq, Repr

/-- A flit with every field zero, the starting point of every flit the model builds. -/
def Flit.zero : Flit :=
  { dst := 0, src := 0, wpt := 0, leg := false, vc := 0, kind := 0, fidx := 0, tail := false, gen := 0, group := 0,
    op := 0, last := false, xid := 0, poison := false, payload := 0, eccBad := false, parityBad := 0 }

/-- The port of a router a flit comes in by or leaves by (R104), numbered as Table 5.5 orders them. -/
inductive RPort | loc | north | east | south | west
  deriving DecidableEq, Repr

/-- A Krygo Link frame (Table 11.2). `hcrcOk` and `pcrcOk` say whether its checks pass at the receiver. -/
structure Frame where
  typ : Nat
  cls : Nat
  level : Nat
  last : Bool
  poison : Bool
  len : Nat
  hops : Nat
  dst : Nat
  src : Nat
  srcMgen : BitVec 16
  dstMgen : BitVec 16
  fjob : Nat
  sel : Nat
  arg : BitVec 64
  tag : Nat
  via : Nat
  payload : List (BitVec 512)
  hcrcOk : Bool
  pcrcOk : Bool
  deriving DecidableEq, Repr

/-- A frame with every field zero and both checks passing. -/
def Frame.zero : Frame :=
  { typ := 0, cls := 0, level := 0, last := false, poison := false, len := 0, hops := 0, dst := 0, src := 0,
    srcMgen := 0, dstMgen := 0, fjob := 0, sel := 0, arg := 0, tag := 0, via := 0, payload := [],
    hcrcOk := true, pcrcOk := true }

/-- Where the answer of a request goes: nowhere, a mailbox slot (R416) or a ring (R303). -/
inductive ReplyTo
  | nobody
  | mbx (slot : Nat)
  | ring (port func ring op : Nat)
  deriving DecidableEq, Repr

/-- A request of the mailbox (Table 18.5) or of a control descriptor (Table 12.3), with its parameters read. `cid` is
P+0 of APPLY, UNBIND and QUERY, P+2 of CTX_CREATE, and the function's composition for a control descriptor. -/
structure Request where
  reply : ReplyTo
  /-- Client number it acts for (R296, R416). -/
  client : Nat
  tag : BitVec 64
  cid : Nat
  xid : Nat
  p0 : BitVec 64
  p1 : BitVec 64
  p2 : BitVec 64
  /-- ENTRY of MAP (R216). -/
  entry : BitVec 256
  bufAddr : Nat
  bufLen : Nat
  /-- SIGNER_ID of SIGNER_REVOKE. -/
  signer : BitVec 384
  /-- Of a control descriptor: how often its function's rings had been reset when it was read (R314). -/
  era : Nat := 0
  deriving DecidableEq, Repr

/-- A request with every parameter zero. -/
def Request.zero : Request :=
  { reply := .nobody, client := 0, tag := 0, cid := 0, xid := 0, p0 := 0, p1 := 0, p2 := 0, entry := 0, bufAddr := 0,
    bufLen := 0, signer := 0 }

/-- The window a register access reaches: BAR0 through a host port (R28, R30), or the composition window of a virtual
function (R318). -/
inductive Window
  | bar0 (port : HPort)
  | cw (port : HPort) (func : Func)
  deriving DecidableEq, Repr

/-- What the controller finds when it decodes a sector (R192, Table 8.2). -/
inductive ReadErr | clean | oneSymbol | badData | badCheck
  deriving DecidableEq, Repr

/-- What the control word of a memory request says of its sender (R108, R203): its source endpoint, and bit 30. -/
structure Sender where
  src : BitVec 13
  bit30 : Bool
  deriving DecidableEq, Repr

/-- What the repair and the start-up test of a repair reset find (R196): the channels that have a row with no repair resource left, and those
that fail the test. -/
structure RepairFinds where
  unrepaired : BitVec 8
  bad : BitVec 8
  deriving DecidableEq, Repr

/-- Master class of a memory request (R203). -/
inductive MClass | dma | vt | host | fab | save
  deriving DecidableEq, Repr

/-- What the two-current test of a temperature sensor finds (R374). -/
inductive SensorTest | good | openWire | shorted
  deriving DecidableEq, Repr

/-- A unit of a matrix engine (R59). -/
inductive EUnit | arr | epi | dma
  deriving DecidableEq, Repr

/-- A step of the ladder (Table 17.2). -/
inductive LStep | context | engine | partition | module | powerCycle
  deriving DecidableEq, Repr

/-- Class of REFCLK (R436). -/
inductive RefClass | clean | spread | bad
  deriving DecidableEq, Repr

/-- What an identity exchange brings (R264). -/
structure PeerId where
  system : BitVec 32
  node : Nat
  mgen : BitVec 16
  port : Nat
  /-- Dragonfly groups that the peer's GLOBAL ports reach, from its LINK exchange (R274). -/
  groups : List Nat
  deriving DecidableEq, Repr

/-- A firmware image as read for the checks of R332: its header fields (Table 14.1) and its two signatures. -/
structure FwImage where
  magic : BitVec 32
  version : BitVec 16
  role : Nat
  svn : Nat
  imageBytes : Nat
  release : BitVec 16
  signer : Nat
  rsvZero : Bool
  imageDigest : BitVec 384
  image : List (BitVec 8)
  header : List (BitVec 8)
  rsaSig : List (BitVec 8)
  slhSig : List (BitVec 8)
  tailZero : Bool
  deriving DecidableEq, Repr

/-- The state of a partition as a die line carries it (R354). -/
structure LineState where
  st : Nat
  cid : Nat
  gen : BitVec 16
  deriving DecidableEq, Repr

end Sys2Proof
end

