-- ==== Sys2Proof/Syntax.lean ====
section
/-!
DEFINITION. The commands of the block: one constructor per row of spec/opcode_table.json, in the table's order. The
table gives a row no operands, so each constructor carries the unit, port, address, value or observation from outside
that the row's rule speaks of (assumption 14).
-/

namespace Sys2Proof

inductive Instr
  -- registers, gating, spares
  | registerWrite (w : Window) (addr bytes : Nat) (data : Word64) (hwSet : Word64)
  | gateFreePartition (p : PartId)
  | spareSubstitute (u : UnitId)
  -- matrix engine
  | nop (u : UnitId)
  | mma (p : PartId) (e : EngId)
  | epi (p : PartId) (e : EngId)
  | accld (p : PartId) (e : EngId)
  | dmaRead (p : PartId) (e : EngId)
  | dmaWrite (p : PartId) (e : EngId)
  | aaddF32 (p : PartId) (e : EngId)
  | aaddI64 (p : PartId) (e : EngId)
  | aswap64 (p : PartId) (e : EngId)
  | nsend (p : PartId) (e : EngId)
  | wait (u : UnitId)
  | live (u : UnitId)
  | commandComplete (p : PartId) (e : EngId) (w : EUnit)
  | waitWake (u : UnitId)
  | qctlFlush (u : UnitId)
  | qctlResume (u : UnitId)
  | engineStopRequest (p : PartId) (e : EngId)
  | engineUnitsHalted (p : PartId) (e : EngId)
  | engineRestore (p : PartId) (e : EngId) (x : XidT)
  -- vector tile
  | vadd (p : PartId) (v : VtId)
  | vsub (p : PartId) (v : VtId)
  | vmul (p : PartId) (v : VtId)
  | vmax (p : PartId) (v : VtId)
  | vmin (p : PartId) (v : VtId)
  | vand (p : PartId) (v : VtId)
  | vor (p : PartId) (v : VtId)
  | vxor (p : PartId) (v : VtId)
  | vfma (p : PartId) (v : VtId)
  | vfms (p : PartId) (v : VtId)
  | vdotw (p : PartId) (v : VtId)
  | vexp2 (p : PartId) (v : VtId)
  | vlog2 (p : PartId) (v : VtId)
  | vrcp (p : PartId) (v : VtId)
  | vrsq (p : PartId) (v : VtId)
  | vtanh (p : PartId) (v : VtId)
  | vsig (p : PartId) (v : VtId)
  | vceq (p : PartId) (v : VtId)
  | vclt (p : PartId) (v : VtId)
  | vcle (p : PartId) (v : VtId)
  | vrsum (p : PartId) (v : VtId)
  | vrmax (p : PartId) (v : VtId)
  | vrmin (p : PartId) (v : VtId)
  | vbcast (p : PartId) (v : VtId)
  | vshuf (p : PartId) (v : VtId)
  | vwlo (p : PartId) (v : VtId)
  | vwhi (p : PartId) (v : VtId)
  | vnrw (p : PartId) (v : VtId)
  | vqmx (p : PartId) (v : VtId)
  | vld (p : PartId) (v : VtId)
  | vst (p : PartId) (v : VtId)
  | srd (p : PartId) (v : VtId)
  | srdWake (p : PartId) (v : VtId)
  | swr (p : PartId) (v : VtId)
  | xdma (p : PartId) (v : VtId)
  | aaddi (p : PartId) (v : VtId)
  | aadd (p : PartId) (v : VtId)
  | amul (p : PartId) (v : VtId)
  | ashl (p : PartId) (v : VtId)
  | amovv (p : PartId) (v : VtId)
  | bnez (p : PartId) (v : VtId)
  | jmp (p : PartId) (v : VtId)
  | waitc (p : PartId) (v : VtId)
  | waitcWake (p : PartId) (v : VtId)
  | fence (p : PartId) (v : VtId)
  | fenceWake (p : PartId) (v : VtId)
  | vend (p : PartId) (v : VtId)
  | vlaunch (p : PartId) (v : VtId)
  | launchComplete (p : PartId) (v : VtId)
  | streamFlitDeliver (p : PartId) (v : VtId) (ch : Fin 4)
  -- scalar tile
  | kissue (p : PartId) (t : StId)
  | kissueWake (p : PartId) (t : StId)
  | ktryissue (p : PartId) (t : StId)
  | kevpop (p : PartId) (t : StId)
  | kevwait (p : PartId) (t : StId)
  | kevwaitWake (p : PartId) (t : StId)
  | kcwait (p : PartId) (t : StId)
  | kcwaitWake (p : PartId) (t : StId)
  | kqctl (p : PartId) (t : StId)
  | kpcvtDeviceToHost (p : PartId) (t : StId)
  | kpcvtHostToDevice (p : PartId) (t : StId)
  | kbarArriveWait (p : PartId) (t : StId)
  | kbarArrive (p : PartId) (t : StId)
  | kbarWait (p : PartId) (t : StId)
  | kdrain (p : PartId) (t : StId)
  | kdrainWake (p : PartId) (t : StId)
  | kdma (p : PartId) (t : StId)
  | ecallEndOfWork (p : PartId) (t : StId)
  | userTrap (p : PartId) (t : StId) (cause : Nat) (tval : Word64)
  | barArrive (c : CidT) (b : Fin 32)
  | barRelease (c : CidT) (b : Fin 32) (p : PartId)
  | softStartHoldEnd (p : PartId) (e : EngId)
  | tileStopRequest (u : UnitId)
  -- die network
  | flitArrive (r : RouterId) (port : RPort) (f : Flit)
  | pourForward (r : RouterId) (port : RPort)
  | churnCombine (r : RouterId) (c : CidT) (group : Nat)
  | routerFaulty (r : RouterId)
  | creditReturn (pool : Nat)
  | auditInject (pool : Nat)
  | auditArrive (pool : Nat)
  | auditAnswerArrive (pool : Nat)
  | auditResolve (pool : Nat)
  | crossingWake (x : Nat)
  | crossingModeSet (x : Nat) (service : Bool)
  | rsyncReq (x : Nat)
  | rsyncPeerEmpty (x : Nat)
  | linkWordCrcFail (l : Fin 40) (sparesUsed : Bool)
  -- cultures and compositions
  | stage (r : Request)
  | bind (r : Request)
  | frameLoad (c : CidT) (p : PartId) (typ key : Nat)
  | bindCommit (c : CidT)
  | apply (r : Request)
  | rebindBegin (c : CidT)
  | prepared (c : CidT)
  | stageDrained (c : CidT) (g : Fin 64)
  | moveCopyDone (c : CidT) (g : Fin 64)
  | rebindCommit (c : CidT)
  | rebindEnd (c : CidT)
  | rebindRollback (c : CidT)
  | drainLimitExpired (c : CidT)
  | quiesceDone (c : CidT)
  | unbind (r : Request)
  | unbindEnd (c : CidT)
  | query (r : Request)
  | repair (c : CidT)
  | repairHoldExpiry (work : Nat)
  | compositionRestore (c : CidT)
  | tokenNew (r : Request)
  | tokenMove (r : Request)
  | handoffCopyDone (token : Word64)
  | handoffAck (token : Word64)
  | tokenRelease (r : Request)
  -- memory tiers
  | memRead (p : PartId) (ch : Fin 8) (off : Nat) (keysel : BitVec 13) (sender : Sender) (err : ReadErr)
  | memWrite (p : PartId) (ch : Fin 8) (off : Nat) (keysel : BitVec 13) (sender : Sender) (data : BitVec 512) (err : ReadErr)
  | memPartialWrite (p : PartId) (ch : Fin 8) (off : Nat) (keysel : BitVec 13) (sender : Sender) (data mask : BitVec 512) (err : ReadErr)
  | patrolRead (p : PartId) (ch : Fin 8) (err : ReadErr)
  | repairReset (p : PartId) (finds : RepairFinds) (retest : Bool)
  | weightReloadDone (c : CidT) (w : Nat)
  | weightReloadRetry (c : CidT) (w : Nat)
  | mr4Poll (pkg : Fin 128) (grade : Fin 5)
  | thermalRejoin (p : PartId) (bad : BitVec 8)
  | requestAgePromote (p : PartId) (ch : Fin 8)
  | keyCacheFill (cache : Fin 132) (slot : Fin 4096)
  | memcBudgetWrite (p : PartId) (ch : Fin 8) (value : Word64)
  | farEnable (d : FarId)
  | farDisable (d : FarId)
  | farLinkUp (d : FarId) (width rate : Nat) (trained : Bool)
  | farConfigDone (d : FarId) (ok ide : Bool) (capGib : Nat) (poisonList : List Nat)
  | farConfigTimeout (d : FarId)
  | farPortDown (d : FarId)
  | farEventPoll (d : FarId) (events : List Word64)
  -- address ranges and faults
  | rangeMiss (u : UnitId)
  | missReply (u : UnitId)
  | map (r : Request)
  | unmap (r : Request)
  | rangeQuery (r : Request)
  | invalidationReceive (u : UnitId) (x : XidT) (index : Fin 4096)
  | withdrawAck (u : UnitId) (x : XidT) (index : Fin 4096)
  | withdrawTimeout (x : XidT) (index : Fin 4096)
  | faultRecordWrite
  | fqHeadWrite (c : CidT) (value : Word32)
  | fqBaseWrite (c : CidT) (value : Word64)
  -- contexts and scheduling
  | ctxCreate (r : Request)
  | ctxDestroy (r : Request)
  | teardown (x : XidT)
  | descriptorRead (h : HPort) (f : Func) (ring : Fin 256)
  | workStart (work : Nat) (g : Fin 64)
  | workComplete (work : Nat)
  | deadlineFire (work : Nat)
  | sliceEnd (c : CidT) (g : Fin 64)
  | creamPreempt (c : CidT) (g : Fin 64)
  | creamBudgetEmpty (c : CidT) (g : Fin 64)
  | creamBudgetRefill (c : CidT) (g : Fin 64)
  | switchSaveDone (c : CidT) (g : Fin 64)
  | switchRestoreDone (c : CidT) (g : Fin 64)
  -- fabric
  | fabPortEnable (f : FabId) (value : Word32)
  | signalDetect (f : FabId)
  | detectTimeout (f : FabId)
  | detectRetry (f : FabId)
  | equalizeDone (f : FabId)
  | equalizeTimeout (f : FabId)
  | alignDone (f : FabId) (laneMap : BitVec 8) (polInv : BitVec 4)
  | identify (f : FabId) (peer : PeerId)
  | identifyTimeout (f : FabId)
  | codewordReceive (f : FabId) (seq ack corrected : Nat) (correctable : Bool)
  | replayRequest (f : FabId) (seq : Nat)
  | retrainDone (f : FabId) (peer : PeerId)
  | linkFailed (f : FabId)
  | frameReceive (f : FabId) (fr : Frame)
  | frameEnd (f : FabId) (fr : Frame)
  | creditFrameSend (f : FabId) (vc : Fin 16)
  | creditFrameReceive (f : FabId) (vc : Fin 16) (count : Word32)
  | auditFrame (f : FabId) (vc : Fin 16) (sent : Word32)
  | fabJoin (r : Request)
  | fabFctx (r : Request)
  | hello (c : CidT) (rank : Nat) (digest : Digest) (ranks : Nat) (mgen : Word16)
  | formationTimeout (c : CidT)
  | nodeDown (f : FabId) (node : Nat) (mgen : Word16)
  | nodeUp (f : FabId) (node : Nat) (mgen : Word16)
  | abandon (f : FabId) (fjob : Nat) (fgen : Word16)
  | freqOffer (c : CidT) (rank mhz : Nat)
  | freqSet (c : CidT) (mhz step : Nat)
  | freqRoundTimer (c : CidT)
  | combine (c : CidT) (group step offset : Nat)
  | barFrame (c : CidT) (b : Fin 32) (rank : Nat) (release : Bool) (fgen : Word16)
  | lnkDetour (node waypoint : Nat)
  | cpresNFall (f : FabId)
  -- host ports and sharing
  | watchedLineNotice (h : HPort) (f : Func) (line : Nat) (data : BitVec 512)
  | msixCoalesceTimer (h : HPort) (f : Func) (ring : Fin 256)
  | eventRecordWrite (h : HPort) (f : Func)
  | hostTransferTimeout (h : HPort) (u : UnitId)
  | cqWriteRetry (h : HPort) (f : Func) (ring : Fin 256) (done : Bool)
  | leaseRenewal (h : HPort) (f : Func) (seq : Word64) (reclaim : Bool)
  | leaseRelease (h : HPort) (f : Func)
  | leaseTimeout (h : HPort) (f : Func)
  | leaseQuiesce (h : HPort) (f : Func)
  | leaseExpire (h : HPort) (f : Func)
  | journalAck (h : HPort) (f : Func)
  | flr (h : HPort) (f : Func)
  | hostLinkDown (h : HPort)
  | ringEnable (h : HPort) (f : Func) (ring : Fin 256) (cfg : Word64)
  | ringDisable (h : HPort) (f : Func) (ring : Fin 256)
  | vfAssign (h : HPort) (f : Func) (c : CidT) (gen : Word16)
  | vfUnassign (h : HPort) (f : Func)
  | handOff (h : HPort) (f : Func) (c : CidT) (gen : Word16) (fromPort : HPort) (fromFunc : Func)
  | lockInterface (h : HPort) (f : Func)
  | startInterface (h : HPort) (f : Func)
  | stopInterface (h : HPort) (f : Func)
  | logStart (h : HPort) (f : Func)
  | logStop (h : HPort) (f : Func)
  | logheadWrite (h : HPort) (f : Func) (value : Word32)
  | pause (h : HPort) (f : Func)
  | pauseComplete (h : HPort) (f : Func)
  | migResume (h : HPort) (f : Func)
  -- trust
  | rollbackCommit
  | signerEnroll (r : Request)
  | signerRevoke (r : Request)
  | keyslotChange (slot : Fin 4096) (install : Bool) (holder : Nat) (shared : Bool)
  | getMeasurements (index : Nat)
  | cosign (conn : Nat) (transcript : Digest)
  | getCocert
  | compReport (c : CidT) (nonce : BitVec 256)
  | spdmRequest (conn : Nat) (bytes : List Byte) (signed : Bool)
  | hostviewAccess (h : HPort) (f : Func) (addr : Nat) (write : Bool) (data mask : BitVec 512) (ideTee : Bool) (err : ReadErr)
  | debugToken (valid : Bool) (powerOns : Nat)
  | tcWindowUpdate (meanWatts : Nat)
  -- metering
  | dieLineFrame (d : Fin 16) (down : Bool) (crcOk : Bool)
  | portLineFrame (i : Fin 4) (row : Nat) (crcOk : Bool)
  | lineLost (line : Fin 20)
  | periodicClose
  | eventClose
  | recordDurable
  | labelReceive (c : CidT)
  | labelTimeout (c : CidT)
  | pailCompaction
  | mtrAck (value : Word64)
  | mdPresentFall
  | mdPresentRise
  | pailSelfTestDone (passed : Bool) (oscPpm : Nat)
  | sealOpen
  | sealToken (valid : Bool)
  | oscCheck (ppm : Nat)
  -- power
  | inputUndervolt
  | inputOvervolt
  | inputHigh
  | inputOvercurrent
  | standbyStop
  | phaseShort (rail : Fin 69)
  | railShort (rail : Fin 69)
  | senseOpen (rail : Fin 69)
  | tsensorTest (isl : Fin 4185) (result : SensorTest)
  | inletHot
  | ageingRead (isl : Fin 4185) (mhz : Nat)
  | capCheck (watts : Nat)
  | pwrCapWrite (value : Word32)
  | pwrGateCtlWrite (value : Word32)
  | droop (isl : Fin 4185) (overLimit : Bool)
  | droopSetpointReturn (rail : Fin 69)
  | junctionRead (isl : Fin 4185) (celsius : Nat)
  | flowOkLow
  | flowOkRestore (p : PartId) (bad : BitVec 69)
  -- recovery
  | npOverrun (u : UnitId)
  | loadOverrun (c : CidT) (p : PartId)
  | stopTimeout (u : UnitId)
  | noProgress (u : UnitId)
  | stepTimeout (step : LStep) (target : Nat)
  | contextStep (x : XidT) (cause : Fin 16)
  | engineStep (u : UnitId) (cause : Fin 16) (passed ladleRead : Bool)
  | partitionStep (p : PartId) (cause : Fin 16) (bad : BitVec 69) (retest : Bool)
  | moduleStep (cause : Fin 16) (failed : List Nat)
  | powerCycle (cause : Fin 16)
  -- firmware and journal
  | heartbeatMiss (core : Fin 12)
  | coreRestart (r : Request)
  | coreFirstHeartbeat (core : Fin 12)
  | fwWrite (r : Request) (img : FwImage)
  | fwActivate (r : Request)
  | journalCommit
  | writerTakeover
  | journalReplay (corruptAt : Option Nat)
  | journalCompaction
  -- start-up
  | coldPowerOn (slotId hsris : BitVec 4)
  | computeRailStart
  | partitionBringup (p : PartId) (bad : BitVec 8) (failedUnits : List UnitId)
  | ready
  | modResetN (low : Bool)
  | perstN (h : HPort) (released : Bool)
  | prsntN (d : FarId) (present : Bool)
  | refclkBad
  | refclkReturn (cls : RefClass)
  | inputReturn
  | reversedPolarity
  | hostLinkUp (h : HPort) (width rate : Nat)
  | ideFailure (h : HPort)
  | watchedLineOwnership (h : HPort) (f : Func) (line : Nat)
  | warmPowerUp (p : PartId)
  | backgroundEraseDone
  | storeWaitExpiry (c : CidT)
  | setEndpointId (eid : Byte) (dynAddr : Option (BitVec 7))
  deriving DecidableEq, Repr

end Sys2Proof
end

