-- ==== Sys2Proof/Decode.lean ====
section
/-!
DEFINITION. The command a word of the opcode table spells. No row of spec/opcode_table.json gives bits, so no word spells
a command. The bit layouts the spec gives (engine commands, launch entries, vector and scalar instructions, requests,
descriptors) are read inside the meanings.
-/

namespace Sys2Proof

/-- The command spelled by a word of the table's bits: none, since no row has bits. -/
def decodeTableWord (_nbits _w : Nat) : Option Instr := none

end Sys2Proof
end

