-- ==== Sys2Proof/Config.lean ====
section
/-!
DEFINITION. What an implementation fixes and what the spec leaves open: constants and functions without a body,
so no proof can see a value of theirs (assumptions 3, 6 and 13).
-/

namespace Sys2Proof.Config

/-- Free values: the n-th value the model draws where the spec leaves a value open (assumption 3). -/
opaque freeValue : Nat → BitVec 64
/-- Free bytes, for the bytes two unordered commands both touch (R61) and for abandoned results (R289). -/
opaque freeByte : Nat → BitVec 8

/-- CD_STEP, IO_STEP and CARRIER of MOD_ID, fused (R31). -/
opaque modSteps : BitVec 16
/-- MOD_SERIAL, fused (R31). -/
opaque modSerial : BitVec 64
/-- FMAX in MHz fused for an island at manufacture (R378). -/
opaque fusedFmax : Nat → Nat
/-- SVN_FLOOR at manufacture (R352). -/
opaque fusedSvnFloor : Nat
/-- Firmware signers revoked in fuses, one bit each (R352). -/
opaque fusedSignersRevoked : BitVec 4
/-- DEBUG_LOCK and DEBUG_USED at manufacture (R352). -/
opaque fusedDebugLock : Bool
opaque fusedDebugUsed : Bool
/-- Digest of the boot ROM, measurement block 1 (R345). -/
opaque bootRomDigest : BitVec 384
/-- Host base HB of the HDM decoder of a function, by client number, in units of 2^30 bytes: the host programs it through
CXL configuration space, which the spec leaves to its standard (R227, R297). -/
opaque hostBase : Nat → Nat
/-- PPR_LEFT that a channel's device reports after a number of hard repairs (R196, R213). -/
opaque pprLeft : Nat → Nat → Nat
/-- Whether an expander returns the data of a read with poison (Table 8.10, R209). -/
opaque farPoison : Nat → Bool
/-- What a controller finds of the sector that the n-th read it makes for a unit's access meets: 0 clean, 1 one symbol, 2 the data, 3 the
check sector (R192, Table 8.2), and what a MOVE copy of a channel finds, by sector (Table 8.17). -/
opaque readErr : Nat → BitVec 2
opaque moveErrs : Nat → List (Nat × BitVec 2)
/-- MD_SERIAL of the n-th pail fitted (R358). -/
opaque pailSerial : Nat → BitVec 64
/-- The certificate chains of the n-th pail fitted, as MTR_SEL 0 shows them (R369). -/
opaque pailCerts : Nat → List (BitVec 8)
/-- Setpoint of VMEM in mV, the memory's own (Table 16.4). -/
opaque vmemMv : Nat
/-- Digest of the n-th pail's public keys (R345). -/
opaque pailKeyDigest : Nat → BitVec 384

/-- SHA-384 of an octet string (FIPS 180-4, by R1). -/
opaque sha384 : List (BitVec 8) → BitVec 384
/-- RSASSA-PSS verification: public key, message, signature (RFC 8017, by R1). -/
opaque rsaVerify : List (BitVec 8) → List (BitVec 8) → List (BitVec 8) → Bool
/-- SLH-DSA-SHA2-192s verification: public key, context string, message, signature (FIPS 205, by R1). -/
opaque slhVerify : List (BitVec 8) → List (BitVec 8) → List (BitVec 8) → List (BitVec 8) → Bool
/-- The public keys (RSA, SLH-DSA) whose digests are fused for firmware signer i (R332). -/
opaque fwSignerKeys : Nat → List (BitVec 8) × List (BitVec 8)
/-- The signature block the module makes over a digest with a context string (R335, R346, R358). -/
opaque signatureBlock : List (BitVec 8) → BitVec 384 → List (BitVec 8)
/-- The SLH-DSA certificate chain read with GET_COCERT (R344). -/
opaque coCert : List (BitVec 8)
/-- The answer of the SPDM 1.3 responder to a request whose bytes the standard defines (R344, R1). -/
opaque spdmAnswer : List (BitVec 8) → List (BitVec 8)
/-- The transcript hash the SPDM standard defines for a signed response (R344). -/
opaque spdmTranscript : List (BitVec 8) → BitVec 384

/-- Ciphertext of a 64-byte sector under the key of a keyslot's n-th grant and a tweak (R206, R207). -/
opaque xtsCipher : Nat → BitVec 128 → BitVec 512 → BitVec 512
/-- What a sector gives when deciphered under a key or tweak it was not written with (R201, R339). -/
opaque xtsPlain : Nat → BitVec 128 → BitVec 512 → BitVec 512
/-- The four check symbols of a sector's stored bytes that are not all zero (R192). -/
opaque rsCheck : BitVec 512 → BitVec 32

/-- The FP32 results an implementation gives for its special functions (R81), by FUNC code and operand; the model takes one only
where it keeps the bound of Table 4.3 (assumption 167). -/
opaque sfu : Nat → BitVec 32 → BitVec 32
/-- The results an implementation gives for GELU and SiLU on finite operands (R65), by ACT code and operand; the model takes one only
within 4 ulp of the exact function (assumption 167). -/
opaque actFn : Nat → BitVec 32 → BitVec 32

/-- What VNRW gives for a NaN in INT8, and for an FP32 lane in INT16, with its flags SAT and UF (assumption 168). -/
opaque nanInt8 : BitVec 8
opaque toInt16 : BitVec 32 → BitVec 16
opaque toInt16Flags : BitVec 32 → BitVec 8

/-- OP (1 a write) and ROWSM1 of a 32-byte XDMA or KDMA descriptor: R80 gives it words W1-W4 of a DMA command, and those
hold neither (assumption 19). -/
opaque xferWrite : BitVec 256 → Bool
opaque xferRowsM1 : BitVec 256 → BitVec 16

/-- The SECDED check bits over bits 95:0 of a flit's control word (R108), and the CRC-16 of a link word (R120): the spec names no polynomial. -/
opaque secded : BitVec 96 → BitVec 8
opaque linkCrc : BitVec 624 → BitVec 16

/-- The hash that chooses a port of a bundle for memory frames (R276), from SRC, DST, FJOB and SEL. -/
opaque bundleHash : Nat → Nat → Nat → Nat → Nat
/-- The hash of OFFSET that chooses a port of a bundle for collective frames (R276). -/
opaque offsetHash : Nat → Nat

end Sys2Proof.Config
end

