-- ==== Sys2Proof/Machine/Table.lean ====
section
/-!
DEFINITION. Sparse tables and byte memories: lists of key and value in one canonical form, keys strictly rising and no
entry equal to what an unlisted key reads as.
-/

namespace Sys2Proof.Machine

/-- A sparse table. What an unlisted key holds is the `d` given to `Map.get` and `Map.set`. -/
abbrev Map (β : Type) := List (Nat × β)

/-- The value at key `k`. -/
def Map.get {β : Type} (d : β) (m : Map β) (k : Nat) : β :=
  match m with
  | [] => d
  | (k', v) :: r => if k' = k then v else Map.get d r k

/-- Writes `v` at key `k`; writing the default removes the entry. -/
def Map.set {β : Type} [DecidableEq β] (d : β) (k : Nat) (v : β) (m : Map β) : Map β :=
  match m with
  | [] => if v = d then [] else [(k, v)]
  | (k', v') :: r =>
    if k < k' then (if v = d then (k', v') :: r else (k, v) :: (k', v') :: r)
    else if k = k' then (if v = d then r else (k, v) :: r)
    else (k', v') :: Map.set d k v r

/-- Changes the value at key `k`. -/
def Map.upd {β : Type} [DecidableEq β] (d : β) (k : Nat) (f : β → β) (m : Map β) : Map β :=
  Map.set d k (f (Map.get d m k)) m

/-- Changes every listed entry. -/
def Map.mapV {β : Type} [DecidableEq β] (d : β) (f : Nat → β → β) (m : Map β) : Map β :=
  (m.map (fun e => (e.1, f e.1 e.2))).filter (fun e => decide (e.2 ≠ d))

/-- The canonical form: keys strictly rising, no entry equal to the default. -/
def Map.wf {β : Type} [DecidableEq β] (d : β) (m : Map β) : Bool :=
  match m with
  | [] => true
  | (k, v) :: r => decide (v ≠ d) && r.all (fun e => decide (k < e.1)) && Map.wf d r

/-- A byte memory: every byte nothing has written reads as 0 (assumptions 7 and 10). -/
abbrev Bytes := List Host.Cell

/-- One byte of a byte memory. -/
def Bytes.rd (m : Bytes) (a : Nat) : Byte := Map.get 0 m a

/-- Writes one byte. -/
def Bytes.wr (m : Bytes) (a : Nat) (b : Byte) : Bytes := Map.set 0 a b m

/-- The canonical form of a byte memory. -/
def Bytes.wf (m : Bytes) : Bool := Map.wf 0 m

/-- `n` bytes from address `a`. -/
def Bytes.rdN (m : Bytes) (a n : Nat) : List Byte := (List.range n).map (fun i => m.rd (a + i))

/-- The memory that holds the listed bytes. -/
def Bytes.ofCells (l : List Host.Cell) : Bytes := l.foldl (fun m c => m.wr c.1 c.2) []

/-- Writes a list of bytes from address `a`. -/
def Bytes.wrL (m : Bytes) (a : Nat) (bs : List Byte) : Bytes :=
  match bs with
  | [] => m
  | b :: r => Bytes.wrL (m.wr a b) (a + 1) r

/-- A little-endian number of `n` bytes at address `a` (R2). -/
def Bytes.rdLE (m : Bytes) (a n : Nat) : Nat :=
  match n with
  | 0 => 0
  | k + 1 => (m.rd a).toNat + 256 * Bytes.rdLE m (a + 1) k

/-- Sets every byte from `a` on, `n` bytes, to zero. -/
def Bytes.zeroN (m : Bytes) (a n : Nat) : Bytes := m.filter (fun c => decide (c.1 < a ∨ a + n ≤ c.1))

/-- The bytes of a little-endian number (R2). -/
def leBytes (v n : Nat) : List Byte :=
  match n with
  | 0 => []
  | k + 1 => BitVec.ofNat 8 v :: leBytes (v / 256) k

/-- The number a little-endian list of bytes spells (R2). -/
def ofLE (bs : List Byte) : Nat :=
  match bs with
  | [] => 0
  | b :: r => b.toNat + 256 * ofLE r

/-- The first `n` entries of a list padded with `d`. -/
def padTo {α : Type} (n : Nat) (d : α) (l : List α) : List α := l.take n ++ List.replicate (n - l.length) d

/-- The i-th entry of a list, or `d`. -/
def nth {α : Type} (d : α) (l : List α) (i : Nat) : α := (l[i]?).getD d

/-- Replaces the first element that satisfies `p`. -/
def updFirst {α : Type} (p : α → Bool) (f : α → α) (l : List α) : List α :=
  match l with
  | [] => []
  | x :: r => if p x then f x :: r else x :: updFirst p f r

/-- Replaces every element that satisfies `p`. -/
def updAll {α : Type} (p : α → Bool) (f : α → α) (l : List α) : List α :=
  l.map (fun x => if p x then f x else x)

end Sys2Proof.Machine
end

