-- ==== Sys2Proof/Machine/Bits.lean ====
section
/-!
DEFINITION. Bit fields, signed views, and flags of one bit, over numbers and words (R2: a bit range is high:low, bit 0 is
the least significant).
-/

namespace Sys2Proof.Machine

/-- Bits hi:lo of a word, as a number. -/
def bits {w : Nat} (v : BitVec w) (hi lo : Nat) : Nat := (v.extractLsb' lo (hi + 1 - lo)).toNat

/-- Bits hi:lo of a number. -/
def nbits (v hi lo : Nat) : Nat := (v >>> lo) % 2 ^ (hi + 1 - lo)

/-- One bit of a word. -/
def bit {w : Nat} (v : BitVec w) (i : Nat) : Bool := v.getLsbD i

/-- A Boolean as a number. -/
def b2n (b : Bool) : Nat := if b then 1 else 0

/-- The number `v` placed at bit `lo`, as part of a word: fields are added together. -/
def fld (lo v : Nat) : Nat := v <<< lo

/-- A two's complement reading of the low `w` bits of a number. -/
def signed (w v : Nat) : Int := (BitVec.ofNat w v).toInt

/-- A flag byte with bit `i` set when `b`. -/
def flagBit (i : Nat) (b : Bool) : Byte := if b then BitVec.ofNat 8 (2 ^ i) else 0

/-- The 64 bytes of a 512-bit line, the lowest first. -/
def lineBytes (v : BitVec 512) : List Byte := (List.range 64).map (fun i => v.extractLsb' (8 * i) 8)

/-- The 512-bit line that up to 64 bytes spell, zeros above. -/
def bytesLine (bs : List Byte) : BitVec 512 := BitVec.ofNat 512 (ofLE (bs.take 64))

/-- A number as words of `w` bits, the lowest first. -/
def chunk (w n v : Nat) : List Nat :=
  match n with
  | 0 => []
  | k + 1 => v % 2 ^ w :: chunk w k (v >>> w)

/-- The number that words of `w` bits spell, the lowest first. -/
def unchunk (w : Nat) (l : List Nat) : Nat :=
  match l with
  | [] => 0
  | x :: r => x % 2 ^ w + (unchunk w r) <<< w

/-- Whether bit `i` of a mask kept as a number is set. -/
def has (m i : Nat) : Bool := m.testBit i

/-- The mask with bit `i` set. -/
def setBit (m i : Nat) : Nat := m ||| 2 ^ i

/-- The mask with bit `i` clear. -/
def clrBit (m i : Nat) : Nat := if m.testBit i then m - 2 ^ i else m

/-- How many of the bits below `n` are set. -/
def popCount (n m : Nat) : Nat := ((List.range n).filter (fun i => m.testBit i)).length

/-- The times of a list that lie within the last `span` ns, and the present one. -/
def within (now span : Nat) (l : List Nat) : List Nat := l.filter (fun t => decide (now < t + span)) ++ [now]

/-- Division rounded up. -/
def ceilDiv (a b : Nat) : Nat := (a + b - 1) / b

/-- Splits a list of bytes into pieces of at most `n`. `fuel` is a bound on the number of pieces. -/
def pieces {α : Type} (fuel n : Nat) (l : List α) : List (List α) :=
  match fuel with
  | 0 => []
  | k + 1 => if l.isEmpty then [] else l.take n :: pieces k n (l.drop n)

end Sys2Proof.Machine
end

