-- ==== Sys2Proof/Machine/Mesh.lean ====
section
/-!
DEFINITION. The shape of the die network: coordinates, endpoint addresses and ports (R104, R105, R112, R113), and the numbers and sizes of
its credit pools (Table 5.10).
-/

namespace Sys2Proof.Machine

/-! ## Coordinates -/

/-- Column and row of router r = 64 gy + gx in the module mesh (R104). -/
def rGx (r : Nat) : Nat := r % 64
def rGy (r : Nat) : Nat := r / 64
def rAt (gx gy : Nat) : Nat := 64 * gy + gx

/-- Router n of partition p (R104). -/
def epRouter (p n : Nat) : Nat :=
  rAt (16 * (p / 4 % 4) + 8 * (p % 4 / 2) + n % 8) (16 * (p / 16) + 8 * (p % 2) + n / 8)

/-- The die of router r = 64 gy + gx (R104). -/
def dieOfRouter (r : Nat) : Nat := 4 * (r / 64 / 16) + r % 64 / 16

/-- The partition a router belongs to and its number in it. -/
def routerEp (r : Nat) : Nat × Nat :=
  let c := rGx r % 16
  let w := rGy r % 16
  (4 * (4 * (rGy r / 16) + rGx r / 16) + w / 8 + 2 * (c / 8), 8 * (w % 8) + c % 8)

/-- The unit a router serves; routers 61 to 63 serve the controllers and the barrier block (Table 5.1). -/
def routerUnit (r : Nat) : Option Nat := let e := routerEp r; if e.2 < 61 then some (61 * e.1 + e.2) else none
/-- The router of a unit. -/
def unitRouter (u : Nat) : Nat := epRouter (u / 61) (u % 61)

/-- Ports, numbered as Table 5.5 orders their bits. -/
def RPort.num (x : RPort) : Nat := match x with | .loc => 0 | .north => 1 | .east => 2 | .south => 3 | .west => 4

/-- The router beyond a port; none beyond the edge of the mesh. -/
def neighbor (r port : Nat) : Option Nat :=
  match port with
  | 1 => if 0 < rGy r then some (r - 64) else none
  | 2 => if rGx r < 63 then some (r + 1) else none
  | 3 => if rGy r < 63 then some (r + 64) else none
  | 4 => if 0 < rGx r then some (r - 1) else none
  | _ => none

/-- The port by which the neighbour beyond a port receives. -/
def facing (port : Nat) : Nat := match port with | 1 => 3 | 3 => 1 | 2 => 4 | 4 => 2 | _ => 0

/-- The port toward router t: first along gx, then along gy; 0 at t itself (R112). -/
def stepTo (r t : Nat) : Nat :=
  if rGx r < rGx t then 2 else if rGx t < rGx r then 4 else if rGy r < rGy t then 3 else if rGy t < rGy r then 1 else 0

/-- The gateway of an I/O die for a flit at router r, and the port by which a flit leaves it (R113). -/
def ioGate (r io : Nat) : Nat :=
  match io with | 0 => rAt (rGx r) 0 | 1 => rAt 63 (rGy r) | 2 => rAt (rGx r) 63 | _ => rAt 0 (rGy r)
def ioPort (io : Nat) : Nat := match io with | 0 => 1 | 1 => 2 | 2 => 3 | _ => 4

/-- The router a destination address stands for at router r: its own, or the gateway of its I/O die (R105, R113). -/
def destRouter (r dst : Nat) : Nat := if dst < 4096 then dst else ioGate r (dst / 1024 % 4)

/-! ## Pools (Table 5.10) -/

/-- The input buffer of router r at a port for a VC and LEG. -/
def bufPool (r port vc leg : Nat) : Nat := ((r * 5 + port) * 4 + vc) * 2 + leg
/-- The churn input window of an entry at an input. -/
def churnPool (r port cid g : Nat) : Nat := 2 ^ 27 + ((r * 5 + port) * 256 + cid) * 4096 + g

/-- The buffer of the UCIe adapter beyond the outward port of an edge router. -/
def adapterPool (r port vc leg : Nat) : Nat := 2 ^ 20 + bufPool r port vc leg
/-- The input of partition p's barrier block on the express link from the west, the east, the north or the south (0 to 3). -/
def expressPool (p side : Nat) : Nat := 163840 + 4 * p + side

/-- The queue of a unit, the event queue of scalar tile k, and channel ch of vector tile kv, as pools (Table 5.10). -/
def queuePool (u : Nat) : Nat := 2 ^ 21 + u
def eventPool (k : Nat) : Nat := 2 ^ 21 + 4096 + k
def streamPool (kv ch : Nat) : Nat := 2 ^ 21 + 8192 + 4 * kv + ch

/-- Slots of a pool: 4, and 16 at a seam port or a UCIe adapter; 4 of an express link; 8 of a churn window; those of queues and channels. -/
def poolSize (id : Nat) : Nat :=
  if 2 ^ 27 ≤ id then 8
  else if 2 ^ 21 + 8192 ≤ id then 128
  else if 2 ^ 21 + 4096 ≤ id then 256
  else if 2 ^ 21 ≤ id then (if (id - 2 ^ 21) % 61 < 38 then 32 else 16)
  else if 2 ^ 20 ≤ id then 16
  else if 163840 ≤ id then 4
  else
    let r := id / 40
    let c := rGx r % 16
    let w := rGy r % 16
    match id / 8 % 5 with
    | 1 => if w = 0 then 16 else 4
    | 2 => if c = 15 ∨ c = 7 then 16 else 4
    | 3 => if w = 15 then 16 else 4
    | 4 => if c = 0 ∨ c = 8 then 16 else 4
    | _ => 4

/-- Router and port of the buffer a pool is. -/
def poolSite (id : Nat) : Nat × Nat :=
  if 2 ^ 27 ≤ id then ((id - 2 ^ 27) / 4096 / 256 / 5, (id - 2 ^ 27) / 4096 / 256 % 5)
  else if 2 ^ 21 + 8192 ≤ id then (let k := (id - 2 ^ 21 - 8192) / 4; (epRouter (k / 19) (38 + k % 19), 0))
  else if 2 ^ 21 + 4096 ≤ id then (let k := id - 2 ^ 21 - 4096; (epRouter (k / 4) (57 + k % 4), 0))
  else if 2 ^ 21 ≤ id then (unitRouter (id - 2 ^ 21), 0)
  else if 2 ^ 20 ≤ id then ((id - 2 ^ 20) / 40, (id - 2 ^ 20) / 8 % 5)
  else if 163840 ≤ id then (epRouter ((id - 163840) / 4 % 64) 63, 0)
  else (id / 40, id / 8 % 5)

/-- What an endpoint address with bit 12 set names on its I/O die (R105). -/
inductive IoEnd | mgmt | host | far | fab (j : Nat)
  deriving DecidableEq, Repr

/-- The I/O endpoint of an address: bits 9:8 are zero and bits 7:0 hold one of the values of R105; every other value is reserved. -/
def ioEndOf (dst : Nat) : Option IoEnd :=
  let b := dst % 256
  if dst < 4096 ∨ 8192 ≤ dst ∨ dst / 256 % 4 ≠ 0 then none
  else if b = 0 then some .mgmt
  else if b = 0x10 then some .host
  else if b = 0x20 then some .far
  else if 0x30 ≤ b ∧ b < 0x38 then some (.fab (b - 0x30))
  else none

/-- The outward port of router r toward I/O die io leads there: the router stands on that edge of the mesh. -/
def atEdge (r io : Nat) : Bool :=
  match io with | 0 => rGy r == 0 | 1 => rGx r == 63 | 2 => rGy r == 63 | _ => rGx r == 0

/-- Where a flit from an I/O die enters the mesh: at the gateway in its destination's column (IO0, IO2) or row (IO1, IO3) (R113). -/
def entersAt (r port : Nat) (src dst : Nat) : Bool :=
  let io := src / 1024 % 4
  decide (4096 ≤ src) && port == ioPort io && atEdge r io &&
    (decide (4096 ≤ dst) || (if io % 2 = 0 then rGx r == rGx dst else rGy r == rGy dst))

/-- The routers a flit visits from r to t, t among them: first along gx, then along gy (R112). -/
def walk (fuel r t : Nat) : List Nat :=
  match fuel with
  | 0 => [r]
  | n + 1 => match neighbor r (stepTo r t) with
    | none => [r]
    | some m => r :: walk n m t

/-- Partitions as blocks of columns and rows of the mesh (R104), and their place in the 8 × 8 grid of barrier blocks. -/
def blockX (p : Nat) : Nat := rGx (epRouter p 0)
def blockY (p : Nat) : Nat := rGy (epRouter p 0)
/-- The partition at a place of that grid. -/
def partAt (x y : Nat) : Nat := (routerEp (rAt (8 * x) (8 * y))).1

/-- The express hops from the barrier block of partition p to that of q, along the row and then the column (DESIGN CHOICE,
assumption 204): the pool each flit enters (R119). -/
def expressHops (fuel p q : Nat) : List Nat :=
  match fuel with
  | 0 => []
  | n + 1 =>
    let x := blockX p / 8
    let y := blockY p / 8
    let u := blockX q / 8
    let v := blockY q / 8
    if x < u then expressPool (partAt (x + 1) y) 0 :: expressHops n (partAt (x + 1) y) q
    else if u < x then expressPool (partAt (x - 1) y) 1 :: expressHops n (partAt (x - 1) y) q
    else if y < v then expressPool (partAt x (y + 1)) 2 :: expressHops n (partAt x (y + 1)) q
    else if v < y then expressPool (partAt x (y - 1)) 3 :: expressHops n (partAt x (y - 1)) q
    else []

/-- The port of the mesh that the express link into a side leaves its partition by, and a router of that partition there. -/
def expressFrom (id : Nat) : Nat × Nat :=
  let p := (id - 163840) / 4
  match (id - 163840) % 4 with
  | 0 => (rAt (blockX p - 1) (blockY p), 2)
  | 1 => (rAt (blockX p + 8) (blockY p), 4)
  | 2 => (rAt (blockX p) (blockY p - 1), 3)
  | _ => (rAt (blockX p) (blockY p + 8), 1)

/-- The crossing between an endpoint's island and its router: that of a unit or of a memory controller (R131). The barrier block is in the
router's island. -/
def localXing (r : Nat) : Option Nat :=
  let e := routerEp r
  if e.2 < 61 then some (61 * e.1 + e.2)
  else if e.2 < 63 then some (3936 + 2 * e.1 + (e.2 - 61))
  else none

/-- The crossing a link out of router r passes: the UCIe adapter of that edge of the die, or the seam between the half-planes. -/
def linkXing (r port : Nat) : Option Nat :=
  let c := rGx r % 16
  let w := rGy r % 16
  let d := dieOfRouter r
  match port with
  | 1 => if w = 0 then some (4064 + 4 * d) else none
  | 2 => if c = 15 then some (4064 + 4 * d + 1) else if c = 7 then some (3904 + 2 * d + 1) else none
  | 3 => if w = 15 then some (4064 + 4 * d + 2) else none
  | 4 => if c = 0 then some (4064 + 4 * d + 3) else if c = 8 then some (3904 + 2 * d) else none
  | _ => none

/-- The crossings a flit passes into the input of router r at a port: that of the endpoint at the local port; at another, the adapter or
the seam it left by, and at the edge of a die the adapter of r too (R25, R131). -/
def landXings (r port : Nat) : List Nat :=
  if port = 0 then (localXing r).toList
  else
    let own := (linkXing r port).toList
    match neighbor r port with
    | none => own
    | some n => if dieOfRouter n = dieOfRouter r then (linkXing n (facing port)).toList else (linkXing n (facing port)).toList ++ own

/-- The crossings of the express link into a side of a partition: a seam, or the adapters of a die edge (R119, R131). -/
def expressXings (id : Nat) : List Nat :=
  let e := expressFrom id
  match neighbor e.1 e.2 with
  | none => []
  | some r => landXings r (facing e.2)

/-- Where flits go into a crossing: the router and the port out of it. 0 is the local port: that of an endpoint below 3904 or of a memory
controller below 4064. -/
def xingSites (x : Nat) : List (Nat × Nat) :=
  if x < 3904 then [(unitRouter x, 0)]
  else if x < 3936 then
    let d := (x - 3904) / 2
    let east := (x - 3904) % 2 = 1
    (List.range 16).map (fun i => (rAt (16 * (d % 4) + (if east then 7 else 8)) (16 * (d / 4) + i), if east then 2 else 4))
  else if x < 4064 then [(epRouter ((x - 3936) / 2) (61 + (x - 3936) % 2), 0)]
  else
    let d := (x - 4064) / 4
    (List.range 16).map (fun i => match (x - 4064) % 4 with
      | 0 => (rAt (16 * (d % 4) + i) (16 * (d / 4)), 1)
      | 1 => (rAt (16 * (d % 4) + 15) (16 * (d / 4) + i), 2)
      | 2 => (rAt (16 * (d % 4) + i) (16 * (d / 4) + 15), 3)
      | _ => (rAt (16 * (d % 4)) (16 * (d / 4) + i), 4))

/-- The pools of the buffers behind a crossing: of the next routers, or of the adapter (Table 5.10). None is behind that of an endpoint. -/
def xingPools (x : Nat) : List Nat :=
  (xingSites x).flatMap (fun e => if e.2 = 0 then [] else (List.range 8).map (fun k =>
    match neighbor e.1 e.2 with
    | some n => bufPool n (facing e.2) (k / 2) (k % 2)
    | none => adapterPool e.1 e.2 (k / 2) (k % 2)))

/-! ## Flits on the wires (R107, R108, R120) -/

/-- The control word of a flit (Table 5.2). -/
def flitControl (f : Flit) : BitVec 104 :=
  let w : BitVec 96 := BitVec.ofNat 96 (fld 83 (f.dst % 8192) + fld 70 (f.src % 8192) + fld 58 (f.wpt % 4096) + fld 57 (b2n f.leg) +
    fld 55 (f.vc % 4) + fld 51 (f.kind % 16) + fld 48 (f.fidx % 8) + fld 47 (b2n f.tail) + fld 31 f.gen.toNat + fld 19 (f.group % 4096) +
    fld 16 (f.op % 8) + fld 15 (b2n f.last) + fld 3 (f.xid % 4096) + fld 2 (b2n f.poison))
  Config.secded w ++ w

/-- One even-parity bit for each of the eight payload words, word 0 in bit 0; a bit is wrong where the word fails its parity. -/
def flitParity (f : Flit) : BitVec 8 :=
  BitVec.ofNat 8 ((List.range 8).foldl (fun a i =>
    if popCount 64 (bits f.payload (64 * i + 63) (64 * i)) % 2 = 1 then setBit a i else a) 0) ^^^ f.parityBad

/-- The 640-bit link word that carries a flit between dies: payload, parity, control word and CRC-16, payload lowest (R120,
assumption 174). -/
def linkWord (f : Flit) : BitVec 640 :=
  let w : BitVec 624 := (flitControl f ++ flitParity f) ++ f.payload
  Config.linkCrc w ++ w

end Sys2Proof.Machine
end

