-- ==== Sys2Proof/Machine/State/Units.lean ====
section
/-!
DEFINITION. State of partitions, matrix engines, vector tiles, scalar tiles and barriers (chapters 1, 3, 4). The default
value of each field is its value at reset.
-/

namespace Sys2Proof.Machine

/-- Partition states (R26, Table 1.18). -/
inductive PState | offline | free | claimed | bound | degraded
  deriving DecidableEq, Repr

/-- Why a partition that is OFFLINE or on its way there may not rejoin yet (R200, R385, R386). -/
inductive PHold | thermal | trip | coolant
  deriving DecidableEq, Repr

/-- A partition (R16-R18, R24, R26, R31). -/
structure Part where
  st : PState := .offline
  gen : Word16 := 0
  cid : Nat := 0
  /-- Logical partition in its composition while CLAIMED or BOUND. -/
  lp : Nat := 0
  logicOn : Bool := false
  retOn : Bool := false
  /-- Spare map: logical engine to physical (R17). -/
  meMap : List Nat := List.range 36
  /-- Spare map: logical vector tile to physical (R17). -/
  vtMap : List Nat := List.range 18
  meSpare : List Nat := [36, 37]
  vtSpare : List Nat := [18]
  meRet : Nat := 0
  vtRet : Nat := 0
  stRet : Nat := 0
  barrierBlockOk : Bool := true
  /-- What holds the partition OFFLINE; it rejoins once nothing does. -/
  holds : List PHold := []
  deriving DecidableEq, Repr

/-- State of a unit as its STATUS register shows it (R75, R103). -/
inductive UState | idle | run | stopping | stopped | halted | fenced | reset | trapped
  deriving DecidableEq, Repr

/-- An entry of a unit's range cache (R223): the copied range entry, its index and epoch, and the transfers
outstanding under it. -/
structure CacheEnt where
  idx : Nat
  epoch : Nat
  entry : BitVec 256
  out : Nat := 0
  /-- An invalidation arrived and the drain is not yet acknowledged (R230). -/
  dropped : Bool := false
  deriving DecidableEq, Repr

/-- A miss a unit holds an access for (R226). -/
structure Miss where
  xid : Nat
  va : Nat
  len : Nat
  /-- 0 read, 1 write, 2 atomic, 3 conversion of a pointer. -/
  acc : Nat
  /-- The XLT core the miss has gone to (R222). -/
  core : Option Nat := none
  deriving DecidableEq, Repr

/-- A transfer a unit has issued outside the module and that is outstanding: to a HOST range of a port that does not
answer (R309), to a PEER range (R224), or to a far port (R212). -/
structure ExtWait where
  peer : Bool := false
  /-- The transfer is outstanding on far port `port`. -/
  far : Bool := false
  port : Nat := 0
  /-- Payload units a PEER read still waits for. -/
  need : Nat := 0
  data : List (BitVec 512) := []
  deriving DecidableEq, Repr

/-- What every unit of a partition has: a matrix engine, a vector tile or a scalar tile, numbered 61 n + k (R389). -/
structure UnitC where
  st : UState := .idle
  xid : Nat := 0
  gen : Word16 := 0
  retired : Bool := false
  /-- Retired twice, or for its FMAX: never returns (R407). -/
  noReturn : Bool := false
  retiredOnce : Bool := false
  fenced : Bool := false
  /-- The router has closed the unit's local port (R117, R396). -/
  portClosed : Bool := false
  /-- Times of the engine steps within the last 24 h (R392). -/
  steps24 : List Nat := []
  /-- NP_US of the work running on the unit's stage (R248). -/
  npUs : Nat := 0
  stop : Bool := false
  /-- Most recently used first (R223). -/
  cache : List CacheEnt := []
  miss : Option Miss := none
  ext : Option ExtWait := none
  deriving DecidableEq, Repr

/-- One 64-byte command or launch-queue entry. -/
abbrev Cmd := BitVec 512

/-- Rows of scratchpad bytes that a command reads or writes. -/
structure Span where
  base : Nat
  stride : Nat
  rows : Nat
  bytes : Nat
  wr : Bool
  deriving DecidableEq, Repr

/-- A command that has left the queue head (R59): its place in queue order and its progress (R71). -/
structure Run where
  cmd : Cmd
  seq : Nat
  /-- K-steps, EPI rows or DMA rows done. -/
  done : Nat := 0
  flags : Byte := 0
  amax : Word32 := 0
  /-- The effects are done and the command waits only to complete. -/
  fin : Bool := false
  /-- A collective transfer that still waits for acknowledgements (R123). -/
  acks : Nat := 0
  /-- Rows that commands not ordered with this one share with it: the bytes take free values (R61). -/
  haz : List Span := []
  deriving DecidableEq, Repr

/-- One unit of an engine: an executing and a pending command (R59). -/
structure UnitQ where
  exe : Option Run := none
  pend : Option Run := none
  deriving DecidableEq, Repr

/-- An entry of a live map (R57). -/
structure LiveEnt where
  valid : Bool := false
  base : Nat := 0
  len : Nat := 0
  deriving DecidableEq, Repr

/-- Soft start of an engine's array (R97, R98). -/
inductive Soft | none | hold | ramp
  deriving DecidableEq, Repr

/-- A matrix engine (R54-R61, R75), by physical number 38 n + e. -/
structure Engine where
  sp : Bytes := []
  /-- Element (i, j) of slot s at key 4096 s + 64 i + j. -/
  acc : Map Word32 := []
  /-- Bit s: slot s is live (R56). -/
  live : Nat := 0
  /-- Bit s: a command on slot s has left the head since reset or restore (R69). -/
  qSeen : Nat := 0
  /-- Bit s: slot s counts as live by queue order (R69). -/
  qLive : Nat := 0
  lmap : Map LiveEnt := []
  queue : List Cmd := []
  arr : UnitQ := {}
  epi : UnitQ := {}
  dma : UnitQ := {}
  seq : Nat := 0
  cnt : Map Word32 := []
  halted : Bool := false
  cmdErr : Word64 := 0
  flags : Byte := 0
  macs : Word64 := 0
  arrBusy : Word64 := 0
  soft : Soft := .none
  /-- ENGINE record of the culture, 16 bytes (R144); zero when none is loaded. -/
  cfg : BitVec 128 := 0
  /-- Queue credits the issuer holds (R58). -/
  cred : Nat := 32
  /-- Completion records that wait for a posting credit (R91). -/
  posts : List (BitVec 128) := []
  deriving DecidableEq, Repr

/-- A launch running on a vector tile (R84). -/
structure Launch where
  cmd : Cmd
  flags : Byte := 0
  /-- The program has ended: END has run, or the launch is refused. -/
  ended : Bool := false
  /-- Code of Table 3.8 that the launch is refused with; 0 for none (R84). -/
  err : Nat := 0
  deriving DecidableEq, Repr

/-- What a vector tile waits for (R80, R86). -/
inductive VWait | none | srd | waitc | fence
  deriving DecidableEq, Repr

/-- A transfer started by XDMA or KDMA: its descriptor and the rows done. -/
structure Xfer where
  d : BitVec 256
  done : Nat := 0
  deriving DecidableEq, Repr

/-- A vector tile (R77, R84-R86, R102), by physical number 19 p + v. -/
structure VTile where
  v : Map (BitVec 4096) := []
  m : Map (BitVec 128) := []
  a : Map Word64 := []
  cnt : Map Word32 := []
  pc : Nat := 0
  lm : Bytes := []
  queue : List Cmd := []
  launch : Option Launch := none
  wait : VWait := .none
  xfers : List Xfer := []
  lmap : Map LiveEnt := []
  halted : Bool := false
  cmdErr : Word64 := 0
  flags : Byte := 0
  fmas : Word64 := 0
  busy : Word64 := 0
  /-- Flits in flight to channel c, oldest first (R85). -/
  scFly : Map (List (BitVec 512)) := []
  /-- Flits in the FIFO of channel c, oldest first. -/
  sc : Map (List (BitVec 512)) := []
  /-- Credits the bound epilogue unit holds for channel c, 128 when empty (R85). -/
  scCred : Map Nat := []
  /-- VTILE record (R146); zero when none is loaded. -/
  cfg : BitVec 128 := 0
  loaded : Bool := false
  cred : Nat := 16
  posts : List (BitVec 128) := []
  deriving DecidableEq, Repr

/-- What a scalar tile waits for (R89, R92, R95, R99). -/
inductive KWait | none | kissue | kevwait | kcwait | kbar (b : Nat) | kdrain | kpcvt
  deriving DecidableEq, Repr

/-- A scalar tile (R88, R91, R93, R103), by number 4 p + t. -/
structure STile where
  x : Map Word64 := []
  f : Map Word64 := []
  fcsr : Word32 := 0
  pc : Word64 := 0
  lm : Bytes := []
  user : Bool := false
  kpst : Word16 := 0
  evq : List (BitVec 128) := []
  /-- Free posting credits of the event queue (R91). -/
  evCred : Nat := 256
  wait : KWait := .none
  /-- Bit b: this tile has arrived at barrier b and its release is outstanding (R99). -/
  arrived : Nat := 0
  /-- Commands this tile has issued, and those completed, since its work started (R89 KDRAIN). -/
  issued : Nat := 0
  completed : Nat := 0
  xfers : List Xfer := []
  cause : Nat := 0
  tval : Word64 := 0
  lmap : Map LiveEnt := []
  /-- STILE record, 32 bytes (R147); zero when none is loaded. -/
  cfg : BitVec 256 := 0
  loaded : Bool := false
  /-- a0 bits 15:0 of the ECALL that ended this tile's part of the work (R250). -/
  ended : Option Nat := none
  deriving DecidableEq, Repr

/-- A barrier of a composition (R95, R96, R152), by key 32 cid + b. -/
structure Barrier where
  defined : Bool := false
  root : Nat := 0
  /-- Member scalar tiles, as lrefs. -/
  members : List Nat := []
  /-- Member engines, as lrefs, with the counter a release advances. -/
  engs : List (Nat × Nat) := []
  phase : Bool := false
  count : Nat := 0
  /-- Arrivals on their way to the root (R95). -/
  arriving : Nat := 0
  /-- The partitions they come from, oldest first (R119). -/
  src : List Nat := []
  broken : Bool := false
  /-- Tiles that wait, by number 4 p + t. -/
  waiting : List Nat := []
  /-- Partitions a release has not reached yet. -/
  toRelease : List Nat := []
  deriving DecidableEq, Repr

/-- An engine state record (R72, Table 3.12). -/
structure EngSave where
  halted : Bool
  queue : List Cmd
  slots : Map Word32
  slotMask : Nat
  cnt : Map Word32
  lmap : Map LiveEnt
  live : Bytes
  cmdErr : Word64
  arrRun : Option Run
  epiRun : Option Run
  dmaRun : Option Run
  /-- Completion records that wait for a posting credit (assumption 26). -/
  posts : List (BitVec 128)
  deriving DecidableEq, Repr

/-- A vector tile state record (R100, Table 4.11). -/
structure VtSave where
  halted : Bool
  launch : Option Launch
  pc : Nat
  cnt : Map Word32
  cmdErr : Word64
  a : Map Word64
  m : Map (BitVec 128)
  lmap : Map LiveEnt
  v : Map (BitVec 4096)
  queue : List Cmd
  sc : Map (List (BitVec 512))
  xfers : List Xfer
  live : Bytes
  posts : List (BitVec 128)
  deriving DecidableEq, Repr

/-- A scalar tile state record (R101, Table 4.12). -/
structure StSave where
  trapped : Bool
  pc : Word64
  arrived : Nat
  fcsr : Word32
  x : Map Word64
  f : Map Word64
  kpst : Word16
  lmap : Map LiveEnt
  evq : List (BitVec 128)
  live : Bytes
  issued : Nat
  completed : Nat
  xfers : List Xfer
  ended : Option Nat
  /-- Queue credits held for each unit the tile issues to, in the order of their indices. -/
  creds : List Nat
  /-- The barrier the tile waited at, if any (assumption 33). -/
  barWait : Option Nat
  deriving DecidableEq, Repr

/-- A unit's record in a save area (R243). -/
inductive Save
  | none
  | eng (r : EngSave)
  | vt (r : VtSave)
  | st (r : StSave)
  deriving DecidableEq, Repr

end Sys2Proof.Machine
end

