-- ==== Sys2Proof/Machine/State/Mem.lean ====
section
/-!
DEFINITION. State of the memory tiers and of address translation (chapters 8 and 9).
-/

namespace Sys2Proof.Machine

/-- A sector of a channel (R190, R192): 64 stored bytes, its check entry, and the key and tweak it was written under.
The data of a sealed sector is the plaintext; its stored bytes are the cipher of it (assumption 13). -/
structure Sector where
  data : BitVec 512 := 0
  check : Word32 := 0
  /-- Key number (R338) and tweak (R207) of an encrypted sector. -/
  sealed : Option (Nat × BitVec 128) := none
  deriving DecidableEq, Repr

/-- Channel states (Table 8.14). -/
inductive ChState | off | training | test | ready | fenced | failed
  deriving DecidableEq, Repr

/-- A request that waits in a controller's transaction table for its key (R205, R208). -/
structure MemReq where
  ch : Nat
  off : Nat
  keysel : Nat
  cls : Nat
  /-- 0 read, 1 write, 2 partial write. -/
  op : Nat
  data : BitVec 512
  mask : BitVec 512
  err : ReadErr
  aged : Bool := false
  deriving DecidableEq, Repr

/-- A memory channel (R189, R213), by module channel number 8 n + k. -/
structure Chan where
  secs : Map Sector := []
  st : ChState := .off
  pprUsed : Nat := 0
  /-- Rows queued for repair (R196). -/
  rows : List Nat := []
  /-- Times of the corrected reads of a row within 24 h (R196). -/
  corr : Map (List Nat) := []
  ce : Word32 := 0
  ue : Nat := 0
  ueAddr : Option Nat := none
  budget : List Nat := [24, 12, 8, 12, 8]
  demoted : Word64 := 0
  rdBytes : List Word64 := [0, 0, 0, 0, 0]
  wrBytes : List Word64 := [0, 0, 0, 0, 0]
  /-- Requests in the transaction table that wait (R205). -/
  waiting : List MemReq := []
  /-- Requests the router holds while the transaction table of the package is full, oldest first (R205). -/
  backlog : List MemReq := []
  /-- Next sector of the patrol (R195): blocks of 15 data sectors and their check sector. -/
  patrol : Nat := 0
  deriving DecidableEq, Repr

/-- Far-port states (Table 8.11). -/
inductive FarState | down | training | config | ready
  deriving DecidableEq, Repr

/-- A far port (R211, R214). -/
structure Far where
  st : FarState := .down
  gen : Word16 := 0
  width : Nat := 0
  rate : Nat := 0
  capGib : Nat := 0
  ide : Bool := false
  disPend : Bool := false
  enable : Bool := false
  ideReq : Bool := true
  poisonRd : Word32 := 0
  linkDown : Nat := 0
  retrain : Nat := 0
  rdBytes : Word64 := 0
  wrBytes : Word64 := 0
  /-- Counts of what the present link has carried: requests sent, and those whose credit has come back (R212). -/
  sent : Word32 := 0
  credRcvd : Word32 := 0
  /-- The expander's poison list, by far sector, as read at configuration (Table 8.10). -/
  poison : List Nat := []
  present : Bool := false
  /-- REFCLK_OUT and PERST_N of the port have been given (R436). -/
  refOut : Bool := false
  secs : Map Sector := []
  deriving DecidableEq, Repr

/-- State of a range-table slot (R221). -/
inductive RState | invalid | valid | withdrawing
  deriving DecidableEq, Repr

/-- A slot of a range table, by key 4096 xid + index (R216, R221). -/
structure RSlot where
  st : RState := .invalid
  epoch : Nat := 0
  entry : BitVec 256 := 0
  deriving DecidableEq, Repr

/-- A withdrawal in progress (R230). -/
structure Withdraw where
  xid : Nat
  idx : Nat
  /-- Units that have not received the invalidation. -/
  toSend : List Nat
  /-- Units that have not acknowledged. -/
  waitFor : List Nat
  req : Request
  deriving DecidableEq, Repr

/-- A fault that waits to be written as a record (R231). -/
structure Fault0 where
  cid : Nat
  status : Nat
  kind : Nat
  fatal : Bool
  write : Bool
  atomic : Bool
  xid : Nat
  unit : Nat
  index : Nat
  epoch : Nat
  addr : Nat
  info : Nat
  deriving DecidableEq, Repr

/-- A composition's fault queue (R233, R234, R237). -/
structure FaultQ where
  /-- XLT_FQ_BASE, in 64 KiB units; 0 is no queue. -/
  base : Nat := 0
  tail : Nat := 0
  head : Nat := 0
  ovf : Bool := false
  /-- Index the OVERFLOW record was written at. -/
  ovfAt : Nat := 0
  lost : Nat := 0
  seq : Word64 := 0
  deriving DecidableEq, Repr

/-- Translation: tables, withdrawals, fault queues, counters (R221-R237). -/
structure Xlt where
  slots : Map RSlot := []
  wds : List Withdraw := []
  fqs : Map FaultQ := []
  /-- Lost-fault counter of an XID (R235). -/
  lostX : Map Word64 := []
  /-- Faults detected and not yet written. -/
  faults : List Fault0 := []
  misses : Word64 := 0
  ctxSel : Nat := 0
  deriving DecidableEq, Repr

/-- Where a golden copy lies (R154, R197). -/
structure WSet where
  digest : Digest := 0
  len : Nat := 0
  va : Nat := 0
  golden : Nat := 0
  addr : Nat := 0
  poisoned : Bool := false
  /-- Failed reloads of the present poisoning (R197). -/
  fails : Nat := 0
  deriving DecidableEq, Repr

end Sys2Proof.Machine
end

