-- ==== Sys2Proof/Machine/State/Comp.lean ====
section
/-!
DEFINITION. State of cultures, compositions, state tokens, contexts, work, the journal, the firmware and recovery
(chapters 6, 7, 10, 17, 18).
-/

namespace Sys2Proof.Machine

/-- A frame of a culture (R137, R141): TYPE, KEY and its bytes. -/
structure Frm where
  typ : Nat
  key : Nat
  body : List Byte
  deriving DecidableEq, Repr

/-- A culture that passed validation stages 1 to 8, as staged (R136, R168). -/
structure Culture where
  handle : Nat
  part : Bool
  flags : Nat
  lparts : Nat
  signer : Digest
  base : Digest
  digest : Digest
  frames : List Frm
  /-- Culture store named at STAGE: kind (0 HOST, 1 FAR), address, length (R169). -/
  kind : Nat
  addr : Nat
  len : Nat
  port : Nat
  deriving DecidableEq, Repr

/-- A placement group (R142): its kind and first logical partition. -/
structure Grp where
  kind : Nat
  first : Nat
  deriving DecidableEq, Repr

/-- Composition states (Table 7.2). -/
inductive CState | free | binding | active | rebinding | quiescing | reshaping | impaired | unbinding
  deriving DecidableEq, Repr

/-- What a composition is in the middle of (R170, R174, R178, R185, R446). -/
inductive OpKind | bind | fast | slow | repair | unbind | restore
  deriving DecidableEq, Repr

/-- An operation of a composition in progress. -/
structure CompOp where
  kind : OpKind
  req : Request
  /-- REBIND_BEGIN is durable (R174). -/
  begun : Bool := false
  prepared : Bool := false
  /-- UNBIND asked for FORCE. -/
  force : Bool := false
  /-- Switch batch s (R174). None while no descriptor has been read since the oldest batch was last unset: every later one is of
  batch s or after it (assumption 46). -/
  s : Option Nat := none
  /-- New logical partition to physical partition, of groups being added, moved or placed afresh. -/
  targets : List (Nat × Nat) := []
  /-- First logical partitions of groups moved, removed and added. -/
  moved : List Nat := []
  removed : List Nat := []
  added : List Nat := []
  /-- Groups whose frames or collective entries change. -/
  changed : List Nat := []
  /-- Frame loads still to do: physical partition, TYPE, KEY (R156). -/
  loads : List (Nat × Nat × Nat) := []
  /-- Stages the work of batches before s has left. -/
  drained : List Nat := []
  copied : List Nat := []
  newFrames : List Frm := []
  newGroups : List Grp := []
  newLparts : Nat := 0
  newEff : Digest := 0
  newLen : Nat := 0
  /-- Physical partitions to release at END. -/
  release : List Nat := []
  cause : Nat := 0
  /-- Groups to be placed: KIND, first logical partition, TARGET (R162). -/
  want : List (Nat × Nat × Nat) := []
  /-- Digest and length of the partial culture. -/
  newDigest : Digest := 0
  newSigner : Digest := 0
  /-- Staging handle of the culture, which a FAB_JOIN may have named. -/
  handle : Nat := 0
  /-- Later UNBIND requests that wait for the same end. -/
  more : List Request := []
  /-- Contexts that were resident on a stage as it was saved for this operation: stage and XID (R176, R178). -/
  savedCtx : List (Nat × Nat) := []
  /-- Its targets are released and ROLLBACK is journaled; the contexts it saved are still to be restored (R175, Table 7.3). -/
  rolled : Bool := false
  /-- DRAIN_LIMIT_MS of the APPLY, and the time at which the wait of a REMOVE for state tokens ends, once it has begun (R168, R177). -/
  drainMs : Nat := 1000
  drainBy : Option Nat := none
  /-- A slow repair has saved every context and claimed its targets (R178, R185). -/
  quiet : Bool := false
  deriving DecidableEq, Repr

/-- A composition record and what the module keeps with it (R166, R171). -/
structure Comp where
  st : CState := .free
  gen : Word16 := 0
  shape : Nat := 0
  flags : Nat := 0
  lparts : Nat := 0
  chain : List Digest := []
  /-- SIGNER_ID of each culture of the chain (R336, Table 14.5). -/
  signers : List Digest := []
  eff : Digest := 0
  /-- Logical partition to physical; an unlisted one is unused (0xFF). -/
  place : Map Nat := []
  storeKind : Nat := 0
  storePort : Nat := 0
  storeAddr : Nat := 0
  storeLen : Nat := 0
  frames : List Frm := []
  groups : List Grp := []
  oldest : Option Nat := none
  /-- A descriptor of the batch after the oldest has been read (R174). -/
  readNext : Bool := false
  op : Option CompOp := none
  /-- Restoring after a module step or a cold power-on (R446). -/
  restoring : Bool := false
  /-- First logical partitions of groups that lost a member (R185). -/
  lostGroups : List Nat := []
  /-- Discard code of the loss, for work held for a repair. -/
  lossCode : Nat := 0
  weights : Map WSet := []
  /-- A committed re-bind has not journaled END; the partitions it still has to release (R174 step 6). -/
  ending : Bool := false
  toRelease : List Nat := []
  deriving DecidableEq, Repr

/-- State of a token record (Table 7.8). -/
inductive TState | none | owned | sending | released | lost
  deriving DecidableEq, Repr

/-- The record of a handoff's sender pool while V's OWNED record is durable and its acknowledgement has not reached S (R181 steps 3 and 4): the
epoch and the pool S, and the TOKEN_MOVE to answer. -/
structure Owed where
  epoch : Nat
  pool : Word64
  req : Request
  deriving DecidableEq, Repr

/-- A state token (R180, Table 7.8): its owner's record, and what earlier owners have still to release. -/
structure Token where
  st : TState := .none
  cid : Nat := 0
  xid : Nat := 0
  epoch : Nat := 0
  pool : Word64 := 0
  peer : Word64 := 0
  off : Nat := 0
  len : Nat := 0
  /-- The TOKEN_MOVE of the handoff in progress. -/
  req : Request := Request.zero
  owed : List Owed := []
  deriving DecidableEq, Repr

/-- Context states (Table 10.2). -/
inductive XState
  | free | idle | waiting | running | switching | parked | quiesced | resetting | teardown
  deriving DecidableEq, Repr

/-- A context (R238-R249). -/
structure Ctx where
  st : XState := .free
  cid : Nat := 0
  client : Nat := 0
  skim : Bool := false
  slot : Nat := 0
  debtUs : Nat := 0
  fctx : Nat := 0
  /-- Records in the save areas, by lref (R243). -/
  saved : Map Save := []
  /-- Discard code of a teardown or the status of a fatal fault. -/
  code : Nat := 0
  /-- CTX_DESTROY to answer at the end of the teardown. -/
  req : Request := Request.zero
  /-- Tenant counters, raw and as last published (R347). -/
  raw : Map Word64 := []
  pub : Map Word64 := []
  deriving DecidableEq, Repr

/-- State of a work item on one of its stages. -/
inductive WState | ready | started | done
  deriving DecidableEq, Repr

/-- An admitted work item (R250-R254). -/
structure Work where
  desc : List Byte
  cid : Nat
  xid : Nat
  skim : Bool
  batch : Nat
  asBatch : Nat
  npUs : Nat
  /-- Its stages, each by the first logical partition of its group (assumption 18). -/
  stages : List Nat
  tokens : List Word64
  port : Nat
  func : Nat
  ring : Nat
  slot : Nat
  readAt : Nat
  boundNs : Nat
  /-- own_s of each stage, in ns (R253). -/
  own : Map Nat
  st : Map WState := []
  result : Nat := 0
  /-- How often its function's rings had been reset when it was read (R314). -/
  era : Nat := 0
  /-- How long it has run on its stages, in ns: switches and waits do not count (R247, R253). -/
  ran : Map Nat := []
  /-- Union of the arithmetic flags of its commands (R305). -/
  flags : Byte := 0
  deriving DecidableEq, Repr

/-- What a stage is doing (R241, R244). -/
inductive SPhase | quiet | saving (xid : Nat) (next : Option Nat) | restoring (xid : Nat)
  deriving DecidableEq, Repr

/-- A stage of a composition (R172, R241-R247), by key 64 cid + first logical partition (assumption 18). -/
structure Stage where
  work : Option Nat := none
  resident : Option Nat := none
  phase : SPhase := .quiet
  /-- Cream budget in ns (R245). -/
  budget : Nat := 0
  /-- The budget reached zero and has not re-accrued (R245). -/
  empty : Bool := false
  /-- Rest of the skim slice, in ns (R247). -/
  sliceLeft : Nat := 0
  /-- Time of a stop request that met a running non-pre-emptible command (R249). -/
  npStop : Option Nat := none
  deriving DecidableEq, Repr

/-- The scheduler (R247, R251, R259). -/
structure Sch where
  works : Map (Option Work) := []
  nextWork : Nat := 0
  stages : Map Stage := []
  /-- Job count J of a client (R247). -/
  jobs : Map Word64 := []
  accept : Map Word64 := []
  refuse : Map Word64 := []
  discard : Map Word64 := []
  miss : Map Word64 := []
  park : Bool := false
  refuseAll : Bool := false
  ctxSel : Nat := 0
  deriving DecidableEq, Repr

/-- Kinds of generation a journal record names (Table 18.7, GEN). -/
inductive GKind | part | unit | far | fab | module | comp
  deriving DecidableEq, Repr

/-- Settings the journal keeps (Table 18.7, SETTING). -/
inductive SKey | pwrCap | warm | secPolicy | fabNode | fabTopo | fabRole (f : Nat) | fabExpect (f : Nat) | debugToken
  deriving DecidableEq, Repr

/-- An enrolled culture signer (R336). -/
structure Signer where
  id : Digest
  rsa : List Byte
  slh : List Byte
  revoked : Bool := false
  deriving DecidableEq, Repr

/-- A journal record, by its TYPE (R420, Tables 7.10 and 18.7). -/
inductive JRec
  | half (epoch : Nat) (first : Word64)
  | snapEnd (chain : Digest)
  | void (first last : Nat)
  | loss (input code : Nat)
  | cause (c : Nat)
  | fwActive (role copy release outcome : Nat)
  | comp (cid : Nat) (c : Comp)
  | bindBegin (cid : Nat) (gen : Word16) (digest : Digest)
  | rebindBegin (cid : Nat) (gen : Word16) (shape : Nat) (base part : Digest) (s : Nat) (fast : Bool)
  | step (cid kind part bytes : Nat)
  | prepared (cid : Nat) (targets : List Nat)
  | commit (cid : Nat) (c : Comp) (repoint : List (Word64 × Word64))
  | rollback (cid cause : Nat)
  | done (cid : Nat)
  | token (t : Word64) (r : Token)
  /-- Tokens packed by compaction, up to 63 (Table 18.7). -/
  | tokens (l : List (Word64 × Token))
  | spareMap (part : Nat) (me vt meSp vtSp : List Nat) (meRet vtRet stRet : Nat) (retired : List Nat)
  | gen (kind : GKind) (id : Nat) (v : Word16)
  | fmax (isl mhz : Nat)
  | repair (chan : Nat) (rows : List Nat)
  | lostFault (xid : Nat) (v : Word64)
  | health (counts retired : List Nat) (restarts : Map Nat)
  | ctx (xid : Nat) (cid : Nat) (gen : Word16) (client : Nat) (skim : Bool) (slot : Nat) (jobs : Word64) (fctx : Nat)
      (quiesced : Bool)
  | ctxEnd (xid : Nat)
  | assign (port func : Nat) (valid : Bool) (cid : Nat) (gen : Word16)
  | fjob (cid fjob rank ranks : Nat) (nodes : List Nat)
  | fjobEnd (cid : Nat)
  | signer (i : Nat) (s : Signer)
  | setting (k : SKey) (v : Nat)
  deriving DecidableEq, Repr

/-- A record as it stands in the log or waits: END is set on the last record of its commit, SNAP on what compaction writes (Table 18.6). -/
structure JEnt where
  r : JRec
  last : Bool := true
  snap : Bool := false
  /-- Requests that are answered with 0x0000 and these result words once the record is durable (R239). -/
  ans : List (Request × List Nat) := []
  deriving DecidableEq, Repr

/-- The configuration journal (R418-R425, R427). -/
structure Jrn where
  /-- Durable records of the live log, oldest first. -/
  log : List JEnt := []
  /-- Records that wait for the next commit. -/
  waiting : List JEnt := []
  /-- Answers whose records have become durable. -/
  owed : List (Request × List Nat) := []
  seq : Word64 := 0
  usedBytes : Nat := 0
  half : Bool := false
  epoch : Nat := 0
  corrupt : Nat := 0
  full : Bool := false
  compacting : Bool := false
  erasing : Bool := false
  /-- The half not in use has still to be erased. -/
  dirty : Bool := false
  /-- 0 none, 1 SUP0, 2 SUP1. -/
  writer : Nat := 0
  deriving DecidableEq, Repr

/-- State of a management core (Table 18.11). -/
inductive CoreSt | halted | loading | running | restarting
  deriving DecidableEq, Repr

/-- A management core (R411, R412, R427). -/
structure CoreS where
  st : CoreSt := .halted
  release : Nat := 0
  svn : Nat := 0
  copy : Bool := false
  restarts : Nat := 0
  /-- Times of the restarts within the last hour (R412). -/
  recent : List Nat := []
  /-- It has written a heartbeat since the start, which opens the register windows it owns (R441). -/
  beat : Bool := false
  /-- Halted by its third restart within 1 h (R412). -/
  halted3 : Bool := false
  deriving DecidableEq, Repr

/-- The two copies of a role's image (R413). -/
structure RoleS where
  imgA : Option FwImage := none
  imgB : Option FwImage := none
  validA : Bool := false
  validB : Bool := false
  /-- ACTIVE: true is copy B. -/
  active : Bool := false
  deriving DecidableEq, Repr

/-- An update in progress (R415). -/
structure Update where
  role : Nat
  req : Request
  /-- Cores still to restart, in order; the first is restarting. -/
  cores : List Nat
  /-- Cores already switched. -/
  switched : List Nat
  /-- Going back to the old copy, with the code to answer. -/
  back : Option Nat := none
  deriving DecidableEq, Repr

/-- A mailbox slot (R416, Table 18.4). -/
structure Slot where
  req : Map Word64 := []
  rsp : Map Word64 := []
  busy : Bool := false
  done : Bool := false
  port : Nat := 0
  deriving DecidableEq, Repr

/-- Management firmware (R411-R417, R427). -/
structure Fw where
  cores : Map CoreS := []
  roles : Map RoleS := []
  slots : Map Slot := []
  /-- Mailbox slots whose GO or request waits for a core that starts, in the order of their GO (R417). -/
  held : List Nat := []
  /-- Sequence number of the image-flash directory; its sectors are written in turn, and the higher number governs (R413). -/
  dirSeq : Word64 := 0
  update : Option Update := none
  coreSel : Nat := 0
  roleSel : Nat := 0
  deriving DecidableEq, Repr

/-- A step of the ladder in progress (R392). -/
structure StepIn where
  step : LStep
  target : Nat
  cause : Nat
  at_ : Nat := 0
  deriving DecidableEq, Repr

/-- A slot of the ladle store (R401, R410), by physical engine 38 n + e. -/
structure Ladle where
  valid : Bool := false
  enc : Bool := false
  missing : Bool := false
  cause : Nat := 0
  step : Nat := 0
  unitGen : Word16 := 0
  xid : Nat := 0
  seq : Nat := 0
  /-- Keyslot the body is encrypted under when `enc`. -/
  key : Nat := 0
  body : Bytes := []
  deriving DecidableEq, Repr

/-- Recovery (R390-R410). -/
structure Flt where
  steps : List StepIn := []
  /-- Physical engines whose ladle this escalation has already taken (R398). -/
  ladled : List Nat := []
  ladles : Map Ladle := []
  ladleCount : Nat := 0
  lastCause : Nat := 0
  lastStep : Nat := 0
  lastOutcome : Nat := 0
  lastTarget : Nat := 0
  lastUs : Nat := 0
  nCtx : Nat := 0
  nEng : Nat := 0
  nPart : Nat := 0
  nMod : Nat := 0
  retMe : Nat := 0
  retVt : Nat := 0
  retSt : Nat := 0
  retRouters : Nat := 0
  /-- Times of the module steps within the last hour (R392). -/
  mod1h : List Nat := []
  ladleSel : Nat := 0
  reqStep : Nat := 0
  reqTarget : Nat := 0
  pwrCycleReq : Bool := false
  deriving DecidableEq, Repr

end Sys2Proof.Machine
end

