-- ==== Sys2Proof/Machine/State/Net.lean ====
section
/-!
DEFINITION. State of the die network and of the security core (chapters 5 and 14).
-/

namespace Sys2Proof.Machine

/-- An entry of a router's detour table (R114): a rectangle of global coordinates and a waypoint. -/
structure Detour where
  x0 : Nat
  x1 : Nat
  y0 : Nat
  y1 : Nat
  wpt : Nat
  /-- The entry is for flits to an I/O die, whose gateway lies in the rectangle (R115, assumption 42). -/
  io : Bool := false
  deriving DecidableEq, Repr

/-- An entry of a router's collective table (R122, Table 5.5). -/
structure CEnt where
  valid : Bool := true
  churn : Bool
  cid : Nat
  group : Nat
  inMask : Nat
  outMask : Nat
  op : Nat := 0
  lcnt : Nat := 0
  lcntEn : Bool := false
  lbase : Nat := 0
  /-- Bytes of the present transfer delivered at this router's local port (R123). -/
  got : Nat := 0
  deriving DecidableEq, Repr

/-- A flit held at an input of a router: the port, the pool whose slot it occupies, and the flit. -/
structure Held where
  port : Nat
  pool : Nat
  flit : Flit
  deriving DecidableEq, Repr

/-- A router (R104-R117), by number 64 gy + gx. -/
structure Router where
  detours : List Detour := []
  ctab : List CEnt := []
  faulty : Bool := false
  /-- Bit i: the port with number i is fenced. -/
  fenced : Nat := 0
  /-- Flits that wait at an input, oldest first. -/
  inq : List Held := []
  /-- Flits of the router's endpoint that wait for a credit of the local port, oldest first. -/
  outq : List Flit := []
  drops : Nat := 0
  /-- The input pool whose packet has begun on output o and VC v and not ended, by key 4 o + v (R107). It keeps the link when its tail is lost
  (assumption 171). -/
  owner : Map (Option Nat) := []
  /-- Which of VC0 to VC2 output o has served last (R110). -/
  rr : Map Nat := []
  /-- Times of the uncorrectable control words of the last 1 ms (R116). -/
  eccAt : List Nat := []
  deriving DecidableEq, Repr

/-- A credit pool (R128-R130). -/
structure Pool where
  held : Nat
  occ : Nat := 0
  /-- Flits and credits in flight. -/
  fly : Nat := 0
  /-- Credits of freed slots on their way back, among those in flight. -/
  ret : Nat := 0
  s : Word32 := 0
  cr : Word32 := 0
  rx : Word32 := 0
  cs : Word32 := 0
  /-- S carried by an AUDIT flit on its way. -/
  audit : Option Word32 := none
  /-- Cs carried by the receiver's answer on its way. -/
  answer : Option Word32 := none
  /-- An audit failed: the sender has stopped and the receiver drains (R130). -/
  resolving : Bool := false
  retired : Bool := false
  deriving DecidableEq, Repr

/-- A crossing between two islands (R131-R133). -/
structure Xing where
  service : Bool := false
  clockStopped : Bool := false
  wake : Bool := false
  /-- 0 running, 1 the survivor has answered and waits for the reset side to report empty. -/
  rsync : Nat := 0
  /-- Of a crossing toward an endpoint, which Table 5.10 gives no pool of its own: the survivor's counts S and Cr, and the credits it holds. -/
  sent : Word32 := 0
  credRcvd : Word32 := 0
  held : Nat := 16
  size : Nat := 16
  /-- Generation of the side that was reset, as the latest request found it. -/
  peerGen : Word16 := 0
  stopped : Bool := false
  faulted : Bool := false
  deriving DecidableEq, Repr

/-- A die-to-die link (R120, R121). -/
structure Link where
  /-- Times of the replays within the last 1 µs (R121). -/
  replays : List Nat := []
  failed : Bool := false
  deriving DecidableEq, Repr

/-- The die network. -/
structure Net where
  routers : Map Router := []
  /-- Pools that are not full and untouched. -/
  pools : Map (Option Pool) := []
  /-- Flits in flight: pool number and flit. -/
  flights : List (Nat × Flit) := []
  xings : Map Xing := []
  links : Map Link := []
  /-- GEN of the contribution a leaf has last injected, by key (4096 cid + group) × 4096 + unit (R117, R124). -/
  churnGen : Map Word16 := []
  /-- Of the pools of queues and stream channels: S, and Cr (R129). Their credits return as they are freed, so Cs is Cr; Rx is S less what is in
  flight. -/
  qSent : Map Word32 := []
  qBack : Map Word32 := []
  deriving DecidableEq, Repr

/-- Who holds a keyslot (R338). -/
inductive KHold | free | ctx (xid : Nat) | shared (cid : Nat)
  deriving DecidableEq, Repr

/-- A keyslot (R338, R339): its holder and the number of the key drawn for it. -/
structure KSlot where
  hold : KHold := .free
  key : Nat := 0
  deriving DecidableEq, Repr

/-- A request to the SPDM responder of the SEC core (R344-R346). -/
inductive SpdmReq
  | measurements (index : Nat)
  | cosign (conn : Nat) (transcript : Digest)
  | cocert
  | report (c : Nat) (nonce : BitVec 256)
  | other (conn : Nat) (bytes : List Byte) (signed : Bool)
  deriving DecidableEq, Repr

/-- The root of trust (R331-R352). -/
structure Sec where
  lastCode : Nat := 0
  haltedRoles : Nat := 0
  recovery : Bool := false
  secSvn : Nat := 0
  secRelease : Nat := 0
  secCopy : Bool := false
  /-- SVN_FLOOR fuses blown since manufacture bring the floor to at least this (R333). -/
  svnBlown : Nat := 0
  debugUsedBlown : Bool := false
  debugActive : Bool := false
  /-- Cold power-ons left on the journaled debug token (R349). -/
  token : Nat := 0
  clearOk : Bool := false
  slots : Map KSlot := []
  nextKey : Nat := 1
  /-- Keyslots held by key cache c (R208). -/
  caches : Map (List Nat) := []
  signers : Map (Option Signer) := []
  denyHost : Word32 := 0
  denyClear : Word32 := 0
  /-- Measurement blocks 2 to 16 (R345). -/
  meas : Map Digest := []
  measCount : Word64 := 0
  /-- Hashes of the last four signed responses of a connection, newest first (R344). -/
  hashes : Map (List Digest) := []
  /-- Connections with an SPDM session open, at most 8 (Table 14.3). -/
  sessions : List Nat := []
  /-- Requests that wait while the SEC core restarts (Table 18.1). -/
  waits : List SpdmReq := []
  tcPower : Nat := 0
  deriving DecidableEq, Repr

end Sys2Proof.Machine
end

