-- ==== Sys2Proof/Machine/State/Host.lean ====
section
/-!
DEFINITION. State of host ports, functions, rings, sharing and migration (chapters 12 and 13).
-/

namespace Sys2Proof.Machine

/-- Host-port states (Table 12.13). -/
inductive HPState | down | training | up | degraded
  deriving DecidableEq, Repr

/-- A host port (R295, R317). -/
structure HostPort where
  st : HPState := .down
  lastCode : Nat := 0
  vfs : Nat := 0
  width : Nat := 0
  rate : Nat := 0
  ide : Bool := false
  ideReq : Bool := true
  linkDown : Nat := 0
  cqTimeout : Nat := 0
  hostTimeout : Nat := 0
  flrs : Nat := 0
  leaseSel : Nat := 0
  rxBytes : Word64 := 0
  txBytes : Word64 := 0
  /-- The host is setting up IDE on the link that has just trained (R295, assumption 223). -/
  ideDue : Bool := false
  /-- PERST_N released (R431). -/
  perstRel : Bool := false
  deriving DecidableEq, Repr

/-- A ring of a function (R301, R304, R318). -/
structure Ring where
  vec : Nat := 0
  coalUs : Nat := 0
  coalCnt : Nat := 0
  cqLog2 : Nat := 7
  sqLog2 : Nat := 6
  enable : Bool := false
  cqBase : Nat := 0
  on : Bool := false
  disPend : Bool := false
  lastCode : Nat := 0
  /-- Counts modulo 2^32. -/
  sqHead : Nat := 0
  cqTail : Nat := 0
  cqHead : Nat := 0
  reserved : Nat := 0
  /-- Records no interrupt has signalled (R307). -/
  unsig : Nat := 0
  /-- CQ writes that the host has not completed, oldest first: slot index and record (R309). -/
  retry : List (Nat × BitVec 512) := []
  /-- The host completes no CQ write of the ring (R309, assumption 54). -/
  stuck : Bool := false
  /-- HOST_RING_CFG and CQBASE as written while the ring, with ENABLE clear, was still ON: they take over when it is OFF or enabled again. -/
  nextCfg : Option Nat := none
  nextBase : Option Nat := none
  deriving DecidableEq, Repr

/-- Lease states (Table 12.8). -/
inductive Lease | none | held | lapsed | quiesced
  deriving DecidableEq, Repr

/-- TDI states (Table 13.1). -/
inductive Tdi | unlocked | locked | run | error
  deriving DecidableEq, Repr

/-- Migration states (R327). -/
inductive PauseSt | serving | pausing | paused
  deriving DecidableEq, Repr

/-- A virtual function, by client number 256 port + function (R296, R319-R330). -/
structure Fn where
  valid : Bool := false
  cid : Nat := 0
  gen : Word16 := 0
  err : Nat := 0
  fromEn : Bool := false
  fromPort : Nat := 0
  fromFunc : Nat := 0
  tdi : Tdi := .unlocked
  lease : Lease := .none
  /-- Last SEQ of a renewal (R310), and the time of it in ns. -/
  seq : Word64 := 0
  renewed : Nat := 0
  /-- Time the lease entered its state, in ns. -/
  since : Nat := 0
  /-- Submission region bytes, offsets of Table 12.2. -/
  region : Bytes := []
  /-- Completion journal: records with their ring (R311). -/
  journal : List (Nat × BitVec 512) := []
  /-- A lease with records to acknowledge before the rings are read (R313). -/
  mustAck : Bool := false
  rings : Map Ring := []
  /-- Lines the host has been granted (R299), by line number from HB + 2^45. -/
  granted : List Nat := []
  /-- Lines with a notice not yet acted on (R299, R311). -/
  notices : List Nat := []
  /-- Pending event counts: code, ARG, count (R308). -/
  events : List (Nat × Nat × Nat) := []
  /-- Notices that wait while logical partition 0 is being copied: line and data (R298). -/
  late : List (Nat × BitVec 512) := []
  /-- How often the rings have been reset: a record owed from before goes to the completion journal (R314). -/
  era : Nat := 0
  /-- A hand-off to this function that waits for the copy of logical partition 0 to end: CID, GEN and source (Table 13.3). -/
  hand : Option (Nat × Word16 × Nat) := none
  /-- Control descriptors read and not yet answered (R311). -/
  ctlOut : Nat := 0
  logBase : Nat := 0
  log2 : Nat := 0
  logTail : Nat := 0
  logHead : Nat := 0
  ovf : Bool := false
  logging : Bool := false
  pause : PauseSt := .serving
  tcSel : Nat := 0
  deriving DecidableEq, Repr

/-- Host side. -/
structure HostS where
  ports : Map HostPort := []
  fns : Map Fn := []
  /-- Host memory as port h sees it (assumption 10). -/
  mem : Map Bytes := []
  deriving DecidableEq, Repr

end Sys2Proof.Machine
end

