-- ==== Sys2Proof/Machine/State/Power.lean ====
section
/-!
DEFINITION. State of the metering die and of power and thermal control (chapters 15 and 16).
-/

namespace Sys2Proof.Machine

/-- Pail states (Table 15.5). -/
inductive PailSt | absent | starting | metered | fault | unsealed
  deriving DecidableEq, Repr

/-- The four accumulators of a composition and its labels (R353, R359), by key 65536 cid + gen. -/
structure Acct where
  tracked : Bool := false
  part : Word64 := 0
  loc : Word64 := 0
  far : Word64 := 0
  port : Word64 := 0
  labelled : Bool := false
  labelMissing : Bool := false
  profile : Nat := 0
  quantities : Nat := 0
  contract : BitVec 128 := 0
  deriving DecidableEq, Repr

/-- An entry of a meter record (Table 15.3). -/
inductive MEntry
  | cid (cid : Nat) (gen : Word16) (profile quantities flags : Nat) (contract : BitVec 128) (part loc far port : Word64)
  | event (cid : Nat) (gen : Word16) (source event granule : Nat) (time : Word64)
  | gap (first last : Nat)
  deriving DecidableEq, Repr

/-- A meter record (R358, Table 15.2). The digest chain is the digest of its predecessor's bytes. -/
structure MRec where
  kind : Nat
  flags : Nat
  seq : Nat
  time : Word64
  entries : List MEntry
  merged : Nat
  prev : Digest
  digest : Digest
  deriving DecidableEq, Repr

/-- What the pail holds of a die line's partition (R354). -/
structure DieView where
  st : Nat := 0
  cid : Nat := 0
  gen : Word16 := 0
  deriving DecidableEq, Repr

/-- The metering die (R353-R369). -/
structure Pail where
  st : PailSt := .absent
  present : Bool := false
  sealOpen : Bool := false
  /-- UNSEALED has been recorded in the flash (R365). -/
  unsealed : Bool := false
  lastCode : Nat := 0
  lineLost : Nat := 0
  coalescing : Bool := false
  thinning : Bool := false
  oscFault : Bool := false
  /-- Pail time in µs since certification (R358). -/
  time : Word64 := 0
  seq : Nat := 0
  ack : Nat := 0
  sel : Nat := 0
  gaps : Nat := 0
  /-- Time outside METERED, in µs; UNMETERED_S is whole seconds of it (R364). -/
  unmeteredUs : Nat := 0
  /-- How many pails have been fitted before this one. -/
  fitted : Nat := 0
  /-- Partition states the lines have reported, by partition (R354). -/
  parts : Map DieView := []
  /-- Host map of port h as reported: CID and generation of each bit, by key 256 h + cid (R356). -/
  hosts : Map Bool := []
  /-- Granule bits as reported, by key 256 (2048 d + granule) + cid (R356). -/
  grans : Map Bool := []
  accts : Map Acct := []
  fifo : List MEntry := []
  merged : Nat := 0
  /-- LINE_LOST to carry in the next record (R357). -/
  lostSince : Bool := false
  /-- The record being signed (R360). -/
  signing : Option MRec := none
  /-- A PERIODIC close fell due while a record was being signed. -/
  periodicDue : Bool := false
  /-- Records of the active half, oldest first; of records that wait in SRAM during a compaction (R361, R362). -/
  records : List MRec := []
  /-- Records of this pail's earlier chains, which stay in its flash and are read by certified service (R366). -/
  earlier : List MRec := []
  /-- Bytes used in the active half. -/
  used : Nat := 0
  lastDigest : Digest := 0
  deriving DecidableEq, Repr

/-- State of a rail (Table 16.12). -/
inductive RailSt | off | on | localSense | derated | shorted
  deriving DecidableEq, Repr

/-- A rail (R373, R374). `phasesOut` is how many of its phases have been isolated. -/
structure Rail where
  st : RailSt := .off
  phasesOut : Nat := 0
  /-- Raise of the setpoint by the droop response, in mV (R380). -/
  raise_ : Nat := 0
  /-- Output current in units of 0.1 A: a measurement no command brings. -/
  amps : Nat := 0
  deriving DecidableEq, Repr

/-- A clock island (R377, R378, R389). -/
structure Isl where
  /-- FMAX as lowered by ageing; none is the value fused at manufacture. -/
  fmax : Option Nat := none
  set : Nat := 0
  pulse : Nat := 0
  temp : Nat := 0
  droops : Nat := 0
  sensorFault : Bool := false
  /-- A lowering that waits (R378). -/
  deferred : Option Nat := none
  /-- Above T_throttle, and not yet below 90 °C again (R385). -/
  hot : Bool := false
  /-- Time of the latest fall of the set clock by heat. -/
  fellAt : Option Nat := none
  deriving DecidableEq, Repr

/-- Power and thermal control (R370-R389). -/
structure Pwr where
  lastCode : Nat := 0
  step : Nat := 0
  /-- Time of the latest step applied, and since when the mean has been below 95 % of the effective cap (R383). -/
  stepAt : Nat := 0
  lowSince : Option Nat := none
  flowOk : Bool := false
  mainOn : Bool := false
  standby : Bool := false
  cap : Nat := 10500
  volts : Nat := 0
  amps : Nat := 0
  watts : Nat := 0
  warm : Nat := 4
  islSel : Nat := 0
  railSel : Nat := 0
  reversed : Bool := false
  rails : Map Rail := []
  isls : Map Isl := []
  /-- Energy of a partition, in joules, and its mean power in watts (Table 16.12). -/
  joules : Map Nat := []
  prtWatts : Map Nat := []
  /-- Skim parked by T_crit (R385). -/
  crit : Bool := false
  /-- Partitions held since T_trip, each with the time since which every sensor of its die has read below 85 °C (R385). -/
  trip : List (Nat × Option Nat) := []
  inputLost : Bool := false
  /-- Bit n: power domain n of Table 1.5 is on, for the router, PHY, management and metering domains; the domains of a partition are held
  with it. After a module reset only the management domains and the metering die are on (Table 1.17). -/
  doms : Nat := 2 ^ 148 + 2 ^ 153 + 2 ^ 158 + 2 ^ 163 + 2 ^ 164
  deriving DecidableEq, Repr

end Sys2Proof.Machine
end

