-- ==== Sys2Proof/Machine/State/Fab.lean ====
section
/-!
DEFINITION. State of the fabric, of start-up and of the sideband pins (chapters 11 and 19).
-/

namespace Sys2Proof.Machine

/-- Fabric port states (Table 11.1). -/
inductive FPState | down | detect | equalize | align | identify | active | retrain | fenced
  deriving DecidableEq, Repr

/-- Credits of one virtual channel of a port (R269-R271). -/
structure VcS where
  /-- Units of the peer's buffer this side holds credits for, less those sent and not returned. -/
  used : Nat := 0
  /-- Cumulative units sent, and the last cumulative return received. -/
  sent : Word32 := 0
  retRcvd : Word32 := 0
  /-- Cumulative units received, and freed in this side's buffer; last freed count sent. -/
  rcvd : Word32 := 0
  freed : Word32 := 0
  freedSent : Word32 := 0
  resolving : Bool := false
  /-- Cumulative units the peer had sent when its audit failed: the pool drains before it is checked again (R130, R271). -/
  failed : Option Word32 := none
  deriving DecidableEq, Repr

/-- A fabric port (R260-R264, R293). -/
structure FabPort where
  st : FPState := .down
  gen : Word16 := 0
  lastCode : Nat := 0
  ctl : Word32 := 0
  /-- ROLE in force since the port left DOWN (R293). -/
  role : Nat := 0
  /-- Physical receive lane of logical lane l in bits 2l + 1 : 2l; identity when no remap. -/
  laneMap : Nat := 0xE4
  polInv : Nat := 0
  peer : Option PeerId := none
  errA : Nat := 0
  errB : Nat := 0
  errC : Nat := 0
  txBytes : Word64 := 0
  rxBytes : Word64 := 0
  /-- SEQ of the codeword to open next and last in-order codeword received (R262). -/
  seq : Nat := 0
  ack : Nat := 0
  /-- Frame space left in the codeword opened last, and when it was opened: a later microsecond finds it filled with IDLE (R261). -/
  cwLeft : Nat := 0
  cwAt : Nat := 0
  /-- Frames sent whose codewords are not acknowledged, with the SEQ of the codeword they end in, oldest first. -/
  replay : List (Nat × Frame) := []
  /-- Times of the replays within the last 10 µs (R262). -/
  replays : List Nat := []
  vcs : Map VcS := []
  /-- Frames that wait for credits of the port, oldest first. -/
  wait : List Frame := []
  /-- The class that sent last, in the round robin of REQ, RSP and COLL (R269). -/
  rr : Nat := 2
  /-- Units of the egress reservation in use, by 16 × I/O die + VC, and the waiting frames that hold it with their die (Table 11.4, R276). -/
  resv : Map Nat := []
  lent : List (Nat × Frame) := []
  /-- Time of the last audit of the port's own (R271). -/
  audAt : Nat := 0
  /-- Frames received that have neither ended nor gone on yet, oldest first. -/
  inq : List Frame := []
  /-- Frames dropped (R266-R268). -/
  drops : Nat := 0
  /-- CPRES_N low: a cable end is present (R435). -/
  cpres : Bool := true
  deriving DecidableEq, Repr

/-- Job states (Table 11.6). -/
inductive JobSt | none | joined | forming | formed | abandoned
  deriving DecidableEq, Repr

/-- A unit in a combine window (R282, R283): group, step, offset, input, its payload and whether it ends the step. -/
structure CWin where
  group : Nat
  step : Nat
  offset : Nat
  input : Nat
  data : BitVec 512
  last : Bool
  poison : Bool
  deriving DecidableEq, Repr

/-- A fabric job of a composition (R278-R289), by CID. -/
structure Job where
  st : JobSt := .none
  fjob : Nat := 0
  rank : Nat := 0
  ranks : Nat := 0
  nodes : List Nat := []
  mgens : Map Word16 := []
  down : List Nat := []
  fgen : Word16 := 0
  /-- Ranks that answered HELLO with the same digest and RANKS (R279). -/
  hello : List Nat := []
  /-- HELLOs that arrived before this module began forming: rank, digest, RANKS and MGEN (R279). -/
  early : List (Nat × Digest × Nat × Word16) := []
  /-- Composition whose re-bind to the joined culture has rolled back: it answers HELLO with its old digest (R173). -/
  back : Option Nat := none
  /-- Staging handle a FAB_JOIN named, to be taken by a BIND or an APPLY. -/
  handle : Nat := 0
  mhz : Nat := 0
  /-- Offers received: rank and MHz (R286). -/
  offers : List (Nat × Nat) := []
  pendMhz : Option (Nat × Nat) := none
  /-- This module's last offer (R286). -/
  offered : Nat := 0
  /-- STEP of a spanning group, modulo 65 536 (R283), and the highest STEP seen in frames (R286). -/
  steps : Map Nat := []
  topStep : Nat := 0
  /-- I/O die whose combine unit serves a spanning group (R281, R282). -/
  dies : Map Nat := []
  windows : List CWin := []
  /-- Result units landed at the root engine: group, step, offset, and whether it is the last of its step (R283). -/
  landed : List (Nat × Nat × Nat × Bool) := []
  /-- Barrier arrivals at rank 0: barrier and rank (R285). -/
  barArr : List (Nat × Nat) := []
  /-- Work that issued an NSEND to a spanning group or a spanning arrival (R289). -/
  touched : List Nat := []
  deriving DecidableEq, Repr

/-- The fabric. -/
structure Fab where
  node : Nat := 0
  system : Word32 := 0
  mgen : Word16 := 0
  topo : Word64 := 0
  detours : List (Nat × Nat) := []
  downRx : Nat := 0
  upRx : Nat := 0
  abnRx : Nat := 0
  abnTx : Nat := 0
  jobSel : Nat := 0
  ports : Map FabPort := []
  jobs : Map Job := []
  /-- Notices forwarded: CODE, SUBJ_NODE, SUBJ_MGEN, FJOB, FGEN (R287). -/
  seen : List (Nat × Nat × Nat × Nat × Nat) := []
  /-- The module has left a reset: each port that becomes ACTIVE carries its NODE_UP (R290, assumption 218). -/
  upOwed : Bool := false
  /-- FAB_JOINs not yet taken by a bind, by handle. -/
  joins : Map Job := []
  deriving DecidableEq, Repr

/-- Start-up phases (Table 19.9). -/
inductive Phase | standby | boot | replay | waitFlow | partitions | ready
  deriving DecidableEq, Repr

/-- Start-up and sideband (R430-R445). -/
structure Boot where
  phase : Phase := .boot
  readyMs : Nat := 0
  origin : Nat := 0
  announced : List Nat := []
  cold : Bool := false
  slotId : Nat := 0
  hsris : Nat := 0
  resetRel : Bool := false
  refOk : Bool := false
  intRef : Bool := false
  spread : Bool := false
  /-- Class found at step 4 of R439, which fixes the far and fabric source (R436). -/
  fixedSpread : Bool := false
  pwrgd : Bool := false
  changed : Nat := 0
  evtEn : Bool := false
  evtVec : Nat := 0
  eid : Byte := 0
  dynAddr : Option (BitVec 7) := none
  /-- The compute-die rails have started (R439 step 6). -/
  computeOn : Bool := false
  /-- The journal has been replayed since the last start. -/
  replayed : Bool := false
  /-- Compositions that wait for their store's port at READY (R443). -/
  storeWait : List Nat := []
  /-- A main-converter stop by the input: restart only through a module step (R371). -/
  needReset : Bool := false
  deriving DecidableEq, Repr

end Sys2Proof.Machine
end

