-- ==== Sys2Proof/Machine/State.lean ====
section
/-!
DEFINITION. The state of the module: plain data, every piece of state the spec names (INVENTORY.md, State), the queue of
commands that wait, and the model's own clock, counter of free values and list of what was sent out.
-/

namespace Sys2Proof.Machine

/-- Why the block stops with a fault. -/
inductive Fault
  /-- Raised by REGISTER_WRITE for an access that is not 4 or 8 bytes wide or not aligned to its width: the spec describes
  no such access (R7). Safe: the machine stops where the spec says nothing. -/
  | badAccess
  deriving DecidableEq, Repr

/-- Why a command has no meaning. -/
inductive Refusal
  /-- Raised by the dispatch for a row that has no meaning yet, named by its mnemonic. Safe. -/
  | notModelled (mnemonic : String)
  deriving DecidableEq, Repr

/-- What the module sends outside (assumption 4). -/
inductive Out
  /-- An MSI-X interrupt of a function. -/
  | msix (port func vec : Nat)
  /-- A status code reported to the tray controller, with the unit it concerns (R432). -/
  | tray (code arg : Nat)
  /-- A report to the operator through PF0. -/
  | operator (code arg : Nat)
  /-- A frame handed to a fabric port. -/
  | frame (port : Nat) (f : Frame)
  /-- The header of a codeword that a port opens: SEQ and ACK (R261). -/
  | codeword (port seq ack : Nat)
  /-- A LINK frame: 0 replay request from a SEQ (R262). -/
  | link (port kind arg : Nat)
  /-- The LINK frame of IDENTIFY: SYSTEM, NODE, MGEN and port number (R264). -/
  | identity (port : Nat) (id : PeerId)
  /-- The TDI interface report of a locked function: its composition window and HDM range in bytes, and CID, GEN and SHAPE (R322). -/
  | tdi (port func window hdmBase hdmLen cid gen shape : Nat)
  /-- A back-invalidate of a watched line (R299). -/
  | bisnp (port func line : Nat)
  /-- Data a read returned, and POISON. -/
  | data (d : BitVec 512) (poison : Bool)
  /-- An acknowledgement of a write, with its status. -/
  | ack (status : Nat)
  /-- Bytes of an SPDM, TDISP or vendor-defined answer on a connection. -/
  | answer (conn : Nat) (bytes : List Byte)
  /-- TDISP error response INVALID_INTERFACE_STATE (R341). -/
  | tdispError (port func : Nat)
  /-- A sideband pin driven: 0 TRAY_PWR_CYCLE_REQ, 1 MOD_PWRGD, 2 PERST_N of a far port, 3 REFCLK_OUT of a far port. -/
  | pin (name unit : Nat) (level : Bool)
  /-- A far event record passed to the operator (R209). -/
  | farEvent (port : Nat) (evt : Word64)
  /-- A flit that has left the mesh for an endpoint of an I/O die: the die and the flit (R105, R113). -/
  | ioFlit (io : Nat) (f : Flit)
  /-- A drop of a flit, reported to the HLT core: the router (R111). -/
  | dropped (router : Nat)
  /-- A core's wake request for a stopped clock (R132). -/
  | wake (xing : Nat)
  deriving DecidableEq, Repr

/-- The state of the module. -/
structure State where
  /-- Commands that wait, first in, first out. -/
  pending : List Instr := []
  parts : Map Part := []
  units : Map UnitC := []
  eng : Map Engine := []
  vts : Map VTile := []
  sts : Map STile := []
  bars : Map Barrier := []
  net : Net := {}
  staged : List Culture := []
  nextHandle : Nat := 1
  comps : Map Comp := []
  /-- CIDs in the order in which they became free, the longest free first (R165). -/
  freeCids : List Nat := List.range 256
  tokens : Map Token := []
  nextToken : Nat := 1
  chans : Map Chan := []
  /-- Temperature grade of a package, 0 to 4 (R198). -/
  grades : Map Nat := []
  /-- Since when a package has reported G1 or cooler without a hotter report, in ns plus one (R200). -/
  cool : Map Nat := []
  far : Map Far := []
  xlt : Xlt := {}
  ctxs : Map Ctx := []
  /-- XIDs that have been free, the longest free first; XIDs never used follow in ascending order (R238). -/
  freedXids : List Nat := []
  nextXid : Nat := 0
  sch : Sch := {}
  fab : Fab := {}
  host : HostS := {}
  sec : Sec := {}
  pail : Pail := {}
  pwr : Pwr := {}
  flt : Flt := {}
  jrn : Jrn := {}
  fw : Fw := {}
  boot : Boot := {}
  /-- Time in ns (assumption 2). -/
  now : Nat := 0
  /-- How many free values have been drawn (assumption 3). -/
  fresh : Nat := 0
  /-- What the module has sent out, oldest first (assumption 4). -/
  out : List Out := []
  deriving DecidableEq, Repr

/-- The module right after reset: every field at its default, which is its reset value (INVENTORY.md, State). -/
def State.reset : State := {}

end Sys2Proof.Machine
end

