-- ==== Sys2Proof/Machine/Ops.lean ====
section
/-!
DEFINITION. The named operations over the state: reading and changing one entry of each table, free values, outputs,
unit numbers, logical references, and the journal.
-/

namespace Sys2Proof.Machine

/-! ## Entries of the tables -/

def State.part (s : State) (n : Nat) : Part := Map.get {} s.parts n
def State.updPart (s : State) (n : Nat) (f : Part → Part) : State := { s with parts := Map.upd {} n f s.parts }
def State.unit (s : State) (u : Nat) : UnitC := Map.get {} s.units u
def State.updUnit (s : State) (u : Nat) (f : UnitC → UnitC) : State := { s with units := Map.upd {} u f s.units }
def State.engine (s : State) (k : Nat) : Engine := Map.get {} s.eng k
def State.updEng (s : State) (k : Nat) (f : Engine → Engine) : State := { s with eng := Map.upd {} k f s.eng }
def State.vt (s : State) (k : Nat) : VTile := Map.get {} s.vts k
def State.updVt (s : State) (k : Nat) (f : VTile → VTile) : State := { s with vts := Map.upd {} k f s.vts }
def State.tile (s : State) (k : Nat) : STile := Map.get {} s.sts k
def State.updSt (s : State) (k : Nat) (f : STile → STile) : State := { s with sts := Map.upd {} k f s.sts }
def State.bar (s : State) (c b : Nat) : Barrier := Map.get {} s.bars (32 * c + b)
def State.updBar (s : State) (c b : Nat) (f : Barrier → Barrier) : State :=
  { s with bars := Map.upd {} (32 * c + b) f s.bars }
def State.comp (s : State) (c : Nat) : Comp := Map.get {} s.comps c
def State.updComp (s : State) (c : Nat) (f : Comp → Comp) : State := { s with comps := Map.upd {} c f s.comps }
def State.ctx (s : State) (x : Nat) : Ctx := Map.get {} s.ctxs x
def State.updCtx (s : State) (x : Nat) (f : Ctx → Ctx) : State := { s with ctxs := Map.upd {} x f s.ctxs }
def State.chan (s : State) (k : Nat) : Chan := Map.get {} s.chans k
def State.updChan (s : State) (k : Nat) (f : Chan → Chan) : State := { s with chans := Map.upd {} k f s.chans }
def State.farP (s : State) (d : Nat) : Far := Map.get {} s.far d
def State.updFar (s : State) (d : Nat) (f : Far → Far) : State := { s with far := Map.upd {} d f s.far }
def State.token (s : State) (t : Nat) : Token := Map.get {} s.tokens t
def State.updTok (s : State) (t : Nat) (f : Token → Token) : State := { s with tokens := Map.upd {} t f s.tokens }
def State.slot (s : State) (x i : Nat) : RSlot := Map.get {} s.xlt.slots (4096 * x + i)
def State.updSlot (s : State) (x i : Nat) (f : RSlot → RSlot) : State :=
  { s with xlt := { s.xlt with slots := Map.upd {} (4096 * x + i) f s.xlt.slots } }
def State.fq (s : State) (c : Nat) : FaultQ := Map.get {} s.xlt.fqs c
def State.updFq (s : State) (c : Nat) (f : FaultQ → FaultQ) : State :=
  { s with xlt := { s.xlt with fqs := Map.upd {} c f s.xlt.fqs } }
def State.stage (s : State) (c g : Nat) : Stage := Map.get {} s.sch.stages (64 * c + g)
def State.updStage (s : State) (c g : Nat) (f : Stage → Stage) : State :=
  { s with sch := { s.sch with stages := Map.upd {} (64 * c + g) f s.sch.stages } }
def State.work (s : State) (w : Nat) : Option Work := Map.get none s.sch.works w
def State.setWork (s : State) (w : Nat) (v : Option Work) : State :=
  { s with sch := { s.sch with works := Map.set none w v s.sch.works } }
def State.router (s : State) (r : Nat) : Router := Map.get {} s.net.routers r
def State.updRouter (s : State) (r : Nat) (f : Router → Router) : State :=
  { s with net := { s.net with routers := Map.upd {} r f s.net.routers } }
def State.hport (s : State) (h : Nat) : HostPort := Map.get {} s.host.ports h
def State.updHport (s : State) (h : Nat) (f : HostPort → HostPort) : State :=
  { s with host := { s.host with ports := Map.upd {} h f s.host.ports } }
/-- A function by its client number 256 port + function (R296). -/
def State.fn (s : State) (c : Nat) : Fn := Map.get {} s.host.fns c
def State.updFn (s : State) (c : Nat) (f : Fn → Fn) : State :=
  { s with host := { s.host with fns := Map.upd {} c f s.host.fns } }
def State.ring (s : State) (c r : Nat) : Ring := Map.get {} (s.fn c).rings r
def State.updRing (s : State) (c r : Nat) (f : Ring → Ring) : State :=
  s.updFn c (fun x => { x with rings := Map.upd {} r f x.rings })
def State.hmem (s : State) (h : Nat) : Bytes := Map.get [] s.host.mem h
def State.updHmem (s : State) (h : Nat) (f : Bytes → Bytes) : State :=
  { s with host := { s.host with mem := Map.upd [] h f s.host.mem } }
def State.kslot (s : State) (k : Nat) : KSlot := Map.get {} s.sec.slots k
def State.updKslot (s : State) (k : Nat) (f : KSlot → KSlot) : State :=
  { s with sec := { s.sec with slots := Map.upd {} k f s.sec.slots } }
def State.fport (s : State) (f : Nat) : FabPort := Map.get {} s.fab.ports f
def State.updFport (s : State) (f : Nat) (g : FabPort → FabPort) : State :=
  { s with fab := { s.fab with ports := Map.upd {} f g s.fab.ports } }
def State.job (s : State) (c : Nat) : Job := Map.get {} s.fab.jobs c
def State.updJob (s : State) (c : Nat) (f : Job → Job) : State :=
  { s with fab := { s.fab with jobs := Map.upd {} c f s.fab.jobs } }
def State.isl (s : State) (i : Nat) : Isl := Map.get {} s.pwr.isls i
def State.updIsl (s : State) (i : Nat) (f : Isl → Isl) : State :=
  { s with pwr := { s.pwr with isls := Map.upd {} i f s.pwr.isls } }
def State.rail (s : State) (r : Nat) : Rail := Map.get {} s.pwr.rails r
def State.updRail (s : State) (r : Nat) (f : Rail → Rail) : State :=
  { s with pwr := { s.pwr with rails := Map.upd {} r f s.pwr.rails } }
def State.coreS (s : State) (c : Nat) : CoreS := Map.get {} s.fw.cores c
def State.updCore (s : State) (c : Nat) (f : CoreS → CoreS) : State :=
  { s with fw := { s.fw with cores := Map.upd {} c f s.fw.cores } }
def State.role (s : State) (r : Nat) : RoleS := Map.get {} s.fw.roles r
def State.updRole (s : State) (r : Nat) (f : RoleS → RoleS) : State :=
  { s with fw := { s.fw with roles := Map.upd {} r f s.fw.roles } }
def State.mslot (s : State) (i : Nat) : Slot := Map.get {} s.fw.slots i
def State.updMslot (s : State) (i : Nat) (f : Slot → Slot) : State :=
  { s with fw := { s.fw with slots := Map.upd {} i f s.fw.slots } }

/-- Folds a change over a list of keys. -/
def State.each {α : Type} (s : State) (l : List α) (f : State → α → State) : State := l.foldl f s

/-- Counts of a queue's or a channel's pool: n flits sent and landed, or n credits returned and received (R129). -/
def State.qUse (s : State) (id n : Nat) : State :=
  { s with net := { s.net with qSent := Map.upd 0 id (fun v => v + BitVec.ofNat 32 n) s.net.qSent } }
def State.qFree (s : State) (id n : Nat) : State :=
  { s with net := { s.net with qBack := Map.upd 0 id (fun v => v + BitVec.ofNat 32 n) s.net.qBack } }

/-! ## Outputs and free values -/

def State.emit (s : State) (o : Out) : State := { s with out := s.out ++ [o] }
/-- A status code reported to the tray controller (R432). -/
def State.tray (s : State) (code arg : Nat) : State := s.emit (.tray code arg)

/-- A free 64-bit value the spec leaves open (assumption 3), and the state with it drawn. -/
def State.draw (s : State) : BitVec 64 × State := (Config.freeValue s.fresh, { s with fresh := s.fresh + 1 })
/-- Draws `n` free bytes. -/
def State.drawBytes (s : State) (n : Nat) : List Byte × State :=
  ((List.range n).map (fun i => Config.freeByte (s.fresh + i)), { s with fresh := s.fresh + n })

/-! ## Unit numbers (R389) -/

/-- Unit number of engine e of partition p. -/
def uEng (p e : Nat) : Nat := 61 * p + e
def uVt (p v : Nat) : Nat := 61 * p + 38 + v
def uSt (p t : Nat) : Nat := 61 * p + 57 + t
def kEng (p e : Nat) : Nat := 38 * p + e
def kVt (p v : Nat) : Nat := 19 * p + v
def kSt (p t : Nat) : Nat := 4 * p + t

/-- What a unit is, with its partition and physical number. -/
inductive UKind
  | eng (p e : Nat)
  | vt (p v : Nat)
  | st (p t : Nat)
  deriving DecidableEq, Repr

/-- The unit a unit number names (R389). -/
def ukind (u : Nat) : UKind :=
  let p := u / 61
  let k := u % 61
  if k < 38 then .eng p k else if k < 57 then .vt p (k - 38) else .st p (k - 57)

def UKind.part (k : UKind) : Nat := match k with | .eng p _ => p | .vt p _ => p | .st p _ => p

/-- Every unit number of a partition. -/
def unitsOf (p : Nat) : List Nat := (List.range 61).map (fun k => 61 * p + k)

/-- The die and the quadrant of a partition (R16). -/
def dieOf (p : Nat) : Nat := p / 4
def quadOf (p : Nat) : Nat := p % 4

/-- The XLT block of a die (Table 9.3). -/
def xltOf (d : Nat) : Nat :=
  let r := d / 4
  let c := d % 4
  if r < 2 then (if c < 2 then 0 else 1) else (if c < 2 then 3 else 2)

/-! ## Power domains (R22, Table 1.5) -/

/-- The domain numbers of a partition's logic and SRAM retention, and of a die's router plane. -/
def domLogic (p : Nat) : Nat := 9 * dieOf p + quadOf p
def domRet (p : Nat) : Nat := 9 * dieOf p + 4 + quadOf p
def domRouter (d : Nat) : Nat := 9 * d + 8
/-- The domain numbers of I/O die i: its host PHY, its fabric PHY groups A (0) and B (1), its far-memory PHY and its management. -/
def domHost (i : Nat) : Nat := 144 + 5 * i
def domFab (i g : Nat) : Nat := 144 + 5 * i + 1 + g
def domFar (i : Nat) : Nat := 144 + 5 * i + 3
def domMgmt (i : Nat) : Nat := 144 + 5 * i + 4
/-- The domain number of the metering die. -/
def domMeter : Nat := 164
/-- The domain of a fabric port: the first four ports of an I/O die form group A and the last four group B (R20). -/
def domPort (f : Nat) : Nat := domFab (f / 8) (f % 8 / 4)

/-- The I/O die whose management domain holds a core: SEC, SUP0 and SUP1, XLT0 to XLT3, SCH0 and SCH1, PWR, HLT, LNK (R21, Table 1.4). -/
def coreDie (i : Nat) : Nat := nth 0 [0, 0, 1, 0, 1, 2, 3, 2, 3, 2, 3, 1] i

/-- Whether a power domain is on. -/
def State.domOn (s : State) (n : Nat) : Bool :=
  if n < 144 ∧ n % 9 < 4 then (s.part (4 * (n / 9) + n % 9)).logicOn
  else if n < 144 ∧ n % 9 < 8 then (s.part (4 * (n / 9) + (n % 9 - 4))).retOn
  else has s.pwr.doms n

/-- Switches one of the domains that no partition holds. -/
def State.setDom (s : State) (n : Nat) (on : Bool) : State :=
  { s with pwr := { s.pwr with doms := if on then setBit s.pwr.doms n else clrBit s.pwr.doms n } }

/-- Switches the PHY domains of an I/O die. -/
def State.setPhys (s : State) (i : Nat) (on : Bool) : State :=
  s.each [domHost i, domFab i 0, domFab i 1, domFar i] (fun s n => s.setDom n on)

/-- The router domain of a die goes off: what its routers and links held is lost, their pools are whole again, and the two half-planes stand
still (R23, R106). -/
def State.routersOff (s : State) (d : Nat) : State :=
  let out (id : Nat) : Bool := decide (dieOfRouter (poolSite id).1 = d)
  let s := { s with net := { s.net with
    routers := Map.mapV {} (fun r y =>
      if dieOfRouter r = d then { y with inq := [], outq := [], ctab := [], owner := [], rr := [] } else y) s.net.routers,
    flights := s.net.flights.filter (fun e => !out e.1), pools := s.net.pools.filter (fun e => !out e.1) } }
  let s := s.each [3904 + 2 * d, 3905 + 2 * d] (fun s i => s.updIsl i (fun x => { x with set := 0, pulse := 0 }))
  s.setDom (domRouter d) false

/-- The router domain of a die comes up: its two half-planes run at 2 GHz or their FMAX, without pulse skipping (R106). -/
def State.routersUp (s : State) (d : Nat) : State :=
  let s := s.each [3904 + 2 * d, 3905 + 2 * d] (fun s i => s.updIsl i (fun x => { x with
    set := max 1000 (min 2000 (x.fmax.getD (Config.fusedFmax i))), pulse := 8 }))
  s.setDom (domRouter d) true

/-- A partition held OFFLINE for a further reason, or no longer for that reason. -/
def Part.addHold (x : Part) (h : PHold) : Part := { x with holds := if x.holds.contains h then x.holds else x.holds ++ [h] }
def Part.dropHold (x : Part) (h : PHold) : Part := { x with holds := x.holds.erase h }

/-! ## Logical references (R17, R140) -/

/-- Logical index of a physical engine in its partition's spare map; none is a spare or retired. -/
def Part.logEng (x : Part) (e : Nat) : Option Nat := x.meMap.findIdx? (fun y => y == e)
def Part.logVt (x : Part) (v : Nat) : Option Nat := x.vtMap.findIdx? (fun y => y == v)

/-- Logical partition, kind and index of an lref. -/
def lrefPart (l : Nat) : Nat := nbits l 15 10
def lrefKind (l : Nat) : Nat := nbits l 9 8
def lrefIdx (l : Nat) : Nat := nbits l 7 0

/-- The lref with logical partition lp, kind k and index i. -/
def mkLref (lp k i : Nat) : Nat := lp * 1024 + k * 256 + i

/-- Number of logical partitions of a placement kind (Table 6.5). -/
def kindSize (k : Nat) : Nat := match k with | 0 => 1 | 1 => 2 | 2 => 4 | 3 => 16 | _ => 64

/-- The group an operation has copied to its target, which its logical partitions run on from then (R176). -/
def CompOp.movedAway (o : CompOp) (groups : List Grp) (lp : Nat) : Bool :=
  groups.any (fun g => o.copied.contains g.first && decide (g.first ≤ lp ∧ lp < g.first + kindSize g.kind))

/-- The physical partition of logical partition lp of a composition: of its committed shape, or a target of an operation
that adds it or has moved it there (R174, R176). -/
def Comp.phys (c : Comp) (lp : Nat) : Option Nat :=
  let v := Map.get 255 c.place lp
  let old := if v = 255 then none else some v
  match c.op with
  | none => old
  | some o =>
    let new := (o.targets.find? (fun e => e.1 == lp)).map (fun e => e.2)
    if v = 255 ∨ o.movedAway c.groups lp then new else old

/-- Unit number of a logical unit of physical partition p, through its spare map (R17). -/
def State.unitIn (s : State) (p kind idx : Nat) : Option Nat :=
  match kind with
  | 0 => ((s.part p).meMap[idx]?).map (fun e => uEng p e)
  | 1 => ((s.part p).vtMap[idx]?).map (fun v => uVt p v)
  | 2 => if idx < 4 then some (uSt p idx) else none
  | _ => none

/-- The unit an lref of a composition names (R140, R155). -/
def State.unitOfLref (s : State) (c l : Nat) : Option Nat :=
  match (s.comp c).phys (lrefPart l) with
  | none => none
  | some p => s.unitIn p (lrefKind l) (lrefIdx l)

/-- The lref of a unit in the composition that holds its partition; none when the unit is a spare or retired. -/
def State.lrefOf (s : State) (u : Nat) : Option Nat :=
  match ukind u with
  | .eng p e => ((s.part p).logEng e).map (fun i => mkLref (s.part p).lp 0 i)
  | .vt p v => ((s.part p).logVt v).map (fun i => mkLref (s.part p).lp 1 i)
  | .st p t => some (mkLref (s.part p).lp 2 t)

/-- The placement groups of a composition: those of its committed shape, and those an operation is adding (R174). -/
def Comp.allGroups (c : Comp) : List Grp :=
  match c.op with
  | none => c.groups
  | some o => c.groups ++ o.newGroups.filter (fun g => o.added.contains g.first && !c.groups.any (fun x => x.first == g.first))

/-- Whether a group holds a logical partition. -/
def Grp.holds (g : Grp) (lp : Nat) : Bool := decide (g.first ≤ lp ∧ lp < g.first + kindSize g.kind)

/-- The stage of a logical partition, by the first logical partition of its group (R172, assumption 18). -/
def Comp.stageOf (c : Comp) (lp : Nat) : Option Nat := (c.allGroups.find? (fun g => g.holds lp)).map (fun g => g.first)

/-- The frames a logical partition runs under: in a fast re-bind, the new ones once its stage has been loaded (R174). -/
def Comp.framesAt (c : Comp) (lp : Nat) : List Frm :=
  match c.op, c.stageOf lp with
  | some o, some g =>
    if o.kind = .fast ∧ o.begun = true ∧ (o.added.contains g = true ∨ o.changed.contains g = true ∧ o.drained.contains g = true)
    then o.newFrames else c.frames
  | _, _ => c.frames

/-- Logical partitions of the stage that begins at logical partition g. -/
def Comp.lpsOf (c : Comp) (g : Nat) : List Nat :=
  match c.allGroups.find? (fun x => x.first == g) with
  | none => []
  | some x => (List.range (kindSize x.kind)).map (fun i => x.first + i)

/-- Physical partitions of a stage. -/
def Comp.partsOf (c : Comp) (g : Nat) : List Nat := (c.lpsOf g).filterMap c.phys

/-- Every physical partition of a composition. -/
def Comp.members (c : Comp) : List Nat := c.place.map (fun e => e.2)

/-- Composition and stage of a partition. -/
def State.stageOfPart (s : State) (p : Nat) : Option (Nat × Nat) :=
  let x := s.part p
  match x.st with
  | .bound => ((s.comp x.cid).stageOf x.lp).map (fun g => (x.cid, g))
  | _ => none

/-- Units of stage g of composition c that its culture uses: those the spare maps name. -/
def State.stageUnits (s : State) (c g : Nat) : List Nat :=
  ((s.comp c).partsOf g).flatMap (fun p =>
    (s.part p).meMap.map (uEng p) ++ (s.part p).vtMap.map (uVt p) ++ (List.range 4).map (uSt p))

/-- Units on which a context is resident: a retired unit holds none. -/
def State.ctxUnits (s : State) (x : Nat) : List Nat :=
  (s.units.filter (fun e => decide (e.2.xid = x) && !e.2.retired && (match e.2.st with | .idle => false | .reset => false | _ => true))).map
    (fun e => e.1)

/-! ## Frames of a culture -/

/-- The frame of a TYPE and KEY. -/
def findFrm (l : List Frm) (typ key : Nat) : Option Frm := l.find? (fun f => f.typ == typ && f.key == key)

/-- The little-endian field of n bytes at offset o of a frame's bytes (R2). -/
def fle (b : List Byte) (o n : Nat) : Nat := ofLE ((b.drop o).take n)

/-- The body of a frame, or nothing. -/
def frmBody (l : List Frm) (typ key : Nat) : List Byte :=
  match findFrm l typ key with | some f => f.body | none => []

/-- SCHED fields (R154). -/
def Comp.creamShare (c : Comp) : Nat := fle (frmBody c.frames 0x0C 0) 0 2
def Comp.sliceUs (c : Comp) : Nat :=
  let v := fle (frmBody c.frames 0x0C 0) 2 2
  if v = 0 then 2000 else v
def Comp.floorMhz (c : Comp) : Nat := fle (frmBody c.frames 0x0C 0) 4 2
def Comp.maxCtx (c : Comp) : Nat := fle (frmBody c.frames 0x0C 0) 6 2
def Comp.creamKib (c : Comp) : Nat := fle (frmBody c.frames 0x0C 0) 8 4
def Comp.skimKib (c : Comp) : Nat := fle (frmBody c.frames 0x0C 0) 12 4
/-- Size of a save area in KiB (R243). -/
def Comp.saveKib (c : Comp) : Nat := (max c.creamKib c.skimKib + 63) / 64 * 64
/-- HOST fields (R154). -/
def Comp.portMask (c : Comp) : Nat := fle (frmBody c.frames 0x0B 0) 0 1
def Comp.rings (c : Comp) : Nat := fle (frmBody c.frames 0x0B 0) 2 2
def Comp.msix (c : Comp) : Nat := fle (frmBody c.frames 0x0B 0) 4 2
/-- Composition flags: TESSEL_COMPAT and MULTI_MODULE (R136). -/
def Comp.tessel (c : Comp) : Bool := c.flags.testBit 0
def Comp.multi (c : Comp) : Bool := c.flags.testBit 1

/-- The hold clock of a composition in MHz (R379): FLOOR_MHZ × 32 / 31 rounded up to a multiple of 25. -/
def holdClock (floor : Nat) : Nat := ceilDiv (floor * 32) (31 * 25) * 25

/-! ## Journal (R418-R422) -/

/-- Bytes of a record (R419): header and chain, and its body. Bodies whose layout no table gives count 16 bytes a field
(assumption 15). -/
def JRec.size (r : JRec) : Nat :=
  match r with
  | .comp _ _ => 64 + 256
  | .commit _ _ l => 64 + 256 + 16 * l.length
  | .token _ _ => 64 + 64
  | .tokens l => 64 + 64 * l.length
  | .snapEnd _ => 64 + 48
  | .spareMap _ me vt meSp vtSp _ _ _ ret => 64 + (8 + me.length + vt.length + meSp.length + vtSp.length + 2 * ret.length + 15) / 16 * 16
  | .health a b _ => 64 + (2 * (a.length + b.length) + 35) / 16 * 16
  | .bindBegin .. => 64 + 64
  | .rebindBegin .. => 64 + 112
  | .signer _ x => 64 + (56 + x.rsa.length + x.slh.length + 15) / 16 * 16
  | .fjob _ _ _ _ n => 64 + (2 * n.length + 23) / 16 * 16
  | .ctx .. => 64 + 32
  | .repair _ rows => 64 + (4 * rows.length + 19) / 16 * 16
  | _ => 64 + 16

/-- Whether the writer commits: a SUP core writes, the half is not full and the input stands (R411, R418, R423, R425). -/
def State.canCommit (s : State) : Bool := decide (s.jrn.writer ≠ 0) && !s.jrn.full && !s.pwr.inputLost

/-- A record is appended to the log. At 75 % of its 64 MiB the half is compacted once the other is erased; at 100 % commits wait (R425). -/
def State.append (s : State) (e : JEnt) : State :=
  let used := s.jrn.usedBytes + e.r.size
  { s with jrn := { s.jrn with log := s.jrn.log ++ [{ e with ans := [] }], owed := s.jrn.owed ++ e.ans, seq := s.jrn.seq + 1, usedBytes := used,
                               compacting := s.jrn.compacting || (decide (0x3000000 ≤ used) && !s.jrn.erasing),
                               full := s.jrn.full || decide (0x4000000 ≤ used) } }

/-- The records of one step as one commit: END stands on the last (R186, R422). -/
def runOf (rs : List JRec) : List JEnt := rs.zipIdx.map (fun e => { r := e.1, last := decide (e.2 + 1 = rs.length) })

/-- Records become durable at once as one commit, after those that waited before it: the log keeps the order in which records are handed to the
writer (R186, R418, R422). -/
def State.durableRun (s : State) (rs : List JRec) : State :=
  ({ s with jrn := { s.jrn with waiting := [] } } : State).each (s.jrn.waiting ++ runOf rs) (fun s e => s.append e)
def State.durable (s : State) (r : JRec) : State := s.durableRun [r]

/-- Records wait for the next commit (R418). -/
def State.jwaitRun (s : State) (rs : List JRec) : State := { s with jrn := { s.jrn with waiting := s.jrn.waiting ++ runOf rs } }
def State.jwait (s : State) (r : JRec) : State := s.jwaitRun [r]

/-- Journals the records of one step: durable when the writer commits, otherwise they wait. -/
def State.journalRun (s : State) (rs : List JRec) : State := if s.canCommit then s.durableRun rs else s.jwaitRun rs
def State.journal (s : State) (r : JRec) : State := s.journalRun [r]

/-! ## Measurement blocks (R345) -/

/-- A measurement block changes; MEAS_COUNT advances. -/
def State.measure (s : State) (i : Nat) (d : Digest) : State :=
  if Map.get 0 s.sec.meas i = d then s
  else { s with sec := { s.sec with meas := Map.set 0 i d s.sec.meas, measCount := s.sec.measCount + 1 } }

/-- LAST_CODE of SEC_BOOT. -/
def State.secCode (s : State) (c : Nat) : State := { s with sec := { s.sec with lastCode := c } }
/-- LAST_CODE of PWR_STATUS, reported to the tray controller (R388). -/
def State.pwrCode (s : State) (c arg : Nat) : State := ({ s with pwr := { s.pwr with lastCode := c } }).tray c arg
/-- LAST_CODE of MTR_STATUS, reported to the tray controller (R368). -/
def State.mtrCode (s : State) (c : Nat) : State := ({ s with pail := { s.pail with lastCode := c } }).tray c 0
/-- LAST_CODE of a host port, reported to the tray controller (R316). -/
def State.hostCode (s : State) (h c : Nat) : State := (s.updHport h (fun p => { p with lastCode := c })).tray c h
/-- LAST_CODE of a fabric port, reported to the tray controller (R292). -/
def State.fabCode (s : State) (f c : Nat) : State := (s.updFport f (fun p => { p with lastCode := c })).tray c f

/-- A wrapping or saturating count. -/
def sat (lim v : Nat) : Nat := min lim v

/-- A 64-byte record from its fields: offset, size in bytes, value (R2). -/
def recOf (fs : List (Nat × Nat × Nat)) : BitVec 512 :=
  BitVec.ofNat 512 (fs.foldl (fun a f => a + (f.2.2 % 256 ^ f.2.1) <<< (8 * f.1)) 0)

/-! ## Credit pools and drops (R111, R128) -/

/-- A pool; one that nothing has used is full. -/
def State.pool (s : State) (id : Nat) : Pool := (Map.get none s.net.pools id).getD { held := poolSize id }
def State.updPool (s : State) (id : Nat) (f : Pool → Pool) : State :=
  { s with net := { s.net with pools := Map.set none id (some (f (s.pool id))) s.net.pools } }

/-- A slot is freed, and its credit is on its way back (R128). -/
def State.freeOn (s : State) (id : Nat) : State :=
  s.updPool id (fun p => { p with occ := p.occ - 1, fly := p.fly + 1, ret := p.ret + 1, cs := p.cs + 1 })

/-- A drop is counted and reported to the HLT core (R111). -/
def State.countDrop (s : State) (r : Nat) : State :=
  (s.updRouter r (fun x => { x with drops := x.drops + 1 })).emit (.dropped r)

/-- A drop: the slot is freed, and the drop is counted (R111). -/
def State.dropFlit (s : State) (r id : Nat) : State := (s.freeOn id).countDrop r

/-- A crossing between two islands (R131). -/
def State.xing (s : State) (x : Nat) : Xing := Map.get {} s.net.xings x
def State.updXing (s : State) (x : Nat) (f : Xing → Xing) : State :=
  { s with net := { s.net with xings := Map.upd {} x f s.net.xings } }

end Sys2Proof.Machine
end

