-- ==== Sys2Proof/Machine/FabRoute.lean ====
section
/-!
DEFINITION. Frames on their way: virtual channels and credits of the fabric ports (R269, R270), the routes of a torus and of a
dragonfly (R273 to R275), and the choice of a port (R276).
-/

namespace Sys2Proof.Machine

/-! ## Virtual channels (R269, Table 11.4) -/

/-- Number of the VC of a frame. -/
def vcNum (f : Frame) : Nat := 4 * f.cls + f.level
/-- Units of a VC's ingress buffer. -/
def vcSize (vc : Nat) : Nat := if vc / 4 = 2 then 2048 else if vc / 4 = 3 then 64 else 1024
/-- Units of a frame: its header, and each payload unit. RD_REQ has none. -/
def frUnits (f : Frame) : Nat := 1 + (if f.typ = 1 then 0 else f.len)
/-- Bytes of frame space of a frame (R265). -/
def frBytes (f : Frame) : Nat := 32 + 64 * ((frUnits f) - 1)
/-- CREDIT, AUDIT and LINK frames are hop-only; IDLE is filler (R266). -/
def hopOnly (f : Frame) : Bool := decide (f.typ = 0 ∨ 0x0A ≤ f.typ)

def FabPort.vc (p : FabPort) (v : Nat) : VcS := Map.get {} p.vcs v
def FabPort.updVc (p : FabPort) (v : Nat) (g : VcS → VcS) : FabPort := { p with vcs := Map.upd {} v g p.vcs }

/-- Whether a port holds the credits of a frame. -/
def FabPort.fits (p : FabPort) (f : Frame) : Bool :=
  decide ((p.vc (vcNum f)).used + (frUnits f) ≤ vcSize (vcNum f)) && !(p.vc (vcNum f)).resolving

/-- Frame space left in the open codeword of a port: what an earlier microsecond left of it has been filled with IDLE (R261, assumption 37). -/
def FabPort.room (x : FabPort) (now : Nat) : Nat := if x.cwAt = now then x.cwLeft else 0
/-- Codewords a frame opens, 640 bytes of frame space each: it is packed behind the frame before it and may straddle two (R261). -/
def FabPort.opens (x : FabPort) (now : Nat) (f : Frame) : Nat := ceilDiv (frBytes f - x.room now) 640

/-- Sends one frame on a port. The replay buffer holds the last 512 codewords (R261, R262). -/
def State.transmit (s : State) (p : Nat) (f : Frame) : State :=
  let x := s.fport p
  let k := x.opens s.now f
  let s := s.each (List.range k) (fun s i => s.emit (.codeword p ((x.seq + i) % 1024) x.ack))
  (s.updFport p (fun x =>
    let x := if hopOnly f then x
      else x.updVc (vcNum f) (fun v => { v with used := v.used + (frUnits f), sent := v.sent + BitVec.ofNat 32 (frUnits f) })
    { x with seq := (x.seq + k) % 1024, cwLeft := x.room s.now + 640 * k - frBytes f, cwAt := s.now,
             txBytes := x.txBytes + BitVec.ofNat 64 (frBytes f),
             replay := (x.replay ++ [((x.seq + k + 1023) % 1024, f)]).filter (fun e =>
               decide ((x.seq + k + 2047 - e.1) % 1024 < 512)) })).emit (.frame p f)

/-- A LINK frame of a port: 32 bytes of frame space, no credits (R266). -/
def State.sendLink (s : State) (p : Nat) (o : Out) : State := (s.updFport p (fun x => { x with txBytes := x.txBytes + 32 })).emit o

/-- Codewords of the replay buffer from some on are sent again: each is counted, and so are its frames' bytes (R262, R293). -/
def State.replayOut (s : State) (p : Nat) (l : List (Nat × Frame)) : State :=
  let n := ((l.map (fun e => e.1)).eraseDups).length
  let s := s.updFport p (fun x => { x with errB := sat 0xFFFF (x.errB + n), txBytes := x.txBytes + BitVec.ofNat 64 ((l.map (fun e => frBytes e.2)).sum) })
  s.each l (fun s e => s.emit (.frame p e.2))

/-- The waiting frame a port sends next: CTRL first, then the classes REQ, RSP and COLL in turn, one frame at a time; in order on each VC
(R269). -/
def FabPort.next (x : FabPort) : Option Frame :=
  let heads := x.wait.zipIdx.filter (fun (e : Frame × Nat) =>
    x.fits e.1 && !(x.wait.take e.2).any (fun g => (vcNum g) == (vcNum e.1)))
  ([3, (x.rr + 1) % 3, (x.rr + 2) % 3, x.rr % 3].findSome? (fun c => heads.find? (fun (e : Frame × Nat) => decide (e.1.cls % 4 = c)))).map
    (fun e => e.1)

/-- A frame no longer waits at its egress: the reservation it held there is free (R276). -/
def FabPort.unwait (x : FabPort) (f : Frame) : FabPort :=
  let x := { x with wait := x.wait.erase f }
  match x.lent.find? (fun e => e.2 == f) with
  | none => x
  | some e => { x with lent := x.lent.erase e, resv := Map.upd 0 (16 * e.1 + vcNum f) (fun n => n - frUnits f) x.resv }

/-- Sends the waiting frames a port holds credits for. -/
def State.portDrain (s : State) (p fuel : Nat) : State :=
  match fuel with
  | 0 => s
  | n + 1 =>
    if (s.fport p).st ≠ .active then s
    else match (s.fport p).next with
      | none => s
      | some f => State.portDrain ((s.updFport p (fun x => { x.unwait f with rr := if f.cls % 4 = 3 then x.rr else f.cls % 4 })).transmit p f) p n

/-- Hands a frame to a port. -/
def State.portSend (s : State) (p : Nat) (f : Frame) : State :=
  if hopOnly f then s.transmit p f
  else
    let s := s.updFport p (fun x => { x with wait := x.wait ++ [f] })
    s.portDrain p (s.fport p).wait.length

/-- A frame leaves the ingress buffer: its units are freed. -/
def State.freeFrame (s : State) (p : Nat) (f : Frame) : State :=
  s.updFport p (fun x => x.updVc (vcNum f) (fun v => { v with freed := v.freed + BitVec.ofNat 32 (frUnits f) }))

/-- A drop: counted, its credit returned. -/
def State.dropFrame (s : State) (p : Nat) (f : Frame) : State :=
  (s.freeFrame p f).updFport p (fun x => { x with drops := x.drops + 1 })

/-- The ACTIVE fabric ports. -/
def State.activePorts (s : State) : List Nat :=
  (s.fab.ports.filter (fun e => decide (e.2.st = .active))).map (fun e => e.1)

/-! ## Topology (Table 11.14) -/

/-- Ring sizes X, Y and Z. -/
def Fab.ring (f : Fab) (d : Nat) : Nat := bits f.topo (4 * d + 3) (4 * d) + 1
def Fab.dragonfly (f : Fab) : Bool := bit f.topo 32
def Fab.gsize (f : Fab) : Nat := bits f.topo 23 20 + 1

/-- Nodes the topology has. -/
def Fab.size (f : Fab) : Nat := if f.dragonfly then f.gsize * (bits f.topo 31 24 + 1) else f.ring 0 * f.ring 1 * f.ring 2

/-- Coordinate of a node in a dimension (R273). -/
def Fab.coord (f : Fab) (n d : Nat) : Nat :=
  match d with
  | 0 => n % f.ring 0
  | 1 => n / f.ring 0 % f.ring 1
  | _ => n / (f.ring 0 * f.ring 1)

/-- The node one step from n in a dimension, and whether the step crosses the dateline. -/
def Fab.stepNode (f : Fab) (n d : Nat) (pos : Bool) : Nat × Bool :=
  let z := f.ring d
  let c := f.coord n d
  let c' := if pos then (c + 1) % z else (c + z - 1) % z
  let scale := match d with | 0 => 1 | 1 => f.ring 0 | _ => f.ring 0 * f.ring 1
  (n - c * scale + c' * scale, if pos then decide (c + 1 = z) else decide (c = 0))

/-- The dimension and direction a frame at node n moves in toward node t: the shorter way, and the positive way when both are equal
(R273). -/
def Fab.toward (f : Fab) (n t : Nat) : Option (Nat × Bool) :=
  (List.range 3).findSome? (fun d =>
    let z := f.ring d
    let fwd := (f.coord t d + z - f.coord n d) % z
    if fwd = 0 then none else some (d, decide (2 * fwd ≤ z)))

/-! ## The way of a frame -/

/-- Hash of R276 for a frame. -/
def frHash (f : Frame) : Nat :=
  if f.typ = 6 ∨ f.typ = 7 then Config.offsetHash (bits f.arg 31 0) else Config.bundleHash f.src f.dst f.fjob f.sel

/-- The port of a bundle a frame leaves by: among those on the I/O die it entered by first (R276). Eight ports lie on a die (R20). -/
def pickPort (bundle : List Nat) (inp : Option Nat) (h : Nat) : Option Nat :=
  let near := match inp with | none => [] | some q => bundle.filter (fun p => p / 8 == q / 8)
  let l := if near.isEmpty then bundle else near
  l[h % l.length]?

/-- ACTIVE ports of a ROLE. -/
def State.roleActive (s : State) (role : Nat) : List Nat := s.activePorts.filter (fun p => decide ((s.fport p).role = role))

/-- The detour entry for a node: its waypoint (R275). -/
def State.fabDetour (s : State) (dst : Nat) : Option Nat := (s.fab.detours.find? (fun e => e.1 == dst)).map (fun e => e.2)

/-- The way of a frame on a torus (R273, R275): the port and the frame with its LEVEL. A detour entry whose waypoint is this node
starts the second leg (assumption 36). -/
def State.routeTorus (s : State) (inp : Option Nat) (f : Frame) : Option (Nat × Frame) :=
  let me := s.fab.node
  let leg2 := decide (2 ≤ f.level) || decide (s.fabDetour f.dst = some me)
  let t := if leg2 then f.dst else (s.fabDetour f.dst).getD f.dst
  match s.fab.toward me t with
  | none => none
  | some (d, pos) =>
    let same := match inp with | none => false | some q => decide (((s.fport q).role - 1) / 2 = d ∧ 0 < (s.fport q).role)
    let low := if (s.fab.stepNode me d pos).2 then 1 else if same then f.level % 2 else 0
    (pickPort (s.roleActive (1 + 2 * d + (if pos then 0 else 1))) inp (frHash f)).map
      (fun p => (p, { f with level := low + (if leg2 then 2 else 0) }))

/-- Ports with a GLOBAL link to a group, and members of this group that have one, lowest first, by their LOCAL ports (R274). -/
def State.globalTo (s : State) (g : Nat) : List Nat :=
  (s.roleActive 8).filter (fun p => match (s.fport p).peer with | none => false | some q => q.node / s.fab.gsize == g)
def State.localTo (s : State) (hit : PeerId → Bool) : List Nat :=
  (s.roleActive 7).filter (fun p => match (s.fport p).peer with | none => false | some q => hit q)

/-- Ports on the way to a group: the GLOBAL ports to it, or the LOCAL port to the lowest member that has one. -/
def State.toGroup (s : State) (g : Nat) : List Nat :=
  let gl := s.globalTo g
  if !gl.isEmpty then gl
  else
    let ls := s.localTo (fun q => q.groups.contains g)
    let nodeOf (p : Nat) : Nat := match (s.fport p).peer with | none => 4096 | some q => q.node
    ls.filter (fun p => ls.all (fun q => decide (nodeOf p ≤ nodeOf q)))

/-- Whether a group is known to have a global link to another: the peer of a GLOBAL port names the groups its group reaches (R274, assumption
36). -/
def State.linked (s : State) (a b : Nat) : Bool :=
  (s.roleActive 8).any (fun p => match (s.fport p).peer with | none => false | some q => q.node / s.fab.gsize == a && q.groups.contains b)

/-- The way of a frame on a dragonfly (R274): minimal, or for a COLL frame through group VIA; where no global link reaches the group,
through the lowest-numbered group linked to both. Where none is known, the detour entry names the group, or it is the lowest-numbered that this
group reaches (assumption 36). LEVEL counts the global hops taken. -/
def State.routeDragonfly (s : State) (inp : Option Nat) (f : Frame) : Option (Nat × Frame) :=
  let gz := s.fab.gsize
  let me := s.fab.node
  let dg := f.dst / gz
  let go (g : Nat) (f : Frame) : Option (Nat × Frame) :=
    (pickPort (s.toGroup g) inp (frHash f)).map (fun p => (p, if (s.fport p).role = 8 then { f with level := min 3 (f.level + 1) } else f))
  if dg = me / gz then
    (pickPort (s.localTo (fun q => q.node == f.dst)) inp (frHash f)).map (fun p => (p, f))
  else if f.via ≠ 0 ∧ f.level = 0 ∧ f.via ≠ me / gz then go f.via f
  else
    let half (p : Nat) : Bool := decide (vcSize (vcNum f) < 2 * ((s.fport p).vc (vcNum f)).used)
    let quarter (p : Nat) : Bool := decide (4 * ((s.fport p).vc (vcNum f)).used < vcSize (vcNum f))
    let other := (List.range 256).find? (fun g => decide (g ≠ 0 ∧ g ≠ dg ∧ g ≠ me / gz) && (s.toGroup g).any quarter)
    let minimal := s.toGroup dg
    if f.cls = 2 ∧ inp = none ∧ !minimal.isEmpty ∧ minimal.all half ∧ other.isSome = true then
      go (other.getD 0) { f with via := other.getD 0 }
    else if !minimal.isEmpty then go dg f
    else
      let near := (List.range 256).filter (fun g => decide (g ≠ me / gz) && !(s.toGroup g).isEmpty)
      match near.find? (fun g => s.linked g dg), (s.fabDetour f.dst).map (fun w => w / gz), near.head? with
      | some g, _, _ => go g f
      | none, some g, _ => go g f
      | none, none, some g => go g f
      | none, none, none => none

/-- The way of a frame from this node, from the port it entered by. -/
def State.route (s : State) (inp : Option Nat) (f : Frame) : Option (Nat × Frame) :=
  if f.dst = s.fab.node then none
  else if s.fab.dragonfly then s.routeDragonfly inp f else s.routeTorus inp f

/-- Whether a route reaches a node (R275). This node reaches itself. -/
def State.reachable (s : State) (n : Nat) : Bool :=
  decide (n = s.fab.node) || (s.route none { Frame.zero with dst := n }).isSome

/-- A node that no route reaches is reported as NO_ROUTE, to the operator and the tray controller (R275, R292). -/
def State.noRoute (s : State) (n : Nat) : State := (s.tray 0x078C n).emit (.operator 0x078C n)

/-- Sends a frame toward its DST_NODE. -/
def State.sendFrame (s : State) (f : Frame) : State :=
  match s.route none f with
  | none => if f.dst = s.fab.node then s else s.noRoute f.dst
  | some t => s.portSend t.1 t.2

/-! ## Frames in transit (R276) -/

/-- A notice that is flooded (R287): NODE_DOWN, NODE_UP and ABANDON. -/
def flooded (f : Frame) : Bool := decide (f.typ = 9 ∧ bits f.arg 63 56 ≤ 3)

/-- Whether a received frame goes on to another module. -/
def State.transits (s : State) (f : Frame) : Bool := !(flooded f || decide (f.dst = s.fab.node))

/-- A frame in transit goes on. To a port of another I/O die it leaves its ingress buffer only with the egress reservation of its VC there, 32 units
for each die; until then it waits, and those behind it on its VC do too. The packets that carry it between the dies are not shown: the reservation
keeps them from waiting in the router plane (R276, assumption 219). -/
def State.forward (s : State) (p : Nat) (f : Frame) : State :=
  let x := s.fport p
  if !x.inq.contains f ∨ (x.inq.takeWhile (fun g => g != f)).any (fun g => s.transits g && vcNum g == vcNum f) = true then s
  else
    let out (s : State) : State := (s.updFport p (fun x => { x with inq := x.inq.erase f })).freeFrame p f
    match s.route (some p) { f with hops := f.hops + 1 } with
    | none => ((out s).updFport p (fun x => { x with drops := x.drops + 1 })).noRoute f.dst
    | some (q, g) =>
      if q / 8 = p / 8 then (out s).portSend q g
      else
        let key := 16 * (p / 8) + vcNum g
        if Map.get 0 (s.fport q).resv key + frUnits g ≤ 32 then
          ((out s).updFport q (fun y => { y with
            resv := Map.upd 0 key (fun n => n + frUnits g) y.resv, lent := y.lent ++ [(p / 8, g)] })).portSend q g
        else s

/-- What waits at the ports for a reservation goes on as it comes free. -/
def State.forwardAll (s : State) : State :=
  s.each s.activePorts (fun s p => s.each ((s.fport p).inq.filter s.transits) (fun s f => s.forward p f))

/-! ## Detours of this module's own failures (R275) -/

/-- The waypoint for a node whose way along dimension d has failed: for the first dimension this node's neighbour one step aside toward the
destination, for the others the node beside the destination, one step back in the first dimension (R115, R275, assumption 220). -/
def Fab.waypoint (f : Fab) (me t d : Nat) : Option Nat :=
  let aside (n : Nat) (l : List Nat) (pos : Nat → Bool) : Option Nat :=
    (l.find? (fun e => decide (1 < f.ring e))).map (fun e => (f.stepNode n e (pos e)).1)
  match d with
  | 0 =>
    let toward (e : Nat) : Bool := decide (2 * ((f.coord t e + f.ring e - f.coord me e) % f.ring e) ≤ f.ring e)
    aside me [1, 2] toward
  | 1 => aside t [0, 2] (fun _ => false)
  | _ => aside t [0, 1] (fun _ => false)

/-- The nodes that no route reaches any more take a detour entry, and one that has no route even so is reported (R275). `before` is the module as
it was. -/
def State.detourLost (s before : State) : State :=
  let lost := (List.range s.fab.size).filter (fun t => before.reachable t && !s.reachable t)
  s.each lost (fun s t =>
    let w := if s.fab.dragonfly then none else match s.fab.toward s.fab.node t with
      | none => none
      | some (d, _) => s.fab.waypoint s.fab.node t d
    let s := match w with
      | none => s
      | some w => { s with fab := { s.fab with detours := s.fab.detours.filter (fun e => e.1 != t) ++ [(t, w)] } }
    if s.reachable t then s else s.noRoute t)

end Sys2Proof.Machine
end

