-- ==== Sys2Proof/Machine/Memory.lean ====
section
/-!
DEFINITION. The two memory tiers: set-space addresses (R153), sectors with their code, poison and encryption
(R190-R194, R206, R207), reads and writes of one sector, weight sets (R197), and the byte views of host and far memory.
-/

namespace Sys2Proof.Machine

/-! ## Set-space addresses (R153) -/

/-- An interleave set: granule bits G and its logical partitions in interleave order. -/
structure ISet where
  g : Nat
  lps : List Nat
  deriving DecidableEq, Repr

/-- The interleave set a MEMORY frame defines (Table 6.12). -/
def isetOf (b : List Byte) : ISet :=
  { g := fle b 0 1, lps := ((b.drop 16).take (fle b 1 1)).map (fun x => x.toNat) }

/-- Interleave set `key` of a composition. -/
def Comp.iset (c : Comp) (key : Nat) : Option ISet := (findFrm c.frames 9 key).map (fun f => isetOf f.body)

/-- Usable bytes of a channel (R190). -/
def chanBytes : Nat := 0x3C000000

/-- Bytes of a set's space. -/
def ISet.bytes (t : ISet) : Nat := 8 * t.lps.length * chanBytes

/-- Where a set-space address lies: logical partition, channel within it, channel offset (R153). -/
def ISet.locate (t : ISet) (a : Nat) : Nat × Nat × Nat :=
  let k8 := 8 * t.lps.length
  let g := a >>> t.g
  let s := g % k8
  (nth 0 t.lps (s / 8), s % 8, ((g / k8) <<< t.g) + a % 2 ^ t.g)

/-- The set-space address of a channel offset, when the set holds the logical partition. -/
def ISet.addrOf (t : ISet) (lp k off : Nat) : Option Nat :=
  (t.lps.findIdx? (fun x => x == lp)).map (fun i =>
    ((((off >>> t.g) * (8 * t.lps.length)) + 8 * i + k) <<< t.g) + off % 2 ^ t.g)

/-! ## Sectors -/

/-- The poison marker: 64 zero bytes with check entry 0xFFFF_FFFF (R193). -/
def Sector.poison : Sector := { data := 0, check := 0xFFFFFFFF, sealed := none }
def Sector.isPoison (x : Sector) : Bool := decide (x.data = 0 ∧ x.check = 0xFFFFFFFF) && x.sealed.isNone

/-- The check entry of stored bytes (R192, R193): zero for all-zero data. -/
def checkOf (stored : BitVec 512) : Word32 := if stored = 0 then 0 else Config.rsCheck stored

/-- The stored bytes of a sector: ciphertext when it is sealed (R192). -/
def Sector.stored (x : Sector) : BitVec 512 :=
  match x.sealed with | none => x.data | some (k, t) => Config.xtsCipher k t x.data

/-- What a sector reads as under a key, or in the clear (R206, R207): the plaintext under the key and tweak it was
written with, otherwise what the cipher gives. -/
def Sector.view (x : Sector) (key : Option (Nat × BitVec 128)) : BitVec 512 :=
  match key with
  | none => x.stored
  | some (k, t) => if x.sealed = some (k, t) then x.data else Config.xtsPlain k t x.stored

/-- A sector written under a key, or in the clear, with a valid check entry (R194). -/
def Sector.make (key : Option (Nat × BitVec 128)) (d : BitVec 512) : Sector :=
  match key with
  | none => { data := d, check := checkOf d, sealed := none }
  | some (k, t) => { data := d, check := Config.rsCheck (Config.xtsCipher k t d), sealed := some (k, t) }

/-- The tweak of a LOCAL sector (Table 8.9): CID, composition generation, logical partition, channel, sector. -/
def tweakLocal (cid : Nat) (gen : Word16) (lp k sec : Nat) : BitVec 128 :=
  BitVec.ofNat 128 (fld 104 cid + fld 88 gen.toNat + fld 82 lp + fld 79 k + sec)

/-- The tweak of a FAR sector (Table 8.9). -/
def tweakFar (cid : Nat) (gen : Word16) (port sec : Nat) : BitVec 128 :=
  BitVec.ofNat 128 (fld 127 1 + fld 104 cid + fld 88 gen.toNat + fld 80 port + sec)

/-- The key that a key selector gives (R206): none when bit 12 is 0. -/
def State.keyOf (s : State) (keysel : Nat) (tweak : BitVec 128) : Option (Nat × BitVec 128) :=
  if keysel.testBit 12 then some ((s.kslot (keysel % 4096)).key, tweak) else none

/-- The tweak of sector `sec` of channel ch = 8 n + k, for the composition that holds partition n. -/
def State.tweakOf (s : State) (ch sec : Nat) : BitVec 128 :=
  let p := s.part (ch / 8)
  tweakLocal p.cid (s.comp p.cid).gen p.lp (ch % 8) sec

/-- Physical byte address of a data sector, of its check sector and of its check entry (R190). -/
def secPhys (i : Nat) : Nat := i / 15 * 1024 + 64 * (i % 15)
def checkPhys (i : Nat) : Nat := i / 15 * 1024 + 960
def entryPhys (i : Nat) : Nat := i / 15 * 1024 + 960 + 4 * (i % 15)

/-- The check sector of block b: the check entries of its fifteen data sectors, and in bytes 60 to 63 its own (R190, R192). -/
def checkSector (secs : Map Sector) (b : Nat) : BitVec 512 :=
  let body := (List.range 15).foldl (fun a j => a + fld (32 * j) (Map.get {} secs (15 * b + j)).check.toNat) 0
  BitVec.ofNat 512 (body + fld 480 (checkOf (BitVec.ofNat 512 body)).toNat)

/-- The row of a physical byte address: 2 KiB rows (assumption 16). -/
def rowOf (phys : Nat) : Nat := phys / 2048

/-- Sum with a wrapping 64-bit entry of a list of per-class counts. -/
def bump (l : List Word64) (i : Nat) (n : Nat) : List Word64 := l.set i (nth 0 l i + BitVec.ofNat 64 n)

/-- Queues a row for repair once; the queue is journaled (R196, R420). -/
def State.queueRow (s : State) (ch row : Nat) : State :=
  if (s.chan ch).rows.contains row then s
  else
    let rows := (s.chan ch).rows ++ [row]
    (s.updChan ch (fun c => { c with rows := rows })).jwait (.repair ch rows)

/-! ## Weight sets (R154, R197) -/

/-- Where a weight set is kept: the first interleave set of the composition, from the top of its space downwards, in KEY
order (assumption 17). Answers the interleave set's key and the set-space address of set `w`. -/
def Comp.weightAt (c : Comp) (w : Nat) : Option (Nat × Nat) :=
  match c.frames.find? (fun f => f.typ == 9) with
  | none => none
  | some m =>
    let above := (c.weights.filter (fun e => decide (e.1 ≤ w))).foldl (fun a e => a + e.2.len) 0
    some (m.key, (isetOf m.body).bytes - above)

/-- The weight set of a composition that a channel sector belongs to. -/
def Comp.weightOf (c : Comp) (lp k off : Nat) : Option Nat :=
  (c.weights.find? (fun e =>
    match c.weightAt e.1 with
    | none => false
    | some (key, a) =>
      match (c.iset key).bind (fun t => t.addrOf lp k off) with
      | none => false
      | some x => decide (a ≤ x ∧ x < a + e.2.len))).map (fun e => e.1)

/-- The weight set that holds a sector of channel ch, with its composition. -/
def State.weightAt (s : State) (ch off : Nat) : Option (Nat × Nat) :=
  let p := s.part (ch / 8)
  match p.st with
  | .bound => ((s.comp p.cid).weightOf p.lp (ch % 8) off).map (fun w => (p.cid, w))
  | _ => none

/-- An uncorrectable read inside a weight set poisons the whole set (R197 step 2). -/
def State.poisonSet (s : State) (ch off : Nat) : State :=
  match s.weightAt ch off with
  | none => s
  | some (c, w) => s.updComp c (fun x => { x with weights := Map.upd {} w (fun v =>
      if v.poisoned then v else { v with poisoned := true, fails := 0 }) x.weights })

/-- Whether the sector lies in a weight set that is marked poisoned. -/
def State.inPoisonedSet (s : State) (ch off : Nat) : Bool :=
  match s.weightAt ch off with
  | none => false
  | some (c, w) => (Map.get {} (s.comp c).weights w).poisoned

/-! ## One sector of a channel -/

/-- An uncorrectable check sector of block b (Table 8.2): its fifteen sectors become poison markers and the event is counted, its row is queued
for repair, and the weight sets they belong to are poisoned. The check sector, made of the entries, is valid again. -/
def State.poisonBlock (s : State) (ch b : Nat) : State :=
  let s := s.updChan ch (fun c =>
    { c with secs := (List.range 15).foldl (fun m j => Map.set {} (15 * b + j) Sector.poison m) c.secs,
             ue := sat 0xFFFF (c.ue + 1), ueAddr := some (checkPhys (15 * b)) })
  (s.queueRow ch (rowOf (checkPhys (15 * b)))).each (List.range 15) (fun s j => s.poisonSet ch (64 * (15 * b + j)))

/-- Applies Table 8.2 to sector `i` of channel `ch`: what the controller found is `err`. Answers whether the read is
poisoned, and the memory afterwards. -/
def State.decodeSector (s : State) (ch i : Nat) (err : ReadErr) : Bool × State :=
  let c := s.chan ch
  let x := Map.get {} c.secs i
  if x.isPoison then (true, s)
  else match err with
    | .clean => (false, s)
    | .oneSymbol =>
      let row := rowOf (secPhys i)
      let l := within s.now 86400000000000 (Map.get [] c.corr row)
      let s := s.updChan ch (fun c => { c with ce := c.ce + 1, corr := Map.set [] row l c.corr })
      (false, if 4 ≤ l.length then s.queueRow ch row else s)
    | .badData =>
      let s := s.updChan ch (fun c =>
        { c with secs := Map.set {} i Sector.poison c.secs, ue := sat 0xFFFF (c.ue + 1), ueAddr := some (secPhys i) })
      (true, (s.queueRow ch (rowOf (secPhys i))).poisonSet ch (64 * i))
    | .badCheck => (true, s.poisonBlock ch (i / 15))

/-- An outcome of Table 8.2 by its number. -/
def readErrOf (v : BitVec 2) : ReadErr := match v.toNat with | 0 => .clean | 1 => .oneSymbol | 2 => .badData | _ => .badCheck

/-- What the controller finds when a unit's access reads a sector: the spec leaves it open (assumption 186). -/
def State.drawErr (s : State) : ReadErr × State := (readErrOf (Config.readErr s.fresh), { s with fresh := s.fresh + 1 })

/-- Reads one sector of a channel for a master class (R193, R197, R203). A poisoned read returns zero. -/
def State.rdSector (s : State) (ch i keysel cls : Nat) (err : ReadErr) : BitVec 512 × Bool × State :=
  let r := s.decodeSector ch i err
  let s1 := r.2.updChan ch (fun c => { c with rdBytes := bump c.rdBytes cls 64 })
  let bad := r.1 || s1.inPoisonedSet ch (64 * i)
  if bad then (0, true, s1)
  else ((Map.get {} (s1.chan ch).secs i).view (s1.keyOf keysel (s1.tweakOf ch i)), false, s1)

/-- Stores a whole sector with a valid check entry (R194). -/
def State.wrSector (s : State) (ch i keysel cls : Nat) (d : BitVec 512) : State :=
  s.updChan ch (fun c =>
    { c with secs := Map.set {} i (Sector.make (s.keyOf keysel (s.tweakOf ch i)) d) c.secs,
             wrBytes := bump c.wrBytes cls 64 })

/-- Writes a whole sector, with what the controller finds of its check sector: an uncorrectable check sector makes the
other 14 sectors poison markers (Table 8.17). -/
def State.wrSectorErr (s : State) (ch i keysel cls : Nat) (d : BitVec 512) (err : ReadErr) : State :=
  match err with
  | .badCheck => (s.poisonBlock ch (i / 15)).wrSector ch i keysel cls d
  | _ => s.wrSector ch i keysel cls d

/-- A partial write reads, merges and writes back; on poison it stores nothing (R194). Answers whether it stored. -/
def State.wrPartial (s : State) (ch i keysel cls : Nat) (d mask : BitVec 512) (err : ReadErr) : Bool × State :=
  let r := s.rdSector ch i keysel cls err
  if r.2.1 then (false, r.2.2)
  else (true, r.2.2.wrSector ch i keysel cls ((r.1 &&& ~~~mask) ||| (d &&& mask)))

/-! ## Far memory -/

/-- Whether an expander returns the data of a read with poison that its list did not hold at configuration: the spec leaves it open
(Table 8.10, assumption 212). -/
def State.drawFar (s : State) : Bool × State := (Config.farPoison s.fresh, { s with fresh := s.fresh + 1 })

/-- Reads one 64-byte far sector of port d under a key selector, for composition cid (R207, R210). The expander's poison
list makes a read POISON, and so does data that it returns with poison (Table 8.10). -/
def State.rdFar (s : State) (d i keysel cid : Nat) : BitVec 512 × Bool × State :=
  let f := s.farP d
  let p := s.drawFar
  let s1 := p.2.updFar d (fun f => { f with rdBytes := f.rdBytes + 64 })
  if f.poison.contains i || p.1 then
    (0, true, s1.updFar d (fun f => { f with poisonRd := f.poisonRd + 1 }))
  else ((Map.get {} f.secs i).view (s.keyOf keysel (tweakFar cid (s.comp cid).gen d i)), false, s1)

/-- Writes one far sector; a whole-sector write clears its poison (R194). -/
def State.wrFar (s : State) (d i keysel cid : Nat) (v : BitVec 512) : State :=
  s.updFar d (fun f =>
    { f with secs := Map.set {} i (Sector.make (s.keyOf keysel (tweakFar cid (s.comp cid).gen d i)) v) f.secs,
             poison := f.poison.filter (fun x => decide (x ≠ i)), wrBytes := f.wrBytes + 64 })

/-- Bytes of far memory in the clear from far address a (R210), as SUP reads a store or a golden copy. -/
def State.farBytes (s : State) (a n : Nat) : List Byte :=
  let d := a >>> 41
  let o := a % 2 ^ 41
  let f := s.farP d
  ((List.range (ceilDiv (o % 64 + n) 64)).flatMap (fun j =>
    lineBytes ((Map.get {} f.secs (o / 64 + j)).view none)) |>.drop (o % 64)).take n

/-- Whether far address a, n bytes long, can be read in the clear: its port is READY and holds no poison there. -/
def State.farOk (s : State) (a n : Nat) : Bool :=
  let f := s.farP (a >>> 41)
  decide (f.st = .ready) && f.poison.all (fun i => decide (64 * i + 64 ≤ a % 2 ^ 41 ∨ a % 2 ^ 41 + n ≤ 64 * i))

/-- The bytes of a store or golden copy: kind 0 HOST through a port, kind 1 FAR (R168, R169). None when the port is not
there to be read. -/
def State.storeBytes (s : State) (kind port a n : Nat) : Option (List Byte) :=
  if kind = 0 then
    match (s.hport port).st with
    | .up => some ((s.hmem port).rdN a n)
    | .degraded => some ((s.hmem port).rdN a n)
    | _ => none
  else if s.farOk a n then some (s.farBytes a n) else none

/-- What SUP reads of a store or a golden copy moves through its port: the byte counts of a far port count whole sectors (R214, R317). -/
def State.countRead (s : State) (kind port a n : Nat) : State :=
  if kind = 0 then s.updHport port (fun p => { p with rxBytes := p.rxBytes + BitVec.ofNat 64 n })
  else s.updFar (a >>> 41) (fun f => { f with rdBytes := f.rdBytes + BitVec.ofNat 64 (64 * ceilDiv (a % 64 + n) 64) })

/-- Writes the bytes of a whole weight set into its sectors under the shared keyslot, as SAVE traffic (R197 step 3). -/
def State.writeSet (s : State) (c w slot : Nat) (bs : List Byte) : State :=
  match (s.comp c).weightAt w with
  | none => s
  | some (key, a) =>
    match (s.comp c).iset key with
    | none => s
    | some t =>
      (pieces (bs.length / 64 + 1) 64 bs).zipIdx.foldl (fun s e =>
        let l := t.locate (a + 64 * e.2)
        match (s.comp c).phys l.1 with
        | none => s
        | some p => s.wrSector (8 * p + l.2.1) (l.2.2 / 64) (4096 + slot) 4 (bytesLine e.1)) s

/-! ## Requests that wait (R204, R205, R208) -/

/-- Requests of a class outstanding in a channel's table (R204, R205). -/
def Chan.outOf (c : Chan) (cls : Nat) : Nat := (c.waiting.filter (fun r => r.cls == cls)).length

/-- Requests in the transaction table of a package (R205). -/
def State.tableCount (s : State) (pkg : Nat) : Nat := ((List.range 4).map (fun j => (s.chan (4 * pkg + j)).waiting.length)).sum

/-- Whether a class with n requests outstanding is in budget (R204). -/
def Chan.inBudget (c : Chan) (cls n : Nat) : Bool := decide (n ≤ nth 0 c.budget cls)

/-- Serves one request (R193, R194, R204): what it returns goes out, and a request served over budget is counted. -/
def State.serve (s : State) (r : MemReq) (ovr : Bool) : State :=
  let s := if ovr then s.updChan r.ch (fun c => { c with demoted := c.demoted + 1 }) else s
  match r.op with
  | 0 =>
    let t := s.rdSector r.ch (r.off / 64) r.keysel r.cls r.err
    t.2.2.emit (.data t.1 t.2.1)
  | 1 => (s.wrSectorErr r.ch (r.off / 64) r.keysel r.cls r.data r.err).emit (.ack 0)
  | _ =>
    let t := s.wrPartial r.ch (r.off / 64) r.keysel r.cls r.data r.mask r.err
    if t.1 ∨ r.cls = 2 then t.2.emit (.ack 0) else t.2.emit (.data 0 true)

/-- The request of a list that the scheduler serves next: the oldest that is in budget or has aged, else the oldest (R204). A row hit passes
no older request (assumption 187). -/
def Chan.nextReq (c : Chan) (l : List MemReq) : Option MemReq :=
  match l.find? (fun r => r.aged || c.inBudget r.cls (c.outOf r.cls)) with
  | some r => some r
  | none => l.head?

/-- Whether a request is under a keyslot. -/
def MemReq.under (r : MemReq) (slot : Nat) : Bool := r.keysel.testBit 12 && r.keysel % 4096 == slot

/-- The waiting requests of a channel under a keyslot leave the table one by one and are served (R204, R208). -/
def State.serveKey (s : State) (ch slot fuel : Nat) : State :=
  match fuel with
  | 0 => s
  | n + 1 =>
    let c := s.chan ch
    match c.nextReq (c.waiting.filter (fun r => r.under slot)) with
    | none => s
    | some r =>
      let s := (s.updChan ch (fun c => { c with waiting := c.waiting.erase r })).serve r (!c.inBudget r.cls (c.outOf r.cls))
      State.serveKey s ch slot n

/-- A request enters the transaction table: it is served, or waits there for its key (R205, R208). -/
def State.enter (s : State) (r : MemReq) : State :=
  let c := s.chan r.ch
  if r.keysel.testBit 12 && !(Map.get [] s.sec.caches (r.ch / 4)).contains (r.keysel % 4096) then
    s.updChan r.ch (fun c => { c with waiting := c.waiting ++ [r] })
  else s.serve r (!c.inBudget r.cls (c.outOf r.cls + 1))

/-- The crossing between the router of a package controller and the controller, whose 16 credits requests take (R128, R131, R205). -/
def mcXing (pkg : Nat) : Nat := 3936 + pkg
/-- Requests the router holds for a package. -/
def State.heldFor (s : State) (pkg : Nat) : Nat := ((List.range 4).map (fun j => (s.chan (4 * pkg + j)).backlog.length)).sum

/-- A request that finds the table full waits at the router against a credit, or behind its sender while none is left (R205). -/
def State.holdReq (s : State) (r : MemReq) : State :=
  let n := s.heldFor (r.ch / 4)
  let s := s.updChan r.ch (fun c => { c with backlog := c.backlog ++ [r] })
  if n < 16 then s.updXing (mcXing (r.ch / 4)) (fun y => { y with sent := y.sent + 1, held := y.held - 1 }) else s

/-- One of the requests held for a package has entered the table or is dropped: its credit comes back, and one that waits behind a sender takes
it (R128, R205). -/
def State.freeHeld (s : State) (pkg : Nat) : State :=
  let n := s.heldFor pkg
  s.updXing (mcXing pkg) (fun y => if 16 ≤ n then { y with sent := y.sent + 1, credRcvd := y.credRcvd + 1 }
    else { y with credRcvd := y.credRcvd + 1, held := min 16 (y.held + 1) })

/-- What the router held for a channel enters the table of its package while that has room, oldest first (R205). -/
def State.letIn (s : State) (ch fuel : Nat) : State :=
  match fuel with
  | 0 => s
  | n + 1 =>
    match (s.chan ch).backlog with
    | [] => s
    | r :: l =>
      if s.tableCount (ch / 4) < 256 then
        State.letIn (((s.updChan ch (fun c => { c with backlog := l })).freeHeld (ch / 4)).enter r) ch n
      else s

/-- The table takes in what the router held for a package. -/
def State.letInAll (s : State) (pkg : Nat) : State :=
  s.each (List.range 4) (fun s j => s.letIn (4 * pkg + j) (s.chan (4 * pkg + j)).backlog.length)

/-- The requests of a channel under a keyslot are served, and the table takes in what the router held for the package. -/
def State.serveWaiting (s : State) (ch slot : Nat) : State :=
  (s.serveKey ch slot (s.chan ch).waiting.length).letInAll (ch / 4)

/-- Every request queued under a keyslot completes before the slot is withdrawn: those of the table, and then those that routers hold (R208,
R215). -/
def State.serveSlot (s : State) (slot : Nat) : State :=
  s.each s.chans (fun s e =>
    if (e.2.waiting ++ e.2.backlog).any (fun r => r.under slot) then
      let s := s.serveKey e.1 slot (s.chan e.1).waiting.length
      let late := (s.chan e.1).backlog.filter (fun r => r.under slot)
      let s := s.updChan e.1 (fun c => { c with backlog := c.backlog.filter (fun r => !r.under slot) })
      (s.each late (fun s r => (s.freeHeld (e.1 / 4)).serve r (!(s.chan e.1).inBudget r.cls ((s.chan e.1).outOf r.cls + 1)))).letInAll (e.1 / 4)
    else s)

end Sys2Proof.Machine
end

