-- ==== Sys2Proof/Machine/Records.lean ====
section
/-!
DEFINITION. What a host sees written: completion rings, the completion journal, interrupts, events, the dirty-page log
(R303-R308, R311, R323-R326), and the answers of requests (R303, R416).
-/

namespace Sys2Proof.Machine

/-- Client number of a function (R296). -/
def clientOf (port func : Nat) : Nat := 256 * port + func

/-- Host base HB of a function (R227). -/
def hostBaseOf (client : Nat) : Nat := 2 ^ 30 * Config.hostBase client

/-- Sum of 32-bit counts (R304, R325). -/
def add32 (a b : Nat) : Nat := (a + b) % 2 ^ 32
/-- Difference of 32-bit counts. -/
def sub32 (a b : Nat) : Nat := (a + 2 ^ 32 - b % 2 ^ 32) % 2 ^ 32

/-- Slots of a completion ring, occupied and free (R304). -/
def Ring.size (g : Ring) : Nat := 2 ^ g.cqLog2
def Ring.occ (g : Ring) : Nat := sub32 g.cqTail g.cqHead
def Ring.free (g : Ring) : Nat := g.size - g.reserved - g.occ

/-- Whether a host port carries CXL.cache and CXL.mem traffic: its link is up, and IDE is established where it is required (R295). -/
def State.hostUp (s : State) (h : Nat) : Bool :=
  let p := s.hport h
  decide (p.st = .up ∨ p.st = .degraded) && (p.ide || !p.ideReq)

/-- Payload bytes that a host port has sent or received (Table 12.13). -/
def State.hostTx (s : State) (h n : Nat) : State := s.updHport h (fun p => { p with txBytes := p.txBytes + BitVec.ofNat 64 n })
def State.hostRx (s : State) (h n : Nat) : State := s.updHport h (fun p => { p with rxBytes := p.rxBytes + BitVec.ofNat 64 n })

/-- Logs a written page of a function whose log session is open (R323-R325). `page` is the host-view address over 4096,
`kind` 0 host memory and 1 device memory. A record that the host port cannot carry overflows the log (R295, assumption 224). -/
def State.logPage (s : State) (c page kind : Nat) : State :=
  let f := s.fn c
  if !f.logging then s
  else if !s.hostUp (c / 256) then s.updFn c (fun f => { f with ovf := true })
  else if 2 ^ (12 + f.log2) ≤ sub32 f.logTail f.logHead then s.updFn c (fun f => { f with ovf := true })
  else
    let r := page * 4096 + 2 * b2n (f.logTail.testBit (12 + f.log2)) + kind
    let a := 4096 * f.logBase + 8 * (f.logTail % 2 ^ (12 + f.log2))
    ((s.updHmem (c / 256) (fun m => m.wrL a (leBytes r 8))).hostTx (c / 256) 8).updFn c (fun f => { f with logTail := add32 f.logTail 1 })

/-- Raises the vector of a ring once COAL_CNT asks for it (R307). -/
def State.signal (s : State) (c r : Nat) : State :=
  let g := s.ring c r
  if 0 < g.unsig ∧ (g.coalCnt = 0 ∨ g.coalUs = 0 ∨ g.coalCnt ≤ g.unsig) then
    (s.emit (.msix (c / 256) (c % 256) g.vec)).updRing c r (fun g => { g with unsig := 0 })
  else s

/-- A record becomes visible in its CQ slot: the full-line write has completed (R304, R323). -/
def State.cqVisible (s : State) (c r slot : Nat) (rec_ : BitVec 512) : State :=
  let a := 4096 * (s.ring c r).cqBase + 64 * slot
  let s := s.updHmem (c / 256) (fun m => m.wrL a (lineBytes rec_))
  let s := s.updRing c r (fun g => { g with unsig := g.unsig + 1 })
  (s.hostTx (c / 256) 64).logPage c (a / 4096) 0

/-- Writes one record at CQ_TAIL. While the host completes no write of the ring, or its port carries none, the record keeps its slot and waits
behind those before it: it is visible, and may be signalled, only when its write completes (R295, R306, R307, R309). -/
def State.cqWrite (s : State) (c r : Nat) (rec_ : BitVec 512) : State :=
  let g := s.ring c r
  let slot := g.cqTail % g.size
  let s := s.updRing c r (fun g => { g with cqTail := add32 g.cqTail 1 })
  if g.stuck || !g.retry.isEmpty || !s.hostUp (c / 256) then s.updRing c r (fun g => { g with retry := g.retry ++ [(slot, rec_)] })
  else (s.cqVisible c r slot rec_).signal c r

/-- Whether records of a function go to host memory: its lease is HELD and its journal is empty and acknowledged (R311,
R313). -/
def Fn.direct (f : Fn) : Bool := decide (f.lease = .held) && f.journal.isEmpty && !f.mustAck

/-- The fields of HOST_RING_CFG but ENABLE take a written value (Table 12.15). -/
def Ring.configured (g : Ring) (w : Nat) : Ring :=
  { g with vec := nbits w 42 32, coalUs := nbits w 31 24, coalCnt := nbits w 23 16, cqLog2 := nbits w 15 12, sqLog2 := nbits w 11 8 }

/-- A write of HOST_RING_CFG with ENABLE clear (R318). A ring still ON serves its reserved slots with the sizes in force. -/
def Ring.store (g : Ring) (w : Nat) : Ring := if g.on then { g with nextCfg := some (w % 2 ^ 43) } else g.configured w
def Ring.storeBase (g : Ring) (b : Nat) : Ring := if g.on then { g with nextBase := some b } else { g with cqBase := b }

/-- What was written while the ring was turning OFF takes over. -/
def Ring.settled (g : Ring) : Ring :=
  let g := match g.nextCfg with | none => g | some w => g.configured w
  { g with cqBase := g.nextBase.getD g.cqBase, nextCfg := none, nextBase := none }

/-- A ring whose disable waits turns OFF once no slot is reserved (R315). -/
def State.ringSettle (s : State) (c r : Nat) : State :=
  s.updRing c r (fun g =>
    if g.disPend ∧ g.reserved = 0 then { g.settled with on := false, disPend := false } else g)

/-- The host's copy of a watched line is recalled (R299). -/
def State.recall (s : State) (c line : Nat) : State :=
  if (s.fn c).granted.contains line then
    (s.updFn c (fun f => { f with granted := f.granted.erase line })).emit (.bisnp (c / 256) (c % 256) line)
  else s

/-- The module writes bytes of a function's submission region: it recalls the lines, and logs the pages (R299, R323). -/
def State.wrRegion (s : State) (f o : Nat) (bs : List Byte) : State :=
  let last := o + bs.length - 1
  let s := s.each (List.range (last / 64 + 1 - o / 64)) (fun s i => s.recall f (o / 64 + i))
  (s.updFn f (fun x => { x with region := x.region.wrL o bs })).logPage f ((hostBaseOf f + 2 ^ 45 + o) / 4096) 1

/-- A record goes to the end of the completion journal, in the submission region (R311, R297). -/
def State.toJournal (s : State) (c r : Nat) (rec_ : BitVec 512) : State :=
  let n := (s.fn c).journal.length
  (s.updFn c (fun f => { f with journal := f.journal ++ [(r, rec_)] })).wrRegion c (0x20000000 + 64 * n) (lineBytes rec_)

/-- Writes a record a slot is reserved for: a promise, a completion or an answer (R304, R311). One owed from before the ring's last reset has no slot
there any more: it goes to the completion journal (R314). -/
def State.putRecord (s : State) (c r era : Nat) (rec_ : BitVec 512) : State :=
  if era = (s.fn c).era then
    let s := s.updRing c r (fun g => { g with reserved := g.reserved - 1 })
    (if (s.fn c).direct then s.cqWrite c r rec_ else s.toJournal c r rec_).ringSettle c r
  else s.toJournal c r rec_

/-- An event record (R308). -/
def eventRec (code arg count : Nat) : BitVec 512 := recOf [(0, 2, code), (2, 1, 0x84), (4, 4, count), (8, 8, arg)]

/-- Whether a pending event of a function may be written now (R308). -/
def State.eventReady (s : State) (c code : Nat) : Bool :=
  let f := s.fn c
  let g := s.ring c 0
  g.on && decide (0 < g.free) && (if code = 0x070A then decide (f.lease = .held) else f.direct)

/-- Writes the first pending event that may be written (R308). -/
def State.flushEvent (s : State) (c : Nat) : State :=
  match (s.fn c).events.find? (fun e => s.eventReady c e.1) with
  | none => s
  | some e => (s.updFn c (fun f => { f with events := f.events.erase e })).cqWrite c 0 (eventRec e.1 e.2.1 e.2.2)

/-- Merges an event into the pending counts of a function: one count for a code and ARG, and for LEASE_RECLAIMED one count
with the ARG of the latest (R308). -/
def mergeEvent (l : List (Nat × Nat × Nat)) (code arg : Nat) : List (Nat × Nat × Nat) :=
  if code = 0x070A then
    if l.any (fun e => e.1 == code) then updAll (fun e => e.1 == code) (fun e => (code, arg, e.2.2 + 1)) l
    else l ++ [(code, arg, 1)]
  else if l.any (fun e => e.1 == code && e.2.1 == arg) then
    updAll (fun e => e.1 == code && e.2.1 == arg) (fun e => (code, arg, e.2.2 + 1)) l
  else l ++ [(code, arg, 1)]

/-- An event for a function's host driver: it is counted, and written at once where it may be (R308). -/
def State.event (s : State) (c code arg : Nat) : State :=
  (s.updFn c (fun f => { f with events := mergeEvent f.events code arg })).flushEvent c

/-- The functions that serve a composition, by client number (R296, R319). -/
def State.fnsOf (s : State) (cid : Nat) : List Nat :=
  (s.host.fns.filter (fun e => e.2.valid && e.2.cid == cid)).map (fun e => e.1)

/-- An event for the host driver of every function that serves a composition. -/
def State.eventAll (s : State) (cid code arg : Nat) : State := s.each (s.fnsOf cid) (fun s c => s.event c code arg)

/-! ## Answers of requests -/

/-- A mailbox response: STATUS or MBX_ERR, TAG and RESULT words (Table 18.4). -/
def State.mbxRespond (s : State) (i status err : Nat) (tag : Word64) (ws : List Nat) : State :=
  s.updMslot i (fun m =>
    { m with busy := false, done := true,
             rsp := ((status + err <<< 16) :: tag.toNat :: ws).zipIdx.foldl
               (fun d e => Map.set 0 e.2 (BitVec.ofNat 64 e.1) d) [] })

/-- An answer record (Table 12.5); `ws` are the words from offset 0x10. -/
def answerRec (op : Nat) (r : Request) (status : Nat) (ws : List Nat) : BitVec 512 :=
  recOf ([(0, 2, status), (2, 1, 0x83), (3, 1, op), (4, 2, r.xid), (8, 8, r.tag.toNat)] ++
    (ws.take 6).zipIdx.map (fun e => (0x10 + 8 * e.2, 8, e.1)))

/-- Answers a request with its status and result words: R+0 of the mailbox is offset 0x10 of an answer record (R303, R416,
Table 18.5). -/
def State.answer (s : State) (r : Request) (status : Nat) (ws : List Nat) : State :=
  match r.reply with
  | .nobody => s.emit (.ack status)
  | .mbx i => s.mbxRespond i status 0 r.tag ws
  | .ring port func ring op =>
    let c := clientOf port func
    (s.updFn c (fun f => { f with ctlOut := f.ctlOut - 1 })).putRecord c ring r.era (answerRec op r status ws)

/-- The answers whose records have become durable go out. -/
def State.sendAnswers (s : State) : State :=
  ({ s with jrn := { s.jrn with owed := [] } } : State).each s.jrn.owed (fun s a => s.answer a.1 0 a.2)

/-- Answers a request with 0x0000 once the records journaled so far are durable: at once when none waits (R239). -/
def State.answerDurable (s : State) (r : Request) (ws : List Nat) : State :=
  match s.jrn.waiting.getLast? with
  | none => s.sendAnswers.answer r 0 ws
  | some e => { s with jrn := { s.jrn with waiting := s.jrn.waiting.dropLast ++ [{ e with ans := e.ans ++ [(r, ws)] }] } }

/-- Answers a request that came from outside. -/
def State.reply (s : State) (r : Request) (status : Nat) (ws : List Nat) : State :=
  match r.reply with | .nobody => s | _ => s.answer r status ws

/-- Ends a request with MBX_ERR (R416): 3 BUFFER, 4 ROLE_HALTED, 5 BUSY, 6 RESET. -/
def State.mbxError (s : State) (r : Request) (err : Nat) : State :=
  match r.reply with
  | .mbx i => s.mbxRespond i 0 err r.tag []
  | _ => s

end Sys2Proof.Machine
end

