-- ==== Sys2Proof/Machine/Xlate.lean ====
section
/-!
DEFINITION. Translation (chapter 9): range entries, the range cache of a unit, one access, and the bytes a translated access
reads and writes in each tier.
-/

namespace Sys2Proof.Machine

/-! ## Range entries (R216) -/

def eBase (e : BitVec 256) : Nat := bits e 63 0
def eLen (e : BitVec 256) : Nat := bits e 127 64
def eTarget (e : BitVec 256) : Nat := bits e 191 128
def eKeysel (e : BitVec 256) : Nat := bits e 207 192
def eKind (e : BitVec 256) : Nat := bits e 215 208
def eRights (e : BitVec 256) : Nat := bits e 223 216
def eAux (e : BitVec 256) : Nat := bits e 239 224
def eRsv (e : BitVec 256) : Nat := bits e 255 240
def eR (e : BitVec 256) : Bool := has (eRights e) 0
def eW (e : BitVec 256) : Bool := has (eRights e) 1
def eA (e : BitVec 256) : Bool := has (eRights e) 2
def eShared (e : BitVec 256) : Bool := has (eRights e) 3
def eDlog (e : BitVec 256) : Bool := has (eRights e) 4
def eEnc (e : BitVec 256) : Bool := has (eKeysel e) 12

/-- A range entry from its fields. -/
def mkEntry (base len target keysel kind rights aux : Nat) : BitVec 256 :=
  BitVec.ofNat 256 (base + fld 64 len + fld 128 target + fld 192 keysel + fld 208 kind + fld 216 rights + fld 224 aux)

/-- Whether an entry contains a device virtual address. -/
def eHas (e : BitVec 256) (va : Nat) : Bool := decide (eBase e ≤ va ∧ va < eBase e + eLen e)

/-- The indices of a context's slots that are not INVALID or have been used, in ascending order. -/
def State.slotsOf (s : State) (x : Nat) : List (Nat × RSlot) :=
  (s.xlt.slots.filter (fun e => decide (4096 * x ≤ e.1 ∧ e.1 < 4096 * (x + 1)))).map (fun e => (e.1 - 4096 * x, e.2))

/-- The VALID slots of a context, in ascending index. -/
def State.validSlots (s : State) (x : Nat) : List (Nat × RSlot) :=
  (s.slotsOf x).filter (fun e => decide (e.2.st = .valid))

/-- The VALID slot of a context that contains an address (R224 step 2). -/
def State.slotAt (s : State) (x va : Nat) : Option (Nat × RSlot) := (s.validSlots x).find? (fun e => eHas e.2.entry va)

/-- Whether a peer rank is up in the current fabric generation of a composition, and reachable (R224 step 5, R275). While the job is not FORMED
no generation is current: what a PEER access does then is R280's. -/
def State.peerUp (s : State) (cid rank : Nat) : Bool :=
  let j := s.job cid
  decide (j.st ≠ .formed) || decide (rank < j.ranks) && !j.down.contains rank && s.reachable (nth 0 j.nodes rank)

/-- Whether the target of an entry is available (R224 step 5). -/
def State.targetUp (s : State) (cid : Nat) (e : BitVec 256) (va : Nat) : Bool :=
  match eKind e with
  | 1 => decide ((s.farP ((eTarget e + (va - eBase e)) >>> 41)).st = .ready)
  | 3 => s.peerUp cid (eAux e)
  | _ => true

/-- Steps 3 to 5 of R224 on the entry that contains va; `acc` is 0 a read, 1 a write, 2 an atomic. 0 is a pass. -/
def State.accessCheck (s : State) (cid : Nat) (e : BitVec 256) (va len acc : Nat) : Nat :=
  if !eHas e (va + len - 1) then 0x0304
  else if acc = 0 ∧ !eR e ∨ acc = 1 ∧ !eW e ∨ acc = 2 ∧ !eA e then 0x0303
  else if !s.targetUp cid e va then 0x0305
  else 0

/-- What the translation of an access gives (R224, R226). -/
inductive Acc
  | ok (e : BitVec 256)
  | miss
  | fault (status idx epoch : Nat)
  deriving DecidableEq, Repr

/-- The composition of a unit's partition. -/
def State.cidOf (s : State) (u : Nat) : Nat := (s.part (ukind u).part).cid

/-- The cached entry of a unit that contains an address, under the current epoch of its index (R225). -/
def State.cached (s : State) (u va : Nat) : Option CacheEnt :=
  (s.unit u).cache.find? (fun c => eHas c.entry va && !c.dropped && decide (c.epoch = (s.slot (s.unit u).xid c.idx).epoch))

/-- One access of a unit under its context: VA_HIGH, a miss, a failed check, or the entry (R224, R226). An access that meets
no entry reports index 0xFFFF and epoch 0 (assumption 20). -/
def State.access (s : State) (u va len acc : Nat) : Acc :=
  if 2 ^ 57 ≤ va then .fault 0x0301 0xFFFF 0
  else match s.cached u va with
    | none => .miss
    | some c =>
      let st := s.accessCheck (s.cidOf u) c.entry va len acc
      if st = 0 then .ok c.entry else .fault st c.idx c.epoch

/-- The entry of a hit becomes the most recently used (R223). -/
def State.touch (s : State) (u va : Nat) : State :=
  match s.cached u va with
  | none => s
  | some c => s.updUnit u (fun x => { x with cache := c :: x.cache.erase c })

/-- The least recently used entry under which nothing is outstanding leaves a cache of more than 64 (R223, R225). -/
def evictLru (l : List CacheEnt) : List CacheEnt :=
  if l.length ≤ 64 then l else (l.reverse.eraseP (fun c => decide (c.out = 0))).reverse

/-- A fill puts an entry first; an older copy of its index stays only while transfers are outstanding under it (R223, R225). -/
def State.fillCache (s : State) (u idx : Nat) (r : RSlot) : State :=
  s.updUnit u (fun x =>
    { x with cache := evictLru ({ idx := idx, epoch := r.epoch, entry := r.entry } :: x.cache.filter (fun c => c.idx != idx || decide (0 < c.out))) })

/-! ## Faults (R231, R232) -/

/-- A fault of a context is detected. After a fatal fault no further one is recorded or counted until the reset has
completed (R232). -/
def State.fault (s : State) (f : Fault0) : State :=
  if decide ((s.ctx f.xid).st = .resetting) || s.xlt.faults.any (fun g => g.xid == f.xid && g.fatal) then s
  else { s with xlt := { s.xlt with faults := s.xlt.faults ++ [f] } }

/-- A translation fault of a unit (Table 9.7, KIND 1). -/
def State.xlFault (s : State) (u status idx epoch va len acc : Nat) : State :=
  s.fault { cid := s.cidOf u, status := status, kind := 1, fatal := true, write := decide (acc = 1),
            atomic := decide (acc = 2), xid := (s.unit u).xid, unit := (s.lrefOf u).getD 0xFFFF, index := idx,
            epoch := epoch, addr := va, info := len }

/-! ## Bytes behind a translated access (R224 Table 9.4) -/

/-- The key cache of a package controller (0-127) or a far port (128-131) takes in a keyslot, the least recently used above
256 leaving (R208). -/
def State.cacheKey (s : State) (cache keysel : Nat) : State :=
  if keysel.testBit 12 then
    let k := keysel % 4096
    let l := Map.get [] s.sec.caches cache
    { s with sec := { s.sec with caches := Map.set [] cache ((k :: l.filter (fun x => x != k)).take 256) s.sec.caches } }
  else s

/-- The channel and sector of a set-space address of interleave set `key`, when its partition is placed. -/
def Comp.chanAt (c : Comp) (key a : Nat) : Option (Nat × Nat) :=
  match c.iset key with
  | none => none
  | some t =>
    let l := t.locate a
    (c.phys l.1).map (fun p => (8 * p + l.2.1, l.2.2 / 64))

/-- Counts bytes moved for a context (R347). -/
def State.tcAdd (s : State) (x i n : Nat) : State :=
  s.updCtx x (fun c => { c with raw := Map.upd 0 i (fun v => v + BitVec.ofNat 64 n) c.raw })

/-- A request that is served in the step that makes it enters the table of its channel and leaves it: one beyond its class's budget is counted
(R204, R205, assumption 211). -/
def State.direct (s : State) (ch cls : Nat) : State :=
  if (s.chan ch).inBudget cls ((s.chan ch).outOf cls + 1) then s else s.updChan ch (fun c => { c with demoted := c.demoted + 1 })

/-- Reads one 64-byte sector at o, under entry e of composition cid, for a master class. -/
def State.rdTarget (s : State) (cid : Nat) (e : BitVec 256) (o cls : Nat) : BitVec 512 × Bool × State :=
  match eKind e with
  | 0 =>
    match (s.comp cid).chanAt (eAux e) o with
    | none => (0, true, s)
    | some l =>
      let t := ((s.cacheKey (l.1 / 4) (eKeysel e)).direct l.1 cls).drawErr
      t.2.rdSector l.1 l.2 (eKeysel e) cls t.1
  | 1 => (s.cacheKey (128 + o >>> 41) (eKeysel e)).rdFar (o >>> 41) (o % 2 ^ 41 / 64) (eKeysel e) cid
  | _ => (bytesLine ((s.hmem (eAux e)).rdN o 64), false,
      s.updHport (eAux e) (fun p => { p with rxBytes := p.rxBytes + 64 }))

/-- Writes one 64-byte sector at o. -/
def State.wrTarget (s : State) (cid : Nat) (e : BitVec 256) (o cls : Nat) (d : BitVec 512) : State :=
  match eKind e with
  | 0 =>
    match (s.comp cid).chanAt (eAux e) o with
    | none => s
    | some l =>
      let t := ((s.cacheKey (l.1 / 4) (eKeysel e)).direct l.1 cls).drawErr
      t.2.wrSectorErr l.1 l.2 (eKeysel e) cls d t.1
  | 1 => (s.cacheKey (128 + o >>> 41) (eKeysel e)).wrFar (o >>> 41) (o % 2 ^ 41 / 64) (eKeysel e) cid d
  | _ => (s.updHmem (eAux e) (fun m => m.wrL o (lineBytes d))).updHport (eAux e)
      (fun p => { p with txBytes := p.txBytes + 64 })

/-- Reads a row of n bytes, a multiple of 64, from target address o: the bytes and whether any was poisoned. -/
def State.rdRow (s : State) (cid : Nat) (e : BitVec 256) (o n cls : Nat) : List Byte × Bool × State :=
  (List.range (n / 64)).foldl (fun r j =>
    let t := r.2.2.rdTarget cid e (o + 64 * j) cls
    (r.1 ++ lineBytes t.1, r.2.1 || t.2.1, t.2.2)) ([], false, s)

/-- Writes a row of bytes, a multiple of 64, to target address o. -/
def State.wrRow (s : State) (cid : Nat) (e : BitVec 256) (o cls : Nat) (bs : List Byte) : State :=
  (pieces (bs.length / 64 + 1) 64 bs).zipIdx.foldl (fun s x => s.wrTarget cid e (o + 64 * x.2) cls (bytesLine x.1)) s

/-- Logs the pages of a write under an entry with DLOG set, for the function of the context's client (R323, R324). -/
def State.dlog (s : State) (x : Nat) (e : BitVec 256) (o n : Nat) : State :=
  if eDlog e then
    let c := (s.ctx x).client
    let a := if eKind e = 0 then hostBaseOf c + 2 ^ 39 * eAux e + o else o
    s.each (List.range ((a + n - 1) / 4096 + 1 - a / 4096)) (fun s i =>
      s.logPage c (a / 4096 + i) (if eKind e = 0 then 1 else 0))
  else s

/-- Answers of invalidations (R230): a unit no longer holds entry (x, idx); when no unit is left the entry becomes INVALID and
the UNMAP is answered. -/
def State.ackWithdraw (s : State) (x idx u : Nat) : State :=
  match s.xlt.wds.find? (fun w => w.xid == x && w.idx == idx) with
  | none => s
  | some w =>
    let w' := { w with toSend := w.toSend.erase u, waitFor := w.waitFor.erase u }
    if w'.toSend.isEmpty && w'.waitFor.isEmpty then
      let s := { s with xlt := { s.xlt with wds := s.xlt.wds.erase w } }
      (s.updSlot x idx (fun r => { r with st := .invalid, entry := 0 })).answer w.req 0 [0]
    else { s with xlt := { s.xlt with wds := s.xlt.wds.map (fun v => if v = w then w' else v) } }

/-- A unit acknowledges every withdrawal that waits for it, as its reset or its save ends (Table 9.8). -/
def State.ackAll (s : State) (u : Nat) : State :=
  s.each (s.xlt.wds.filter (fun w => w.toSend.contains u || w.waitFor.contains u)) (fun s w => s.ackWithdraw w.xid w.idx u)

end Sys2Proof.Machine
end

