-- ==== Sys2Proof/Machine/Work.lean ====
section
/-!
DEFINITION. Units set to empty, program images, and the end of work: completion records, batches and context states (R171,
R240, R254, R305).
-/

namespace Sys2Proof.Machine

/-! ## Units -/

/-- Local memory of a unit: scratchpad or tile memory. -/
def State.lmem (s : State) (u : Nat) : Bytes :=
  match ukind u with
  | .eng p e => (s.engine (kEng p e)).sp
  | .vt p v => (s.vt (kVt p v)).lm
  | .st p t => (s.tile (kSt p t)).lm
def State.updLmem (s : State) (u : Nat) (f : Bytes → Bytes) : State :=
  match ukind u with
  | .eng p e => s.updEng (kEng p e) (fun x => { x with sp := f x.sp })
  | .vt p v => s.updVt (kVt p v) (fun x => { x with lm := f x.lm })
  | .st p t => s.updSt (kSt p t) (fun x => { x with lm := f x.lm })

/-- Size of a unit's local memory (R54, R77, R88). -/
def lmemBytes (u : Nat) : Nat :=
  match ukind u with
  | .eng _ _ => 0x600000
  | .vt _ _ => 0x200000
  | .st _ _ => 0x80000

/-- Queue entries that hold a credit: those in the queue, those dispatched and not complete, and completions that wait to be posted (R58, R91). -/
def Engine.entries (x : Engine) : Nat :=
  x.queue.length + ([x.arr.exe, x.arr.pend, x.epi.exe, x.epi.pend, x.dma.exe, x.dma.pend].filterMap id).length + x.posts.length
def VTile.entries (t : VTile) : Nat := t.queue.length + (if t.launch.isSome then 1 else 0) + t.posts.length
/-- Credits of the stream channels once a tile is emptied: those held and those of the flits it drops; the others are in flight (R85). -/
def VTile.freeCreds (t : VTile) : Map Nat :=
  (List.range 4).foldl (fun m c => Map.set 128 c
    (Map.get 128 t.scCred c + (Map.get [] t.sc c).length + (Map.get [] t.scFly c).length) m) []

/-- A matrix engine empty but for its record and the registers of reset domain E (R75); the issuer has back the credits of the entries
emptied (R58). -/
def Engine.cleared (e : Engine) : Engine :=
  { cfg := e.cfg, flags := e.flags, macs := e.macs, arrBusy := e.arrBusy, cred := e.cred + e.entries }
/-- A vector tile empty but for its record and the registers of reset domain E (R102). -/
def VTile.cleared (t : VTile) : VTile :=
  { cfg := t.cfg, loaded := t.loaded, flags := t.flags, fmas := t.fmas, busy := t.busy, cred := t.cred + t.entries, scCred := t.freeCreds }
/-- A scalar tile empty but for its record and the registers of reset domain E (R103). -/
def STile.cleared (t : STile) : STile := { cfg := t.cfg, loaded := t.loaded, cause := t.cause, tval := t.tval, pc := 0, evCred := t.evCred + t.evq.length }

/-- The credits that go back when a unit is emptied, in the counts of its pools (R58, R85, R129). -/
def State.handBack (s : State) (u : Nat) : State :=
  match ukind u with
  | .eng p e => s.qFree (queuePool u) (s.engine (kEng p e)).entries
  | .vt p v =>
    let t := s.vt (kVt p v)
    (s.qFree (queuePool u) t.entries).each (List.range 4) (fun s c =>
      s.qFree (streamPool (kVt p v) c) ((Map.get [] t.sc c).length + (Map.get [] t.scFly c).length))
  | .st p t => s.qFree (eventPool (kSt p t)) (s.tile (kSt p t)).evq.length

/-- What a unit holds, as its reset leaves it (Table 3.14, 4.13, 4.17: the registers of domain E too). By the handshake of R58 the unit reports
how many entries it has emptied and the issuer adds them to its credits. -/
def State.resetUnit (s : State) (u : Nat) : State :=
  let s := s.handBack u
  match ukind u with
  | .eng p e => s.updEng (kEng p e) (fun x => { cfg := x.cfg, cred := x.cred + x.entries })
  | .vt p v => s.updVt (kVt p v) (fun x => { cfg := x.cfg, loaded := x.loaded, cred := x.cred + x.entries, scCred := x.freeCreds })
  | .st p t => s.updSt (kSt p t) (fun x => { cfg := x.cfg, loaded := x.loaded, evCred := x.evCred + x.evq.length })

/-- Zeroes a unit between two contexts (R72, R99, R395 step 4). -/
def State.clearUnit (s : State) (u : Nat) : State :=
  let s := s.handBack u
  match ukind u with
  | .eng p e => s.updEng (kEng p e) Engine.cleared
  | .vt p v => s.updVt (kVt p v) VTile.cleared
  | .st p t => s.updSt (kSt p t) STile.cleared

/-- A unit leaves its context: no XID, an empty range cache, and every withdrawal acknowledged (R223, R395). -/
def State.leaveUnit (s : State) (u : Nat) : State :=
  (s.updUnit u (fun x => { x with
    xid := 0, npUs := 0, stop := false, cache := [], miss := none, ext := none,
    st := if x.retired || x.fenced then x.st else .idle })).ackAll u

/-- A context leaves a stage: every unit of it is zeroed (R241). -/
def State.evict (s : State) (c g : Nat) : State :=
  let us := s.stageUnits c g
  let s := s.each us (fun s u => (s.clearUnit u).leaveUnit u)
  s.updStage c g (fun x => { x with resident := none, phase := .quiet })

/-- Fields of a tile's record (Tables 6.7, 6.8): image number and program bytes. -/
def vtImage (cfg : BitVec 128) : Nat := bits cfg 31 16
def vtProg (cfg : BitVec 128) : Nat := bits cfg 63 32
def vtChan (cfg : BitVec 128) (c : Nat) : Nat := bits cfg (64 + 8 * c + 7) (64 + 8 * c)
def stImage (cfg : BitVec 256) : Nat := bits cfg 15 0
def stProg (cfg : BitVec 256) : Nat := bits cfg 63 32
def stEntry (cfg : BitVec 256) : Nat := bits cfg 127 64
def stSp (cfg : BitVec 256) : Nat := bits cfg 191 128

/-- The bytes of image n (R148). -/
def imageOf (l : List Frm) (n : Nat) : List Byte :=
  let b := frmBody l 5 n
  (b.drop 16).take (fle b 8 8)

/-- Puts the program image of a tile at local address 0 (R148, R99). -/
def State.loadProg (s : State) (u : Nat) : State :=
  let frames := (s.comp (s.cidOf u)).framesAt (s.part (ukind u).part).lp
  match ukind u with
  | .eng _ _ => s
  | .vt p v => s.updVt (kVt p v) (fun t =>
      if t.loaded ∧ vtImage t.cfg ≠ 0xFFFF then { t with lm := Bytes.wrL t.lm 0 (imageOf frames (vtImage t.cfg)) } else t)
  | .st p v => s.updSt (kSt p v) (fun t =>
      if t.loaded ∧ stImage t.cfg ≠ 0xFFFF then { t with lm := Bytes.wrL t.lm 0 (imageOf frames (stImage t.cfg)) } else t)

/-- The control instruction at a scalar tile's PC, a 32-bit word (R89). -/
def STile.kword (t : STile) : BitVec 32 := BitVec.ofNat 32 (t.lm.rdLE t.pc.toNat 4)

/-- Writes an integer register; x0 stays zero. -/
def STile.setX (t : STile) (r : Nat) (v : Word64) : STile := if r = 0 then t else { t with x := Map.set 0 r v t.x }

/-- Whether a unit holds a valid live-map entry. -/
def State.unitLive (s : State) (u : Nat) : Bool :=
  match ukind u with
  | .eng p e => (s.engine (kEng p e)).lmap.any (fun x => x.2.valid)
  | .vt p v => (s.vt (kVt p v)).lmap.any (fun x => x.2.valid)
  | .st p t => (s.tile (kSt p t)).lmap.any (fun x => x.2.valid)

/-! ## Work -/

def Work.client (w : Work) : Nat := clientOf w.port w.func
/-- Fields of a work descriptor (Table 10.7). -/
def Work.job (w : Work) : Nat := fle w.desc 0x10 8
def Work.cost (w : Work) : Nat := fle w.desc 0x18 8
def Work.memNs (w : Work) : Nat := fle w.desc 0x20 8
def Work.boundUs (w : Work) : Nat := fle w.desc 0x28 4
def Work.arg (w : Work) (i : Nat) : Nat := fle w.desc (0x50 + 8 * i) 8

/-- Admitted, undelivered work: numbers and items. -/
def State.allWork (s : State) : List (Nat × Work) := s.sch.works.filterMap (fun e => e.2.map (fun w => (e.1, w)))
def State.workOfCtx (s : State) (x : Nat) : List (Nat × Work) := s.allWork.filter (fun e => e.2.xid == x)
def State.workOfComp (s : State) (c : Nat) : List (Nat × Work) := s.allWork.filter (fun e => e.2.cid == c)

/-- The state of a work on one of its stages. -/
def Work.on (w : Work) (g : Nat) : WState := Map.get .ready w.st g
/-- Work that has started on any stage (R184). -/
def Work.started (w : Work) : Bool := w.st.any (fun e => decide (e.2 ≠ .ready))

/-- Whether a batch is the switch batch or later, in signed 16-bit differences (R171, R174). -/
def batchGe (a b : Nat) : Bool := decide (0 ≤ signed 16 (a + 0x10000 - b % 0x10000))

/-- Whether a work is for the new shape of a fast re-bind in progress (R174). -/
def Comp.newShape (c : Comp) (asBatch : Nat) : Bool :=
  match c.op with
  | some o => decide (o.kind = .fast) && o.begun && !o.rolled && (match o.s with | none => true | some b => batchGe asBatch b)
  | none => false

/-- Shape number a work runs on. -/
def State.workShape (s : State) (w : Work) : Nat :=
  let c := s.comp w.cid
  if c.newShape w.asBatch then (c.shape + 1) % 0x10000 else c.shape

/-- Completion record (Table 12.6). -/
def State.completionRec (s : State) (w : Work) (status : Nat) : BitVec 512 :=
  recOf [(0, 2, status), (2, 1, 0x82), (3, 1, b2n w.skim), (4, 2, w.xid), (6, 2, w.batch), (8, 8, w.job),
    (0x10, 2, if status = 0 then w.result else 0), (0x12, 1, w.flags.toNat), (0x13, 1, w.ring), (0x14, 2, w.slot),
    (0x18, 8, s.now - w.readAt), (0x20, 8, w.boundNs), (0x38, 1, w.cid), (0x3A, 2, (s.comp w.cid).gen.toNat),
    (0x3C, 2, s.workShape w)]

/-- The oldest batch after work has ended: unset with no work left, and n + 1 once batch n has none (R171). -/
def State.settleBatch (s : State) (c : Nat) : State :=
  let ws := s.workOfComp c
  match (s.comp c).oldest with
  | none => s
  | some n =>
    if ws.isEmpty then s.updComp c (fun x => { x with oldest := none, readNext := false })
    else if ws.any (fun e => e.2.asBatch == n) then s
    else s.updComp c (fun x => { x with oldest := some ((n + 1) % 0x10000), readNext := false })

/-- Stages on which a context is resident. -/
def State.residentOn (s : State) (x : Nat) : List Nat :=
  let c := (s.ctx x).cid
  ((s.comp c).allGroups.map (fun g => g.first)).filter (fun g => decide ((s.stage c g).resident = some x))

/-- Stages a context is resident on or being restored on. -/
def State.heldOn (s : State) (x : Nat) : List Nat :=
  let c := (s.ctx x).cid
  ((s.comp c).allGroups.map (fun g => g.first)).filter (fun g =>
    decide ((s.stage c g).resident = some x ∨ (s.stage c g).phase = .restoring x))

/-- Whether a context is being saved or restored on some stage (Table 10.2). -/
def State.switches (s : State) (x : Nat) : Bool :=
  let c := (s.ctx x).cid
  (s.comp c).allGroups.any (fun g => match (s.stage c g.first).phase with
    | .quiet => false | .saving y _ => y == x | .restoring y => y == x)

/-- A context leaves every stage and unit that holds it, a restore in progress included: all of them are zeroed (R241, R395 step 4). -/
def State.leaveAll (s : State) (x : Nat) : State :=
  let s := s.each (s.heldOn x) (fun s g => s.evict (s.ctx x).cid g)
  s.each (s.ctxUnits x) (fun s u => (s.clearUnit u).leaveUnit u)

/-- The CONTEXT record of a context (R421). -/
def State.journalCtx (s : State) (x : Nat) : State :=
  let k := s.ctx x
  s.journal (.ctx x k.cid (s.comp k.cid).gen k.client k.skim k.slot (Map.get 0 s.sch.jobs k.client) k.fctx (decide (k.st = .quiesced)))

/-- A context with nothing to do leaves its last stage or its reset: it is IDLE with its debt cleared (R249), QUIESCED while its client's lease
is, and PARKED while skim is parked (Table 10.3, R257). -/
def State.ctxIdle (s : State) (x : Nat) : State :=
  let k := s.ctx x
  if (s.fn k.client).lease = .quiesced then (s.updCtx x (fun k => { k with st := .quiesced, debtUs := 0 })).journalCtx x
  else s.updCtx x (fun k => { k with st := if s.sch.park && k.skim then .parked else .idle, debtUs := 0 })

/-- A context with no admitted work left becomes IDLE where Table 10.3 says so: resident nowhere, or resident with no live
map entry, in which case it leaves its stages. -/
def State.settleCtx (s : State) (x : Nat) : State :=
  if !(s.workOfCtx x).isEmpty then s
  else
    let c := (s.ctx x).cid
    let gs := s.residentOn x
    match (s.ctx x).st with
    | .waiting => if gs.isEmpty then s.ctxIdle x else s
    | .running =>
      if (gs.flatMap (s.stageUnits c)).any s.unitLive then s
      else (s.each gs (fun s g => s.evict c g)).ctxIdle x
    | _ => s

/-- Ends a work: its completion record is written with the status, 0x0000 for a delivery, its stages are freed, and the
batches and its context follow (R171, R240, R254, R305). A 0x02xx status counts as a discard. -/
def State.finishWork (s : State) (w status : Nat) : State :=
  match s.work w with
  | none => s
  | some k =>
    let s := s.setWork w none
    let s := if status / 256 = 2 then
        { s with sch := { s.sch with discard := Map.upd 0 k.cid (fun v => v + 1) s.sch.discard } } else s
    let s := s.each k.stages (fun s g =>
      s.updStage k.cid g (fun x => if x.work = some w then { x with work := none, empty := x.empty && !k.skim } else x))
    (((s.putRecord k.client k.ring k.era (s.completionRec k status)).settleBatch k.cid)).settleCtx k.xid

/-- Discards every admitted work that satisfies a condition. -/
def State.discardIf (s : State) (p : Work → Bool) (code : Nat) : State :=
  s.each (s.allWork.filter (fun e => p e.2)) (fun s e => s.finishWork e.1 code)

/-- Whether the work on a stage has ended there: every scalar tile that runs an image has made its last call, and every command it issued
has completed (R250, R60). -/
def State.stageEnded (s : State) (c g : Nat) : Bool :=
  (s.stageUnits c g).all (fun u => match ukind u with
    | .st p t =>
      let x := s.tile (kSt p t)
      stImage x.cfg == 0xFFFF || x.ended.isSome && x.issued == x.completed && x.xfers.isEmpty
    | _ => true)

/-- The work on a stage leaves it when it has ended there (R172). Cream may have the stage again once skim work has left it (R245). -/
def State.settleStage (s : State) (c g : Nat) : State :=
  match (s.stage c g).work with
  | none => s
  | some w =>
    if s.stageEnded c g then
      (s.setWork w ((s.work w).map (fun k => { k with st := Map.set .ready g .done k.st }))).updStage c g (fun x => { x with
        work := none, empty := x.empty && !(s.work w).any (fun k => k.skim) })
    else s

/-- The work running on a unit's stage. -/
def State.workOn (s : State) (u : Nat) : Option Nat :=
  match s.stageOfPart (ukind u).part with
  | none => none
  | some (c, g) => (s.stage c g).work

/-- Work that consumes poisoned data is discarded with POISONED_READ (R13, R194). -/
def State.poisonWork (s : State) (u : Nat) : State :=
  match s.workOn u with
  | none => s
  | some w => s.finishWork w 0x0204

/-- Adds arithmetic flags to the work running on a unit's stage (R305). -/
def State.workFlags (s : State) (u : Nat) (f : Byte) : State :=
  match s.workOn u with
  | none => s
  | some w => s.setWork w ((s.work w).map (fun k => { k with flags := k.flags ||| f }))

end Sys2Proof.Machine
end

