-- ==== Sys2Proof/Machine/Notices.lean ====
section
/-!
DEFINITION. Fabric notices and the abandonment of a job (R287-R289).
-/

namespace Sys2Proof.Machine

/-- ARG of a NOTICE frame (Table 11.8). -/
def noticeArg (code : Nat) (mgen : Word16) (node : Nat) (fgen : Word16) (value : Nat) : BitVec 64 :=
  BitVec.ofNat 64 (fld 56 code + fld 40 mgen.toNat + fld 28 node + fld 12 fgen.toNat + value)

/-- A NOTICE frame of this module (R266, R287). -/
def State.notice (s : State) (code : Nat) (node : Nat) (mgen fgen : Word16) (fjob value : Nat) : Frame :=
  { Frame.zero with typ := 9, cls := 3, last := true, src := s.fab.node, srcMgen := s.fab.mgen, fjob := fjob,
                    arg := noticeArg code mgen node fgen value }

/-- Sends a notice on every ACTIVE port but one (R287). -/
def State.flood (s : State) (f : Frame) (but : Option Nat) : State :=
  s.each (s.activePorts.filter (fun p => decide (some p ≠ but))) (fun s p => s.portSend p f)

/-- The members of a notice's identity (R287). -/
def noticeKey (code node : Nat) (mgen : Word16) (fjob : Nat) (fgen : Word16) : Nat × Nat × Nat × Nat × Nat :=
  (code, node, mgen.toNat, fjob, fgen.toNat)

/-- A notice that has not been seen is remembered and flooded on; one that has is dropped. Answers whether it is new. -/
def State.noticeNew (s : State) (p : Option Nat) (f : Frame) (code node : Nat) (mgen : Word16) (fgen : Word16) : Bool × State :=
  let k := noticeKey code node mgen f.fjob fgen
  if s.fab.seen.contains k then (false, s)
  else (true, ({ s with fab := { s.fab with seen := s.fab.seen ++ [k] } }).flood f p)

/-- A notice of this module about itself, remembered as any other so that it is not taken in again over a loop (R287). -/
def State.originate (s : State) (code fjob : Nat) (fgen : Word16) : State :=
  (s.noticeNew none (s.notice code s.fab.node s.fab.mgen fgen fjob 0) code s.fab.node s.fab.mgen fgen).2

/-- CHURN, POUR and BAR frames of a job's generation are dropped wherever they wait, and their credits return (R289). -/
def State.dropJobFrames (s : State) (fjob : Nat) (fgen : Word16) : State :=
  let hit (f : Frame) : Bool := decide (6 ≤ f.typ ∧ f.typ ≤ 8 ∧ f.fjob = fjob ∧ bits f.arg 63 48 = fgen.toNat)
  s.each (s.fab.ports.map (fun e => e.1)) (fun s p =>
    let x := s.fport p
    let s := s.each (x.inq.filter hit) (fun s f => (s.updFport p (fun y => { y with inq := y.inq.erase f })).dropFrame p f)
    s.each (x.wait.filter hit) (fun s f => s.updFport p (fun y => { y.unwait f with drops := y.drops + 1 })))

/-- Work of a composition with a PEER access outstanding. -/
def State.peerWork (s : State) (c : Nat) : List Nat :=
  (s.units.filter (fun e => e.2.ext.any (fun w => w.peer) && s.cidOf e.1 == c)).filterMap (fun e => s.workOn e.1)

/-- A job enters ABANDONED (R289): FGEN advances, window entries, frames of the old FGEN and barrier arrivals are dropped, and the work that used
the job is discarded with PEER_ABANDON. The operator, the tray controller and the host drivers hear of it (R292). Only a FORMED job does
(Table 11.6). -/
def State.abandonJob (s : State) (c code : Nat) : State :=
  let j := s.job c
  if j.st = .formed then
    let s := s.updJob c (fun j => { j with st := .abandoned, fgen := j.fgen + 1, windows := [], landed := [], barArr := [], offers := [],
                                           pendMhz := none, touched := [], steps := [], topStep := 0 })
    let s := s.dropJobFrames j.fjob j.fgen
    let s := s.each (j.touched ++ s.peerWork c) (fun s w => s.finishWork w 0x0203)
    ((s.eventAll c code j.fjob).tray code j.fjob).emit (.operator code j.fjob)
  else s

/-- A member abandons its job of its own: the notice is flooded under the job's FGEN and the job enters ABANDONED (R287). -/
def State.sendAbandon (s : State) (c : Nat) : State :=
  let j := s.job c
  if j.st = .formed then
    let s := s.originate 3 j.fjob j.fgen
    let s := { s with fab := { s.fab with abnTx := sat 0xFFFF (s.fab.abnTx + 1) } }
    s.abandonJob c 0x078B
  else s

/-- A work uses the fabric job of its composition (R280, R289): it is discarded with PEER_ABANDON while the job is not FORMED, and otherwise
remembered where `keep` says so; a PEER access counts only while it is outstanding. Answers whether it goes on. -/
def State.touchJob (s : State) (c : Nat) (w : Option Nat) (keep : Bool) : Bool × State :=
  match w with
  | none => (decide ((s.job c).st = .formed), s)
  | some w =>
    if (s.job c).st = .formed then
      (true, if keep then s.updJob c (fun j => { j with touched := if j.touched.contains w then j.touched else j.touched ++ [w] }) else s)
    else (false, s.finishWork w 0x0203)

end Sys2Proof.Machine
end

