-- ==== Sys2Proof/Machine/Store.lean ====
section
/-!
DEFINITION. The culture store (R169): the parts of a culture that its digest and signatures cover, stages 2 and 3 of validation (Table 6.14),
and whether the store of a composition still holds its cultures.
-/

namespace Sys2Proof.Machine

/-- The code of the first check that fails: a check is whether it is breached, and its code. -/
def firstCode (l : List (Bool × Nat)) : Nat := match l.find? (fun e => e.1) with | none => 0 | some e => e.2

def cuTotal (b : List Byte) : Nat := fle b 0x08 8
def cuSig (b : List Byte) : Nat := fle b 0x10 8
def octets (b : List Byte) (o : Nat) : Digest := BitVec.ofNat 384 (fle b o 48)

/-- An enrolled signer that is not revoked. -/
def State.signerOf (s : State) (id : Digest) : Option Signer :=
  (s.sec.signers.filterMap (fun e => e.2)).find? (fun g => g.id == id && !g.revoked)

/-- Stage 2: the signer. -/
def State.stage2 (s : State) (id : Digest) : Nat := if (s.signerOf id).isSome then 0 else 0x0604

/-- The ASCII bytes of "etzor-culture". -/
def cultureCtx : List Byte := [0x65, 0x74, 0x7A, 0x6F, 0x72, 0x2D, 0x63, 0x75, 0x6C, 0x74, 0x75, 0x72, 0x65]

/-- The culture digest D (R138). -/
def cuDigest (b : List Byte) : Digest := Config.sha384 (b.take (cuSig b))

/-- Stage 3: both signatures are verified; RSA is reported first (R139). -/
def State.stage3 (s : State) (b : List Byte) : Nat :=
  match s.signerOf (octets b 0x30) with
  | none => 0x0604
  | some g =>
    let d := leBytes (cuDigest b).toNat 48
    let sig := b.drop (cuSig b)
    firstCode [
      (!Config.rsaVerify g.rsa d (sig.take 384), 0x0605),
      (!Config.slhVerify g.slh cultureCtx d ((sig.drop 384).take 16224), 0x0606)]

/-! ## The culture store (R169) -/

/-- Whether the store's bytes hold the cultures of a chain, in order, each of which passes stages 2 and 3 again (R337). -/
def State.chainOk (s : State) (b : List Byte) (chain : List Digest) : Bool :=
  match chain with
  | [] => true
  | d :: r => cuDigest b == d && s.stage2 (octets b 0x30) == 0 && s.stage3 (b.take (cuTotal b)) == 0 && s.chainOk (b.drop (cuTotal b)) r

/-- The bytes of a composition's store, whether they can be read, and whether they still hold its cultures. -/
def State.storeOf (s : State) (c : Nat) : Option (List Byte) :=
  let x := s.comp c
  s.storeBytes x.storeKind x.storePort x.storeAddr x.storeLen
/-- A composition's store is read (R214, R317). -/
def State.readStore (s : State) (c : Nat) : State :=
  if (s.storeOf c).isSome then let x := s.comp c; s.countRead x.storeKind x.storePort x.storeAddr x.storeLen else s
def State.storeReady (s : State) (c : Nat) : Bool := (s.storeOf c).isSome
def State.storeGood (s : State) (c : Nat) : Bool :=
  match s.storeOf c with
  | none => false
  | some b => s.chainOk b (s.comp c).chain

end Sys2Proof.Machine
end

