-- ==== Sys2Proof/Machine/Watts.lean ====
section
/-!
DEFINITION. The power model: operating points, the live floor, die limits and the clocks of a partition (R374, R377 to R379, R382).
Power is counted in units of a third of a microwatt, in which every value of Table 16.5 and every interpolation between 25 MHz steps is
whole.
-/

namespace Sys2Proof.Machine

/-- One watt. -/
def watt : Nat := 3000000

/-- Table 16.5: set clock in MHz, VCORE in mV, P_L in tenths of a watt. -/
def opRows : List (Nat × Nat × Nat) :=
  [(400, 550, 219), (800, 620, 374), (1200, 700, 600), (1600, 780, 904), (2000, 850, 1270), (2075, 870, 1368)]

/-- Linear interpolation between the rows of a table. -/
def interp (l : List (Nat × Nat)) (f : Nat) : Nat :=
  match l with
  | [] => 0
  | [r] => r.2
  | r :: q :: t => if f ≤ r.1 then r.2 else if f ≤ q.1 then r.2 + (q.2 - r.2) * (f - r.1) / (q.1 - r.1) else interp (q :: t) f

/-- P_L(f), and VCORE in mV. -/
def plOf (f : Nat) : Nat := interp (opRows.map (fun r => (r.1, r.2.2 * (watt / 10)))) f
def vcoreOf (f : Nat) : Nat := interp (opRows.map (fun r => (r.1, r.2.1))) f

/-- FMAX of an island in MHz: the fused value until ageing has lowered it (R378). -/
def State.fmaxOf (s : State) (i : Nat) : Nat := (s.isl i).fmax.getD (Config.fusedFmax i)
/-- Whether an island's FMAX reaches a clock of at most 2075 MHz: a fused one always does, being 2100 MHz or more (R378). -/
def State.fmaxReaches (s : State) (i f : Nat) : Bool := match (s.isl i).fmax with | none => true | some v => decide (f ≤ v)
/-- FMAX as it bounds a clock of at most 2000 MHz: 90 % of it, in steps of 25 MHz, while the VCORE rail of the die regulates on local sense (R374). -/
def State.fmaxFull (s : State) (i : Nat) : Nat :=
  if (s.rail (i / 244)).st = .localSense then min 2000 (s.fmaxOf i * 9 / 10 / 25 * 25)
  else match (s.isl i).fmax with | none => 2000 | some v => min 2000 v

def State.boundParts (s : State) : List Nat := (s.parts.filter (fun e => decide (e.2.st = .bound))).map (fun e => e.1)

/-- The hold clock of a partition's composition, 0 while it is not BOUND (R379). -/
def State.holdOf (s : State) (p : Nat) : Nat := if (s.part p).st = .bound then holdClock (s.comp (s.part p).cid).floorMhz else 0

/-- Input power with each of the listed partitions at a clock: 1.09 x (700 W + 12 W x D + the sum of P_L + 7 W), in watts rounded up
(R382). -/
def inputWatts (l : List (Nat × Nat)) : Nat :=
  let d := ((l.map (fun e => dieOf e.1)).eraseDups).length
  let sum := (700 + 12 * d + 7 * l.length) * watt + l.foldl (fun a e => a + plOf e.2) 0
  ceilDiv (109 * sum) (100 * watt)

/-- P_floor in watts, rounded up. -/
def State.pFloor (s : State) : Nat := inputWatts (s.boundParts.map (fun p => (p, s.holdOf p)))
/-- The effective cap: the greater of PWR_CAP and P_floor, and P_floor itself once step 6 of R383 holds it there. -/
def State.capEff (s : State) : Nat := if 6 ≤ s.pwr.step then s.pFloor else max s.pwr.cap s.pFloor

/-- The power limit of a die: 560 W x min (1, n / 14) for n working phases of its VCORE rail (R374). -/
def State.dieLimit (s : State) (d : Nat) : Nat := 40 * min 14 (16 - (s.rail d).phasesOut) * watt

/-- Hold-clock power of the partitions of a die that compositions hold. -/
def State.dieHeld (s : State) (d : Nat) : Nat :=
  ((List.range 4).map (fun q =>
    let x := s.part (4 * d + q)
    match x.st with
    | .bound => plOf (holdClock (s.comp x.cid).floorMhz)
    | .claimed => plOf (holdClock (s.comp x.cid).floorMhz)
    | _ => 0)).foldl (fun a b => a + b) 0

/-- Whether partitions taken for a composition with hold clock h pass the tests of R379: FMAX of every active unit, and the power limit
of each die. -/
def State.powerFits (s : State) (ps : List Nat) (h : Nat) : Bool :=
  ps.all (fun p =>
    (s.part p).meMap.all (fun e => s.fmaxReaches (uEng p e) h) && (s.part p).vtMap.all (fun v => s.fmaxReaches (uVt p v) h) &&
    (List.range 4).all (fun t => s.fmaxReaches (uSt p t) h) &&
    decide (s.dieHeld (dieOf p) + (ps.filter (fun q => dieOf q == dieOf p)).length * plOf h ≤ s.dieLimit (dieOf p)))

/-- Sets the clock and pulse rate of every unit island of a partition. -/
def State.setClock (s : State) (p set pulse : Nat) : State :=
  s.each (unitsOf p) (fun s u => s.updIsl u (fun i => { i with set := set, pulse := pulse }))

/-- No temperature sensor of a partition is valid (R374). -/
def State.sensorless (s : State) (p : Nat) : Bool := (unitsOf p).all (fun u => (s.isl u).sensorFault)

/-- The full clock of an island in a partition with hold clock h: the hold clock itself where no sensor of the partition is valid (R374, R377). -/
def State.fullClock (s : State) (u h : Nat) : Nat := if h ≠ 0 ∧ s.sensorless (u / 61) = true then h else max h (s.fmaxFull u)

/-- A BOUND partition runs at the full clock, and never below its hold clock (R377, R379). -/
def State.runClock (s : State) (p : Nat) : State :=
  s.each (unitsOf p) (fun s u => s.updIsl u (fun i => { i with set := s.fullClock u (s.holdOf p), pulse := 8 }))

/-- The islands of a multi-module composition run at the agreed frequency, never below the hold clock, and no higher than they can (R377, R384). -/
def State.runAgreed (s : State) (c : Nat) : State :=
  if (s.job c).mhz = 0 then s
  else s.each (s.comp c).members (fun s p =>
    if (s.part p).st = .bound then
      s.each (unitsOf p) (fun s u => s.updIsl u (fun i => { i with set := max (s.holdOf p) (min ((s.job c).mhz) (s.fullClock u (s.holdOf p))), pulse := 8 }))
    else s)

/-- A change of a job's frequency reaches the islands. -/
def State.followMhz (s : State) (c old : Nat) : State := if (s.job c).mhz = old then s else s.runAgreed c

end Sys2Proof.Machine
end

