-- ==== Sys2Proof/Machine/CompOps.lean ====
section
/-!
DEFINITION. Shared operations on compositions: claiming and releasing partitions, frame loads, keyslots, and settling an
operation in progress (R26, R156, R338, R339).
-/

namespace Sys2Proof.Machine

/-! ## Keyslots -/

/-- The lowest number that is no key of a table. -/
def Map.firstFree {β : Type} (m : Map β) : Nat := m.foldl (fun n e => if e.1 = n then n + 1 else n) 0

/-- A keyslot that is granted again receives a new key (R338). -/
def State.grantSlot (s : State) (k : Nat) (h : KHold) : State :=
  { s with sec := { s.sec with slots := Map.set {} k { hold := h, key := s.sec.nextKey } s.sec.slots,
                               nextKey := s.sec.nextKey + 1 } }

/-- The lowest free keyslot, when one of the 4096 is free (R338, assumption 21). -/
def State.freeSlot (s : State) : Option Nat :=
  let k := Map.firstFree s.sec.slots
  if k < 4096 then some k else none

/-- The shared keyslot of a composition. -/
def State.sharedSlot (s : State) (c : Nat) : Option Nat :=
  (s.sec.slots.find? (fun e => decide (e.2.hold = .shared c))).map (fun e => e.1)

/-- Withdraws a keyslot: requests queued under it complete first, then every key-cache entry of it is invalidated (R208,
R215, R339). -/
def State.withdrawSlot (s : State) (k : Nat) : State :=
  let s := s.serveSlot k
  { s with sec := { s.sec with
      slots := Map.set {} k {} s.sec.slots,
      caches := (s.sec.caches.map (fun e => (e.1, e.2.filter (fun x => x != k)))).filter (fun e => !e.2.isEmpty) } }

/-! ## Partitions -/

/-- A slice of a frame as a word. -/
def fword (w : Nat) (b : List Byte) (o n : Nat) : BitVec w := BitVec.ofNat w (fle b o n)

/-- One culture frame load into a partition: its records, or an image put into every tile that its VTILE or STILE frame gives it to, whichever of
them is loaded first (R144, R146-R148, R156). -/
def State.loadFrame (s : State) (frames : List Frm) (p typ key : Nat) : State :=
  let b := frmBody frames typ key
  match typ with
  | 2 => s.each ((s.part p).meMap.zipIdx) (fun s e =>
      s.updEng (kEng p e.1) (fun x => { x with cfg := fword 128 b (16 * e.2) 16 }))
  | 3 => s.each ((s.part p).vtMap.zipIdx) (fun s e =>
      s.updVt (kVt p e.1) (fun x => { x with cfg := fword 128 b (16 * e.2) 16, loaded := true }))
  | 4 => s.each (List.range 4) (fun s t =>
      s.updSt (kSt p t) (fun x => { x with cfg := fword 256 b (32 * t) 32, loaded := true }))
  | 5 =>
    let img := (b.drop 16).take (fle b 8 8)
    let lp := (s.part p).lp
    let names (typ o : Nat) : Bool := (findFrm frames typ lp).any (fun f => fle f.body o 2 == key)
    let s := s.each (s.part p).vtMap.zipIdx (fun s e =>
      if names 3 (16 * e.2 + 2) then s.updVt (kVt p e.1) (fun x => { x with lm := Bytes.wrL x.lm 0 img }) else s)
    s.each (List.range 4) (fun s t =>
      if names 4 (32 * t) then s.updSt (kSt p t) (fun x => { x with lm := Bytes.wrL x.lm 0 img }) else s)
  | _ => s

/-- The images the records of logical partition lp reference (R156). -/
def imagesOf (frames : List Frm) (lp : Nat) : List Nat :=
  let v := frmBody frames 3 lp
  let t := frmBody frames 4 lp
  ((((List.range 18).map (fun i => fle v (16 * i + 2) 2)) ++ (List.range 4).map (fun i => fle t (32 * i) 2)).filter
    (fun n => decide (n ≠ 0xFFFF))).eraseDups

/-- The loads of a partition placed as logical partition lp: its three record frames, then its images (R156). -/
def loadsOf (frames : List Frm) (p lp : Nat) : List (Nat × Nat × Nat) :=
  [(p, 2, lp), (p, 3, lp), (p, 4, lp)] ++ (imagesOf frames lp).map (fun n => (p, 5, n))

/-- Every load of a partition at once. -/
def State.loadAll (s : State) (frames : List Frm) (p lp : Nat) : State :=
  s.each (loadsOf frames p lp) (fun s l => s.loadFrame frames l.1 l.2.1 l.2.2)

/-- All units of a partition without content: what zeroing its SRAM leaves (R24, R26). -/
def State.wipe (s : State) (p : Nat) : State :=
  let s := s.each (List.range 38) (fun s e => s.updEng (kEng p e) (fun x => { flags := x.flags, macs := x.macs, arrBusy := x.arrBusy }))
  let s := s.each (List.range 19) (fun s v => s.updVt (kVt p v) (fun x => { flags := x.flags, fmas := x.fmas, busy := x.busy }))
  let s := s.each (List.range 4) (fun s t => s.updSt (kSt p t) (fun x => { cause := x.cause, tval := x.tval }))
  s.each (unitsOf p) (fun s u => s.leaveUnit u)

/-- Gives each logical index whose unit is bad the next of the units offered, in order. -/
def assignIdx (bad : Nat → Bool) (map offer : List Nat) : List Nat :=
  match map with
  | [] => []
  | e :: r =>
    if bad e then (match offer with | [] => e :: assignIdx bad r [] | n :: q => n :: assignIdx bad r q) else e :: assignIdx bad r offer

/-- A spare map after the logical indices of retired units, and of returned units that stand among the spares, have moved onto the spares in
order; with too few spares the last ones keep retired units (R18). Answers the map and the spares left. -/
def fillMap (retired : Nat → Bool) (map spares : List Nat) : List Nat × List Nat :=
  let hole (e : Nat) : Bool := retired e || spares.contains e
  let holes := map.filter hole
  let left := holes.filter (fun e => !spares.contains e)
  let offer := spares ++ left.drop (left.length - (holes.length - spares.length))
  (assignIdx hole map offer, spares.drop holes.length)

/-- The spare map goes to the journal (R18, R405). -/
def State.journalSpares (s : State) (p : Nat) : State :=
  let x := s.part p
  s.journal (.spareMap p x.meMap x.vtMap x.meSpare x.vtSpare x.meRet x.vtRet x.stRet
    ((unitsOf p).filter (fun u => (s.unit u).retired)))

/-- Moves the logical indices of retired units onto remaining spares (R18). -/
def State.useSpares (s : State) (p : Nat) : State :=
  let x := s.part p
  let me := fillMap (fun e => (s.unit (uEng p e)).retired) x.meMap x.meSpare
  let vt := fillMap (fun v => (s.unit (uVt p v)).retired) x.vtMap x.vtSpare
  s.updPart p (fun x => { x with meMap := me.1, meSpare := me.2, vtMap := vt.1, vtSpare := vt.2 })

/-- The spare map is brought up to date, and journaled when it changes, before the partition is next bound (R18). -/
def State.settleSpares (s : State) (p : Nat) : State :=
  let t := s.useSpares p
  if (t.part p).meMap = (s.part p).meMap ∧ (t.part p).vtMap = (s.part p).vtMap then s else t.journalSpares p

/-- A partition returns to FREE: SRAM zeroed, no composition (R26), and no retired unit in its spare map (R18). -/
def State.freePart (s : State) (p : Nat) : State :=
  match (s.part p).st with
  | .claimed => (((s.wipe p).updPart p (fun x => { x with st := .free, cid := 0, lp := 0 })).settleSpares p).setClock p 400 1
  | .bound => (((s.wipe p).updPart p (fun x => { x with st := .free, cid := 0, lp := 0 })).settleSpares p).setClock p 400 1
  | _ => s

/-- A gated partition comes up again: its domains, then its channels with their zero fill (R375, R376). -/
def State.powerUp (s : State) (p : Nat) : State :=
  if (s.part p).logicOn then s
  else (s.each (List.range 8) (fun s k => s.updChan (8 * p + k) (fun c =>
      if c.st = .failed then c else { c with st := .ready, secs := [] }))).updPart p (fun x => { x with logicOn := true, retOn := true }) |>.setClock p 400 1

/-- A powered FREE partition is gated off: its memory and SRAM lose their contents (R376). -/
def State.gateOff (s : State) (p : Nat) : State :=
  if (s.part p).st = .free ∧ (s.part p).logicOn then
    (s.each (List.range 8) (fun s k => s.updChan (8 * p + k) (fun c =>
      if c.st = .failed then c else { c with st := .off, secs := [] }))).updPart p (fun x => { x with logicOn := false, retOn := false }) |>.setClock p 0 0
  else s

/-- The atomic claim of a FREE partition; a gated one is powered up (R27, R375). -/
def State.claim (s : State) (p c lp : Nat) : State :=
  (s.powerUp p).updPart p (fun x => { x with st := .claimed, cid := c, lp := lp })

/-- A CLAIMED partition moves to BOUND (R26). A live floor that rises above the cap is reported (R382). -/
def State.bindPart (s : State) (p : Nat) : State :=
  if (s.part p).st = .claimed then
    let t := (s.updPart p (fun x => { x with st := .bound })).runClock p
    if s.pFloor ≤ s.pwr.cap ∧ t.pwr.cap < t.pFloor then t.pwrCode 0x050B 0 else t
  else s

/-- A composition enters a state: its record goes to the journal as one commit with the other records of the step (R186). -/
def State.compRun (s : State) (c : Nat) (st : CState) (pre : List JRec) : State :=
  let s := s.updComp c (fun x => { x with st := st })
  s.journalRun (pre ++ [.comp c (s.comp c)])
/-- A composition enters a state, and its record goes to the journal. -/
def State.compState (s : State) (c : Nat) (st : CState) : State := s.compRun c st []

/-- Removes the collective entries of a composition from every router. -/
def State.dropEntries (s : State) (c : Nat) : State :=
  { s with net := { s.net with routers := Map.mapV {} (fun _ y =>
      { y with ctab := y.ctab.filter (fun x => x.cid != c) }) s.net.routers } }

/-- What of a function no assignment touches: its TDI state, its log session (R323, R325) and the fields of its own registers. -/
def Fn.bare (x : Fn) : Fn :=
  { tdi := x.tdi, tcSel := x.tcSel, fromEn := x.fromEn, fromPort := x.fromPort, fromFunc := x.fromFunc, era := x.era + 1, logging := x.logging,
    logBase := x.logBase, log2 := x.log2, logTail := x.logTail, logHead := x.logHead, ovf := x.ovf }

/-- A function is unassigned: its submission region and completion journal go with it, and its lease is NONE (R321). -/
def State.unassign (s : State) (f : Nat) : State :=
  if (s.fn f).valid then
    (s.updFn f (fun x => x.bare)).journal
      (.assign (f / 256) (f % 256) false 0 0)
  else s

/-- The CID becomes FREE (R165, R158): its barriers, weights, shared keyslot and job end with it, and no function serves it (R321); its
generation stays, and so do the registers of its fault queue, whose reset domain is M (R237). It is the most recently freed CID. -/
def State.freeCid (s : State) (c : Nat) : State :=
  let s := s.each (s.fnsOf c) (fun s f => s.unassign f)
  let s := match s.sharedSlot c with | none => s | some k => s.withdrawSlot k
  let s := s.dropEntries c
  let s := { s with bars := s.bars.filter (fun e => decide (e.1 / 32 ≠ c)) }
  let s := { s with sch := { s.sch with stages := s.sch.stages.filter (fun e => decide (e.1 / 64 ≠ c)) } }
  let s := if (s.job c).st = .none then s else (s.updJob c (fun _ => {})).journal (.fjobEnd c)
  let s := s.updComp c (fun x => { gen := x.gen })
  { s with freeCids := s.freeCids ++ [c] }

/-- A tile that waits at a barrier resumes past its instruction with a status in kpst (R95, R96). The spec states no value for its
rd, which takes a free value (assumption 32). -/
def State.resumeTile (s : State) (k : Nat) (kpst : Word16) : State :=
  let d := s.draw
  d.2.updSt k (fun t => { t.setX (bits t.kword 11 7) d.1 with wait := .none, kpst := kpst, pc := t.pc + 4 })

/-- Contexts of a composition. -/
def State.ctxsOf (s : State) (c : Nat) : List Nat :=
  (s.ctxs.filter (fun e => decide (e.2.st ≠ .free) && e.2.cid == c)).map (fun e => e.1)

/-- A member whose context is switched out: its saved record is released with a status, as its tile would be (assumption 33). -/
def StSave.released (r : StSave) (b : Nat) (kpst : Word16) : StSave :=
  let r := { r with arrived := clrBit r.arrived b }
  if r.barWait = some b then { r with pc := r.pc + 4, kpst := kpst, barWait := none } else r

/-- A barrier with no arrival, in its phase. -/
def Barrier.empty (b : Barrier) : Barrier := { b with broken := false, count := 0, arriving := 0, src := [], waiting := [], toRelease := [] }

/-- The broken barriers of a composition return to count zero, in their current phase, when it commits a shape (R96). -/
def State.resetBarriers (s : State) (c : Nat) : State :=
  { s with bars := Map.mapV {} (fun k b => if k / 32 = c ∧ b.broken then b.empty else b) s.bars }

/-- Breaks each barrier of a composition that has a member in one of the logical partitions: waiting members, of contexts that are switched out
too, resume with kpst 0x0201, and their work is discarded; no arrival of a member is outstanding any more (R96, assumption 170). A barrier of a
MULTI_MODULE composition abandons the job (R285). -/
def State.breakBarriers (s : State) (c : Nat) (lps : List Nat) : State :=
  s.each ((List.range 32).filter (fun b =>
      let x := s.bar c b
      x.defined && !x.broken && x.members.any (fun l => lps.contains (lrefPart l)))) (fun s b =>
    let w := (s.bar c b).waiting
    let ms := (s.bar c b).members
    let out := (s.ctxsOf c).filter (fun y => (s.ctx y).saved.any (fun e =>
      ms.contains e.1 && (match e.2 with | .st r => r.barWait == some b | _ => false)))
    let s := s.updBar c b (fun x => { x with broken := true, waiting := [] })
    let s := s.each w (fun s k => s.resumeTile k 0x0201)
    let s := s.each ms (fun s l => match (s.comp c).phys (lrefPart l) with
      | none => s
      | some p => s.updSt (kSt p (lrefIdx l)) (fun t => { t with arrived := clrBit t.arrived b }))
    let s := s.each (s.ctxsOf c) (fun s y => s.updCtx y (fun k => { k with saved := k.saved.map (fun (e : Nat × Save) =>
      if ms.contains e.1 then (match e.2 with | .st r => (e.1, .st (r.released b 0x0201)) | v => (e.1, v)) else e) }))
    let works := (w.filterMap (fun k => s.workOn (uSt (k / 4) (k % 4)))) ++
      out.flatMap (fun y => ((s.workOfCtx y).filter (fun e => e.2.started)).map (fun e => e.1))
    let s := s.each works.eraseDups (fun s n => s.finishWork n 0x0201)
    if (s.comp c).multi then s.sendAbandon c else s)

/-- Makes the collective entries of the groups that name a lost logical partition invalid until the next commit; partial sums held in the routers
are dropped, and the work they belong to is discarded with a code (R127). -/
def State.breakTrees (s : State) (c : Nat) (lps : List Nat) (code : Nat) : State :=
  let hit (f : Frm) : Bool :=
    let lrefs := if f.typ = 6 then fle f.body 0 2 :: (List.range (fle f.body 2 2)).map (fun i => fle f.body (8 + 8 * i) 2)
      else fle f.body 0 2 :: (List.range (fle f.body 8 2)).map (fun i => fle f.body (16 + 2 * i) 2)
    (f.typ == 6 || f.typ == 7) && lrefs.any (fun l => lps.contains (lrefPart l))
  -- A tree is broken too when only one of its nodes lies in a lost partition.
  let ps := lps.filterMap ((s.comp c).phys)
  let nodes := s.net.routers.flatMap (fun (e : Nat × Router) =>
    if ps.contains (routerEp e.1).1 then (e.2.ctab.filter (fun (x : CEnt) => x.cid == c)).map (fun x => x.group) else [])
  let gs := (((s.comp c).frames.filter hit).map (fun f => f.key)) ++ nodes
  let s : State := { s with net := { s.net with routers := Map.mapV {} (fun _ y =>
      { y with ctab := y.ctab.map (fun x =>
        if x.cid = c ∧ gs.contains x.group then { x with valid := false, got := 0 } else x) }) s.net.routers } }
  -- What waits for them in the routers is dropped (R111, R127).
  let held (x : Held) : Bool := (x.flit.kind == 4 || x.flit.kind == 5) && gs.contains x.flit.group && (s.ctx x.flit.xid).cid == c
  let xs := (s.net.routers.flatMap (fun (e : Nat × Router) => (e.2.inq.filter held).map (fun x => x.flit.xid))).eraseDups
  let s := s.each (s.net.routers.map (fun e => e.1)) (fun s r =>
    (s.each ((s.router r).inq.filter held) (fun s x =>
      (s.dropFlit r x.pool).updRouter r (fun y => { y with inq := y.inq.erase x }))))
  s.each xs (fun s y => s.each ((s.workOfCtx y).filter (fun e => e.2.started)) (fun s e => s.finishWork e.1 code))

end Sys2Proof.Machine
end

