-- ==== Sys2Proof/Machine/Reset.lean ====
section
/-!
DEFINITION. Shared operations of recovery (chapter 17): steps of the ladder, teardown, retirement, the ladle, and the loss of
a member (R184, R392-R407, R447).
-/

namespace Sys2Proof.Machine

/-! ## Records of recovery -/

/-- FLT_COUNTS, FLT_RETIRED and the restart counts go to the journal (R420, HEALTH). -/
def State.health (s : State) : State :=
  s.jwait (.health [s.flt.nCtx, s.flt.nEng, s.flt.nPart, s.flt.nMod] [s.flt.retMe, s.flt.retVt, s.flt.retSt, s.flt.retRouters]
    ((s.fw.cores.map (fun e => (e.1, e.2.restarts))).filter (fun e => decide (e.2 ≠ 0))))

/-- FLT_LAST (Table 17.7): 1 DONE, 2 ESCALATED, 3 RETIRED, 4 REFUSED. -/
def State.fltLast (s : State) (cause step outcome target started : Nat) : State :=
  { s with flt := { s.flt with lastCause := cause, lastStep := step, lastOutcome := outcome, lastTarget := target,
                               lastUs := sat 0xFFFFFFFF ((s.now - started) / 1000) } }

def LStep.num (l : LStep) : Nat :=
  match l with | .context => 1 | .engine => 2 | .partition => 3 | .module => 4 | .powerCycle => 5

/-- Asks for a step of the ladder: hardware arms its timer (R393). A step already asked for on the same target is absorbed
(R409). -/
def State.askStep (s : State) (l : LStep) (target cause : Nat) : State :=
  if s.flt.steps.any (fun x => x.step == l && x.target == target) then s
  else { s with flt := { s.flt with steps := s.flt.steps ++ [{ step := l, target := target, cause := cause, at_ := s.now }] } }

/-- The step asked for on a target, if any. -/
def State.stepOn (s : State) (l : LStep) (target : Nat) : Option StepIn :=
  s.flt.steps.find? (fun x => x.step == l && x.target == target)

/-- The timer of a step is disarmed (R393). -/
def State.stepDone (s : State) (l : LStep) (target : Nat) : State :=
  { s with flt := { s.flt with steps := s.flt.steps.filter (fun x => !(x.step == l && x.target == target)) } }

/-- The collective entries that name a unit become invalid, and what the unit had still to inject is gone (R117). -/
def State.dropTrees (s : State) (u : Nat) : State :=
  s.updRouter (unitRouter u) (fun x => { x with
    ctab := updAll (fun e => has (e.inMask ||| e.outMask) 0) (fun e => { e with valid := false }) x.ctab, outq := [] })

/-- A generation advances, and the journal learns of it (R403, R420, R422). The pour and churn entries that name the unit are invalidated
(R117). -/
def State.bumpUnit (s : State) (u : Nat) : State :=
  let s := (s.dropTrees u).updUnit u (fun x => { x with gen := x.gen + 1 })
  s.journal (.gen .unit u (s.unit u).gen)

/-! ## Context step (R395) -/

/-- A context enters RESETTING and its admitted, undelivered work is discarded (R395 step 1). -/
def State.ctxStepStart (s : State) (x code : Nat) : State :=
  match (s.ctx x).st with
  | .free => s
  | .teardown => s
  | _ => (s.discardIf (fun w => w.xid == x) code).updCtx x (fun c => { c with st := .resetting })

/-- Steps 3 to 5 of R395: the units are zeroed, save areas are marked empty, fields of reset domain X return to reset, and
the context enters IDLE. Barriers with a member on an evicted stage lose their count (assumption 22). -/
def State.ctxStepEnd (s : State) (x cause started : Nat) : State :=
  match (s.ctx x).st with
  | .resetting =>
    let c := (s.ctx x).cid
    let lps := (s.heldOn x).flatMap (s.comp c).lpsOf
    let s := s.leaveAll x
    let s := { s with bars := Map.mapV {} (fun j b =>
      if j / 32 = c ∧ b.members.any (fun l => lps.contains (lrefPart l)) = true then
        { b with count := 0, arriving := 0, src := [], waiting := [] } else b) s.bars }
    let s := (s.updCtx x (fun k => { k with saved := [], raw := [], pub := [] })).ctxIdle x
    let s := { s with flt := { s.flt with nCtx := sat 0xFFFF (s.flt.nCtx + 1) } }
    ((s.stepDone .context x).fltLast cause 1 1 x started).health
  | _ => s

/-- A context step taken as a consequence of another event (R390, R394). -/
def State.ctxStep (s : State) (x code cause : Nat) : State := (s.ctxStepStart x code).ctxStepEnd x cause s.now

/-- The reset of a context by the loss of a member: accepted work that has not started is kept for the repair (R184). -/
def State.ctxResetKeep (s : State) (x cause : Nat) : State :=
  match (s.ctx x).st with
  | .free => s
  | .teardown => s
  | _ =>
    let s := (s.updCtx x (fun c => { c with st := .resetting })).ctxStepEnd x cause s.now
    if (s.workOfCtx x).isEmpty then s else s.updCtx x (fun c => { c with st := .waiting })

/-- Whether a FABRIC frame names a group as LOCAL_GROUP: a spanning group (R281). -/
def Comp.spanning (c : Comp) (g : Nat) : Bool := c.multi && c.frames.any (fun f => f.typ == 10 && fle f.body 2 2 == g)

/-- Whether a command is a range atomic, and whether it is an NSEND to a churn tree that spans modules: the non-pre-emptible commands of an
engine (R67, R248). -/
def isAtomic (c : Cmd) : Bool := decide (bits c 7 0 = 4 ∧ 2 ≤ bits c 18 16)
def State.npSend (s : State) (u : Nat) (c : Cmd) : Bool :=
  let x := s.comp (s.cidOf u)
  decide (bits c 7 0 = 5) && x.spanning (bits c 27 16) && (findFrm x.frames 7 (bits c 27 16)).isSome

/-- Whether a unit runs a non-pre-emptible command (R67, R248). -/
def State.npRunning (s : State) (u : Nat) : Bool :=
  match ukind u with
  | .eng p e =>
    match (s.engine (kEng p e)).dma.exe with
    | none => false
    | some r => (isAtomic r.cmd || s.npSend u r.cmd) && !r.fin
  | _ => false

/-! ## Records of state tokens (R180 to R183) -/

/-- A token's record as its holder journals it (Table 7.8). -/
def Token.record (k : Token) : Token := { k with req := Request.zero, owed := [] }

/-- The owner's record of a token changes and is journaled. -/
def State.setToken (s : State) (t : Nat) (f : Token → Token) : State :=
  let s := s.updTok t f
  s.journal (.token (BitVec.ofNat 64 t) (s.token t).record)

/-- A handoff that fails before V's record: S holds the token at its epoch again, and the TOKEN_MOVE is answered with TOKEN_STATE (Table 7.9,
assumption 175). -/
def State.failHandoff (s : State) (t : Nat) : State :=
  let r := (s.token t).req
  (s.setToken t (fun k => { k with st := .owned, peer := 0, req := Request.zero })).reply r 0x0109 [0]

/-- A token is LOST; a handoff of it ends (R183). -/
def State.loseToken (s : State) (t : Nat) : State :=
  let k := s.token t
  let s := s.setToken t (fun k => { k with st := .lost, peer := 0, req := Request.zero })
  if k.st = .sending then s.reply k.req 0x0109 [0] else s

/-- S journals RELEASED at its epoch, and the TOKEN_MOVE is answered once that is durable (R181 step 5, R239). -/
def State.ackHandoff (s : State) (t : Nat) (o : Owed) : State :=
  let k := s.token t
  let s := s.journal (.token (BitVec.ofNat 64 t) { k.record with st := .released, epoch := o.epoch, pool := o.pool, peer := 0 })
  let s := s.updTok t (fun k => { k with owed := k.owed.erase o })
  match o.req.reply with | .nobody => s | _ => s.answerDurable o.req [0]

/-! ## Teardown (R447) -/

/-- Step 1 of R447: the context enters TEARDOWN and its work is discarded with the code of the trigger. -/
def State.startTeardown (s : State) (x code : Nat) (req : Request) : State :=
  match (s.ctx x).st with
  | .free => s
  | .teardown => s
  | _ => (s.discardIf (fun w => w.xid == x) code).updCtx x (fun c => { c with st := .teardown, code := code, req := req })

/-- Tokens a context holds. -/
def State.tokensOf (s : State) (x : Nat) : List Nat :=
  (s.tokens.filter (fun e => e.2.xid == x && decide (e.2.st ≠ .none ∧ e.2.st ≠ .released))).map (fun e => e.1)

/-- TOKEN_RELEASE: RELEASED is journaled (R239). A handoff in progress ends with it. -/
def State.releaseToken (s : State) (t : Nat) : State :=
  let s := s.each (s.token t).owed (fun s o => s.ackHandoff t o)
  let k := s.token t
  let s := s.setToken t (fun k => { k with st := .released, peer := 0, req := Request.zero })
  if k.st = .sending then s.reply k.req 0x0109 [0] else s

/-- Steps 2 to 6 of R447. -/
def State.finishTeardown (s : State) (x : Nat) : State :=
  let k := s.ctx x
  match k.st with
  | .teardown =>
    let s := s.leaveAll x
    let s := s.each (s.tokensOf x) (fun s t => s.releaseToken t)
    let s := s.withdrawSlot k.slot
    let s := { s with xlt := { s.xlt with
      slots := s.xlt.slots.filter (fun e => decide (e.1 / 4096 ≠ x)), wds := s.xlt.wds.filter (fun w => w.xid != x) } }
    let s := (s.updCtx x (fun _ => {})).journal (.ctxEnd x)
    let s := { s with freedXids := s.freedXids ++ [x] }
    match k.req.reply with
    | .nobody => s
    | _ => s.answer k.req 0 [0]
  | _ => s

/-- A whole teardown. -/
def State.teardownNow (s : State) (x code : Nat) : State := (s.startTeardown x code Request.zero).finishTeardown x

/-! ## The ladle (R401) -/

/-- The sample: the first 8 KiB of each of the eight banks, in bank order. -/
def ladleBody (sp : Bytes) : Bytes :=
  (List.range 8).flatMap (fun b =>
    (sp.filter (fun c => decide (b * 0xC0000 ≤ c.1 ∧ c.1 < b * 0xC0000 + 0x2000))).map (fun c =>
      (c.1 - b * 0xC0000 + b * 0x2000, c.2)))

/-- Takes the ladle of engine e of partition p. With a context resident its body is encrypted under the context's keyslot.
A read that does not finish is abandoned and MISSING is set. -/
def State.takeLadle (s : State) (p e cause step : Nat) (read : Bool) : State :=
  let k := kEng p e
  let u := uEng p e
  let res := match s.stageOfPart p with | none => none | some (c, g) => (s.stage c g).resident
  let l : Ladle :=
    { valid := true, enc := res.isSome, missing := !read, cause := cause, step := step, unitGen := (s.unit u).gen,
      xid := res.getD 0, seq := s.flt.ladleCount % 0x10000,
      key := match res with | none => 0 | some x => (s.kslot (s.ctx x).slot).key,
      body := if read then ladleBody (s.engine k).sp else [] }
  { s with flt := { s.flt with ladles := Map.set {} k l s.flt.ladles, ladleCount := s.flt.ladleCount + 1,
                               ladled := if s.flt.ladled.contains u then s.flt.ladled else s.flt.ladled ++ [u] } }

/-! ## Tokens and members -/

/-- Whether a pool identifier names the memory of a physical partition (Table 7.7). -/
def poolOfPart (pool : Word64) (p : Nat) : Bool := decide (bits pool 63 62 = 0 ∧ bits pool 21 16 = p)

/-- Marks LOST every token whose owner's pool satisfies a condition; a handoff to such a pool fails (R182 to R184). -/
def State.loseTokens (s : State) (hit : Word64 → Bool) : State :=
  let s := s.each ((s.tokens.filter (fun e => hit e.2.pool && decide (e.2.st = .owned ∨ e.2.st = .sending))).map (fun e => e.1))
    (fun s t => s.loseToken t)
  s.each ((s.tokens.filter (fun e => hit e.2.peer && decide (e.2.st = .sending))).map (fun e => e.1)) (fun s t => s.failHandoff t)

/-- Ownership after a restart of the SUP core (R182, Table 7.9): with V's OWNED e + 1 durable, S is written RELEASED; a handoff without it has
failed. -/
def State.resolveTokens (s : State) : State :=
  s.each (s.tokens.map (fun e => e.1)) (fun s t =>
    let s := s.each (s.token t).owed (fun s o => s.ackHandoff t o)
    if (s.token t).st = .sending then s.failHandoff t else s)

/-! ## Rolling an operation back (R175, R187) -/

/-- Discards the accepted work of the switch batch or later, and frees its stages (R175). -/
def State.discardNew (s : State) (c code : Nat) : State :=
  s.discardIf (fun w => w.cid == c && (s.comp c).newShape w.asBatch) code

/-- A composition goes to UNBINDING, for a request and those that wait with it (R167, R169). -/
def State.startUnbind (s : State) (c : Nat) (req : Request) (force : Bool) (more : List Request) : State :=
  (s.updComp c (fun x => { x with op := some { kind := .unbind, req := req, force := force, more := more } })).compState c .unbinding

/-- Every context of a composition is torn down (R447) and its unfinished work goes with it. The operator hears of each context of a client
whose lease is LAPSED (Table 12.10). -/
def State.tearComp (s : State) (c : Nat) : State :=
  let s := s.each (s.ctxsOf c) (fun s x => if (s.fn (s.ctx x).client).lease = .lapsed then s.emit (.operator 0x0208 x) else s)
  s.each (s.ctxsOf c) (fun s x => s.startTeardown x 0x0201 Request.zero)

/-- The targets of an operation are released, for a fast re-bind the batch s work is discarded with REBIND_ROLLBACK, and ROLLBACK is journaled
(R158, R175 steps 1 and 3). -/
def State.unwind (s : State) (c cause : Nat) : State :=
  match (s.comp c).op with
  | none => s
  | some o =>
    if o.rolled then s
    else
      let s := if o.kind = .fast ∧ o.begun then s.discardNew c 0x0207 else s
      let s := s.each (o.added ++ o.copied) (fun s g => s.evict c g)
      let s := s.each o.targets (fun s t => s.freePart t.2)
      let s := if o.begun || o.kind == .bind then s.journal (.rollback c cause) else s
      s.updComp c (fun x => { x with op := some { o with rolled := true, targets := [], loads := [], added := [], copied := [] } })

/-- The partitions of a composition whose frames an operation had replaced, with their logical partitions. -/
def Comp.replaced (c : Comp) (o : CompOp) : List (Nat × Nat) :=
  c.place.filter (fun e => o.begun && o.changed.any (fun g => (o.kind == .slow || o.drained.contains g) && c.stageOf e.1 == some g))

/-- Rolls an operation of a composition back: it is unwound, the request is answered with `ans`, and the composition returns to the state it had.
The frames that had been replaced are loaded again from the store; a store that no longer holds them ends the composition (R169, R175). A rank
of a fabric job whose re-bind has rolled back answers HELLO with its old digest (R173). -/
def State.rollback (s : State) (c cause ans : Nat) : State :=
  match (s.comp c).op with
  | none => s
  | some o =>
    match o.kind with
    | .unbind => s
    | .bind => (((s.unwind c cause).updComp c (fun x => { x with op := none })).freeCid c).answer o.req ans []
    | .repair => (s.unwind c cause).updComp c (fun x => { x with op := none })
    | .restore => (s.unwind c cause).updComp c (fun x => { x with op := none })
    | _ =>
      let s := (s.unwind c cause).updComp c (fun x => { x with op := none })
      let s := if (s.comp c).multi && o.begun then
          { s with fab := { s.fab with joins := Map.upd {} o.handle (fun j => { j with back := some c }) s.fab.joins } } else s
      let again := (s.comp c).replaced o
      let s := if again.isEmpty then s else s.readStore c
      if !again.isEmpty && !s.storeGood c then ((s.answer o.req ans []).startUnbind c Request.zero false []).tearComp c
      else ((s.each again (fun s e => s.loadAll (s.comp c).frames e.2 e.1)).compState c .active).answer o.req ans []

/-- A composition loses member partition p (R184, R187): an operation in progress is settled first; then started work is
discarded, contexts are reset, tokens are LOST, and the composition is IMPAIRED. The loss of a target alone only rolls the re-bind back; contexts
it had saved are restored before the composition is ACTIVE (Table 7.3). An unbind under way goes on from IMPAIRED to UNBINDING. -/
def State.memberLost (s : State) (c p code cause : Nat) : State :=
  let lp := (s.part p).lp
  let isMember := decide (Map.get 255 (s.comp c).place lp = p)
  match (s.comp c).op, (s.comp c).st with
  | some _, .binding =>
    if (s.comp c).restoring then
      -- The group is left unplaced (R446).
      let g := ((s.comp c).stageOf lp).getD lp
      s.updComp c (fun x => { x with
        lostGroups := if x.lostGroups.contains g then x.lostGroups else x.lostGroups ++ [g], lossCode := code })
    else s.rollback c code code
  | o, st =>
    let hit := isMember && decide (st ≠ .free ∧ st ≠ .unbinding)
    -- Started work reports the code of the cause; batch s work the lower of it and REBIND_ROLLBACK (Table 7.11).
    let s := if hit then
        let n := (s.comp c).newShape
        (s.discardIf (fun w => w.cid == c && w.started && n w.asBatch) (min code 0x0207)).discardIf
          (fun w => w.cid == c && w.started) code
      else s
    let s := match o with
      | some v =>
        if v.kind = .unbind then s
        else if !hit && !v.savedCtx.isEmpty then s.unwind c code
        else s.rollback c code 0x0207
      | none => s
    if !hit || decide ((s.comp c).st = .unbinding) then s
    else
      let g := ((s.comp c).stageOf lp).getD lp
      let s := s.breakBarriers c [lp]
      let s := s.breakTrees c [lp] code
      let s := s.each (s.ctxsOf c) (fun s x => s.ctxResetKeep x cause)
      let s := s.loseTokens (fun t => poolOfPart t p)
      let s := s.sendAbandon c
      let s := s.updComp c (fun x => { x with
        lostGroups := if x.lostGroups.contains g then x.lostGroups else x.lostGroups ++ [g], lossCode := code })
      let s := s.compState c .impaired
      match (s.comp c).op with
      | some v => (s.startUnbind c v.req v.force v.more).tearComp c
      | none => s

/-! ## Announcements (R440, R445) -/

/-- A bit of MOD_PRT_CHANGED sets: with EN set, PF0 of every port raises the vector. -/
def State.marked (s : State) (p : Nat) : State :=
  let s := { s with boot := { s.boot with changed := setBit s.boot.changed p } }
  if s.boot.evtEn then s.each (List.range 4) (fun s h => s.emit (.msix h 0 s.boot.evtVec)) else s

/-- A partition is announced: it is counted, its bit sets and the tray controller hears of it (assumption 58). -/
def State.announce (s : State) (p : Nat) : State :=
  let s := { s with boot := { s.boot with
    announced := if s.boot.announced.contains p then s.boot.announced else s.boot.announced ++ [p] } }
  (s.marked p).tray 0 p

/-- The compute-die rails run and none that feeds the partition has shorted (R373, R374). -/
def State.railsOk (s : State) (p : Nat) : Bool :=
  s.boot.computeOn && [dieOf p, 16 + dieOf p, 32 + dieOf p, 48 + dieOf p].all (fun r => decide ((s.rail r).st ≠ .shorted))

/-- The die of a partition has a valid temperature sensor, and router half-planes whose FMAX is 1100 MHz or more (R374, R378). -/
def State.dieSound (s : State) (p : Nat) : Bool :=
  let d := dieOf p
  ((List.range 244).any (fun k => !(s.isl (244 * d + k)).sensorFault) || (List.range 2).any (fun h => !(s.isl (3904 + 2 * d + h)).sensorFault)) &&
    (List.range 2).all (fun h => match (s.isl (3904 + 2 * d + h)).fmax with | none => true | some v => decide (1100 ≤ v))

/-! ## Partition step (R398) -/

/-- A channel in the reset of its partition: its registers return to reset and what it held is lost, the rows queued for repair and a failure
stay (R213, R196, assumption 189). -/
def Chan.restart (c : Chan) (st : ChState) : Chan :=
  { rows := c.rows, pprUsed := c.pprUsed, patrol := c.patrol, corr := c.corr, st := if c.st = .failed then .failed else st }

/-- Channel k of a partition is reset; the requests its controller and router hold are dropped under R111, with their credits returned (R205). -/
def State.resetChan (s : State) (p k : Nat) : State :=
  let c := s.chan (8 * p + k)
  let s := s.each (c.waiting ++ c.backlog) (fun s _ => s.countDrop (epRouter p (61 + k / 4)))
  let s := s.each c.backlog (fun s r => (s.updChan (8 * p + k) (fun c => { c with backlog := c.backlog.erase r })).freeHeld (2 * p + k / 4))
  s.updChan (8 * p + k) (fun c => c.restart .off)

/-- What a partition step resets of a partition: every unit, under a new generation, its memory and its channels (R8, R398 step 3). -/
def State.resetPart (s : State) (p : Nat) : State :=
  let s := s.each (unitsOf p) (fun s u => ((s.resetUnit u).leaveUnit u).bumpUnit u)
  let s := s.wipe p
  { (s.each (List.range 8) (fun s k => s.resetChan p k)) with grades := Map.set 0 (2 * p) 0 (Map.set 0 (2 * p + 1) 0 s.grades) }

/-- The memory of logical partition 0 is lost, and with it what the submission regions of its composition held: slots, notices and completion
journals (R298, assumption 226). -/
def State.loseRegions (s : State) (c : Nat) : State :=
  s.each (s.host.fns.map (fun e => e.1)) (fun s f =>
    if (s.fn f).valid ∧ (s.fn f).cid = c then
      s.updFn f (fun x => { x with region := [], journal := [], notices := [], late := [] })
    else s)

/-- Steps 1 to 3 of R398: the partition goes OFFLINE, its composition loses a member, the ladles are taken, and every unit is
reset under a new generation. -/
def State.takeOffline (s : State) (p code cause : Nat) (ladle : Bool) : State :=
  let x := s.part p
  let s := if ladle then
      s.each ((List.range 38).filter (fun e => !s.flt.ladled.contains (uEng p e))) (fun s e => s.takeLadle p e cause 3 true)
    else s
  let s := if x.st = .bound ∧ x.lp = 0 ∧ Map.get 255 (s.comp x.cid).place 0 = p then s.loseRegions x.cid else s
  let s := match x.st with
    | .bound => s.memberLost x.cid p code cause
    | .claimed => s.memberLost x.cid p code cause
    | _ => s
  ((s.resetPart p).updPart p (fun x => { x with st := .offline, cid := 0, lp := 0 })).marked p

/-- Working units and channels are enough (R18). -/
def State.partOk (s : State) (p : Nat) : Bool :=
  let x := s.part p
  x.meMap.all (fun e => !(s.unit (uEng p e)).retired) && x.vtMap.all (fun v => !(s.unit (uVt p v)).retired) &&
    (List.range 4).all (fun t => !(s.unit (uSt p t)).retired) &&
    (List.range 8).all (fun k => decide ((s.chan (8 * p + k)).st ≠ .failed)) && x.barrierBlockOk

/-- Units retired once that passed a full self-test return as the next free spares under a new generation. A scalar tile has no spare, so none
returns (R18, R407). -/
def State.returnSpares (s : State) (p : Nat) : State :=
  s.each ((unitsOf p).filter (fun u => (s.unit u).retired && !(s.unit u).noReturn)) (fun s u =>
    let back (s : State) : State :=
      (s.updUnit u (fun x => { x with retired := false, fenced := false, portClosed := false, st := .idle, steps24 := [] })).bumpUnit u
    match ukind u with
    | .eng _ e => (back s).updPart p (fun x => { x with meSpare := x.meSpare ++ [e], meRet := x.meRet - 1 })
    | .vt _ v => (back s).updPart p (fun x => { x with vtSpare := x.vtSpare ++ [v], vtRet := x.vtRet - 1 })
    | .st _ _ => s)

/-- The units of a partition leave reset; those that are not retired open their ports (R396, R398). -/
def State.openUnits (s : State) (p : Nat) : State :=
  s.each (unitsOf p) (fun s u => s.updUnit u (fun x =>
    if x.retired then x else { x with st := .idle, fenced := false, portClosed := false }))

/-- Steps 1 and 2 of R201 begin: the channels of an OFFLINE partition that nothing holds are TRAINING. -/
def State.trainChans (s : State) (p : Nat) : State :=
  if (s.part p).st = .offline ∧ (s.part p).holds = [] ∧ s.railsOk p = true then
    s.each (List.range 8) (fun s k => s.updChan (8 * p + k) (fun c => { c with st := if c.st = .failed then .failed else .training }))
  else s

/-- Steps 4 and 5 of R398: after training, test and zero fill the partition leaves OFFLINE with GEN advanced and is FREE, or
is DEGRADED. A channel named in `bad` has failed its training or test (R201). The partition stays OFFLINE while heat, coolant or power holds it,
without a writer, for its generation cannot be committed (Table 18.1), and while the compute-die rails are off. A partition whose rail has
shorted fails the test (R374), its channels without power. -/
def State.bringBack (s : State) (p : Nat) (bad : BitVec 8) (retest : Bool) : State :=
  if !decide ((s.part p).st = .offline ∧ (s.part p).holds = []) || !s.canCommit || !s.boot.computeOn then s
  else
    let rails := s.railsOk p
    let sound := rails && s.dieSound p
    let s := if sound && retest then s.returnSpares p else s
    let s := s.useSpares p
    let s := s.each (List.range 8) (fun s k => s.updChan (8 * p + k) (fun c =>
      c.restart (if !rails then .off else if bit bad k then .failed else .ready)))
    let ok := sound && s.partOk p
    let s := s.openUnits p
    let s := s.updPart p (fun x => { x with
      gen := x.gen + 1, st := if ok then .free else .degraded, logicOn := rails, retOn := rails })
    let s := s.setClock p 400 1
    -- A token whose pool lies here under the generation before is LOST (R183).
    (((s.journal (.gen .part p (s.part p).gen)).journalSpares p).loseTokens (fun v => poolOfPart v p)).announce p

/-! ## Starting a step (R390, R392, R409) -/

/-- Whether a role of the management cores is halted (R411). -/
def State.roleHalted (s : State) (r : Nat) : Bool := has s.sec.haltedRoles r

/-- A step of the ladder starts: what it does at t = 0, and its timer. A wider step in progress absorbs it, and it absorbs the narrower
ones of its partition (R409). With HLT halted a partition or module step becomes a power-cycle request (Table 18.1). -/
def State.startStep (s : State) (l : LStep) (target cause : Nat) : State :=
  if s.flt.steps.any (fun x => x.step == .module || x.step == .powerCycle) then s
  else match l with
  | .context =>
    match (s.ctx target).st with
    | .free => s
    | .teardown => s
    | _ => (s.ctxStepStart target 0x0201).askStep .context target cause
  | .engine =>
    let p := (ukind target).part
    if (s.unit target).retired ∨ (s.stepOn .partition p).isSome = true ∨ (s.part p).st = .offline then s
    else
      let s := match s.workOn target with | none => s | some w => s.finishWork w 0x0201
      (s.updUnit target (fun x => { x with portClosed := true })).askStep .engine target cause
  | .partition =>
    if s.roleHalted 5 then s.askStep .powerCycle 0 cause
    else
      let s := { s with flt := { s.flt with
        steps := s.flt.steps.filter (fun (x : StepIn) => !(x.step == LStep.engine && (ukind x.target).part == target)) } }
      let s := if (s.part target).st = .offline ∨ (s.part target).st = .degraded then s else s.takeOffline target 0x0201 cause true
      (s.trainChans target).askStep .partition target cause
  | .module => s.askStep (if s.roleHalted 5 then .powerCycle else .module) 0 cause
  | .powerCycle => s.askStep .powerCycle 0 cause

/-- Whether the units of a context have come to rest: one that runs a non-pre-emptible command does not wait for it and takes the engine step,
and each waits until nothing is outstanding under its range cache (R395 steps 2 and 3). -/
def State.restUnits (s : State) (x cause : Nat) : Bool × State :=
  let us := s.ctxUnits x
  let s := s.each (us.filter s.npRunning) (fun s u => s.startStep .engine u cause)
  (!us.any (fun u => (s.stepOn .engine u).isSome || (s.unit u).ext.isSome), s)

/-- Steps 2 to 6 of R447, once the units of the context are at rest. An engine step it causes carries FATAL_FAULT after a lost fault, and
OPERATOR otherwise (assumption 215). -/
def State.endTeardown (s : State) (x : Nat) : State :=
  match (s.ctx x).st with
  | .teardown =>
    let t := s.restUnits x (if (s.ctx x).code = 0x0205 then 11 else 10)
    if t.1 then t.2.finishTeardown x else t.2
  | _ => s

/-- A partition that has lost a unit or an endpoint without a spare: work is discarded with UNIT_RETIRED, and the partition takes a
partition step, at whose end it is DEGRADED (R18, R406, Table 1.8). -/
def State.losePart (s : State) (p cause : Nat) : State :=
  if (s.part p).st = .offline ∨ (s.part p).st = .degraded then s
  else (s.takeOffline p 0x0209 cause true).startStep .partition p cause

/-! ## Retirement (R405, R406) -/

/-- A unit is retired: its port stays closed and it leaves the spares, the counts and the journal follow. For a BOUND
partition without a spare of its kind, and for a scalar tile, the partition is lost to its composition, reset, and DEGRADED
(R18, R406). -/
def State.retireUnit (s : State) (u : Nat) (final : Bool) (cause : Nat) : State :=
  if (s.unit u).retired then s
  else
    let p := (ukind u).part
    let s := (s.dropTrees u).updUnit u (fun x => { x with
      retired := true, fenced := true, portClosed := true, st := .fenced, noReturn := x.noReturn || x.retiredOnce || final,
      retiredOnce := true })
    let s := match ukind u with
      | .eng _ e =>
        let s := s.updPart p (fun x => { x with meRet := x.meRet + 1, meSpare := x.meSpare.filter (fun y => y != e) })
        { s with flt := { s.flt with retMe := s.flt.retMe + 1 } }
      | .vt _ v =>
        let s := s.updPart p (fun x => { x with vtRet := x.vtRet + 1, vtSpare := x.vtSpare.filter (fun y => y != v) })
        { s with flt := { s.flt with retVt := s.flt.retVt + 1 } }
      | .st _ _ =>
        let s := s.updPart p (fun x => { x with stRet := x.stRet + 1 })
        { s with flt := { s.flt with retSt := s.flt.retSt + 1 } }
    let x := s.part p
    -- Every retired unit of the spare map, those that wait for their substitution among them, needs a spare of its own.
    let spare := match ukind u with
      | .eng _ _ => decide ((x.meMap.filter (fun e => (s.unit (uEng p e)).retired)).length ≤ x.meSpare.length)
      | .vt _ _ => decide ((x.vtMap.filter (fun v => (s.unit (uVt p v)).retired)).length ≤ x.vtSpare.length)
      | .st _ _ => false
    let s := match x.st with
      | .bound =>
        if spare then
          -- Work that used the unit is discarded and the contexts of the stage take the context step (R406).
          let s := match s.workOn u with | none => s | some w => s.finishWork w 0x0209
          match s.stageOfPart p with
          | none => s
          | some (c, g) => match (s.stage c g).resident with | none => s | some y => s.ctxStep y 0x0209 cause
        else s.losePart p cause
      | .offline => s.useSpares p
      | .degraded => s.useSpares p
      | _ => if spare then s.useSpares p
             else s.losePart p cause
    (s.journalSpares p).health

/-! ## Engine step (R396, R397) -/

/-- The units a scalar tile issues to: those whose records name it (R58, R84). -/
def State.issues (s : State) (p t : Nat) : List Nat :=
  ((s.part p).meMap.filter (fun e => decide (bits (s.engine (kEng p e)).cfg 7 0 = t))).map (uEng p) ++
  ((s.part p).vtMap.filter (fun v => (s.vt (kVt p v)).loaded && decide (bits (s.vt (kVt p v)).cfg 7 0 = t))).map (uVt p)

/-- The context steps an engine step causes, and the discard of the work running on the unit's stage (R396). -/
def State.stageLost (s : State) (u cause : Nat) : State :=
  let s := match s.workOn u with | none => s | some w => s.finishWork w 0x0201
  match s.stageOfPart (ukind u).part with
  | none => s
  | some (c, g) => match (s.stage c g).resident with | none => s | some x => s.ctxStep x 0x0201 cause

/-- Resets one unit as steps 3 to 6 of R396 state. -/
def State.resetOne (s : State) (u : Nat) : State :=
  ((s.resetUnit u).leaveUnit u).bumpUnit u |>.updUnit u (fun x =>
    if x.retired then x else { x with st := .idle, portClosed := false })

/-- Whether a unit is in an engine step: its own, or that of the scalar tile that issues to it (R397). -/
def State.inEngStep (s : State) (u : Nat) : Bool :=
  let p := (ukind u).part
  (s.stepOn .engine u).isSome || (List.range 4).any (fun t => (s.stepOn .engine (uSt p t)).isSome && (s.issues p t).contains u)

/-- A whole engine step. A unit that fails its self-test, or takes its third engine step within 24 h, is retired (R392,
R405). -/
def State.engStep (s : State) (u cause started : Nat) (passed ladleRead : Bool) : State :=
  let s := match ukind u with
    | .eng p e => if s.flt.ladled.contains u then s else s.takeLadle p e cause 2 ladleRead
    | _ => s
  let s := s.stageLost u cause
  let s := match ukind u with
    | .st p t => s.each (s.issues p t) (fun s v => s.resetOne v)
    | _ => s
  let s := s.resetOne u
  let s := s.loadProg u
  let s := s.updUnit u (fun x => { x with steps24 := within s.now 86400000000000 x.steps24 })
  let s := { s with flt := { s.flt with nEng := sat 0xFFFF (s.flt.nEng + 1), ladled := s.flt.ladled.filter (fun x => x != u) } }
  let retire := !passed || decide (3 ≤ (s.unit u).steps24.length)
  let s := if retire then s.retireUnit u false cause else s
  ((s.stepDone .engine u).fltLast cause 2 (if retire then 3 else 1) u started).health

/-- A DEGRADED partition stays so until a module reset (Table 1.8): after its reset its channels are trained again and its units leave reset. -/
def State.testDegraded (s : State) (p : Nat) (bad : BitVec 8) : State :=
  (s.each (List.range 8) (fun s k => s.updChan (8 * p + k) (fun c =>
    c.restart (if !s.railsOk p then .off else if bit bad k then .failed else .ready)))).openUnits p

/-- Units of a partition that fail their self-test in its reset are retired: bit 8 + k names unit k, and the bits below name channels (R398, R405). -/
def State.failUnits (s : State) (p : Nat) (bad : BitVec 69) (cause : Nat) : State :=
  s.each ((List.range 61).filter (fun k => bit bad (8 + k))) (fun s k => s.retireUnit (61 * p + k) false cause)

/-- A whole partition step. `bad` names the channels and, from bit 8 on, the units that fail their tests. A partition that a thermal, coolant or power
hold keeps OFFLINE does not come back here. -/
def State.partStep (s : State) (p code cause started : Nat) (bad : BitVec 69) (retest : Bool) : State :=
  let s := match (s.part p).st with
    | .offline => s.failUnits p bad cause
    | .degraded => ((s.resetPart p).testDegraded p (bad.extractLsb' 0 8)).failUnits p bad cause
    | _ => (s.takeOffline p code cause true).failUnits p bad cause
  let s := { s with flt := { s.flt with nPart := sat 0xFFFF (s.flt.nPart + 1),
                                        ladled := s.flt.ladled.filter (fun u => decide ((ukind u).part ≠ p)) } }
  let s := s.bringBack p (bad.extractLsb' 0 8) retest
  ((s.stepDone .partition p).fltLast cause 3 1 p started).health

end Sys2Proof.Machine
end

