-- ==== Sys2Proof/Machine/MemoryRows.lean ====
section
/-!
DEFINITION. Commands of the local tier (chapter 8): sector accesses, the patrol, repair, shared weights, temperature,
regulation and key caches.
-/

namespace Sys2Proof.Machine

/-- Class number of a master class (R213). -/
def mclass (c : MClass) : Nat := match c with | .dma => 0 | .vt => 1 | .host => 2 | .fab => 3 | .save => 4

/-- The class a request is sorted into by its source endpoint and bit 30 of its control word (R203). The other endpoints send no requests. -/
def masterOf (m : Sender) : Option MClass :=
  if m.bit30 then some .save
  else if m.src.toNat < 4096 then
    match routerUnit m.src.toNat with
    | none => none
    | some u => some (match ukind u with | .vt _ _ => .vt | _ => .dma)
  else match ioEndOf m.src.toNat with
    | some .mgmt => some .save
    | some .host => some .host
    | some (.fab _) => some .fab
    | _ => none

/-- A request reaches a controller: it enters the transaction table, or the router holds it while that is full (R205). An offset at or above the
usable size never reaches a channel (R190), and a channel that is not READY serves none. -/
def State.request (s : State) (r : MemReq) : State :=
  if chanBytes ≤ r.off ∨ (s.chan r.ch).st ≠ .ready then s
  else if s.tableCount (r.ch / 4) < 256 then s.enter r
  else s.holdReq r

/-- A request of channel ch of partition p from a source endpoint. -/
def State.memAccess (s : State) (p ch off keysel : Nat) (m : Sender) (op : Nat) (data mask : BitVec 512) (err : ReadErr) : State :=
  match masterOf m with
  | none => s
  | some c => s.request { ch := 8 * p + ch, off := off, keysel := keysel, cls := mclass c, op := op, data := data, mask := mask, err := err }

def execMemRead (p : PartId) (ch : Fin 8) (off : Nat) (keysel : BitVec 13) (sender : Sender) (err : ReadErr) (s : State) :
    Host.Outcome State Fault Refusal :=
  .next (s.memAccess p.val ch.val off keysel.toNat sender 0 0 0 err)

def execMemWrite (p : PartId) (ch : Fin 8) (off : Nat) (keysel : BitVec 13) (sender : Sender) (data : BitVec 512)
    (err : ReadErr) (s : State) : Host.Outcome State Fault Refusal :=
  .next (s.memAccess p.val ch.val off keysel.toNat sender 1 data 0 err)

def execMemPartialWrite (p : PartId) (ch : Fin 8) (off : Nat) (keysel : BitVec 13) (sender : Sender) (data mask : BitVec 512)
    (err : ReadErr) (s : State) : Host.Outcome State Fault Refusal :=
  .next (s.memAccess p.val ch.val off keysel.toNat sender 2 data mask err)

/-- A corrected read of a check sector: counted, and its row watched (Table 8.2, R196). -/
def State.correctedCheck (s : State) (ch b : Nat) : State :=
  let row := rowOf (checkPhys (15 * b))
  let l := within s.now 86400000000000 (Map.get [] (s.chan ch).corr row)
  let s := s.updChan ch (fun c => { c with ce := c.ce + 1, corr := Map.set [] row l c.corr })
  if 4 ≤ l.length then s.queueRow ch row else s

/-- The next patrol read of a channel: block and slot of 16, the last being the check sector (R190, R195). -/
def State.patrolStep (s : State) (ch : Nat) (err : ReadErr) : State :=
  let n := (s.chan ch).patrol
  let s := s.updChan ch (fun c => { c with patrol := (n + 1) % 2 ^ 24 })
  if n % 16 < 15 then (s.decodeSector ch (n / 16 * 15 + n % 16) err).2
  else match err with
    | .clean => s
    | .oneSymbol => s.correctedCheck ch (n / 16)
    | _ => s.poisonBlock ch (n / 16)

def execPatrolRead (p : PartId) (ch : Fin 8) (err : ReadErr) (s : State) : Host.Outcome State Fault Refusal :=
  .next (if (s.chan (8 * p.val + ch.val)).st = .ready then s.patrolStep (8 * p.val + ch.val) err else s)

/-- Channels of a partition with rows queued for repair. -/
def State.rowsQueued (s : State) (p : Nat) : List Nat :=
  ((List.range 8).map (fun k => 8 * p + k)).filter (fun ch => !(s.chan ch).rows.isEmpty)

/-- Whether the rows queued on a channel find repair resources: they do when the bank with fewest has as many, and else `unrepaired` tells
(R196, R213). -/
def State.repairable (s : State) (ch : Nat) (unrepaired : Bool) : Bool :=
  decide ((s.chan ch).rows.length ≤ Config.pprLeft ch (s.chan ch).pprUsed) || !unrepaired

/-- The rows queued on a channel are repaired before training; a channel with a row that has no repair resource left becomes FAILED (R196). -/
def State.repairChan (s : State) (ch : Nat) (unrepaired : Bool) : State :=
  if s.repairable ch unrepaired then
    (s.updChan ch (fun c => { c with rows := [], pprUsed := c.pprUsed + c.rows.length })).journal (.repair ch [])
  else s.updChan ch (fun c => { c with st := .failed })

/-- A repair reset (R196): the partition passes through OFFLINE, and the channels with queued rows are repaired. -/
def State.repairReset (s : State) (p : Nat) (f : RepairFinds) (retest : Bool) : State :=
  let chs := s.rowsQueued p
  if (s.part p).st ≠ .free ∨ chs.isEmpty then s
  else
    let s := s.takeOffline p 0x0201 0 false
    (s.each chs (fun s ch => s.repairChan ch (bit f.unrepaired (ch % 8)))).bringBack p f.bad retest

def execRepairReset (p : PartId) (finds : RepairFinds) (retest : Bool) (s : State) : Host.Outcome State Fault Refusal :=
  .next (s.repairReset p.val finds retest)

/-- The bytes of a golden copy (R154): GOLDEN 1 FAR, 2 HOST through the port of the composition's store (assumption 23). -/
def State.golden (s : State) (c : Nat) (w : WSet) : Option (List Byte) :=
  s.storeBytes (if w.golden = 2 then 0 else 1) (s.comp c).storePort w.addr w.len
/-- The golden copy of a set is read. -/
def State.readGolden (s : State) (c : Nat) (w : WSet) : State :=
  s.countRead (if w.golden = 2 then 0 else 1) (s.comp c).storePort w.addr w.len

/-- One attempt to reload a poisoned set (R197 steps 3 to 5): every sector is written as the bytes of the golden copy are hashed, and the set
is whole again when the digest matches. -/
def State.reload (s : State) (c w : Nat) : State :=
  let x := Map.get {} (s.comp c).weights w
  let r : Bool × State := match s.golden c x, s.sharedSlot c with
    | some bs, some k => (decide (Config.sha384 bs = x.digest), (s.readGolden c x).writeSet c w k bs)
    | _, _ => (false, s)
  let s := r.2
  if r.1 then
    (s.updComp c (fun k => { k with weights := Map.upd {} w (fun v => { v with poisoned := false, fails := 0 }) k.weights })).eventAll
      c 0 w
  else
    let s := s.updComp c (fun k => { k with weights := Map.upd {} w (fun v => { v with fails := sat 3 (v.fails + 1) }) k.weights })
    if x.fails = 2 then (s.emit (.operator 0x0619 w)).eventAll c 0x0619 w else s

/-- A set is reloaded once its composition is repaired: no attempt is made while a member of it is lost (Table 8.17). -/
def State.mayReload (s : State) (c w : Nat) : Bool :=
  (Map.get {} (s.comp c).weights w).poisoned && decide ((s.comp c).st ≠ .impaired)

def execWeightReloadDone (c : CidT) (w : Nat) (s : State) : Host.Outcome State Fault Refusal :=
  .next (if s.mayReload c.val w ∧ (Map.get {} (s.comp c.val).weights w).fails < 3 then s.reload c.val w else s)

def execWeightReloadRetry (c : CidT) (w : Nat) (s : State) : Host.Outcome State Fault Refusal :=
  .next (if s.mayReload c.val w ∧ 3 ≤ (Map.get {} (s.comp c.val).weights w).fails then s.reload c.val w else s)

/-- Grade G4 fences the partition: it is reset with CAUSE 8 and stays OFFLINE (R200). -/
def State.fenceHot (s : State) (p : Nat) : State :=
  if (s.part p).holds.contains .thermal then s
  else
    let s := (s.updPart p (fun x => x.addHold .thermal)).partStep p 0x0206 8 s.now 0 false
    s.each (List.range 8) (fun s k => s.updChan (8 * p + k) (fun c => if c.st = .failed then c else { c with st := .fenced }))

/-- Since when a package has reported G1 or cooler, in ns plus one; 0 while it has not since its partition was fenced (R200 step 4). -/
def State.coolFrom (s : State) (pkg grade : Nat) : Nat :=
  if 1 < grade then 0 else if Map.get 0 s.cool pkg = 0 then s.now + 1 else Map.get 0 s.cool pkg

/-- Every package of a partition has reported G1 or cooler for 1 s. -/
def State.coolEnough (s : State) (p : Nat) : Bool :=
  [2 * p, 2 * p + 1].all (fun k => decide (Map.get 0 s.cool k ≠ 0 ∧ Map.get 0 s.cool k + 1000000000 ≤ s.now + 1))

def execMr4Poll (pkg : Fin 128) (grade : Fin 5) (s : State) : Host.Outcome State Fault Refusal :=
  let s := { s with grades := Map.set 0 pkg.val grade.val s.grades, cool := Map.set 0 pkg.val (s.coolFrom pkg.val grade.val) s.cool }
  .next (if grade.val = 4 then s.fenceHot (pkg.val / 2) else s)

def execThermalRejoin (p : PartId) (bad : BitVec 8) (s : State) : Host.Outcome State Fault Refusal :=
  .next (if (s.part p.val).holds.contains .thermal ∧ s.coolEnough p.val = true then
      (s.updPart p.val (fun x => x.dropHold .thermal)).bringBack p.val bad false
    else s)

/-- The oldest waiting request that has not aged (R204 item 3). -/
def execRequestAgePromote (p : PartId) (ch : Fin 8) (s : State) : Host.Outcome State Fault Refusal :=
  .next (s.updChan (8 * p.val + ch.val) (fun c =>
    { c with waiting := updFirst (fun r => !r.aged) (fun r => { r with aged := true }) c.waiting }))

def execKeyCacheFill (cache : Fin 132) (slot : Fin 4096) (s : State) : Host.Outcome State Fault Refusal :=
  .next (if (s.kslot slot.val).hold = .free then s
    else
      let s := s.cacheKey cache.val (4096 + slot.val)
      if cache.val < 128 then
        s.each (List.range 4) (fun s j => s.serveWaiting (4 * cache.val + j) slot.val)
      else s)

/-- A partition whose reset is in progress discards writes to its registers (R10). -/
def State.partInReset (s : State) (p : Nat) : Bool := (s.stepOn .partition p).isSome || (s.stepOn .module 0).isSome

/-- A write to MEMC_BUDGET: a field of 0 or above 64 keeps its value (R213). -/
def State.budgetWrite (s : State) (p ch : Nat) (value : Word64) : State :=
  if s.partInReset p then s
  else s.updChan (8 * p + ch) (fun c =>
    { c with budget := c.budget.zipIdx.map (fun (e : Nat × Nat) =>
        let v := bits value (8 * e.2 + 7) (8 * e.2)
        if v = 0 ∨ 64 < v then e.1 else v) })

def execMemcBudgetWrite (p : PartId) (ch : Fin 8) (value : Word64) (s : State) : Host.Outcome State Fault Refusal :=
  .next (s.budgetWrite p.val ch.val value)

end Sys2Proof.Machine
end

