-- ==== Sys2Proof/Machine/Float.lean ====
section
/-!
DEFINITION. Numbers of the arithmetic units: exact values, the encodings of Table 2.3, and rounding (R35, R42, R48).
Every operation is exact on `Val` and is narrowed once, explicitly, by `roundTo`.
-/

namespace Sys2Proof.Machine

/-- An exact value: NaN, an infinity, or ± m × 2^e; m = 0 is a signed zero. -/
inductive Val
  | nan
  | inf (neg : Bool)
  | num (neg : Bool) (m : Nat) (e : Int)
  deriving DecidableEq, Repr

/-- A floating-point encoding: exponent bits, mantissa bits, bias, the largest finite code, and what the top of the
code space holds (R35, Table 2.3). -/
structure Fmt where
  eb : Nat
  mb : Nat
  bias : Int
  maxCode : Nat
  /-- IEEE 754 style: the top exponent holds infinities and NaNs. -/
  ieee : Bool
  /-- The one code above the largest finite is a NaN (E4M3). -/
  topNan : Bool
  deriving DecidableEq, Repr

def fF32 : Fmt := ⟨8, 23, 127, 0x7F7FFFFF, true, false⟩
def fBF16 : Fmt := ⟨8, 7, 127, 0x7F7F, true, false⟩
def fFP16 : Fmt := ⟨5, 10, 15, 0x7BFF, true, false⟩
def fE5M2 : Fmt := ⟨5, 2, 15, 0x7B, true, false⟩
def fE4M3 : Fmt := ⟨4, 3, 7, 0x7E, false, true⟩
def fE2M1 : Fmt := ⟨2, 1, 1, 0x7, false, false⟩
def fE2M3 : Fmt := ⟨2, 3, 1, 0x1F, false, false⟩
def fE3M2 : Fmt := ⟨3, 2, 3, 0x1F, false, false⟩

/-- Bits of one element. -/
def Fmt.width (f : Fmt) : Nat := 1 + f.eb + f.mb

/-- The value an element's bits denote (R35). -/
def Fmt.decode (f : Fmt) (v : Nat) : Val :=
  let man := v % 2 ^ f.mb
  let ex := (v >>> f.mb) % 2 ^ f.eb
  let neg := v.testBit (f.eb + f.mb)
  if f.ieee ∧ ex = 2 ^ f.eb - 1 then (if man = 0 then .inf neg else .nan)
  else if f.topNan ∧ v % 2 ^ (f.eb + f.mb) = f.maxCode + 1 then .nan
  else if ex = 0 then .num neg man (1 - f.bias - f.mb)
  else .num neg (2 ^ f.mb + man) ((ex : Int) - f.bias - f.mb)

/-- The code of +infinity. -/
def Fmt.infCode (f : Fmt) : Nat := f.maxCode + 1

/-- The canonical NaN (R42, R48, R78): the top quiet bit of an IEEE style format, 0x7F of E4M3 and of E5M2. -/
def Fmt.nanCode (f : Fmt) : Nat :=
  if f.topNan then f.maxCode + 1
  else if f.eb = 5 ∧ f.mb = 2 then 0x7F
  else f.infCode + 2 ^ (f.mb - 1)

/-- A code with its sign. -/
def Fmt.withSign (f : Fmt) (neg : Bool) (code : Nat) : Nat := if neg then code + 2 ^ (f.eb + f.mb) else code

/-- m × 2^e with the exponent lowered or raised to q, rounded to an integer: to nearest with ties to even, or toward
zero when `rz`. -/
def roundShift (rz : Bool) (m : Nat) (e q : Int) : Nat :=
  if q ≤ e then m <<< (e - q).toNat
  else
    let d := (q - e).toNat
    let n := m >>> d
    let r := m % 2 ^ d
    let half := 2 ^ (d - 1)
    if rz then n
    else if half < r ∨ (r = half ∧ n % 2 = 1) then n + 1 else n

/-- The magnitude code of m × 2^e in an encoding as if its exponent had no upper end, with one rounding (R48). -/
def Fmt.magCode (f : Fmt) (rz : Bool) (m : Nat) (e : Int) : Nat :=
  if m = 0 then 0
  else
    let top : Int := (Nat.log2 m : Int) + e
    let qmin : Int := 1 - f.bias - f.mb
    let q := max (top - f.mb) qmin
    let n := roundShift rz m e q
    if n < 2 ^ f.mb then n else ((q - qmin + 1).toNat <<< f.mb) + (n - 2 ^ f.mb)

/-- What rounding a finite value gives: its code, and whether it passed the largest finite value or became zero. -/
structure Rounded where
  code : Nat
  ovf : Bool
  under : Bool
  deriving DecidableEq, Repr

/-- One rounding of a finite value into a format. A value that this rounding brings to the largest finite one has not overflowed: R48 leaves open
which side of the rounding it means (assumption 152). -/
def Fmt.round (f : Fmt) (rz : Bool) (m : Nat) (e : Int) : Rounded :=
  let c := f.magCode rz m e
  ⟨c, decide (f.maxCode < c), decide (c = 0 ∧ m ≠ 0)⟩

/-- A value narrowed to an IEEE style format, to nearest with ties to even (R42): an overflow is an infinity, a NaN is
the canonical one. The flag says that a finite value overflowed. -/
def Fmt.narrow (f : Fmt) (v : Val) : Nat × Bool :=
  match v with
  | .nan => (f.nanCode, false)
  | .inf neg => (f.withSign neg f.infCode, false)
  | .num neg m e =>
    let r := f.round false m e
    if r.ovf then (f.withSign neg f.infCode, true) else (f.withSign neg r.code, false)

/-- Binary32 to an exact value. -/
def f32 (w : Word32) : Val := fF32.decode w.toNat

/-- RNE32: an exact value rounded once to binary32. -/
def rne32 (v : Val) : Word32 := BitVec.ofNat 32 (fF32.narrow v).1

def Val.isNan (v : Val) : Bool := match v with | .nan => true | _ => false
def Val.isInf (v : Val) : Bool := match v with | .inf _ => true | _ => false
/-- NaN or infinity: what NI reports when consumed (Table 2.5). -/
def Val.special (v : Val) : Bool := v.isNan || v.isInf
def Val.isZero (v : Val) : Bool := match v with | .num _ 0 _ => true | _ => false
def Val.neg (v : Val) : Val :=
  match v with | .nan => .nan | .inf n => .inf (!n) | .num n m e => .num (!n) m e

/-- The value + 0. -/
def Val.zero : Val := .num false 0 0
/-- The value 1. -/
def Val.one : Val := .num false 1 0

/-- The signed integer of a magnitude. -/
def sgn (neg : Bool) (m : Nat) : Int := if neg then -(m : Int) else m

/-- Exact sum. Two zeros of one sign keep it; any other exact zero is +0 (round to nearest). -/
def Val.add (a b : Val) : Val :=
  match a, b with
  | .nan, _ => .nan
  | _, .nan => .nan
  | .inf x, .inf y => if x = y then .inf x else .nan
  | .inf x, _ => .inf x
  | _, .inf y => .inf y
  | .num x m e, .num y n k =>
    let q := min e k
    let s := sgn x (m <<< (e - q).toNat) + sgn y (n <<< (k - q).toNat)
    if s = 0 then .num (x && y && decide (m = 0 ∧ n = 0)) 0 q else .num (decide (s < 0)) s.natAbs q

/-- Exact product. -/
def Val.mul (a b : Val) : Val :=
  match a, b with
  | .nan, _ => .nan
  | _, .nan => .nan
  | .inf x, .inf y => .inf (x != y)
  | .inf x, .num y n _ => if n = 0 then .nan else .inf (x != y)
  | .num x m _, .inf y => if m = 0 then .nan else .inf (x != y)
  | .num x m e, .num y n k => .num (x != y) (m * n) (e + k)

/-- The value times 2^k, exactly. -/
def Val.scale (v : Val) (k : Int) : Val :=
  match v with | .num n m e => .num n m (e + k) | v => v

/-- Whether a < b as real numbers and infinities; false for a NaN; the two zeros are equal. -/
def Val.lt (a b : Val) : Bool :=
  match a, b with
  | .nan, _ => false
  | _, .nan => false
  | .inf x, .inf y => x && !y
  | .inf x, .num .. => x
  | .num .., .inf y => !y
  | .num x m e, .num y n k =>
    let q := min e k
    decide (sgn x (m <<< (e - q).toNat) < sgn y (n <<< (k - q).toNat))

/-- The order in which +0 counts as larger than −0 (R65 clamp, R125). -/
def Val.ltZ (a b : Val) : Bool :=
  a.lt b || (a.isZero && b.isZero &&
    (match a, b with | .num x _ _, .num y _ _ => x && !y | _, _ => false))

def Val.maxZ (a b : Val) : Val := if a.isNan ∨ b.isNan then .nan else if a.ltZ b then b else a
def Val.minZ (a b : Val) : Val := if a.isNan ∨ b.isNan then .nan else if b.ltZ a then b else a

/-- The magnitude. -/
def Val.abs (v : Val) : Val := match v with | .nan => .nan | .inf _ => .inf false | .num _ m e => .num false m e

/-- An E8M0 block scale (R36): the exponent, or none for the NaN code 0xFF. -/
def e8m0 (b : Byte) : Option Int := if b = 0xFF then none else some ((b.toNat : Int) - 127)

/-- Floor of log2 of the magnitude of a non-zero finite value. -/
def floorLog2 (m : Nat) (e : Int) : Int := (Nat.log2 m : Int) + e

end Sys2Proof.Machine
end

