-- ==== Sys2Proof/Machine/Transcend.lean ====
section
/-!
DEFINITION. The exact functions behind the special functions of R81 and the activations of R65, in fixed point with 400 fraction bits, and
the choice of a result within a stated number of units in the last place (assumption 167).
-/

namespace Sys2Proof.Machine

/-- A fixed-point number of 2^-400. Every finite binary32 value is one exactly. -/
abbrev Fx := Int

/-- The fixed-point number of ± m × 2^e. -/
def fxOf (neg : Bool) (m : Nat) (e : Int) : Fx :=
  sgn neg (if -400 ≤ e then m <<< (e + 400).toNat else m >>> (-400 - e).toNat)
/-- The fixed-point number of a finite binary32 word. -/
def fx32 (w : Word32) : Fx := match f32 w with | .num neg m e => fxOf neg m e | _ => 0
def fxOne : Fx := 2 ^ 400
def fxMul (a b : Fx) : Fx := (a * b) / 2 ^ 400
def fxDiv (a b : Fx) : Fx := (a * 2 ^ 400) / b
/-- A decimal fraction n / d. -/
def fxFrac (n d : Int) : Fx := (n * 2 ^ 400) / d
/-- The number held between −2^10 and 2^10. -/
def fxClamp (y : Fx) : Fx := max (-(2 ^ 410)) (min (2 ^ 410) y)

/-- ln 2, the sum of 1 / (k 2^k). -/
def fxLn2 : Fx := (List.range 420).foldl (fun a k => a + 2 ^ 420 / ((k + 1) * 2 ^ (k + 1) : Nat)) 0 / 2 ^ 20

/-- e^y for y held to 2^10 in magnitude: the series on the remainder by ln 2, then a shift. -/
def fxExp (y : Fx) : Fx :=
  let y := fxClamp y
  let n := y / fxLn2
  let r := y - n * fxLn2
  let s := (List.range 120).foldl (fun (a : Fx × Fx) k => (a.1 + a.2, fxMul a.2 r / (k + 1))) (0, fxOne)
  if 0 ≤ n then s.1 * 2 ^ n.toNat else s.1 / 2 ^ (-n).toNat

/-- 2^y. -/
def fxExp2 (y : Fx) : Fx := fxExp (fxMul (fxClamp y) fxLn2)

/-- log2 of m × 2^e with m > 0: the exponent, and the series of the inverse hyperbolic tangent on the mantissa. -/
def fxLog2 (m : Nat) (e : Int) : Fx :=
  let k := Nat.log2 m
  let x : Fx := fxOf false m (-(k : Int))
  let z := fxDiv (x - fxOne) (x + fxOne)
  let z2 := fxMul z z
  let s := (List.range 140).foldl (fun (a : Fx × Fx) i => (a.1 + a.2 / (2 * i + 1), fxMul a.2 z2)) (0, z)
  fxDiv (2 * s.1) fxLn2 + ((k : Int) + e) * fxOne

/-- The integer square root, by bits from 2^b down. -/
def isqrt (n b : Nat) : Nat :=
  (List.range (b + 1)).foldl (fun r i => let t := r + 2 ^ (b - i); if t * t ≤ n then t else r) 0

/-- 1 / √x for x > 0. -/
def fxRsq (x : Fx) : Fx := isqrt (2 ^ 1200 / x.toNat) 600
/-- 1 / (1 + e^−y). -/
def fxSig (y : Fx) : Fx := fxDiv fxOne (fxOne + fxExp (-y))
/-- tanh y. -/
def fxTanh (y : Fx) : Fx := fxOne - fxDiv (2 * fxOne) (fxOne + fxExp (2 * fxClamp y))
/-- y / (1 + e^−y). -/
def fxSilu (y : Fx) : Fx := fxDiv y (fxOne + fxExp (-y))
/-- 0.5 y (1 + tanh z) = y / (1 + e^(−2 z)), where z = 0.79788456 (y + 0.044715 y³) (Table 3.6). -/
def fxGelu (y : Fx) : Fx :=
  let z := fxMul (fxFrac 79788456 100000000) (y + fxMul (fxFrac 44715 1000000) (fxMul y (fxMul y y)))
  fxDiv y (fxOne + fxExp (-(2 * fxClamp z)))

/-- One unit in the last place of binary32 at v. -/
def fxUlp (v : Fx) : Fx := 2 ^ (max (Nat.log2 v.natAbs - 23) 251)

/-- Whether a binary32 word lies within b units in the last place of v, with v's sign. -/
def ulpOk (b : Nat) (v : Fx) (w : Word32) : Bool :=
  match f32 w with
  | .num neg m e => neg == decide (v < 0) && decide ((fxOf neg m e - v).natAbs ≤ b * (fxUlp v).natAbs)
  | _ => false

/-- A result of exact value v that the spec bounds to b units in the last place: the free value where it keeps the bound, else v
rounded to nearest. -/
def ulpPick (b : Nat) (v : Fx) (free : Word32) : Word32 :=
  if ulpOk b v free then free else rne32 (.num (decide (v < 0)) v.natAbs (-400))

/-- The picked result keeps the bound wherever rounding to nearest does. -/
theorem ulpPick_ok (b : Nat) (v : Fx) (free : Word32)
    (h : ulpOk b v (rne32 (.num (decide (v < 0)) v.natAbs (-400))) = true) : ulpOk b v (ulpPick b v free) = true := by
  unfold ulpPick
  split <;> assumption

end Sys2Proof.Machine
end

