-- ==== Sys2Proof/Machine/Flags.lean ====
section
/-!
DEFINITION. The arithmetic flags byte (R44, Table 2.5) and the operations that set it.
-/

namespace Sys2Proof.Machine

def flMDI : Byte := 0x20
def flNI : Byte := 0x10
def flNV : Byte := 0x08
def flOF : Byte := 0x04
def flSAT : Byte := 0x02
def flUF : Byte := 0x01

/-- `f` when `b`, no flag otherwise. -/
def flagIf (b : Bool) (f : Byte) : Byte := if b then f else 0

/-- NV: a NaN was produced from operands that held no NaN. -/
def nvOf (ops : List Val) (r : Val) : Byte := flagIf (r.isNan && ops.all (fun v => !v.isNan)) flNV

/-- NI: an operand that is NaN or infinite was consumed. -/
def niOf (ops : List Val) : Byte := flagIf (ops.any Val.special) flNI

/-- An exact result of the operands `ops` rounded once to an IEEE style format (R42, R47): OF when finite operands
overflowed, NV when a NaN was produced from none. -/
def arith (f : Fmt) (ops : List Val) (r : Val) : Nat × Byte :=
  let n := f.narrow r
  (n.1, nvOf ops r ||| flagIf (n.2 && ops.all (fun v => !v.special)) flOF)

/-- `arith` in binary32. -/
def arith32 (ops : List Val) (r : Val) : Word32 × Byte :=
  let n := arith fF32 ops r
  (BitVec.ofNat 32 n.1, n.2)

/-- An accumulator addition with one rounding (R40 step 4, R41). -/
def accAdd (c : Word32) (x : Val) : Word32 × Byte := arith32 [f32 c, x] ((f32 c).add x)

/-- The flags an arithmetic of a vector tile gathers (R78): NI for its inputs, and those of the result. -/
def vflags (ops : List Val) (fl : Byte) : Byte := niOf ops ||| fl

end Sys2Proof.Machine
end

