-- ==== Sys2Proof/Machine/Operands.lean ====
section
/-!
DEFINITION. Operand forms of the matrix engine: format codes (R34), packed elements and block scales in a scratchpad
(R36-R38, R45, R64), the contribution of a group (R40, R43, R45, R46), and the output conversion (R47-R50).
-/

namespace Sys2Proof.Machine

/-- The element encoding of a format code of Table 2.2; INT8 (0xA) has none. -/
def fmtOf (code : Nat) : Fmt :=
  match code with
  | 0 => fF32 | 1 => fBF16 | 2 => fFP16 | 3 => fE4M3 | 4 => fE5M2 | 5 => fE4M3 | 6 => fE5M2
  | 7 => fE2M3 | 8 => fE3M2 | _ => fE2M1

/-- Bits of one element of a format code. -/
def fmtBits (code : Nat) : Nat :=
  match code with
  | 0 => 32 | 1 => 16 | 2 => 16 | 7 => 6 | 8 => 6 | 9 => 4 | _ => 8

/-- The MX formats: those with a block scale (Table 2.2). -/
def isMX (code : Nat) : Bool := decide (5 ≤ code ∧ code ≤ 10)
/-- The 8-bit group of R33: plain FP8 and the MX formats. -/
def in8Group (code : Nat) : Bool := decide (3 ≤ code ∧ code ≤ 10)
/-- Plain FP8: the operands a per-tensor scale applies to. -/
def isPlainFp8 (code : Nat) : Bool := decide (code = 3 ∨ code = 4)

/-- The value of an element (R35, R37). -/
def elemVal (code v : Nat) : Val :=
  if code = 10 then
    let n := signed 8 v
    .num (decide (n < 0)) n.natAbs (-6)
  else (fmtOf code).decode v

/-- Bytes that `n` packed elements take (R38). -/
def rowBytes (code n : Nat) : Nat := ceilDiv (n * fmtBits code) 8

/-- The bits of element `k` of a packed row that starts at byte `a` (R38). -/
def elemAt (m : Bytes) (a code k : Nat) : Nat :=
  let w := fmtBits code
  let b := k * w
  (m.rdLE (a + b / 8) ((b % 8 + w + 7) / 8) >>> (b % 8)) % 2 ^ w

/-- The pairing rule R33 for two format codes; FP32 is no input (R69 FORMAT). -/
def pairOk (a b : Nat) : Bool := (in8Group a && in8Group b) || (a = 1 && b = 1) || (a = 2 && b = 2)

/-- The exact sum of the products of one group or one product, with the flags of its special inputs (R40, R43). -/
def sumProducts (ps : List (Val × Val)) : Val × Byte :=
  let prods := ps.map (fun p => (p.1.mul p.2, p.1, p.2))
  let fl := prods.foldl (fun f t => f ||| niOf [t.2.1, t.2.2] ||| nvOf [t.2.1, t.2.2] t.1) 0
  let s := prods.foldl (fun acc t => acc.add t.1) Val.zero
  let terms := prods.map (fun t => t.1)
  (s, fl ||| nvOf terms s)

/-- A group's contribution: the sum times both block scales, +0 when the sum is zero (R40); a 0xFF scale makes it NaN and
sets NI (Table 2.4). A group of which no product is formed contributes +0 whatever its scales. What sets NV in its
products and their sum sets it beside NI under such a scale too (assumption 153). -/
def groupTerm (ps : List (Val × Val)) (sa sb : Option Int) : Val × Byte :=
  if ps.isEmpty then (Val.zero, 0)
  else
    let s := sumProducts ps
    match sa, sb with
    | some x, some y => (if s.1.isZero then Val.zero else s.1.scale (x + y), s.2)
    | _, _ => (.nan, s.2 ||| flNI)

/-- A nibble of R45 that names two positions in rising order. -/
def nibbleOk (n : Nat) : Bool := decide (n % 4 < n / 4 % 4)

/-- An MMA as its fields give it (R64, Table 3.4). -/
structure MmaArgs where
  k : Nat
  slot : Nat
  fa : Nat
  fb : Nat
  sparse : Bool
  zero : Bool
  aBase : Nat
  aStride : Nat
  bBase : Nat
  bStride : Nat
  aScale : Nat
  aSStride : Nat
  bScale : Nat
  bSStride : Nat
  metaB : Nat
  metaStride : Nat
  deriving DecidableEq, Repr

/-- The products a cell forms for k-steps lo to lo + n − 1, and the MDI flag (R40, R45, R46). -/
def cellProducts (m : Bytes) (a : MmaArgs) (i j lo n : Nat) : List (Val × Val) × Byte :=
  let av (k : Nat) : Val := elemVal a.fa (elemAt m (a.aBase + i * a.aStride) a.fa k)
  let bAt (k : Nat) : Val := elemVal a.fb (elemAt m (a.bBase + j * a.bStride) a.fb k)
  if a.sparse then
    (List.range (n / 4)).foldl (fun acc q =>
      let r := lo / 4 + q
      let nib := nbits (m.rdLE (a.metaB + j * a.metaStride + 4 * (r / 8)) 4) (4 * (r % 8) + 3) (4 * (r % 8))
      if nibbleOk nib then
        (acc.1 ++ [(av (4 * r + nib % 4), bAt (2 * r)), (av (4 * r + nib / 4 % 4), bAt (2 * r + 1))], acc.2)
      else (acc.1, acc.2 ||| flMDI)) ([], 0)
  else ((List.range n).map (fun x => (av (lo + x), bAt (lo + x))), 0)

/-- One cell's accumulator after k-steps lo to hi − 1 of a pass; `lo` is a multiple of 32 (R40, R41, R71). -/
def cellRun (m : Bytes) (a : MmaArgs) (i j lo hi : Nat) (c : Word32) : Word32 × Byte :=
  if in8Group a.fa then
    (List.range (ceilDiv (hi - lo) 32)).foldl (fun acc g =>
      let k0 := lo + 32 * g
      let n := min 32 (hi - k0)
      let ps := cellProducts m a i j k0 n
      let sa := if isMX a.fa then e8m0 (m.rd (a.aScale + i * a.aSStride + k0 / 32)) else some 0
      let sb := if isMX a.fb then e8m0 (m.rd (a.bScale + j * a.bSStride + k0 / 32)) else some 0
      let t := groupTerm ps.1 sa sb
      let r := accAdd acc.1 t.1
      (r.1, acc.2 ||| ps.2 ||| t.2 ||| r.2)) (c, 0)
  else
    (List.range (hi - lo)).foldl (fun acc x =>
      let ps := cellProducts m a i j (lo + x) 1
      let t := sumProductsKeep ps.1
      let r := accAdd acc.1 t.1
      (r.1, acc.2 ||| t.2 ||| r.2)) (c, 0)
where
  /-- One exact product, its zero's sign kept (R41). -/
  sumProductsKeep (ps : List (Val × Val)) : Val × Byte :=
    match ps with
    | [p] => (p.1.mul p.2, niOf [p.1, p.2] ||| nvOf [p.1, p.2] (p.1.mul p.2))
    | _ => (Val.zero, 0)

/-- Rounding and overflow modes of an output conversion (R48). -/
structure OutMode where
  rz : Bool
  ieee : Bool
  deriving DecidableEq, Repr

/-- Conversion of one binary32 value to an element of a format that is not in an MX block (R47 step 5, R48). -/
def convElem (code : Nat) (md : OutMode) (w : Word32) : Nat × Byte :=
  if code = 0 then (w.toNat, 0)
  else
    let f := fmtOf code
    match f32 w with
    | .nan => (f.nanCode, 0)
    | .inf neg =>
      if !md.ieee then (f.withSign neg f.maxCode, flSAT)
      else if f.topNan then (f.withSign neg f.nanCode, flSAT)
      else (f.withSign neg f.infCode, 0)
    | .num neg m e =>
      let r := f.round md.rz m e
      if r.ovf then
        (f.withSign neg (if !md.ieee then f.maxCode
          else if f.topNan then f.nanCode
          else if md.rz then f.maxCode else f.infCode), flSAT)
      else (f.withSign neg r.code, flagIf r.under flUF)

/-- emax of R49. -/
def emaxOf (code : Nat) : Int :=
  match code with | 5 => 8 | 6 => 15 | 7 => 2 | 8 => 4 | 9 => 2 | _ => 0

/-- Whether m × 2^e is above the largest finite magnitude of an MX element format (R35, R37). -/
def aboveMax (code m : Nat) (e : Int) : Bool :=
  let mx : Val := if code = 10 then .num false 127 (-6) else (fmtOf code).decode (fmtOf code).maxCode
  mx.lt (.num false m e)

/-- The block scale of R49. -/
def blockScale (code : Nat) (fit : Bool) (vs : List Word32) : Nat :=
  let xs := vs.map f32
  if xs.any Val.special then 0xFF
  else
    match xs.foldl (fun acc x => acc.maxZ x.abs) Val.zero with
    | .num _ m e =>
      if m = 0 then 0x7F
      else
        let x := floorLog2 m e - emaxOf code
        let x := if fit && aboveMax code m (e - x) then x + 1 else x
        (max (-127) (min 127 x) + 127).toNat
    | _ => 0xFF

/-- One element of an MX block under its scale (R48, R49); IEEE mode of E4M3 and E5M2 applies to elements too. -/
def mxElem (code : Nat) (md : OutMode) (scale : Nat) (w : Word32) : Nat × Byte :=
  match f32 w with
  | .num neg m e =>
    let e' := e - ((scale : Int) - 127)
    if code = 10 then
      let n := roundShift md.rz m e' (-6)
      let n' := min n 127
      ((BitVec.ofInt 8 (sgn neg n')).toNat, flagIf (decide (127 < n)) flSAT ||| flagIf (decide (n = 0 ∧ m ≠ 0)) flUF)
    else
      let f := fmtOf code
      let r := f.round md.rz m e'
      if r.ovf then
        (f.withSign neg (if !md.ieee then f.maxCode
          else if f.topNan then f.nanCode
          else if f.ieee then (if md.rz then f.maxCode else f.infCode) else f.maxCode), flSAT)
      else (f.withSign neg r.code, flagIf r.under flUF)
  | _ => (0, 0)

/-- One MX block: its scale, its elements and the flags (R49). A block of scale 0xFF has zero elements and sets SAT; one of zeros only has the
elements +0. -/
def mxBlock (code : Nat) (md : OutMode) (fit : Bool) (vs : List Word32) : Nat × List Nat × Byte :=
  let sc := blockScale code fit vs
  if sc = 0xFF then (sc, vs.map (fun _ => 0), flSAT)
  else if vs.all (fun w => (f32 w).isZero) then (sc, vs.map (fun _ => 0), 0)
  else
    let es := vs.map (mxElem code md sc)
    (sc, es.map (fun e => e.1), es.foldl (fun f e => f ||| e.2) 0)

/-- Packs elements of `w` bits as R38 states, into bytes. -/
def packElems (w : Nat) (es : List Nat) : List Byte :=
  leBytes (unchunk w es) (ceilDiv (es.length * w) 8)

/-- The fused epilogue step 2, the activation (R65, Table 3.6). GELU and SiLU of a finite operand lie within 4 units in the last place of
the exact function (assumption 167). -/
def actApply (act : Nat) (clo chi y : Word32) : Word32 :=
  let v := f32 y
  if v.isNan then 0x7FC00000
  else match act with
    | 1 => if Val.zero.lt v then y else 0
    | 2 => if v.isInf then (if Val.zero.lt v then 0x7F800000 else 0x80000000)
           else if v.isZero then y else ulpPick 4 (fxGelu (fx32 y)) (Config.actFn 2 y)
    | 3 => if v.isInf then (if Val.zero.lt v then 0x7F800000 else 0x80000000)
           else if v.isZero then y else ulpPick 4 (fxSilu (fx32 y)) (Config.actFn 3 y)
    | 4 =>
      let lo := f32 clo
      let hi := f32 chi
      let y1 := if lo.isNan then y else if v.ltZ lo then clo else y
      if hi.isNan then y1 else if hi.ltZ (f32 y1) then chi else y1
    | _ => y

/-- amax of R50 over the y of step 3: the largest magnitude, the canonical NaN when any y is NaN. -/
def amaxStep (a y : Word32) : Word32 :=
  let v := (f32 a).maxZ (f32 y).abs
  rne32 v

end Sys2Proof.Machine
end

