-- ==== Sys2Proof/Machine/Xfer.lean ====
section
/-!
DEFINITION. Transfers of the DMA unit of an engine and of the XDMA and KDMA paths: their rows and range atomics, and how a row ends
(R66, R67, R80, R89, R224-R226).
-/

namespace Sys2Proof.Machine

/-- A transfer: OP of R66, its rows, and its addresses and strides. -/
structure XDesc where
  op : Nat
  rows : Nat
  va : Nat
  vaStride : Nat
  sp : Nat
  spStride : Nat
  rowBytes : Nat
  deriving DecidableEq, Repr

/-- The transfer of a DMA command (Table 3.7). -/
def dmaDesc (c : Cmd) : XDesc :=
  { op := bits c 18 16, rows := bits c 47 32 + 1, va := bits c 127 64, sp := bits c 150 128, spStride := bits c 182 160,
    vaStride := bits c 255 192, rowBytes := bits c 279 256 }

/-- The transfer of an XDMA or KDMA descriptor: words W1 to W4 of a DMA (R80, assumption 19). -/
def xferDesc (d : BitVec 256) : XDesc :=
  { op := if Config.xferWrite d then 1 else 0, rows := (Config.xferRowsM1 d).toNat + 1, va := bits d 63 0, sp := bits d 86 64,
    spStride := bits d 118 96, vaStride := bits d 191 128, rowBytes := bits d 215 192 }

/-- Master class of a unit's requests (R203). -/
def unitClass (u : Nat) : Nat := match ukind u with | .vt _ _ => 1 | _ => 0

/-- Element size of a range atomic (R66, R68). -/
def atomSize (op : Nat) : Nat := if op = 2 then 4 else 8

/-- One element of a range atomic: what memory receives, and the flags (R66, R67). -/
def atomElem (op old operand : Nat) : Nat × Byte :=
  match op with
  | 2 =>
    let a := f32 (BitVec.ofNat 32 old)
    let b := f32 (BitVec.ofNat 32 operand)
    let r := arith32 [a, b] (a.add b)
    (r.1.toNat, vflags [a, b] r.2)
  | 3 => ((old + operand) % 2 ^ 64, 0)
  | _ => (operand, 0)

/-- The part of a range atomic that falls in the sector at `a`: bytes lo to hi − 1 of it, whose operands lie in local memory from
`sp`. Answers the new sector and the flags. -/
def atomSector (op : Nat) (m : Bytes) (sp lo hi : Nat) (old : BitVec 512) : BitVec 512 × Byte :=
  let z := atomSize op
  let ob := lineBytes old
  (List.range ((hi - lo) / z)).foldl (fun (acc : BitVec 512 × Byte) i =>
    let at_ := lo + z * i
    let r := atomElem op (ofLE ((ob.drop at_).take z)) (m.rdLE (sp + z * i) z)
    let mask := BitVec.ofNat 512 ((2 ^ (8 * z) - 1) <<< (8 * at_))
    ((acc.1 &&& ~~~mask) ||| BitVec.ofNat 512 (r.1 <<< (8 * at_)), acc.2 ||| r.2)) (old, 0)

/-- A range atomic on [o, o + n) of a target: each sector is read, changed and written back, and local memory receives the old
values; a poisoned sector writes nothing and returns poison (R66, R194). Answers the state, the poison and the flags. -/
def State.atomRow (s : State) (u cid : Nat) (e : BitVec 256) (o n op sp cls : Nat) : State × Bool × Byte :=
  let first := o / 64
  (List.range ((o + n - 1) / 64 + 1 - first)).foldl (fun (acc : State × Bool × Byte) i =>
    let a := 64 * (first + i)
    let lo := if i = 0 then o % 64 else 0
    let hi := min 64 (o + n - a)
    let p := sp + (a + lo - o)
    let t := acc.1.rdTarget cid e a cls
    let r := atomSector op (acc.1.lmem u) p lo hi t.1
    let s1 := t.2.2.updLmem u (fun m => m.wrL p (((lineBytes t.1).drop lo).take (hi - lo)))
    if t.2.1 then (s1, true, acc.2.2)
    else (s1.wrTarget cid e a cls r.1, acc.2.1, acc.2.2 ||| r.2)) (s, false, 0)

/-- Frames of a PEER access (R224, R265, R278): requests of at most eight payload units, tagged with the unit. An ATOMIC frame
carries the count of its 4-byte words, modulo 16, in ARG bits 63:60 (assumption 39). -/
def State.peerFrames (s : State) (u cid : Nat) (e : BitVec 256) (o op : Nat) (bs : List Byte) (n : Nat) : List Frame :=
  let j := s.job cid
  let dst := nth 0 j.nodes (eAux e)
  (List.range (ceilDiv n 512)).map (fun i =>
    let k := min 512 (n - 512 * i)
    { Frame.zero with
      typ := if op = 0 then 1 else if op = 1 then 2 else 3, cls := 0, last := true, len := ceilDiv k 64,
      dst := dst, src := s.fab.node, srcMgen := s.fab.mgen, dstMgen := Map.get 0 j.mgens dst, fjob := j.fjob,
      sel := (s.ctx (s.unit u).xid).fctx - 1,
      arg := BitVec.ofNat 64 (o + 512 * i + (if 2 ≤ op then fld 57 op + fld 60 (k / 4 % 16) else 0)), tag := u,
      payload := if op = 0 then [] else (pieces 9 64 ((bs.drop (512 * i)).take k)).map bytesLine })

/-- How a row ends: it is done, the unit holds it, or it has faulted with a status. -/
inductive RowEnd | done | held | dead (st : Nat)
  deriving DecidableEq, Repr

/-- Whether the module writes nothing to the host memory of a context's client: its lease has lapsed (R311, assumption 225). -/
def State.hostMute (s : State) (x : Nat) (e : BitVec 256) : Bool :=
  decide (eKind e = 2 ∧ ((s.fn (s.ctx x).client).lease = .lapsed ∨ (s.fn (s.ctx x).client).lease = .quiesced))

/-- What a row does at a LOCAL, FAR or HOST range: o is the target address (R66, R224). Answers the flags of an atomic. -/
def State.rowDo (s : State) (u : Nat) (d : XDesc) (r : Nat) (e : BitVec 256) : Byte × State :=
  let va := (d.va + r * d.vaStride) % 2 ^ 64
  let sp := d.sp + r * d.spStride
  let n := d.rowBytes
  let x := (s.unit u).xid
  let cid := s.cidOf u
  let o := eTarget e + (va - eBase e)
  let s := if eKind e = 0 ∨ eKind e = 1 then s.tcAdd x 2 n else s
  match d.op with
  | 0 =>
    let t := s.rdRow cid e o n (unitClass u)
    let s := t.2.2.updLmem u (fun m => m.wrL sp t.1)
    (0, if t.2.1 then s.poisonWork u else s)
  | 1 => (0, if s.hostMute x e then s else (s.wrRow cid e o (unitClass u) ((s.lmem u).rdN sp n)).dlog x e o n)
  | _ =>
    let m := s.hmem (eAux e)
    let t := s.atomRow u cid e o n d.op sp (unitClass u)
    let s := if s.hostMute x e then t.1.updHmem (eAux e) (fun _ => m) else t.1.dlog x e o n
    (t.2.2, if t.2.1 then s.poisonWork u else s)

/-- A row is outstanding: the unit waits for its end, and the entry it went out under counts it (R223, R225). -/
def State.holdExt (s : State) (u : Nat) (w : ExtWait) : State :=
  s.updUnit u (fun k => { k with ext := some w, cache := match k.cache with | [] => [] | c :: l => { c with out := c.out + 1 } :: l })

/-- One row of a transfer of a unit (R224-R226). A far port answers in a later microsecond (assumption 188). Answers how it ended, the flags of an
atomic, and the state. -/
def State.xferRow (s : State) (u : Nat) (d : XDesc) (r : Nat) : RowEnd × Byte × State :=
  let va := (d.va + r * d.vaStride) % 2 ^ 64
  let n := d.rowBytes
  let acc := if d.op = 0 then 0 else if d.op = 1 then 1 else 2
  let x := (s.unit u).xid
  if n = 0 then (if 2 ^ 57 ≤ va then (.dead 0x0301, 0, s.xlFault u 0x0301 0xFFFF 0 va n acc) else (.done, 0, s))
  else match s.access u va n acc with
    | .fault st idx ep => (.dead st, 0, s.xlFault u st idx ep va n acc)
    | .miss => (.held, 0, s.updUnit u (fun k => { k with miss := some { xid := x, va := va, len := n, acc := acc } }))
    | .ok e =>
      let s := s.touch u va
      let o := eTarget e + (va - eBase e)
      if eKind e = 3 then
        let hit := s.cached u va
        if (s.ctx x).fctx = 0 then
          (.dead 0x0305, 0, s.xlFault u 0x0305 ((hit.map (fun k => k.idx)).getD 0xFFFF) ((hit.map (fun k => k.epoch)).getD 0) va n acc)
        else
          let cid := s.cidOf u
          let t := s.touchJob cid (s.workOn u) false
          if t.1 then
            let s := s.each (s.peerFrames u cid e o d.op ((s.lmem u).rdN (d.sp + r * d.spStride) n) n) (fun s f => s.sendFrame f)
            (.held, 0, s.holdExt u { peer := true, need := if d.op = 1 then ceilDiv n 512 else ceilDiv n 64 })
          else (.dead 0x0203, 0, t.2)
      else if eKind e = 2 ∧ !s.hostUp (eAux e) then (.held, 0, s.holdExt u { port := eAux e })
      else if eKind e = 1 then
        (.held, 0, (s.updFar (o >>> 41) (fun f => { f with sent := f.sent + 1 })).holdExt u { far := true, port := o >>> 41 })
      else (.done, s.rowDo u d r e)

/-- Rows `done` and on of a transfer, until its last, a row that is held, or a fault. Answers the rows done, the end and the
flags. -/
def State.xferRun (s : State) (u : Nat) (d : XDesc) (done fuel : Nat) (fl : Byte) : Nat × RowEnd × Byte × State :=
  match fuel with
  | 0 => (done, .done, fl, s)
  | k + 1 =>
    let t := s.xferRow u d done
    match t.1 with
    | .done => State.xferRun t.2.2 u d (done + 1) k (fl ||| t.2.1)
    | e => (done, e, fl ||| t.2.1, t.2.2)

end Sys2Proof.Machine
end

