-- ==== Sys2Proof/Machine/Cmds.lean ====
section
/-!
DEFINITION. Engine commands: their fields (R62-R66, Tables 3.2 to 3.7), the scratchpad bytes they read and write, and the bytes
two unordered commands both touch (R61).
-/

namespace Sys2Proof.Machine

/-- Bits hi:lo of word n of a command, as bit numbers of the whole command. -/
def wbits (n hi lo : Nat) : Nat × Nat := (64 * n + hi, 64 * n + lo)

/-- Common fields of W0 (Table 3.2). -/
def cTag (c : Cmd) : Nat := bits c 63 48
def cOp (c : Cmd) : Nat := bits c 7 0
def cEvent (c : Cmd) : Bool := bit c 8
def cCntEn (c : Cmd) : Bool := bit c 12
def cCnt (c : Cmd) : Nat := bits c 15 13

/-- The fields of an MMA (Table 3.4). -/
def mmaOf (c : Cmd) : MmaArgs :=
  { k := bits c 47 32 + 1, slot := bits c 30 26, fa := bits c 21 18, fb := bits c 25 22, sparse := bit c 17, zero := bit c 16,
    aBase := bits c 86 64, aStride := bits c 118 96, bBase := bits c 150 128, bStride := bits c 182 160,
    aScale := bits c 214 192, aSStride := bits c 246 224, bScale := bits c 278 256, bSStride := bits c 310 288,
    metaB := bits c 342 320, metaStride := bits c 374 352 }

/-- An EPI as its fields give it (Table 3.5). -/
structure EpiArgs where
  resFmt : Nat
  act : Nat
  slot : Nat
  fit : Bool
  md : OutMode
  fo : Nat
  stream : Bool
  resid : Bool
  bias : Bool
  release : Bool
  sa : Word32
  sb : Word32
  q : Word32
  out : Nat
  outStride : Nat
  os : Nat
  osStride : Nat
  biasBase : Nat
  resBase : Nat
  resStride : Nat
  clo : Word32
  chi : Word32
  deriving DecidableEq, Repr

/-- The fields of an EPI. -/
def epiOf (c : Cmd) : EpiArgs :=
  { resFmt := bits c 38 35, act := bits c 34 32, slot := bits c 31 27, fit := bit c 26, md := { rz := bit c 24, ieee := bit c 25 },
    fo := bits c 23 20, stream := bit c 19, resid := bit c 18, bias := bit c 17, release := bit c 16,
    sa := c.extractLsb' 64 32, sb := c.extractLsb' 96 32, q := c.extractLsb' 128 32,
    out := bits c 214 192, outStride := bits c 246 224, os := bits c 278 256, osStride := bits c 310 288,
    biasBase := bits c 342 320, resBase := bits c 374 352, resStride := bits c 406 384,
    clo := c.extractLsb' 448 32, chi := c.extractLsb' 480 32 }

/-- The fields of an ACCLD (Table 3.7): slot, source and stride. -/
def ldSlot (c : Cmd) : Nat := bits c 20 16
def ldSrc (c : Cmd) : Nat := bits c 86 64
def ldStride (c : Cmd) : Nat := bits c 118 96
/-- The fields of an NSEND: group, source and length. -/
def nsGroup (c : Cmd) : Nat := bits c 27 16
def nsBase (c : Cmd) : Nat := bits c 150 128
def nsLen (c : Cmd) : Nat := bits c 182 160
/-- The fields of a WAIT: counter and value. -/
def waitCnt (c : Cmd) : Nat := bits c 18 16
def waitVal (c : Cmd) : Nat := bits c 95 64
/-- The fields of a LIVE. -/
def liveEntry (c : Cmd) : Nat := bits c 19 16
def liveOf (c : Cmd) : LiveEnt := { valid := bit c 20, base := bits c 86 64, len := bits c 118 96 }

/-- The condition of WAIT: the counter less the value, as a signed 32-bit difference, is 0 or more (R66). -/
def reached (cnt : Word32) (v : Nat) : Bool := decide (0 ≤ (cnt - BitVec.ofNat 32 v).toInt)

/-! ## Scratchpad bytes -/

/-- The end of the last row. -/
def Span.stop (x : Span) : Nat := x.base + (x.rows - 1) * x.stride + x.bytes
/-- Whether a row holds byte a. -/
def Span.hits (x : Span) (a : Nat) : Bool :=
  (List.range x.rows).any (fun i => decide (x.base + i * x.stride ≤ a ∧ a < x.base + i * x.stride + x.bytes))
/-- The bytes two spans share. -/
def Span.common (x y : Span) : List Nat :=
  if x.stop ≤ y.base ∨ y.stop ≤ x.base then []
  else ((List.range x.rows).flatMap (fun i => (List.range x.bytes).map (fun j => x.base + i * x.stride + j))).filter y.hits

/-- Stored k-steps of a column of B (R45). -/
def MmaArgs.kb (a : MmaArgs) : Nat := if a.sparse then a.k / 2 else a.k
/-- Blocks of 32 k-steps, the last of which may be short (R39). -/
def MmaArgs.blocks (a : MmaArgs) : Nat := ceilDiv a.k 32

/-- The spans of a command (R64-R66). -/
def spans (c : Cmd) : List Span :=
  match cOp c with
  | 1 =>
    let a := mmaOf c
    [⟨a.aBase, a.aStride, 64, rowBytes a.fa a.k, false⟩, ⟨a.bBase, a.bStride, 64, rowBytes a.fb a.kb, false⟩] ++
    (if isMX a.fa then [⟨a.aScale, a.aSStride, 64, a.blocks, false⟩] else []) ++
    (if isMX a.fb then [⟨a.bScale, a.bSStride, 64, a.blocks, false⟩] else []) ++
    (if a.sparse then [⟨a.metaB, a.metaStride, 64, 4 * a.blocks, false⟩] else [])
  | 2 =>
    let e := epiOf c
    (if e.stream then [] else [⟨e.out, e.outStride, 64, rowBytes e.fo 64, true⟩]) ++
    (if !e.stream && isMX e.fo then [⟨e.os, e.osStride, 64, 2, true⟩] else []) ++
    (if e.bias then [⟨e.biasBase, 0, 1, 256, false⟩] else []) ++
    (if e.resid then [⟨e.resBase, e.resStride, 64, if e.resFmt = 0 then 256 else 128, false⟩] else [])
  | 3 => [⟨ldSrc c, ldStride c, 64, 256, false⟩]
  | 4 =>
    let d := dmaDesc c
    [⟨d.sp, d.spStride, d.rows, d.rowBytes, decide (d.op ≠ 1)⟩]
  | 5 => [⟨nsBase c, 0, 1, nsLen c, false⟩]
  | _ => []

/-- The bytes that spans share with others, where at least one of the two writes. -/
def clash (xs ys : List Span) : List Nat :=
  xs.flatMap (fun x => ys.flatMap (fun y => if x.wr || y.wr then x.common y else []))

/-- Bytes of a scratchpad take free values: those that two unordered commands both touch (R61). -/
def State.havoc (s : State) (k : Nat) (l : List Nat) : State :=
  s.each l (fun s a =>
    ({ s with fresh := s.fresh + 1 }).updEng k (fun e => { e with sp := e.sp.wr a (Config.freeByte s.fresh) }))

/-! ## Commands that nothing orders (R61) -/

/-- The unit a command runs in (R59). -/
def cUnit (c : Cmd) : EUnit := match cOp c with | 1 => .arr | 3 => .arr | 2 => .epi | _ => .dma

/-- The slot a command of the array or the epilogue unit uses. -/
def slotOf (c : Cmd) : Nat := match cOp c with | 1 => (mmaOf c).slot | 2 => (epiOf c).slot | _ => ldSlot c

/-- Commands a unit holds. -/
def UnitQ.held (q : UnitQ) : List Run := [q.exe, q.pend].filterMap id

/-- Whether the hardware orders two dispatched commands: those of one unit run in queue order (R60), and the slot scoreboard orders the
array and the epilogue unit on one slot (R61). -/
def ordered (a b : Cmd) : Bool :=
  decide (cUnit a = cUnit b) || decide (cUnit a ≠ .dma ∧ cUnit b ≠ .dma) && slotOf a == slotOf b

/-- Notes the rows a dispatched command shares with others. -/
def Run.meet (r : Run) (ys : List Span) : Run := if (clash (spans r.cmd) ys).isEmpty then r else { r with haz := r.haz ++ ys }
def UnitQ.upd (q : UnitQ) (f : Run → Run) : UnitQ := { exe := q.exe.map f, pend := q.pend.map f }
/-- Changes every command an engine's units hold. -/
def Engine.updHeld (x : Engine) (f : Run → Run) : Engine := { x with arr := x.arr.upd f, epi := x.epi.upd f, dma := x.dma.upd f }
/-- Every command an engine's units hold. -/
def Engine.held (x : Engine) : List Run := x.arr.held ++ x.epi.held ++ x.dma.held

/-- A command is dispatched to its unit: it and the commands held that nothing orders with it note the rows they share, where one of the two
writes (R61, assumption 166). -/
def Engine.dispatch (x : Engine) (r : Run) : Engine × Run :=
  let rivals := x.held.filter (fun o => !ordered o.cmd r.cmd)
  (x.updHeld (fun o => if ordered o.cmd r.cmd then o else o.meet (spans r.cmd)),
   rivals.foldl (fun r o => r.meet (spans o.cmd)) r)

/-- The bytes a command shares with commands that nothing orders with it take free values: all of them before its effect, and those it writes
again after it (R61). -/
def State.blurAll (s : State) (k : Nat) (r : Run) : State := s.havoc k (clash (spans r.cmd) r.haz)
def State.blurOut (s : State) (k : Nat) (r : Run) : State := s.havoc k (clash ((spans r.cmd).filter (fun y => y.wr)) r.haz)

/-- Writes bytes that arrive from outside an engine's queue into its scratchpad; those that a dispatched command touches take free
values, for it too (R61, R87, R123). -/
def State.landSp (s : State) (k a : Nat) (bs : List Byte) : State :=
  let l : List Span := [⟨a, 0, 1, bs.length, true⟩]
  let hit := clash l ((s.engine k).held.flatMap (fun r => spans r.cmd))
  let s := s.updEng k (fun e => { e.updHeld (fun r => r.meet l) with sp := e.sp.wrL a bs })
  s.havoc k hit

end Sys2Proof.Machine
end

