-- ==== Sys2Proof/Machine/Transfers.lean ====
section
/-!
DEFINITION. Transfers going on: the DMA unit of an engine, the XDMA and KDMA paths of the tiles, and rows outstanding outside the module
or on a far port (R60, R61, R71, R212, R224, R309).
-/

namespace Sys2Proof.Machine

/-- The DMA unit of an engine goes on with its executing DMA command; while the engine stops, only a non-pre-emptible one does (R71). Bytes that a
command shares with others that nothing orders with it take free values before and after (R61). -/
def State.dmaGo (s : State) (p e : Nat) : State :=
  let k := kEng p e
  match (s.engine k).dma.exe with
  | none => s
  | some r =>
    if r.fin ∨ bits r.cmd 7 0 ≠ 4 ∨ (s.unit (uEng p e)).st = .stopping ∧ !s.npRunning (uEng p e) then s
    else
      let d := dmaDesc r.cmd
      let t := (s.blurAll k r).xferRun (uEng p e) d r.done (d.rows - r.done) r.flags
      (t.2.2.2.blurOut k r).updEng k (fun x => { x with dma := { x.dma with exe := some { r with
        done := t.1, flags := t.2.2.1, fin := decide (t.2.1 = .done) } } })

/-- The first transfers of a tile go on, in order; a finished one leaves the list. Answers the status of one that has faulted. -/
def State.xfersGo (s : State) (u fuel : Nat) (l : List Xfer) : State × List Xfer × Option Nat :=
  match fuel, l with
  | 0, l => (s, l, none)
  | _, [] => (s, [], none)
  | k + 1, x :: r =>
    let d := xferDesc x.d
    let t := s.xferRun u d x.done (d.rows - x.done) 0
    match t.2.1 with
    | .done => State.xfersGo t.2.2.2 u k r
    | .held => (t.2.2.2, { x with done := t.1 } :: r, none)
    | .dead st => (t.2.2.2, { x with done := t.1 } :: r, some st)

/-- A unit goes on with what it had parked. -/
def State.xferGo (s : State) (u : Nat) : State :=
  match ukind u with
  | .eng p e => s.dmaGo p e
  | .vt p v =>
    let l := (s.vt (kVt p v)).xfers
    let t := s.xfersGo u l.length l
    t.1.updVt (kVt p v) (fun x => { x with xfers := t.2.1 })
  | .st p v =>
    let l := (s.tile (kSt p v)).xfers
    let t := s.xfersGo u l.length l
    -- kpst holds the status of the last KDMA: that of its fault, or 0 once it has finished (R93).
    let st := match t.2.2 with | some c => some c | none => if t.2.1.length < l.length then some 0 else none
    t.1.updSt (kSt p v) (fun x => { x with xfers := t.2.1, kpst := match st with | some c => BitVec.ofNat 16 c | none => x.kpst })

/-! ## Rows outstanding outside (R212, R224, R309) -/

/-- The row of a transfer a unit holds outside ends: a read puts `data` into local memory, and the unit goes on. -/
def State.extEnd (s : State) (u : Nat) (data : Option (List Byte)) : State :=
  let put (s : State) (d : XDesc) (done : Nat) : State :=
    match data with
    | none => s
    | some bs => s.updLmem u (fun m => m.wrL (d.sp + done * d.spStride) (padTo d.rowBytes 0 (bs.take d.rowBytes)))
  let s := s.updUnit u (fun k => { k with
    ext := none, cache := k.cache.map (fun c => { c with out := c.out - 1 }) })
  match ukind u with
  | .eng p e =>
    let k := kEng p e
    (match (s.engine k).dma.exe with
     | none => s
     | some r =>
       let d := dmaDesc r.cmd
       (((put s d r.done).blurOut k r).updEng k (fun x => { x with dma := { x.dma with exe := some { r with
         done := r.done + 1, fin := decide (d.rows ≤ r.done + 1) } } })).xferGo u)
  | .vt p v =>
    let k := kVt p v
    (match (s.vt k).xfers with
     | [] => s
     | x :: l =>
       let d := xferDesc x.d
       ((put s d x.done).updVt k (fun y => { y with
         xfers := if d.rows ≤ x.done + 1 then l else { x with done := x.done + 1 } :: l })).xferGo u)
  | .st p t =>
    let k := kSt p t
    (match (s.tile k).xfers with
     | [] => s
     | x :: l =>
       let d := xferDesc x.d
       ((put s d x.done).updSt k (fun y => { y with
         xfers := if d.rows ≤ x.done + 1 then l else { x with done := x.done + 1 } :: l,
         kpst := if d.rows ≤ x.done + 1 then 0 else y.kpst })).xferGo u)

/-- The access a unit holds outside: its address, bytes and kind. -/
def State.heldRow (s : State) (u : Nat) : Option (XDesc × Nat) :=
  match ukind u with
  | .eng p e => ((s.engine (kEng p e)).dma.exe).map (fun r => (dmaDesc r.cmd, r.done))
  | .vt p v => ((s.vt (kVt p v)).xfers.head?).map (fun x => (xferDesc x.d, x.done))
  | .st p t => ((s.tile (kSt p t)).xfers.head?).map (fun x => (xferDesc x.d, x.done))

/-- What a unit has outstanding on a far port has come back: the row has its effect, and the unit goes on. -/
def State.farRow (s : State) (u : Nat) : State :=
  match s.heldRow u with
  | none => s
  | some (d, r) =>
    match (s.unit u).cache.find? (fun c => decide (0 < c.out)) with
    | none => s
    | some c =>
      let t := s.rowDo u d r c.entry
      let fl (y : Run) : Run := { y with flags := y.flags ||| t.1 }
      let s := match ukind u with
        | .eng p e => t.2.updEng (kEng p e) (fun x => { x with dma := { x.dma with exe := x.dma.exe.map fl } })
        | _ => t.2
      let s := match (s.unit u).ext with | none => s | some w => s.updFar w.port (fun f => { f with credRcvd := f.credRcvd + 1 })
      s.extEnd u none

/-- The units with a transfer outstanding on a far port. -/
def State.farUnits (s : State) (hit : Nat → Bool) : List Nat :=
  (s.units.filter (fun e => e.2.ext.any (fun w => w.far && hit w.port))).map (fun e => e.1)

/-- The far ports answer what is outstanding on them. -/
def State.farTick (s : State) : State := s.each (s.farUnits (fun _ => true)) (fun s u => s.farRow u)

end Sys2Proof.Machine
end

