-- ==== Sys2Proof/Machine/FarRows.lean ====
section
/-!
DEFINITION. Commands of the far ports (R209-R212).
-/

namespace Sys2Proof.Machine

/-- A range that targets far port d: VALID or WITHDRAWING (R211). -/
def State.farTargeted (s : State) (d : Nat) : Bool :=
  s.xlt.slots.any (fun e => decide (e.2.st ≠ .invalid ∧ eKind e.2.entry = 1 ∧ eTarget e.2.entry >>> 41 = d))

/-- Whether a pool identifier names a range of far port d (Table 7.7). -/
def poolOfFar (pool : Word64) (d : Nat) : Bool := decide (bits pool 63 62 = 1 ∧ bits pool 46 45 = d)

/-- A port that has not reached READY, or leaves it, is DOWN: the counts of its link's credits are retired, and a new link starts with new ones
(R211, R212). -/
def Far.toDown (f : Far) : Far :=
  { f with st := .down, width := 0, rate := 0, capGib := 0, ide := false, disPend := false, poison := [], sent := 0, credRcvd := 0 }

/-- What is outstanding on a port that leaves READY completes with POISON, and its work is discarded: with STATE_POOL_LOST when the work's
state pool was on the port, and otherwise with POISONED_READ (R212). -/
def State.farCut (s : State) (d : Nat) : State :=
  s.each (s.farUnits (fun k => k == d)) (fun s u =>
    let code := match s.workOn u with
      | none => 0x0204
      | some n => if ((s.work n).any fun w => w.tokens.any (fun t => poolOfFar (s.token t.toNat).pool d)) then 0x0202 else 0x0204
    let wr := match s.heldRow u with | none => false | some h => h.1.op == 1
    let s := match s.workOn u with | none => s | some n => s.finishWork n code
    -- Each sector a read or atomic still waits for comes back poisoned (Table 8.16).
    let n := match s.heldRow u with | none => 0 | some h => ceilDiv h.1.rowBytes 64
    let s := if wr then s else s.updFar d (fun f => { f with poisonRd := f.poisonRd + BitVec.ofNat 32 n })
    s.extEnd u (if wr then none else some []))

/-- A port leaves READY: its generation advances and is journaled, the departure is counted, and tokens on it are LOST (R211,
R212, R183). PERST_N is asserted while the port is DOWN (R434). -/
def State.farLeave (s : State) (d : Nat) : State :=
  let s := if (s.farP d).st = .down then s else s.emit (.pin 2 d false)
  if (s.farP d).st = .ready then
    let s := s.updFar d (fun f => { f.toDown with gen := f.gen + 1, linkDown := sat 0xFFFF (f.linkDown + 1) })
    ((s.journal (.gen .far d (s.farP d).gen)).farCut d).loseTokens (fun t => poolOfFar t d)
  else s.updFar d Far.toDown

/-- A cleared ENABLE takes a READY port DOWN, or waits for its ranges to clear (R211). -/
def State.farTryDisable (s : State) (d : Nat) : State :=
  if (s.farP d).st = .ready ∧ !(s.farP d).enable then
    (if s.farTargeted d then s.updFar d (fun f => { f with disPend := true }) else s.farLeave d)
  else s

/-- Ports whose disable waits go DOWN once no range targets them (R211). -/
def State.farSettle (s : State) : State :=
  s.each (List.range 4) (fun s d => if (s.farP d).disPend ∧ !s.farTargeted d then s.farLeave d else s)

/-- A port with ENABLE set and an expander present starts TRAINING, given its clock and its reset released (R211, R434,
R436). -/
def State.farStart (s : State) (d : Nat) : State :=
  let f := s.farP d
  if f.st = .down ∧ f.enable ∧ f.present ∧ s.domOn (domFar d) = true then
    let s := s.updFar d (fun f => { f with st := .training, refOut := true })
    (s.emit (.pin 3 d true)).emit (.pin 2 d true)
  else s

/-- A write of ENABLE (R211). -/
def State.farCtl (s : State) (d : Nat) (enable : Bool) : State :=
  if enable then (s.updFar d (fun f => { f with enable := true, disPend := false })).farStart d
  else (s.updFar d (fun f => { f with enable := false })).farTryDisable d

def execFarEnable (d : FarId) (s : State) : Host.Outcome State Fault Refusal := .next (s.farCtl d.val true)

def execFarDisable (d : FarId) (s : State) : Host.Outcome State Fault Refusal := .next (s.farCtl d.val false)

/-- Links that R209 accepts: x8 at 64 GT/s, and x8 or x4 at 32 GT/s. -/
def farLinkOk (width rate : Nat) : Bool := decide (width = 8 ∧ rate = 64) || decide (rate = 32 ∧ (width = 8 ∨ width = 4))

/-- Training ends (R211); a link recovery of a READY port is counted (Table 8.16, RETRAIN). -/
def execFarLinkUp (d : FarId) (width rate : Nat) (trained : Bool) (s : State) : Host.Outcome State Fault Refusal :=
  .next (match (s.farP d.val).st with
    | .training =>
      if trained && farLinkOk width rate then
        s.updFar d.val (fun f => { f with st := .config, width := width, rate := rate })
      else s.farLeave d.val
    | .ready => if trained then s.updFar d.val (fun f => { f with retrain := sat 0xFFFF (f.retrain + 1) }) else s.farLeave d.val
    | _ => s)

def execFarConfigDone (d : FarId) (ok ide : Bool) (capGib : Nat) (poisonList : List Nat) (s : State) :
    Host.Outcome State Fault Refusal :=
  .next (if (s.farP d.val).st = .config then
      (if ok && (ide || !(s.farP d.val).ideReq) then
        (s.updFar d.val (fun f => { f with st := .ready, ide := ide, capGib := min 2048 capGib, poison := poisonList })).farTryDisable
          d.val
      else s.farLeave d.val)
    else s)

def execFarConfigTimeout (d : FarId) (s : State) : Host.Outcome State Fault Refusal :=
  .next (if (s.farP d.val).st = .config then s.farLeave d.val else s)

def execFarPortDown (d : FarId) (s : State) : Host.Outcome State Fault Refusal :=
  .next (if (s.farP d.val).st = .down then s else s.farLeave d.val)

def execFarEventPoll (d : FarId) (events : List Word64) (s : State) : Host.Outcome State Fault Refusal :=
  .next (if (s.farP d.val).st = .ready then s.each events (fun s e => s.emit (.farEvent d.val e)) else s)

end Sys2Proof.Machine
end

