-- ==== Sys2Proof/Machine/Ranges.lean ====
section
/-!
DEFINITION. Commands of translation (chapter 9): misses, MAP, UNMAP and QUERY, withdrawals, and the fault queues.
-/

namespace Sys2Proof.Machine

/-! ## Acceptance of an entry (R218) -/

/-- RANKS of the first FABRIC frame (R154). -/
def Comp.ranks (c : Comp) : Nat :=
  match c.frames.find? (fun f => f.typ == 0x0A) with | none => 0 | some f => fle f.body 0 2

/-- Item 1 of R218: R216 and R217. 0 is a pass. -/
def State.entryShape (s : State) (cid : Nat) (e : BitVec 256) : Nat :=
  let c := s.comp cid
  let b := eBase e
  let l := eLen e
  let t := eTarget e
  if b % 4096 ≠ 0 ∨ 2 ^ 57 ≤ b ∨ l % 4096 ≠ 0 ∨ l < 4096 ∨ 2 ^ 56 < l ∨ t % 4096 ≠ 0 ∨ 3 < eKind e ∨ 32 ≤ eRights e ∨
      8192 ≤ eKeysel e ∨ eRsv e ≠ 0 then 0x0306
  else match eKind e with
    | 0 =>
      match c.iset (eAux e) with
      | none => 0x030A
      | some i => if t + l ≤ i.bytes then 0 else 0x030A
    | 1 =>
      let f := s.farP (t >>> 41)
      if eAux e ≠ 0 ∨ 4 ≤ t >>> 41 ∨ (t + l - 1) >>> 41 ≠ t >>> 41 then 0x030A
      -- The capacity is known only of a READY port; one that is not READY is refused below (assumption 24).
      else if f.st = .ready ∧ f.capGib * 2 ^ 30 < t % 2 ^ 41 + l then 0x030A else 0
    | 2 => if 4 ≤ eAux e ∨ !has c.portMask (eAux e) ∨ 2 ^ 52 < t + l then 0x030A else 0
    | _ => if c.multi ∧ c.ranks ≤ eAux e ∨ 2 ^ 57 < t + l then 0x030A else 0

/-- Whether a clear range is accepted for a client (R341). -/
def State.clearAllowed (s : State) (client : Nat) : Bool := s.sec.clearOk && decide ((s.fn client).tdi = .unlocked)

/-- The conditions of R218 other than the index, in their order, for context x. 0 is a pass. -/
def State.entryCheck (s : State) (x : Nat) (e : BitVec 256) : Nat :=
  let k := s.ctx x
  let shape := s.entryShape k.cid e
  if shape ≠ 0 then shape
  else if 2 ^ 57 < eBase e + eLen e then 0x0306
  else if (s.slotsOf x).any (fun r => decide (r.2.st ≠ .invalid ∧ eBase e < eBase r.2.entry + eLen r.2.entry ∧
      eBase r.2.entry < eBase e + eLen e)) then 0x0307
  else if eA e ∧ !(eR e && eW e) ∨ eShared e ∧ (eW e || eA e) then 0x0306
  else if eDlog e ∧ eKind e ≠ 0 ∧ eKind e ≠ 2 then 0x0306
  else if eKind e = 3 ∧ !(s.comp k.cid).multi then 0x0305
  else if eKind e = 1 ∧ (s.farP (eTarget e >>> 41)).st ≠ .ready then 0x0305
  else if eKind e ≤ 1 then
    (if eEnc e then
      (if eKeysel e % 4096 = k.slot ∨ eShared e ∧ s.sharedSlot k.cid = some (eKeysel e % 4096) then 0 else 0x0309)
    else if s.clearAllowed k.client then 0 else 0x0409)
  else if eKeysel e ≠ 0 then 0x0309 else 0

/-- A refused clear range is counted (Table 14.10). -/
def State.countClear (s : State) (code : Nat) : State :=
  if code = 0x0409 then { s with sec := { s.sec with denyClear := s.sec.denyClear + 1, lastCode := 0x0409 } } else s

/-! ## Requests (R229) -/

/-- Whether an XID is a context of the requesting client (R302). -/
def State.ownsCtx (s : State) (r : Request) : Bool :=
  decide ((s.ctx r.xid).st ≠ .free) && decide ((s.ctx r.xid).client = r.client)

/-- MAP (R229). -/
def State.runMap (s : State) (r : Request) : State :=
  let i := r.p0.toNat
  if !s.ownsCtx r then s.answer r 0x0103 [0]
  else if 4096 ≤ i then s.answer r 0x0308 [0]
  else if (s.slot r.xid i).st ≠ .invalid then s.answer r 0x030D [0]
  else
    let st := s.entryCheck r.xid r.entry
    if st ≠ 0 then (s.countClear st).answer r st [0]
    else (s.updSlot r.xid i (fun k => { k with st := .valid, entry := r.entry })).answer r 0 [0]

/-- UNMAP (R229, R230): phase 1, and the invalidations that are to be sent. The fabric ingress translates each PEER request from the table as it
arrives and has served it in that step: it holds no copy and acknowledges at once (assumption 213). -/
def State.runUnmap (s : State) (r : Request) : State :=
  let i := r.p0.toNat
  if !s.ownsCtx r then s.answer r 0x0103 [0]
  else if 4096 ≤ i then s.answer r 0x0308 [0]
  else match (s.slot r.xid i).st with
    | .invalid => s.answer r 0x0302 [0]
    | .withdrawing => s.answer r 0x030B [0]
    | .valid =>
      let us := s.ctxUnits r.xid
      let s := s.updSlot r.xid i (fun k => { k with st := .withdrawing, epoch := (k.epoch + 1) % 65536 })
      if us.isEmpty then
        ((s.updSlot r.xid i (fun k => { k with st := .invalid, entry := 0 })).answer r 0 [0]).farSettle
      else { s with xlt := { s.xlt with wds := s.xlt.wds ++ [{ xid := r.xid, idx := i, toSend := us, waitFor := [], req := r }] } }

/-- Code of a slot's state (R221). -/
def RState.num (r : RState) : Nat := match r with | .invalid => 0 | .valid => 1 | .withdrawing => 2

/-- QUERY (R229, Table 12.5). -/
def State.runRangeQuery (s : State) (r : Request) : State :=
  let i := r.p0.toNat
  if !s.ownsCtx r then s.answer r 0x0103 [0]
  else if 4096 ≤ i then s.answer r 0x0308 [0]
  else
    let k := s.slot r.xid i
    s.answer r 0 ([0, k.st.num + k.epoch <<< 16] ++ chunk 64 4 k.entry.toNat)

def execMap (r : Request) (s : State) : Host.Outcome State Fault Refusal := .next (s.runMap r)
def execUnmap (r : Request) (s : State) : Host.Outcome State Fault Refusal := .next (s.runUnmap r)
def execRangeQuery (r : Request) (s : State) : Host.Outcome State Fault Refusal := .next (s.runRangeQuery r)

/-! ## Misses (R226) -/

/-- The XLT core that serves the misses of a die: that of its block, or while that one is not running the next in the order XLT0, XLT1, XLT2,
XLT3, XLT0 (R222, Table 9.3). XLTi is core 3 + i. -/
def State.xltServing (s : State) (die : Nat) : Option Nat :=
  if s.roleHalted 2 then none
  else ((List.range 4).map (fun i => (xltOf die + i) % 4)).find? (fun i => decide ((s.coreS (3 + i)).st = .running))

/-- The XLT core of a unit's misses. -/
def State.xltFor (s : State) (u : Nat) : Option Nat := s.xltServing (dieOf (ukind u).part)

/-- A held access sends its miss to the XLT core that serves its die (R222, R226); it stays held while none does. -/
def execRangeMiss (u : UnitId) (s : State) : Host.Outcome State Fault Refusal :=
  .next (match s.xltFor u.val with
    | none => s
    | some c => s.updUnit u.val (fun k => { k with miss := k.miss.map (fun m => { m with core := some c }) }))

/-- A KPCVT ends: rd and kpst (R92). -/
def State.pcvtEnd (s : State) (k : Nat) (v : Word64) (st : Word16) : State :=
  s.updSt k (fun t => { t.setX (bits t.kword 11 7) v with kpst := st, wait := .none, pc := t.pc + 4 })

/-- The reply to a miss: the cache is filled and the unit goes on, or the access fails (R224 steps 1 to 3, R226, R228). -/
def State.missReply (s : State) (u : Nat) : State :=
  match (s.unit u).miss with
  | none => s
  | some m =>
    -- A miss whose core has stopped since goes to the next one (R222).
    if m.core.isNone ∨ (s.xltFor u).isNone then s
    else
      let s := { s with xlt := { s.xlt with misses := s.xlt.misses + 1 } }
      let s := s.updUnit u (fun k => { k with miss := none })
      match s.slotAt m.xid m.va, ukind u with
      | none, .st p t =>
        if m.acc = 3 then s.pcvtEnd (kSt p t) 0 0x030C else s.xlFault u 0x0302 0xFFFF 0 m.va m.len m.acc
      | none, _ => s.xlFault u 0x0302 0xFFFF 0 m.va m.len m.acc
      | some r, k =>
        if m.acc ≠ 3 ∧ !eHas r.2.entry (m.va + m.len - 1) then s.xlFault u 0x0304 r.1 r.2.epoch m.va m.len m.acc
        else
          let s := s.fillCache u r.1 r.2
          match k with
          | .st p t => if m.acc = 3 then s.updSt (kSt p t) (fun x => { x with wait := .none }) else s.xferGo u
          | _ => s.xferGo u

def execMissReply (u : UnitId) (s : State) : Host.Outcome State Fault Refusal := .next (s.missReply u.val)

/-! ## Withdrawal (R230) -/

/-- A cache without the entry of an index; an entry with transfers outstanding stays, marked dropped, until they end. -/
def dropEntry (idx : Nat) (l : List CacheEnt) : List CacheEnt :=
  (l.filter (fun c => decide (c.idx ≠ idx ∨ 0 < c.out))).map (fun c => if c.idx = idx then { c with dropped := true } else c)

/-- A unit receives the invalidation: it drops the entry, and keeps it only while transfers are outstanding under it. -/
def execInvalidationReceive (u : UnitId) (x : XidT) (index : Fin 4096) (s : State) : Host.Outcome State Fault Refusal :=
  let hit (w : Withdraw) : Bool := w.xid == x.val && w.idx == index.val && w.toSend.contains u.val
  .next (if s.xlt.wds.any hit then
      let s := { s with xlt := { s.xlt with wds := s.xlt.wds.map (fun w =>
        if hit w then { w with toSend := w.toSend.erase u.val, waitFor := w.waitFor ++ [u.val] } else w) } }
      s.updUnit u.val (fun k => { k with cache := dropEntry index.val k.cache })
    else s)

def execWithdrawAck (u : UnitId) (x : XidT) (index : Fin 4096) (s : State) : Host.Outcome State Fault Refusal :=
  .next (if s.xlt.wds.any (fun w => w.xid == x.val && w.idx == index.val && w.waitFor.contains u.val) &&
      !(s.unit u.val).cache.any (fun c => c.idx == index.val && decide (0 < c.out)) then
      ((s.updUnit u.val (fun k => { k with cache := k.cache.filter (fun c => decide (c.idx ≠ index.val)) })).ackWithdraw
        x.val index.val u.val).farSettle
    else s)

def execWithdrawTimeout (x : XidT) (index : Fin 4096) (s : State) : Host.Outcome State Fault Refusal :=
  .next (match s.xlt.wds.find? (fun w => w.xid == x.val && w.idx == index.val) with
    | none => s
    | some w => s.each (w.toSend ++ w.waitFor) (fun s u => s.startStep .engine u 5))

/-! ## Fault queues (R231-R235) -/

/-- Occupied slots of a fault queue (R233). -/
def FaultQ.occ (q : FaultQ) : Nat := (q.tail + 2048 - q.head) % 2048

/-- A fault record (Table 9.7). -/
def faultRec (f : Fault0) (kind : Nat) (gen : Word16) (seq lost : Nat) (phase : Bool) : BitVec 512 :=
  recOf [(0, 2, f.status), (2, 1, kind), (3, 1, b2n f.fatal + 2 * b2n f.write + 4 * b2n f.atomic), (4, 2, f.xid), (6, 1, f.cid),
    (8, 2, gen.toNat), (0x0A, 2, f.unit), (0x0C, 2, f.index), (0x0E, 2, f.epoch), (0x10, 8, f.addr), (0x18, 8, f.info),
    (0x20, 8, seq), (0x28, 8, lost), (0x38, 8, b2n phase)]

/-- The host port a composition's fault records go through: the lowest of its PORT_MASK (assumption 25). -/
def Comp.fqPort (c : Comp) : Nat := ((List.range 4).find? (fun h => has c.portMask h)).getD 0

/-- Puts a record into the next slot of a composition's fault queue. -/
def State.fqPut (s : State) (c : Nat) (r : BitVec 512) : State :=
  let q := s.fq c
  ((s.updHmem (s.comp c).fqPort (fun m => m.wrL (q.base * 65536 + 64 * (q.tail % 1024)) (lineBytes r))).hostTx (s.comp c).fqPort 64).updFq c
    (fun q => { q with tail := (q.tail + 1) % 2048 })

/-- A lost fault: counted for its queue and its XID, and the context is torn down with FAULT_LOST (R234, R235). -/
def State.faultLost (s : State) (f : Fault0) : State :=
  let s := s.updFq f.cid (fun q => { q with lost := (q.lost + 1) % 2 ^ 48, seq := q.seq + 1 })
  let s := { s with xlt := { s.xlt with lostX := Map.upd 0 f.xid (fun v => v + 1) s.xlt.lostX } }
  let s := s.journal (.lostFault f.xid (Map.get 0 s.xlt.lostX f.xid))
  s.startTeardown f.xid 0x0205 Request.zero

/-- Writes the oldest fault that has been detected: an ordinary record, an OVERFLOW record, or a loss. A recorded fatal fault
starts the context step and its work ends with the fault's STATUS (R232). -/
def State.faultWrite (s : State) : State :=
  match s.xlt.faults with
  | [] => s
  | f :: rest =>
    let s := { s with xlt := { s.xlt with faults := rest } }
    let q := s.fq f.cid
    let k := s.ctx f.xid
    let lapsed := decide ((s.fn k.client).lease = .lapsed ∨ (s.fn k.client).lease = .quiesced)
    if q.base = 0 ∨ q.ovf ∨ lapsed ∨ k.st = .teardown ∨ s.hostUp (s.comp f.cid).fqPort = false then s.faultLost f
    else
      let lost := (Map.get 0 s.xlt.lostX f.xid).toNat
      let gen := (s.comp f.cid).gen
      if q.occ < 1023 then
        let s := (s.fqPut f.cid (faultRec f f.kind gen q.seq.toNat lost (q.tail.testBit 10))).updFq f.cid
          (fun q => { q with seq := q.seq + 1 })
        if f.fatal then (s.ctxStepStart f.xid f.status).startStep .context f.xid 11 else s
      else
        let s := (s.fqPut f.cid (faultRec f 5 gen q.seq.toNat (lost + 1) (q.tail.testBit 10))).updFq f.cid
          (fun v => { v with ovf := true, ovfAt := q.tail })
        s.faultLost f

def execFaultRecordWrite (s : State) : Host.Outcome State Fault Refusal := .next s.faultWrite

/-- A write to HEAD: ignored when it would raise the occupancy; OVF clears past the OVERFLOW record (R233, R234). -/
def State.fqHead (s : State) (c h : Nat) : State :=
  s.updFq c (fun q =>
    if (q.tail + 2048 - h) % 2048 ≤ q.occ then
      { q with head := h, ovf := q.ovf && decide (h ≠ q.tail) }
    else q)

/-- A write to XLT_FQ_BASE, ignored while the queue holds records (R237). -/
def State.fqBase (s : State) (c b : Nat) : State := s.updFq c (fun q => if q.occ = 0 then { q with base := b } else q)

def execFqHeadWrite (c : CidT) (value : Word32) (s : State) : Host.Outcome State Fault Refusal :=
  .next (s.fqHead c.val (bits value 10 0))

def execFqBaseWrite (c : CidT) (value : Word64) (s : State) : Host.Outcome State Fault Refusal :=
  .next (s.fqBase c.val (bits value 63 16))

end Sys2Proof.Machine
end

