-- ==== Sys2Proof/Machine/Route.lean ====
section
/-!
DEFINITION. The die network's shared operations: coordinates (R104, R105), credit pools (R128, R129), injection and routing (R112
to R114), and local delivery (R110, R111, R117, R123).
-/

namespace Sys2Proof.Machine

/-! ## Pools (R128, R129) -/

/-- What hardware checks every cycle: at the sender held = size − (S − Cr), at the receiver occupied = Rx − Cs (R129). -/
def Pool.sound (p : Pool) (size : Nat) : Bool :=
  decide (p.held + (p.s - p.cr).toNat = size ∧ p.occ = (p.rx - p.cs).toNat)

/-- A pool whose counts disagree stops, and is resolved by R130 (R129). -/
def State.checkPool (s : State) (id : Nat) : State :=
  if (s.pool id).sound (poolSize id) then s else s.updPool id (fun p => { p with resolving := true })

/-- Whether a sender may use a credit of a pool. -/
def Pool.ready (p : Pool) : Bool := decide (0 < p.held) && !p.resolving && !p.retired

/-- A sender sends a flit into a pool (R128, R129). -/
def State.sendOn (s : State) (id : Nat) (f : Flit) : State :=
  let s := s.updPool id (fun p => { p with held := p.held - 1, fly := p.fly + 1, s := p.s + 1 })
  { s with net := { s.net with flights := s.net.flights ++ [(id, f)] } }

/-- A flit lands in its slot. -/
def State.landOn (s : State) (id : Nat) (f : Flit) : State :=
  let s := s.updPool id (fun p => { p with fly := p.fly - 1, occ := p.occ + 1, rx := p.rx + 1 })
  { s with net := { s.net with flights := s.net.flights.erase (id, f) } }

/-- The pool a flit takes a slot of at an input port of router r. -/
def State.poolOf (s : State) (r port : Nat) (f : Flit) : Nat :=
  if f.kind = 5 then churnPool r port (s.ctx f.xid).cid f.group else bufPool r port f.vc (b2n f.leg)

/-! ## Crossings (R131, R132) and links (R107, R110) -/


/-- A wake request: the receiving clock restarts, and what the FIFO holds can go on (R132). -/
def State.restart (s : State) (x : Nat) : State :=
  (s.updXing x (fun y => { y with wake := true, clockStopped := false })).emit (.wake x)

/-- Whether flits may be written into a crossing: not while it is resynchronised (R133). -/
def State.xingWritable (s : State) (x : Option Nat) : Bool := match x with | none => true | some x => !(s.xing x).stopped

/-- Whether a flit may come out of a crossing now: not while it is resynchronised, and not in HOLD while the receiving clock stands (R132, R133). -/
def State.xingOpen (s : State) (x : Option Nat) : Bool :=
  match x with
  | none => true
  | some x => !(s.xing x).stopped && (!(s.xing x).clockStopped || (s.xing x).service)

/-- A flit comes out of a crossing: in SERVICE it wakes a receiving clock that stands (R132). The counts of R133 of a crossing to an endpoint
include it; its credit comes back as it is delivered. -/
def State.cross (s : State) (x : Option Nat) : State :=
  match x with
  | none => s
  | some x => (if (s.xing x).clockStopped then s.restart x else s).updXing x (fun y => { y with
      sent := y.sent + 1, credRcvd := y.credRcvd + 1 })

/-- Whether what is in flight to the input of router r at a port may land there: its crossings let it out (R131, R132). The FIFO of a crossing is
the head of that buffer, so a flit that waits in it stays in flight, against the credit it has taken. -/
def State.landOpen (s : State) (r port : Nat) : Bool := (landXings r port).all (fun x => s.xingOpen (some x))
/-- What lands passes its crossings. -/
def State.crossAll (s : State) (l : List Nat) : State := s.each l (fun s x => s.cross (some x))

/-- Flits a crossing's FIFO holds: those in flight into the buffer behind it (R131). -/
def State.xingData (s : State) (x : Nat) : Nat :=
  (s.net.flights.filter (fun e =>
    (if 163840 ≤ e.1 ∧ e.1 < 2 ^ 20 then expressXings e.1 else landXings (poolSite e.1).1 (poolSite e.1).2).contains x)).length

/-- Whether the flits of an input may use output o for a VC: no packet of another input has begun there and not ended (R107). -/
def Router.linkFree (x : Router) (o vc id : Nat) : Bool :=
  match Map.get none x.owner (4 * o + vc) with
  | none => true
  | some i => i == id

/-- A flit has gone out by output o: its packet holds the link until its tail, and the round robin of VC0 to VC2 moves on (R107, R110). -/
def State.usedLink (s : State) (r o id : Nat) (f : Flit) : State :=
  s.updRouter r (fun x => { x with
    owner := Map.set none (4 * o + f.vc) (if f.tail then none else some id) x.owner,
    rr := if f.vc < 3 then Map.set 2 o f.vc x.rr else x.rr })

/-- The router domain of a router is powered (R23). -/
def State.routerOn (s : State) (r : Nat) : Bool := s.domOn (domRouter (dieOfRouter r))

/-- The local port of a router is open: its unit is not fenced (R117). -/
def State.portOpen (s : State) (r : Nat) : Bool :=
  match routerUnit r with
  | none => true
  | some u => !(s.unit u).portClosed && !(s.unit u).fenced

/-! ## Injection (R114, R117) -/

/-- LEG, WPT and GEN of a flit as its router takes it in at the local port. Replies keep the GEN of their request. -/
def State.stamp (s : State) (r : Nat) (f : Flit) : Flit :=
  let f := if f.kind = 2 ∨ f.kind = 3 ∨ f.kind = 11 then f
    else match routerUnit r with | none => f | some u => { f with gen := (s.unit u).gen }
  if f.kind = 4 ∨ f.kind = 5 then { f with leg := true }
  else
    let t := destRouter r f.dst
    match (s.router r).detours.find? (fun d => (!d.io || decide (4096 ≤ f.dst)) &&
        decide (d.x0 ≤ rGx t ∧ rGx t ≤ d.x1 ∧ d.y0 ≤ rGy t ∧ rGy t ≤ d.y1)) with
    | none => { f with leg := true }
    | some d => { f with leg := false, wpt := d.wpt }

/-- Whether the endpoint of a router may inject a flit now: its port is open, its crossing takes it, and a credit is held. -/
def State.mayInject (s : State) (r : Nat) (f : Flit) : Bool :=
  (s.pool (s.poolOf r 0 f)).ready && s.portOpen r && s.xingWritable (localXing r)

/-- An endpoint hands a flit to its router: it is sent when it may be and nothing of its VC waits before it, so that a packet stays whole on the
link (R107). A router without power takes nothing (R23). -/
def State.inject (s : State) (r : Nat) (f : Flit) : State :=
  let f := s.stamp r f
  if !s.routerOn r then s
  else if s.mayInject r f && !(s.router r).outq.any (fun g => g.vc == f.vc) then s.sendOn (s.poolOf r 0 f) f
  else s.updRouter r (fun x => { x with outq := x.outq ++ [f] })

/-! ## Collective entries (R122) -/

/-- The valid entry of a router for a composition and group. -/
def Router.entry (x : Router) (cid g : Nat) (churn : Bool) : Option CEnt :=
  x.ctab.find? (fun e => e.valid && e.cid == cid && e.group == g && e.churn == churn)

/-- Changes the entry of a composition and group. -/
def State.updEntry (s : State) (r cid g : Nat) (f : CEnt → CEnt) : State :=
  s.updRouter r (fun x => { x with ctab := updAll (fun e => e.cid == cid && e.group == g) f x.ctab })

/-! ## Delivery -/

/-- A counter of an engine or vector tile advances (R61, R77). -/
def State.advCnt (s : State) (u i : Nat) : State :=
  match ukind u with
  | .eng p e => s.updEng (kEng p e) (fun x => { x with cnt := Map.upd 0 i (fun v => v + 1) x.cnt })
  | .vt p v => s.updVt (kVt p v) (fun x => { x with cnt := Map.upd 0 i (fun v => v + 1) x.cnt })
  | .st _ _ => s

/-- Whether a unit holds the context of a flit. -/
def State.holdsXid (s : State) (u xid : Nat) : Bool :=
  (match (s.unit u).st with | .idle => false | .fenced => false | .reset => false | _ => true) && decide ((s.unit u).xid = xid)

/-- A stray flit is dropped, and a fault record is posted for the context that owns the endpoint (R111, R231). -/
def State.stray (s : State) (u src : Nat) : State :=
  match (s.unit u).st with
  | .idle => s
  | .fenced => s
  | .reset => s
  | _ => s.fault { cid := s.cidOf u, status := 0x0310, kind := 4, fatal := false, write := false, atomic := false,
                   xid := (s.unit u).xid, unit := (s.lrefOf u).getD 0xFFFF, index := 0xFFFF, epoch := 0, addr := 0, info := src }

/-- A WR_ACK flit to an endpoint (R123, R124). -/
def ackFlit (src dst xid group : Nat) (gen : Word16) : Flit :=
  { Flit.zero with dst := dst, src := src, vc := 1, kind := 3, tail := true, last := true, gen := gen, xid := xid, group := group }

/-- Local delivery of a collective flit at router r: its bytes go to LBASE + i, and the last flit of the LAST packet advances
LCNT (R123, R124). A fenced endpoint, and one that does not hold the context, drop it (R111). Answers whether it landed. -/
def State.landCollective (s : State) (r : Nat) (e : CEnt) (f : Flit) : Bool × State :=
  match routerUnit r with
  | none => (false, s)
  | some u =>
    if !s.portOpen r then (false, s.countDrop r)
    else if !s.holdsXid u f.xid then (false, (s.countDrop r).stray u f.src)
    else
      let a := e.lbase + e.got
      let s := match ukind u with
        | .eng p g => s.landSp (kEng p g) a (lineBytes f.payload)
        | _ => s.updLmem u (fun m => m.wrL a (lineBytes f.payload))
      let done := f.tail && f.last
      let s := s.updEntry r e.cid e.group (fun x => { x with got := if done then 0 else x.got + 64 })
      let s := if f.poison then s.poisonWork u else s
      (true, if done && e.lcntEn then s.advCnt u e.lcnt else s)

/-- Members of a CHURN frame: the units of its leaves. -/
def State.leaves (s : State) (cid g : Nat) : List Nat :=
  let b := frmBody (s.comp cid).frames 7 g
  (List.range (fle b 8 2)).filterMap (fun i => s.unitOfLref cid (fle b (16 + 2 * i) 2))

/-- A pending frequency takes effect at the start of its step (R286). -/
def Job.settleMhz (j : Job) : Job :=
  match j.pendMhz with
  | some (m, st) => if j.steps.any (fun e => batchGe e.2 st) then { j with mhz := m, pendMhz := none } else j
  | none => j

/-- Whether the window of a spanning group has room for units of an input: 256 KiB, or 4096 units, for each (Table 11.4). -/
def State.winRoom (s : State) (cid g input n : Nat) : Bool :=
  decide (((s.job cid).windows.filter (fun w => w.group == g && w.input == input)).length + n ≤ 4096)

/-- Whether the combine unit can take a flit of a spanning group's root at its router. -/
def State.winReady (s : State) (cid g : Nat) : Bool := !(s.comp cid).spanning g || s.winRoom cid g (s.job cid).rank 1

/-- The combine unit takes a unit of this module's contribution into its window (R281-R283). -/
def State.toWindow (s : State) (cid g got : Nat) (f : Flit) : State :=
  (s.updJob cid (fun j =>
    if j.st = .formed then
      let step := Map.get 0 j.steps g
      let w : CWin := { group := g, step := step, offset := got / 64, input := j.rank, data := f.payload,
                        last := f.tail && f.last, poison := f.poison }
      Job.settleMhz { j with windows := j.windows ++ [w], steps := if f.tail && f.last then Map.set 0 g ((step + 1) % 65536) j.steps else j.steps }
    else j)).followMhz cid (s.job cid).mhz

/-- Where the generation of a leaf's contribution is kept. -/
def churnKey (cid g u : Nat) : Nat := (4096 * cid + g) * 4096 + u

/-- The root of a churn tree delivers its result: to the root engine, or for a spanning group to the combine unit; after the last
flit a WR_ACK goes to every leaf, with the GEN of its contribution (R117, R124, R281). -/
def State.churnRoot (s : State) (r : Nat) (e : CEnt) (f : Flit) : State :=
  let done := f.tail && f.last
  let s := if (s.comp e.cid).spanning e.group then
      (s.toWindow e.cid e.group e.got f).updEntry r e.cid e.group (fun x => { x with got := if done then 0 else x.got + 64 })
    else s
  let t := if (s.comp e.cid).spanning e.group then (true, s) else s.landCollective r e f
  if done && t.1 then
    t.2.each (t.2.leaves e.cid e.group) (fun s u =>
      s.inject r (ackFlit r (unitRouter u) f.xid e.group (Map.get 0 s.net.churnGen (churnKey e.cid e.group u))))
  else t.2

/-- Pushes a completion record into a tile's event queue, with a posting credit (R91). -/
def State.pushEvent (s : State) (k : Nat) (rec_ : BitVec 128) : State :=
  if 0 < (s.tile k).evCred then
    (s.qUse (eventPool k) 1).updSt k (fun t => { t with evq := t.evq ++ [rec_], evCred := t.evCred - 1 })
  else s

/-- Whether a unit of a composition is checked by generation: not with TESSEL_COMPAT (R117, R136). -/
def State.genChecked (s : State) (u : Nat) : Bool := !(s.comp (s.cidOf u)).tessel

/-- The scalar tile that issues to a unit (R58, R84). -/
def State.issuer (s : State) (u : Nat) : Nat :=
  match ukind u with
  | .eng p e => kSt p (bits (s.engine (kEng p e)).cfg 7 0)
  | .vt p v => kSt p (bits (s.vt (kVt p v)).cfg 7 0)
  | .st p t => kSt p t

/-- The router of a unit's issuer: only from there does a command come to its queue (R58). -/
def State.issuerRouter (s : State) (u : Nat) : Nat := let k := s.issuer u; unitRouter (uSt (k / 4) (k % 4))

/-! ## Queue credits of flits (R58, R84, R85, R91) -/

/-- A CMD, EVENT or STREAM flit takes a credit of the queue or channel it is for, as its sender sends it; none where it is not that sender, or
holds no credit. Other flits take none. -/
def State.takeQueue (s : State) (f : Flit) : Option State :=
  match f.kind, routerUnit f.dst with
  | 10, some u =>
    if f.src ≠ s.issuerRouter u ∨ (s.pool (queuePool u)).resolving then none
    else (match ukind u with
      | .eng p e => if 0 < (s.engine (kEng p e)).cred then
          some ((s.qUse (queuePool u) 1).updEng (kEng p e) (fun x => { x with cred := x.cred - 1 })) else none
      | .vt p v => if 0 < (s.vt (kVt p v)).cred then
          some ((s.qUse (queuePool u) 1).updVt (kVt p v) (fun x => { x with cred := x.cred - 1 })) else none
      | .st _ _ => none)
  | 11, some u => (match ukind u, routerUnit f.src with
    | .st p t, some w =>
      if s.issuer w = kSt p t ∧ 0 < (s.tile (kSt p t)).evCred ∧ !(s.pool (eventPool (kSt p t))).resolving then
        some ((s.qUse (eventPool (kSt p t)) 1).updSt (kSt p t) (fun x => { x with evCred := x.evCred - 1 })) else none
    | _, _ => none)
  | 12, some u => (match ukind u with
    | .vt p v =>
      let id := streamPool (kVt p v) (f.group / 1024)
      if 0 < Map.get 128 (s.vt (kVt p v)).scCred (f.group / 1024) ∧ !(s.pool id).resolving then
        some ((s.qUse id 1).updVt (kVt p v) (fun x => { x with scCred := Map.upd 128 (f.group / 1024) (fun n => n - 1) x.scCred })) else none
    | _ => some s)
  | _, _ => some s

/-- The credit a CMD, EVENT or STREAM flit has taken goes back when the flit is dropped (R111). -/
def State.returnQueue (s : State) (f : Flit) : State :=
  match f.kind, routerUnit f.dst with
  | 10, some u => (match ukind u with
    | .eng p e => (s.qFree (queuePool u) 1).updEng (kEng p e) (fun x => { x with cred := x.cred + 1 })
    | .vt p v => (s.qFree (queuePool u) 1).updVt (kVt p v) (fun x => { x with cred := x.cred + 1 })
    | .st _ _ => s)
  | 11, some u => (match ukind u with
    | .st p t => (s.qFree (eventPool (kSt p t)) 1).updSt (kSt p t) (fun x => { x with evCred := x.evCred + 1 })
    | _ => s)
  | 12, some u => (match ukind u with
    | .vt p v => (s.qFree (streamPool (kVt p v) (f.group / 1024)) 1).updVt (kVt p v) (fun x => { x with
        scCred := Map.upd 128 (f.group / 1024) (fun n => n + 1) x.scCred })
    | _ => s)
  | _, _ => s

/-- A flit at an endpoint is dropped: counted, and its queue credit goes back (R111). -/
def State.dropAt (s : State) (r : Nat) (f : Flit) : State := (s.countDrop r).returnQueue f

/-- The last flit of a STREAM transfer advances the counter its GROUP names, when CNT_EN is set (Table 5.2). -/
def State.streamCnt (s : State) (u : Nat) (f : Flit) : State :=
  if f.tail && f.last && has f.group 9 then s.advCnt u (nbits f.group 8 6) else s

/-- In a composition with TESSEL_COMPAT a request into a domain that is reset is answered at once: RD_RSP with POISON, or WR_ACK with status
PARTITION_RESET, which the model lays in the low 16 bits of the payload (R404, assumption 228). -/
def State.fencedAnswer (s : State) (r : Nat) (f : Flit) : State :=
  let g : Flit := { Flit.zero with
    dst := f.src, src := r, vc := 1, kind := if f.kind = 0 then 2 else 3, group := f.group, xid := f.xid, tail := true, last := true,
    poison := decide (f.kind = 0), payload := if f.kind = 0 then 0 else 0x0201 }
  let g := s.stamp r g
  if (s.pool (s.poolOf r 0 g)).ready then s.sendOn (s.poolOf r 0 g) g else s.updRouter r (fun x => { x with outq := x.outq ++ [g] })

/-- Whether a flit is such an answer (R404). -/
def State.isFenced (s : State) (u : Nat) (f : Flit) : Bool :=
  (s.comp (s.cidOf u)).tessel && (decide (f.kind = 2) && f.poison && !s.portOpen f.src || decide (f.kind = 3 ∧ nbits f.payload.toNat 15 0 = 0x0201))

/-- A flit reaches the endpoint of router r (R110, R111, R117). Its slot has been freed by the caller. The payload of a request, a read response
or a notice has no layout in the spec: their effects are the commands of the controllers, the DMA units and the cores (assumption 43). -/
def State.deliver (s : State) (r : Nat) (f : Flit) : State :=
  match routerUnit r with
  | none => s
  | some u =>
    if !s.portOpen r then
      (if f.kind ≤ 1 ∧ (s.comp (s.ctx f.xid).cid).tessel = true then s.fencedAnswer r f else s.dropAt r f)
    else if (f.kind = 2 ∨ f.kind = 3 ∨ f.kind = 11) ∧ s.genChecked u ∧ f.gen ≠ (s.unit u).gen then s.dropAt r f
    else if (f.kind = 10 ∨ f.kind = 11 ∨ f.kind = 12) ∧ !s.holdsXid u f.xid then (s.dropAt r f).stray u f.src
    else
      let s := if s.isFenced u f then (match s.workOn u with | none => s | some w => s.finishWork w 0x0201)
        else if f.poison ∧ f.kind ≠ 3 then s.poisonWork u else s
      match f.kind, ukind u with
      | 3, .eng p e => s.updEng (kEng p e) (fun x => { x with dma := { x.dma with exe := x.dma.exe.map (fun g =>
          if cOp g.cmd = 5 ∧ 0 < g.acks then { g with acks := g.acks - 1, fin := decide (g.acks ≤ 1) } else g) } })
      | 10, .eng p e => s.updEng (kEng p e) (fun x => { x with queue := x.queue ++ [f.payload] })
      | 10, .vt p v => s.updVt (kVt p v) (fun x => { x with queue := x.queue ++ [f.payload] })
      | 11, .st p t => s.updSt (kSt p t) (fun x => { x with evq := x.evq ++ [f.payload.extractLsb' 0 128] })
      | 12, .vt p v => (s.updVt (kVt p v) (fun x => { x with
          sc := Map.upd [] (f.group / 1024) (fun l => l ++ [f.payload]) x.sc })).streamCnt u f
      | 12, .eng _ _ => s.streamCnt u f
      | _, _ => s

/-- A flit leaves for its endpoint on an I/O die. One whose address names none of the endpoints of R105 reaches nothing and is counted
(assumption 43). -/
def State.ioDeliver (s : State) (r : Nat) (f : Flit) : State :=
  match ioEndOf f.dst with
  | none => s.countDrop r
  | some _ => s.emit (.ioFlit (f.dst / 1024 % 4) f)

/-! ## Routing (R112, R113) -/

/-- The flit as it leaves router r, and the port it leaves by: 0 is the local port. LEG becomes 1 at the waypoint. -/
def routeAt (r : Nat) (f : Flit) : Flit × Nat :=
  let f := if !f.leg && f.wpt == r then { f with leg := true } else f
  if !f.leg then (f, stepTo r f.wpt)
  else
    let t := destRouter r f.dst
    (f, if 4096 ≤ f.dst ∧ r = t then ioPort (f.dst / 1024 % 4) else stepTo r t)

/-- Whether output o of router r can take a flit of an input for a VC now: the link is free for its packet, the port is not fenced, the crossing
on the way takes it, and the pool beyond has a credit (R107, R110, R131). -/
def State.mayGo (s : State) (r o id q : Nat) (f : Flit) : Bool :=
  (s.router r).linkFree o f.vc id && !has (s.router r).fenced o && s.xingWritable (linkXing r o) && (s.pool q).ready &&
    (match neighbor r o with | none => s.xingOpen (linkXing r o) | some n => s.routerOn n)

/-- The pool beyond output o of router r for a flit: of the next router, or of the adapter at the edge of the mesh. -/
def State.beyond (s : State) (r o : Nat) (f : Flit) : Nat :=
  match neighbor r o with
  | some n => s.poolOf n (facing o) f
  | none => adapterPool r o f.vc (b2n f.leg)

/-- A flit goes out by output o: to the next router, or through the adapter to the I/O die. -/
def State.goOut (s : State) (r o id : Nat) (f : Flit) : State :=
  let q := s.beyond r o f
  let s := s.usedLink r o id f
  match neighbor r o with
  | some _ => s.sendOn q f
  | none => ((((s.cross (linkXing r o)).sendOn q f).landOn q f).freeOn q).ioDeliver r f

/-- A flit held at an input of router r moves on: it is delivered, leaves for an I/O die, or takes a credit of the next router.
Answers whether it moved. -/
def State.moveOn (s : State) (r id : Nat) (f : Flit) : Bool × State :=
  let t := routeAt r f
  if t.2 = 0 then
    if (s.router r).linkFree 0 f.vc id && s.xingOpen (localXing r) then
      (true, (((s.freeOn id).cross (localXing r)).usedLink r 0 id t.1).deliver r t.1)
    else (false, s)
  else if s.mayGo r t.2 id (s.beyond r t.2 t.1) t.1 then (true, (s.freeOn id).goOut r t.2 id t.1) else (false, s)

/-- A churn flit at a router whose entry has one input goes on unchanged (R124). -/
def State.moveChurn (s : State) (r id : Nat) (e : CEnt) (f : Flit) : Bool × State :=
  match (List.range 5).find? (has e.outMask) with
  | none => (true, s.dropFlit r id)
  | some 0 =>
    if (s.router r).linkFree 0 f.vc id && s.xingOpen (localXing r) then
      (true, (((s.freeOn id).cross (localXing r)).usedLink r 0 id f).churnRoot r e f)
    else (false, s)
  | some o =>
    match neighbor r o with
    | none => (true, s.dropFlit r id)
    | some _ => if s.mayGo r o id (s.beyond r o f) f then (true, (s.freeOn id).goOut r o id f) else (false, s)

/-- VC of a KIND (Table 5.3); AUDIT has that of its pool. -/
def kindVc (k vc : Nat) : Option Nat :=
  match k with
  | 0 => some 0 | 1 => some 0 | 2 => some 1 | 3 => some 1 | 4 => some 2 | 5 => some 2 | 6 => some 3 | 7 => some 3 | 8 => some vc
  | 9 => some 3 | 10 => some 0 | 11 => some 1 | 12 => some 0 | _ => none

/-- The entry of a router that a collective flit follows. -/
def State.entryOf (s : State) (r : Nat) (f : Flit) : Option CEnt :=
  (s.router r).entry (s.ctx f.xid).cid f.group (f.kind == 5)

/-- An AUDIT flit has landed: its slot is freed, and the receiver checks Rx = S and answers with Cs (R129). -/
def State.auditLand (s : State) (id : Nat) : State :=
  (s.freeOn id).updPool id (fun p => match p.audit with
    | none => p
    | some v => if p.rx = v then { p with audit := none, answer := some p.cs } else { p with audit := none, resolving := true })

/-- A flit has landed in its slot at a port of router r: it is dropped, moves on, or waits (R110-R114, R123-R125). A flit of a collective waits at
an input that its entry does not name (assumption 172). -/
def State.takeFlit (s : State) (r port id : Nat) (f : Flit) : State :=
  let f := if f.parityBad = 0 then f else { f with poison := true, parityBad := 0 }
  let wait (s : State) : State := s.updRouter r (fun x => { x with inq := x.inq ++ [⟨port, id, f⟩] })
  if f.eccBad ∨ kindVc f.kind f.vc ≠ some f.vc then (s.dropFlit r id).returnQueue f
  else if f.kind = 8 then s.auditLand id
  else if f.kind = 4 then
    (match s.entryOf r f with
     | none => s.dropFlit r id
     | some _ => wait s)
  else if f.kind = 5 then
    (match s.entryOf r f with
     | none => s.dropFlit r id
     | some e =>
       if popCount 5 e.inMask = 1 ∧ has e.inMask port ∧ !(s.router r).inq.any (fun x => x.pool == id) then
         (let t := s.moveChurn r id e f; if t.1 then t.2 else wait s)
       else wait s)
  else if (s.router r).inq.any (fun x => x.pool == id) then wait s
  else (let t := s.moveOn r id f; if t.1 then t.2 else wait s)

/-- The flits that stand first in their input buffers. -/
def firstHeld (seen : List Nat) (l : List Held) : List Held :=
  match l with
  | [] => []
  | x :: r => if seen.contains x.pool then firstHeld seen r else x :: firstHeld (x.pool :: seen) r

/-- The output port a waiting flit asks for. -/
def State.wants (s : State) (r : Nat) (x : Held) : Nat :=
  if x.flit.kind = 5 then
    match s.entryOf r x.flit with
    | none => 0
    | some e => ((List.range 5).find? (has e.outMask)).getD 0
  else (routeAt r x.flit).2

/-- The order of a VC at an output that has served `last` latest: VC3 first, then VC0 to VC2 round robin (R110). -/
def vcRank (last vc : Nat) : Nat := if vc = 3 then 0 else 1 + (vc + 2 - last) % 3

/-- A waiting flit moves on, if it can. Pour flits and the flits of a churn node wait for their own commands. -/
def State.moveHeld (s : State) (r : Nat) (x : Held) : Bool × State :=
  if x.flit.kind = 4 then (false, s)
  else if x.flit.kind = 5 then
    (match s.entryOf r x.flit with
     | none => (true, s.dropFlit r x.pool)
     | some e => if popCount 5 e.inMask = 1 ∧ has e.inMask x.port then s.moveChurn r x.pool e x.flit else (false, s))
  else s.moveOn r x.pool x.flit

/-- The waiting flits of a router that now can go on, one at a time in the order of R110. -/
def State.drainRouter (s : State) (r fuel : Nat) : State :=
  match fuel with
  | 0 => s
  | n + 1 =>
    let hs := firstHeld [] (s.router r).inq
    let order := (List.range 4).flatMap (fun k =>
      hs.filter (fun x => vcRank (Map.get 2 (s.router r).rr (s.wants r x)) x.flit.vc == k))
    match order.find? (fun x => (s.moveHeld r x).1) with
    | none => s
    | some x => State.drainRouter ((s.moveHeld r x).2.updRouter r (fun y => { y with inq := y.inq.erase x })) r n

/-- The flits an endpoint holds go out while the local port takes them, those of one VC in order. -/
def State.drainOut (s : State) (r fuel : Nat) (seen : List Nat) (l : List Flit) : State :=
  match fuel, l with
  | 0, _ => s
  | _, [] => s
  | n + 1, f :: rest =>
    if !seen.contains f.vc && s.mayInject r f then
      State.drainOut ((s.sendOn (s.poolOf r 0 f) f).updRouter r (fun y => { y with outq := y.outq.erase f })) r n seen rest
    else State.drainOut s r n (f.vc :: seen) rest

/-! ## NSEND (R123, R124) -/

/-- The flits of a transfer: packets of at most eight, the last marked LAST. -/
def transferFlits (f : Flit) (bs : List Byte) : List Flit :=
  let n := ceilDiv bs.length 64
  (pieces n 64 bs).zipIdx.map (fun e =>
    { f with fidx := e.2 % 8, tail := decide (e.2 % 8 = 7 ∨ e.2 + 1 = n), last := decide (e.2 / 8 = (n - 1) / 8), payload := bytesLine e.1 })

end Sys2Proof.Machine
end

