-- ==== Sys2Proof/Machine/Queues.lean ====
section
/-!
DEFINITION. Command and launch queues: the checks of a command (R62-R69, R145, R242), completion, refusal, and the queue head (R58
to R61, R69, R91).
-/

namespace Sys2Proof.Machine

/-! ## Completion (R58, R60, R70, R91) -/

/-- A queue credit goes back to the issuer. -/
def State.creditBack (s : State) (u : Nat) : State :=
  let s := s.qFree (queuePool u) 1
  match ukind u with
  | .eng p e => s.updEng (kEng p e) (fun x => { x with cred := x.cred + 1 })
  | .vt p v => s.updVt (kVt p v) (fun x => { x with cred := x.cred + 1 })
  | .st _ _ => s

/-- A completion record (Table 3.9). -/
def doneRec (c : Cmd) (code : Nat) (fl : Byte) (amax : Word32) : BitVec 128 :=
  BitVec.ofNat 128 (cTag c + fld 16 (cOp c) + fld 24 fl.toNat + fld 32 code + fld 64 amax.toNat)

/-- Posts a completion record: with a posting credit it goes to the event queue and the queue credit returns; without one the unit
holds it (R91). -/
def State.post (s : State) (u : Nat) (r : BitVec 128) : State :=
  let k := s.issuer u
  if 0 < (s.tile k).evCred ∧ !(s.pool (eventPool k)).resolving then (s.pushEvent k r).creditBack u
  else match ukind u with
    | .eng p e => s.updEng (kEng p e) (fun x => { x with posts := x.posts ++ [r] })
    | .vt p v => s.updVt (kVt p v) (fun x => { x with posts := x.posts ++ [r] })
    | .st _ _ => s

/-- A command completes with an error code, 0 for none (R60, R69). A refused command advances no counter; a flushed one completes
and does (assumption 27). -/
def State.complete (s : State) (u : Nat) (c : Cmd) (code : Nat) (fl : Byte) (amax : Word32) : State :=
  let s := s.updSt (s.issuer u) (fun t => { t with completed := t.completed + 1 })
  let s := if cCntEn c ∧ (code = 0 ∨ code = 0xF) then s.advCnt u (cCnt c) else s
  if cEvent c ∨ code ≠ 0 then s.post u (doneRec c code fl amax) else s.creditBack u

/-- A posting credit has come back to tile k: the first record held for it is posted (R91). -/
def State.repost (s : State) (k : Nat) : State :=
  let us := unitsOf (k / 4)
  match us.find? (fun u => decide (s.issuer u = k) && (match ukind u with
      | .eng p e => !(s.engine (kEng p e)).posts.isEmpty
      | .vt p v => !(s.vt (kVt p v)).posts.isEmpty
      | .st _ _ => false)) with
  | none => s
  | some u =>
    match ukind u with
    | .eng p e =>
      let r := nth 0 (s.engine (kEng p e)).posts 0
      (s.updEng (kEng p e) (fun x => { x with posts := x.posts.drop 1 })).post u r
    | .vt p v =>
      let r := nth 0 (s.vt (kVt p v)).posts 0
      (s.updVt (kVt p v) (fun x => { x with posts := x.posts.drop 1 })).post u r
    | .st _ _ => s

/-! ## Footprint (R242) -/

/-- Length of the valid entries of a live map. -/
def lmapBytes (m : Map LiveEnt) : Nat := m.foldl (fun a e => if e.2.valid then a + e.2.len else a) 0

/-- Whether a slot counts as live by queue order (R69). -/
def Engine.slotLive (e : Engine) (i : Nat) : Bool := if has e.qSeen i then has e.qLive i else has e.live i

/-- Live slots of an engine. -/
def Engine.liveSlots (e : Engine) : Nat := ((List.range 32).filter e.slotLive).length

/-- The footprint of the running context on a partition. -/
def State.footprint (s : State) (p : Nat) : Nat :=
  0x100000 +
  ((s.part p).meMap.map (fun e => let x := s.engine (kEng p e); lmapBytes x.lmap + 0x4000 * x.liveSlots)).sum +
  ((s.part p).vtMap.map (fun v => lmapBytes (s.vt (kVt p v)).lmap)).sum +
  ((List.range 4).map (fun t => lmapBytes (s.tile (kSt p t)).lmap)).sum

/-- The class cap of the context running on a unit. -/
def State.classCap (s : State) (u : Nat) : Nat :=
  let c := s.comp (s.cidOf u)
  1024 * (if (s.ctx (s.unit u).xid).skim then c.skimKib else c.creamKib)

/-- Whether growth by some bytes takes the footprint above the cap. -/
def State.overCap (s : State) (u old new : Nat) : Bool :=
  decide (old < new ∧ s.classCap u < s.footprint (ukind u).part + new - old)

/-- Footprint growth of a LIVE command over a live map (R242). -/
def State.liveOver (s : State) (u : Nat) (m : Map LiveEnt) (c : Cmd) : Bool :=
  let o := Map.get {} m (liveEntry c)
  let n := liveOf c
  s.overCap u (if o.valid then o.len else 0) (if n.valid then n.len else 0)

/-! ## Checks of an engine command (R69, Table 3.8) -/

/-- Whether the bits of a command outside some ranges are all zero (R62). -/
def onlyBits (c : Cmd) (l : List (Nat × Nat)) : Bool :=
  decide (c &&& ~~~ BitVec.ofNat 512 (l.foldl (fun m e => m ||| ((2 ^ (e.1 + 1 - e.2) - 1) <<< e.2)) 0) = 0)

/-- The common bits every command uses (Table 3.2); CNT only with CNT_EN. -/
def commonBits (c : Cmd) : List (Nat × Nat) := [(63, 48), (12, 8), (7, 0)] ++ (if cCntEn c then [(15, 13)] else [])

/-- The bits that a command's opcode and settings use (R62-R66): RND and OVF only where the output is converted (Table 2.6), BASE and LEN only
of a LIVE that sets VALID. -/
def usedBits (c : Cmd) : List (Nat × Nat) :=
  commonBits c ++
  match cOp c with
  | 1 =>
    let a := mmaOf c
    [(47, 32), (30, 16), wbits 1 22 0, wbits 1 54 32, wbits 2 22 0, wbits 2 54 32] ++
    (if isMX a.fa then [wbits 3 22 0, wbits 3 54 32] else []) ++
    (if isMX a.fb then [wbits 4 22 0, wbits 4 54 32] else []) ++
    (if a.sparse then [wbits 5 22 0, wbits 5 54 32] else [])
  | 2 =>
    let e := epiOf c
    [(34, 27), (23, 16), wbits 1 63 0, wbits 2 31 0] ++
    (if e.fo = 0 then [] else [(25, 24)]) ++
    (if isMX e.fo then [(26, 26)] else []) ++
    (if e.stream then [wbits 3 4 0] else [wbits 3 22 0, wbits 3 54 32]) ++
    (if !e.stream && isMX e.fo then [wbits 4 22 0, wbits 4 54 32] else []) ++
    (if e.bias then [wbits 5 22 0] else []) ++
    (if e.resid then [(38, 35), wbits 5 54 32, wbits 6 22 0] else []) ++
    (if e.act = 4 then [wbits 7 63 0] else [])
  | 3 => [(20, 16), wbits 1 22 0, wbits 1 54 32]
  | 4 =>
    [(47, 32), (18, 16), wbits 1 63 0, wbits 2 22 0, wbits 4 23 0] ++
    (if bits c 47 32 = 0 then [] else [wbits 2 54 32, wbits 3 63 0])
  | 5 => [(27, 16), wbits 2 22 0, wbits 2 54 32]
  | 6 => [(18, 16), wbits 1 31 0]
  | 7 => [(20, 16)] ++ if (liveOf c).valid then [wbits 1 22 0, wbits 1 54 32] else []
  | _ => []

/-- Fields of an ENGINE record (Table 6.6). -/
def recCaps (cfg : BitVec 128) : Nat := bits cfg 15 8
def recFmtA (cfg : BitVec 128) : Nat := bits cfg 31 16
def recFmtB (cfg : BitVec 128) : Nat := bits cfg 47 32
def recFmtOut (cfg : BitVec 128) : Nat := bits cfg 63 48
def recAct (cfg : BitVec 128) : Nat := bits cfg 71 64
def recKm1 (cfg : BitVec 128) : Nat := bits cfg 95 80

/-- What the culture defines for an NSEND of a unit (R66, R149, R150): some true for a churn leaf, some false for a pour source. -/
def State.sendGroup (s : State) (u g : Nat) : Option Bool :=
  let fr := (s.comp (s.cidOf u)).framesAt (s.part (ukind u).part).lp
  let l := (s.lrefOf u).getD 0xFFFF
  match findFrm fr 6 g with
  | some f => if fle f.body 0 2 = l then some false else none
  | none =>
    match findFrm fr 7 g with
    | some f => if (List.range (fle f.body 8 2)).any (fun i => fle f.body (16 + 2 * i) 2 == l) then some true else none
    | none => none

/-- The channel of a vector tile that is bound to a logical engine (R85). -/
def VTile.chanOf (t : VTile) (idx : Nat) : Option Nat :=
  if t.loaded then (List.range 4).find? (fun c => vtChan t.cfg c == idx) else none

/-- The vector tile and channel an EPI with DEST = 1 delivers to (R65, R85). -/
def State.streamPort (s : State) (p e : Nat) (c : Cmd) : Option (Nat × Nat) :=
  match (s.part p).logEng e, (s.part p).vtMap[(epiOf c).out % 32]? with
  | some i, some v => ((s.vt (kVt p v)).chanOf i).map (fun ch => (v, ch))
  | _, _ => none

/-- The lowest code of Table 3.8 among the checks an engine command fails; 0 for none. -/
def State.engCode (s : State) (p e : Nat) (c : Cmd) : Nat :=
  let x := s.engine (kEng p e)
  let u := uEng p e
  let cfg := x.cfg
  let op := cOp c
  let a := mmaOf c
  let v := epiOf c
  let d := dmaDesc c
  let mma := op == 1
  let epi := op == 2
  let dma := op == 4
  let np := (s.unit u).npUs
  let al (n : Nat) : Bool := decide (n % 64 ≠ 0)
  let badOp := decide (7 < op) || dma && decide (4 < d.op) ||
    epi && (decide (4 < v.act) || v.resid && decide (1 < v.resFmt) || !has (recAct cfg) v.act || v.stream && !has (recCaps cfg) 1 ||
      v.bias && !has (recCaps cfg) 3 || v.resid && !has (recCaps cfg) 4) ||
    isAtomic c && !has (recCaps cfg) 2 || (isAtomic c || s.npSend u c) && decide (np = 0)
  let format :=
    mma && (decide (10 < a.fa ∨ a.fa = 0 ∨ 10 < a.fb ∨ a.fb = 0) || !pairOk a.fa a.fb || !has (recFmtA cfg) a.fa ||
      !has (recFmtB cfg) a.fb) ||
    epi && (decide (10 < v.fo) || !has (recFmtOut cfg) v.fo)
  let sparse := mma && a.sparse && (!in8Group a.fa || !in8Group a.fb || !has (recCaps cfg) 0)
  let align :=
    mma && (al a.aBase || al a.aStride || al a.bBase || al a.bStride || decide (a.metaB % 4 ≠ 0 ∨ a.metaStride % 4 ≠ 0) ||
      decide (a.aStride < rowBytes a.fa a.k ∨ a.bStride < rowBytes a.fb a.kb)) ||
    epi && (!v.stream && (al v.out || al v.outStride || decide (v.outStride < rowBytes v.fo 64)) ||
      !v.stream && isMX v.fo && decide (v.osStride < 2) ||
      v.resid && (al v.resBase || al v.resStride || decide (v.resStride < if v.resFmt = 0 then 256 else 128))) ||
    op == 3 && (al (ldSrc c) || al (ldStride c) || decide (ldStride c < 256)) ||
    dma && (al d.sp || al d.spStride ||
      (if d.op ≤ 1 then al d.va || al d.vaStride || al d.rowBytes
       else decide (d.va % atomSize d.op ≠ 0 ∨ d.vaStride % atomSize d.op ≠ 0 ∨ d.rowBytes % atomSize d.op ≠ 0)) ||
      decide (1 < d.rows ∧ (d.spStride < d.rowBytes ∨ d.vaStride < d.rowBytes))) ||
    op == 5 && (al (nsBase c) || al (nsLen c)) ||
    op == 7 && (al (liveOf c).base || al (liveOf c).len)
  let newSlot := if mma then some a.slot else if op == 3 then some (ldSlot c) else none
  let range :=
    (spans c).any (fun y => decide (0x600000 < y.stop)) ||
    op == 7 && decide (0x600000 < (liveOf c).base + (liveOf c).len) ||
    isAtomic c && decide (1 < d.rows ∨ 4096 < d.rowBytes) ||
    op == 5 && (s.comp (s.cidOf u)).spanning (nsGroup c) && decide (0x40000 < nsLen c) ||
    op == 7 && s.liveOver u x.lmap c ||
    (match newSlot with | none => false | some i => !x.slotLive i && s.overCap u 0 0x4000)
  let kShape := mma && (decide (isMX a.fa ∨ isMX a.fb) && decide (a.k % 32 ≠ 0) || a.sparse && decide (a.k % 4 ≠ 0) ||
    decide (recKm1 cfg < a.k - 1))
  let group := op == 5 && (match s.sendGroup u (nsGroup c) with
    | none => true
    | some churn => !churn && (s.comp (s.cidOf u)).spanning (nsGroup c) && decide ((s.job (s.cidOf u)).rank ≠ 0))
  let stream := epi && v.stream && (s.streamPort p e c).isNone
  match [(0x1, badOp), (0x2, !onlyBits c (usedBits c)), (0x3, format), (0x4, sparse), (0x5, align), (0x6, range), (0x7, kShape),
    (0x8, epi && !x.slotLive v.slot), (0x9, group), (0xA, stream)].find? (fun r => r.2) with
  | none => 0
  | some r => r.1

/-! ## Checks of a launch-queue entry (R84) -/

/-- The lowest code of Table 3.8 among the checks a launch-queue entry fails. -/
def State.vtCode (s : State) (p v : Nat) (c : Cmd) : Nat :=
  let t := s.vt (kVt p v)
  let op := cOp c
  let used := match op with
    | 0x10 => commonBits c ++ [(47, 32), (511, 64)]
    | _ => usedBits c
  let badOp := !(op == 0 || op == 6 || op == 7 || op == 0x10) || op == 0x10 && (!t.loaded || vtImage t.cfg == 0xFFFF)
  match [(0x1, badOp), (0x2, !onlyBits c used || decide (bits c 11 9 ≠ 0)),
    (0x5, op == 7 && decide ((liveOf c).base % 64 ≠ 0 ∨ (liveOf c).len % 64 ≠ 0)),
    (0x6, op == 7 && (decide (0x200000 < (liveOf c).base + (liveOf c).len) || s.liveOver (uVt p v) t.lmap c))].find?
      (fun r => r.2) with
  | none => 0
  | some r => r.1

/-! ## The queue head (R59, R69) -/

/-- The entry at the head of a running unit's queue that may leave: the unit runs, its queue is not halted, and a vector tile runs no
launch. -/
def State.headCmd (s : State) (u : Nat) : Option Cmd :=
  if (s.unit u).st ≠ .run then none
  else match ukind u with
    | .eng p e => let x := s.engine (kEng p e); if x.halted then none else x.queue.head?
    | .vt p v => let x := s.vt (kVt p v); if x.halted ∨ x.launch.isSome then none else x.queue.head?
    | .st _ _ => none

/-- The head leaves the queue. -/
def State.popHead (s : State) (u : Nat) : State :=
  match ukind u with
  | .eng p e => s.updEng (kEng p e) (fun x => { x with queue := x.queue.drop 1 })
  | .vt p v => s.updVt (kVt p v) (fun x => { x with queue := x.queue.drop 1 })
  | .st _ _ => s

/-- A counter of a unit. -/
def State.cntOf (s : State) (u i : Nat) : Word32 :=
  match ukind u with
  | .eng p e => Map.get 0 (s.engine (kEng p e)).cnt i
  | .vt p v => Map.get 0 (s.vt (kVt p v)).cnt i
  | .st _ _ => 0

/-- A refusal is captured with its PC and halts the queue; only the first is captured (R69, Tables 3.17, 4.15). -/
def State.capture (s : State) (u : Nat) (c : Cmd) (code pc : Nat) : State :=
  let w := BitVec.ofNat 64 (fld 48 (cTag c) + fld 40 (cOp c) + fld 36 code + fld 16 pc)
  match ukind u with
  | .eng p e => s.updEng (kEng p e) (fun x => { x with halted := true, cmdErr := if x.halted then x.cmdErr else w })
  | .vt p v => s.updVt (kVt p v) (fun x => { x with halted := true, cmdErr := if x.halted then x.cmdErr else w })
  | .st _ _ => s

/-- A refused entry is captured and completes at once with its code (R69). -/
def State.refuse (s : State) (u : Nat) (c : Cmd) (code pc : Nat) : State := (s.capture u c code pc).complete u c code 0 0

/-- Writes a live-map entry (R57, R84). -/
def State.setLive (s : State) (u : Nat) (c : Cmd) : State :=
  match ukind u with
  | .eng p e => s.updEng (kEng p e) (fun x => { x with lmap := Map.set {} (liveEntry c) (liveOf c) x.lmap })
  | .vt p v => s.updVt (kVt p v) (fun x => { x with lmap := Map.set {} (liveEntry c) (liveOf c) x.lmap })
  | .st _ _ => s

end Sys2Proof.Machine
end

