-- ==== Sys2Proof/Machine/SaveBytes.lean ====
section
/-!
DEFINITION. The bytes of the state records of units, as Tables 3.12, 4.11 and 4.12 lay them out, and as the save area holds them:
enciphered under the keyslot of their context (R72, R99 to R101, R243).
-/

namespace Sys2Proof.Machine

/-- A live map: sixteen entries of eight bytes, base in bits 22:0 and length in bits 54:32 (Table 3.12). -/
def lmapRec (m : Map LiveEnt) : List Byte :=
  (List.range 16).flatMap (fun i =>
    let e := Map.get {} m i
    leBytes (if e.valid then e.base + fld 32 e.len else 0) 8)

/-- LIVE_MASK: bit n is 1 when entry n is valid. -/
def liveMask (m : Map LiveEnt) : Nat :=
  (List.range 16).foldl (fun a i => if (Map.get {} m i).valid then setBit a i else a) 0

/-- The bytes of the live ranges, in entry order. -/
def liveRec (m : Map LiveEnt) (b : Bytes) : List Byte :=
  (List.range 16).flatMap (fun i => let e := Map.get {} m i; if e.valid then b.rdN e.base e.len else [])

/-- A word from each of n keys. -/
def wordsRec {w : Nat} (n k : Nat) (m : Map (BitVec w)) : List Byte :=
  (List.range n).flatMap (fun i => leBytes (Map.get 0 m i).toNat k)

/-- A record with its length in bytes 8 to 15, made up with zeros to a multiple of 64. -/
def sealRec (head tail : List Byte) : List Byte :=
  let n := 64 * ceilDiv (head.length + 8 + tail.length) 64
  head ++ leBytes n 8 ++ tail ++ List.replicate (n - (head.length + 8 + tail.length)) 0

/-- The commands an engine's record holds, dispatched ones first in queue order. -/
def EngSave.cmds (r : EngSave) : List Cmd :=
  let l := [r.arrRun, r.epiRun, r.dmaRun].filterMap id
  let first := l.filter (fun a => l.all (fun b => decide (a.seq ≤ b.seq)))
  let last := l.filter (fun a => l.all (fun b => decide (b.seq ≤ a.seq)) && !l.all (fun b => decide (a.seq ≤ b.seq)))
  let mid := l.filter (fun a => !l.all (fun b => decide (a.seq ≤ b.seq)) && !l.all (fun b => decide (b.seq ≤ a.seq)))
  (first ++ mid ++ last).map (fun r => r.cmd) ++ r.queue

/-- An engine state record (Table 3.12). -/
def EngSave.bytes (r : EngSave) (idx xid : Nat) : List Byte :=
  let done (x : Option Run) : Nat := match x with | none => 0 | some y => y.done
  let fl (x : Option Run) : Nat := match x with | none => 0 | some y => y.flags.toNat
  let slots := (List.range 32).filter (fun i => has r.slotMask i)
  sealRec (leBytes 1 2 ++ leBytes idx 1 ++ leBytes (b2n r.halted) 1 ++ leBytes (xid % 4096) 2 ++ leBytes 0 2)
    (leBytes r.slotMask 4 ++ leBytes (liveMask r.lmap) 2 ++ leBytes r.cmds.length 1 ++ leBytes 0 1 ++ wordsRec 8 4 r.cnt ++
     leBytes (match r.epiRun with | none => 0 | some y => y.amax.toNat) 4 ++
     leBytes (fl r.arrRun + fld 8 (fl r.epiRun) + fld 16 (fl r.dmaRun)) 4 ++
     leBytes (done r.arrRun) 8 ++ leBytes (done r.epiRun) 8 ++ leBytes (done r.dmaRun) 8 ++ lmapRec r.lmap ++
     leBytes r.cmdErr.toNat 8 ++ leBytes 0 32 ++ r.cmds.flatMap (fun c => leBytes c.toNat 64) ++
     slots.flatMap (fun i => (List.range 4096).flatMap (fun n => leBytes (Map.get 0 r.slots (4096 * i + n)).toNat 4)) ++
     liveRec r.lmap r.live)

/-- A vector tile state record (Table 4.11). The running launch is the first of its uncompleted entries. -/
def VtSave.bytes (r : VtSave) (idx xid : Nat) : List Byte :=
  let q := (match r.launch with | none => [] | some l => [l.cmd]) ++ r.queue
  let fl := match r.launch with | none => 0 | some l => l.flags.toNat
  let chans := (List.range 4).map (fun c => Map.get [] r.sc c)
  sealRec (leBytes 1 2 ++ leBytes idx 1 ++ leBytes (b2n r.halted + 2 * b2n r.launch.isSome) 1 ++ leBytes (xid % 4096) 2 ++ leBytes r.pc 2)
    (leBytes q.length 1 ++ leBytes fl 1 ++ leBytes (liveMask r.lmap) 2 ++ chans.flatMap (fun l => leBytes l.length 1) ++
     wordsRec 8 4 r.cnt ++ leBytes r.cmdErr.toNat 8 ++ wordsRec 16 8 r.a ++ wordsRec 8 16 r.m ++ lmapRec r.lmap ++ leBytes 0 64 ++
     wordsRec 32 512 r.v ++ q.flatMap (fun c => leBytes c.toNat 64) ++ chans.flatMap (fun l => l.flatMap (fun f => leBytes f.toNat 64)) ++
     liveRec r.lmap r.live)

/-- A scalar tile state record (Table 4.12): x1 to x31, f0 to f31, and one byte of credits for each issued unit. -/
def StSave.bytes (r : StSave) (idx xid : Nat) : List Byte :=
  sealRec (leBytes 1 2 ++ leBytes idx 1 ++ leBytes (b2n r.trapped) 1 ++ leBytes (xid % 4096) 2 ++ leBytes r.evq.length 2)
    (leBytes r.pc.toNat 8 ++ leBytes r.arrived 4 ++ leBytes r.fcsr.toNat 4 ++ (wordsRec 32 8 r.x).drop 8 ++ wordsRec 32 8 r.f ++
     leBytes r.kpst.toNat 8 ++ (List.range 64).flatMap (fun i => leBytes (nth 0 r.creds i) 1) ++ lmapRec r.lmap ++ leBytes 0 32 ++
     r.evq.flatMap (fun e => leBytes e.toNat 16) ++ liveRec r.lmap r.live)

/-- The record of the unit with logical reference `lref`, in a context's save area. -/
def Save.bytes (r : Save) (lref xid : Nat) : List Byte :=
  match r with
  | .none => []
  | .eng r => r.bytes (lrefIdx lref) xid
  | .vt r => r.bytes (lrefIdx lref) xid
  | .st r => r.bytes (lrefIdx lref) xid

/-- The SAVE traffic of a record of n bytes with the memory of partition p: its sectors lie across the eight channels in turn (R203,
assumption 191). -/
def State.saveTraffic (s : State) (p n : Nat) (wr : Bool) : State :=
  s.each (List.range 8) (fun s k => s.updChan (8 * p + k) (fun c =>
    let b := 64 * ((n / 64 + 7 - k) / 8)
    if wr then { c with wrBytes := bump c.wrBytes 4 b } else { c with rdBytes := bump c.rdBytes 4 b }))

/-- What the memory of a save area holds of a record: its sectors enciphered under the keyslot of the context, each at a tweak the area's
place gives it (assumption 78). -/
def State.savedCipher (s : State) (x lref : Nat) (tweak : Nat → BitVec 128) : List (BitVec 512) :=
  let b := (Map.get .none (s.ctx x).saved lref).bytes lref x
  let l := (pieces (b.length / 64 + 1) 64 b).map bytesLine
  l.zipIdx.map (fun e => Config.xtsCipher (s.kslot (s.ctx x).slot).key (tweak e.2) e.1)

end Sys2Proof.Machine
end

