-- ==== Sys2Proof/Machine/Engine.lean ====
section
/-!
DEFINITION. Commands of the matrix engine: its rows at the queue head, its three units, and its stop, save and restore (chapter
3).
-/

namespace Sys2Proof.Machine

/-! ## The array -/

/-- Cycles of a pass (Table 2.1): k-steps per cycle by the operand pair. -/
def mmaCycles (a : MmaArgs) : Nat :=
  if !in8Group a.fa then 4 * a.k
  else ceilDiv a.k ((if a.fa = 9 ∧ a.fb = 9 then 2 else 1) * (if a.sparse then 2 else 1))

/-- K-steps lo to hi − 1 of a pass over the 64 × 64 cells (R32, R40, R41, R64): the accumulator and the flags. -/
def mmaPass (sp : Bytes) (a : MmaArgs) (lo hi : Nat) (acc : Map Word32) : Map Word32 × Byte :=
  (List.range 4096).foldl (fun (r : Map Word32 × Byte) n =>
    let key := 4096 * a.slot + n
    let c := cellRun sp a (n / 64) (n % 64) lo hi (if a.zero ∧ lo = 0 then 0 else Map.get 0 r.1 key)
    (Map.set 0 key c.1 r.1, r.2 ||| c.2)) (acc, 0)

/-- Loads rows lo to hi − 1 of a slot (R66 ACCLD). -/
def ldSlots (sp : Bytes) (c : Cmd) (lo hi : Nat) (acc : Map Word32) : Map Word32 :=
  (List.range (64 * (hi - lo))).foldl (fun m i =>
    let n := 64 * lo + i
    Map.set 0 (4096 * ldSlot c + n) (BitVec.ofNat 32 (sp.rdLE (ldSrc c + n / 64 * ldStride c + 4 * (n % 64)) 4)) m) acc

/-- How far a command of the array has to go: K k-steps, or the 64 rows of an ACCLD. -/
def arrEnd (c : Cmd) : Nat := if cOp c = 1 then (mmaOf c).k else 64

/-- Cycles of the array up to a point of a command (Table 2.1; two cycles for each row of an ACCLD). -/
def arrCycles (c : Cmd) (n : Nat) : Nat := if cOp c = 1 then mmaCycles { mmaOf c with k := n } else 2 * n

/-- An MMA or ACCLD starts in the array. -/
def State.runArr (s : State) (p e : Nat) (r : Run) : State :=
  s.updEng (kEng p e) (fun x => { x with
    soft := if x.soft = .hold then .hold else .none, arr := { x.arr with exe := some { r with done := 0 } } })

/-- The array goes on with its command up to k-step or row n (R64, R66, R71): the slot becomes live. -/
def State.arrGo (s : State) (p e n : Nat) : State :=
  let k := kEng p e
  match (s.engine k).arr.exe with
  | none => s
  | some r =>
    let n := min n (arrEnd r.cmd)
    if r.fin ∨ n ≤ r.done then s
    else
      let s := s.blurAll k r
      let x := (s.unit (uEng p e)).xid
      let cyc := arrCycles r.cmd n - arrCycles r.cmd r.done
      let s := s.tcAdd x 0 cyc
      if cOp r.cmd = 1 then
        let a := mmaOf r.cmd
        let t := mmaPass (s.engine k).sp a r.done n (s.engine k).acc
        (s.tcAdd x 1 (4096 * (n - r.done))).updEng k (fun x => { x with
          acc := t.1, live := setBit x.live a.slot, macs := x.macs + BitVec.ofNat 64 (4096 * (n - r.done)),
          arrBusy := x.arrBusy + BitVec.ofNat 64 cyc,
          arr := { x.arr with exe := some { r with done := n, flags := r.flags ||| t.2, fin := decide (n = a.k) } } })
      else
        s.updEng k (fun x => { x with
          acc := ldSlots x.sp r.cmd r.done n x.acc, live := setBit x.live (ldSlot r.cmd), arrBusy := x.arrBusy + BitVec.ofNat 64 cyc,
          arr := { x.arr with exe := some { r with done := n, fin := decide (n = 64) } } })

/-! ## The epilogue -/

/-- Steps 1 to 4 of R47 on one element, with the fused operations of R65: the y of step 3, v, and the flags. A special Q sets NI, a
special CLO or CHI does not (DESIGN CHOICE, assumption 201). -/
def epiElem (sp : Bytes) (v : EpiArgs) (d : Word32) (i j : Nat) (c : Word32) : Word32 × Word32 × Byte :=
  let y := arith32 [f32 c, f32 d] ((f32 c).mul (f32 d))
  let b := f32 (BitVec.ofNat 32 (sp.rdLE (v.biasBase + 4 * j) 4))
  let y1 := if v.bias then
      (let t := arith32 [f32 y.1, b] ((f32 y.1).add b); (t.1, y.2 ||| t.2 ||| niOf [b])) else y
  let y2 := actApply v.act v.clo v.chi y1.1
  let rr := if v.resFmt = 0 then f32 (BitVec.ofNat 32 (sp.rdLE (v.resBase + i * v.resStride + 4 * j) 4))
    else fBF16.decode (sp.rdLE (v.resBase + i * v.resStride + 2 * j) 2)
  let y3 := if v.resid then
      (let t := arith32 [f32 y2, rr] ((f32 y2).add rr); (t.1, y1.2 ||| t.2 ||| niOf [rr])) else (y2, y1.2)
  let o := arith32 [f32 y3.1, f32 v.q] ((f32 y3.1).mul (f32 v.q))
  (y3.1, o.1, y3.2 ||| o.2 ||| niOf [f32 v.q])

/-- One output row: its element bytes, its block scales, the flags and amax (R47 to R50). -/
def epiRow (sp : Bytes) (v : EpiArgs) (d : Word32) (acc : Map Word32) (i : Nat) (amax : Word32) :
    List Byte × List Nat × Byte × Word32 :=
  let es := (List.range 64).map (fun j => epiElem sp v d i j (Map.get 0 acc (4096 * v.slot + 64 * i + j)))
  let fl := es.foldl (fun f e => f ||| e.2.2) 0
  let amax := es.foldl (fun a e => amaxStep a e.1) amax
  let vs := es.map (fun e => e.2.1)
  if isMX v.fo then
    let b0 := mxBlock v.fo v.md v.fit (vs.take 32)
    let b1 := mxBlock v.fo v.md v.fit (vs.drop 32)
    (packElems (fmtBits v.fo) (b0.2.1 ++ b1.2.1), [b0.1, b1.1], fl ||| b0.2.2 ||| b1.2.2, amax)
  else
    let cs := vs.map (convElem v.fo v.md)
    (packElems (fmtBits v.fo) (cs.map (fun c => c.1)), [], cs.foldl (fun f c => f ||| c.2) fl, amax)

/-- d of R47 step 1, with its flags. -/
def epiScale (v : EpiArgs) : Word32 × Byte :=
  let r := arith32 [f32 v.sa, f32 v.sb] ((f32 v.sa).mul (f32 v.sb))
  (r.1, r.2 ||| niOf [f32 v.sa, f32 v.sb])

/-- Flits that a row takes on a stream port (R85). -/
def rowFlits (t : List Byte × List Nat × Byte × Word32) : List (BitVec 512) :=
  ((pieces 64 64 t.1).map bytesLine) ++
    (if t.2.1.isEmpty then [] else [bytesLine (t.2.1.map (fun x => BitVec.ofNat 8 x))])

/-- Rows of an EPI from `done` on: to the scratchpad, or to a stream port while its credits last (R65, R85). -/
def State.epiRows (s : State) (p e : Nat) (fuel : Nat) (r : Run) : Run × State :=
  match fuel with
  | 0 => (r, s)
  | n + 1 =>
    if 64 ≤ r.done then (r, s)
    else
      let k := kEng p e
      let x := s.engine k
      let v := epiOf r.cmd
      let d := epiScale v
      let t := epiRow x.sp v d.1 x.acc r.done r.amax
      let r' := { r with done := r.done + 1, flags := r.flags ||| t.2.2.1 ||| d.2, amax := t.2.2.2 }
      if v.stream then
        match s.streamPort p e r.cmd with
        | none => (r, s)
        | some vc =>
          let fs := rowFlits t
          let kv := kVt p vc.1
          if Map.get 128 (s.vt kv).scCred vc.2 < fs.length ∨ (s.pool (streamPool kv vc.2)).resolving then (r, s)
          else
            State.epiRows ((s.qUse (streamPool kv vc.2) fs.length).updVt kv (fun y => { y with
              scFly := Map.upd [] vc.2 (fun l => l ++ fs) y.scFly,
              scCred := Map.upd 128 vc.2 (fun n => n - fs.length) y.scCred })) p e n r'
      else
        let sc := t.2.1.map (fun b => BitVec.ofNat 8 b)
        State.epiRows (s.updEng k (fun y => { y with
          sp := (y.sp.wrL (v.out + r.done * v.outStride) t.1).wrL (v.os + r.done * v.osStride) sc })) p e n r'

/-- The epilogue unit goes on with its EPI up to row n; after the last row RELEASE zeroes the slot (R65, R56). -/
def State.epiGo (s : State) (p e n : Nat) : State :=
  let k := kEng p e
  match (s.engine k).epi.exe with
  | none => s
  | some r =>
    if r.fin then s
    else
      let t := (s.blurAll k r).epiRows p e (n - r.done) r
      let v := epiOf r.cmd
      let done := decide (64 ≤ t.1.done)
      (t.2.blurOut k r).updEng k (fun x => { x with
        epi := { x.epi with exe := some { t.1 with fin := done } },
        live := if done && v.release then clrBit x.live v.slot else x.live,
        acc := if done && v.release then x.acc.filter (fun c => decide (c.1 / 4096 ≠ v.slot)) else x.acc })

/-- An EPI to a stream port hands over rows as long as the port's credits last (R85). -/
def State.epiFeed (s : State) (p e : Nat) : State :=
  match (s.engine (kEng p e)).epi.exe with
  | none => s
  | some r => if (epiOf r.cmd).stream then s.epiGo p e 64 else s

/-- An EPI starts. -/
def State.runEpi (s : State) (p e : Nat) (r : Run) : State :=
  (s.updEng (kEng p e) (fun x => { x with epi := { x.epi with exe := some r } })).epiFeed p e

/-! ## The DMA unit -/

/-- An NSEND starts: its flits are handed to the router, and it waits for a WR_ACK from every member (R123, R124). A spanning one is
discarded with its work while the job is not FORMED (R280). With LEN 0 it sends nothing and completes at once (DESIGN CHOICE, assumption
202). -/
def State.runSend (s : State) (p e : Nat) (r : Run) : State :=
  let k := kEng p e
  let u := uEng p e
  let cid := s.cidOf u
  let g := nsGroup r.cmd
  let fr := (s.comp cid).framesAt (s.part p).lp
  let churn := (findFrm fr 7 g).isSome
  let j := if (s.comp cid).spanning g then s.touchJob cid (s.workOn u) true else (true, s)
  let s := j.2
  if !j.1 then s.updEng k (fun x => { x with dma := { x.dma with exe := some { r with acks := 1 } } })
  else
    let bs := (s.engine k).sp.rdN (nsBase r.cmd) (nsLen r.cmd)
    let rt := unitRouter u
    let root := match s.unitOfLref cid (fle (frmBody fr 7 g) 0 2) with | none => 0 | some w => unitRouter w
    let f : Flit := { Flit.zero with
      dst := if churn then root else 0, src := rt, vc := 2, kind := if churn then 5 else 4, group := g,
      op := if churn then fle (frmBody fr 7 g) 2 1 else 0, xid := (s.unit u).xid }
    let acks := if bs.isEmpty then 0 else if churn then 1 else fle (frmBody fr 6 g) 2 2
    let s := s.updEng k (fun x => { x with dma := { x.dma with exe := some { r with acks := acks, fin := bs.isEmpty } } })
    let s := if churn then { s with net := { s.net with churnGen := Map.set 0 (churnKey cid g u) (s.unit u).gen s.net.churnGen } } else s
    s.each (transferFlits f bs) (fun s f => s.inject rt f)

/-- A DMA or NSEND starts. -/
def State.runDma (s : State) (p e : Nat) (r : Run) : State :=
  let k := kEng p e
  if cOp r.cmd = 5 then (s.blurAll k r).runSend p e r
  else (s.updEng k (fun x => { x with dma := { x.dma with exe := some r } })).dmaGo p e

/-! ## Starting and completing -/

/-- The slot scoreboard (R61): no earlier command of the other kind on the slot is uncompleted. -/
def Engine.slotFree (x : Engine) (r : Run) : Bool :=
  let other := if cOp r.cmd = 2 then x.arr.held else x.epi.held
  !other.any (fun o => decide (o.seq < r.seq) && slotOf o.cmd == slotOf r.cmd)

/-- Pending commands start where their unit is free (R59, R61, R97). -/
def State.startUnits (s : State) (p e : Nat) : State :=
  let k := kEng p e
  if (s.unit (uEng p e)).st ≠ .run then s
  else
    let x := s.engine k
    let s := match x.arr.exe, x.arr.pend with
      | none, some r =>
        if x.slotFree r && !(decide (x.soft = Soft.hold) && cOp r.cmd == 1) then
          (s.updEng k (fun y => { y with arr := {} })).runArr p e r
        else s
      | _, _ => s
    let x := s.engine k
    let s := match x.epi.exe, x.epi.pend with
      | none, some r => if x.slotFree r then (s.updEng k (fun y => { y with epi := {} })).runEpi p e r else s
      | _, _ => s
    match (s.engine k).dma.exe, (s.engine k).dma.pend with
    | none, some r => (s.updEng k (fun y => { y with dma := {} })).runDma p e r
    | _, _ => s

/-- Nothing is executing or pending in a unit. -/
def UnitQ.idle (q : UnitQ) : Bool := q.exe.isNone && q.pend.isNone

/-- The conditions under which a command leaves the head (R59). -/
def Engine.canLeave (x : Engine) (c : Cmd) : Bool :=
  (!bit c 9 || x.dma.idle) && (!bit c 10 || x.arr.idle) && (!bit c 11 || x.epi.idle) &&
  (match cOp c with
   | 1 => x.arr.pend.isNone
   | 3 => x.arr.pend.isNone
   | 2 => x.epi.pend.isNone
   | 4 => x.dma.pend.isNone
   | 5 => x.dma.pend.isNone
   | 6 => reached (Map.get 0 x.cnt (waitCnt c)) (waitVal c)
   | _ => true)

/-- A command has left the head for its unit: its slot counts as live or not by queue order (R69). -/
def Engine.left (x : Engine) (c : Cmd) : Engine :=
  match cOp c with
  | 1 => { x with qSeen := setBit x.qSeen (mmaOf c).slot, qLive := setBit x.qLive (mmaOf c).slot }
  | 3 => { x with qSeen := setBit x.qSeen (ldSlot c), qLive := setBit x.qLive (ldSlot c) }
  | 2 => if (epiOf c).release then { x with qSeen := setBit x.qSeen (epiOf c).slot, qLive := clrBit x.qLive (epiOf c).slot } else x
  | _ => x

/-- A command that passed its checks: the head ones complete, the others go to their unit (R59). Only a command accepted here counts as the latest on its
slot to leave the head (R69, assumption 155). -/
def State.accept (s : State) (p e : Nat) (c : Cmd) : State :=
  let k := kEng p e
  let u := uEng p e
  let d := (s.engine k).dispatch { cmd := c, seq := (s.engine k).seq }
  let r := d.2
  let s := s.updEng k (fun _ => { (if cUnit c = .dma ∧ cOp c ≠ 4 ∧ cOp c ≠ 5 then s.engine k else d.1) with seq := (s.engine k).seq + 1 })
  match cOp c with
  | 1 => (s.updEng k (fun x => Engine.left { x with arr := { x.arr with pend := some r } } c)).startUnits p e
  | 3 => (s.updEng k (fun x => Engine.left { x with arr := { x.arr with pend := some r } } c)).startUnits p e
  | 2 => (s.updEng k (fun x => Engine.left { x with epi := { x.epi with pend := some r } } c)).startUnits p e
  | 4 => (s.updEng k (fun x => { x with dma := { x.dma with pend := some r } })).startUnits p e
  | 5 => (s.updEng k (fun x => { x with dma := { x.dma with pend := some r } })).startUnits p e
  | 7 => (s.setLive u c).complete u c 0 0 0
  | _ => s.complete u c 0 0 0

/-- The command at the head of an engine's queue leaves it when it is one of those asked for and may leave: it is checked, and refused
or accepted (R59, R69). -/
def State.leave (s : State) (p e : Nat) (want : Cmd → Bool) : State :=
  let u := uEng p e
  match s.headCmd u with
  | none => s
  | some c =>
    if want c && (s.engine (kEng p e)).canLeave c then
      let code := s.engCode p e c
      let s := s.popHead u
      if code = 0 then s.accept p e c else s.refuse u c code 0
    else s

/-- The entry at the head of a launch queue leaves it when it is one of those asked for: NOP, WAIT and LIVE (R84). -/
def State.leaveVt (s : State) (p v : Nat) (want : Cmd → Bool) : State :=
  let u := uVt p v
  match s.headCmd u with
  | none => s
  | some c =>
    if want c && (cOp c != 6 || reached (s.cntOf u (waitCnt c)) (waitVal c)) then
      let code := s.vtCode p v c
      let s := s.popHead u
      if code ≠ 0 then s.refuse u c code 0
      else if cOp c = 7 then (s.setLive u c).complete u c 0 0 0
      else s.complete u c 0 0 0
    else s

/-- A head command of a unit with a queue of its own. -/
def State.leaveHead (s : State) (u : Nat) (want : Cmd → Bool) : State :=
  match ukind u with
  | .eng p e => s.leave p e want
  | .vt p v => s.leaveVt p v want
  | .st _ _ => s

/-- The unit of an engine that a command completes in, with a change of it. -/
def Engine.unitQ (x : Engine) (w : EUnit) : UnitQ := match w with | .arr => x.arr | .epi => x.epi | .dma => x.dma
def Engine.updUnitQ (x : Engine) (w : EUnit) (f : UnitQ → UnitQ) : Engine :=
  match w with
  | .arr => { x with arr := f x.arr }
  | .epi => { x with epi := f x.epi }
  | .dma => { x with dma := f x.dma }

/-- The command a unit executes goes on to its end: the array and the epilogue unit need only time; a transfer goes on as its rows are
translated and answered. -/
def State.runOut (s : State) (p e : Nat) (w : EUnit) : State :=
  match w with
  | .arr => s.arrGo p e 65536
  | .epi => s.epiGo p e 64
  | .dma => s

/-- A command whose effects are done completes in its unit, and pending ones start (R60). -/
def State.finish (s : State) (p e : Nat) (w : EUnit) : State :=
  let k := kEng p e
  let u := uEng p e
  match ((s.engine k).unitQ w).exe with
  | none => s
  | some r =>
    if !r.fin then s
    else
      let s := s.updEng k (fun x => { x.updUnitQ w (fun q => { q with exe := none }) with flags := x.flags ||| r.flags })
      let s := s.workFlags u r.flags
      (s.complete u r.cmd 0 r.flags (if cOp r.cmd = 2 then r.amax else 0)).startUnits p e

/-! ## Queue control (R69, R76) -/

/-- FLUSH: every remaining entry completes with 0xF, and HALTED and the captured refusal clear. -/
def State.flush (s : State) (u : Nat) : State :=
  match ukind u with
  | .eng p e =>
    let q := (s.engine (kEng p e)).queue
    s.each q (fun s c => s.complete u c 0xF 0 0) |>.updEng (kEng p e) (fun x => { x with queue := [], halted := false, cmdErr := 0 })
  | .vt p v =>
    let q := (s.vt (kVt p v)).queue
    s.each q (fun s c => s.complete u c 0xF 0 0) |>.updVt (kVt p v) (fun x => { x with queue := [], halted := false, cmdErr := 0 })
  | .st _ _ => s

/-- RESUME, on a halted queue. -/
def State.resume (s : State) (u : Nat) : State :=
  match ukind u with
  | .eng p e => s.updEng (kEng p e) (fun x => if x.halted then { x with halted := false, cmdErr := 0 } else x)
  | .vt p v => s.updVt (kVt p v) (fun x => if x.halted then { x with halted := false, cmdErr := 0 } else x)
  | .st _ _ => s

/-! ## Stop, save and restore (R71-R74, R98) -/

/-- No command is in flight to a unit's queue (R71). -/
def State.cmdsLanded (s : State) (u : Nat) : Bool :=
  let hit (f : Flit) : Bool := f.kind == 10 && f.dst == unitRouter u
  !s.net.flights.any (fun e => hit e.2) && !s.net.routers.any (fun e => e.2.outq.any hit || e.2.inq.any (fun x => hit x.flit))

/-- A stop request to an engine whose issuer has stopped, with every command to its queue landed: dispatch stops, a hold ends, and a pending
translation is abandoned, but that of a non-pre-emptible command, which runs to completion (R71). -/
def State.stopEng (s : State) (p e : Nat) : State :=
  let u := uEng p e
  let is := s.issuer u
  if (s.unit u).st = .run ∧ (s.unit (uSt (is / 4) (is % 4))).st ≠ .run ∧ s.cmdsLanded u then
    (s.updUnit u (fun x => { x with st := .stopping, stop := true, miss := if s.npRunning u then x.miss else none })).updEng (kEng p e) (fun x => { x with soft := .none })
  else s

/-- Whether every unit of an engine can halt: no transfer is outstanding and no non-pre-emptible command runs (R71). R71 names no stop point for
an NSEND that stays within the module; it runs to its end first (assumption 154). -/
def State.atStop (s : State) (p e : Nat) : Bool :=
  (s.unit (uEng p e)).ext.isNone && !s.npRunning (uEng p e) &&
    (match (s.engine (kEng p e)).dma.exe with | none => true | some r => decide (cOp r.cmd ≠ 5) || r.fin)

/-- The bytes of a local memory that the valid entries of a live map name (R57). -/
def liveBytes (m : Map LiveEnt) (b : Bytes) : Bytes :=
  b.filter (fun c => m.any (fun e => e.2.valid && decide (e.2.base ≤ c.1 ∧ c.1 < e.2.base + e.2.len)))

/-- The engine state record (Table 3.12): uncompleted commands in queue order, the pending ones of the units before the queue. -/
def Engine.save (x : Engine) : EngSave :=
  let pend := ([x.arr.pend, x.epi.pend, x.dma.pend].filterMap id)
  let order := (pend.filter (fun a => pend.all (fun b => decide (a.seq ≤ b.seq)))) ++
    (pend.filter (fun a => !pend.all (fun b => decide (a.seq ≤ b.seq)) && !pend.all (fun b => decide (b.seq ≤ a.seq)))) ++
    (pend.filter (fun a => !pend.all (fun b => decide (a.seq ≤ b.seq)) && pend.all (fun b => decide (b.seq ≤ a.seq))))
  { halted := x.halted, queue := order.map (fun r => r.cmd) ++ x.queue, slots := x.acc, slotMask := x.live, cnt := x.cnt,
    lmap := x.lmap, live := liveBytes x.lmap x.sp, cmdErr := x.cmdErr, arrRun := x.arr.exe, epiRun := x.epi.exe,
    dmaRun := x.dma.exe, posts := x.posts }

/-- Puts a record into the save area of a context (R243). -/
def State.putSave (s : State) (x u : Nat) (r : Save) : State :=
  match s.lrefOf u with
  | none => s
  | some l => (s.updCtx x (fun c => { c with saved := Map.set .none l r c.saved })).saveTraffic (ukind u).part (r.bytes l x).length true

/-- The traffic of a record that is read back into a unit. -/
def State.readSave (s : State) (x u : Nat) (r : Save) : State :=
  s.saveTraffic (ukind u).part (r.bytes ((s.lrefOf u).getD 0) x).length false

/-- A stop point between `done` and `last`, in steps of `step`: how far a unit has come when it halts is a free value (R71). -/
def stopPoint (done last step : Nat) (v : BitVec 64) : Nat := min last (done + step * (v.toNat % (ceilDiv (last - done) step + 1)))

/-- The units of an engine halt at their next stop points (R71): an MMA at a multiple of 32 k-steps, an EPI or ACCLD at a row. -/
def State.haltUnits (s : State) (p e : Nat) : State :=
  let x := s.engine (kEng p e)
  let d := s.draw
  let s := match x.arr.exe with
    | none => s
    | some r => d.2.arrGo p e (stopPoint r.done (arrEnd r.cmd) (if cOp r.cmd = 1 then 32 else 1) d.1)
  let d := s.draw
  match x.epi.exe with
  | none => s
  | some r => if (epiOf r.cmd).stream then s else d.2.epiGo p e (stopPoint r.done 64 1 d.1)

/-- All units of an engine have halted: the record is written, and the scratchpad and slots are zeroed (R72). -/
def State.saveEng (s : State) (p e : Nat) : State :=
  let u := uEng p e
  if (s.unit u).st = .stopping ∧ s.atStop p e then
    let s := s.haltUnits p e
    let s := s.putSave (s.unit u).xid u (.eng (s.engine (kEng p e)).save)
    ((s.clearUnit u).updUnit u (fun x => { x with st := .stopped, cache := [], miss := none })).ackAll u
  else s

/-- Uncompleted commands and held records of an engine's record; they keep queue credits. -/
def EngSave.held (r : EngSave) : Nat :=
  r.queue.length + ([r.arrRun, r.epiRun, r.dmaRun].filterMap id).length + r.posts.length

/-- Loads an engine state record (R73, R98). The queue image is re-entered: the dispatched commands go to their units again, so their slots count as
live by queue order (R69). -/
def State.loadEng (s : State) (p e x : Nat) (r : EngSave) : State :=
  let runs := [r.arrRun, r.epiRun, r.dmaRun].filterMap id
  let s := s.readSave x (uEng p e) (.eng r)
  let s := s.updEng (kEng p e) (fun y => { y with
    sp := Bytes.ofCells r.live, acc := r.slots, live := r.slotMask, qSeen := 0, qLive := 0, lmap := r.lmap, queue := r.queue,
    arr := { exe := r.arrRun }, epi := { exe := r.epiRun }, dma := { exe := r.dmaRun },
    seq := runs.foldl (fun n v => max n (v.seq + 1)) 0, cnt := r.cnt, halted := r.halted, cmdErr := r.cmdErr, soft := .ramp,
    cred := y.cred - r.held, posts := r.posts })
  let s := s.updEng (kEng p e) (fun y => runs.foldl (fun y v => y.left v.cmd) y)
  let s := s.qUse (queuePool (uEng p e)) r.held
  let s := s.updUnit (uEng p e) (fun y => { y with st := .run, stop := false, xid := x })
  ((s.dmaGo p e).epiFeed p e)

/-- The record a context's save area holds for a unit. -/
def State.savedOf (s : State) (x u : Nat) : Save :=
  match s.lrefOf u with | none => .none | some l => Map.get .none (s.ctx x).saved l

/-! ## Rows -/

def execNop (u : UnitId) (s : State) : Host.Outcome State Fault Refusal :=
  .next (s.leaveHead u.val (fun c => match ukind u.val with
    | .eng _ _ => cOp c == 0 || decide (7 < cOp c)
    | _ => cOp c != 6 && cOp c != 7 && cOp c != 0x10))

def execMma (p : PartId) (e : EngId) (s : State) : Host.Outcome State Fault Refusal :=
  .next (s.leave p.val e.val (fun c => cOp c == 1))

def execEpi (p : PartId) (e : EngId) (s : State) : Host.Outcome State Fault Refusal :=
  .next (s.leave p.val e.val (fun c => cOp c == 2))

def execAccld (p : PartId) (e : EngId) (s : State) : Host.Outcome State Fault Refusal :=
  .next (s.leave p.val e.val (fun c => cOp c == 3))

/-- Reserved values of OP are refused here (R69 BAD_OPCODE). -/
def execDmaRead (p : PartId) (e : EngId) (s : State) : Host.Outcome State Fault Refusal :=
  .next (s.leave p.val e.val (fun c => cOp c == 4 && (decide ((dmaDesc c).op = 0) || decide (4 < (dmaDesc c).op))))

def execDmaWrite (p : PartId) (e : EngId) (s : State) : Host.Outcome State Fault Refusal :=
  .next (s.leave p.val e.val (fun c => cOp c == 4 && (dmaDesc c).op == 1))

def execAaddF32 (p : PartId) (e : EngId) (s : State) : Host.Outcome State Fault Refusal :=
  .next (s.leave p.val e.val (fun c => cOp c == 4 && (dmaDesc c).op == 2))

def execAaddI64 (p : PartId) (e : EngId) (s : State) : Host.Outcome State Fault Refusal :=
  .next (s.leave p.val e.val (fun c => cOp c == 4 && (dmaDesc c).op == 3))

def execAswap64 (p : PartId) (e : EngId) (s : State) : Host.Outcome State Fault Refusal :=
  .next (s.leave p.val e.val (fun c => cOp c == 4 && (dmaDesc c).op == 4))

def execNsend (p : PartId) (e : EngId) (s : State) : Host.Outcome State Fault Refusal :=
  .next (s.leave p.val e.val (fun c => cOp c == 5))

/-- A WAIT whose condition does not hold stays at the head. -/
def execWait (u : UnitId) (s : State) : Host.Outcome State Fault Refusal := .next (s.leaveHead u.val (fun c => cOp c == 6))

def execLive (u : UnitId) (s : State) : Host.Outcome State Fault Refusal := .next (s.leaveHead u.val (fun c => cOp c == 7))

def execCommandComplete (p : PartId) (e : EngId) (w : EUnit) (s : State) : Host.Outcome State Fault Refusal :=
  .next ((s.runOut p.val e.val w).finish p.val e.val w)

def execWaitWake (u : UnitId) (s : State) : Host.Outcome State Fault Refusal := .next (s.leaveHead u.val (fun c => cOp c == 6))

def execQctlFlush (u : UnitId) (s : State) : Host.Outcome State Fault Refusal := .next (s.flush u.val)

def execQctlResume (u : UnitId) (s : State) : Host.Outcome State Fault Refusal := .next (s.resume u.val)

def execEngineStopRequest (p : PartId) (e : EngId) (s : State) : Host.Outcome State Fault Refusal := .next (s.stopEng p.val e.val)

def execEngineUnitsHalted (p : PartId) (e : EngId) (s : State) : Host.Outcome State Fault Refusal := .next (s.saveEng p.val e.val)

/-- A restore onto an engine that stands IDLE or STOPPED, of a context whose area holds its record. -/
def execEngineRestore (p : PartId) (e : EngId) (x : XidT) (s : State) : Host.Outcome State Fault Refusal :=
  let u := uEng p.val e.val
  .next (if (s.unit u).st = .idle ∨ (s.unit u).st = .stopped then
      match s.savedOf x.val u with
      | .eng r => s.loadEng p.val e.val x.val r
      | _ => s
    else s)

end Sys2Proof.Machine
end

