-- ==== Sys2Proof/Machine/Lanes.lean ====
section
/-!
DEFINITION. The vector tile's instruction word, its lanes, and what an instruction does to its registers (R77 to R84).
-/

namespace Sys2Proof.Machine

/-- A vector instruction's fields (Table 4.1). -/
structure VI where
  imm : Nat
  men : Bool
  msk : Nat
  ty : Nat
  vs3 : Nat
  vs2 : Nat
  vs1 : Nat
  vd : Nat
  rsv : Nat
  func : Nat
  opc : Nat
  deriving DecidableEq, Repr

def viOf (w : BitVec 64) : VI :=
  { imm := bits w 63 48, men := bit w 47, msk := bits w 46 44, ty := bits w 43 41, vs3 := bits w 40 36, vs2 := bits w 35 31,
    vs1 := bits w 30 26, vd := bits w 25 21, rsv := bits w 20 16, func := bits w 15 8, opc := bits w 7 0 }

/-- Whether Table 4.2 lists a class and function. -/
def vListed (opc func : Nat) : Bool :=
  match opc with
  | 1 => decide (func ≤ 7) | 2 => decide (func ≤ 2) | 3 => decide (func ≤ 5) | 4 => decide (func ≤ 2) | 5 => decide (func ≤ 2)
  | 6 => decide (func ≤ 1) | 7 => decide (func ≤ 3) | 8 => decide (func ≤ 1) | 9 => decide (func ≤ 1) | 10 => decide (func = 0)
  | 11 => decide (func ≤ 4) | 12 => decide (func ≤ 4) | _ => false

/-- IMM, sign-extended. -/
def VI.simm (i : VI) : Int := signed 16 i.imm

/-! ## Lanes (R77, R78) -/

/-- Width of a lane, and the encoding of a floating-point type. -/
def tyWidth (ty : Nat) : Nat := match ty with | 0 => 32 | 3 => 32 | 5 => 8 | _ => 16
def tyFmt (ty : Nat) : Fmt := match ty with | 1 => fBF16 | 2 => fFP16 | _ => fF32

/-- Lane l of a register as lanes of w bits. -/
def lane (w l : Nat) (v : BitVec 4096) : Nat := (v.extractLsb' (w * l) w).toNat
/-- The register that lanes of w bits spell. -/
def ofLanes (w : Nat) (l : List Nat) : BitVec 4096 := BitVec.ofNat 4096 (unchunk w l)

def VTile.vreg (t : VTile) (i : Nat) : BitVec 4096 := Map.get 0 t.v i
def VTile.areg (t : VTile) (i : Nat) : Word64 := Map.get 0 t.a (i % 16)
/-- Writes an address register; a0 stays zero. -/
def VTile.setA (t : VTile) (i : Nat) (x : Word64) : VTile :=
  if i % 16 = 0 then t else { t with a := Map.set 0 (i % 16) x t.a }

/-- Whether lane l of w bits is not masked off: it takes the mask bit of the 32-bit lane that holds it. -/
def VTile.act (t : VTile) (i : VI) (w l : Nat) : Bool := !i.men || bit (Map.get 0 t.m i.msk) (w * l / 32)

/-- Each lane that is not masked off takes f of the lanes of the sources; the others keep the old value of vd. -/
def VTile.mapLanes (t : VTile) (i : VI) (w : Nat) (srcs : List (BitVec 4096)) (f : List Nat → Nat × Byte) : BitVec 4096 × Byte :=
  let rs := (List.range (4096 / w)).map (fun l =>
    if t.act i w l then f (srcs.map (lane w l)) else (lane w l (t.vreg i.vd), 0))
  (ofLanes w (rs.map (fun r => r.1)), rs.foldl (fun a r => a ||| r.2) 0)

/-- The lanes of vd that are masked off keep their old value. -/
def VTile.merge (t : VTile) (i : VI) (w : Nat) (n : BitVec 4096) : BitVec 4096 := (t.mapLanes i w [n] (fun l => (nth 0 l 0, 0))).1

/-- A floating-point operation on lanes: exact, then rounded once to the type (R78). -/
def fop (f : Fmt) (g : List Val → Val) (l : List Nat) : Nat × Byte :=
  let ops := l.map f.decode
  let r := arith f ops (g ops)
  (r.1, vflags ops r.2)

/-- An integer operation on lanes of w bits: wraps modulo 2^w. -/
def iop (w : Nat) (g : List Int → Int) (l : List Nat) : Nat × Byte := ((BitVec.ofInt w (g (l.map (signed w)))).toNat, 0)

def v0 (l : List Val) : Val := nth Val.zero l 0
def v1 (l : List Val) : Val := nth Val.zero l 1
def v2 (l : List Val) : Val := nth Val.zero l 2
def i0 (l : List Int) : Int := nth 0 l 0
def i1 (l : List Int) : Int := nth 0 l 1
def i2 (l : List Int) : Int := nth 0 l 2

/-- An operation by type: floating point for TY 0 to 2, integer for 3 to 5. -/
def tyOp (ty : Nat) (g : List Val → Val) (h : List Int → Int) : List Nat → Nat × Byte :=
  if ty ≤ 2 then fop (tyFmt ty) g else iop (tyWidth ty) h

/-! ## Special functions (R81) -/

/-- The exact value of a special function of a finite operand, and the bound of Table 4.3 in units in the last place. -/
def sfuExact (func : Nat) (x : Word32) : Fx × Nat :=
  let y := fx32 x
  match func with
  | 0 => (fxExp2 y, 2)
  | 1 => ((match f32 x with | .num _ m e => fxLog2 m e | _ => 0), 2)
  | 2 => (fxDiv fxOne y, 1)
  | 3 => (fxRsq y, 1)
  | 4 => (fxTanh y, 4)
  | _ => (fxSig y, 4)

/-- A special function in binary32: the IEEE 754 result of a special input, otherwise a value within the bound of Table 4.3
(assumption 167). VEXP2 of an input of 128 or more, infinity too, sets OF. -/
def sfu32 (func : Nat) (x : Word32) : Word32 × Byte :=
  let v := f32 x
  let inf (neg : Bool) : Word32 := if neg then 0xFF800000 else 0x7F800000
  let neg := x.msb
  let ni := niOf [v]
  let gen : Word32 × Byte :=
    let v := sfuExact func x
    let r := ulpPick v.2 v.1 (Config.sfu func x)
    (r, flagIf (f32 r).isInf flOF)
  match v with
  | .nan => (0x7FC00000, ni)
  | .inf n =>
    match func with
    | 0 => if n then (0, ni) else (inf false, ni ||| flOF)
    | 1 => if n then (0x7FC00000, ni ||| flNV) else (inf false, ni)
    | 2 => (if n then 0x80000000 else 0, ni)
    | 3 => if n then (0x7FC00000, ni ||| flNV) else (0, ni)
    | 4 => (if n then 0xBF800000 else 0x3F800000, ni)
    | _ => (if n then 0 else 0x3F800000, ni)
  | .num n m _ =>
    match func with
    | 0 => if !(v.lt (.num false 128 0)) then (inf false, flOF) else gen
    | 1 => if m = 0 then (inf true, 0) else if n then (0x7FC00000, flNV) else gen
    | 2 => if m = 0 then (inf neg, 0) else gen
    | 3 => if m = 0 then (inf neg, 0) else if n then (0x7FC00000, flNV) else gen
    | 4 => if m = 0 then (x, 0) else gen
    | _ => gen

/-- A special function on a lane of FP32 or BF16; in BF16 it is rounded from its FP32 result. -/
def sfuLane (ty func : Nat) (l : List Nat) : Nat × Byte :=
  let x := nth 0 l 0
  if ty = 0 then let r := sfu32 func (BitVec.ofNat 32 x); (r.1.toNat, r.2)
  else let r := sfu32 func (BitVec.ofNat 32 (x <<< 16)); ((fBF16.narrow (f32 r.1)).1, r.2)

/-! ## Reductions (R82) -/

/-- The fixed tree: lane l is combined with lane l + n / 2 until one lane is left; 16-bit and 8-bit lanes start at n / 2 too
(assumption 159). -/
def vtree (f : Nat → Nat → Nat × Byte) (fuel : Nat) (l : List Nat) (fl : Byte) : Nat × Byte :=
  match fuel with
  | 0 => (nth 0 l 0, fl)
  | k + 1 =>
    if l.length ≤ 1 then (nth 0 l 0, fl)
    else
      let h := l.length / 2
      let rs := ((l.take h).zip (l.drop h)).map (fun p => f p.1 p.2)
      vtree f k (rs.map (fun r => r.1)) (rs.foldl (fun a r => a ||| r.2) fl)

/-- What a masked-off lane contributes: +0, −infinity or +infinity, and for an integer type 0, the smallest or the largest number
(assumption 29). -/
def redIdentity (func ty : Nat) : Nat :=
  let w := tyWidth ty
  match func with
  | 0 => 0
  | 1 => if ty ≤ 2 then (tyFmt ty).withSign true (tyFmt ty).infCode else 2 ^ (w - 1)
  | _ => if ty ≤ 2 then (tyFmt ty).infCode else 2 ^ (w - 1) - 1

/-- A reduction of vs1, its result in every lane. NI comes from the lanes that are not masked off: an identity the unit supplies is no
operand. -/
def VTile.reduce (t : VTile) (i : VI) (g : List Val → Val) (h : List Int → Int) : BitVec 4096 × Byte :=
  let w := tyWidth i.ty
  let on := (List.range (4096 / w)).filter (t.act i w)
  let ls := (List.range (4096 / w)).map (fun l =>
    if t.act i w l then lane w l (t.vreg i.vs1) else redIdentity i.func i.ty)
  let r := vtree (fun a b => tyOp i.ty g h [a, b]) 16 ls 0
  let ni := if i.ty ≤ 2 then niOf (on.map (fun l => (tyFmt i.ty).decode (lane w l (t.vreg i.vs1)))) else 0
  (ofLanes w (List.replicate (4096 / w) r.1), (r.2 &&& ~~~flNI) ||| ni)

/-! ## Compares -/

/-- A compare of lanes, false for a NaN; integers are signed. -/
def cmpLane (ty : Nat) (g : Val → Val → Bool) (h : Int → Int → Bool) (a b : Nat) : Bool × Byte :=
  if ty ≤ 2 then
    let x := (tyFmt ty).decode a
    let y := (tyFmt ty).decode b
    (!x.isNan && !y.isNan && g x y, niOf [x, y])
  else (h (signed (tyWidth ty) a) (signed (tyWidth ty) b), 0)

/-- The results of the lanes inside one 32-bit lane: all of one kind, or mixed. -/
def VTile.cmp32 (t : VTile) (i : VI) (g : Val → Val → Bool) (h : Int → Int → Bool) (l : Nat) : List Bool × Byte :=
  let w := tyWidth i.ty
  let n := 32 / w
  let rs := (List.range n).map (fun j =>
    cmpLane i.ty g h (lane w (n * l + j) (t.vreg i.vs1)) (lane w (n * l + j) (t.vreg i.vs2)))
  (rs.map (fun r => r.1), rs.foldl (fun a r => a ||| r.2) 0)

/-- The mask a compare writes, its flags, and how many free values it took: a mask bit stands for a 32-bit lane, and where the narrower
lanes in it disagree the bit is a free value (assumption 30). A masked-off bit keeps its old value. -/
def VTile.compare (t : VTile) (i : VI) (fresh : Nat) (g : Val → Val → Bool) (h : Int → Int → Bool) :
    BitVec 128 × Byte × Nat :=
  let old := Map.get 0 t.m (i.vd % 8)
  (List.range 128).foldl (fun (acc : BitVec 128 × Byte × Nat) l =>
    if !t.act i 32 l then
      (if bit old l then acc.1 ||| BitVec.ofNat 128 (2 ^ l) else acc.1, acc.2.1, acc.2.2)
    else
      let r := t.cmp32 i g h l
      let mixed := r.1.any id && r.1.any (fun b => !b)
      let b := if mixed then bit (Config.freeValue acc.2.2) 0 else r.1.any id
      (if b then acc.1 ||| BitVec.ofNat 128 (2 ^ l) else acc.1, acc.2.1 ||| r.2, if mixed then acc.2.2 + 1 else acc.2.2))
    (0, 0, fresh)

/-! ## Conversions -/

/-- VWLO and VWHI: 16-bit lanes from `first` on, widened exactly to FP32 and merged into vd. NaN becomes the canonical NaN (R78); a lane
that is not masked off and reads a NaN or an infinity sets NI. -/
def VTile.widen (t : VTile) (i : VI) (first : Nat) : BitVec 4096 × Byte :=
  let x (l : Nat) : Val := (tyFmt i.ty).decode (lane 16 (first + l) (t.vreg i.vs1))
  (t.merge i 32 (ofLanes 32 ((List.range 128).map (fun l => (rne32 (x l)).toNat))),
   niOf (((List.range 128).filter (t.act i 32)).map x))

/-- An FP32 lane narrowed to a type with RNE and SAT (R37, R48). What a NaN gives in INT8, and every conversion to INT16, are free values
(assumption 168). -/
def narrowLane (ty : Nat) (w : Word32) : Nat × Byte :=
  match ty with
  | 5 => match f32 w with
    | .nan => (Config.nanInt8.toNat, 0)
    | .inf neg => ((BitVec.ofInt 8 (sgn neg 127)).toNat, flSAT)
    | .num .. => mxElem 10 { rz := false, ieee := false } 127 w
  | 4 => ((Config.toInt16 w).toNat, Config.toInt16Flags w &&& 3)
  | ty => convElem ty { rz := false, ieee := false } w

/-- VNRW: lanes 0 to 127 from vs1 and 128 to 255 from vs2; lanes of vd above 255 keep their value (assumption 168).
A special sets no NI (DESIGN CHOICE, assumption 203). -/
def VTile.narrow (t : VTile) (i : VI) : BitVec 4096 × Byte :=
  let w := tyWidth i.ty
  let cs := (List.range (4096 / w)).map (fun l =>
    if l < 256 && t.act i w l then narrowLane i.ty (BitVec.ofNat 32 (lane 32 (l % 128) (t.vreg (if l < 128 then i.vs1 else i.vs2))))
    else (lane w l (t.vreg i.vd), 0))
  (ofLanes w (cs.map (fun c => c.1)), cs.foldl (fun a c => a ||| c.2) 0)

/-- VQMX: four MX blocks packed from byte 0, their scales at bytes 508 to 511 (R83). A special sets no NI (DESIGN CHOICE,
assumption 203). -/
def VTile.quant (t : VTile) (i : VI) : BitVec 4096 × Byte :=
  let code := i.imm % 16
  let md : OutMode := { rz := has i.imm 5, ieee := has i.imm 6 }
  let bs := (List.range 4).map (fun b =>
    mxBlock code md (has i.imm 4) ((List.range 32).map (fun j => BitVec.ofNat 32 (lane 32 (32 * b + j) (t.vreg i.vs1)))))
  let body := unchunk (fmtBits code) (bs.flatMap (fun b => b.2.1))
  let sc := unchunk 8 (bs.map (fun b => b.1))
  (BitVec.ofNat 4096 (body + sc <<< 4064), bs.foldl (fun a b => a ||| b.2.2) 0)

end Sys2Proof.Machine
end

