-- ==== Sys2Proof/Machine/Vector.lean ====
section
/-!
DEFINITION. Commands of the vector tile: its instructions, launches and stream ports (R80 to R87).
-/

namespace Sys2Proof.Machine

/-! ## One instruction -/

/-- The instruction at a tile's program counter. -/
def VTile.word (t : VTile) : VI := viOf (BitVec.ofNat 64 (t.lm.rdLE (8 * t.pc) 8))

/-- Whether a running tile is inside a launch whose program has not ended. -/
def State.inLaunch (s : State) (p v : Nat) : Bool :=
  decide ((s.unit (uVt p v)).st = .run) &&
    (match (s.vt (kVt p v)).launch with | none => false | some l => !l.ended)

/-- A launch whose program has ended completes once every transfer it started has, with its code and the flags it gathered (R78, R84). -/
def State.endLaunch (s : State) (p v : Nat) : State :=
  let k := kVt p v
  let u := uVt p v
  match (s.vt k).launch with
  | none => s
  | some l =>
    if l.ended && (s.vt k).xfers.isEmpty && decide ((s.unit u).st = .run) then
      let s := s.updVt k (fun t => { t with launch := none, flags := t.flags ||| l.flags })
      (s.workFlags u l.flags).complete u l.cmd l.err l.flags 0
    else s

/-- A launch is refused at its present instruction: the code and PC are captured, the queue halts, and the program ends; the launch
completes once its transfers have (R84). -/
def State.refuseLaunch (s : State) (p v code : Nat) : State :=
  let k := kVt p v
  match (s.vt k).launch with
  | none => s
  | some l =>
    ((s.capture (uVt p v) l.cmd code (s.vt k).pc).updVt k (fun t => { t with
      launch := some { l with ended := true, err := code }, wait := .none })).endLaunch p v

/-- The program counter moves on past an instruction that held the issue slot for n cycles, with its flags. VT_BUSY counts the issue
cycles (assumption 161). -/
def State.vnext (s : State) (p v n : Nat) (fl : Byte) : State :=
  s.updVt (kVt p v) (fun t => { t with
    pc := (t.pc + 1) % 65536, busy := t.busy + BitVec.ofNat 64 n, wait := .none,
    launch := t.launch.map (fun l => { l with flags := l.flags ||| (fl &&& 0x1F) }) })

/-- The instruction at the program counter runs when it is the one asked for: the lowest failing check refuses the launch, otherwise
it has its effect (R84). Reserved fields must be zero, and a TY of 6 or 7 is reserved for every class (Table 4.1). -/
def State.vstep (s : State) (p v opc func : Nat) (w : VWait) (chk : VTile → VI → List (Nat × Bool)) (go : State → VTile → VI → State) :
    State :=
  let t := s.vt (kVt p v)
  let i := t.word
  if s.inLaunch p v && decide (t.wait = w) && i.opc == opc && i.func == func then
    match (((2, decide (i.rsv ≠ 0)) :: (3, decide (5 < i.ty)) :: chk t i).filter (fun c => c.2)).map (fun c => c.1) with
    | [] => go s t i
    | c :: r => s.refuseLaunch p v (r.foldl min c)
  else s

/-- An instruction that writes vd. -/
def State.vdest (s : State) (p v n : Nat) (i : VI) (r : BitVec 4096 × Byte) : State :=
  (s.updVt (kVt p v) (fun t => { t with v := Map.set 0 i.vd r.1 t.v })).vnext p v n r.2

/-- No check but the common ones. -/
def noChk (_ : VTile) (_ : VI) : List (Nat × Bool) := []
/-- Only some types, as a list. -/
def tyIn (l : List Nat) (_ : VTile) (i : VI) : List (Nat × Bool) := [(3, !l.contains i.ty)]

/-- A lane-wise instruction on two sources. -/
def State.vbin (s : State) (p v func : Nat) (f : VI → List Nat → Nat × Byte) : State :=
  s.vstep p v 1 func .none noChk (fun s t i =>
    s.vdest p v 1 i (t.mapLanes i (tyWidth i.ty) [t.vreg i.vs1, t.vreg i.vs2] (f i)))

/-- VFMA and VFMS, which count their lanes in VT_FMAS (Table 4.16). -/
def State.vfm (s : State) (p v func : Nat) (g : List Val → Val) (h : List Int → Int) : State :=
  s.vstep p v 2 func .none noChk (fun s t i =>
    let w := tyWidth i.ty
    let n := ((List.range (4096 / w)).filter (t.act i w)).length
    (s.updVt (kVt p v) (fun t => { t with fmas := t.fmas + BitVec.ofNat 64 n })).vdest p v 1 i
      (t.mapLanes i w [t.vreg i.vs1, t.vreg i.vs2, t.vreg i.vs3] (tyOp i.ty g h)))

/-- A special function: FP32 or BF16, 4 or 8 cycles of issue. -/
def State.vsfu (s : State) (p v func : Nat) : State :=
  s.vstep p v 3 func .none (tyIn [0, 1]) (fun s t i =>
    s.vdest p v (if i.ty = 0 then 4 else 8) i (t.mapLanes i (tyWidth i.ty) [t.vreg i.vs1] (sfuLane i.ty func)))

/-- A compare into a mask register. -/
def State.vcmp (s : State) (p v func : Nat) (g : Val → Val → Bool) (h : Int → Int → Bool) : State :=
  s.vstep p v 4 func .none noChk (fun s t i =>
    let r := t.compare i s.fresh g h
    (({ s with fresh := r.2.2 }).updVt (kVt p v) (fun t => { t with m := Map.set 0 (i.vd % 8) r.1 t.m })).vnext p v 1 r.2.1)

/-- A reduction. -/
def State.vred (s : State) (p v func : Nat) (g : List Val → Val) (h : List Int → Int) : State :=
  s.vstep p v 5 func .none noChk (fun s t i => s.vdest p v 1 i (t.reduce i g h))

/-- An address-register instruction. -/
def State.vaddr (s : State) (p v func : Nat) (f : VTile → VI → Word64) : State :=
  s.vstep p v 11 func .none noChk (fun s _ i =>
    (s.updVt (kVt p v) (fun t => t.setA i.vd (f t i))).vnext p v 1 0)

/-! ## Memory and streams -/

/-- The local address of VLD and VST. -/
def vaddrOf (t : VTile) (i : VI) : Nat := (t.areg i.vs1 + BitVec.ofInt 64 (64 * i.simm)).toNat

/-- The checks of an access of n bytes at local address a (R80, R84): alignment, local memory, and the program region. -/
def localChk (t : VTile) (a n : Nat) (wr : Bool) : List (Nat × Bool) :=
  [(5, decide (a % 64 ≠ 0)), (6, decide (0x200000 < a + n) || wr && decide (a < vtProg t.cfg))]

/-- Checks of a descriptor (R80): its reserved fields, R68, local memory, and for a read of memory the program region. -/
def xferChk (lim prog : Nat) (m : Bytes) (a : Nat) : List (Nat × Bool) :=
  let d := BitVec.ofNat 256 (m.rdLE a 32)
  let x := xferDesc d
  [(2, decide (bits d 95 87 ≠ 0 ∨ bits d 127 119 ≠ 0 ∨ bits d 255 216 ≠ 0)),
   (5, decide (x.sp % 64 ≠ 0 ∨ x.spStride % 64 ≠ 0 ∨ x.va % 64 ≠ 0 ∨ x.vaStride % 64 ≠ 0 ∨ x.rowBytes % 64 ≠ 0 ∨
     1 < x.rows ∧ (x.spStride < x.rowBytes ∨ x.vaStride < x.rowBytes))),
   (6, decide (lim < a + 32 ∨ lim < x.sp + (x.rows - 1) * x.spStride + x.rowBytes ∨ x.op = 0 ∧ x.sp < prog))]

/-- Flits an SRD or SWR names, and its channel. -/
def streamN (i : VI) : Nat := nbits i.imm 5 2 + 1
def streamCh (i : VI) : Nat := i.imm % 4

/-- Whether a channel is bound (R85). -/
def VTile.bound (t : VTile) (ch : Nat) : Bool := t.loaded && vtChan t.cfg ch != 0xFF

/-- Checks of an SRD (R86). -/
def srdChk (t : VTile) (i : VI) : List (Nat × Bool) := [(0xA, decide (8 < streamN i) || !t.bound (streamCh i))]

/-- SRD: pops its flits when they are present, each returning a credit with which a stalled epilogue goes on; otherwise waits (R85,
R86). -/
def State.vsrd (s : State) (p v : Nat) (t : VTile) (i : VI) : State :=
  let k := kVt p v
  let n := streamN i
  let ch := streamCh i
  let q := Map.get [] t.sc ch
  if q.length < n then s.updVt k (fun t => { t with wait := .srd })
  else
    let val := BitVec.ofNat 4096 (unchunk 512 ((q.take n).map (fun f => f.toNat)))
    let s := (s.qFree (streamPool k ch) n).updVt k (fun t => { t with
      sc := Map.set [] ch (q.drop n) t.sc, scCred := Map.upd 128 ch (fun c => c + n) t.scCred,
      v := Map.set 0 i.vd (t.merge i 32 val) t.v })
    let s := s.vnext p v 1 0
    match (s.part p).meMap[vtChan t.cfg ch]? with
    | none => s
    | some e => s.epiFeed p e

/-- Checks of an SWR (R87). -/
def swrChk (t : VTile) (i : VI) : List (Nat × Bool) :=
  let a := (t.areg i.vs3).toNat
  [(5, decide (a % 64 ≠ 0)), (6, decide (0x600000 < a + 64 * streamN i)), (0xA, decide (35 < bits (t.areg i.vs2) 5 0))]

/-- SWR: flits from the low bytes of vs1 land in an engine's scratchpad; bytes above the 512 of the register are free values (R87,
assumption 31). -/
def State.vswr (s : State) (p v : Nat) (t : VTile) (i : VI) : State :=
  match (s.part p).meMap[bits (t.areg i.vs2) 5 0]? with
  | none => s
  | some e =>
    let n := 64 * streamN i
    let low := (leBytes (t.vreg i.vs1).toNat 512).take n
    let extra := s.drawBytes (n - low.length)
    let s := extra.2.landSp (kEng p e) (t.areg i.vs3).toNat (low ++ extra.1)
    let s := if has i.imm 6 then s.advCnt (uEng p e) (nbits i.imm 9 7) else s
    s.vnext p v 1 0

/-- XDMA: its transfer starts. -/
def State.vxdma (s : State) (p v : Nat) (t : VTile) (i : VI) : State :=
  let d := BitVec.ofNat 256 (t.lm.rdLE (t.areg i.vs1).toNat 32)
  let s := s.vnext p v 1 0
  let s := s.updVt (kVt p v) (fun t => { t with xfers := t.xfers ++ [{ d := d }] })
  if t.xfers.isEmpty then s.xferGo (uVt p v) else s

/-- A branch by IMM instructions from its own place (assumption 157). -/
def State.vbranch (s : State) (p v : Nat) (i : VI) : State :=
  s.updVt (kVt p v) (fun t => { t with pc := ((t.pc : Int) + i.simm).emod 65536 |>.toNat, busy := t.busy + 2 })

/-- WAITC: its counter has reached the value, or the tile waits. -/
def State.vwaitc (s : State) (p v : Nat) (t : VTile) (i : VI) : State :=
  if reached (Map.get 0 t.cnt (i.imm % 8)) (bits (t.areg i.vs1) 31 0) then s.vnext p v 1 0
  else s.updVt (kVt p v) (fun t => { t with wait := .waitc })

/-- FENCE: no transfer is outstanding, or the tile waits. -/
def State.vfence (s : State) (p v : Nat) (t : VTile) : State :=
  if t.xfers.isEmpty then s.vnext p v 1 0 else s.updVt (kVt p v) (fun t => { t with wait := .fence })

/-! ## Rows -/

def execVadd (p : PartId) (v : VtId) (s : State) : Host.Outcome State Fault Refusal :=
  .next (s.vbin p.val v.val 0 (fun i => tyOp i.ty (fun l => (v0 l).add (v1 l)) (fun l => i0 l + i1 l)))

def execVsub (p : PartId) (v : VtId) (s : State) : Host.Outcome State Fault Refusal :=
  .next (s.vbin p.val v.val 1 (fun i => tyOp i.ty (fun l => (v0 l).add (v1 l).neg) (fun l => i0 l - i1 l)))

def execVmul (p : PartId) (v : VtId) (s : State) : Host.Outcome State Fault Refusal :=
  .next (s.vbin p.val v.val 2 (fun i => tyOp i.ty (fun l => (v0 l).mul (v1 l)) (fun l => i0 l * i1 l)))

/-- −0 is ordered below +0 (assumption 158). -/
def execVmax (p : PartId) (v : VtId) (s : State) : Host.Outcome State Fault Refusal :=
  .next (s.vbin p.val v.val 3 (fun i => tyOp i.ty (fun l => (v0 l).maxZ (v1 l)) (fun l => max (i0 l) (i1 l))))

/-- −0 is ordered below +0 (assumption 158). -/
def execVmin (p : PartId) (v : VtId) (s : State) : Host.Outcome State Fault Refusal :=
  .next (s.vbin p.val v.val 4 (fun i => tyOp i.ty (fun l => (v0 l).minZ (v1 l)) (fun l => min (i0 l) (i1 l))))

def execVand (p : PartId) (v : VtId) (s : State) : Host.Outcome State Fault Refusal :=
  .next (s.vbin p.val v.val 5 (fun _ l => (nth 0 l 0 &&& nth 0 l 1, 0)))

def execVor (p : PartId) (v : VtId) (s : State) : Host.Outcome State Fault Refusal :=
  .next (s.vbin p.val v.val 6 (fun _ l => (nth 0 l 0 ||| nth 0 l 1, 0)))

def execVxor (p : PartId) (v : VtId) (s : State) : Host.Outcome State Fault Refusal :=
  .next (s.vbin p.val v.val 7 (fun _ l => (nth 0 l 0 ^^^ nth 0 l 1, 0)))

def execVfma (p : PartId) (v : VtId) (s : State) : Host.Outcome State Fault Refusal :=
  .next (s.vfm p.val v.val 0 (fun l => ((v0 l).mul (v1 l)).add (v2 l)) (fun l => i0 l * i1 l + i2 l))

def execVfms (p : PartId) (v : VtId) (s : State) : Host.Outcome State Fault Refusal :=
  .next (s.vfm p.val v.val 1 (fun l => ((v0 l).mul (v1 l)).add (v2 l).neg) (fun l => i0 l * i1 l - i2 l))

/-- Two FMAs are counted for each 32-bit lane (assumption 160). -/
def execVdotw (p : PartId) (v : VtId) (s : State) : Host.Outcome State Fault Refusal :=
  .next (s.vstep p.val v.val 2 2 .none noChk (fun s t i =>
    let n := 2 * ((List.range 128).filter (t.act i 32)).length
    let f (l : List Nat) : Nat × Byte :=
      let c := f32 (BitVec.ofNat 32 (nth 0 l 0))
      let b (x : Nat) : Val := fBF16.decode (x % 65536)
      let x := nth 0 l 1
      let y := nth 0 l 2
      let ops := [c, b x, b y, b (x / 65536), b (y / 65536)]
      let r := arith fF32 ops ((c.add ((b x).mul (b y))).add ((b (x / 65536)).mul (b (y / 65536))))
      (r.1, vflags ops r.2)
    (s.updVt (kVt p.val v.val) (fun t => { t with fmas := t.fmas + BitVec.ofNat 64 n })).vdest p.val v.val 1 i
      (t.mapLanes i 32 [t.vreg i.vd, t.vreg i.vs1, t.vreg i.vs2] f)))

def execVexp2 (p : PartId) (v : VtId) (s : State) : Host.Outcome State Fault Refusal :=
  .next (s.vsfu p.val v.val 0)

def execVlog2 (p : PartId) (v : VtId) (s : State) : Host.Outcome State Fault Refusal :=
  .next (s.vsfu p.val v.val 1)

def execVrcp (p : PartId) (v : VtId) (s : State) : Host.Outcome State Fault Refusal :=
  .next (s.vsfu p.val v.val 2)

def execVrsq (p : PartId) (v : VtId) (s : State) : Host.Outcome State Fault Refusal :=
  .next (s.vsfu p.val v.val 3)

def execVtanh (p : PartId) (v : VtId) (s : State) : Host.Outcome State Fault Refusal :=
  .next (s.vsfu p.val v.val 4)

def execVsig (p : PartId) (v : VtId) (s : State) : Host.Outcome State Fault Refusal :=
  .next (s.vsfu p.val v.val 5)

def execVceq (p : PartId) (v : VtId) (s : State) : Host.Outcome State Fault Refusal :=
  .next (s.vcmp p.val v.val 0 (fun a b => !a.lt b && !b.lt a) (fun a b => decide (a = b)))

def execVclt (p : PartId) (v : VtId) (s : State) : Host.Outcome State Fault Refusal :=
  .next (s.vcmp p.val v.val 1 (fun a b => a.lt b) (fun a b => decide (a < b)))

def execVcle (p : PartId) (v : VtId) (s : State) : Host.Outcome State Fault Refusal :=
  .next (s.vcmp p.val v.val 2 (fun a b => !b.lt a) (fun a b => decide (a ≤ b)))

def execVrsum (p : PartId) (v : VtId) (s : State) : Host.Outcome State Fault Refusal :=
  .next (s.vred p.val v.val 0 (fun l => (v0 l).add (v1 l)) (fun l => i0 l + i1 l))

def execVrmax (p : PartId) (v : VtId) (s : State) : Host.Outcome State Fault Refusal :=
  .next (s.vred p.val v.val 1 (fun l => (v0 l).maxZ (v1 l)) (fun l => max (i0 l) (i1 l)))

def execVrmin (p : PartId) (v : VtId) (s : State) : Host.Outcome State Fault Refusal :=
  .next (s.vred p.val v.val 2 (fun l => (v0 l).minZ (v1 l)) (fun l => min (i0 l) (i1 l)))

def execVbcast (p : PartId) (v : VtId) (s : State) : Host.Outcome State Fault Refusal :=
  .next (s.vstep p.val v.val 6 0 .none noChk (fun s t i =>
    let w := tyWidth i.ty
    -- A lane number beyond the register gives a free value (assumption 31).
    let x := if i.imm < 4096 / w then (lane w i.imm (t.vreg i.vs1), s) else (s.draw.1.toNat % 2 ^ w, s.draw.2)
    x.2.vdest p.val v.val 1 i (t.merge i w (ofLanes w (List.replicate (4096 / w) x.1)), 0)))

def execVshuf (p : PartId) (v : VtId) (s : State) : Host.Outcome State Fault Refusal :=
  .next (s.vstep p.val v.val 6 1 .none noChk (fun s t i =>
    let w := tyWidth i.ty
    let n := 4096 / w
    let r := ofLanes w ((List.range n).map (fun l => lane w (lane w l (t.vreg i.vs2) % n) (t.vreg i.vs1)))
    s.vdest p.val v.val 1 i (t.merge i w r, 0)))

def execVwlo (p : PartId) (v : VtId) (s : State) : Host.Outcome State Fault Refusal :=
  .next (s.vstep p.val v.val 7 0 .none (tyIn [1, 2]) (fun s t i => s.vdest p.val v.val 1 i (t.widen i 0)))

def execVwhi (p : PartId) (v : VtId) (s : State) : Host.Outcome State Fault Refusal :=
  .next (s.vstep p.val v.val 7 1 .none (tyIn [1, 2]) (fun s t i => s.vdest p.val v.val 1 i (t.widen i 128)))

/-- A destination type of 32 bits has no room for the 256 lanes and counts as reserved (assumption 168). -/
def execVnrw (p : PartId) (v : VtId) (s : State) : Host.Outcome State Fault Refusal :=
  .next (s.vstep p.val v.val 7 2 .none (tyIn [1, 2, 4, 5]) (fun s t i => s.vdest p.val v.val 1 i (t.narrow i)))

def execVqmx (p : PartId) (v : VtId) (s : State) : Host.Outcome State Fault Refusal :=
  .next (s.vstep p.val v.val 7 3 .none (fun _ i => [(3, decide (i.imm % 16 < 5 ∨ 10 < i.imm % 16))]) (fun s t i =>
    let r := t.quant i
    s.vdest p.val v.val 2 i (t.merge i 32 r.1, r.2)))

def execVld (p : PartId) (v : VtId) (s : State) : Host.Outcome State Fault Refusal :=
  .next (s.vstep p.val v.val 8 0 .none (fun t i => localChk t (vaddrOf t i) 512 false) (fun s t i =>
    s.vdest p.val v.val 1 i (t.merge i 32 (BitVec.ofNat 4096 (t.lm.rdLE (vaddrOf t i) 512)), 0)))

def execVst (p : PartId) (v : VtId) (s : State) : Host.Outcome State Fault Refusal :=
  .next (s.vstep p.val v.val 8 1 .none (fun t i => localChk t (vaddrOf t i) 512 true) (fun s t i =>
    let s := s.each ((List.range 128).filter (t.act i 32)) (fun s l =>
      s.updVt (kVt p.val v.val) (fun x => { x with lm := x.lm.wrL (vaddrOf t i + 4 * l) (leBytes (lane 32 l (t.vreg i.vs2)) 4) }))
    s.vnext p.val v.val 1 0))

def execSrd (p : PartId) (v : VtId) (s : State) : Host.Outcome State Fault Refusal :=
  .next (s.vstep p.val v.val 9 0 .none srdChk (fun s t i => s.vsrd p.val v.val t i))

def execSrdWake (p : PartId) (v : VtId) (s : State) : Host.Outcome State Fault Refusal :=
  .next (s.vstep p.val v.val 9 0 .srd srdChk (fun s t i => s.vsrd p.val v.val t i))

def execSwr (p : PartId) (v : VtId) (s : State) : Host.Outcome State Fault Refusal :=
  .next (s.vstep p.val v.val 9 1 .none swrChk (fun s t i => s.vswr p.val v.val t i))

def execXdma (p : PartId) (v : VtId) (s : State) : Host.Outcome State Fault Refusal :=
  .next (s.vstep p.val v.val 10 0 .none (fun t i => xferChk 0x200000 (vtProg t.cfg) t.lm (t.areg i.vs1).toNat)
    (fun s t i => s.vxdma p.val v.val t i))

def execAaddi (p : PartId) (v : VtId) (s : State) : Host.Outcome State Fault Refusal :=
  .next (s.vaddr p.val v.val 0 (fun t i => t.areg i.vs1 + BitVec.ofInt 64 i.simm))

def execAadd (p : PartId) (v : VtId) (s : State) : Host.Outcome State Fault Refusal :=
  .next (s.vaddr p.val v.val 1 (fun t i => t.areg i.vs1 + t.areg i.vs2))

def execAmul (p : PartId) (v : VtId) (s : State) : Host.Outcome State Fault Refusal :=
  .next (s.vaddr p.val v.val 2 (fun t i => t.areg i.vs1 * t.areg i.vs2))

/-- The shift amount is a(VS2); Table 4.2 names no operands for AADDI, AADD, AMUL, ASHL and BNEZ (assumption 156). -/
def execAshl (p : PartId) (v : VtId) (s : State) : Host.Outcome State Fault Refusal :=
  .next (s.vstep p.val v.val 11 3 .none noChk (fun s t i =>
    let n := (t.areg i.vs2).toNat
    -- A shift by 64 or more gives a free value (assumption 31).
    let x := if n < 64 then (t.areg i.vs1 <<< n, s) else s.draw
    (x.2.updVt (kVt p.val v.val) (fun t => t.setA i.vd x.1)).vnext p.val v.val 1 0))

def execAmovv (p : PartId) (v : VtId) (s : State) : Host.Outcome State Fault Refusal :=
  .next (s.vaddr p.val v.val 4 (fun t i => (t.vreg i.vs1).extractLsb' 0 64))

def execBnez (p : PartId) (v : VtId) (s : State) : Host.Outcome State Fault Refusal :=
  .next (s.vstep p.val v.val 12 0 .none noChk (fun s t i =>
    if t.areg i.vs1 = 0 then s.vnext p.val v.val 1 0 else s.vbranch p.val v.val i))

def execJmp (p : PartId) (v : VtId) (s : State) : Host.Outcome State Fault Refusal :=
  .next (s.vstep p.val v.val 12 1 .none noChk (fun s _ i => s.vbranch p.val v.val i))

def execWaitc (p : PartId) (v : VtId) (s : State) : Host.Outcome State Fault Refusal :=
  .next (s.vstep p.val v.val 12 2 .none noChk (fun s t i => s.vwaitc p.val v.val t i))

def execWaitcWake (p : PartId) (v : VtId) (s : State) : Host.Outcome State Fault Refusal :=
  .next (s.vstep p.val v.val 12 2 .waitc noChk (fun s t i => s.vwaitc p.val v.val t i))

def execFence (p : PartId) (v : VtId) (s : State) : Host.Outcome State Fault Refusal :=
  .next (s.vstep p.val v.val 12 3 .none noChk (fun s t _ => s.vfence p.val v.val t))

def execFenceWake (p : PartId) (v : VtId) (s : State) : Host.Outcome State Fault Refusal :=
  .next (s.vstep p.val v.val 12 3 .fence noChk (fun s t _ => s.vfence p.val v.val t))

/-- The end of a program; a reserved encoding is refused here (R80, R84). -/
def execVend (p : PartId) (v : VtId) (s : State) : Host.Outcome State Fault Refusal :=
  let i := (s.vt (kVt p.val v.val)).word
  .next (if vListed i.opc i.func then
      s.vstep p.val v.val 12 4 .none noChk (fun s _ _ =>
        s.updVt (kVt p.val v.val) (fun t => { t with busy := t.busy + 1, launch := t.launch.map (fun l => { l with ended := true }) }))
    else if s.inLaunch p.val v.val then s.refuseLaunch p.val v.val 1 else s)

/-- A VLAUNCH at the head starts its program at ENTRY with a1 to a7 (R84). -/
def execVlaunch (p : PartId) (v : VtId) (s : State) : Host.Outcome State Fault Refusal :=
  let u := uVt p.val v.val
  .next (match s.headCmd u with
    | none => s
    | some c =>
      if cOp c ≠ 0x10 then s
      else
        let code := s.vtCode p.val v.val c
        let s := s.popHead u
        if code ≠ 0 then s.refuse u c code 0
        else s.updVt (kVt p.val v.val) (fun t =>
          (List.range 7).foldl (fun t j => t.setA (j + 1) (c.extractLsb' (64 * (j + 1)) 64))
            { t with launch := some { cmd := c }, pc := bits c 47 32, wait := .none }))

/-- A launch completes after END and every transfer it started (R84). -/
def execLaunchComplete (p : PartId) (v : VtId) (s : State) : Host.Outcome State Fault Refusal :=
  .next (s.endLaunch p.val v.val)

/-- The oldest flit in flight to a channel lands in its FIFO (R85). -/
def execStreamFlitDeliver (p : PartId) (v : VtId) (ch : Fin 4) (s : State) : Host.Outcome State Fault Refusal :=
  .next (s.updVt (kVt p.val v.val) (fun t =>
    match Map.get [] t.scFly ch.val with
    | [] => t
    | f :: r => { t with scFly := Map.set [] ch.val r t.scFly, sc := Map.upd [] ch.val (fun l => l ++ [f]) t.sc }))

end Sys2Proof.Machine
end

