-- ==== Sys2Proof/Machine/Tiles.lean ====
section
/-!
DEFINITION. Shared operations of the tiles: traps, issuing, event records, barriers, soft start, and saving and restoring the
units of a stage (R89 to R101, R241).
-/

namespace Sys2Proof.Machine

/-! ## The scalar tile -/

/-- Fields of a control instruction (R89). -/
def kRd (w : BitVec 32) : Nat := bits w 11 7
def kRs1 (w : BitVec 32) : Nat := bits w 19 15
def kRs2 (w : BitVec 32) : Nat := bits w 24 20
/-- An integer register; x0 reads as zero. -/
def STile.xreg (t : STile) (r : Nat) : Word64 := if r = 0 then 0 else Map.get 0 t.x r
/-- The values of rs1 and rs2 of the instruction at the PC. -/
def STile.rs1 (t : STile) : Word64 := t.xreg (kRs1 t.kword)
def STile.rs2 (t : STile) : Word64 := t.xreg (kRs2 t.kword)
/-- rd of the instruction at the PC is written, and the tile goes on. -/
def STile.retire (t : STile) (v : Word64) : STile := { t.setX (kRd t.kword) v with pc := t.pc + 4, wait := .none }
/-- The tile goes on past an instruction that writes no register. -/
def STile.goOn (t : STile) : STile := { t with pc := t.pc + 4, wait := .none }

/-- Whether the control instruction funct3, funct7 stands at the PC of a running tile in a given wait (R89). -/
def State.kat (s : State) (p t f3 f7 : Nat) (w : KWait) : Bool :=
  let x := s.tile (kSt p t)
  let i := x.kword
  decide ((s.unit (uSt p t)).st = .run) && x.ended.isNone && decide (x.wait = w) && bits i 6 0 == 0x0B && bits i 14 12 == f3 &&
    bits i 31 25 == f7

/-- A trap in user mode: the tile halts in TRAPPED, mcause and mtval are recorded, and a fault record is posted (R94). -/
def State.trap (s : State) (p t cause : Nat) (tval : Word64) : State :=
  let u := uSt p t
  let s := s.updSt (kSt p t) (fun x => { x with cause := cause % 256, tval := tval, wait := .none })
  let s := s.updUnit u (fun x => { x with st := .trapped })
  s.fault { cid := s.cidOf u, status := 0x030E, kind := 2, fatal := true, write := false, atomic := false, xid := (s.unit u).xid,
            unit := (s.lrefOf u).getD 0xFFFF, index := 0xFFFF, epoch := 0, addr := tval.toNat, info := cause }

/-- Whether the word at the PC is a control instruction that Table 4.7 does not list, or writes one of the CSRs of Table 4.9 (R89, R93). -/
def STile.illegal (t : STile) : Bool :=
  let i := t.kword
  let f3 := bits i 14 12
  let f7 := bits i 31 25
  let top := match f3 with | 0 => 1 | 1 => 1 | 2 => 0 | 3 => 0 | 4 => 1 | 5 => 2 | _ => 0
  bits i 6 0 == 0x0B && decide (top < f7) ||
    bits i 6 0 == 0x73 && decide (0xCC0 ≤ bits i 31 20 ∧ bits i 31 20 ≤ 0xCC3) && f3 % 4 != 0 && (f3 % 4 == 1 || kRs1 i != 0)

/-- What a user-mode CSR of Table 4.9 reads (R93). -/
def State.kcsr (s : State) (p t n : Nat) : Option Word64 :=
  let x := s.tile (kSt p t)
  match n with
  | 0xCC0 => some (BitVec.ofNat 64 (s.unit (uSt p t)).xid)
  | 0xCC1 => some (BitVec.ofNat 64 (256 * (s.part p).lp + t))
  | 0xCC2 => some (BitVec.ofNat 64 x.evq.length)
  | 0xCC3 => some (x.kpst.setWidth 64)
  | _ => none

/-- The control instruction funct3, funct7 runs when it stands at the PC; an illegal word there traps instead, with the word in mtval (R89,
R93, R94). -/
def State.krun (s : State) (p t f3 f7 : Nat) (w : KWait) (go : State → State) : State :=
  let x := s.tile (kSt p t)
  if s.kat p t f3 f7 w then go s
  else if decide ((s.unit (uSt p t)).st = .run) && x.ended.isNone && decide (x.wait = .none) && x.illegal then
    s.trap p t 2 (x.kword.setWidth 64)
  else s

/-- Whether a user access of n bytes at a is inside local memory, and a store outside the program region (R88). -/
def STile.userOk (t : STile) (a n : Nat) (wr : Bool) : Bool :=
  decide (a + n ≤ 0x80000) && !(wr && decide (a < stProg t.cfg))

/-- The unit a unit operand names: an engine, or with bit 8 a vector tile of the partition; only one this tile issues to (R89). -/
def State.unitOperand (s : State) (p t v : Nat) : Option Nat :=
  match s.unitIn p (nbits v 8 8) (v % 256) with
  | none => none
  | some u => if s.issuer u = kSt p t ∧ ((ukind u = .eng p (u % 61)) ∨ (s.vt (kVt p (u % 61 - 38))).loaded = true) then some u else none

/-- Queue credits the tile holds for a unit. -/
def State.heldCred (s : State) (u : Nat) : Nat :=
  match ukind u with
  | .eng p e => (s.engine (kEng p e)).cred
  | .vt p v => (s.vt (kVt p v)).cred
  | .st _ _ => 0
/-- The credits it may use: none while the pool is resolved (R130). -/
def State.creditOf (s : State) (u : Nat) : Nat := if (s.pool (queuePool u)).resolving then 0 else s.heldCred u

/-- Puts a command into a unit's queue against a credit. At a fenced unit the router drops it and the credit returns (R58, R90,
R111). -/
def State.enqueue (s : State) (k u : Nat) (c : Cmd) : State :=
  if (s.unit u).portClosed ∨ (s.unit u).fenced then
    (s.updSt k (fun t => { t with issued := t.issued + 1, completed := t.completed + 1 })).countDrop (unitRouter u)
  else
    let s := s.updSt k (fun t => { t with issued := t.issued + 1 })
    let s := s.qUse (queuePool u) 1
    match ukind u with
    | .eng p e => s.updEng (kEng p e) (fun x => { x with queue := x.queue ++ [c], cred := x.cred - 1 })
    | .vt p v => s.updVt (kVt p v) (fun x => { x with queue := x.queue ++ [c], cred := x.cred - 1 })
    | .st _ _ => s

/-- KISSUE and KTRYISSUE (R89, R90): all 64 bytes move or none. -/
def State.kissue (s : State) (p t : Nat) (try_ : Bool) : State :=
  let k := kSt p t
  let x := s.tile k
  let a := x.rs1.toNat
  match s.unitOperand p t x.rs2.toNat with
  | none => let d := s.draw; d.2.trap p t 5 d.1
  | some u =>
    if a % 64 ≠ 0 ∨ !x.userOk a 64 false then s.trap p t 5 x.rs1
    else if s.creditOf u = 0 then
      (if try_ then s.updSt k (fun y => y.retire 1) else s.updSt k (fun y => { y with wait := .kissue }))
    else
      let s := s.enqueue k u (BitVec.ofNat 512 (x.lm.rdLE a 64))
      s.updSt k (fun y => y.retire (if try_ then 0 else BitVec.ofNat 64 (s.creditOf u)))

/-- The 16 bytes of a record go to local memory. -/
def STile.wrEvent (t : STile) (a : Nat) (r : BitVec 128) : STile := { t with lm := t.lm.wrL a (leBytes r.toNat 16) }

/-- KEVPOP and KEVWAIT (R89, R91): pops the oldest record; its posting credit comes back. -/
def State.kevpop (s : State) (p t : Nat) (wait : Bool) : State :=
  let k := kSt p t
  let x := s.tile k
  let a := x.rs1.toNat
  match x.evq with
  | [] =>
    if wait then s.updSt k (fun y => { y with wait := .kevwait })
    else s.updSt k (fun y => y.retire (BitVec.ofInt 64 (-1)))
  | r :: rest =>
    if !x.userOk a 16 true then s.trap p t 7 x.rs1
    else
      ((s.qFree (eventPool k) 1).updSt k (fun y =>
        ({ y with evq := rest, evCred := y.evCred + 1 }.retire (BitVec.ofNat 64 rest.length)).wrEvent a r)).repost k

/-! ## Barriers (R95 to R98) -/

/-- A BAR_ARRIVE (6) or BAR_RELEASE (7) flit: one flit, on VC3 (R119, Table 5.3). -/
def barFlit (kind p q xid : Nat) : Flit :=
  { Flit.zero with dst := epRouter q 63, src := epRouter p 63, vc := 3, kind := kind, tail := true, last := true, leg := true, xid := xid }

/-- A flit goes by the express links from the barrier block of partition p to that of q, when every hop has a credit: each barrier block on the
way takes it in and frees its slot, and the seams and die edges on the way let it pass (R119, R128, R131). -/
def State.express (s : State) (p q : Nat) (f : Flit) : Option State :=
  let hops := expressHops 16 p q
  if hops.all (fun id => (s.pool id).ready && (expressXings id).all (fun x => s.xingOpen (some x))) then
    some (s.each hops (fun s id => (((s.sendOn id f).crossAll (expressXings id)).landOn id f).freeOn id))
  else none

/-- Whether a tile of a partition is a member of barrier b of its composition. -/
def State.barMember (s : State) (p t b : Nat) : Bool :=
  let x := s.bar (s.part p).cid b
  x.defined && x.members.contains (mkLref (s.part p).lp 2 t)

/-- A tile waits at a barrier. -/
def State.barWait (s : State) (p t b : Nat) : State :=
  let k := kSt p t
  (s.updSt k (fun y => { y with wait := .kbar b })).updBar (s.part p).cid b (fun x =>
    { x with waiting := if x.waiting.contains k then x.waiting else x.waiting ++ [k] })

/-- A tile's arrival is sent to the root, unless one of it is outstanding already (R95, R99). -/
def State.barSend (s : State) (p t b : Nat) : State :=
  let k := kSt p t
  if has (s.tile k).arrived b then s
  else (s.updSt k (fun y => { y with arrived := setBit y.arrived b })).updBar (s.part p).cid b (fun x => { x with
    arriving := x.arriving + 1, src := x.src ++ [p] })

/-- A KBAR's status where the spec states none: either of the two a KBAR can have, 0x0000 and 0x0201, by the free value `v` (R11, R95,
R96, assumption 32). -/
def freeKbarStatus (v : Word64) : Word16 := if v.getLsbD 0 then 0x0201 else 0

/-- KBAR (R89, R95, R96): `mode` 0 arrives and waits, 1 arrives, 2 waits for a release that is outstanding. rd is a free value. A form
that does not wait has succeeded: kpst is 0; a tile that is no member gets a free one of the two statuses (assumption 32). -/
def State.kbar (s : State) (p t mode : Nat) : State :=
  let k := kSt p t
  let b := (s.tile k).rs1.toNat % 32
  let d := s.draw
  let leave (s : State) (v : Word64) (st : Word16) : State := s.updSt k (fun y => { y.retire v with kpst := st })
  if !s.barMember p t b then leave d.2.draw.2 d.1 (freeKbarStatus d.2.draw.1)
  else if (s.bar (s.part p).cid b).broken then leave d.2 d.1 0x0201
  else
    let multi := (s.comp (s.part p).cid).multi
    let j := if multi && decide (mode ≠ 2) then s.touchJob (s.part p).cid (s.workOn (uSt p t)) true else (true, s)
    if !j.1 then j.2
    else match mode with
      | 0 => (j.2.barSend p t b).barWait p t b
      | 1 => let s := j.2.barSend p t b; let d := s.draw; leave d.2 d.1 0
      | _ => if has (s.tile k).arrived b then s.barWait p t b else leave d.2 d.1 0

/-- Members of a barrier. -/
def Barrier.n (x : Barrier) : Nat := x.members.length

/-- Logical partitions with a member tile or engine of a barrier. -/
def Barrier.lps (x : Barrier) : List Nat := ((x.members ++ x.engs.map (fun e => e.1)).map lrefPart).eraseDups

/-- The root releases a barrier: the phase flips, the count returns to zero, and the release is on its way; a partition that an earlier
release has not reached yet still receives both (R95). -/
def State.barFlip (s : State) (c b : Nat) : State :=
  s.updBar c b (fun x => { x with
    phase := !x.phase, count := x.count - x.n,
    toRelease := x.toRelease ++ x.lps.filterMap (fun lp => (s.comp c).phys lp) })

/-- A released member: its arrival is no longer outstanding, and if it waits it resumes with kpst 0 (R95). A rd that a waiting
instruction names takes a free value. -/
def State.barFree (s : State) (b k : Nat) : State :=
  let s := s.updSt k (fun y => { y with arrived := clrBit y.arrived b })
  if (s.tile k).wait = .kbar b then let d := s.draw; d.2.updSt k (fun y => { y.retire d.1 with kpst := 0 })
  else s

/-- Wave of an engine (R97): its logical index and the quadrant. -/
def waveOf (p i : Nat) : Nat := (i + 4 * quadOf p) % 8

/-- A release reaches a member engine: its counter advances, and an idle array enters its soft start; wave 0 ramps at once (R97,
R98). -/
def State.barEngine (s : State) (p i cnt : Nat) : State :=
  match (s.part p).meMap[i]? with
  | none => s
  | some e =>
    let s := s.advCnt (uEng p e) cnt
    s.updEng (kEng p e) (fun x =>
      if x.arr.exe.isNone && decide (x.soft = Soft.none) then
        { x with soft := if waveOf p i = 0 then .ramp else .hold }
      else x)

/-- A release reaches a member partition (R95, R97). -/
def State.barReach (s : State) (c b p : Nat) : State :=
  let x := s.bar c b
  if !x.toRelease.contains p then s
  else
    let lp := (s.part p).lp
    let ts := (x.members.filter (fun l => lrefPart l == lp)).map lrefIdx
    let s := s.updBar c b (fun y => { y with
      toRelease := y.toRelease.erase p, waiting := y.waiting.filter (fun k => !(decide (k / 4 = p))) })
    let s := s.each ts (fun s t => s.barFree b (kSt p t))
    let s := s.each (s.ctxsOf c) (fun s y => s.updCtx y (fun k => { k with
      saved := k.saved.map (fun (e : Nat × Save) =>
        if ts.contains (lrefIdx e.1) && lrefPart e.1 == lp && lrefKind e.1 == 2 then
          (match e.2 with | .st r => (e.1, .st (r.released b 0)) | v => (e.1, v))
        else e) }))
    s.each (x.engs.filter (fun e => lrefPart e.1 == lp)) (fun s e => s.barEngine p (lrefIdx e.1) e.2)

/-! ## Saving and restoring tiles (R99 to R101) -/

/-- A scalar tile's record. Its live map stays as restored: the spec names no command that writes one of a scalar tile (assumption 169). -/
def STile.save (t : STile) (trapped : Bool) (creds : List Nat) : StSave :=
  { creds := creds, trapped := trapped, pc := t.pc, arrived := t.arrived, fcsr := t.fcsr, x := t.x, f := t.f, kpst := t.kpst, lmap := t.lmap,
    evq := t.evq, live := liveBytes t.lmap t.lm, issued := t.issued, completed := t.completed, xfers := t.xfers, ended := t.ended,
    barWait := match t.wait with | .kbar b => some b | _ => none }

/-- A vector tile's record. Stream flits in flight have landed in their FIFO at the capture: nothing is dropped (R85). -/
def VTile.save (t : VTile) : VtSave :=
  { halted := t.halted, launch := t.launch, pc := t.pc, cnt := t.cnt, cmdErr := t.cmdErr, a := t.a, m := t.m, lmap := t.lmap,
    v := t.v, queue := t.queue,
    sc := (List.range 4).foldl (fun m c => Map.set [] c (Map.get [] t.sc c ++ Map.get [] t.scFly c) m) [], xfers := t.xfers, live := liveBytes t.lmap t.lm, posts := t.posts }

/-- A stop request to a tile: it stops at an instruction boundary, its record is written, and it is zeroed (R99). A vector tile stops
after its issuer, and no transfer of the tile may be outstanding outside. -/
def State.stopTile (s : State) (u : Nat) : State :=
  let c := s.unit u
  let fin (s : State) : State := ((s.clearUnit u).updUnit u (fun x => { x with st := .stopped, stop := true, cache := [], miss := none })).ackAll u
  match ukind u with
  | .eng _ _ => s
  | .vt p v =>
    let is := s.issuer u
    if c.st = .run ∧ c.ext.isNone = true ∧ (s.unit (uSt (is / 4) (is % 4))).st ≠ .run then
      fin (s.putSave c.xid u (.vt (s.vt (kVt p v)).save))
    else s
  | .st p t =>
    if (c.st = .run ∨ c.st = .trapped) ∧ c.ext.isNone = true then
      let k := kSt p t
      let s := { s with bars := Map.mapV {} (fun _ b => { b with waiting := b.waiting.erase k }) s.bars }
      fin (s.putSave c.xid u (.st ((s.tile k).save (decide (c.st = .trapped)) ((s.issues p t).map s.heldCred))))
    else s

/-- Entries of a vector tile's record that keep queue credits. -/
def VtSave.held (r : VtSave) : Nat := r.queue.length + (if r.launch.isSome then 1 else 0) + r.posts.length

/-- Loads a vector tile's record (R100). Its program region is loaded again from the culture. -/
def State.loadVt (s : State) (p v x : Nat) (r : VtSave) : State :=
  let u := uVt p v
  let s := s.readSave x u (.vt r)
  let s := s.updVt (kVt p v) (fun t => { t with
    v := r.v, m := r.m, a := r.a, cnt := r.cnt, pc := r.pc, lm := Bytes.ofCells r.live, queue := r.queue, launch := r.launch, wait := .none,
    xfers := r.xfers, lmap := r.lmap, halted := r.halted, cmdErr := r.cmdErr, scFly := [], sc := r.sc,
    scCred := (List.range 4).foldl (fun m c => Map.set 128 c (Map.get 128 t.scCred c - (Map.get [] r.sc c).length) m) [],
    cred := t.cred - r.held, posts := r.posts })
  let s := (s.qUse (queuePool u) r.held).each (List.range 4) (fun s c => s.qUse (streamPool (kVt p v) c) (Map.get [] r.sc c).length)
  ((s.loadProg u).updUnit u (fun c => { c with st := .run, stop := false, xid := x })).xferGo u

/-- Loads a scalar tile's record (R101). -/
def State.loadSt (s : State) (p t x : Nat) (r : StSave) : State :=
  let u := uSt p t
  let s := s.readSave x u (.st r)
  let s := s.updSt (kSt p t) (fun k => { k with
    x := r.x, f := r.f, fcsr := r.fcsr, pc := r.pc, lm := Bytes.ofCells r.live, user := true, kpst := r.kpst, evq := r.evq,
    evCred := k.evCred - r.evq.length, wait := .none, arrived := r.arrived, issued := r.issued, completed := r.completed,
    xfers := r.xfers, lmap := r.lmap, ended := r.ended })
  let s := s.qUse (eventPool (kSt p t)) r.evq.length
  ((s.loadProg u).updUnit u (fun c => { c with st := if r.trapped then .trapped else .run, stop := false, xid := x })).xferGo u

/-- Whether a unit runs for a context. -/
def State.runsFor (s : State) (u x : Nat) : Bool := decide ((s.unit u).xid = x ∧ ((s.unit u).st = .run ∨ (s.unit u).st = .trapped))

/-- Restores one unit from a context's save area; one that has been restored already goes on. A unit without a record is zeroed and starts empty,
running for the context (R241, R243). A scalar tile without an image stays IDLE (R147). -/
def State.loadUnit (s : State) (u x : Nat) : State :=
  if s.runsFor u x then s
  else
    let s := s.clearUnit u
    match s.savedOf x u, ukind u with
    | .eng r, .eng p e => s.loadEng p e x r
    | .vt r, .vt p v => s.loadVt p v x r
    | .st r, .st p t => s.loadSt p t x r
    | _, .st p t => if stImage (s.tile (kSt p t)).cfg = 0xFFFF then s
                    else (s.loadProg u).updUnit u (fun c => { c with st := .run, stop := false, xid := x })
    | _, _ => (s.loadProg u).updUnit u (fun c => { c with st := .run, stop := false, xid := x })

/-- Stops and saves one unit at once, in the order scalar tiles, then the units they issue to. -/
def State.saveUnit (s : State) (u : Nat) : State :=
  match ukind u with
  | .eng p e => (s.stopEng p e).saveEng p e
  | _ => s.stopTile u

end Sys2Proof.Machine
end

