-- ==== Sys2Proof/Machine/FabOps.lean ====
section
/-!
DEFINITION. Shared operations of the fabric: the tree among ranks, a job's barriers, formation, collectives and frequency rounds, and
PEER requests at their target (R266 to R289).
-/

namespace Sys2Proof.Machine

/-! ## The lanes of a churn node (R125, Tables 5.6 and 5.7) -/

/-- One lane of a churn operation. -/
def churnLane (op : Nat) (xs : List Nat) : Nat :=
  let f := if op = 1 ∨ op = 4 ∨ op = 5 then fBF16 else fF32
  match xs.map f.decode with
  | [] => 0
  | v :: vs =>
    let r := if op ≤ 1 then vs.foldl Val.add v else if op = 2 ∨ op = 4 then vs.foldl Val.maxZ v else vs.foldl Val.minZ v
    (f.narrow r).1

/-- The combined flit of a node's inputs. -/
def churnOp (op : Nat) (xs : List (BitVec 512)) : BitVec 512 :=
  let w := if op = 1 ∨ op = 4 ∨ op = 5 then 16 else 32
  BitVec.ofNat 512 (unchunk w ((List.range (512 / w)).map (fun l => churnLane op (xs.map (fun x => bits x (w * l + w - 1) (w * l))))))

/-! ## The tree among ranks (R282, Table 11.7) -/

/-- The rank of a node in a job. -/
def Job.rankOf (j : Job) (n : Nat) : Option Nat := j.nodes.findIdx? (fun x => x == n)

/-- The first rank met on the torus route from node n toward node t. -/
def firstRank (f : Fab) (j : Job) (fuel n t : Nat) : Nat :=
  match fuel with
  | 0 => 0
  | k + 1 =>
    match f.toward n t with
    | none => 0
    | some (d, pos) =>
      let m := (f.stepNode n d pos).1
      match j.rankOf m with
      | some r => r
      | none => firstRank f j k m t

/-- Parent of a rank; rank 0 has none. -/
def Fab.parent (f : Fab) (j : Job) (r : Nat) : Option Nat :=
  if r = 0 then none
  else if !f.dragonfly then some (firstRank f j 48 (nth 0 j.nodes r) (nth 0 j.nodes 0))
  else
    let grp (x : Nat) : Nat := nth 0 j.nodes x / f.gsize
    let members := (List.range j.ranks).filter (fun x => grp x == grp r)
    let i := (members.findIdx? (fun x => x == r)).getD 0
    if 0 < i then members[(i - 1) / 7]?
    else
      let leaders := (List.range j.ranks).filter (fun x => !(List.range x).any (fun y => grp y == grp x))
      let k := (leaders.findIdx? (fun x => x == r)).getD 0
      if k = 0 then some 0 else leaders[(k - 1) / 7]?

/-- Children of a rank. -/
def Fab.children (f : Fab) (j : Job) (r : Nat) : List Nat := (List.range j.ranks).filter (fun x => decide (f.parent j x = some r))

/-- A frame of a job to one of its ranks (R265, R272). -/
def State.toRank (s : State) (c rank : Nat) (f : Frame) : State :=
  let j := s.job c
  let n := nth 0 j.nodes rank
  s.sendFrame { f with dst := n, src := s.fab.node, srcMgen := s.fab.mgen, dstMgen := Map.get 0 j.mgens n, fjob := j.fjob, last := f.last }

/-- A frame to the parent, and to every child. -/
def State.toParent (s : State) (c : Nat) (f : Frame) : State :=
  match s.fab.parent (s.job c) (s.job c).rank with | none => s | some r => s.toRank c r f
def State.toChildren (s : State) (c : Nat) (f : Frame) : State :=
  s.each (s.fab.children (s.job c) (s.job c).rank) (fun s r => s.toRank c r f)

/-! ## Barriers (R285) -/

/-- A BAR frame of barrier b. -/
def State.barFrame (s : State) (c b : Nat) (release : Bool) : Frame :=
  { Frame.zero with typ := 8, cls := 3, last := true, sel := b,
                    arg := BitVec.ofNat 64 (fld 48 (s.job c).fgen.toNat + fld 32 (b2n release) + b2n (s.bar c b).phase) }

/-- A BAR RELEASE flows down the tree, and the members of this module are released. -/
def State.barSpread (s : State) (c b : Nat) : State := (s.toChildren c (s.barFrame c b true)).barFlip c b

/-- Rank 0 has an arrival of a rank at a barrier; with every rank there it releases. -/
def State.barRank (s : State) (c b rank : Nat) : State :=
  let s := s.updJob c (fun j => { j with barArr := if j.barArr.contains (b, rank) then j.barArr else j.barArr ++ [(b, rank)] })
  let j := s.job c
  if (List.range j.ranks).all (fun r => j.barArr.contains (b, r)) then
    (s.updJob c (fun j => { j with barArr := j.barArr.filter (fun e => e.1 != b) })).barSpread c b
  else s

/-- A barrier of a MULTI_MODULE composition has completed on this module: its root tells rank 0. -/
def State.barLocal (s : State) (c b : Nat) : State :=
  let j := s.job c
  if j.st ≠ .formed then s
  else if j.rank = 0 then s.barRank c b 0
  else s.toRank c 0 (s.barFrame c b false)

/-! ## Frequency rounds (R286, R379) -/

/-- PWR's offer for a composition (R384): the highest set clock, up to the full clock and the lowest FMAX of its units, at which the
predicted input power, every other bound partition at its present clock, stays within the effective cap; never below the hold clock. -/
def State.offerMhz (s : State) (c : Nat) : Nat :=
  let x := s.comp c
  let h := holdClock x.floorMhz
  let top := x.members.foldl (fun m p => ((s.part p).meMap.map (fun e => s.fmaxFull (uEng p e))).foldl min m) 2000
  let clock (p f : Nat) : Nat := if (s.part p).cid = c then f else (s.isl (uEng p 0)).set
  let fits (f : Nat) : Bool := decide (inputWatts (s.boundParts.map (fun p => (p, clock p f))) ≤ s.capEff)
  ((List.range 84).map (fun i => 25 * i)).foldl (fun m f => if h ≤ f ∧ f ≤ top ∧ fits f then f else m) h

/-- A STEP of a job is seen in a frame or reached here (R286). -/
def Job.sawStep (j : Job) (step : Nat) : Job := if batchGe step j.topStep then { j with topStep := step } else j

/-- The highest STEP seen: in frames, or reached here. -/
def Job.highStep (j : Job) : Nat := (j.steps.foldl (fun k e => k.sawStep e.2) j).topStep

/-- A FREQ_OFFER or FREQ_SET notice of a job (Table 11.8). -/
def State.freqFrame (s : State) (c code mhz step : Nat) : Frame :=
  { Frame.zero with typ := 9, cls := 3, last := true, tag := step,
                    arg := noticeArg code s.fab.mgen s.fab.node (s.job c).fgen (mhz % 4096) }

/-- A pending frequency takes effect once its step has started. -/
def State.freqApply (s : State) (c : Nat) : State :=
  (s.updJob c Job.settleMhz).followMhz c (s.job c).mhz

/-- FREQ_SET reaches this module: it goes down the tree, and waits for its step. -/
def State.freqSet (s : State) (c mhz step : Nat) : State :=
  if (s.job c).st ≠ .formed then s
  else
    let s := s.toChildren c (s.freqFrame c 5 mhz step)
    (s.updJob c (fun j => { j with pendMhz := some (mhz, step) })).freqApply c

/-- An offer has been taken in: with the offers of this module and of every child there, the minimum goes up, or rank 0 sets it with a
step 2 above the highest it has seen. The offers stand until newer ones replace them, so that a change of one makes a round (R286). -/
def State.freqGather (s : State) (c : Nat) : State :=
  let j := s.job c
  let want := j.rank :: s.fab.children j j.rank
  if j.st = .formed ∧ want.all (fun r => j.offers.any (fun e => e.1 == r)) then
    let m := (j.offers.map (fun e => e.2)).foldl min 4095
    if j.rank = 0 then s.freqSet c m ((j.highStep + 2) % 65536)
    else s.toParent c (s.freqFrame c 4 m 0)
  else s

/-- A round: this module's own offer (R286). -/
def State.freqRound (s : State) (c : Nat) : State :=
  if (s.job c).st ≠ .formed then s
  else
    let m := s.offerMhz c
    (s.updJob c (fun j => { j with offers := j.offers.filter (fun e => e.1 != j.rank) ++ [(j.rank, m)], offered := m })).freqGather c

/-- A round runs when this module's offer has changed by 50 MHz or more (R286). -/
def State.freqChange (s : State) (c : Nat) : State :=
  let j := s.job c
  if j.st ≠ .formed then s
  else
    let m := s.offerMhz c
    if j.offered + 50 ≤ m ∨ m + 50 ≤ j.offered then s.freqRound c else s

/-! ## Formation (R279, Table 11.6) -/

/-- The job is FORMED: steps count from 0, and a frequency round runs. -/
def State.jobFormed (s : State) (c : Nat) : State :=
  (s.updJob c (fun j => { j with st := .formed, steps := [], topStep := 0, windows := [], landed := [], barArr := [], offers := [],
                                    pendMhz := none })).freqRound c

/-- Whether every rank has answered. -/
def Job.allHere (j : Job) : Bool := (List.range j.ranks).all (fun r => j.hello.contains r)

/-- Effective digest a HELLO carries: of the operation in progress, or of the committed shape. -/
def State.helloDigest (s : State) (c : Nat) : Digest :=
  match (s.comp c).op with | some o => if o.kind = .bind then o.newEff else (s.comp c).eff | none => (s.comp c).eff

/-- A HELLO notice of this module for a job of a composition (R279, Table 11.9). -/
def State.helloOf (s : State) (c : Nat) (j : Job) : Frame :=
  { Frame.zero with
    typ := 9, cls := 3, last := true, len := 1, arg := noticeArg 6 s.fab.mgen s.fab.node j.fgen 0,
    payload := [BitVec.ofNat 512 ((s.helloDigest c).toNat + fld 384 j.ranks + fld 400 j.rank)] }
def State.helloFrame (s : State) (c : Nat) : Frame := s.helloOf c (s.job c)

/-- The FAB_JOIN, by its staging handle, whose job has not begun forming. -/
def State.joinBy (s : State) (fjob : Nat) : Option (Nat × Job) := s.fab.joins.find? (fun e => decide (e.2.st = .joined) && e.2.fjob == fjob)

/-- The FAB_JOIN of the operation of a composition, or of its re-bind that has rolled back. -/
def State.joinFor (s : State) (c : Nat) : Option Job :=
  (s.fab.joins.find? (fun e => decide (e.2.st = .joined) &&
    (decide (e.2.back = some c) || (s.comp c).op.any (fun o => decide (o.handle = e.1))))).map (fun e => e.2)

/-- A rank whose re-bind has rolled back answers HELLO with its old effective digest, so that formation fails on every rank (R173). -/
def State.answerHello (s : State) (c : Nat) (j : Job) (rank : Nat) : State :=
  let n := nth 0 j.nodes rank
  s.sendFrame { s.helloOf c j with dst := n, src := s.fab.node, srcMgen := s.fab.mgen, fjob := j.fjob }

/-- A HELLO of a job that this module has joined and is not forming: it is kept for the time it forms, or answered at once when the re-bind to
the joined culture has rolled back. -/
def State.earlyHello (s : State) (fjob rank : Nat) (digest : Digest) (ranks : Nat) (mgen : Word16) : State :=
  match s.joinBy fjob with
  | none => s
  | some (h, j) =>
    match j.back with
    | some c => s.answerHello c j rank
    | none => { s with fab := { s.fab with joins := Map.set {} h { j with early := j.early ++ [(rank, digest, ranks, mgen)] } s.fab.joins } }

/-- The HELLOs that a rolled-back re-bind leaves unanswered are answered. -/
def State.settleHellos (s : State) : State :=
  s.each s.fab.joins (fun s e => match e.2.back with
    | none => s
    | some c => s.each e.2.early (fun s x => s.answerHello c e.2 x.1) |> fun s =>
        { s with fab := { s.fab with joins := Map.set {} e.1 { e.2 with early := [] } s.fab.joins } })

/-- A HELLO of a rank arrives: one with the same digest and RANKS counts, and brings the MGEN of its node. -/
def State.takeHello (s : State) (c rank : Nat) (digest : Digest) (ranks : Nat) (mgen : Word16) : State :=
  let j := s.job c
  if j.st = .forming ∧ rank < j.ranks ∧ ranks = j.ranks ∧ digest = s.helloDigest c then
    let s := s.updJob c (fun j => { j with hello := if j.hello.contains rank then j.hello else j.hello ++ [rank],
                                           mgens := Map.set 0 (nth 0 j.nodes rank) mgen j.mgens })
    if (s.job c).allHere then s.jobFormed c else s
  else s

/-- Window memory in KiB that a spanning group takes on its I/O die (R282). -/
def State.windowKib (s : State) (c g : Nat) : Nat :=
  let j := s.job c
  if (findFrm (s.comp c).frames 7 g).isSome then 256 * ((s.fab.children j j.rank).length + 1) else 256

/-- Window memory in use on an I/O die. -/
def State.dieKib (s : State) (d : Nat) : Nat :=
  (s.fab.jobs.map (fun e => ((e.2.dies.filter (fun x => x.2 == d)).map (fun x => s.windowKib e.1 x.1)).sum)).sum

/-- Each spanning group of a composition takes the lowest-numbered I/O die whose 8 MiB have room for it; none where one fits on no die (R282,
assumption 221). -/
def State.takeDies (s : State) (c : Nat) : Option State :=
  let gs := ((s.comp c).frames.filter (fun f => f.typ == 10)).map (fun f => fle f.body 2 2)
  gs.foldl (fun (t : Option State) g => t.bind (fun s =>
    ((List.range 4).find? (fun d => decide (s.dieKib d + s.windowKib c g ≤ 8192))).map (fun d =>
      s.updJob c (fun j => { j with dies := Map.set 4 g d j.dies })))) (some (s.updJob c (fun j => { j with dies := [] })))

/-- The job of a composition ends (Table 11.6). -/
def State.endJob (s : State) (c : Nat) : State :=
  if (s.job c).st = .none then s else (s.updJob c (fun _ => {})).journal (.fjobEnd c)

/-- Formation fails (R279): a bind fails with FABRIC; after a re-bind the job ends and the operator hears of it. -/
def State.formFail (s : State) (c : Nat) : State :=
  if (s.job c).st ≠ .forming then s
  else match (s.comp c).op with
    | some o => if o.kind = .bind then s.rollback c 0x061A 0x061A else (s.endJob c).emit (.operator 0x061A c)
    | none => (s.endJob c).emit (.operator 0x061A c)

/-- Formation begins: each spanning group takes its window, and a HELLO goes to every other rank. Its DST_MGEN is zero, since no rank's generation
is known yet (assumption 38). Those that came early are taken then. -/
def State.startForming (s : State) (c : Nat) : State :=
  let early := (s.job c).early
  let s := s.updJob c (fun j => { j with st := .forming, early := [], back := none, hello := [j.rank], mgens := Map.set 0 s.fab.node s.fab.mgen [], down := [] })
  match s.takeDies c with
  | none => s.formFail c
  | some s =>
    let j := s.job c
    let s := s.each ((List.range j.ranks).filter (fun r => r != j.rank)) (fun s r => s.toRank c r (s.helloFrame c))
    if (s.job c).allHere then s.jobFormed c
    else s.each early (fun s x => s.takeHello c x.1 x.2.1 x.2.2.1 x.2.2.2)

/-- An ABANDONED job whose ranks are all up returns to FORMED (Table 11.6). -/
def State.jobReturn (s : State) (c : Nat) : State :=
  let j := s.job c
  if j.st = .abandoned ∧ j.down.isEmpty = true then s.jobFormed c else s

/-! ## Notices (R287 to R289) -/

/-- Whether a generation precedes the one a job holds for a node, in a signed 16-bit difference (R289). -/
def Job.stale (j : Job) (node : Nat) (mgen : Word16) : Bool := decide ((mgen - Map.get 0 j.mgens node).toInt < 0)

/-- Compositions with a job. -/
def State.jobs (s : State) : List Nat := (s.fab.jobs.filter (fun e => decide (e.2.st ≠ .none))).map (fun e => e.1)

/-- NODE_DOWN at this module (R289, Table 11.9): the jobs that hold the node at that generation enter ABANDONED; a job that is forming
fails (R291). -/
def State.nodeDown (s : State) (node : Nat) (mgen : Word16) : State :=
  let hit (s : State) (c : Nat) : Bool := (s.job c).nodes.contains node && !(s.job c).stale node mgen
  let cs := s.jobs.filter (hit s)
  let s := if cs.isEmpty then s else { s with fab := { s.fab with downRx := sat 0xFFFF (s.fab.downRx + 1) } }
  s.each cs (fun s c =>
    if (s.job c).st = .forming then s.formFail c
    else
      let s := s.updJob c (fun j => { j with down := match j.rankOf node with
        | none => j.down | some r => if j.down.contains r then j.down else j.down ++ [r] })
      s.abandonJob c 0x078A)

/-- NODE_UP at this module: the rank tables take the new generation, and a job whose ranks are all up returns to FORMED. -/
def State.nodeUp (s : State) (node : Nat) (mgen : Word16) : State :=
  let cs := s.jobs.filter (fun c => (s.job c).nodes.contains node && !(s.job c).stale node mgen)
  let s := if cs.isEmpty then s else { s with fab := { s.fab with upRx := sat 0xFFFF (s.fab.upRx + 1) } }
  s.each cs (fun s c =>
    (s.updJob c (fun j => { j with mgens := Map.set 0 node mgen j.mgens,
                                   down := match j.rankOf node with | none => j.down | some r => j.down.erase r })).jobReturn c)

/-- The composition of a fabric job on this module. -/
def State.compOfJob (s : State) (fjob : Nat) : Option Nat := s.jobs.find? (fun c => decide (fjob ≠ 0 ∧ (s.job c).fjob = fjob))

/-- ABANDON at this module. -/
def State.takeAbandon (s : State) (fjob : Nat) (fgen : Word16) : State :=
  match s.compOfJob fjob with
  | none => s
  | some c =>
    if (s.job c).st = .formed ∧ (s.job c).fgen = fgen then
      ({ s with fab := { s.fab with abnRx := sat 0xFFFF (s.fab.abnRx + 1) } }).abandonJob c 0x078B
    else s

/-- FGEN that an ABANDON for a lost frame carries: the frame's own, or that of the job on this module. -/
def State.fgenOf (s : State) (f : Frame) : Word16 :=
  if 6 ≤ f.typ ∧ f.typ ≤ 8 then BitVec.ofNat 16 (bits f.arg 63 48)
  else match s.compOfJob f.fjob with | none => 0 | some c => (s.job c).fgen

/-- A node that lost frames of a job sends ABANDON for it (R267, R271). -/
def State.lostFrame (s : State) (f : Frame) : State :=
  if f.fjob = 0 then s
  else
    let g := s.fgenOf f
    let n := s.notice 3 s.fab.node s.fab.mgen g f.fjob 0
    let t := s.noticeNew none n 3 s.fab.node s.fab.mgen g
    if t.1 then
      ({ t.2 with fab := { t.2.fab with abnTx := sat 0xFFFF (t.2.fab.abnTx + 1) } }).takeAbandon f.fjob g
    else s

/-- This module's own NODE_DOWN, on every ACTIVE port (R288). -/
def State.sendNodeDown (s : State) : State := s.originate 1 0 0
/-- NODE_UP of this module, leaving its reset under its new generation: it goes out on the ports that are ACTIVE, and on each that becomes so
(Table 11.9, R290, assumption 218). -/
def State.sendNodeUp (s : State) : State := ({ s with fab := { s.fab with upOwed := true } }).originate 2 0 0

/-! ## Collectives (R281 to R283) -/

/-- The router entry of a spanning churn's root on this module. -/
def State.rootEntry (s : State) (c g : Nat) : Option (Nat × CEnt) :=
  match s.unitOfLref c (fle (frmBody (s.comp c).frames 7 g) 0 2) with
  | none => none
  | some u => ((s.router (unitRouter u)).entry c g true).map (fun e => (u, e))

/-- Whether a step's result has landed whole: its last unit, and every unit below it. -/
def stepWhole (l : List (Nat × Nat × Nat × Bool)) (g step : Nat) : Bool :=
  let us := l.filter (fun e => e.1 == g && e.2.1 == step)
  us.any (fun e => e.2.2.2 && us.length == e.2.2.1 + 1)

/-- A result unit lands at the root engine's scratchpad; LCNT advances when the last unit of the step has landed (R283). -/
def State.landUnit (s : State) (c g step off : Nat) (d : BitVec 512) (last poison : Bool) : State :=
  match s.rootEntry c g with
  | none => s
  | some (u, e) =>
    let s := match ukind u with
      | .eng p n => s.landSp (kEng p n) (e.lbase + 64 * off) (lineBytes d)
      | _ => s
    let s := if poison then s.poisonWork u else s
    let s := s.updJob c (fun j => { j with landed := (j.landed.filter (fun x => x != (g, step, off, last))) ++ [(g, step, off, last)] })
    if stepWhole (s.job c).landed g step then
      let s := s.updJob c (fun j => { j with landed := j.landed.filter (fun x => !(x.1 == g && x.2.1 == step)) })
      if e.lcntEn then s.advCnt u e.lcnt else s
    else s

/-- ARG of a CHURN or POUR frame. -/
def collArg (fgen : Word16) (step off : Nat) : BitVec 64 := BitVec.ofNat 64 (fld 48 fgen.toNat + fld 32 (step % 65536) + off)

/-- A CHURN or POUR frame of one unit. -/
def State.collFrame (s : State) (c typ g step off : Nat) (d : BitVec 512) (last poison : Bool) : Frame :=
  { Frame.zero with typ := typ, cls := 2, last := last, poison := poison, len := 1, sel := g, arg := collArg (s.job c).fgen step off,
                    payload := [d] }

/-- The unit of a POUR frame arrives from above, or starts at rank 0: it goes to the children; the result of a churn lands at the root
engine, and a spanning pour is injected at the source engine's router (R283). -/
def State.pourDown (s : State) (c g step off : Nat) (d : BitVec 512) (last poison : Bool) (own : Bool) : State :=
  let s := s.toChildren c (s.collFrame c 7 g step off d last poison)
  if (findFrm (s.comp c).frames 7 g).isSome then s.landUnit c g step off d last poison
  else if own then s
  else match s.unitOfLref c (fle (frmBody (s.comp c).frames 6 g) 0 2) with
    | none => s
    | some u =>
      s.inject (unitRouter u) { Flit.zero with
        src := unitRouter u, vc := 2, kind := 4, group := g, xid := (s.unit u).xid, fidx := off % 8, tail := decide (off % 8 = 7) || last,
        last := last, poison := poison, payload := d }

/-- What R126 and R283 do when inputs end unequally: the tree's entries become invalid in every router, its flits are dropped, and a
CHURN fault is posted for the context of the root. -/
def State.churnBreak (s : State) (c g xid : Nat) : State :=
  let s := s.each (s.net.routers.map (fun e => e.1)) (fun s r =>
    let hit (x : Held) : Bool := x.flit.kind == 5 && x.flit.group == g && (s.ctx x.flit.xid).cid == c
    let s := s.each ((s.router r).inq.filter hit) (fun s x => s.dropFlit r x.pool)
    s.updRouter r (fun x => { x with
      inq := x.inq.filter (fun y => !hit y),
      ctab := updAll (fun e => e.cid == c && e.group == g && e.churn) (fun e => { e with valid := false, got := 0 }) x.ctab }))
  let root := fle (frmBody (s.comp c).frames 7 g) 0 2
  s.fault { cid := c, status := 0x030F, kind := 3, fatal := true, write := false, atomic := false, xid := xid, unit := root,
            index := 0xFFFF, epoch := 0, addr := 0, info := g }

/-- The combine unit: with a unit of every input present for a group, step and offset, the combined unit goes to the parent, or at
rank 0 back down the tree (R282, R283). -/
def State.combine (s : State) (c g step off : Nat) : State :=
  let j := s.job c
  let churn := (findFrm (s.comp c).frames 7 g).isSome
  let want := if churn then j.rank :: s.fab.children j j.rank else [j.rank]
  let here := j.windows.filter (fun w => w.group == g && w.step == step && w.offset == off)
  if j.st = .formed ∧ want.all (fun r => here.any (fun w => w.input == r)) then
    match here with
    | [] => s
    | w :: ws =>
      if ws.any (fun v => v.last != w.last) then
        let x := match s.rootEntry c g with | none => 0 | some (u, _) => (s.unit u).xid
        (s.churnBreak c g x).sendAbandon c
      else
        let s := s.updJob c (fun j => { j with windows := j.windows.filter (fun v => !(v.group == g && v.step == step && v.offset == off)) })
        let op := fle (frmBody (s.comp c).frames 7 g) 2 1
        let d := if churn then churnOp op (here.map (fun v => v.data)) else w.data
        let poison := here.any (fun v => v.poison)
        if j.rank = 0 then s.pourDown c g step off d w.last poison (!churn)
        else s.toParent c (s.collFrame c 6 g step off d w.last poison)
  else s

/-! ## PEER requests at their target (R224, R265, R278) -/

/-- A range atomic of a frame's payload on [o, o + n) of a target: the old bytes, poison and state. -/
def State.atomFab (s : State) (cid : Nat) (e : BitVec 256) (o n op : Nat) (bs : List Byte) : List Byte × Bool × State :=
  let first := o / 64
  let m : Bytes := Bytes.wrL [] 0 bs
  (List.range ((o + n - 1) / 64 + 1 - first)).foldl (fun (acc : List Byte × Bool × State) i =>
    let a := 64 * (first + i)
    let lo := if i = 0 then o % 64 else 0
    let hi := min 64 (o + n - a)
    let t := acc.2.2.rdTarget cid e a 3
    let r := atomSector op m (a + lo - o) lo hi t.1
    let old := acc.1 ++ ((lineBytes t.1).drop lo).take (hi - lo)
    if t.2.1 then (old, true, t.2.2) else (old, acc.2.1, t.2.2.wrTarget cid e a 3 r.1)) ([], false, s)

/-- The context of a composition that holds an FCTX. -/
def State.ctxOfFctx (s : State) (c fctx : Nat) : Option Nat :=
  (s.ctxsOf c).find? (fun x => decide ((s.ctx x).fctx = fctx + 1))

/-- Serves a PEER request for a composition's context: its answer frame's status, data and poison, and the state (R224). A context that is
not there, a PEER range, and a HOST range whose port is down answer TARGET_DOWN (assumption 40). A poisoned request writes nothing, and its answer
is poisoned (R194, R267, assumption 217). -/
def State.serveFab (s : State) (c : Nat) (f : Frame) : Nat × List Byte × Bool × State :=
  let va := bits f.arg 56 0
  let w := bits f.arg 63 60
  let n := if f.typ = 3 ∧ w ≠ 0 then 64 * (f.len - 1) + 4 * w else 64 * f.len
  let acc := if f.typ = 1 then 0 else if f.typ = 2 then 1 else 2
  match s.ctxOfFctx c f.sel with
  | none => (0x0305, [], false, s)
  | some x =>
    match s.slotAt x va with
    | none => (0x0302, [], false, s)
    | some r =>
      let e := r.2.entry
      let st := s.accessCheck c e va n acc
      if st ≠ 0 then (st, [], false, s)
      else if eKind e = 3 ∨ eKind e = 2 ∧ !s.hostUp (eAux e) then (0x0305, [], false, s)
      else
        let o := eTarget e + (va - eBase e)
        let bs := f.payload.flatMap lineBytes
        let s := if eKind e = 0 ∨ eKind e = 1 then s.tcAdd x 2 n else s
        match acc with
        | 0 => let t := s.rdRow c e o n 3; (0, t.1, t.2.1, t.2.2)
        | 1 => if f.poison then (0, [], true, s) else if s.hostMute x e then (0, [], false, s) else (0, [], false, (s.wrRow c e o 3 bs).dlog x e o n)
        | _ => if f.poison then (0, List.replicate n 0, true, s) else
          let t := s.atomFab c e o n (bits f.arg 59 57) bs; (0, t.1, t.2.1, if s.hostMute x e then t.2.2.updHmem (eAux e) (fun _ => s.hmem (eAux e)) else t.2.2.dlog x e o n)

/-- Answers a PEER request with RD_RSP or WR_ACK (Table 11.3). -/
def State.answerFab (s : State) (c : Nat) (f : Frame) : State :=
  let t := s.serveFab c f
  let ls := (pieces 9 64 t.2.1).map bytesLine
  t.2.2.2.sendFrame { Frame.zero with
    typ := if f.typ = 2 then 5 else 4, cls := 1, last := true, poison := t.2.2.1, len := if t.1 = 0 then ls.length else 0,
    dst := f.src, src := s.fab.node, srcMgen := s.fab.mgen, dstMgen := f.srcMgen, fjob := f.fjob, sel := f.sel,
    arg := BitVec.ofNat 64 t.1, tag := f.tag, payload := if t.1 = 0 then ls else [] }

/-! ## Answers to a unit (R226, R309) -/

/-- An RD_RSP or WR_ACK arrives for the unit its TAG names: a status at the peer fails the access, data is gathered, and the last one
ends the row. -/
def State.peerAnswer (s : State) (f : Frame) : State :=
  let u := f.tag
  match (s.unit u).ext, s.heldRow u with
  | some w, some (d, done) =>
    if !w.peer then s
    else
      let st := bits f.arg 15 0
      let va := (d.va + done * d.vaStride) % 2 ^ 64
      let acc := if d.op = 0 then 0 else if d.op = 1 then 1 else 2
      if st ≠ 0 then
        -- The transfer has ended: nothing is outstanding under its entry any more, which the record names (R225, R231).
        let e := (s.unit u).cache.find? (fun c => decide (0 < c.out))
        (s.updUnit u (fun k => { k with ext := none, cache := k.cache.map (fun c => { c with out := c.out - 1 }) })).xlFault u st
          ((e.map (fun c => c.idx)).getD 0xFFFF) ((e.map (fun c => c.epoch)).getD 0) va d.rowBytes acc
      else
        let s := if f.poison then s.poisonWork u else s
        let got := if d.op = 1 then 1 else f.payload.length
        let data := w.data ++ (if f.poison then f.payload.map (fun _ => 0) else f.payload)
        if w.need ≤ got then s.extEnd u (if d.op = 1 then none else some (data.flatMap lineBytes))
        else s.updUnit u (fun k => { k with ext := some { w with need := w.need - got, data := data } })
  | _, _ => s

end Sys2Proof.Machine
end

