-- ==== Sys2Proof/Machine/Fabric.lean ====
section
/-!
DEFINITION. Commands of the fabric (chapter 11): port training, codewords and replay, frames, credits, jobs and notices.
-/

namespace Sys2Proof.Machine

/-! ## Frames (R266 to R268) -/

/-- Whether a frame that ends here is dropped (R268). A HELLO carries no generation of the destination, and brings its own
(assumption 38). -/
def State.frameStale (s : State) (f : Frame) : Bool :=
  match s.compOfJob f.fjob with
  | none => true
  | some c =>
    let j := s.job c
    if f.typ = 9 ∧ bits f.arg 63 56 = 6 then false
    else f.dstMgen != s.fab.mgen || f.srcMgen != Map.get 0 j.mgens f.src ||
      (decide (6 ≤ f.typ ∧ f.typ ≤ 8) && bits f.arg 63 48 != j.fgen.toNat)

/-- The rank of a frame's source. -/
def State.srcRank (s : State) (c : Nat) (f : Frame) : Nat := ((s.job c).rankOf f.src).getD 4096

/-- A frame is consumed. Unit i of a CHURN or POUR frame stands at OFFSET + i, and the last one of a LAST frame ends the step. -/
def State.consume (s : State) (c : Nat) (f : Frame) : State :=
  let d := f.payload.headD 0
  let units := f.payload.zipIdx.map (fun e => (e.1, e.2, f.last && e.2 + 1 == f.payload.length))
  let step := bits f.arg 47 32
  let off := bits f.arg 31 0
  match f.typ with
  | 1 => s.answerFab c f
  | 2 => s.answerFab c f
  | 3 => s.answerFab c f
  | 4 => s.peerAnswer f
  | 5 => s.peerAnswer f
  | 6 => s.updJob c (fun j => if j.st = .formed then Job.sawStep { j with windows := j.windows ++ units.map (fun u =>
      { group := f.sel, step := step, offset := off + u.2.1, input := (j.rankOf f.src).getD 4096, data := u.1, last := u.2.2, poison := f.poison }) } step
      else j)
  | 7 => if (s.job c).st = .formed then
      (s.updJob c (fun j => j.sawStep step)).each units (fun s u => s.pourDown c f.sel step (off + u.2.1) u.1 u.2.2 f.poison false) else s
  | 8 => if (s.job c).st ≠ .formed then s
         else if bit f.arg 32 then s.barSpread c (f.sel % 32) else s.barRank c (f.sel % 32) (s.srcRank c f)
  | _ =>
    match bits f.arg 63 56 with
    | 4 => (s.updJob c (fun j => { j with offers := j.offers.filter (fun e => e.1 != s.srcRank c f) ++
        [(s.srcRank c f, bits f.arg 11 0)] })).freqGather c
    | 5 => s.freqSet c (bits f.arg 11 0) f.tag
    | 6 => if f.poison then s else s.takeHello c (bits d 415 400) (BitVec.ofNat 384 (bits d 383 0)) (bits d 399 384) f.srcMgen
    | _ => s

/-- A flooded notice is passed on once, and acted on. -/
def State.takeNotice (s : State) (p : Nat) (f : Frame) : State :=
  let code := bits f.arg 63 56
  let node := bits f.arg 39 28
  let mgen := BitVec.ofNat 16 (bits f.arg 55 40)
  let fgen := BitVec.ofNat 16 (bits f.arg 27 12)
  let t := s.noticeNew (some p) { f with hops := f.hops + 1 } code node mgen fgen
  if !t.1 then t.2
  else match code with
    | 1 => t.2.nodeDown node mgen
    | 2 => t.2.nodeUp node mgen
    | 3 => t.2.takeAbandon f.fjob fgen
    | _ => t.2

/-- A frame ends at its node (R267, R268). A payload whose PCRC fails is poisoned. -/
def State.endFrame (s : State) (p : Nat) (f : Frame) : State :=
  let f := if f.pcrcOk then f else { f with poison := true }
  if flooded f then s.takeNotice p f
  else if (s.compOfJob f.fjob).isNone && !f.poison && f.typ == 9 && bits f.arg 63 56 == 6 && (s.joinBy f.fjob).isSome then
    let d := f.payload.headD 0
    s.earlyHello f.fjob (bits d 415 400) (BitVec.ofNat 384 (bits d 383 0)) (bits d 399 384) f.srcMgen
  else if s.frameStale f then s.updFport p (fun x => { x with drops := x.drops + 1 })
  else match s.compOfJob f.fjob with
    | none => s
    | some c => s.consume c f

/-- Whether a frame at a port may end now: a memory frame only after those before it with its source, FJOB and SEL (R277), a CHURN frame only with
room in its window (R269). -/
def State.mayEnd (s : State) (p : Nat) (f : Frame) : Bool :=
  let mem (g : Frame) : Bool := decide (1 ≤ g.typ ∧ g.typ ≤ 5)
  let before := (s.fport p).inq.takeWhile (fun g => g != f)
  !(mem f && before.any (fun g => mem g && g.src == f.src && g.dst == f.dst && g.fjob == f.fjob && g.sel == f.sel)) &&
  (f.typ != 6 || (match s.compOfJob f.fjob with | none => true | some c => s.winRoom c f.sel (s.srcRank c f) f.len))

/-- A frame leaves its ingress buffer as it ends here. -/
def State.frameOut (s : State) (p : Nat) (f : Frame) : State :=
  ((s.updFport p (fun x => { x with inq := x.inq.erase f })).freeFrame p f).endFrame p f

/-! ## Leaving service (R263, R271, R288) -/

/-- A port leaves ACTIVE or RETRAIN (R263, R271, R288): its generation advances, its pools are retired with it, each job with frames
unacknowledged is abandoned unless the peer sent NODE_DOWN, what it had received goes on, frames that wait take another way, and detours replace
the routes that are lost (R275). -/
def State.fabLeave (s : State) (p : Nat) : State :=
  let x := s.fport p
  let before := s
  if x.st = .active ∨ x.st = .retrain then
    let s := s.updFport p (fun x => { x with
      st := .down, gen := x.gen + 1, replay := [], replays := [], vcs := [], wait := [], inq := [], resv := [], lent := [], cwLeft := 0 })
    let s := s.journal (.gen .fab p (s.fport p).gen)
    let told := match x.peer with
      | none => false | some q => s.fab.seen.any (fun k => k.1 == 1 && k.2.1 == q.node && k.2.2.1 == q.mgen.toNat)
    let s := if told then s else s.each (x.replay.map (fun e => e.2)) (fun s f => s.lostFrame f)
    let s := s.detourLost before
    let s := s.each x.inq (fun s f => if s.transits f then s.sendFrame { f with hops := f.hops + 1 } else s.endFrame p f)
    s.each x.wait (fun s f => if f.typ = 9 then s else s.sendFrame f)
  else s

/-- A port goes DOWN or FENCED with a code. -/
def State.fabStop (s : State) (p : Nat) (st : FPState) (code : Nat) : State :=
  ((s.fabLeave p).updFport p (fun x => { x with st := st })).fabCode p code

/-! ## Port states (R263, Table 11.1) -/

/-- A port in DOWN with ENABLE set, a cable end present and its PHY group powered (R20) starts DETECT; its ROLE takes effect (R263, R293, R435). With LNK halted it
stays DOWN (Table 18.1). -/
def State.fabStart (s : State) (p : Nat) : State :=
  s.updFport p (fun x => if x.st = .down ∧ bit x.ctl 0 ∧ x.cpres ∧ s.domOn (domPort p) ∧ !s.roleHalted 6 then { x with st := .detect, role := bits x.ctl 7 4 } else x)

/-- A write to FAB_PORT_CTL (Table 11.14): ROLE and the expected node go to the journal (R420). -/
def State.fabCtl (s : State) (p : Nat) (v : Word32) : State :=
  let v := v &&& 0xFFF800F1
  let s := s.updFport p (fun x => { x with ctl := v })
  let s := (s.journal (.setting (.fabRole p) (bits v 7 4))).journal (.setting (.fabExpect p) (bits v 31 19))
  if bit v 0 then s.fabStart p else (s.fabLeave p).updFport p (fun x => { x with st := .down })

def execFabPortEnable (f : FabId) (value : Word32) (s : State) : Host.Outcome State Fault Refusal := .next (s.fabCtl f.val value)

/-- A transition from one port state to another. -/
def State.fabMove (s : State) (p : Nat) (a b : FPState) : State :=
  s.updFport p (fun x => if x.st = a then { x with st := b } else x)

def execSignalDetect (f : FabId) (s : State) : Host.Outcome State Fault Refusal := .next (s.fabMove f.val .detect .equalize)

def execDetectTimeout (f : FabId) (s : State) : Host.Outcome State Fault Refusal :=
  .next (if (s.fport f.val).st = .detect then s.fabStop f.val .down 0x0783 else s)

/-- Once every second, while ENABLE stays set. -/
def execDetectRetry (f : FabId) (s : State) : Host.Outcome State Fault Refusal := .next (s.fabStart f.val)

def execEqualizeDone (f : FabId) (s : State) : Host.Outcome State Fault Refusal := .next (s.fabMove f.val .equalize .align)

def execEqualizeTimeout (f : FabId) (s : State) : Host.Outcome State Fault Refusal :=
  .next (if (s.fport f.val).st = .equalize then s.fabStop f.val .down 0x0783 else s)

/-- The dragonfly groups that the GLOBAL ports of this module's group reach, which its identity carries (R274, assumption 36). -/
def State.ownGroups (s : State) : List Nat :=
  (((s.roleActive 8).filterMap (fun p => (s.fport p).peer.map (fun q => q.node / s.fab.gsize))) ++
    ((s.roleActive 7).flatMap (fun p => match (s.fport p).peer with | none => [] | some q => q.groups))).eraseDups

/-- Lane order and polarity are resolved, and a repair is recorded and reported (R264). The identity goes out. -/
def execAlignDone (f : FabId) (laneMap : BitVec 8) (polInv : BitVec 4) (s : State) : Host.Outcome State Fault Refusal :=
  .next (if (s.fport f.val).st = .align then
      let s := s.updFport f.val (fun x => { x with st := .identify, laneMap := laneMap.toNat, polInv := polInv.toNat })
      let s := if laneMap = 0xE4 then s else s.fabCode f.val 0x0781
      let s := if polInv = 0 then s else s.fabCode f.val 0x0782
      s.sendLink f.val (.identity f.val { system := s.fab.system, node := s.fab.node, mgen := s.fab.mgen, port := f.val, groups := s.ownGroups })
    else s)

/-- The code of a peer identity, 0 when it is accepted (R264, Table 11.1). -/
def State.identityCode (s : State) (p : Nat) (q : PeerId) : Nat :=
  let c := (s.fport p).ctl
  if q.system ≠ s.fab.system then 0x0787
  else if q.node = s.fab.node then 0x0786
  else if bit c 19 ∧ q.node ≠ bits c 31 20 then 0x0785
  else 0

def execIdentify (f : FabId) (peer : PeerId) (s : State) : Host.Outcome State Fault Refusal :=
  .next (if (s.fport f.val).st = .identify then
      let code := s.identityCode f.val peer
      if code = 0 then
        let s := s.updFport f.val (fun x => { x with
          st := .active, peer := some peer, seq := 0, ack := 1023, cwLeft := 0, replay := [], replays := [], vcs := [], audAt := s.now })
        if s.fab.upOwed then s.portSend f.val (s.notice 2 s.fab.node s.fab.mgen 0 0 0) else s
      else s.fabStop f.val .fenced code
    else s)

def execIdentifyTimeout (f : FabId) (s : State) : Host.Outcome State Fault Refusal :=
  .next (if (s.fport f.val).st = .identify then s.fabStop f.val .down 0x0784 else s)

/-! ## Codewords (R261, R262) -/

/-- The replay buffer once ACK has passed its codewords. -/
def ackReplay (l : List (Nat × Frame)) (ack : Nat) : List (Nat × Frame) :=
  if l.any (fun e => e.1 == ack) then (l.dropWhile (fun e => e.1 != ack)).drop 1 else l

def execCodewordReceive (f : FabId) (seq ack corrected : Nat) (correctable : Bool) (s : State) : Host.Outcome State Fault Refusal :=
  let x := s.fport f.val
  .next (if x.st ≠ .active then s
    else if !correctable then s.sendLink f.val (.link f.val 0 ((x.ack + 1) % 1024))
    else s.updFport f.val (fun x => { x with
      errA := (x.errA + corrected) % 2 ^ 32, ack := if seq = (x.ack + 1) % 1024 then seq else x.ack,
      replay := ackReplay x.replay ack }))

/-- The codewords from a SEQ on are sent again; after 16 replays within 10 µs the port enters RETRAIN. -/
def execReplayRequest (f : FabId) (seq : Nat) (s : State) : Host.Outcome State Fault Refusal :=
  let l := (s.fport f.val).replay.dropWhile (fun e => e.1 != seq)
  .next (if (s.fport f.val).st ≠ .active then s
    else
      let s := s.updFport f.val (fun x => { x with replays := within s.now 10000 x.replays })
      if 16 ≤ (s.fport f.val).replays.length then s.updFport f.val (fun x => { x with st := .retrain })
      else s.replayOut f.val l)

/-- The same peer under the same MGEN: replay resumes from the last ACK, and nothing is lost. -/
def execRetrainDone (f : FabId) (peer : PeerId) (s : State) : Host.Outcome State Fault Refusal :=
  let x := s.fport f.val
  .next (if x.st = .retrain ∧ x.peer.map (fun q => (q.system, q.node, q.mgen, q.port)) = some (peer.system, peer.node, peer.mgen, peer.port) then
      let s := s.updFport f.val (fun x => { x with st := .active, replays := [], errC := sat 0xFFFF (x.errC + 1) })
      (s.replayOut f.val x.replay).portDrain f.val x.wait.length
    else s)

def execLinkFailed (f : FabId) (s : State) : Host.Outcome State Fault Refusal :=
  .next (if (s.fport f.val).st = .active ∨ (s.fport f.val).st = .retrain then s.fabStop f.val .down 0x0788 else s)

/-! ## Credits (R270, R271) -/

/-- A hop-only frame of this module for a VC, with a count in ARG bits 63:32. -/
def State.vcFrame (s : State) (typ vc : Nat) (n : Word32) : Frame :=
  { Frame.zero with typ := typ, cls := vc / 4, level := vc % 4, last := true, src := s.fab.node, srcMgen := s.fab.mgen,
                    arg := BitVec.ofNat 64 (fld 32 n.toNat) }

/-- A CREDIT frame of a VC: the cumulative count of units freed. -/
def State.sendCredit (s : State) (p vc : Nat) : State :=
  let n := ((s.fport p).vc vc).freed
  (s.updFport p (fun x => x.updVc vc (fun v => { v with freedSent := n }))).transmit p (s.vcFrame 0x0A vc n)

def execCreditFrameSend (f : FabId) (vc : Fin 16) (s : State) : Host.Outcome State Fault Refusal :=
  let v := (s.fport f.val).vc vc.val
  .next (if (s.fport f.val).st = .active ∧ v.freed ≠ v.freedSent then s.sendCredit f.val vc.val else s)

/-- The cumulative count of a CREDIT frame: the difference from the last one comes back. A count of more units than are out leaves a pool that no
drain resolves (R129, R130, R271). -/
def State.creditBackFab (s : State) (p vc : Nat) (count : Word32) : State :=
  let v := (s.fport p).vc vc
  if v.used < (count - v.retRcvd).toNat then s.fabStop p .fenced 0x0789
  else
    let s := s.updFport p (fun x => x.updVc vc (fun v => { v with used := v.used - (count - v.retRcvd).toNat, retRcvd := count }))
    s.portDrain p (s.fport p).wait.length

def execCreditFrameReceive (f : FabId) (vc : Fin 16) (count : Word32) (s : State) : Host.Outcome State Fault Refusal :=
  .next (if (s.fport f.val).st = .active then s.creditBackFab f.val vc.val count else s)

/-- A pool whose audit has failed is checked again once its buffer has drained: the units freed are then those sent, or the port is fenced with
AUDIT_FAIL (R130, R271). -/
def State.auditSettle (s : State) (p vc : Nat) : State :=
  let x := s.fport p
  match (x.vc vc).failed with
  | none => s
  | some sent =>
    if x.inq.any (fun f => vcNum f == vc) then s
    else if (x.vc vc).rcvd = sent then s.updFport p (fun x => x.updVc vc (fun v => { v with failed := none }))
    else s.fabStop p .fenced 0x0789

/-- The peer's AUDIT of a VC is checked against what has been received, and answered with the units freed (R129, R271). -/
def State.auditCheck (s : State) (p vc : Nat) (sent : Word32) : State :=
  if ((s.fport p).vc vc).rcvd = sent then s.sendCredit p vc
  else (s.updFport p (fun x => x.updVc vc (fun v => { v with failed := some sent }))).auditSettle p vc

/-- This side's AUDIT of a VC. -/
def State.sendAudit (s : State) (p vc : Nat) : State := s.transmit p (s.vcFrame 0x0B vc ((s.fport p).vc vc).sent)

/-- This side's AUDIT of the VC goes out, and the peer's is checked. -/
def execAuditFrame (f : FabId) (vc : Fin 16) (sent : Word32) (s : State) : Host.Outcome State Fault Refusal :=
  .next (if (s.fport f.val).st = .active then (s.sendAudit f.val vc.val).auditCheck f.val vc.val sent else s)

/-- Every 2^21 codewords of 6.4 ns a port audits each of its VCs (R271). -/
def State.auditTick (s : State) : State :=
  s.each (s.activePorts.filter (fun p => decide ((s.fport p).audAt + 13421773 ≤ s.now))) (fun s p =>
    (s.each (List.range 16) (fun s vc => s.sendAudit p vc)).updFport p (fun x => { x with audAt := s.now }))

/-! ## Frames arriving (R266, R267) -/

/-- A frame arrives at a port: it is checked, and forwarded or kept until it ends here (R267). -/
def State.frameIn (s : State) (p : Nat) (f : Frame) : State :=
  let s := if f.typ = 0 then s else s.updFport p (fun x => { x with rxBytes := x.rxBytes + BitVec.ofNat 64 (frBytes f) })
  if f.typ = 0 ∨ f.typ = 0x0C then s
  else if 0x0A ≤ f.typ ∧ !f.hcrcOk then s.updFport p (fun x => { x with drops := x.drops + 1 })
  else if f.typ = 0x0A then s.creditBackFab p (vcNum f) (BitVec.ofNat 32 (bits f.arg 63 32))
  else if f.typ = 0x0B then s.auditCheck p (vcNum f) (BitVec.ofNat 32 (bits f.arg 63 32))
  else
    let s := s.updFport p (fun x => x.updVc (vcNum f) (fun v => { v with rcvd := v.rcvd + BitVec.ofNat 32 (frUnits f) }))
    if 0x0C < f.typ ∨ !f.hcrcOk then s.dropFrame p f
    else if 32 ≤ f.hops then ((s.dropFrame p f).fabCode p 0x078E).lostFrame f
    else
      let s := s.updFport p (fun x => { x with inq := x.inq ++ [f] })
      if s.transits f then s.forward p f else s

def execFrameReceive (f : FabId) (fr : Frame) (s : State) : Host.Outcome State Fault Refusal :=
  .next (if (s.fport f.val).st = .active then s.frameIn f.val fr else s)

/-- A frame that has arrived ends here, or goes on. -/
def execFrameEnd (f : FabId) (fr : Frame) (s : State) : Host.Outcome State Fault Refusal :=
  .next (if !(s.fport f.val).inq.contains fr then s
    else if s.transits fr then s.forward f.val fr
    else if s.mayEnd f.val fr then (s.frameOut f.val fr).auditSettle f.val (vcNum fr) else s)

/-! ## Jobs (R278, Table 11.5) -/

/-- The 2-byte entries of a rank table. -/
def rankTable (bs : List Byte) (n : Nat) : List Nat := (List.range n).map (fun i => fle bs (2 * i) 2)

/-- The buffer of a request, in host memory of the port it came by (R416). -/
def State.reqBuf (s : State) (r : Request) : List Byte :=
  let port := match r.reply with | .mbx i => (s.mslot i).port | .ring h _ _ _ => h | .nobody => r.client / 256
  (s.hmem port).rdN r.bufAddr r.bufLen

/-- The host port a request's buffer is read through: the bytes are counted (Table 12.13). -/
def State.countBuf (s : State) (r : Request) : State :=
  match r.reply with | .mbx i => s.hostRx (s.mslot i).port r.bufLen | _ => s

/-- FAB_JOIN: P+0 handle, P+4 FJOB, P+6 RANK, and the rank table in the buffer (Table 18.5). RANKS is that of the culture's FABRIC frame,
or, for a partial culture without one, the length of the table (assumption 41). -/
def State.runFabJoin (s : State) (r : Request) : State :=
  let h := r.p0.toNat
  let fjob := r.p1.toNat
  let rank := r.p2.toNat
  match s.staged.find? (fun k => k.handle == h) with
  | none => s.answer r 0x078D []
  | some k =>
    let s := s.countBuf r
    let ranks := match k.frames.find? (fun f => f.typ == 0x0A) with | some f => fle f.body 0 2 | none => r.bufLen / 2
    let nodes := rankTable (s.reqBuf r) ranks
    let used := s.jobs.any (fun c => (s.job c).fjob == fjob) || s.fab.joins.any (fun e => e.2.fjob == fjob && e.1 != h)
    if fjob = 0 ∨ 65535 < fjob ∨ ranks ≤ rank ∨ nodes.eraseDups.length ≠ ranks ∨ nth 4096 nodes rank ≠ s.fab.node ∨ used then
      s.answer r 0x078D []
    else
      let j : Job := { st := .joined, fjob := fjob, rank := rank, ranks := ranks, nodes := nodes, handle := h }
      let s := { s with fab := { s.fab with joins := Map.set {} h j s.fab.joins } }
      (s.journal (.fjob 256 fjob rank ranks nodes)).answer r 0 []

def execFabJoin (r : Request) (s : State) : Host.Outcome State Fault Refusal := .next (s.runFabJoin r)

/-- FAB_FCTX: P+0 XID, P+2 FCTX. One that names no context of the client it acts for is answered with NO_CONTEXT (R302). -/
def State.runFabFctx (s : State) (r : Request) : State :=
  let k := s.ctx r.xid
  let f := r.p0.toNat
  if k.st = .free ∨ k.client ≠ r.client then s.answer r 0x0103 []
  else if 4095 < f ∨ (s.ctxsOf k.cid).any (fun x => decide ((s.ctx x).fctx = f + 1)) then s.answer r 0x078D []
  else ((s.updCtx r.xid (fun c => { c with fctx := f + 1 })).journalCtx r.xid).answer r 0 []

def execFabFctx (r : Request) (s : State) : Host.Outcome State Fault Refusal := .next (s.runFabFctx r)

def execHello (c : CidT) (rank : Nat) (digest : Digest) (ranks : Nat) (mgen : Word16) (s : State) : Host.Outcome State Fault Refusal :=
  .next (if s.roleHalted 6 then s
    else if (s.job c.val).st ≠ .none then s.takeHello c.val rank digest ranks mgen
    else match s.joinFor c.val with
      | none => s
      | some j => s.earlyHello j.fjob rank digest ranks mgen)

def execFormationTimeout (c : CidT) (s : State) : Host.Outcome State Fault Refusal := .next (s.formFail c.val)

/-! ## Notices -/

/-- A flooded notice by a port. -/
def State.noticeBy (s : State) (p code node : Nat) (mgen : Word16) (fjob : Nat) (fgen : Word16) : State :=
  if (s.fport p).st = .active then
    s.takeNotice p { s.notice code node mgen fgen fjob 0 with src := node, srcMgen := mgen }
  else s

def execNodeDown (f : FabId) (node : Nat) (mgen : Word16) (s : State) : Host.Outcome State Fault Refusal :=
  .next (s.noticeBy f.val 1 (node % 4096) mgen 0 0)

def execNodeUp (f : FabId) (node : Nat) (mgen : Word16) (s : State) : Host.Outcome State Fault Refusal :=
  .next (s.noticeBy f.val 2 (node % 4096) mgen 0 0)

/-- The notice comes from the peer of the port. -/
def execAbandon (f : FabId) (fjob : Nat) (fgen : Word16) (s : State) : Host.Outcome State Fault Refusal :=
  .next (match (s.fport f.val).peer with
    | none => s
    | some q => s.noticeBy f.val 3 (q.node % 4096) q.mgen (fjob % 65536) fgen)

def execFreqOffer (c : CidT) (rank mhz : Nat) (s : State) : Host.Outcome State Fault Refusal :=
  .next (if (s.job c.val).st = .formed ∧ (s.fab.children (s.job c.val) (s.job c.val).rank).contains rank = true then
      (s.updJob c.val (fun j => { j with offers := j.offers.filter (fun e => e.1 != rank) ++ [(rank, mhz)] })).freqGather c.val
    else s)

def execFreqSet (c : CidT) (mhz step : Nat) (s : State) : Host.Outcome State Fault Refusal :=
  .next (if 0 < (s.job c.val).rank then s.freqSet c.val mhz step else s)

def execFreqRoundTimer (c : CidT) (s : State) : Host.Outcome State Fault Refusal := .next (s.freqRound c.val)

def execCombine (c : CidT) (group step offset : Nat) (s : State) : Host.Outcome State Fault Refusal :=
  .next (s.combine c.val group step offset)

def execBarFrame (c : CidT) (b : Fin 32) (rank : Nat) (release : Bool) (fgen : Word16) (s : State) : Host.Outcome State Fault Refusal :=
  let j := s.job c.val
  .next (if j.st ≠ .formed ∨ j.fgen ≠ fgen then s
    else if release then (if 0 < j.rank then s.barSpread c.val b.val else s)
    else if j.rank = 0 ∧ rank < j.ranks then s.barRank c.val b.val rank else s)

/-- A detour entry for a node; one that no route reaches is reported (R275). -/
def execLnkDetour (node waypoint : Nat) (s : State) : Host.Outcome State Fault Refusal :=
  let t := { s with fab := { s.fab with detours := s.fab.detours.filter (fun e => e.1 != node) ++ [(node, waypoint)] } }
  .next (if s.roleHalted 6 then s else if t.reachable node then t else t.noRoute node)

/-- A cable end is seated (R435). -/
def execCpresNFall (f : FabId) (s : State) : Host.Outcome State Fault Refusal :=
  .next ((s.updFport f.val (fun x => { x with cpres := true })).fabStart f.val)

end Sys2Proof.Machine
end

