-- ==== Sys2Proof/Machine/Culture.lean ====
section
/-!
DEFINITION. The culture bitstream (chapter 6): its parts, its frames, and validation stages 1 to 8 (R135 to R154, R157, R160 to R163).
Each stage answers the code of the first failing check, and 0 for a pass.
-/

namespace Sys2Proof.Machine

/-- Whether n bytes from offset o are zero. -/
def zeroAt (b : List Byte) (o n : Nat) : Bool := ((b.drop o).take n).all (fun x => x == 0)

/-! ## Header and directory (R135 to R137) -/

def cuCount (b : List Byte) : Nat := fle b 0x18 4
def cuFlags (b : List Byte) : Nat := fle b 7 1
def cuLparts (b : List Byte) : Nat := fle b 0x1C 1
def cuPart (b : List Byte) : Bool := fle b 6 1 == 1

/-- A directory entry (Table 6.2). -/
structure DirEnt where
  typ : Nat
  key : Nat
  off : Nat
  len : Nat
  deriving DecidableEq, Repr

def dirEnt (b : List Byte) (i : Nat) : DirEnt :=
  let o := 0x100 + 32 * i
  { typ := fle b o 1, key := fle b (o + 2) 2, off := fle b (o + 8) 8, len := fle b (o + 16) 8 }

def dirOf (b : List Byte) : List DirEnt := (List.range (cuCount b)).map (dirEnt b)

def framesOf (b : List Byte) : List Frm :=
  (dirOf b).map (fun d => { typ := d.typ, key := d.key, body := (b.drop d.off).take d.len })

/-! ## Stages 1 to 5 (Table 6.14) -/

/-- Stage 1: the envelope. -/
def stage1 (b : List Byte) : Nat :=
  firstCode [
    (fle b 0 4 != 0x4C55434B, 0x0601),
    (fle b 4 2 != 1 || decide (1 < fle b 6 1), 0x0602),
    (cuTotal b != b.length || decide (2 ^ 27 < cuTotal b), 0x0603),
    (cuSig b + 16640 != cuTotal b || cuSig b % 64 != 0, 0x0603),
    (cuCount b == 0 || decide (8192 < cuCount b) || decide (cuSig b < 0x100 + 32 * cuCount b), 0x0603)]

/-- Firmware release of the active SUP core, which MIN_FW is compared with (R331, R157). -/
def State.supRelease (s : State) : Nat := (s.coreS (if s.jrn.writer = 2 then 2 else 1)).release

def State.stage4 (s : State) (b : List Byte) : Nat := if s.supRelease < fle b 0x1E 2 then 0x0607 else 0

/-- Stage 5: order, alignment, overlap, bounds and size of the frames. -/
def stage5 (b : List Byte) : Nat :=
  let ds := dirOf b
  let bad (prev : Option DirEnt) (d : DirEnt) : Bool :=
    let lo := match prev with | none => 0x100 + 32 * cuCount b | some p => p.off + p.len
    (match prev with
     | none => false
     | some p => decide (d.typ < p.typ ∨ d.typ = p.typ ∧ d.key ≤ p.key) || decide (d.off ≤ p.off)) ||
    d.off % 64 != 0 || decide (d.off < lo) || decide (cuSig b < d.off + d.len) || decide (0x100000 < d.len)
  if (ds.zip (none :: ds.map some)).any (fun e => bad e.2 e.1) then 0x0608 else 0

/-! ## Stage 6: structure -/

/-- The largest KEY of a TYPE (Table 6.3); none for an unknown TYPE. -/
def keyMax (part : Bool) (n typ : Nat) : Option Nat :=
  match typ with
  | 1 => some 0 | 2 => some (n - 1) | 3 => some (n - 1) | 4 => some (n - 1) | 5 => some 0xFFFE | 6 => some 4095 | 7 => some 4095
  | 8 => some 31 | 9 => some 63 | 10 => some 255 | 11 => some 0 | 12 => some 0 | 13 => some 0 | 14 => some 255
  | 15 => if part then some 0 else none
  | _ => none

/-- Bytes of a MEMORY frame before its range entries (Table 6.12). -/
def memPos (f : List Byte) : Nat := 16 + (fle f 1 1 + 7) / 8 * 8

/-- The length that the counts of a frame give (R142 to R154, R160). -/
def frmNeed (typ : Nat) (f : List Byte) : Nat :=
  match typ with
  | 1 => 8 + 8 * fle f 1 1
  | 2 => 36 * 16
  | 3 => 18 * 16
  | 4 => 4 * 32
  | 5 => 16 + fle f 8 8
  | 6 => 8 + 8 * fle f 2 2
  | 7 => 16 + 2 * fle f 8 2
  | 8 => 8 + 2 * fle f 2 2 + 4 * fle f 4 2
  | 9 => memPos f + fle f 2 2 * fle f 4 2
  | 10 => 16
  | 11 => 8
  | 12 => 32
  | 13 => 24
  | 14 => 80
  | _ => 8 + 8 * fle f 0 2

/-- Whether a reserved field of a frame is not zero. -/
def frmRsv (typ : Nat) (f : List Byte) : Bool :=
  let z (o n : Nat) : Bool := !zeroAt f o n
  match typ with
  | 1 => z 2 6 || (List.range (fle f 1 1)).any (fun g => z (10 + 8 * g) 6)
  | 2 => (List.range 36).any (fun i => decide (32 ≤ fle f (16 * i + 1) 1) || decide (32 ≤ fle f (16 * i + 8) 1) || z (16 * i + 9) 1 ||
      z (16 * i + 12) 4)
  | 3 => (List.range 18).any (fun i => z (16 * i + 1) 1 || z (16 * i + 12) 4)
  | 4 => (List.range 4).any (fun i => z (32 * i + 2) 2 || z (32 * i + 24) 8)
  | 5 => z 1 7
  | 6 => z 4 4 || (List.range (fle f 2 2)).any (fun i => decide (16 ≤ fle f (10 + 8 * i) 2) || decide (2 ^ 23 ≤ fle f (12 + 8 * i) 4))
  | 7 => decide (16 ≤ fle f 3 1) || decide (2 ^ 23 ≤ fle f 4 4) || z 10 6
  | 8 => z 1 1 || z 6 2 || (List.range (fle f 4 2)).any (fun j => z (11 + 2 * fle f 2 2 + 4 * j) 1)
  | 9 => z 6 10 || z (16 + fle f 1 1) (memPos f - 16 - fle f 1 1)
  | 10 => z 6 10
  | 11 => decide (16 ≤ fle f 0 1) || z 1 1 || z 6 2
  | 12 => z 16 16
  | 13 => decide (16 ≤ fle f 2 1) || z 3 5
  | 14 => z 65 7
  | _ => z 2 6 || (List.range (fle f 0 2)).any (fun i => z (12 + 8 * i) 4)

/-- Whether a reserved field that stands before the last of a frame's counts is not zero: it is met before LENGTH can be held against the counts
(R157). -/
def frmRsvFirst (typ : Nat) (f : List Byte) : Bool :=
  match typ with
  | 5 => !zeroAt f 1 7
  | 7 => decide (16 ≤ fle f 3 1) || decide (2 ^ 23 ≤ fle f 4 4)
  | 8 => !zeroAt f 1 1
  | _ => false

/-- Stage 6, in byte order: the header, the directory, gaps and frames, and the end of the signature block. A FULL culture whose
BASE_DIGEST is not zero answers 0x0609 (DESIGN CHOICE, assumption 205). -/
def stage6 (b : List Byte) : Nat :=
  let n := cuLparts b
  let part := cuPart b
  let ds := dirOf b
  let header := [
    (decide (4 ≤ cuFlags b), 0x0609), (n == 0 || decide (64 < n), 0x060E), (!zeroAt b 0x1D 1, 0x0609),
    (!part && !zeroAt b 0x60 48, 0x0609), (!zeroAt b 0x90 112, 0x0609)]
  let entry (e : DirEnt × Nat) : List (Bool × Nat) :=
    let o := 0x100 + 32 * e.2
    let m := keyMax part n e.1.typ
    [(m.isNone, 0x060A), (!zeroAt b (o + 1) 1, 0x0609), (decide (m.getD 0 < e.1.key), 0x060A), (!zeroAt b (o + 4) 4, 0x0609),
     (!zeroAt b (o + 24) 8, 0x0609)]
  let ends := (0x100 + 32 * cuCount b) :: ds.map (fun d => d.off + d.len)
  let frame (e : DirEnt × Nat) : List (Bool × Nat) :=
    let f := (b.drop e.1.off).take e.1.len
    [(!zeroAt b e.2 (e.1.off - e.2), 0x0609), (frmRsvFirst e.1.typ f, 0x0609), (frmNeed e.1.typ f != e.1.len, 0x060B), (frmRsv e.1.typ f, 0x0609)]
  let last := ends.getLastD 0
  firstCode (header ++ ds.zipIdx.flatMap entry ++ (ds.zip ends).flatMap frame ++
    [(!zeroAt b last (cuSig b - last), 0x0609), (!zeroAt b (cuTotal b - 32) 32, 0x0609)])

/-! ## Stage 7: completeness (R141, R148) -/

def hasFrm (l : List Frm) (typ key : Nat) : Bool := (findFrm l typ key).isSome

/-- Stage 7 of a full culture, or of the culture that a partial one gives (R163). -/
def stage7 (n : Nat) (l : List Frm) : Nat :=
  let lps := List.range n
  let imgs := lps.flatMap (fun p => imagesOf l p)
  let missing := !hasFrm l 1 0 || [2, 3, 4].any (fun t => lps.any (fun p => !hasFrm l t p)) || imgs.any (fun i => !hasFrm l 5 i) ||
    !l.any (fun f => f.typ == 9) || [11, 12, 13].any (fun t => !hasFrm l t 0)
  firstCode [(missing, 0x060C), (l.any (fun f => f.typ == 6 && hasFrm l 7 f.key), 0x060D)]

/-! ## Stage 8: semantics -/

/-- An lref that is out of range in partition, kind or index (R140). -/
def badLref (n v : Nat) : Bool :=
  decide (n ≤ lrefPart v) || decide (lrefKind v = 3) || decide ((match lrefKind v with | 0 => 36 | 1 => 18 | _ => 4) ≤ lrefIdx v)

/-- A list with an entry twice. -/
def twice (l : List Nat) : Bool := decide (l.eraseDups.length ≠ l.length)

/-- Whether scalar tile t of a logical partition is idle (R147). -/
def idleTile (l : List Frm) (lp t : Nat) : Bool := fle (frmBody l 4 lp) (32 * t) 2 == 0xFFFF

/-- The groups of a SHAPE frame. -/
def shapeGroups (f : List Byte) : List Grp :=
  (List.range (fle f 1 1)).map (fun g => { kind := fle f (8 + 8 * g) 1, first := fle f (9 + 8 * g) 1 })

/-- Whether groups cover logical partitions 0 to n − 1 once (R142, R143). -/
def covers (n : Nat) (gs : List Grp) : Bool :=
  gs.all (fun g => decide (g.kind ≤ 4) && decide (g.first + kindSize g.kind ≤ n)) &&
    (List.range n).all (fun p => (gs.filter (fun g => g.holds p)).length == 1)

def shapeCheck (n : Nat) (f : List Byte) : Nat :=
  firstCode [(fle f 0 1 != n, 0x060E), (fle f 1 1 == 0 || decide (64 < fle f 1 1), 0x060E), (!covers n (shapeGroups f), 0x060E)]

/-- A mask of format codes that holds a reserved code, or FP32 as an input (R144). -/
def badOutMask (m : Nat) : Bool := decide (2 ^ 11 ≤ m)
def badInMask (m : Nat) : Bool := badOutMask m || m.testBit 0

/-- Whether two input masks allow a pairing of R33. -/
def maskPair (a b : Nat) : Bool := (List.range 11).any (fun x => a.testBit x && (List.range 11).any (fun y => b.testBit y && pairOk x y))

def issuerCheck (l : List Frm) (lp t : Nat) : List (Bool × Nat) := [(decide (4 ≤ t), 0x060F), (idleTile l lp t, 0x0611)]

def engineCheck (l : List Frm) (lp : Nat) (f : List Byte) : Nat :=
  firstCode ((List.range 36).flatMap (fun e =>
    let a := fle f (16 * e + 2) 2
    let b := fle f (16 * e + 4) 2
    issuerCheck l lp (fle f (16 * e) 1) ++
    [(badInMask a || badInMask b || badOutMask (fle f (16 * e + 6) 2) || !maskPair a b ||
       (fle f (16 * e + 1) 1 % 2 == 1 && !(List.range 11).any (fun c => b.testBit c && in8Group c)), 0x0610)]))

/-- A tile's image: of its kind, with a program region that holds it (R146, R147). -/
def imageBad (l : List Frm) (img target prog limit : Nat) : Bool :=
  let b := frmBody l 5 img
  (hasFrm l 5 img && fle b 0 1 != target) || prog % 64 != 0 || decide (prog < fle b 8 8) || decide (limit < prog)

def vtileCheck (l : List Frm) (lp : Nat) (f : List Byte) : Nat :=
  firstCode ((List.range 18).flatMap (fun v =>
    let img := fle f (16 * v + 2) 2
    let prog := fle f (16 * v + 4) 4
    let sc := (List.range 4).map (fun c => fle f (16 * v + 8 + c) 1)
    issuerCheck l lp (fle f (16 * v) 1) ++
    [(if img = 0xFFFF then prog != 0 else imageBad l img 0 prog 0x80000, 0x0611)] ++
    sc.zipIdx.flatMap (fun e => if e.1 = 0xFF then [] else
      [(decide (36 ≤ e.1), 0x060F),
       ((sc.take e.2).contains e.1 || hasFrm l 2 lp && !(fle (frmBody l 2 lp) (16 * e.1 + 1) 1).testBit 1, 0x0612)])))

def stileCheck (l : List Frm) (f : List Byte) : Nat :=
  firstCode ((List.range 4).map (fun t =>
    let o := 32 * t
    let img := fle f o 2
    let prog := fle f (o + 4) 4
    let entry := fle f (o + 8) 8
    let sp := fle f (o + 16) 8
    (img != 0xFFFF && (imageBad l img 1 prog 0x40000 || (hasFrm l 5 img && decide (fle (frmBody l 5 img) 8 8 ≤ entry)) || entry % 2 != 0 ||
      sp % 16 != 0 || decide (sp ≤ prog) || decide (0x80000 < sp)), 0x0611)))

def imageCheck (l : List Frm) (n : Nat) (part : Bool) (key : Nat) (f : List Byte) : Nat :=
  let t := fle f 0 1
  let k := fle f 8 8
  firstCode [
    (decide (1 < t), 0x0611),
    (if t = 0 then k % 8 != 0 || decide (0x80000 < k) else k % 2 != 0 || decide (0x40000 < k), 0x0611),
    (!part && !(List.range n).any (fun p => (imagesOf l p).contains key), 0x0611)]

def pourCheck (n : Nat) (f : List Byte) : Nat :=
  let src := fle f 0 2
  let ds := (List.range (fle f 2 2)).map (fun i => fle f (8 + 8 * i) 2)
  firstCode ([(badLref n src, 0x060F), (lrefKind src != 0, 0x0613), (ds.isEmpty || decide (4095 < ds.length), 0x0613)] ++
    ds.zipIdx.flatMap (fun e => [(badLref n e.1, 0x060F),
      (lrefKind e.1 == 2 || e.1 == src || (ds.take e.2).contains e.1 || fle f (12 + 8 * e.2) 4 % 64 != 0, 0x0613)]))

def churnCheck (n : Nat) (f : List Byte) : Nat :=
  let root := fle f 0 2
  let ls := (List.range (fle f 8 2)).map (fun i => fle f (16 + 2 * i) 2)
  firstCode ([(badLref n root, 0x060F), (lrefKind root != 0, 0x0613), (decide (5 < fle f 2 1) || fle f 4 4 % 64 != 0, 0x0613),
      (decide (ls.length < 2) || decide (2304 < ls.length), 0x0613)] ++
    ls.zipIdx.flatMap (fun e => [(badLref n e.1, 0x060F), (lrefKind e.1 != 0 || (ls.take e.2).contains e.1, 0x0613)]))

/-- Members of a BARRIER frame, and its engines with their counters (Table 6.11). -/
def barMembers (f : List Byte) : List Nat := (List.range (fle f 2 2)).map (fun i => fle f (8 + 2 * i) 2)
def barEngs (f : List Byte) : List (Nat × Nat) :=
  (List.range (fle f 4 2)).map (fun j => (fle f (8 + 2 * fle f 2 2 + 4 * j) 2, fle f (10 + 2 * fle f 2 2 + 4 * j) 1))

def barrierCheck (l : List Frm) (n : Nat) (f : List Byte) : Nat :=
  let ms := barMembers f
  let es := barEngs f
  firstCode ([(decide (n ≤ fle f 0 1), 0x0614), (ms.isEmpty || decide (256 < ms.length) || decide (2304 < es.length), 0x0614)] ++
    ms.zipIdx.flatMap (fun e => [(badLref n e.1, 0x060F), (lrefKind e.1 != 2 || (ms.take e.2).contains e.1, 0x0614),
      (idleTile l (lrefPart e.1) (lrefIdx e.1), 0x0611)]) ++
    [(!ms.any (fun m => lrefPart m == fle f 0 1), 0x0614)] ++
    es.zipIdx.flatMap (fun e => [(badLref n e.1.1, 0x060F),
      (lrefKind e.1.1 != 0 || ((es.take e.2).map (fun x => x.1)).contains e.1.1 || decide (7 < e.1.2), 0x0614)]))

/-- The range entries of a MEMORY frame, and the range template of a culture: entries in ascending KEY and entry order (R153). -/
def memEntries (f : List Byte) : List (BitVec 256) := (List.range (fle f 2 2)).map (fun i => fword 256 f (memPos f + 32 * i) 32)
def templateOf (l : List Frm) : List (BitVec 256) := (l.filter (fun f => f.typ == 9)).flatMap (fun f => memEntries f.body)

/-- Whether n bytes at far address a do not lie on one port (R210). -/
def farSplit (a n : Nat) : Bool := decide (4 ≤ a >>> 41) || (decide (0 < n) && (a + n - 1) >>> 41 != a >>> 41)

/-- A template entry that breaks the conditions of R216 to R219 that depend on the culture alone; of a partial culture (`part`), those on its own
frames. -/
def badTemplate (l : List Frm) (multi part : Bool) (e : BitVec 256) : Bool :=
  let b := eBase e
  let n := eLen e
  let t := eTarget e
  let k := eKind e
  b % 4096 != 0 || decide (2 ^ 57 ≤ b) || n % 4096 != 0 || decide (n < 4096) || decide (2 ^ 56 < n) || t % 4096 != 0 || decide (3 < k) ||
  decide (32 ≤ eRights e) || eRsv e != 0 || decide (2 ^ 57 < b + n) || (eKeysel e != 0 && eKeysel e != 0x1000) ||
  (match k with
   | 0 => (match findFrm l 9 (eAux e) with | none => !part | some f => decide ((isetOf f.body).bytes < t + n))
   | 1 => eAux e != 0 || farSplit t n
   | 2 => decide (4 ≤ eAux e) || hasFrm l 11 0 && !has (fle (frmBody l 11 0) 0 1) (eAux e) || decide (2 ^ 52 < t + n) || eKeysel e != 0
   | _ => !multi || (match l.find? (fun f => f.typ == 10) with | none => !part | some f => decide (fle f.body 0 2 ≤ eAux e)) ||
       decide (2 ^ 57 < t + n) || eKeysel e != 0) ||
  (eA e && !(eR e && eW e)) || (eShared e && (eW e || eA e)) || (eDlog e && k != 0 && k != 2)

/-- Two entries that overlap. -/
def overlapping (a b : BitVec 256) : Bool := decide (eBase a < eBase b + eLen b ∧ eBase b < eBase a + eLen a)

/-- The logical partitions of a MEMORY frame. -/
def memLps (f : List Byte) : List Nat := (isetOf f).lps

def memoryCheck (l : List Frm) (n : Nat) (multi part : Bool) (key : Nat) (f : List Byte) : Nat :=
  let k := fle f 1 1
  let before := l.filter (fun x => x.typ == 9 && decide (x.key < key))
  let prior := before.flatMap (fun x => memLps x.body)
  let es := memEntries f
  let old := before.flatMap (fun x => memEntries x.body)
  firstCode ([
    (decide (fle f 0 1 < 8) || decide (16 < fle f 0 1) || !([1, 2, 4, 8, 16, 32, 64].contains k), 0x0615),
    (decide (4096 < fle f 2 2) || fle f 4 2 != 32, 0x0615),
    ((memLps f).any (fun p => decide (n ≤ p) || prior.contains p) || twice (memLps f), 0x0615),
    (decide (4096 < old.length + es.length), 0x0615)] ++
    es.zipIdx.map (fun e => (badTemplate l multi part e.1 || (old ++ es.take e.2).any (overlapping e.1), 0x0615)))

def fabricCheck (l : List Frm) (multi part : Bool) (f : List Byte) : Nat :=
  let g := fle f 2 2
  let op := fle f 4 1
  firstCode [
    (!multi, 0x061A), (decide (fle f 0 2 < 2) || decide (4096 < fle f 0 2), 0x061A),
    (!(hasFrm l 7 g && op == fle (frmBody l 7 g) 2 1 || hasFrm l 6 g && op == 0 || part && !hasFrm l 6 g && !hasFrm l 7 g), 0x061A), (decide (1 < fle f 5 1), 0x061A)]

def hostCheck (f : List Byte) : Nat :=
  firstCode [(fle f 0 1 == 0, 0x0617), (fle f 2 2 == 0 || decide (256 < fle f 2 2), 0x0617), (fle f 4 2 == 0 || decide (2048 < fle f 4 2), 0x0617)]

def schedCheck (f : List Byte) : Nat :=
  let cream := fle f 8 4
  let skim := fle f 12 4
  firstCode [
    (decide (1024 < fle f 0 2), 0x0616), (fle f 2 2 != 0 && decide (fle f 2 2 < 100), 0x0616),
    (decide (fle f 4 2 < 400) || decide (2000 < fle f 4 2), 0x0616), (fle f 6 2 == 0 || decide (4096 < fle f 6 2), 0x0616),
    (decide (24576 < cream), 0x0616), (decide (278528 < skim), 0x0616),
    (decide (6 * 2 ^ 20 < fle f 6 2 * ((max cream skim + 63) / 64 * 64)), 0x0616)]

def meterCheck (f : List Byte) : Nat := firstCode [(fle f 2 1 == 0, 0x0618)]

def weightsCheck (f : List Byte) : Nat :=
  firstCode [
    (fle f 48 8 % 4096 != 0, 0x0619), (fle f 56 8 % 4096 != 0 || decide (2 ^ 57 ≤ fle f 56 8), 0x0619),
    (fle f 64 1 != 1 && fle f 64 1 != 2, 0x0619), (fle f 64 1 == 1 && farSplit (fle f 72 8) (fle f 48 8), 0x0619)]

/-- The check of one frame; of a partial culture (`part`), what its own frames settle. -/
def frameCheck (l : List Frm) (n : Nat) (multi part : Bool) (f : Frm) : Nat :=
  match f.typ with
  | 1 => shapeCheck n f.body
  | 2 => engineCheck l f.key f.body
  | 3 => vtileCheck l f.key f.body
  | 4 => stileCheck l f.body
  | 5 => imageCheck l n part f.key f.body
  | 6 => pourCheck n f.body
  | 7 => churnCheck n f.body
  | 8 => barrierCheck l n f.body
  | 9 => memoryCheck l n multi part f.key f.body
  | 10 => fabricCheck l multi part f.body
  | 11 => hostCheck f.body
  | 12 => schedCheck f.body
  | 13 => meterCheck f.body
  | _ => weightsCheck f.body

/-- Stage 8: frames in directory order; that the interleave sets cover every logical partition, and that a MULTI_MODULE culture holds a
FABRIC frame, after the frames of TYPE 0x09 (R136, R141). The place and the code 0x0615 of an uncovered partition are a DESIGN CHOICE
(assumption 206). -/
def stage8 (n : Nat) (multi : Bool) (l : List Frm) : Nat :=
  let code (p : Frm → Bool) : List Nat := (l.filter p).map (frameCheck l n multi false)
  let covered := (l.filter (fun f => f.typ == 9)).flatMap (fun f => memLps f.body)
  let all := code (fun f => decide (f.typ ≤ 9)) ++
    [if (List.range n).all (fun p => covered.contains p) then 0 else 0x0615,
     if multi && !l.any (fun f => f.typ == 10) then 0x061A else 0] ++ code (fun f => decide (10 ≤ f.typ))
  (all.find? (fun c => decide (c ≠ 0))).getD 0

/-! ## Partial cultures (R160 to R163) -/

/-- Stages 7 and 8 of a partial culture's own frames: a group number of a POUR and a CHURN frame, and each frame in directory order, as far as
they do not hang on frames of the base (R157). -/
def stage8Own (n : Nat) (multi : Bool) (l : List Frm) : Nat :=
  if l.any (fun f => f.typ == 6 && hasFrm l 7 f.key) then 0x060D
  else (((l.filter (fun f => f.typ != 15)).map (frameCheck l n multi true)).find? (fun c => decide (c ≠ 0))).getD 0

/-- An operation of a REBIND frame (Table 6.17). -/
structure RebOp where
  op : Nat
  first : Nat
  kind : Nat
  target : Nat
  deriving DecidableEq, Repr

def rebOps (l : List Frm) : List RebOp :=
  let f := frmBody l 15 0
  (List.range (fle f 0 2)).map (fun i =>
    { op := fle f (8 + 8 * i) 1, first := fle f (9 + 8 * i) 1, kind := fle f (10 + 8 * i) 1, target := fle f (11 + 8 * i) 1 })

/-- Physical partitions of the region of a KIND whose lowest partition is t (Table 6.5, R143); none when t begins no region. -/
def regionOf (kind t : Nat) : Option (List Nat) :=
  match kind with
  | 0 => if t < 64 then some [t] else none
  | 1 => if t < 64 ∧ t % 2 = 0 then some [t, t + 1] else none
  | 2 => if t < 64 ∧ t % 4 = 0 then some [t, t + 1, t + 2, t + 3] else none
  | 3 =>
    if t < 64 ∧ t % 4 = 0 ∧ t / 16 ≤ 2 ∧ t / 4 % 4 ≤ 2 then
      some ((List.range 16).map (fun m => 4 * (4 * (t / 16 + m / 4 / 2) + t / 4 % 4 + m / 4 % 2) + m % 4))
    else none
  | 4 => if t = 0 then some (List.range 64) else none
  | _ => none

/-- What a partial culture alone must obey (R160, R162): one REBIND frame, no SHAPE frame, and sound operations. -/
def rebCheck (l : List Frm) : Nat :=
  let ops := rebOps l
  firstCode [(!hasFrm l 15 0 || hasFrm l 1 0 || ops.isEmpty || decide (64 < ops.length) || twice (ops.map (fun o => o.first)) ||
    ops.any (fun o => decide (o.op = 0 ∨ 3 < o.op) || (o.op != 1 && o.kind != 0) || (o.op == 2 && o.target != 0) || decide (64 ≤ o.first) ||
      (o.op == 1 && decide (4 < o.kind)) || (o.op == 1 && o.target != 0xFF && (regionOf o.kind o.target).isNone)), 0x061F)]

end Sys2Proof.Machine
end

