-- ==== Sys2Proof/Machine/Compose.lean ====
section
/-!
DEFINITION. Shared operations of binding and re-binding (chapters 6 and 7): derived collective entries (R151), placement (R155), the
culture store (R169), the culture a partial one gives (R162, R163), and moving groups (R176).
-/

namespace Sys2Proof.Machine

/-! ## Collective entries (R151) -/

/-- The port toward router t: first along gy, then along gx. -/
def stepYX (r t : Nat) : Nat :=
  if rGy r < rGy t then 3 else if rGy t < rGy r then 1 else if rGx r < rGx t then 2 else if rGx t < rGx r then 4 else 0

/-- The routers of a path and the port by which it leaves each; 0 at its end. -/
def pathOf (step : Nat → Nat → Nat) (fuel r t : Nat) : List (Nat × Nat) :=
  match fuel with
  | 0 => []
  | k + 1 =>
    let o := step r t
    (r, o) :: (if o = 0 then [] else match neighbor r o with | none => [] | some n => pathOf step k n t)

/-- Changes the entry of router r in a list of entries, which begins as `e0`. -/
def withEnt (l : List (Nat × CEnt)) (r : Nat) (e0 : CEnt) (f : CEnt → CEnt) : List (Nat × CEnt) :=
  if l.any (fun x => x.1 == r) then updAll (fun x => x.1 == r) (fun x => (x.1, f x.2)) l else l ++ [(r, f e0)]

/-- Adds a path to a tree: at each router the port it enters by, local at its start, and the port it leaves by. -/
def addPath (l : List (Nat × CEnt)) (e0 : CEnt) (path : List (Nat × Nat)) : List (Nat × CEnt) :=
  ((0 :: path.map (fun x => facing x.2)).zip path).foldl (fun l x =>
    withEnt l x.2.1 e0 (fun e => { e with inMask := setBit e.inMask x.1, outMask := setBit e.outMask x.2.2 })) l

/-- The entries of a POUR or CHURN frame, for the units that `unit` gives its lrefs. -/
def treeOf (cid : Nat) (unit : Nat → Option Nat) (f : Frm) : List (Nat × CEnt) :=
  let rt (l : Nat) : Nat := match unit l with | none => 0 | some u => unitRouter u
  if f.typ = 6 then
    let src := rt (fle f.body 0 2)
    let e0 : CEnt := { churn := false, cid := cid, group := f.key, inMask := 0, outMask := 0 }
    (List.range (fle f.body 2 2)).foldl (fun l i =>
      let d := rt (fle f.body (8 + 8 * i) 2)
      let b := fle f.body (10 + 8 * i) 2
      let l := addPath l e0 (pathOf stepTo 128 src d)
      withEnt l d e0 (fun e => { e with lcnt := b % 8, lcntEn := b.testBit 3, lbase := fle f.body (12 + 8 * i) 4 })) []
  else
    let root := rt (fle f.body 0 2)
    let b := fle f.body 3 1
    let e0 : CEnt := { churn := true, cid := cid, group := f.key, inMask := 0, outMask := 0, op := fle f.body 2 1 }
    let l := (List.range (fle f.body 8 2)).foldl (fun l i => addPath l e0 (pathOf stepYX 128 (rt (fle f.body (16 + 2 * i) 2)) root)) []
    withEnt l root e0 (fun e => { e with lcnt := b % 8, lcntEn := b.testBit 3, lbase := fle f.body 4 4 })

/-- The lrefs a collective frame names. -/
def treeLrefs (f : Frm) : List Nat :=
  if f.typ = 6 then fle f.body 0 2 :: (List.range (fle f.body 2 2)).map (fun i => fle f.body (8 + 8 * i) 2)
  else fle f.body 0 2 :: (List.range (fle f.body 8 2)).map (fun i => fle f.body (16 + 2 * i) 2)

def collectives (l : List Frm) : List Frm := l.filter (fun f => f.typ == 6 || f.typ == 7)

/-- The unit an lref names under a placement of logical partitions. -/
def State.unitAt (s : State) (placed : List (Nat × Nat)) (l : Nat) : Option Nat :=
  match placed.find? (fun e => e.1 == lrefPart l) with
  | none => none
  | some e => s.unitIn e.2 (lrefKind l) (lrefIdx l)

/-- Every entry of the collective frames whose partitions are all placed. -/
def State.treesOf (s : State) (cid : Nat) (frames : List Frm) (placed : List (Nat × Nat)) : List (Nat × CEnt) :=
  ((collectives frames).filter (fun f => (treeLrefs f).all (fun l => placed.any (fun e => e.1 == lrefPart l)))).flatMap
    (treeOf cid (s.unitAt placed))

/-- UNROUTABLE or TABLE_FULL for the entries of a composition, 0 when they fit (R122, R151). -/
def State.treesCode (s : State) (cid : Nat) (ents : List (Nat × CEnt)) : Nat :=
  let bad (x : Nat × CEnt) : Bool := (s.router x.1).faulty ||
    (List.range 5).any (fun o => o != 0 && (has x.2.outMask o || has x.2.inMask o) && has (s.router x.1).fenced o)
  let tooMany (x : Nat × CEnt) : Bool :=
    decide (128 < ((s.router x.1).ctab.filter (fun e => e.cid != cid)).length + (ents.filter (fun y => y.1 == x.1)).length)
  if ents.any bad then 0x061D else if ents.any tooMany then 0x061C else 0

/-- The entries of a composition are written into the routers, in place of those it had. -/
def State.installTrees (s : State) (cid : Nat) (ents : List (Nat × CEnt)) : State :=
  (s.dropEntries cid).each ents (fun s x => s.updRouter x.1 (fun y => { y with ctab := y.ctab ++ [x.2] }))

/-- The entries of an operation are installed, as a journaled step (R174 step 5, Table 7.10). A step of ENTRIES concerns no one partition: it
names 255 (assumption 176). -/
def State.stepTrees (s : State) (cid : Nat) (ents : List (Nat × CEnt)) : State := (s.installTrees cid ents).jwait (.step cid 5 255 0)

/-! ## Placement (R155) -/

/-- Groups in descending order of size, equal sizes in ascending order of their first partition. -/
def orderGroups (gs : List (Nat × Nat × Nat)) : List (Nat × Nat × Nat) :=
  [4, 3, 2, 1, 0].flatMap (fun k => (List.range 64).flatMap (fun f => gs.filter (fun g => g.1 == k && g.2.1 == f)))

/-- Places one group: KIND, first logical partition, TARGET. Answers 0 and the placement with it, or the code of the refusal. -/
def State.placeGroup (s : State) (cid : Nat) (frames : List Frm) (placed : List (Nat × Nat)) (g : Nat × Nat × Nat) :
    Nat × List (Nat × Nat) :=
  let free (t : Nat) : Bool := match regionOf g.1 t with
    | none => false
    | some ps => ps.all (fun p => decide ((s.part p).st = .free) && !placed.any (fun e => e.2 == p)) &&
      s.powerFits (ps ++ (placed.map (fun e => e.2)).filter (fun p => decide ((s.part p).st = .free))) (holdClock (fle (frmBody frames 0x0C 0) 4 2))
  let cands := (if g.2.2 = 0xFF then List.range 64 else [g.2.2]).filter free
  let try_ (t : Nat) : Nat × List (Nat × Nat) :=
    let placed := placed ++ ((regionOf g.1 t).getD []).zipIdx.map (fun e => (g.2.1 + e.2, e.1))
    (s.treesCode cid (s.treesOf cid frames placed), placed)
  match cands with
  | [] => (0x061B, placed)
  | t :: _ =>
    match cands.find? (fun c => (try_ c).1 == 0) with
    | some c => try_ c
    | none => ((try_ t).1, placed)

/-- Places groups in the order of R155, beside what is placed already. -/
def State.placeAll (s : State) (cid : Nat) (frames : List Frm) (placed : List (Nat × Nat)) (gs : List (Nat × Nat × Nat)) :
    Nat × List (Nat × Nat) :=
  (orderGroups gs).foldl (fun acc g => if acc.1 ≠ 0 then acc else s.placeGroup cid frames acc.2 g) (0, placed)

/-- The save areas of a composition on partition p, and on logical partition 0 its table area too, are reserved and zeroed (R170 step 4, R221,
R243). The memory of a FREE partition holds zero, so that what a command can see of it is the SAVE traffic (assumption 191). -/
def State.zeroAreas (s : State) (c lp p : Nat) : State :=
  let x := s.comp c
  s.saveTraffic p (x.maxCtx * x.saveKib * 1024 + if lp = 0 then x.maxCtx * 144 * 1024 else 0) true

/-- Claims the partitions of a placement, with the areas the composition keeps there (R27, R170). -/
def State.claimAll (s : State) (cid : Nat) (l : List (Nat × Nat)) : State :=
  s.each l (fun s e => ((s.claim e.2 cid e.1).zeroAreas cid e.1 e.2).jwait (.step cid 0 e.2 0))

/-! ## Weight sets, barriers and records -/

/-- The weight sets of a culture (Table 6.13). -/
def wsetsOf (l : List Frm) : Map WSet :=
  (l.filter (fun f => f.typ == 14)).foldl (fun m f => Map.set {} f.key
    { digest := octets f.body 0, len := fle f.body 48 8, va := fle f.body 56 8, golden := fle f.body 64 1, addr := fle f.body 72 8 } m) []

/-- The bytes of a weight set's golden copy, when they can be read and their digest matches (R154). -/
def State.goldenOf (s : State) (w : WSet) (port : Nat) : Option (List Byte) :=
  match s.storeBytes (if w.golden = 1 then 1 else 0) port w.addr w.len with
  | none => none
  | some b => if Config.sha384 b = w.digest then some b else none

/-- The SHARED entry of weight set w of a composition under keyslot k: read only, at the set's VA (R154, R219). -/
def Comp.sharedEntry (c : Comp) (w : Nat) (e : WSet) (k : Nat) : Option (BitVec 256) :=
  (c.weightAt w).map (fun a => mkEntry e.va e.len a.2 (0x1000 + k) 0 9 a.1)

/-- The highest index of a context's table that is INVALID. -/
def State.topFree (s : State) (x : Nat) : Option Nat :=
  ((List.range 4096).map (fun i => 4095 - i)).find? (fun i => decide ((s.slot x i).st = .invalid))

/-- The binder installs the SHARED entry of every weight set in a context that does not have it, at the highest free index (R219). One that
R218 does not accept is left out (assumption 192). -/
def State.shareWeights (s : State) (x : Nat) : State :=
  let c := (s.ctx x).cid
  match s.sharedSlot c with
  | none => s
  | some k => s.each (s.comp c).weights (fun s w =>
      match (s.comp c).sharedEntry w.1 w.2 k, s.topFree x with
      | some e, some i =>
        if (s.validSlots x).any (fun r => r.2.entry == e) || s.entryCheck x e != 0 then s
        else s.updSlot x i (fun r => { r with st := .valid, entry := e })
      | _, _ => s)

/-- A weight set is written from its golden copy: it is whole again (R154, R197, Table 8.17). -/
def State.fillSet (s : State) (c k : Nat) (e : Nat × WSet) : State :=
  match s.goldenOf e.2 (s.comp c).storePort with
  | none => s
  | some b =>
    let s := (s.countRead (if e.2.golden = 1 then 1 else 0) (s.comp c).storePort e.2.addr e.2.len).writeSet c e.1 k b
    if (Map.get {} (s.comp c).weights e.1).poisoned then
      (s.updComp c (fun x => { x with weights := Map.upd {} e.1 (fun v => { v with poisoned := false, fails := 0 }) x.weights })).eventAll c 0 e.1
    else s

/-- Writes every weight set of a composition into its memory under the shared keyslot (R154, R338). -/
def State.fillWeights (s : State) (c : Nat) : State :=
  if (s.comp c).weights.isEmpty then s
  else
    let s := match s.sharedSlot c with
      | some _ => s
      | none => match s.freeSlot with | none => s | some k => s.grantSlot k (.shared c)
    match s.sharedSlot c with
    | none => s
    | some k =>
      let s := s.each (s.comp c).weights (fun s e => s.fillSet c k e)
      s.each (s.ctxsOf c) (fun s x => s.shareWeights x)

/-- The barriers a shape defines, each in its present phase; one that was broken, or whose definition changes, has no arrival (R96, R152). -/
def State.defineBars (s : State) (c : Nat) : State :=
  (s.resetBarriers c).each (List.range 32) (fun s b =>
    match findFrm (s.comp c).frames 8 b with
    | none => s.updBar c b (fun _ => {})
    | some f => s.updBar c b (fun x =>
        let y := { x with defined := true, root := fle f.body 0 1, members := barMembers f.body, engs := barEngs f.body }
        if y = x then x else y.empty))

/-- FLAGS of the composition record, with FAST (Table 7.1, R173). -/
def Comp.isFast (c : Comp) : Bool := decide (c.lparts ≤ 8) && !c.multi
def CState.num (c : CState) : Nat :=
  match c with
  | .free => 0 | .binding => 1 | .active => 2 | .rebinding => 3 | .quiescing => 4 | .reshaping => 5 | .impaired => 6 | .unbinding => 7

/-- The composition record, 256 bytes (Table 7.1). -/
def Comp.record (c : Comp) (cid : Nat) : List Byte :=
  leBytes cid 1 ++ leBytes c.st.num 1 ++ leBytes c.gen.toNat 2 ++ leBytes c.shape 2 ++ leBytes (c.flags % 4 + 4 * b2n c.isFast) 1 ++
  leBytes c.lparts 1 ++ leBytes c.chain.length 1 ++ leBytes 0 7 ++ leBytes c.eff.toNat 48 ++
  (List.range 64).map (fun l => BitVec.ofNat 8 (Map.get 255 c.place l)) ++ leBytes c.storeAddr 8 ++ leBytes c.storeLen 8 ++ leBytes 0 112

/-! ## The culture a partial one gives (R162, R163) -/

/-- Inserts a frame by TYPE and KEY, in place of one with the same. -/
def insFrm (f : Frm) (l : List Frm) : List Frm :=
  match l with
  | [] => [f]
  | g :: r =>
    if f.typ = g.typ ∧ f.key = g.key then f :: r
    else if f.typ < g.typ ∨ f.typ = g.typ ∧ f.key < g.key then f :: g :: r
    else g :: insFrm f r

/-- The groups after a partial culture's operations. -/
def newGroupsOf (gs : List Grp) (ops : List RebOp) : List Grp :=
  gs.filter (fun g => !ops.any (fun o => o.op == 2 && o.first == g.first)) ++
    (ops.filter (fun o => o.op == 1)).map (fun o => { kind := o.kind, first := o.first })

/-- A SHAPE frame of some groups. -/
def shapeFrm (n : Nat) (gs : List Grp) : Frm :=
  { typ := 1, key := 0, body := leBytes n 1 ++ leBytes gs.length 1 ++ leBytes 0 6 ++
      gs.flatMap (fun g => leBytes g.kind 1 ++ leBytes g.first 1 ++ leBytes 0 6) }

/-- The frames after a partial culture: those of removed partitions go, and its own replace or join the base's. An image that no tile names any
more stays, so that R148 refuses the result (assumption 45). -/
def newFramesOf (c : Comp) (k : Culture) : List Frm :=
  let ops := rebOps k.frames
  let gone := (c.groups.filter (fun g => ops.any (fun o => o.op == 2 && o.first == g.first))).flatMap
    (fun g => (List.range (kindSize g.kind)).map (fun i => g.first + i))
  let base := c.frames.filter (fun f => !(decide (2 ≤ f.typ ∧ f.typ ≤ 4) && gone.contains f.key))
  let l := (k.frames.filter (fun f => f.typ != 15)).foldl (fun l f => insFrm f l) base
  insFrm (shapeFrm k.lparts (newGroupsOf c.groups ops)) l

/-- The code of a partial culture against its composition (R160 to R163, R169): REBIND_OP for a breach. -/
def applyCheck (c : Comp) (k : Culture) : Nat :=
  let ops := rebOps k.frames
  let old := c.groups.flatMap (fun g => (List.range (kindSize g.kind)).map (fun i => g.first + i))
  let grp (o : RebOp) : Option Grp := c.groups.find? (fun g => g.first == o.first)
  let badOp (o : RebOp) : Bool :=
    if o.op = 1 then
      let lps := (List.range (kindSize o.kind)).map (fun i => o.first + i)
      lps.any (fun p => old.contains p || !hasFrm k.frames 2 p || !hasFrm k.frames 3 p || !hasFrm k.frames 4 p ||
        (imagesOf k.frames p).any (fun i => !hasFrm k.frames 5 i))
    else match grp o with
      | none => true
      | some g => o.op == 3 && o.target != 0xFF && (regionOf g.kind o.target).isNone
  let l := newFramesOf c k
  if !k.part || k.flags != c.flags % 4 || ops.any badOp || decide (64 ≤ c.chain.length) then 0x061F
  else if stage7 k.lparts l ≠ 0 ∨ stage8 k.lparts c.multi l ≠ 0 then 0x061F
  else 0

/-! ## A submitted culture (R157) -/

/-- The staged form of a culture that passed. -/
def cultureOf (b : List Byte) (handle kind addr port : Nat) : Culture :=
  { handle := handle, part := cuPart b, flags := cuFlags b % 4, lparts := cuLparts b, signer := octets b 0x30, base := octets b 0x60,
    digest := cuDigest b, frames := framesOf b, kind := kind, addr := addr, len := b.length, port := port }

/-- Stages 7 and 8 of a partial culture as submitted (R157, R160 to R163): its REBIND frame and the absence of a SHAPE frame, its own frames in
directory order, its operations, then, against the composition whose effective digest it names as its base, the culture it gives. With no such
composition that last check waits for the APPLY (R164, assumption 164). -/
def State.partialCheck (s : State) (b : List Byte) : Nat :=
  let l := framesOf b
  let own := stage8Own (cuLparts b) ((cuFlags b).testBit 1) l
  if !hasFrm l 15 0 || hasFrm l 1 0 then 0x061F
  else if own ≠ 0 then own
  else if rebCheck l ≠ 0 then rebCheck l
  else match s.comps.find? (fun e => decide (e.2.st ≠ .free) && e.2.eff == octets b 0x60) with
    | none => 0
    | some e => applyCheck e.2 (cultureOf b 0 0 0 0)

/-- Stages 1 to 8 of a culture as submitted. -/
def State.validate (s : State) (b : List Byte) : Nat :=
  let c1 := stage1 b
  if c1 ≠ 0 then c1
  else
    let c2 := s.stage2 (octets b 0x30)
    if c2 ≠ 0 then c2
    else
      let c3 := s.stage3 b
      if c3 ≠ 0 then c3
      else
        let c4 := s.stage4 b
        if c4 ≠ 0 then c4
        else
          let c5 := stage5 b
          if c5 ≠ 0 then c5
          else
            let c6 := stage6 b
            if c6 ≠ 0 then c6
            else if cuPart b then s.partialCheck b
            else
              let c7 := stage7 (cuLparts b) (framesOf b)
              if c7 ≠ 0 then c7 else stage8 (cuLparts b) ((cuFlags b).testBit 1) (framesOf b)

/-! ## Saving a stage, and moving a group (R176) -/

/-- The state of a context that a switch on one of its stages has left: SWITCHING while another goes on, else RUNNING where it is resident, and
without a stage WAITING or at rest (Tables 10.2 and 10.3). -/
def State.settleSaved (s : State) (x : Nat) : State :=
  let next (s : State) : State :=
    if s.switches x then s.updCtx x (fun k => { k with st := .switching })
    else if !(s.residentOn x).isEmpty then s.updCtx x (fun k => { k with st := .running })
    else if (s.workOfCtx x).isEmpty then s.ctxIdle x
    else s.updCtx x (fun k => { k with st := .waiting })
  match (s.ctx x).st with
  | .running => next s
  | .switching => next s
  | _ => s

/-- Every unit of a stage stops and its record is written: scalar tiles first, then the units they issue to (R71 to R73, R99). -/
def State.stopStage (s : State) (c g : Nat) : State :=
  let us := s.stageUnits c g
  let tile (u : Nat) : Bool := decide (57 ≤ u % 61)
  let s := s.each (us.filter tile) (fun s u => s.saveUnit u)
  s.each (us.filter (fun u => !tile u)) (fun s u => s.saveUnit u)

/-- Whether no unit of a stage runs any more or is on its way to a stop point. -/
def State.stageHalted (s : State) (c g : Nat) : Bool :=
  (s.stageUnits c g).all (fun u => decide ((s.unit u).st ≠ .run ∧ (s.unit u).st ≠ .stopping ∧ (s.unit u).st ≠ .trapped))

/-- Saves the context resident on a stage into its save area and zeroes the stage: at once where every unit stands at a stop point, and
otherwise the stop is requested and the save ends with SWITCH_SAVE_DONE (R244, R248). -/
def State.saveOut (s : State) (c g : Nat) : State :=
  match (s.stage c g).resident with
  | none => s
  | some x =>
    let s := s.stopStage c g
    if s.stageHalted c g then (s.evict c g).settleSaved x
    else (s.updStage c g (fun y => { y with work := none, phase := .saving x none })).updCtx x
      (fun k => if k.st = .running then { k with st := .switching } else k)

/-- Whether a channel sector of a logical partition lies under a LOCAL range of a context of the composition. -/
def State.occupied (s : State) (c lp k off : Nat) : Bool :=
  (s.ctxsOf c).any (fun x => (s.validSlots x).any (fun r =>
    eKind r.2.entry == 0 && (match ((s.comp c).iset (eAux r.2.entry)).bind (fun t => t.addrOf lp k off) with
      | none => false
      | some a => decide (eTarget r.2.entry ≤ a ∧ a < eTarget r.2.entry + eLen r.2.entry))))

/-- Bytes of the set space below a that lie on the logical partition at place i of a set: eight granules of every stripe (R153). -/
def ISet.below (t : ISet) (i a : Nat) : Nat :=
  let part := 8 * 2 ^ t.g
  let stripe := part * t.lps.length
  a / stripe * part + min part (a % stripe - i * part)

/-- Inserts a range by its first address. -/
def insRange (r : Nat × Nat) (l : List (Nat × Nat)) : List (Nat × Nat) :=
  match l with
  | [] => [r]
  | x :: rest => if r.1 ≤ x.1 then r :: x :: rest else x :: insRange r rest

/-- Ranges of set space, first address and end, without what an earlier one covers; they stand in ascending order. -/
def disjoint (l : List (Nat × Nat)) (from_ : Nat) : List (Nat × Nat) :=
  match l with
  | [] => []
  | x :: rest => (max x.1 from_, max x.2 from_) :: disjoint rest (max x.2 from_)

/-- The occupied extent of a partition in bytes: those that lie under any LOCAL range of the composition's contexts, and its save areas (R176). -/
def State.extentBytes (s : State) (c lp : Nat) : Nat :=
  let x := s.comp c
  let rs := ((s.ctxsOf c).flatMap (fun k => s.validSlots k)).filter (fun r => decide (eKind r.2.entry = 0))
  let under := x.frames.map (fun f => if f.typ ≠ 9 then 0 else
    let t := isetOf f.body
    match t.lps.findIdx? (fun q => q == lp) with
    | none => 0
    | some i =>
      let l := (rs.filter (fun r => eAux r.2.entry == f.key)).map (fun r => (eTarget r.2.entry, eTarget r.2.entry + eLen r.2.entry))
      ((disjoint (l.foldr insRange []) 0).map (fun r => t.below i r.2 - t.below i r.1)).sum)
  x.maxCtx * x.saveKib * 1024 + under.sum

/-- What a MOVE copy finds of the sectors of a channel it reads: the spec leaves it open (Table 8.17, assumption 186). -/
def State.moveFinds (s : State) (ch : Nat) (under : Nat → Bool) : State :=
  ({ s with fresh := s.fresh + 1 } : State).each ((Config.moveErrs s.fresh).filter (fun e => decide (64 * e.1 < chanBytes) && under e.1)) (fun s e =>
    (s.decodeSector ch e.1 (readErrOf e.2)).2)

/-- Copies the occupied extent of partition p, logical partition lp, to partition q, as SAVE traffic (R176, R203). A sector keeps its key and
tweak, which name the logical partition; one that holds zero is copied as zero, and one that cannot be read becomes a poison marker. -/
def State.copyExtent (s : State) (c lp p q : Nat) : State :=
  s.each (List.range 8) (fun s k =>
    let under (i : Nat) : Bool := s.occupied c lp k (64 * i)
    let s := s.moveFinds (8 * p + k) under
    let secs := (s.chan (8 * p + k)).secs.filter (fun e => under e.1)
    let n := s.extentBytes c lp / 8
    let s := s.updChan (8 * p + k) (fun x => { x with rdBytes := bump x.rdBytes 4 n })
    (s.updChan (8 * q + k) (fun x => { x with
      secs := secs.foldl (fun m e => Map.set {} e.1 e.2 m) (x.secs.filter (fun e => !under e.1)),
      wrBytes := bump x.wrBytes 4 n })).jwait (.step c 3 q n))

/-- A pool identifier of a partition's memory (Table 7.7). -/
def localPool (rank p : Nat) (gen : Word16) : Word64 := BitVec.ofNat 64 (fld 48 rank + fld 16 p + gen.toNat)

/-- COMMIT re-points the tokens of moved pools to their targets, with epoch + 1, and the handoffs that go to such a pool (R181, assumption 177).
Answers the pairs of old and new pool (R420). -/
def State.repoint (s : State) (c : Nat) (moves : List (Nat × Nat)) : List (Word64 × Word64) × State :=
  let dest (v : Word64) : Option Word64 :=
    (moves.find? (fun m => poolOfPart v m.1)).map (fun m => localPool (bits v 61 48) m.2 (s.part m.2).gen)
  let hits := s.tokens.filter (fun e => e.2.cid == c && decide (e.2.st = .owned ∨ e.2.st = .sending))
  ((hits.flatMap (fun e => [e.2.pool] ++ if e.2.st = .sending then [e.2.peer] else [])).eraseDups.filterMap (fun v => (dest v).map (fun w => (v, w))),
   s.each hits (fun s e => s.updTok e.1 (fun k =>
     let k := if k.st = .sending then { k with peer := (dest k.peer).getD k.peer } else k
     match dest k.pool with
     | none => k
     | some w => { k with epoch := k.epoch + 1, pool := w })))

/-! ## Contexts across a re-bind (R176, R178) -/

/-- Restores a context on a stage of its composition (R73, R101, R241). -/
def State.restoreStage (s : State) (c g x : Nat) : State :=
  let s := s.each (s.stageUnits c g) (fun s u => s.loadUnit u x)
  let s := s.updStage c g (fun y => { y with resident := some x, phase := .quiet })
  (s.updCtx x (fun k => { k with st := match k.st with | .idle => .running | .waiting => .running | st => st })).settleSaved x

/-- The records of a context for some logical partitions leave its save areas. -/
def State.dropSaved (s : State) (x : Nat) (lps : List Nat) : State :=
  s.updCtx x (fun k => { k with saved := k.saved.filter (fun e => !lps.contains (lrefPart e.1)) })

/-- Bytes of a context's records for a logical partition (R243). -/
def State.savedBytes (s : State) (x lp : Nat) : Nat :=
  (((s.ctx x).saved.filter (fun e => lrefPart e.1 == lp)).map (fun e => (e.2.bytes e.1 x).length)).sum

/-- A step of an operation on the save areas of a stage is journaled, partition by partition: 2 SAVE, 4 RESTORE (Table 7.10). -/
def State.stepSaves (s : State) (c g x kind : Nat) : State :=
  s.each ((s.comp c).lpsOf g) (fun s lp => match (s.comp c).phys lp with
    | none => s
    | some p => s.jwait (.step c kind p (s.savedBytes x lp)))

/-- Saves the context resident on a stage for an operation, which remembers it; the SAVE is journaled once it is done. -/
def State.saveForOp (s : State) (c g : Nat) : State :=
  match (s.stage c g).resident with
  | none => s
  | some x =>
    let s := (s.saveOut c g).updComp c (fun y =>
      { y with op := y.op.map (fun o => { o with savedCtx := if o.savedCtx.contains (g, x) then o.savedCtx else o.savedCtx ++ [(g, x)] }) })
    if (s.stage c g).resident.isNone then s.stepSaves c g x 2 else s

/-- Restores a context that an operation had saved; one whose save is still in progress is restored after it. -/
def State.restoreForOp (s : State) (c g x : Nat) : State :=
  match (s.stage c g).phase with
  | .saving y _ => s.updStage c g (fun v => { v with phase := .saving y (some x) })
  | _ => ((s.stepSaves c g x 4).restoreStage c g x)

/-- It is restored for good: its records leave the save areas. -/
def State.returnForOp (s : State) (c g x : Nat) : State :=
  let s := s.restoreForOp c g x
  if (s.stage c g).resident = some x ∧ (s.stage c g).phase = .quiet then s.dropSaved x ((s.comp c).lpsOf g) else s

/-- Rolls an operation back, and restores on their stages the contexts it had saved (R175, Table 7.3). -/
def State.undo (s : State) (c cause ans : Nat) : State :=
  match (s.comp c).op with
  | none => s
  | some o =>
    let s := s.rollback c cause ans
    if (s.comp c).st = .active ∨ (s.comp c).st = .impaired then
      (s.each o.savedCtx (fun s e => (s.settleSaved e.2).returnForOp c e.1 e.2)).settleHellos
    else s

/-- A stage's cream budget starts full (R245). -/
def Comp.budgetCap (c : Comp) : Nat := c.creamShare * 10000000 / 1024
def State.fullBudget (s : State) (c g : Nat) : State :=
  s.updStage c g (fun x => { x with budget := (s.comp c).budgetCap, empty := false })

/-! ## The end of a composition (R167, Table 7.3) -/

/-- Every partition that a composition still holds takes the partition step (R188, Table 17.1). -/
def State.forceOut (s : State) (c : Nat) : State :=
  s.each (((s.comp c).members ++ (s.comp c).toRelease).filter (fun p => decide ((s.part p).cid = c ∧ (s.part p).st = .bound))) (fun s p =>
    s.startStep .partition p 10)

/-- A composition enters UNBINDING, and its contexts are torn down. With FORCE each member partition takes the partition step (Table 17.1). -/
def State.enterUnbinding (s : State) (c : Nat) (req : Request) (force : Bool) (more : List Request) : State :=
  let s := (s.startUnbind c req force more).tearComp c
  if force then s.forceOut c else s

end Sys2Proof.Machine
end

