-- ==== Sys2Proof/Machine/Bound.lean ====
section
/-!
DEFINITION. The bound of a descriptor (R253, Table 10.9), and the work a stage takes next (R245 to R247).
-/

namespace Sys2Proof.Machine

/-! ## Terms of a bound, in ns (Table 10.9) -/

/-- t_out of b bytes at f MHz and t_in of b bytes, at the 103.76 GB/s of G3, each term rounded up (R244, R253). -/
def tOut (f b : Nat) : Nat := 2000 + ceilDiv 6176000 f + ceilDiv (100 * b) 10376
def tIn (b : Nat) : Nat := 1000 + ceilDiv (100 * b) 10376

/-- Caps in bytes. -/
def Comp.fc (c : Comp) : Nat := 1024 * c.creamKib
def Comp.fs (c : Comp) : Nat := 1024 * c.skimKib

/-- The switch allowance of a class for a work of w ns. -/
def Comp.allowance (c : Comp) (skim : Bool) (w : Nat) : Nat :=
  if skim then ceilDiv w (1000 * c.sliceUs) * (tOut c.floorMhz (max c.fc c.fs) + tIn c.fs)
  else 200000 + tOut c.floorMhz (max c.fc c.fs) + tIn c.fc

def Comp.burst (c : Comp) (skim : Bool) : Nat := if skim then ceilDiv (c.creamShare * 10000000) 1024 else 0
/-- The class's share of a stage, out of 1024. -/
def Comp.shareOf (c : Comp) (skim : Bool) : Nat := if skim then 1024 - c.creamShare else c.creamShare

/-- The move pause P of a group, for work of batch s (R176); its save and restore are one context at the larger cap (DESIGN CHOICE,
assumption 209). -/
def State.movePause (s : State) (c g batch : Nat) : Nat :=
  let x := s.comp c
  match x.op with
  | none => 0
  | some o =>
    if x.newShape batch ∧ o.moved.contains g then
      let ext := ((x.lpsOf g).map (s.extentBytes c)).foldl max 0
      tOut x.floorMhz (max x.fc x.fs) + tIn (max x.fc x.fs) + ceilDiv (ext * 100) 12285 + 6000000
    else 0

/-- The running time a work declares: its cycles at the floor and its thermal margin (Table 10.9). -/
def Comp.runNs (c : Comp) (w : Work) : Nat := ceilDiv (w.cost * 1000) c.floorMhz + ceilDiv w.memNs 4

/-- What a work with some running time behind it still takes on a stage, at its class's reserved rate: its switch allowance counts whole. -/
def Comp.ownNs (c : Comp) (w : Work) (ran : Nat) : Nat :=
  ceilDiv ((c.runNs w + c.allowance w.skim (c.runNs w) - ran) * 1024) (c.shareOf w.skim)

/-- What is left of a work's own time on a stage: the time it has run there counts, the time it was switched out does not. -/
def State.restOf (s : State) (w : Work) (g : Nat) : Nat :=
  if w.on g = .ready then Map.get 0 w.own g else (s.comp w.cid).ownNs w (Map.get 0 w.ran g)

/-- When a work's promise falls due. -/
def Work.due (w : Work) : Nat := w.readAt + w.boundNs

/-- Undelivered work of a composition and class that has not ended on a stage. -/
def State.onStage (s : State) (c g : Nat) (skim : Bool) : List (Nat × Work) :=
  (s.workOfComp c).filter (fun e => e.2.skim == skim && e.2.stages.contains g && decide (e.2.on g ≠ .done))

/-- Batch wait of a batch on a stage: the latest promise of the batch before, and 2 µs; none for the oldest batch. -/
def State.batchWait (s : State) (c g batch : Nat) : Nat :=
  if (s.comp c).oldest = none ∨ (s.comp c).oldest = some batch then 0
  else
    let l := (s.workOfComp c).filter (fun e => decide ((e.2.asBatch + 1) % 65536 = batch) && e.2.stages.contains g)
    match l.map (fun e => e.2.due) with
    | [] => 0
    | v :: vs => vs.foldl max v - s.now + 2000

/-- Time ahead on a stage for work due at `due`: unstarted work that is due earlier, or all of it, and what is left of running work. -/
def State.ahead (s : State) (c g : Nat) (skim : Bool) (due : Option Nat) : Nat :=
  ((s.onStage c g skim).map (fun e =>
    if e.2.on g ≠ .ready then s.restOf e.2 g
    else match due with
      | none => Map.get 0 e.2.own g
      | some d => if e.2.due < d then Map.get 0 e.2.own g else 0)).sum

/-- A computed bound. -/
structure Bnd where
  computed : Nat
  switch : Nat
  margin : Nat
  wait : Nat
  own : Nat
  deriving DecidableEq, Repr

/-- compute_bound of R253 for a work whose fields are set but its bound. -/
def State.bound (s : State) (w : Work) : Bnd :=
  let x := s.comp w.cid
  let margin := ceilDiv w.memNs 4
  let switch := x.allowance w.skim (x.runNs w)
  let own := x.ownNs w 0
  let due := if w.boundUs = 0 then none else some (s.now + 1000 * w.boundUs)
  let start (g : Nat) : Nat := max (s.batchWait w.cid g w.asBatch + s.movePause w.cid g w.asBatch) (s.ahead w.cid g w.skim due)
  let waits := w.stages.map start
  let wait := waits.foldl max 0
  { computed := 10000 + (wait + own + x.burst w.skim) + 20000, switch := switch, margin := margin, wait := wait, own := own }

/-- Whether inserting a work makes an admitted work of its class on one of its stages finish after its own promise: each that is due
later shifts by own_s (R253). -/
def State.breaksPromise (s : State) (w : Work) (own due : Nat) : Bool :=
  let x := s.comp w.cid
  w.stages.any (fun g => ((s.onStage w.cid g w.skim).filter (fun e => e.2.on g == .ready && decide (due < e.2.due))).any (fun e =>
    let start := max (s.batchWait w.cid g e.2.asBatch + s.movePause w.cid g e.2.asBatch) (s.ahead w.cid g w.skim (some e.2.due) + own)
    decide (e.2.due < s.now + (start + Map.get 0 e.2.own g + x.burst w.skim) + 20000)))

/-! ## The next work of a stage (R172, R174, R184, R245 to R247) -/

/-- Whether a re-bind or a repair lets a work run on a stage now. Work before the switch batch that is read once a stage has drained does not run
there on the new shape (R174). -/
def Comp.admitsOn (c : Comp) (w : Work) (g : Nat) : Bool :=
  !c.lostGroups.contains g &&
  match c.st with
  | .active => true
  | .quiescing => true
  | .impaired => !c.op.any (fun o => decide (o.kind = .repair) && o.quiet && !c.isFast)
  | .rebinding =>
    (match c.op with
     | none => true
     | some o =>
       let other := o.changed.contains g || o.moved.contains g || o.removed.contains g
       if c.newShape w.asBatch then o.prepared && (o.added.contains g || !other) else !(other && o.drained.contains g))
  | _ => false

/-- Work that may run on a stage: of the batch the stage holds, or, while no started work holds it, of the earliest batch still to end there (R172);
and no other work of its context is under way on it. -/
def State.eligible (s : State) (c g : Nat) (skim : Bool) : List (Nat × Work) :=
  let all := (s.workOfComp c).filter (fun e => e.2.stages.contains g && decide (e.2.on g ≠ .done))
  let held := all.filter (fun e => decide (e.2.on g ≠ .ready))
  (s.onStage c g skim).filter (fun e =>
    (s.comp c).admitsOn e.2 g &&
    (if held.isEmpty then !all.any (fun y => decide (signed 16 (y.2.asBatch + 0x10000 - e.2.asBatch) < 0))
     else held.any (fun y => y.2.asBatch == e.2.asBatch)) &&
    (decide (e.2.on g ≠ .ready) || !all.any (fun y => y.2.xid == e.2.xid && decide (y.2.on g ≠ .ready))) &&
    (match (s.ctx e.2.xid).st with | .idle => true | .waiting => true | .running => true | .switching => true | _ => false))

/-- The least element of a list by a number, the first of equals. -/
def leastBy {α : Type} (f : α → Nat) (l : List α) : Option α :=
  match l with
  | [] => none
  | x :: r => some (r.foldl (fun a y => if f y < f a then y else a) x)

/-- Cream: started work, then by its promised bound, then by its read (R246). -/
def State.pickCream (s : State) (c g : Nat) : Option (Nat × Work) :=
  let l := s.eligible c g false
  match l.find? (fun e => decide (e.2.on g ≠ .ready)) with
  | some e => some e
  | none => leastBy (fun e => e.2.due * 2 ^ 64 + e.2.readAt) l

/-- Urgent skim work (R247 step 1). -/
def State.urgent (s : State) (c g : Nat) (w : Work) : Bool :=
  let x := s.comp c
  decide (w.due < s.now + 1000 * x.sliceUs + (tOut x.floorMhz (max x.fc x.fs) + tIn x.fs) + s.restOf w g)

/-- The place of skim work in the second choice of R247: the job count of its client, its client, its XID. -/
def State.skimKey (s : State) (w : Work) : Nat :=
  ((Map.get 0 s.sch.jobs w.client).toNat * 2 ^ 12 + w.client) * 2 ^ 80 + w.xid * 2 ^ 64 + w.readAt

/-- Whether the debt of a context reaches a slice, so that it gives its next one up (R249). -/
def State.owesSlice (s : State) (c x : Nat) : Bool := decide (1000 * (s.comp c).sliceUs ≤ 1000 * (s.ctx x).debtUs)

/-- Skim work in the order of R247; with skim parked only urgent work runs (R257). A context that owes a slice is passed over while another is
ready (R249, assumption 214). -/
def State.pickSkim (s : State) (c g : Nat) (l : List (Nat × Work)) : Option (Nat × Work) :=
  match leastBy (fun e => e.2.due * 2 ^ 64 + e.2.readAt) (l.filter (fun e => s.urgent c g e.2)) with
  | some e => some e
  | none =>
    if s.sch.park then none
    else match leastBy (fun e => s.skimKey e.2) (l.filter (fun e => !s.owesSlice c e.2.xid)) with
      | some e => some e
      | none => leastBy (fun e => s.skimKey e.2) l

/-- The skim work a stage takes: within a slice, work of the resident context, otherwise as R247 orders it. -/
def State.pickNext (s : State) (c g : Nat) : Option (Nat × Work) :=
  let y := s.stage c g
  let skims := s.eligible c g true
  let same := skims.filter (fun e => decide (some e.2.xid = y.resident) && decide (0 < y.sliceLeft))
  match leastBy (fun e => e.2.readAt) same with
  | some e => if s.sch.park && !s.urgent c g e.2 then s.pickSkim c g skims else some e
  | none => s.pickSkim c g skims

/-- The work a stage takes at a selection point: cream while its budget lets it run, or while no skim work is to run (R245), then skim. A
budget that has reached zero lets cream run again once it has re-accrued or the skim work has left the stage. -/
def State.pick (s : State) (c g : Nat) : Option (Nat × Work) :=
  let y := s.stage c g
  let skim := s.pickNext c g
  match s.pickCream c g with
  | none => skim
  | some e => if 0 < y.budget ∧ y.empty = false ∨ skim.isNone = true then some e else skim

end Sys2Proof.Machine
end

