-- ==== Sys2Proof/Machine/Bind.lean ====
section
/-!
DEFINITION. Commands that stage, bind and end compositions (chapter 7: R165 to R171, R185, R446).
-/

namespace Sys2Proof.Machine

/-! ## STAGE (R157, R168) -/

/-- Whether a composition holds a culture in its chain. -/
def State.referenced (s : State) (d : Digest) : Bool := s.comps.any (fun e => e.2.chain.contains d)

/-- Staged cultures with room for one more: of 1024, the least recently used that no composition references leaves, and the least
recently used one when every one is referenced (assumption 47). The most recently used is last. -/
def State.stagedRoom (s : State) : List Culture :=
  if s.staged.length < 1024 then s.staged
  else match s.staged.find? (fun k => !s.referenced k.digest) with
    | some k => s.staged.erase k
    | none => s.staged.drop 1

/-- A handle becomes the most recently used. -/
def State.useStaged (s : State) (h : Nat) : State :=
  { s with staged := s.staged.filter (fun k => k.handle != h) ++ s.staged.filter (fun k => k.handle == h) }

/-- STAGE: P0 kind of store (0 HOST, 1 FAR), P1 its address, P2 its length. A store that cannot be read has no envelope. -/
def State.runStage (s : State) (r : Request) : State :=
  let kind := r.p0.toNat
  let port := match r.reply with | .mbx i => (s.mslot i).port | _ => r.client / 256
  let n := r.p2.toNat
  let bytes := if 1 < kind then none else s.storeBytes kind port r.p1.toNat (min n (2 ^ 27))
  match bytes with
  | none => s.answer r 0x0601 []
  | some b =>
    let s := s.countRead kind port r.p1.toNat (min n (2 ^ 27))
    -- More bytes than R135 allows fail the check of TOTAL_BYTES, which follows MAGIC and VERSION.
    let code := if n ≤ 2 ^ 27 then s.validate b else if stage1 b ≠ 0 then stage1 b else 0x0603
    if code ≠ 0 then s.answer r code []
    else
      let h := s.nextHandle
      ({ s with staged := s.stagedRoom ++ [cultureOf b h kind r.p1.toNat port], nextHandle := h + 1 }).answer r 0 [h]

def execStage (r : Request) (s : State) : Host.Outcome State Fault Refusal := .next (s.runStage r)

/-! ## BIND (R170) -/

/-- Whether a FAB_JOIN agrees with the FABRIC frames of a culture and with FAB_TOPO: its RANKS, the frames' TOPOLOGY, and nodes that the topology
has (R278). -/
def State.joinFits (s : State) (j : Job) (frames : List Frm) : Bool :=
  decide (j.st = .joined) && j.back.isNone &&
    frames.all (fun f => f.typ != 10 || fle f.body 0 2 == j.ranks && fle f.body 5 1 == b2n s.fab.dragonfly) &&
    j.nodes.all (fun n => decide (n < s.fab.size))

/-- Loads of every partition of a placement. -/
def placeLoads (frames : List Frm) (l : List (Nat × Nat)) : List (Nat × Nat × Nat) := l.flatMap (fun e => loadsOf frames e.2 e.1)

/-- The FAB_JOIN of the culture that a composition is being bound from (R278). -/
def State.joinOf (s : State) (c : Nat) : Option Job :=
  if (s.comp c).multi then (s.comp c).op.map (fun o => Map.get {} s.fab.joins o.handle) else none

/-- Stage 9 of a bind: the FAB_JOIN, the placement of its groups with their routes and tables, and the weight sets. Answers the code of the first
failing check, 0 when they pass, with the placement (R155, R157). -/
def State.bindStage9 (s : State) (c : Nat) : Nat × List (Nat × Nat) :=
  let x := s.comp c
  let r := s.placeAll c x.frames [] (x.groups.map (fun g => (g.kind, g.first, 0xFF)))
  let code :=
    if (s.joinOf c).any (fun j => s.roleHalted 6 || !s.joinFits j x.frames) then 0x061A
    else if r.1 ≠ 0 then r.1
    else if x.weights.any (fun e => (s.goldenOf e.2 x.storePort).isNone) || !x.weights.isEmpty && s.freeSlot.isNone then 0x0619 else 0
  (code, r.2)

/-- Steps 3 and 4 of R170, once BIND_BEGIN is durable: placement, the weight sets, collective entries, and the frame loads that are then to be
done. A refusal at stage 9 frees the CID (R158). -/
def State.placeBind (s : State) (c : Nat) : State :=
  let r := s.bindStage9 c
  if r.1 ≠ 0 then s.rollback c r.1 r.1
  else
    let frames := (s.comp c).frames
    let join := s.joinOf c
    let s := (s.claimAll c r.2).updComp c (fun x => { x with op := x.op.map (fun o =>
      { o with begun := true, targets := r.2, loads := placeLoads frames r.2 }) })
    let s := (s.stepTrees c (s.treesOf c frames r.2)).fillWeights c
    match join with
    | none => s
    | some j =>
      let h := match (s.comp c).op with | none => 0 | some o => o.handle
      let s := s.updJob c (fun _ => j)
      let s := { s with fab := { s.fab with joins := Map.set {} h {} s.fab.joins } }
      (s.journal (.fjob c j.fjob j.rank j.ranks j.nodes)).startForming c

/-- Binds whose BIND_BEGIN has become durable go on to their placement (R170 steps 2 and 3). -/
def State.beginBinds (s : State) : State :=
  let waits (c : Nat) : Bool := s.jrn.waiting.any (fun e => match e.r with | .bindBegin d _ _ => decide (d = c) | _ => false)
  s.each ((s.comps.filter (fun e => decide (e.2.st = .binding) && e.2.op.any (fun o => decide (o.kind = .bind) && !o.begun) &&
    !waits e.1)).map (fun e => e.1)) (fun s c => s.placeBind c)

/-- The composition a BIND creates from a culture (R170 step 1). -/
def bindComp (k : Culture) (r : Request) (gen : Word16) : Comp :=
  { st := .binding, gen := gen, flags := k.flags, lparts := k.lparts, chain := [k.digest], signers := [k.signer], eff := k.digest,
    storeKind := k.kind, storePort := k.port, storeAddr := k.addr, storeLen := k.len, frames := k.frames,
    groups := shapeGroups (frmBody k.frames 1 0), weights := wsetsOf k.frames,
    op := some { kind := .bind, req := r, newEff := k.digest, newDigest := k.digest, handle := k.handle } }

/-- A CID is assigned: its generation advances, its counters are zero, its faults are counted anew, and the composition is BINDING (R165, R170
step 1, Table 9.11). -/
def State.assignCid (s : State) (c : Nat) (k : Culture) (r : Request) : State :=
  let gen := (s.comp c).gen + 1
  let s := ({ s with freeCids := s.freeCids.erase c } : State).updComp c (fun _ => bindComp k r gen)
  let s := { s with sch := { s.sch with
    accept := Map.set 0 c 0 s.sch.accept, refuse := Map.set 0 c 0 s.sch.refuse,
    discard := Map.set 0 c 0 s.sch.discard, miss := Map.set 0 c 0 s.sch.miss } }
  (s.updFq c (fun q => { q with lost := 0, seq := 0 })).compRun c .binding [.gen .comp c gen]

/-- BIND. A refusal at stage 2 changes nothing, and one at stage 9 leaves the CID free with its generation advanced (R158). A partial culture
has no composition as its base. BIND_BEGIN is journaled; the placement follows once it is durable. -/
def State.runBind (s : State) (r : Request) : State :=
  match s.staged.find? (fun k => k.handle == r.p0.toNat) with
  | none => s.answer r 0x0601 []
  | some k =>
    let s := s.useStaged k.handle
    let c2 := s.stage2 k.signer
    if c2 ≠ 0 then s.answer r c2 []
    else match s.freeCids with
      | [] => s.answer r 0x061B []
      | c :: _ =>
        let s := s.assignCid c k r
        let code := if k.part then 0x061E else (s.bindStage9 c).1
        if code ≠ 0 then s.rollback c code code
        else (s.journal (.bindBegin c (s.comp c).gen k.digest)).beginBinds

def execBind (r : Request) (s : State) : Host.Outcome State Fault Refusal := .next (s.runBind r)

/-- The frames an operation loads: the composition's own, or the new ones of a re-bind. -/
def Comp.loadFrames (c : Comp) (o : CompOp) : List Frm :=
  match o.kind with | .fast => o.newFrames | .slow => o.newFrames | _ => c.frames

/-- One culture frame load (R156), of those an operation has still to do. -/
def State.doLoad (s : State) (c p typ key : Nat) : State :=
  match (s.comp c).op with
  | none => s
  | some o =>
    if o.loads.contains (p, typ, key) then
      let s := s.loadFrame ((s.comp c).loadFrames o) p typ key
      (s.updComp c (fun x => { x with op := some { o with loads := o.loads.erase (p, typ, key) } })).jwait
        (.step c 1 p (frmBody ((s.comp c).loadFrames o) typ key).length)
    else s

def execFrameLoad (c : CidT) (p : PartId) (typ key : Nat) (s : State) : Host.Outcome State Fault Refusal :=
  .next (s.doLoad c.val p.val typ key)

/-- Steps 5 and 6 of R170 for a new composition: COMMIT is durable, the partitions are BOUND, and the composition is ACTIVE. -/
def State.commitBind (s : State) (c : Nat) (o : CompOp) : State :=
  let s := s.updComp c (fun x => { x with place := o.targets.foldl (fun m e => Map.set 255 e.1 e.2 m) [], op := none, shape := 0 })
  let s := s.compRun c .active [.commit c (s.comp c) []]
  let s := (s.each o.targets (fun s e => s.bindPart e.2)).defineBars c
  let s := s.each (s.comp c).groups (fun s g => s.fullBudget c g.first)
  s.answer o.req 0 [c + (s.comp c).gen.toNat <<< 16]

/-- Step 4 of R446: the groups that could be placed are committed, SHAPE unchanged; with one unplaced or lost the composition is
IMPAIRED. -/
def State.commitRestore (s : State) (c : Nat) (o : CompOp) : State :=
  let x := s.comp c
  let bad (lp : Nat) : Bool := match x.stageOf lp with | none => true | some g => x.lostGroups.contains g
  let s := s.each (o.targets.filter (fun e => bad e.1)) (fun s e => s.freePart e.2)
  let ok := o.targets.filter (fun e => !bad e.1)
  let s := s.updComp c (fun x => { x with
    place := ok.foldl (fun m e => Map.set 255 e.1 e.2 m) [], op := none, restoring := false, oldest := none, readNext := false })
  let s := s.installTrees c (s.treesOf c (s.comp c).frames ok)
  let s := s.compRun c (if (s.comp c).lostGroups.isEmpty then .active else .impaired) [.commit c (s.comp c) []]
  let s := (s.each ok (fun s e => s.bindPart e.2)).defineBars c
  s.each (s.comp c).groups (fun s g => s.fullBudget c g.first)

/-- A loaded bind or restore can commit: no load of a group that still counts is left, a fabric job is FORMED, and the writer
commits. -/
def State.bindReady (s : State) (c : Nat) (o : CompOp) : Bool :=
  let x := s.comp c
  let lost (p : Nat) : Bool := match (o.targets.find? (fun e => e.2 == p)).bind (fun e => x.stageOf e.1) with
    | none => true | some g => x.lostGroups.contains g
  o.loads.all (fun l => lost l.1) && s.canCommit &&
    (o.kind == .restore || !x.multi || decide ((s.job c).st = .formed))

def execBindCommit (c : CidT) (s : State) : Host.Outcome State Fault Refusal :=
  .next (match (s.comp c.val).st, (s.comp c.val).op with
    | .binding, some o =>
      if s.bindReady c.val o then (if o.kind = .restore then s.commitRestore c.val o else s.commitBind c.val o) else s
    | _, _ => s)

/-! ## UNBIND and QUERY (R167, R168, R188) -/

/-- A later UNBIND waits for the end of the one in progress. -/
def State.alsoUnbind (s : State) (c : Nat) (r : Request) : State :=
  s.updComp c (fun x => { x with op := x.op.map (fun o => { o with more := o.more ++ [r] }) })

/-- A composition that no longer ends an operation quiesces for an unbind (Table 7.3). -/
def State.quiesceFor (s : State) (c : Nat) (r : Request) : State :=
  (s.updComp c (fun x => { x with op := some { kind := .unbind, req := r } })).compState c .quiescing

/-- An UNBIND before COMMIT is durable (Table 7.3): loads stop, the claimed partitions are zeroed and FREE, and the CID is freed. A BIND in
progress is answered with BIND_CANCELLED; of a composition being restored, the contexts and the assignments go too. -/
def State.cancelBinding (s : State) (c : Nat) : State :=
  if (s.comp c).restoring then
    let s := if (s.comp c).op.isSome then s.unwind c 0x0621 else s.journal (.rollback c 0x0621)
    let s := s.each (s.ctxsOf c) (fun s x => (s.startTeardown x 0x0201 Request.zero).finishTeardown x)
    ({ s with boot := { s.boot with storeWait := s.boot.storeWait.erase c } } : State).freeCid c
  else s.rollback c 0x0621 0x0621

/-- UNBIND of a composition: P0 bit 0 is FORCE, which discards all its work with PARTITION_RESET and resets its partitions (R188). -/
def State.runUnbind (s : State) (r : Request) : State :=
  let c := r.cid
  let force := bit r.p0 0
  let s := if force ∧ (s.comp c).st ≠ .binding then s.discardIf (fun w => w.cid == c) 0x0201 else s
  -- What is left of an operation that is no unbind is rolled back first.
  let back (s : State) : State := match (s.comp c).op with
    | some o => if o.kind = .unbind then s else s.undo c 0x0207 0x0207
    | none => s
  let also (s : State) : State := if force then (s.alsoUnbind c r).forceOut c else s.alsoUnbind c r
  let leave (s : State) : State := if (s.comp c).st = .unbinding then also s else s.enterUnbinding c r force []
  match (s.comp c).st with
  | .free => s.answer r 0 []
  | .binding => (s.cancelBinding c).answer r 0 []
  | .active =>
    let s := back s
    if (s.comp c).st = .unbinding then also s
    else
      let s := s.quiesceFor c r
      if force then s.enterUnbinding c r true [] else s
  | .rebinding => leave (back s)
  | .reshaping => leave (back s)
  | .impaired => leave (back s)
  | .quiescing =>
    match (s.comp c).op with
    | none => s.enterUnbinding c r force []
    | some o =>
      if o.kind = .unbind then (if force then s.enterUnbinding c o.req true (o.more ++ [r]) else s.alsoUnbind c r)
      else
        let s := back s
        if (s.comp c).st = .unbinding then also s
        else if force then (s.quiesceFor c r).enterUnbinding c r true [] else s.quiesceFor c r
  | .unbinding => if (s.comp c).op.isSome then also s else s.enterUnbinding c r force []

def execUnbind (r : Request) (s : State) : Host.Outcome State Fault Refusal := .next (s.runUnbind r)

/-- Once its contexts are torn down, every partition of a composition returns to FREE, END is durable, the CID becomes FREE and each UNBIND is
answered. -/
def State.unbindEnd (s : State) (c : Nat) : State :=
  match (s.comp c).st with
  | .unbinding =>
    let o := (s.comp c).op
    let s := s.each (s.ctxsOf c) (fun s x => (s.startTeardown x 0x0201 Request.zero).endTeardown x)
    if !(s.ctxsOf c).isEmpty then s
    else
      let s := s.each ((s.comp c).members ++ (s.comp c).toRelease) (fun s p => if (s.part p).cid = c then s.freePart p else s)
      let s := (s.journal (.done c)).freeCid c
      match o with
      | none => s
      | some v => s.each (v.req :: v.more) (fun s q => s.reply q 0 [])
  | _ => s

def execUnbindEnd (c : CidT) (s : State) : Host.Outcome State Fault Refusal :=
  .next (if s.canCommit then s.unbindEnd c.val else s)

/-- QUERY writes the composition record to the buffer of the request (Table 18.5). -/
def State.runQuery (s : State) (r : Request) : State :=
  let port := match r.reply with | .mbx i => (s.mslot i).port | .ring h _ _ _ => h | .nobody => r.client / 256
  let b := (s.comp r.cid).record r.cid
  ((s.updHmem port (fun m => m.wrL r.bufAddr b)).hostTx port b.length).answer r 0 []

def execQuery (r : Request) (s : State) : Host.Outcome State Fault Refusal := .next (s.runQuery r)

/-! ## Repair (R185) -/

/-- The lowest batch number of which no descriptor has been read (R174). -/
def Comp.switchBatch (c : Comp) : Option Nat := c.oldest.map (fun n => (n + if c.readNext then 2 else 1) % 65536)

/-- The groups a repair places now, in the order of R155, and the whole placement with them; a group without a region stays lost. -/
def State.repairPlace (s : State) (c : Nat) : List Grp × List (Nat × Nat) :=
  let x := s.comp c
  let lost (lp : Nat) : Bool := match x.stageOf lp with | none => false | some g => x.lostGroups.contains g
  let gs := (x.groups.filter (fun g => x.lostGroups.contains g.first)).map (fun g => (g.kind, g.first, 0xFF))
  (orderGroups gs).foldl (fun (acc : List Grp × List (Nat × Nat)) g =>
    let t := s.placeGroup c x.frames acc.2 g
    if t.1 = 0 then (acc.1 ++ [{ kind := g.1, first := g.2.1 }], t.2) else acc) ([], x.place.filter (fun e => !lost e.1))

/-- The targets of a repair are claimed, and their frames are to be loaded (R174 step 2, R178 step 4). -/
def State.claimRepair (s : State) (c : Nat) : State :=
  let r := s.repairPlace c
  let new := r.2.filter (fun e => r.1.any (fun g => g.holds e.1))
  if r.1.isEmpty then s.undo c 0x0207 0x0207
  else (s.claimAll c new).updComp c (fun x => { x with op := x.op.map (fun o =>
    { o with quiet := true, targets := new, loads := placeLoads x.frames new, want := r.1.map (fun g => (g.kind, g.first, 0xFF)) }) })

/-- A repair begins (R185): REBIND_BEGIN is durable with the switch batch, and no partial culture. In the fast order the targets are claimed at
once; in the slow order accepted work that can still run ends first, and every context is saved. A composition for which no region is free
stays IMPAIRED. -/
def State.repair (s : State) (c : Nat) : State :=
  let x := s.comp c
  if (s.repairPlace c).1.isEmpty then s
  else
    let o : CompOp := { kind := .repair, req := Request.zero, begun := true, s := x.switchBatch, newFrames := x.frames, newGroups := x.groups,
                        newLparts := x.lparts, newEff := x.eff }
    let s := s.updComp c (fun y => { y with op := some o })
    let s := s.compRun c .impaired [.rebindBegin c x.gen x.shape x.eff 0 (x.switchBatch.getD 0) x.isFast]
    if x.isFast then s.claimRepair c else s

/-- SUP repairs an IMPAIRED composition while its store holds the cultures; one that no longer does ends the composition (R169). -/
def execRepair (c : CidT) (s : State) : Host.Outcome State Fault Refusal :=
  .next (match (s.comp c.val).st, (s.comp c.val).op with
    | .impaired, none =>
      if !s.canCommit then s
      else if s.storeGood c.val then (s.readStore c.val).repair c.val else (s.readStore c.val).enterUnbinding c.val Request.zero false []
    | _, _ => s)

/-- Whether work still to run keeps a composition under repair from its switch: accepted work that no lost stage holds (R174 step 5, R178 step 2,
R185). -/
def State.repairBusy (s : State) (c : Nat) : Bool :=
  let x := s.comp c
  (s.workOfComp c).any (fun e => !e.2.stages.any (fun g => x.lostGroups.contains g && decide (e.2.on g = .ready)))

/-- Whether the COMMIT of a repair may be written. -/
def State.repairReady (s : State) (c : Nat) (o : CompOp) : Bool :=
  decide ((s.comp c).st = .impaired) && o.prepared && o.loads.isEmpty && s.canCommit && !s.repairBusy c

/-- COMMIT of a repair: the repaired groups stand on their new partitions, with SHAPE advanced, and the composition is ACTIVE when none is left
lost. What the old partitions of those groups held is lost with them (R183); they go to FREE at END. No state is copied. -/
def State.repairCommit (s : State) (c : Nat) (o : CompOp) : State :=
  let x := s.comp c
  let firsts := o.want.map (fun g => g.2.1)
  let back (lp : Nat) : Bool := match x.stageOf lp with | none => false | some g => firsts.contains g
  let old := (x.place.filter (fun e => back e.1)).map (fun e => e.2)
  let place := o.targets.foldl (fun m e => Map.set 255 e.1 e.2 m) (x.place.filter (fun e => !back e.1))
  let s := s.loseTokens (fun t => old.any (poolOfPart t))
  let s := s.stepTrees c (s.treesOf c x.frames place)
  let s := s.updComp c (fun y => { y with
    place := place, shape := (y.shape + 1) % 65536, op := none, ending := true,
    toRelease := y.toRelease ++ old.filter (fun p => decide ((s.part p).cid = c)),
    lostGroups := y.lostGroups.filter (fun g => !firsts.contains g) })
  let s := (s.compRun c (if (s.comp c).lostGroups.isEmpty then .active else .impaired) [.commit c (s.comp c) []]).defineBars c
  let s := (s.fillWeights c).each firsts (fun s g => s.fullBudget c g)
  s.each (o.savedCtx.filter (fun e => !firsts.contains e.1)) (fun s e => s.returnForOp c e.1 e.2)

/-- Held work that has not started on a stage under repair leaves, as it could no longer finish within its bound (assumption 2). -/
def execRepairHoldExpiry (work : Nat) (s : State) : Host.Outcome State Fault Refusal :=
  .next (match s.work work with
    | none => s
    | some w =>
      let x := s.comp w.cid
      let held (g : Nat) : Bool := x.lostGroups.contains g && decide (w.on g = .ready)
      if x.st = .impaired ∧ w.stages.any held = true then s.finishWork work x.lossCode else s)

/-! ## Restore (R446) -/

/-- Steps 2 and 3 of R446: each group re-takes the partitions PLACE names, or is placed afresh; a group without a region is left out. -/
def State.restoreComp (s : State) (c : Nat) : State :=
  let x := s.comp c
  let lps (g : Grp) : List Nat := (List.range (kindSize g.kind)).map (fun i => g.first + i)
  let free (lp : Nat) : Bool := let p := Map.get 255 x.place lp; decide (p ≠ 255 ∧ (s.part p).st = .free)
  let same := x.groups.filter (fun g => (lps g).all free)
  let kept := same.flatMap (fun g => (lps g).map (fun lp => (lp, Map.get 255 x.place lp)))
  let gs := (x.groups.filter (fun g => !same.contains g)).map (fun g => (g.kind, g.first, 0xFF))
  let r := (orderGroups gs).foldl (fun (acc : List (Nat × Nat) × List Nat) g =>
    let t := s.placeGroup c x.frames acc.1 g
    if t.1 = 0 then (t.2, acc.2) else (acc.1, acc.2 ++ [g.2.1])) (kept, [])
  let s := s.claimAll c r.1
  let s := s.updComp c (fun y => { y with
    place := r.1.foldl (fun m e => Map.set 255 e.1 e.2 m) [], lostGroups := r.2,
    op := some { kind := .restore, req := Request.zero, begun := true, targets := r.1, loads := placeLoads y.frames r.1 } })
  (s.stepTrees c (s.treesOf c x.frames r.1)).fillWeights c

/-- Whether a composition of a lower CID has still to begin its restore: one that waits for the port of its store is passed by (R446,
assumption 178). -/
def State.restoreFirst (s : State) (c : Nat) : Bool :=
  s.comps.any (fun e => decide (e.1 < c ∧ e.2.st = .binding) && e.2.restoring && e.2.op.isNone && !s.boot.storeWait.contains e.1)

/-- Compositions are restored in ascending CID order. A composition whose store's port is not up waits for it (R443).
One whose golden copies cannot be read ends, as one whose store is lost (DESIGN CHOICE, assumption 210). -/
def execCompositionRestore (c : CidT) (s : State) : Host.Outcome State Fault Refusal :=
  let x := s.comp c.val
  .next (match x.st, x.op with
    | .binding, none =>
      if !x.restoring ∨ s.boot.cold ∧ s.boot.phase ≠ .ready ∨ s.restoreFirst c.val = true then s
      else if !s.storeReady c.val then
        (if s.boot.storeWait.contains c.val then s else { s with boot := { s.boot with storeWait := s.boot.storeWait ++ [c.val] } })
      else
        let s := { s with boot := { s.boot with storeWait := s.boot.storeWait.erase c.val } }
        if s.storeGood c.val && x.weights.all (fun e => (s.goldenOf e.2 x.storePort).isSome) then (s.readStore c.val).restoreComp c.val
        else ((s.readStore c.val).updComp c.val (fun y => { y with restoring := false, place := [] })).enterUnbinding c.val Request.zero false []
    | _, _ => s)

end Sys2Proof.Machine
end

