-- ==== Sys2Proof/Machine/Rebind.lean ====
section
/-!
DEFINITION. Commands that re-bind a composition (chapter 7: R173 to R178, R187; R160 to R164).
-/

namespace Sys2Proof.Machine

/-! ## APPLY -/

/-- Logical partitions of a list of groups. -/
def lpsOfGroups (gs : List Grp) : List Nat := gs.flatMap (fun g => (List.range (kindSize g.kind)).map (fun i => g.first + i))

/-- The groups retained by a partial culture whose frames or collective entries change: a record or image of one of their partitions differs, or
a POUR or CHURN frame that names one, or such a frame also names a partition that moves, so that its entries are derived anew (R174). -/
def changedGroups (c : Comp) (gs : List Grp) (new : List Frm) (moved : List Nat) : List Nat :=
  let diff (typ key : Nat) : Bool := decide (findFrm c.frames typ key ≠ findFrm new typ key)
  let moves (f : Frm) : Bool := (treeLrefs f).any (fun l => moved.contains (lrefPart l))
  let trees := ((collectives c.frames).filter (fun f => diff f.typ f.key) ++
    (collectives new).filter (fun f => diff f.typ f.key || moves f)).flatMap treeLrefs
  (gs.filter (fun g => (lpsOfGroups [g]).any (fun lp =>
    diff 2 lp || diff 3 lp || diff 4 lp || (imagesOf new lp).any (fun n => diff 5 n) || trees.any (fun l => lrefPart l == lp)))).map (fun g => g.first)

/-- Whether a tile of a logical partition names image n in the new frames and not in the old ones. -/
def imageMoved (old new : List Frm) (lp n : Nat) : Bool :=
  let names (typ o : Nat) : Bool := fle (frmBody new typ lp) o 2 == n && fle (frmBody old typ lp) o 2 != n
  (List.range 18).any (fun v => names 3 (16 * v + 2)) || (List.range 4).any (fun t => names 4 (32 * t))

/-- The loads of a changed partition: the records and images that differ, and the images that a tile names anew (R156, R174 step 4). -/
def changedLoads (c : Comp) (new : List Frm) (p lp : Nat) : List (Nat × Nat × Nat) :=
  (loadsOf new p lp).filter (fun l => decide (findFrm c.frames l.2.1 l.2.2 ≠ findFrm new l.2.1 l.2.2) ||
    l.2.1 == 5 && imageMoved c.frames new lp l.2.2)

/-- The placement an operation gives: partitions it keeps, then those it places (R155, R162). Answers a code and its targets. -/
def State.placeRebind (s : State) (c : Nat) (o : CompOp) : Nat × List (Nat × Nat) :=
  let x := s.comp c
  let out (lp : Nat) : Bool := match x.stageOf lp with | none => false | some g => o.moved.contains g || o.removed.contains g
  let kept := x.place.filter (fun e => !out e.1)
  let r := s.placeAll c o.newFrames kept o.want
  let code := if r.1 ≠ 0 then r.1 else s.treesCode c (s.treesOf c o.newFrames r.2)
  (code, r.2.filter (fun e => !kept.contains e))

/-- The operation a partial culture asks for. -/
def Comp.opFor (c : Comp) (k : Culture) (r : Request) : CompOp :=
  let ops := rebOps k.frames
  let new := newFramesOf c k
  let firsts (n : Nat) : List Nat := (ops.filter (fun o => o.op == n)).map (fun o => o.first)
  let kindOf (o : RebOp) : Nat := if o.op = 1 then o.kind else ((c.groups.find? (fun g => g.first == o.first)).map (fun g => g.kind)).getD 0
  let fast := c.isFast && decide (k.lparts ≤ 8)
  { kind := if fast then .fast else .slow, req := r, moved := firsts 3, removed := firsts 2, added := firsts 1,
    changed := changedGroups c (c.groups.filter (fun g => !(firsts 3).contains g.first && !(firsts 2).contains g.first)) new
      (lpsOfGroups (c.groups.filter (fun g => (firsts 3).contains g.first))),
    newFrames := new, newGroups := newGroupsOf c.groups ops, newLparts := k.lparts,
    newEff := Config.sha384 (leBytes c.eff.toNat 48 ++ leBytes k.digest.toNat 48), newDigest := k.digest, newSigner := k.signer, newLen := k.len,
    want := (ops.filter (fun o => o.op != 2)).map (fun o => (kindOf o, o.first, o.target)), handle := k.handle,
    drainMs := if r.p1 = 0 then 1000 else r.p1.toNat }

/-- APPLY: P0 staging handle, P1 DRAIN_LIMIT_MS, whose value above 60 000 is BAD_PARAM (assumption 179). The checks of R164, of stages 2, 7, 8
and 9, in the order of R157. DESIGN CHOICE: the codes for a composition that is neither ACTIVE nor re-binding (assumption 207), and for a
FULL culture (assumption 208). -/
def State.runApply (s : State) (r : Request) : State :=
  let c := r.cid
  let x := s.comp c
  if 60000 < r.p1.toNat then s.mbxError r 2
  else if x.st = .free then s.answer r 0x061E []
  else match s.staged.find? (fun k => k.handle == r.p0.toNat) with
    | none => s.answer r 0x0601 []
    | some k =>
      let s := s.useStaged k.handle
      let c2 := s.stage2 k.signer
      let check := applyCheck x k
      let o := x.opFor k r
      let code :=
        if c2 ≠ 0 then c2
        else if k.base ≠ x.eff then 0x061E
        else if x.op.isSome ∨ x.st ≠ .active then 0x0620
        else if check ≠ 0 then check
        else if x.multi ∧ !s.joinFits (Map.get {} s.fab.joins k.handle) o.newFrames then 0x061A
        else
          let t := (s.placeRebind c o).1
          if t ≠ 0 then t
          else if (wsetsOf o.newFrames).any (fun e => (s.goldenOf e.2 x.storePort).isNone) then 0x0619
          else if !(wsetsOf o.newFrames).isEmpty && (s.sharedSlot c).isNone && s.freeSlot.isNone then 0x0619 else 0
      if code ≠ 0 then s.answer r code []
      else s.updComp c (fun y => { y with op := some o })

def execApply (r : Request) (s : State) : Host.Outcome State Fault Refusal := .next (s.runApply r)

/-! ## REBIND_BEGIN (R174 steps 1 and 2, R178 step 1) -/

/-- Claims the targets of an operation and lists the loads of its new and moved partitions; a placement that fails rolls back, and so does
a MOVE whose store no longer holds the cultures, which also ends the composition (R169). -/
def State.claimTargets (s : State) (c : Nat) : State :=
  match (s.comp c).op with
  | none => s
  | some o =>
    let r := s.placeRebind c o
    let s := if o.moved.isEmpty then s else s.readStore c
    if !o.moved.isEmpty ∧ !s.storeGood c then (s.undo c 0x0207 0x0207).enterUnbinding c Request.zero false []
    else if r.1 ≠ 0 then s.undo c 0x0207 0x0207
    else
      let late := if o.kind = .slow then
          ((s.comp c).place.filter (fun e => match (s.comp c).stageOf e.1 with | none => false | some g => o.changed.contains g)).flatMap
            (fun e => changedLoads (s.comp c) o.newFrames e.2 e.1)
        else []
      (s.claimAll c r.2).updComp c (fun x => { x with op := x.op.map (fun v =>
        { v with targets := r.2, loads := placeLoads o.newFrames r.2 ++ late }) })

/-- REBIND_BEGIN of an accepted APPLY follows the END of the re-bind before it (R174, assumption 180). -/
def execRebindBegin (c : CidT) (s : State) : Host.Outcome State Fault Refusal :=
  let x := s.comp c.val
  .next (match x.op with
    | some o =>
      if x.st = .active ∧ !x.ending ∧ !o.begun ∧ (o.kind = .fast ∨ o.kind = .slow) ∧ s.canCommit then
        let b := x.switchBatch
        let s := s.updComp c.val (fun y => { y with op := some { o with begun := true, s := b } })
        let s := s.compRun c.val (if o.kind = .fast then .rebinding else .quiescing)
          [.rebindBegin c.val x.gen x.shape x.eff o.newDigest (b.getD 0) (o.kind == .fast)]
        let s := s.endJob c.val
        if o.kind = .fast then s.claimTargets c.val else s
      else s
    | none => s)

/-- Whether PREPARED may be written: every load of a target is done; in a slow re-bind the moved extents have been copied too (R174 step 3, R178
steps 4 and 5), and in a slow repair the targets have been claimed (R185). -/
def Comp.preparable (c : Comp) (o : CompOp) : Bool :=
  o.begun && !o.prepared && !o.rolled && o.loads.isEmpty &&
  match c.st with
  | .rebinding => true
  | .reshaping => o.moved.all (fun g => o.copied.contains g)
  | .impaired => decide (o.kind = .repair) && o.quiet
  | _ => false

/-- PREPARED: the targets are BOUND. -/
def execPrepared (c : CidT) (s : State) : Host.Outcome State Fault Refusal :=
  let x := s.comp c.val
  .next (match x.op with
    | some o =>
      if x.preparable o && s.canCommit then
        let s := s.updComp c.val (fun y => { y with op := some { o with prepared := true } })
        (s.durable (.prepared c.val (o.targets.map (fun e => e.2)))).each o.targets (fun s e => s.bindPart e.2)
      else s
    | none => s)

/-! ## Draining and moving (R174 step 4, R176, R177) -/

/-- Whether work of a batch before s uses a stage, or any stage. -/
def State.oldWorkOn (s : State) (c : Nat) (g : Option Nat) : Bool :=
  (s.workOfComp c).any (fun e => !(s.comp c).newShape e.2.asBatch &&
    (match g with | none => true | some g => e.2.stages.contains g && decide (e.2.on g ≠ .done)))

/-- The last work of a batch before s has left a stage: replaced frames are to be loaded, or a moved group is saved. -/
def State.stageDrained (s : State) (c g : Nat) : State :=
  match (s.comp c).op with
  | none => s
  | some o =>
    let x := s.comp c
    if x.st = .rebinding ∧ o.prepared ∧ !o.rolled ∧ !o.drained.contains g ∧ x.groups.any (fun y => y.first == g) = true ∧ !s.oldWorkOn c (some g) then
      let loads := if o.changed.contains g then (x.lpsOf g).flatMap (fun lp => match x.phys lp with
        | none => [] | some p => changedLoads x o.newFrames p lp) else []
      let s := s.updComp c (fun y => { y with op := some { o with
        drained := o.drained ++ [g], loads := o.loads ++ loads,
        drainBy := if o.removed.contains g || o.moved.contains g then some (o.drainBy.getD (s.now + 1000000 * o.drainMs)) else o.drainBy } })
      if o.moved.contains g then s.saveForOp c g else s
    else s

def execStageDrained (c : CidT) (g : Fin 64) (s : State) : Host.Outcome State Fault Refusal :=
  .next ((s.settleStage c.val g.val).stageDrained c.val g.val)

/-- A moved group has been copied: it runs on its target from here, and the context it held is restored there (R176). Its records stay in
the save area until COMMIT. In a fast re-bind that follows PREPARED and the drain of its stage, in a slow one the claim of its target. -/
def State.moveCopied (s : State) (c g : Nat) : State :=
  match (s.comp c).op with
  | none => s
  | some o =>
    let x := s.comp c
    if !o.rolled ∧ o.moved.contains g ∧ !o.copied.contains g ∧ (x.st = .reshaping ∨ x.st = .rebinding ∧ o.prepared ∧ o.drained.contains g) ∧
        (s.stage c g).resident.isNone = true then
      let s := s.each (x.lpsOf g) (fun s lp =>
        match o.targets.find? (fun e => e.1 == lp) with
        | none => s
        | some t => s.copyExtent c lp (Map.get 255 x.place lp) t.2)
      let s := s.updComp c (fun y => { y with op := y.op.map (fun v => { v with copied := v.copied ++ [g] }) })
      if x.st = .rebinding then s.each (o.savedCtx.filter (fun e => e.1 == g)) (fun s e => s.restoreForOp c g e.2) else s
    else s

def execMoveCopyDone (c : CidT) (g : Fin 64) (s : State) : Host.Outcome State Fault Refusal := .next (s.moveCopied c.val g.val)

/-! ## COMMIT and END (R174 steps 5 and 6, R178) -/

/-- Whether a state token holds a re-bind up: it names a pool on a partition that leaves, as owner, as receiver of a
handoff, or as its sender still to be written RELEASED (R177, R188), or its pool moves and its epoch has reached its
end, so that it stays with its owner until it is released (R180, assumption 181). -/
def State.tokensHold (s : State) (c : Nat) (o : CompOp) : Bool :=
  let ps := o.removed.flatMap (s.comp c).partsOf
  let qs := (o.moved.flatMap (s.comp c).lpsOf).map (fun lp => Map.get 255 (s.comp c).place lp)
  let on (v : Word64) : Bool := ps.any (poolOfPart v)
  s.tokens.any (fun e => e.2.cid == c &&
    (decide (e.2.st = .owned ∨ e.2.st = .sending) && (on e.2.pool || decide (0xFFFFFFFF ≤ e.2.epoch) && qs.any (poolOfPart e.2.pool)) ||
     decide (e.2.st = .sending) && on e.2.peer || e.2.owed.any (fun o => on o.pool)))

/-- Whether the COMMIT of a re-bind may be written. -/
def State.rebindReady (s : State) (c : Nat) (o : CompOp) : Bool :=
  let x := s.comp c
  o.prepared && !o.rolled && o.loads.isEmpty && o.moved.all (fun g => o.copied.contains g) && !s.tokensHold c o && s.canCommit &&
    (match x.st with
     | .rebinding => !s.oldWorkOn c none && x.groups.all (fun g => o.drained.contains g.first)
     | .reshaping => true
     | _ => false)

/-- COMMIT: the new shape stands. Tokens of moved pools are re-pointed in the same commit (R181), removed stages are emptied, and their
partitions and the sources of moves wait for END. -/
def State.rebindCommit (s : State) (c : Nat) (o : CompOp) : State :=
  let x := s.comp c
  let gone := (o.moved ++ o.removed).flatMap (fun g => (x.lpsOf g).map (fun lp => (lp, Map.get 255 x.place lp)))
  let moves := (o.moved.flatMap x.lpsOf).filterMap (fun lp =>
    (o.targets.find? (fun e => e.1 == lp)).map (fun t => (Map.get 255 x.place lp, t.2)))
  let s := (s.breakBarriers c (gone.map (fun e => e.1))).breakTrees c (gone.map (fun e => e.1)) 0x0201
  let s := s.each o.removed (fun s g =>
    match (s.stage c g).resident with | none => s | some y => (s.evict c g).settleSaved y)
  let s := s.each (s.ctxsOf c) (fun s y => s.dropSaved y (o.removed.flatMap x.lpsOf))
  let rp := s.repoint c moves
  let s := rp.2
  let s := s.each o.removed (fun s g => s.updStage c g (fun _ => {}))
  let place := o.targets.foldl (fun m e => Map.set 255 e.1 e.2 m) (x.place.filter (fun e => !gone.contains e))
  -- The changed entries stand before COMMIT (R174 step 5).
  let s := s.stepTrees c (s.treesOf c o.newFrames place)
  let s := s.updComp c (fun y => { y with
    place := place, frames := o.newFrames, groups := o.newGroups, lparts := o.newLparts, eff := o.newEff, chain := y.chain ++ [o.newDigest],
    signers := y.signers ++ [o.newSigner],
    storeLen := y.storeLen + o.newLen, shape := (y.shape + 1) % 65536, weights := wsetsOf o.newFrames, op := none, ending := true,
    toRelease := gone.map (fun e => e.2) })
  let s := s.compRun c .active [.commit c (s.comp c) rp.1]
  let s := (s.defineBars c).fillWeights c
  let s := s.each o.added (fun s g => s.fullBudget c g)
  let s := s.each (o.savedCtx.filter (fun e => !o.removed.contains e.1)) (fun s e =>
    if o.kind = .slow then s.returnForOp c e.1 e.2 else s.dropSaved e.2 ((s.comp c).lpsOf e.1))
  let s := if x.multi then
      let j := Map.get {} s.fab.joins o.handle
      let s := { s with fab := { s.fab with joins := Map.set {} o.handle {} s.fab.joins } }
      ((s.updJob c (fun _ => j)).journal (.fjob c j.fjob j.rank j.ranks j.nodes)).startForming c
    else s
  s.answer o.req 0 []

def execRebindCommit (c : CidT) (s : State) : Host.Outcome State Fault Refusal :=
  .next (match (s.comp c.val).op with
    | some o =>
      if o.kind = .repair then (if s.repairReady c.val o then s.repairCommit c.val o else s)
      else if s.rebindReady c.val o then s.rebindCommit c.val o else s
    | none => s)

/-- Removed and source partitions go to FREE, and END is durable. -/
def State.rebindEnd (s : State) (c : Nat) : State :=
  if (s.comp c).ending then
    let s := s.each (s.comp c).toRelease (fun s p => if (s.part p).cid = c then s.freePart p else s)
    (s.updComp c (fun x => { x with ending := false, toRelease := [] })).durable (.done c)
  else s

def execRebindEnd (c : CidT) (s : State) : Host.Outcome State Fault Refusal :=
  .next (if s.canCommit then s.rebindEnd c.val else s)

/-! ## Rollback and quiescing (R175, R177, R178) -/

/-- A re-bind or a repair in progress is rolled back. -/
def State.rebindBack (s : State) (c : Nat) : State :=
  match (s.comp c).op with
  | some o => if o.kind = .fast ∨ o.kind = .slow ∨ o.kind = .repair then s.undo c 0x0207 0x0207 else s
  | none => s

def execRebindRollback (c : CidT) (s : State) : Host.Outcome State Fault Refusal := .next (s.rebindBack c.val)

/-- The wait of a REMOVE for state tokens has passed its limit: the wait begins once the stage it leaves has drained (R174 step 4, R177). -/
def execDrainLimitExpired (c : CidT) (s : State) : Host.Outcome State Fault Refusal :=
  .next (match (s.comp c.val).op with
    | some o => if o.drainBy.isSome ∧ s.tokensHold c.val o then s.rebindBack c.val else s
    | none => s)

/-- Every context of a composition is saved for its operation. -/
def State.saveAll (s : State) (c : Nat) : State := s.each (s.comp c).groups (fun s g => s.saveForOp c g.first)

/-- Whether a save waits for the stop points of a stage. -/
def State.stillSaves (s : State) (c : Nat) : Bool := (s.comp c).groups.any (fun g => (s.stage c g.first).resident.isSome)

/-- Accepted work is done: for a slow re-bind every context is saved and the targets are claimed, for a slow repair too while the composition stays
IMPAIRED, and for an unbind the composition goes on to UNBINDING. -/
def State.quiesceDone (s : State) (c : Nat) : State :=
  match (s.comp c).st, (s.comp c).op with
  | .quiescing, some o =>
    if !(s.workOfComp c).isEmpty then s
    else if o.kind = .unbind then s.enterUnbinding c o.req o.force o.more
    else
      let s := s.saveAll c
      if s.stillSaves c then s
      else
        let s := s.compState c .reshaping
        let s := if o.removed.isEmpty && o.moved.isEmpty then s
          else s.updComp c (fun x => { x with op := x.op.map (fun v => { v with drainBy := some (s.now + 1000000 * v.drainMs) }) })
        s.claimTargets c
  | .impaired, some o =>
    if o.kind = .repair ∧ !o.quiet ∧ !s.repairBusy c then
      (if (s.saveAll c).stillSaves c then s.saveAll c else (s.saveAll c).claimRepair c)
    else s
  | _, _ => s

def execQuiesceDone (c : CidT) (s : State) : Host.Outcome State Fault Refusal := .next (s.quiesceDone c.val)

end Sys2Proof.Machine
end

