-- ==== Sys2Proof/Machine/TokenRows.lean ====
section
/-!
DEFINITION. State tokens and handoffs (R179 to R183, R239).
-/

namespace Sys2Proof.Machine

/-! ## Pools -/

/-- A pool identifier of a far range (Table 7.7). -/
def farPool (rank addr : Nat) (gen : Word16) : Word64 :=
  BitVec.ofNat 64 (fld 62 1 + fld 48 rank + fld 45 (addr / 2 ^ 41 % 4) + fld 16 (addr % 2 ^ 41 / 4096) + gen.toNat)

/-- The pool a request names (Table 12.4), as an identifier: a logical partition of the composition or a far range. None for a KIND that is
reserved or a partition that is not placed. -/
def State.poolNamed (s : State) (c : Nat) (v : Word64) : Option Word64 :=
  let rank := (s.job c).rank
  match bits v 63 62 with
  | 0 => ((s.comp c).phys (bits v 5 0)).map (fun p => localPool rank p (s.part p).gen)
  | 1 => some (farPool rank (bits v 42 0) (s.farP (bits v 42 41)).gen)
  | _ => none

/-- Sector of a pool at a byte offset: the channel, or 128 and the far port, and the sector there. Offset o of a partition's memory lies in
its channels one after another (assumption 48). -/
def poolSector (pool : Word64) (o : Nat) : Bool × Nat × Nat :=
  if bits pool 63 62 = 0 then (false, 8 * bits pool 21 16 + o / chanBytes, o % chanBytes / 64)
  else (true, bits pool 46 45, (4096 * bits pool 44 16 + o) / 64)

/-- Reads a sector of a pool as it lies there, sealed as it is: a local channel decodes it as any read, in the class SAVE (Table 8.2, R203,
assumptions 186 and 211); a far port gives poison for what its list holds or the expander returns so (Table 8.10). -/
def State.poolRead (s : State) (a : Bool × Nat × Nat) : Sector × State :=
  if a.1 then
    let t := s.rdFar a.2.1 a.2.2 0 0
    (if t.2.1 then Sector.poison else Map.get {} (s.farP a.2.1).secs a.2.2, t.2.2)
  else
    let d := s.drawErr
    let t := d.2.rdSector a.2.1 a.2.2 0 4 d.1
    (if t.2.1 then Sector.poison else Map.get {} (t.2.2.chan a.2.1).secs a.2.2, t.2.2)

/-- Puts a sector into a pool, in the class SAVE; a poisoned one becomes part of a far port's poison list. -/
def State.poolWrite (s : State) (b : Bool × Nat × Nat) (y : Sector) : State :=
  if b.1 then s.updFar b.2.1 (fun f =>
    { f with secs := Map.set {} b.2.2 (if y.isPoison then {} else y) f.secs, wrBytes := f.wrBytes + 64,
             poison := f.poison.filter (fun i => decide (i ≠ b.2.2)) ++ (if y.isPoison then [b.2.2] else []) })
  else s.updChan b.2.1 (fun k => { k with secs := Map.set {} b.2.2 y k.secs, wrBytes := bump k.wrBytes 4 64 })

/-- The bytes of a token's state are copied from its pool to another (R181 step 2). A sealed sector is sealed again under the same key for
its new place, and poison goes with it. -/
def State.copyPool (s : State) (c : Nat) (src dst : Word64) (off len : Nat) : State :=
  s.each (List.range (ceilDiv len 64)) (fun s i =>
    let a := poolSector src (off + 64 * i)
    let b := poolSector dst (off + 64 * i)
    let t := s.poolRead a
    let x := t.1
    let tweak := if b.1 then tweakFar c (s.comp c).gen b.2.1 b.2.2 else s.tweakOf b.2.1 b.2.2
    t.2.poolWrite b (if x.isPoison then x else Sector.make (x.sealed.map (fun k => (k.1, tweak))) x.data))

/-! ## Requests (R239) -/

/-- Tokens that count against the limits of R180: those not released. -/
def Token.held (k : Token) : Bool := decide (k.st ≠ .none ∧ k.st ≠ .released)

/-- TOKEN_NEW: P0 pool, P1 offset, P2 length, a multiple of 64 (Table 7.8); another length names no state of a pool (assumption 182). The
answer waits for the record to be durable (R239). -/
def State.runTokenNew (s : State) (r : Request) : State :=
  let c := (s.ctx r.xid).cid
  if !s.ownsCtx r then s.answer r 0x0103 [0]
  else if 65536 ≤ (s.tokens.filter (fun e => e.2.held && e.2.cid == c)).length ∨ 262144 ≤ (s.tokens.filter (fun e => e.2.held)).length then
    s.answer r 0x0108 [0]
  else if r.p2.toNat % 64 ≠ 0 then s.answer r 0x0109 [0]
  else match s.poolNamed c r.p0 with
    | none => s.answer r 0x0109 [0]
    | some pool =>
      let t := s.nextToken
      let k : Token := { st := .owned, cid := c, xid := r.xid, epoch := 0, pool := pool, off := r.p1.toNat, len := r.p2.toNat }
      (({ s with nextToken := t + 1 }.updTok t (fun _ => k)).journal (.token (BitVec.ofNat 64 t) k)).answerDurable r [t]

def execTokenNew (r : Request) (s : State) : Host.Outcome State Fault Refusal := .next (s.runTokenNew r)

/-- TOKEN_MOVE: P0 TOKEN, P1 receiving pool. S journals SENDING. A token whose epoch has reached its end stays with its owner (R180). -/
def State.runTokenMove (s : State) (r : Request) : State :=
  let t := r.p0.toNat
  let k := s.token t
  if !s.ownsCtx r then s.answer r 0x0103 [0]
  else if k.st ≠ .owned ∨ k.xid ≠ r.xid ∨ 0xFFFFFFFF ≤ k.epoch then s.answer r 0x0109 [0]
  else match s.poolNamed k.cid r.p1 with
    | none => s.answer r 0x0109 [0]
    | some pool =>
      s.setToken t (fun k => { k with st := .sending, peer := pool, req := r })

def execTokenMove (r : Request) (s : State) : Host.Outcome State Fault Refusal := .next (s.runTokenMove r)

/-- Whether a pool identifier carries the present generation of its pool (R183, Table 7.7). -/
def State.poolGen (s : State) (v : Word64) : Bool :=
  if bits v 63 62 = 0 then decide ((s.part (bits v 21 16)).gen = v.setWidth 16) else decide ((s.farP (bits v 46 45)).gen = v.setWidth 16)
/-- Whether a pool stands under the generation its identifier carries. -/
def State.poolFresh (s : State) (v : Word64) : Bool :=
  if bits v 63 62 = 0 then decide ((s.part (bits v 21 16)).st = .bound ∧ (s.part (bits v 21 16)).gen = v.setWidth 16)
  else decide ((s.farP (bits v 46 45)).st = .ready ∧ (s.farP (bits v 46 45)).gen = v.setWidth 16)

/-- The copied state has landed: V journals OWNED at epoch e + 1 and is the owner from then on; S has still to be written RELEASED (R181 steps 2
and 3). A handoff to a pool that is gone, or past the last epoch, has failed; a token whose own pool has another generation is LOST (R180, R183). -/
def execHandoffCopyDone (token : Word64) (s : State) : Host.Outcome State Fault Refusal :=
  let t := token.toNat
  let k := s.token t
  .next (if k.st = .sending ∧ s.canCommit = true then
      (if !s.poolGen k.pool then s.loseToken t
      else if s.poolFresh k.peer && decide (k.epoch < 0xFFFFFFFF) then
        (s.copyPool k.cid k.pool k.peer k.off k.len).setToken t (fun k =>
          { k with st := .owned, epoch := k.epoch + 1, pool := k.peer, peer := 0, req := Request.zero,
                   owed := k.owed ++ [{ epoch := k.epoch, pool := k.pool, req := k.req }] })
      else s.failHandoff t)
    else s)

/-- V acknowledges: S journals RELEASED at epoch e (R181 steps 4 and 5). -/
def execHandoffAck (token : Word64) (s : State) : Host.Outcome State Fault Refusal :=
  .next (match (s.token token.toNat).owed with
    | [] => s
    | o :: _ => if s.canCommit then s.ackHandoff token.toNat o else s)

/-- TOKEN_RELEASE: P0 TOKEN, OWNED or LOST (R183); answered once RELEASED is durable (R239). -/
def State.runTokenRelease (s : State) (r : Request) : State :=
  let t := r.p0.toNat
  let k := s.token t
  if !s.ownsCtx r then s.answer r 0x0103 [0]
  else if k.xid = r.xid ∧ (k.st = .owned ∨ k.st = .lost) then (s.releaseToken t).answerDurable r [0]
  else s.answer r 0x0109 [0]

def execTokenRelease (r : Request) (s : State) : Host.Outcome State Fault Refusal := .next (s.runTokenRelease r)

end Sys2Proof.Machine
end

