-- ==== Sys2Proof/Machine/Context.lean ====
section
/-!
DEFINITION. Context requests and the reading of descriptors (R238 to R240, R250 to R252, R301 to R303, R447).
-/

namespace Sys2Proof.Machine

/-! ## Contexts (R238, R239, R219) -/

/-- Whether a class of a composition is open (R242, R245). -/
def Comp.classOpen (c : Comp) (skim : Bool) : Bool :=
  decide (1024 ≤ if skim then c.skimKib else c.creamKib) && decide (c.creamShare ≠ if skim then 1024 else 0)

/-- The XID that has been free longest. -/
def State.freeXid (s : State) : Option Nat := if s.nextXid < 4096 then some s.nextXid else s.freedXids.head?
/-- It is taken. -/
def State.takeXid (s : State) : State :=
  if s.nextXid < 4096 then { s with nextXid := s.nextXid + 1 } else { s with freedXids := s.freedXids.drop 1 }

/-- Copies the range template into the table of a new context, in ascending index, and answers the status of the first entry that fails
(R219). A KEYSEL of 0x1000 means the context's keyslot. -/
def State.copyTemplate (s : State) (x slot : Nat) (es : List (BitVec 256 × Nat)) : Nat × State :=
  es.foldl (fun acc e =>
    if acc.1 ≠ 0 then acc
    else
      let v := if eKeysel e.1 = 0x1000 then e.1 ||| BitVec.ofNat 256 (fld 192 slot) else e.1
      let st := acc.2.entryCheck x v
      if st ≠ 0 then (st, acc.2) else (0, acc.2.updSlot x e.2 (fun k => { k with st := .valid, entry := v }))) (0, s)

/-- CTX_CREATE: P0 bit 0 is the class. The checks of R239 in order. -/
def State.runCtxCreate (s : State) (r : Request) : State :=
  let c := r.cid
  let x := s.comp c
  let skim := bit r.p0 0
  if x.st ≠ .active ∧ x.st ≠ .rebinding then s.answer r 0x0101 [0]
  else if !x.classOpen skim then s.answer r 0x010E [0]
  else if x.maxCtx ≤ (s.ctxsOf c).length ∨ s.sec.debugActive then s.answer r 0x010C [0]
  else match s.freeXid, s.freeSlot with
    | some xid, some slot =>
      let t := (s.takeXid).grantSlot slot (.ctx xid)
      let t := t.updCtx xid (fun _ => { st := if s.sch.park && skim then .parked else .idle, cid := c, client := r.client, skim := skim, slot := slot })
      let m := t.copyTemplate xid slot (templateOf x.frames).zipIdx
      if m.1 ≠ 0 then (s.countClear m.1).answer r m.1 [0]
      else ((m.2.shareWeights xid).journalCtx xid).answer r 0 [xid]
    | _, _ => s.answer r 0x010C [0]

def execCtxCreate (r : Request) (s : State) : Host.Outcome State Fault Refusal := .next (s.runCtxCreate r)

/-- CTX_DESTROY: refused while admitted work is outstanding, and otherwise answered at the end of the teardown. A context already being
torn down is no context of the client any more (assumption 52). -/
def State.runCtxDestroy (s : State) (r : Request) : State :=
  if !s.ownsCtx r ∨ (s.ctx r.xid).st = .teardown then s.answer r 0x0103 [0]
  else if !(s.workOfCtx r.xid).isEmpty then s.answer r 0x010D [0]
  else s.startTeardown r.xid 0 r

def execCtxDestroy (r : Request) (s : State) : Host.Outcome State Fault Refusal := .next (s.runCtxDestroy r)

/-- The rest of a teardown, once its end can be committed (R447). -/
def execTeardown (x : XidT) (s : State) : Host.Outcome State Fault Refusal :=
  .next (if s.canCommit then s.endTeardown x.val else s)

/-! ## The submission region (R297 to R301) -/

/-- Offset of slot i of submission ring r, and of a ring control line. -/
def sqOffset (r log2 head : Nat) : Nat := 0x100000 + 0x40000 * r + 128 * (head % 2 ^ log2)
def rclOffset (r : Nat) : Nat := 0x1000 + 0x40 * r

/-- The slot at a ring's head is consumed: zeroed, and SQ_HEAD advances. -/
def State.consumeSlot (s : State) (f r : Nat) : State :=
  let g := s.ring f r
  let o := sqOffset r g.sqLog2 g.sqHead
  let s := s.wrRegion f o (List.replicate 128 0)
  let s := s.updFn f (fun x => { x with notices := x.notices.filter (fun l => decide (l ≠ o / 64 ∧ l ≠ o / 64 + 1)) })
  s.updRing f r (fun g => { g with sqHead := add32 g.sqHead 1 })

/-! ## WORK descriptors (R250 to R252) -/

/-- A promise record (Table 10.8). -/
def promiseRec (w : Work) (cls status : Nat) (b : Bnd) (gen : Word16) (shape floor : Nat) : BitVec 512 :=
  recOf [(0, 2, status), (2, 1, 0x81), (3, 1, cls), (4, 2, w.xid), (6, 2, w.batch), (8, 8, w.job),
    (0x10, 8, if status = 0 then w.boundNs else 0), (0x18, 8, b.computed), (0x20, 8, b.switch), (0x28, 8, b.margin), (0x30, 8, b.wait),
    (0x38, 1, w.cid), (0x3A, 2, gen.toNat), (0x3C, 2, shape), (0x3E, 2, floor)]

def Bnd.zero : Bnd := { computed := 0, switch := 0, margin := 0, wait := 0, own := 0 }

/-- The groups a batch of a composition may name, in the order of its SHAPE frame: group g is the g-th (assumption 18). -/
def Comp.groupsFor (c : Comp) (asBatch : Nat) : List Grp :=
  match c.op with
  | some o => if c.newShape asBatch then o.newGroups else c.groups
  | none => c.groups

/-- Whether a batch may be read (R171). -/
def Comp.readable (c : Comp) (batch : Nat) : Bool :=
  match c.oldest with
  | none => true
  | some n => decide (signed 16 (batch + 0x10000 - n) ≤ 1)

/-- The admitted form of a descriptor. -/
def workOf (d : List Byte) (c : Comp) (cid f ring slot now : Nat) : Work :=
  let batch := fle d 4 2
  let old := match c.oldest with
    | none => batch
    | some n => if decide (signed 16 (batch + 0x10000 - n) < 0) then n else batch
  let bits_ := fle d 8 8
  { desc := d, cid := cid, xid := fle d 2 2 % 4096, skim := fle d 1 1 % 2 == 1, batch := batch, asBatch := old, npUs := fle d 6 2,
    stages := (c.groupsFor old).zipIdx.filterMap (fun e => if has bits_ e.2 then some e.1.first else none),
    tokens := (List.range (min 4 (fle d 0x2C 1))).map (fun i => BitVec.ofNat 64 (fle d (0x30 + 8 * i) 8)),
    port := f / 256, func := f % 256, ring := ring, slot := slot, readAt := now, boundNs := 0, own := [] }

/-- The checks of R251 before the bound, in order; 0 is a pass. Unused token entries are zero too (Table 10.7). -/
def State.workCheck (s : State) (f : Nat) (d : List Byte) (w : Work) : Nat :=
  let c := s.comp w.cid
  let k := s.ctx w.xid
  let tc := fle d 0x2C 1
  let gs := c.groupsFor w.asBatch
  let full (g : Nat) : Bool := decide (1024 ≤ ((s.workOfComp w.cid).filter (fun e => e.2.stages.contains g)).length)
  let badTok (t : Word64) : Bool :=
    let y := s.token t.toNat
    decide (y.xid ≠ w.xid ∨ y.cid ≠ w.cid) || !decide (y.st = .owned ∨ y.st = .lost)
  firstCode [
    (decide ((c.st ≠ .active ∧ c.st ≠ .rebinding) ∨ c.gen ≠ (s.fn f).gen), 0x0101),
    (decide ((s.fn f).lease ≠ .held), 0x010B),
    (decide (1 < fle d 1 1) || decide (4096 ≤ fle d 2 2) || !zeroAt d 0x2D 3 || !zeroAt d 0x70 16 ||
      !zeroAt d (0x30 + 8 * min 4 tc) (32 - 8 * min 4 tc), 0x0102),
    (decide (200 < w.npUs) || decide (4 < tc), 0x0102),
    (decide (k.cid ≠ w.cid ∨ k.client ≠ f) ||
      !(match k.st with | .idle => true | .waiting => true | .running => true | .switching => true | _ => false), 0x0103),
    (k.skim != w.skim, 0x0104),
    (fle d 8 8 == 0 || decide (2 ^ gs.length ≤ fle d 8 8), 0x0105),
    (w.tokens.any badTok, 0x0109),
    (s.sch.refuseAll || s.sch.park && w.skim, 0x010A),
    (w.stages.any full, 0x0107)]

/-- A refused descriptor: its promise record, and the slot of its completion back (R252, R304). -/
def State.refuseWork (s : State) (f r : Nat) (w : Work) (cls status : Nat) (b : Bnd) : State :=
  let c := s.comp w.cid
  let s := { s with sch := { s.sch with refuse := Map.upd 0 w.cid (fun v => v + 1) s.sch.refuse } }
  let s := s.putRecord f r w.era (promiseRec w cls status b c.gen (s.workShape w) c.floorMhz)
  (s.updRing f r (fun g => { g with reserved := g.reserved - 1 })).ringSettle f r

/-- An accepted descriptor: promised, and waiting on its stages. A LOST token discards it at once (R183). -/
def State.acceptWork (s : State) (f r : Nat) (w : Work) (b : Bnd) : State :=
  let c := s.comp w.cid
  let w := { w with boundNs := if w.boundUs = 0 then b.computed else 1000 * w.boundUs,
                    own := w.stages.foldl (fun m g => Map.set 0 g b.own m) [] }
  let n := s.sch.nextWork
  let ready : List Nat := (s.allWork.filter (fun (e : Nat × Work) => e.2.skim)).map (fun e => e.2.client)
  let js := ready.map (fun k => Map.get 0 s.sch.jobs k)
  let low : Word64 := match js with | [] => 0 | v :: vs => vs.foldl (fun a y => if y < a then y else a) v
  let jobs := if w.skim && !ready.contains f then Map.upd 0 f (fun v => if v < low then low else v) s.sch.jobs else s.sch.jobs
  let s := { s with sch := { s.sch with nextWork := n + 1, jobs := jobs, accept := Map.upd 0 w.cid (fun v => v + 1) s.sch.accept } }
  let s := (s.setWork n (some w)).updCtx w.xid (fun k => if k.st = .idle then { k with st := .waiting } else k)
  let s := s.putRecord f r w.era (promiseRec w (b2n w.skim) 0 b c.gen (s.workShape w) c.floorMhz)
  if w.tokens.any (fun t => decide ((s.token t.toNat).st = .lost)) then s.finishWork n 0x0202 else s

/-- SCH takes a WORK descriptor: the first read sets the oldest batch, and a read of the batch after it is remembered (R171, R174). -/
def State.takeWork (s : State) (f r : Nat) (d : List Byte) (slot : Nat) : State :=
  let cid := (s.fn f).cid
  let batch := fle d 4 2
  let s := s.updComp cid (fun c => if c.st = .free then c else match c.oldest with
    | none => { c with oldest := some batch }
    | some n => if batch = (n + 1) % 65536 then { c with readNext := true } else c)
  let w := { workOf d (s.comp cid) cid f r slot s.now with era := (s.fn f).era }
  let code := s.workCheck f d w
  let b := if code = 0 then s.bound w else Bnd.zero
  let due := s.now + (if w.boundUs = 0 then b.computed else 1000 * w.boundUs)
  let late := code = 0 ∧ (w.boundUs ≠ 0 ∧ 1000 * w.boundUs < b.computed ∨ s.breaksPromise w b.own due = true)
  let s := if code ≠ 0 then s.refuseWork f r w (fle d 1 1) code b
    else if late then s.refuseWork f r w (fle d 1 1) 0x0106 b
    else s.acceptWork f r w b
  s.settleBatch cid

/-! ## Control descriptors (R302, R303) -/

/-- The request a control descriptor makes. -/
def controlOf (d : List Byte) (f r cid : Nat) : Request :=
  { reply := .ring (f / 256) (f % 256) r (fle d 1 1), client := f, tag := BitVec.ofNat 64 (fle d 8 8), cid := cid, xid := fle d 2 2 % 4096,
    p0 := BitVec.ofNat 64 (fle d 0x10 8), p1 := BitVec.ofNat 64 (fle d 0x18 8), p2 := BitVec.ofNat 64 (fle d 0x20 8),
    entry := BitVec.ofNat 256 (fle d 0x30 32), bufAddr := 0, bufLen := 0, signer := 0 }

/-- Whether a control descriptor is answered with BAD_OP: a reserved OP, a reserved byte, XID bits 15:12, or a parameter its OP does not
use; of P0, CTX_CREATE uses bit 0 only (R4, R302). -/
def controlBad (d : List Byte) : Bool :=
  let op := fle d 1 1
  let used := match op with | 1 => 1 | 2 => 0 | 3 => 3 | 4 => 2 | _ => 1
  decide (op = 0 ∨ 8 < op) || !zeroAt d 4 4 || !zeroAt d 0x28 8 || !zeroAt d 0x50 48 || decide (4096 ≤ fle d 2 2) ||
    op == 1 && (fle d 2 2 != 0 || decide (2 ≤ fle d 0x10 8)) || !zeroAt d (0x10 + 8 * used) (24 - 8 * used) || op != 6 && !zeroAt d 0x30 32

/-- A control descriptor is handled. -/
def State.takeControl (s : State) (f r : Nat) (d : List Byte) : State :=
  let q := { controlOf d f r (s.fn f).cid with era := (s.fn f).era }
  let s := s.updFn f (fun x => { x with ctlOut := x.ctlOut + 1 })
  if fle d 0 1 ≠ 2 then s.answer q 0x0701 [0]
  else if controlBad d then s.answer q 0x0702 [0]
  else if fle d 1 1 ≠ 1 ∧ !s.ownsCtx q then s.answer q 0x0103 [0]
  else match fle d 1 1 with
    | 1 => s.runCtxCreate q
    | 2 => s.runCtxDestroy q
    | 3 => s.runTokenNew q
    | 4 => s.runTokenMove q
    | 5 => s.runTokenRelease q
    | 6 => s.runMap q
    | 7 => s.runUnmap q
    | _ => s.runRangeQuery q

/-! ## DESCRIPTOR_READ (R301) -/

/-- Whether logical partition 0 of a composition, and the submission regions with it, is being copied (R298). -/
def Comp.copiesRegion (c : Comp) : Bool :=
  match c.op with
  | none => false
  | some o => o.prepared && o.moved.any (fun g => (c.lpsOf g).contains 0 && !o.copied.contains g && (c.st == .reshaping || o.drained.contains g))

/-- Whether a function's rings may be read at all: SERVING, its lease HELD, its journal empty and acknowledged, and its composition's
logical partition 0 not being copied (R298, R301, R313, R327). -/
def State.readsRings (s : State) (f : Nat) : Bool :=
  let x := s.fn f
  x.valid && x.direct && decide (x.pause = .serving) && !(s.comp x.cid).copiesRegion

/-- Whether a lease lapses at this instant: a WORK descriptor read then is refused, and its promise record goes to the journal (Table 12.10). -/
def State.lapsesNow (s : State) (f : Nat) : Bool :=
  let x := s.fn f
  x.valid && decide (x.lease = .lapsed ∧ x.since = s.now ∧ x.pause = .serving)

/-- Nothing reads a descriptor now: the SCH role is halted, or its cores restart and none covers; a CTX_CREATE waits for SEC as well (Table 18.1). -/
def State.schAway (s : State) (kind op : Nat) : Bool :=
  let st (i : Nat) : CoreSt := (s.coreS i).st
  s.roleHalted 3 || decide (st 7 ≠ .running ∧ st 8 ≠ .running ∧ (st 7 = .restarting ∨ st 8 = .restarting)) ||
    decide (kind = 2 ∧ op = 1 ∧ st 0 = .restarting)

/-- Reads the descriptor at the head of a ring, when one is there and may be read. Its line 1 is recalled first: while the host holds it the read waits
for the write-back (R300). -/
def State.readDescriptor (s : State) (f r : Nat) : State :=
  let x := s.fn f
  let g := s.ring f r
  let o := sqOffset r g.sqLog2 g.sqHead
  let d := x.region.rdN o 128
  let kind := fle d 0 1
  if !((s.readsRings f || s.lapsesNow f && decide (kind = 1)) && g.on && x.notices.contains (o / 64)) || s.schAway kind (fle d 1 1) then s
  else if kind = 0 then s.updFn f (fun x => { x with notices := x.notices.filter (fun l => l != o / 64) })
  else if x.granted.contains (o / 64 + 1) then s.emit (.bisnp (f / 256) (f % 256) (o / 64 + 1))
  else if kind = 1 then
    if g.free < 2 ∨ !(s.comp x.cid).readable (fle d 4 2) then s
    else
      ((s.updRing f r (fun g => { g with reserved := g.reserved + 2 })).consumeSlot f r).takeWork f r d (g.sqHead % 2 ^ g.sqLog2)
  else if g.free < 1 ∨ 1024 ≤ x.ctlOut then s
  else ((s.updRing f r (fun g => { g with reserved := g.reserved + 1 })).consumeSlot f r).takeControl f r d

def execDescriptorRead (h : HPort) (f : Func) (ring : Fin 256) (s : State) : Host.Outcome State Fault Refusal :=
  .next (s.readDescriptor (clientOf h.val f.val) ring.val)

end Sys2Proof.Machine
end

