-- ==== Sys2Proof/Machine/Sched.lean ====
section
/-!
DEFINITION. The scheduler: work on stages, switches, slices and the cream budget (R241 to R249, R254).
-/

namespace Sys2Proof.Machine

/-! ## Switches (R241, R244) -/

/-- SCH starts a restore of a context on a stage. -/
def State.startRestore (s : State) (c g x : Nat) : State :=
  (s.updStage c g (fun y => { y with phase := .restoring x })).updCtx x (fun k => { k with st := match k.st with
    | .idle => .switching | .waiting => .switching | .running => .switching | st => st })

/-- SCH requests the stop of a stage, to restore `next` after the save. A stop that meets a running non-pre-emptible command waits for it
(R249). A stage without a context is restored at once. -/
def State.stopFor (s : State) (c g : Nat) (next : Option Nat) : State :=
  match (s.stage c g).resident with
  | none => match next with | none => s | some y => s.startRestore c g y
  | some x =>
    let np := (s.stageUnits c g).any s.npRunning
    (s.updStage c g (fun y => { y with work := none, phase := .saving x next, npStop := if np then some s.now else none })).updCtx x
      (fun k => if k.st = .running then { k with st := .switching } else k)

/-- The time a stop waited for a non-pre-emptible command: debt of a skim context, and spent from the budget by cream (R249). -/
def State.chargeStop (s : State) (c g x : Nat) : State :=
  match (s.stage c g).npStop with
  | none => s
  | some t =>
    let s := if (s.ctx x).skim then s.updCtx x (fun k => { k with debtUs := k.debtUs + (s.now - t) / 1000 })
      else s.updStage c g (fun y => { y with budget := y.budget - (s.now - t) })
    s.updStage c g (fun y => { y with npStop := none })

/-- Ready contexts that owe a slice and stand before context x in the order of R247: each has given a slice up to it (R249). -/
def State.passedOver (s : State) (c g x : Nat) : List Nat :=
  let l := s.eligible c g true
  match leastBy id ((l.filter (fun e => e.2.xid == x)).map (fun e => s.skimKey e.2)) with
  | none => []
  | some k => ((l.filter (fun e => s.owesSlice c e.2.xid && decide (s.skimKey e.2 < k))).map (fun e => e.2.xid)).eraseDups

/-- A context's slice begins, shortened by its debt; a context that owes a whole slice runs only where none else may, and its debt falls by that
slice (R247, R249, assumption 214). -/
def State.newSlice (s : State) (c g x : Nat) : State :=
  let sl := (s.comp c).sliceUs
  let d := (s.ctx x).debtUs
  let s := s.each ((s.passedOver c g x).filter (fun z => z != x)) (fun s z => s.updCtx z (fun k => { k with debtUs := k.debtUs - sl }))
  (s.updStage c g (fun y => { y with sliceLeft := 1000 * (if sl ≤ d then sl else sl - d) })).updCtx x (fun k => { k with debtUs := d - sl })

/-- Whether a context may still be restored. -/
def State.canRestore (s : State) (x : Nat) : Bool :=
  match (s.ctx x).st with | .idle => true | .waiting => true | .running => true | .switching => true | _ => false

/-- The outgoing records have been written and the stage is zeroed: the next context is restored. -/
def State.saveDone (s : State) (c g : Nat) : State :=
  match (s.stage c g).phase with
  | .saving x next =>
    let s := s.stopStage c g
    if !s.stageHalted c g then s
    else
      let s := (((s.chargeStop c g x).evict c g).settleSaved x).updStage c g (fun y =>
        { y with sliceLeft := 0, empty := y.empty && !(s.ctx x).skim })
      let s := if (s.comp c).op.any (fun o => o.savedCtx.contains (g, x)) then s.stepSaves c g x 2 else s
      match next with
      | none => s
      | some y => if s.canRestore y then s.startRestore c g y else s
  | _ => s

def execSwitchSaveDone (c : CidT) (g : Fin 64) (s : State) : Host.Outcome State Fault Refusal := .next (s.saveDone c.val g.val)

/-- The work of a context that has started on a stage and has not ended there. -/
def State.underWay (s : State) (c g x : Nat) : Option (Nat × Work) :=
  (s.workOfComp c).find? (fun e => e.2.xid == x && decide (e.2.on g = .started))

/-- Work runs on a stage: its units take its NP_US (R248). -/
def State.runOn (s : State) (c g n : Nat) (w : Work) : State :=
  (s.each (s.stageUnits c g) (fun s u => s.updUnit u (fun x => { x with npUs := w.npUs }))).updStage c g (fun y => { y with work := some n })

/-- The incoming context is restored; dispatch, and the work it had under way, resume. -/
def State.restoreDone (s : State) (c g : Nat) : State :=
  match (s.stage c g).phase with
  | .restoring x =>
    if s.canRestore x then
      let s := (s.restoreStage c g x).dropSaved x ((s.comp c).lpsOf g)
      let s := if (s.ctx x).skim then s.newSlice c g x else s
      match s.underWay c g x with
      | none => s
      | some e => s.runOn c g e.1 e.2
    else s.evict c g
  | _ => s

def execSwitchRestoreDone (c : CidT) (g : Fin 64) (s : State) : Host.Outcome State Fault Refusal := .next (s.restoreDone c.val g.val)

/-! ## Work on a stage (R250) -/

/-- The number of a stage: its place in the SHAPE frame (assumption 18). -/
def Comp.stageNum (c : Comp) (asBatch g : Nat) : Nat := ((c.groupsFor asBatch).findIdx? (fun x => x.first == g)).getD 0

/-- A scalar tile begins at its ENTRY with the work's arguments (R250, R147). -/
def STile.begin_ (t : STile) (w : Work) (stage : Nat) : STile :=
  let r (x : Map Word64) (i v : Nat) : Map Word64 := Map.set 0 i (BitVec.ofNat 64 v) x
  let x := r (r (r (r (r (r (r (r t.x 2 (stSp t.cfg)) 10 w.job) 11 (w.arg 0)) 12 (w.arg 1)) 13 (w.arg 2)) 14 (w.arg 3)) 15 w.batch) 16 stage
  { t with x := x, pc := BitVec.ofNat 64 (stEntry t.cfg), user := true, wait := .none, issued := 0, completed := 0, ended := none }

/-- Work starts on a stage whose context is resident, or goes on there. -/
def State.startWork (s : State) (c g n : Nat) (w : Work) : State :=
  let s := if w.skim ∧ (s.stage c g).sliceLeft = 0 then s.newSlice c g w.xid else s
  let s := if w.skim then s else s.updStage c g (fun y => { y with empty := decide (y.budget = 0) })
  if w.on g = .started then s.runOn c g n w
  else
    let s := if w.skim ∧ !w.started then
        { s with sch := { s.sch with jobs := Map.upd 0 w.client (fun v => v + 1) s.sch.jobs } } else s
    let num := (s.comp c).stageNum w.asBatch g
    let w' := { w with st := Map.set .ready g .started w.st }
    let s := s.each (s.stageUnits c g) (fun s u => match ukind u with
      | .st p t => if stImage (s.tile (kSt p t)).cfg = 0xFFFF then s else s.updSt (kSt p t) (fun x => x.begin_ w num)
      | _ => s)
    (s.setWork n (some w')).runOn c g n w'

/-- Work is started on a stage when SCH picks it there; with another context resident, or none, a switch begins. A stage
with a retired unit waits for its spare (R406). -/
def State.workStart (s : State) (n g : Nat) : State :=
  match s.work n with
  | none => s
  | some w0 =>
    let c := w0.cid
    let s := s.settleStage c g
    if (s.stage c g).work.isSome ∨ (s.stage c g).phase ≠ .quiet ∨ (s.stageUnits c g).any (fun u => (s.unit u).retired) = true then s
    else match s.pick c g with
      | none => s
      | some (m, w) =>
        if m ≠ n then s
        else if (s.stage c g).resident = some w.xid then s.startWork c g n w
        else s.stopFor c g (some w.xid)

def execWorkStart (work : Nat) (g : Fin 64) (s : State) : Host.Outcome State Fault Refusal := .next (s.workStart work g.val)

/-- Work that has ended on every stage it names is delivered. -/
def State.workComplete (s : State) (n : Nat) : State :=
  match s.work n with
  | none => s
  | some w0 =>
    let s := s.each w0.stages (fun s g => if (s.stage w0.cid g).work = some n then s.settleStage w0.cid g else s)
    match s.work n with
    | none => s
    | some w => if w.stages.all (fun g => decide (w.on g = .done)) then s.finishWork n 0 else s

def execWorkComplete (work : Nat) (s : State) : Host.Outcome State Fault Refusal := .next (s.workComplete work)

/-- The deadline of a work fires: it is discarded as a hang, counted, and the contexts resident on its stages take the context step
(R254, R394). -/
def State.deadline (s : State) (n : Nat) : State :=
  match s.work n with
  | none => s
  | some w =>
    let xs := (w.stages.filterMap (fun g => (s.stage w.cid g).resident)).eraseDups
    let s := { s with sch := { s.sch with miss := Map.upd 0 w.cid (fun v => v + 1) s.sch.miss } }
    let s := (s.finishWork n 0x0201).each xs (fun s x => s.startStep .context x 1)
  if (s.comp w.cid).multi then s.sendAbandon w.cid else s

def execDeadlineFire (work : Nat) (s : State) : Host.Outcome State Fault Refusal := .next (s.deadline work)

/-! ## Slices and the cream budget (R245 to R247) -/

/-- Whether the work on a stage is skim, or cream. -/
def State.runsSkim (s : State) (c g : Nat) (skim : Bool) : Bool :=
  match ((s.stage c g).work).bind s.work with | none => false | some w => w.skim == skim

/-- A slice ends over running skim work: ready cream with budget takes the stage, otherwise the skim work R247 picks, which is the running work
where that is the earliest of the urgent. With no other ready the running context keeps the stage; while skim is parked, work that is not urgent
leaves it (R257). -/
def State.sliceEnd (s : State) (c g : Nat) : State :=
  let s := s.settleStage c g
  let y := s.stage c g
  match y.resident with
  | none => s
  | some x =>
    if y.phase ≠ .quiet ∨ !s.runsSkim c g true then s
    else
      let s := s.updStage c g (fun v => { v with sliceLeft := 0 })
      let cream := s.pickCream c g
      match (if 0 < y.budget then cream else none) with
      | some e => (s.updStage c g (fun v => { v with empty := false })).stopFor c g (some e.2.xid)
      | none =>
        match s.pickSkim c g ((s.eligible c g true).filter (fun e => e.2.xid != x || s.urgent c g e.2)) with
        | some e => if e.2.xid = x then s.newSlice c g x else s.stopFor c g (some e.2.xid)
        | none => if s.sch.park then s.stopFor c g none else s.newSlice c g x

def execSliceEnd (c : CidT) (g : Fin 64) (s : State) : Host.Outcome State Fault Refusal := .next (s.sliceEnd c.val g.val)

/-- Ready cream work pre-empts skim while the budget is above zero: a running skim context is stopped, and a skim restore is abandoned
(R246, Table 10.11). -/
def State.creamPreempt (s : State) (c g : Nat) : State :=
  let s := s.settleStage c g
  let y := s.stage c g
  match s.pickCream c g with
  | none => s
  | some e =>
    if y.empty ∨ y.budget = 0 then s
    else match y.phase with
      | .quiet => if s.runsSkim c g true then s.stopFor c g (some e.2.xid) else s
      | .saving x _ => if (s.ctx x).skim then s.updStage c g (fun v => { v with phase := .saving x (some e.2.xid) }) else s
      | .restoring x => if (s.ctx x).skim then ((s.evict c g).settleSaved x).startRestore c g e.2.xid else s

def execCreamPreempt (c : CidT) (g : Fin 64) (s : State) : Host.Outcome State Fault Refusal := .next (s.creamPreempt c.val g.val)

/-- The cream budget reaches zero: running cream yields the stage to ready skim. -/
def State.creamEmpty (s : State) (c g : Nat) : State :=
  let s := (s.settleStage c g).updStage c g (fun y => { y with budget := 0, empty := true })
  if (s.stage c g).phase = .quiet ∧ s.runsSkim c g false = true then
    match s.pickSkim c g (s.eligible c g true) with
    | none => s
    | some e => s.stopFor c g (some e.2.xid)
  else s

def execCreamBudgetEmpty (c : CidT) (g : Fin 64) (s : State) : Host.Outcome State Fault Refusal := .next (s.creamEmpty c.val g.val)

/-- The budget has re-accrued to one tenth of its cap: cream may pre-empt again. -/
def execCreamBudgetRefill (c : CidT) (g : Fin 64) (s : State) : Host.Outcome State Fault Refusal :=
  .next (if (s.stage c.val g.val).empty then
      (s.updStage c.val g.val (fun y => { y with budget := max y.budget ((s.comp c.val).budgetCap / 10), empty := false })).creamPreempt c.val g.val
    else s)

end Sys2Proof.Machine
end

