-- ==== Sys2Proof/Machine/HostRows.lean ====
section
/-!
DEFINITION. Commands of host ports: watched lines, completion rings, leases, resets, and ring configuration (chapter 12).
-/

namespace Sys2Proof.Machine

/-! ## Leases (R310 to R314, Table 12.8) -/

/-- Records whose CQ write has not completed move to the completion journal (R309). -/
def State.retryToJournal (s : State) (f r : Nat) : State :=
  let l := (s.ring f r).retry
  s.each l (fun s e => s.toJournal f r e.2) |>.updRing f r (fun g => { g with retry := [], stuck := false })

/-- A lease lapses. -/
def State.lapse (s : State) (f : Nat) : State :=
  if (s.fn f).lease = .held then
    let s := s.updFn f (fun x => { x with lease := .lapsed, since := s.now })
    let s := s.each ((s.fn f).rings.map (fun e => e.1)) (fun s r => s.retryToJournal f r)
    s.hostCode (f / 256) 0x0708
  else s

/-- Every pending event that may be written is. -/
def State.flushEvents (s : State) (f : Nat) : State := s.each (s.fn f).events (fun s _ => s.flushEvent f)

/-- A change of SEQ on the lease line: the lease is taken, renewed or reclaimed. Reclaimed contexts return to IDLE, those still being saved as
their saves end; one that skim parking holds is PARKED (Tables 10.11 and 12.10). -/
def State.renew (s : State) (f : Nat) (seq : Word64) (reclaim : Bool) : State :=
  let x := s.fn f
  if !x.valid ∨ seq = x.seq then s
  else
    let held (x : Fn) : Fn := { x with seq := seq, lease := .held, renewed := s.now, since := s.now, mustAck := !x.journal.isEmpty }
    match x.lease with
    | .held => s.updFn f (fun x => { x with seq := seq, renewed := s.now })
    | .none => (s.updFn f held).flushEvents f
    | _ =>
      if !reclaim then s.updFn f (fun x => { x with seq := seq })
      else
        let s := s.updFn f held
        let xs := (s.ctxs.filter (fun e => decide (e.2.client = f ∧ e.2.st = .quiesced))).map (fun e => e.1)
        let s := s.each xs (fun s k => (s.ctxIdle k).journalCtx k)
        let s := s.hostCode (f / 256) 0x070A
        (s.event f 0x070A (s.fn f).journal.length).flushEvents f

def execLeaseRenewal (h : HPort) (f : Func) (seq : Word64) (reclaim : Bool) (s : State) : Host.Outcome State Fault Refusal :=
  .next (s.renew (clientOf h.val f.val) seq reclaim)

def execLeaseRelease (h : HPort) (f : Func) (s : State) : Host.Outcome State Fault Refusal := .next (s.lapse (clientOf h.val f.val))

/-- 250 ms without renewal; not while the function pauses (R327). -/
def execLeaseTimeout (h : HPort) (f : Func) (s : State) : Host.Outcome State Fault Refusal :=
  let k := clientOf h.val f.val
  .next (if (s.fn k).pause = .serving then s.lapse k else s)

/-- Contexts of a client. -/
def State.ctxsOfClient (s : State) (f : Nat) : List Nat :=
  (s.ctxs.filter (fun e => decide (e.2.st ≠ .free ∧ e.2.client = f))).map (fun e => e.1)

/-- A context is saved from every stage it is resident on, and a restore of it is abandoned (R246, R312, R327). -/
def State.saveCtx (s : State) (x : Nat) : State :=
  s.each (s.heldOn x) (fun s g =>
    let c := (s.ctx x).cid
    match (s.stage c g).phase with
    | .restoring _ => (s.evict c g).settleSaved x
    | _ => s.saveOut c g)

/-- The lease enters QUIESCED: the client's unfinished work is discarded, and its contexts are saved and enter QUIESCED with the end of their
last save; one in reset does at its end (Table 10.3). -/
def State.quiesceLease (s : State) (f : Nat) : State :=
  if (s.fn f).lease = .lapsed then
    let s := (s.updFn f (fun x => { x with lease := .quiesced, since := s.now })).discardIf (fun w => w.client == f) 0x0208
    let s := s.each (s.ctxsOfClient f) (fun s x =>
      let s := s.saveCtx x
      match (s.ctx x).st with
      | .idle => s.ctxIdle x
      | .waiting => s.ctxIdle x
      | .parked => s.ctxIdle x
      | _ => s)
    s.hostCode (f / 256) 0x0709
  else s

def execLeaseQuiesce (h : HPort) (f : Func) (s : State) : Host.Outcome State Fault Refusal := .next (s.quiesceLease (clientOf h.val f.val))

/-- The reclaim window ends: the contexts are torn down, with a report to the operator for each. -/
def State.expireLease (s : State) (f : Nat) : State :=
  if (s.fn f).lease = .quiesced then
    let s := s.updFn f (fun x => { x with lease := .none, since := s.now })
    s.each (s.ctxsOfClient f) (fun s x => (s.startTeardown x 0x0208 Request.zero).emit (.operator 0x0208 x))
  else s

def execLeaseExpire (h : HPort) (f : Func) (s : State) : Host.Outcome State Fault Refusal := .next (s.expireLease (clientOf h.val f.val))

/-- ACK empties the completion journal of a function whose lease is HELD, and its rings are read again (R313, assumption 53). -/
def State.ackJournal (s : State) (f : Nat) : State :=
  if (s.fn f).lease = .held then (s.updFn f (fun x => { x with journal := [], mustAck := false })).flushEvents f else s

def execJournalAck (h : HPort) (f : Func) (s : State) : Host.Outcome State Fault Refusal := .next (s.ackJournal (clientOf h.val f.val))

/-! ## Resets (R314, Table 13.1) -/

/-- The window registers of a function return to reset and its rings turn OFF; records of writes in progress go to the journal, and those still owed
will (R314). -/
def State.ringsOff (s : State) (f : Nat) : State :=
  let s := s.each ((s.fn f).rings.map (fun e => e.1)) (fun s r => s.retryToJournal f r)
  s.updFn f (fun x => { x with rings := [], tcSel := 0, era := x.era + 1 })

/-- What an FLR, a link-down and a TDI error do to a serving function: its lease lapses at once and its rings turn OFF. A locked TDI
enters ERROR. -/
def State.fnReset (s : State) (f : Nat) : State :=
  let s := (s.lapse f).ringsOff f
  s.updFn f (fun x => { x with tdi := match x.tdi with | .locked => .error | .run => .error | t => t })

def execFlr (h : HPort) (f : Func) (s : State) : Host.Outcome State Fault Refusal :=
  let k := clientOf h.val f.val
  .next ((if (s.fn k).valid then
      (s.updHport h.val (fun p => { p with flrs := sat 0xFFFF (p.flrs + 1) })).hostCode h.val 0x070C
    else s).fnReset k)

/-- The functions of a port that are assigned. -/
def State.fnsOnPort (s : State) (h : Nat) : List Nat :=
  (s.host.fns.filter (fun e => e.2.valid && decide (e.1 / 256 = h))).map (fun e => e.1)

/-- A link goes down: every serving function of the port is reset. -/
def State.linkDown (s : State) (h : Nat) : State :=
  if (s.hport h).st = .down ∨ (s.hport h).st = .training then s.updHport h (fun p => { p with st := .down })
  else
    let s := s.updHport h (fun p => { p with st := .down, width := 0, rate := 0, ide := false, ideDue := false, linkDown := sat 0xFFFF (p.linkDown + 1) })
    (s.each (s.fnsOnPort h) (fun s f => s.fnReset f)).hostCode h 0x0706

def execHostLinkDown (h : HPort) (s : State) : Host.Outcome State Fault Refusal := .next (s.linkDown h.val)

/-- IDE fails on a port: it carries no CXL.cache or CXL.mem traffic, and its locked interfaces enter ERROR (R295, Table 13.1). -/
def execIdeFailure (h : HPort) (s : State) : Host.Outcome State Fault Refusal :=
  let s := s.updHport h.val (fun p => { p with ide := false, ideDue := false })
  .next ((s.each ((s.fnsOnPort h.val).filter (fun f => decide ((s.fn f).tdi = .locked ∨ (s.fn f).tdi = .run))) (fun s f => s.fnReset f)).hostCode
    h.val 0x070B)

/-! ## Rings (R304, R307, R318) -/

/-- Whether a value of HOST_RING_CFG and the ring's base may be enabled. -/
def State.ringCfgOk (s : State) (f r : Nat) (v : Word64) : Bool :=
  let q := bits v 15 12
  let k := bits v 11 8
  decide (7 ≤ q ∧ q ≤ 12 ∧ 6 ≤ k ∧ k ≤ 11) && decide (bits v 42 32 < (s.comp (s.fn f).cid).msix) && decide ((s.ring f r).settled.cqBase < 2 ^ 40)

/-- A ring's configuration with ENABLE set: out of range it leaves ENABLE clear, the fields as written, and records RING_CONFIG. While
ENABLE is set nothing else of it changes. -/
def State.ringEnable (s : State) (f r : Nat) (v : Word64) : State :=
  if !(s.fn f).valid ∨ (s.comp (s.fn f).cid).rings ≤ r then s
  else if (s.ring f r).enable then s
  else if s.ringCfgOk f r v then
    (s.updRing f r (fun g => { g.settled.configured v.toNat with enable := true, on := true, disPend := false })).flushEvents f
  else (s.updRing f r (fun g => { g.store v.toNat with lastCode := 0x0703 })).hostCode (f / 256) 0x0703

def execRingEnable (h : HPort) (f : Func) (ring : Fin 256) (cfg : Word64) (s : State) : Host.Outcome State Fault Refusal :=
  .next (s.ringEnable (clientOf h.val f.val) ring.val cfg)

/-- ENABLE is cleared: the ring turns OFF when no slot is reserved. -/
def State.ringDisable (s : State) (f r : Nat) : State :=
  (s.updRing f r (fun g => if g.enable then { g with enable := false, disPend := true } else g)).ringSettle f r

def execRingDisable (h : HPort) (f : Func) (ring : Fin 256) (s : State) : Host.Outcome State Fault Refusal :=
  .next (s.ringDisable (clientOf h.val f.val) ring.val)

/-- COAL_US has passed since the first record that no interrupt has signalled. -/
def execMsixCoalesceTimer (h : HPort) (f : Func) (ring : Fin 256) (s : State) : Host.Outcome State Fault Refusal :=
  let k := clientOf h.val f.val
  .next (if 0 < (s.ring k ring.val).unsig then
      (s.emit (.msix h.val f.val (s.ring k ring.val).vec)).updRing k ring.val (fun g => { g with unsig := 0 })
    else s)

def execEventRecordWrite (h : HPort) (f : Func) (s : State) : Host.Outcome State Fault Refusal :=
  .next (s.flushEvent (clientOf h.val f.val))

/-- The retry of a ring's CQ writes. Where the host completes them, every record that waits becomes visible, in order, and may be signalled. Where it
does not, a write that has waited counts as a timeout and is recorded; with none waiting, the host begins to complete none (R306, R307, R309,
assumption 54). -/
def State.cqRetry (s : State) (f r : Nat) (done : Bool) : State :=
  let g := s.ring f r
  if done then
    if s.hostUp (f / 256) then
      ((s.updRing f r (fun g => { g with retry := [], stuck := false })).each g.retry (fun s e => s.cqVisible f r e.1 e.2)).signal f r
    else s
  else if g.retry.isEmpty then s.updRing f r (fun g => { g with stuck := true })
  else
    let s := s.updHport (f / 256) (fun p => { p with cqTimeout := sat 0xFFFF (p.cqTimeout + 1) })
    (s.updRing f r (fun g => { g with lastCode := 0x0704 })).hostCode (f / 256) 0x0704

def execCqWriteRetry (h : HPort) (f : Func) (ring : Fin 256) (done : Bool) (s : State) : Host.Outcome State Fault Refusal :=
  .next (s.cqRetry (clientOf h.val f.val) ring.val done)

/-- A host transfer that has taken 2 ms is completed by the port: a read returns poison, a write is dropped, and the work is discarded. -/
def State.hostTimeout (s : State) (h u : Nat) : State :=
  match (s.unit u).ext with
  | none => s
  | some w =>
    if w.peer ∨ w.far ∨ w.port ≠ h then s
    else
      let s := s.updHport h (fun p => { p with hostTimeout := sat 0xFFFF (p.hostTimeout + 1) })
      let wr := match s.heldRow u with | none => false | some d => d.1.op == 1
      let s := s.extEnd u (if wr then none else some [])
      (s.poisonWork u).hostCode h 0x0705

def execHostTransferTimeout (h : HPort) (u : UnitId) (s : State) : Host.Outcome State Fault Refusal := .next (s.hostTimeout h.val u.val)

/-! ## Watched lines (R297 to R300) -/

/-- Whether Table 12.2 backs a byte offset of a function's submission region that a host may write. -/
def State.regionBacked (s : State) (f o : Nat) : Bool :=
  let n := (s.comp (s.fn f).cid).rings
  decide (o < 64) || decide (0x1000 ≤ o ∧ o < 0x1000 + 64 * n) || decide (0x20000000 ≤ o ∧ o < 0x21000000) ||
    decide (0x100000 ≤ o ∧ o < 0x100000 + 0x40000 * n) && decide ((o - 0x100000) % 0x40000 < 128 * 2 ^ (s.ring f ((o - 0x100000) / 0x40000)).sqLog2)

/-- A CQ_HEAD update: it takes effect only when it moves forward by no more than the occupied count (R304). -/
def State.cqHeadWrite (s : State) (f r v : Nat) : State :=
  let g := s.ring f r
  if sub32 v g.cqHead ≤ g.occ then (s.updRing f r (fun g => { g with cqHead := v })).flushEvents f else s

/-- A host is granted ownership of a watched line, and the line is back-invalidated (R299). -/
def State.lineOwned (s : State) (f line : Nat) : State :=
  if (s.fn f).valid ∧ line < 2 ^ 24 ∧ s.hostUp (f / 256) then
    (s.updFn f (fun x => { x with granted := if x.granted.contains line then x.granted else x.granted ++ [line] })).emit
      (.bisnp (f / 256) (f % 256) line)
  else s

def execWatchedLineOwnership (h : HPort) (f : Func) (line : Nat) (s : State) : Host.Outcome State Fault Refusal :=
  .next (s.lineOwned (clientOf h.val f.val) line)

/-- What a notice does: the new data, and on the lease line a renewal or a release, on a ring control line a move of CQ_HEAD. -/
def State.takeLine (s : State) (f line : Nat) (d : BitVec 512) : State :=
  let o := 64 * line
  let s := s.updFn f (fun x => { x with notices := if x.notices.contains line then x.notices else x.notices ++ [line] })
  if !s.regionBacked f o then s
  else
    let s := s.updFn f (fun x => { x with region := x.region.wrL o (lineBytes d) })
    if o = 0 then
      let s := s.updFn f (fun x => { x with notices := x.notices.erase 0 })
      if bit d 64 then (s.updFn f (fun x => { x with seq := d.extractLsb' 0 64 })).lapse f else s.renew f (d.extractLsb' 0 64) (bit d 65)
    else if 0x1000 ≤ o ∧ o < 0x100000 then
      (s.updFn f (fun x => { x with notices := x.notices.erase line })).cqHeadWrite f ((o - 0x1000) / 64) (bits d 31 0)
    else s

/-- The host's write-back of a line it was granted is a notice. While logical partition 0 is being copied it waits (R298, R299). -/
def State.lineNotice (s : State) (f line : Nat) (d : BitVec 512) : State :=
  if (s.fn f).valid ∧ (s.fn f).granted.contains line ∧ s.hostUp (f / 256) then
    let s := (s.updFn f (fun x => { x with granted := x.granted.erase line })).hostRx (f / 256) 64
    if (s.comp (s.fn f).cid).copiesRegion then s.updFn f (fun x => { x with late := x.late ++ [(line, d)] })
    else s.takeLine f line d
  else s

/-- Notices that waited for the copy of logical partition 0 are acted on in order. -/
def State.lateNotices (s : State) (f : Nat) : State :=
  if (s.fn f).late.isEmpty ∨ (s.comp (s.fn f).cid).copiesRegion = true then s
  else (s.updFn f (fun x => { x with late := [] })).each (s.fn f).late (fun s e => s.takeLine f e.1 e.2)

def execWatchedLineNotice (h : HPort) (f : Func) (line : Nat) (data : BitVec 512) (s : State) : Host.Outcome State Fault Refusal :=
  .next (s.lineNotice (clientOf h.val f.val) line data)

end Sys2Proof.Machine
end

