-- ==== Sys2Proof/Machine/Sharing.lean ====
section
/-!
DEFINITION. Commands of sharing and live migration: assignment, TDISP, dirty-page logging, pausing and hand-off (chapter 13).
-/

namespace Sys2Proof.Machine

/-! ## Assignment (R319, R321, R328) -/

/-- Bytes a submission region is backed by (R298). -/
def Comp.regionBytes (c : Comp) : Nat := 0x10000 + c.rings * 0x40000 + 0x1000000

/-- Bytes a composition reserves on logical partition 0: save areas, the table area, and the regions of its functions (R243, R221,
R298). -/
def State.reserved0 (s : State) (c : Nat) : Nat :=
  let x := s.comp c
  x.maxCtx * x.saveKib * 1024 + x.maxCtx * 144 * 1024 + (s.fnsOf c).length * x.regionBytes

/-- ERR of an assignment, 0 for none. -/
def State.assignErr (s : State) (f c : Nat) (gen : Word16) : Nat :=
  let x := s.comp c
  let y := s.fn f
  firstCode [
    (decide (x.st = .free ∨ x.gen ≠ gen), 1),
    (!has x.portMask (f / 256), 2),
    (decide (y.tdi ≠ .unlocked), 3),
    (y.valid && !decide (y.cid = c ∧ y.gen = gen), 4),
    (!y.valid && decide (7 * 2 ^ 30 < s.reserved0 c + x.regionBytes), 6)]

/-- A write to an assignment or migration control while the TDI is locked moves it to ERROR (Table 13.1). -/
def State.tdiBreach (s : State) (f : Nat) : State :=
  if (s.fn f).tdi = .locked ∨ (s.fn f).tdi = .run then s.fnReset f else s

def State.setErr (s : State) (f e : Nat) : State := s.updFn f (fun x => { x with err := e })

/-- FROM_EN, FROM_PORT and FROM_FUNC take the values written (R5), but while the TDI freezes the register (Table 13.1). -/
def State.vfFrom (s : State) (f : Nat) (en : Bool) (port func : Nat) : State :=
  if (s.fn f).tdi = .locked ∨ (s.fn f).tdi = .run then s
  else s.updFn f (fun x => { x with fromEn := en, fromPort := port, fromFunc := func })

/-- The module writes every backed byte of a function's region: the host's copies are recalled, and the pages logged (R298, R299, R323). -/
def State.regionWritten (s : State) (f : Nat) : State :=
  let s := s.each (s.fn f).granted (fun s l => s.recall f l)
  if (s.fn f).logging then
    let page (i : Nat) : Nat := (hostBaseOf f + 2 ^ 45) / 4096 + i
    s.each (List.range 16 ++ (List.range (64 * (s.comp (s.fn f).cid).rings)).map (fun i => 256 + i) ++ (List.range 4096).map (fun i => 0x20000 + i))
      (fun s i => s.logPage f (page i) 1)
  else s

/-- VALID = 1: the function serves the composition, its region zeroed, with the completion journal in it, and its lease NONE. An assignment that
stands already does the same, and leaves the rings and contexts of the client (assumption 55). -/
def State.vfAssign (s : State) (f c : Nat) (gen : Word16) : State :=
  let e := s.assignErr f c gen
  if e ≠ 0 then (s.tdiBreach f).setErr f e
  else
    let s := s.updFn f (fun x =>
      let y := if x.valid then x else x.bare
      { y with valid := true, cid := c, gen := gen, err := 0 })
    let s := (s.regionWritten f).updFn f (fun x =>
      { x with region := [], journal := [], mustAck := false, notices := [], late := [], lease := .none, since := s.now })
    s.journal (.assign (f / 256) (f % 256) true c gen)

def execVfAssign (h : HPort) (f : Func) (c : CidT) (gen : Word16) (s : State) : Host.Outcome State Fault Refusal :=
  .next (if f.val = 0 then s else (s.vfFrom (clientOf h.val f.val) false 0 0).vfAssign (clientOf h.val f.val) c.val gen)

/-- VALID = 0: while the lease is NONE and the client holds no context. -/
def State.vfUnassign (s : State) (f : Nat) : State :=
  if (s.fn f).tdi ≠ .unlocked then (s.tdiBreach f).setErr f 3
  else if (s.fn f).lease ≠ .none ∨ !(s.ctxsOfClient f).isEmpty then s.setErr f 4
  else (s.unassign f).setErr f 0

def execVfUnassign (h : HPort) (f : Func) (s : State) : Host.Outcome State Fault Refusal :=
  .next (if f.val = 0 then s else (s.vfFrom (clientOf h.val f.val) false 0 0).vfUnassign (clientOf h.val f.val))

/-- A request that came by a ring of one function is answered to another. -/
def requestMovedTo (r : Request) (src f : Nat) : Request :=
  match r.reply with
  | .ring p k ring op => if clientOf p k = src then { r with reply := .ring (f / 256) (f % 256) ring op, client := f } else r
  | _ => r

/-- The requests of a client that are still open, and their answers, go to the function the client has moved to (R303, R328). -/
def State.moveRequests (s : State) (src f : Nat) : State :=
  let m (r : Request) : Request := requestMovedTo r src f
  let a (l : List (Request × List Nat)) : List (Request × List Nat) := l.map (fun e => (m e.1, e.2))
  { s with
    tokens := Map.mapV {} (fun _ k => { k with req := m k.req, owed := k.owed.map (fun o => { o with req := m o.req }) }) s.tokens
    ctxs := Map.mapV {} (fun _ k => { k with req := m k.req }) s.ctxs
    xlt := { s.xlt with wds := s.xlt.wds.map (fun w => { w with req := m w.req }) }
    jrn := { s.jrn with waiting := s.jrn.waiting.map (fun e => { e with ans := a e.ans }), owed := a s.jrn.owed } }

/-- A hand-off: the paused client of a source function moves to the target in one step. It waits while logical partition 0 is being copied; a
locked source does not migrate, and one whose composition is being unbound is refused (R322, Table 13.3, assumption 222). -/
def State.handOff (s : State) (f c : Nat) (gen : Word16) (src : Nat) : State :=
  let y := s.fn src
  let e0 := s.assignErr f c gen
  let ends := decide ((s.comp c).st = .unbinding) || (s.comp c).op.any (fun o => decide (o.kind = .unbind))
  let e := if e0 = 0 ∧ ends = true then 1
    else if e0 ≠ 0 then e0
    else if y.tdi ≠ .unlocked then 3
    else if !y.valid ∨ y.cid ≠ c ∨ y.gen ≠ gen ∨ y.pause ≠ .paused ∨ y.logging ∨ src = f then 5 else 0
  if e ≠ 0 then (s.tdiBreach f).setErr f e
  else if (s.comp c).copiesRegion then s.updFn f (fun x => { x with hand := some (c, gen, src) })
  else
    let s := s.updFn f (fun x => { x with
      hand := none, late := y.late, era := max x.era y.era + 1, valid := true, cid := c, gen := gen, err := 0, fromEn := true, fromPort := src / 256, fromFunc := src % 256,
      lease := .lapsed, since := s.now, seq := 0, region := y.region, journal := y.journal, mustAck := false, events := y.events,
      notices := y.notices, rings := [], ctlOut := y.ctlOut, pause := .serving })
    let s := ((s.regionWritten f).updFn f (fun x => { x with granted := [] })).moveRequests src f
    let s := { s with sch := { s.sch with jobs := Map.set 0 src 0 (Map.set 0 f (Map.get 0 s.sch.jobs src) s.sch.jobs) } }
    let s := s.each (s.ctxsOfClient src) (fun s x => (s.updCtx x (fun k => { k with client := f })).journalCtx x)
    (s.journal (.assign (f / 256) (f % 256) true c gen)).unassign src

def execHandOff (h : HPort) (f : Func) (c : CidT) (gen : Word16) (fromPort : HPort) (fromFunc : Func) (s : State) :
    Host.Outcome State Fault Refusal :=
  .next (if f.val = 0 then s else s.handOff (clientOf h.val f.val) c.val gen (clientOf fromPort.val fromFunc.val))

/-- A hand-off that waited goes on when the copy has ended. -/
def State.handTick (s : State) : State :=
  s.each (s.host.fns.map (fun e => e.1)) (fun s f => match (s.fn f).hand with
    | none => s
    | some (c, gen, src) => if (s.comp c).copiesRegion then s else (s.updFn f (fun x => { x with hand := none })).handOff f c gen src)

/-! ## TDISP (R322, R341) -/

/-- Whether a client holds a clear range. -/
def State.holdsClear (s : State) (f : Nat) : Bool :=
  (s.ctxsOfClient f).any (fun x => (s.validSlots x).any (fun r => decide (eKind r.2.entry ≤ 1) && !eEnc r.2.entry))

/-- LOCK_INTERFACE, on an assigned function whose rings are all OFF and whose client holds no clear range. The TDI interface report goes out. -/
def State.lockInterface (s : State) (f : Nat) : State :=
  let x := s.fn f
  if x.tdi ≠ .unlocked ∨ !x.valid ∨ x.rings.any (fun e => e.2.on) = true then s.emit (.tdispError (f / 256) (f % 256))
  else if s.holdsClear f then (s.emit (.tdispError (f / 256) (f % 256))).secCode 0x040C
  else (s.updFn f (fun x => { x with tdi := .locked })).emit
    (.tdi (f / 256) (f % 256) 0x1000000 (hostBaseOf f) (2 ^ 45 + 2 ^ 30) x.cid x.gen.toNat (s.comp x.cid).shape)

def execLockInterface (h : HPort) (f : Func) (s : State) : Host.Outcome State Fault Refusal :=
  .next (s.lockInterface (clientOf h.val f.val))

def execStartInterface (h : HPort) (f : Func) (s : State) : Host.Outcome State Fault Refusal :=
  let k := clientOf h.val f.val
  .next (if (s.fn k).tdi = .locked then s.updFn k (fun x => { x with tdi := .run }) else s.emit (.tdispError h.val f.val))

/-- STOP_INTERFACE: a locked function leaves its lock with no tenant state. -/
def State.stopInterface (s : State) (f : Nat) : State :=
  if (s.fn f).tdi = .unlocked then s
  else
    let s := s.lapse f
    let s := s.each (s.ctxsOfClient f) (fun s x => (s.startTeardown x 0x0208 Request.zero).finishTeardown x)
    s.updFn f (fun x => { x with tdi := .unlocked, pause := .serving })

def execStopInterface (h : HPort) (f : Func) (s : State) : Host.Outcome State Fault Refusal :=
  .next (s.stopInterface (clientOf h.val f.val))

/-! ## Migration controls (R323 to R327) -/

/-- A write to HOST_MIG_CTL: it acts while the TDI is unlocked, and moves a locked one to ERROR. -/
def State.migCtl (s : State) (f : Nat) (act : State → State) : State :=
  if (s.fn f).tdi = .unlocked then act s else s.tdiBreach f

/-- A session starts; ignored while LOGBASE is 0. -/
def State.logStart (s : State) (f : Nat) : State :=
  s.updFn f (fun x => if x.logBase = 0 then x else { x with logging := true, logTail := 0, logHead := 0, ovf := false })

def execLogStart (h : HPort) (f : Func) (s : State) : Host.Outcome State Fault Refusal :=
  .next (s.migCtl (clientOf h.val f.val) (fun s => s.logStart (clientOf h.val f.val)))

def execLogStop (h : HPort) (f : Func) (s : State) : Host.Outcome State Fault Refusal :=
  .next (s.migCtl (clientOf h.val f.val) (fun s => s.updFn (clientOf h.val f.val) (fun x => { x with logging := false })))

/-- LOGHEAD moves forward by no more than the occupancy; any other update is ignored. -/
def State.logHeadWrite (s : State) (f v : Nat) : State :=
  s.updFn f (fun x => if sub32 v x.logHead ≤ sub32 x.logTail x.logHead then { x with logHead := v } else x)

def execLogheadWrite (h : HPort) (f : Func) (value : Word32) (s : State) : Host.Outcome State Fault Refusal :=
  .next (s.logHeadWrite (clientOf h.val f.val) value.toNat)

def State.pauseFn (s : State) (f : Nat) : State :=
  s.updFn f (fun x => if x.valid ∧ x.pause = .serving then { x with pause := .pausing } else x)

def execPause (h : HPort) (f : Func) (s : State) : Host.Outcome State Fault Refusal :=
  .next (s.migCtl (clientOf h.val f.val) (fun s => s.pauseFn (clientOf h.val f.val)))

/-- No work of the client is admitted and undelivered: its contexts are saved and left IDLE, and the function is PAUSED once every save has ended
and no record waits for its CQ write. A context that skim parking holds stays PARKED (assumption 216). -/
def State.pauseDone (s : State) (f : Nat) : State :=
  if (s.fn f).pause = .pausing ∧ (s.allWork.any (fun e => e.2.client == f)) = false then
    let s := s.each (s.ctxsOfClient f) (fun s x => s.saveCtx x)
    let busy := (s.ctxsOfClient f).any (fun x => !(s.heldOn x).isEmpty || decide ((s.ctx x).st = .resetting))
    if busy || (s.fn f).rings.any (fun e => !e.2.retry.isEmpty) then s else s.updFn f (fun x => { x with pause := .paused })
  else s

def execPauseComplete (h : HPort) (f : Func) (s : State) : Host.Outcome State Fault Refusal :=
  .next (s.pauseDone (clientOf h.val f.val))

/-- RESUME: the lease limit counts again from now. -/
def State.resumeFn (s : State) (f : Nat) : State :=
  s.updFn f (fun x => if x.pause = .serving then x else { x with pause := .serving, renewed := s.now })

def execMigResume (h : HPort) (f : Func) (s : State) : Host.Outcome State Fault Refusal :=
  .next (s.migCtl (clientOf h.val f.val) (fun s => s.resumeFn (clientOf h.val f.val)))

end Sys2Proof.Machine
end

