-- ==== Sys2Proof/Machine/Trust.lean ====
section
/-!
DEFINITION. Commands of the root of trust: firmware checks and the rollback floor, culture signers, keyslots, attestation, host-view
accesses, debug and tenant counters (chapter 14).
-/

namespace Sys2Proof.Machine

/-! ## Firmware images (R331 to R333) -/

/-- The 48 octets of a digest. -/
def octetsOf (d : Digest) : List Byte := leBytes d.toNat 48

/-- The ASCII bytes of a name. -/
def ascii (l : List Nat) : List Byte := l.map (fun x => BitVec.ofNat 8 x)
/-- "etzor-firmware", "etzor-enrol", "etzor-spdm", "etzor-report" and "etzor-meter". -/
def fwCtx : List Byte := ascii [0x65, 0x74, 0x7A, 0x6F, 0x72, 0x2D, 0x66, 0x69, 0x72, 0x6D, 0x77, 0x61, 0x72, 0x65]
def enrolCtx : List Byte := ascii [0x65, 0x74, 0x7A, 0x6F, 0x72, 0x2D, 0x65, 0x6E, 0x72, 0x6F, 0x6C]
def spdmCtx : List Byte := ascii [0x65, 0x74, 0x7A, 0x6F, 0x72, 0x2D, 0x73, 0x70, 0x64, 0x6D]
def reportCtx : List Byte := ascii [0x65, 0x74, 0x7A, 0x6F, 0x72, 0x2D, 0x72, 0x65, 0x70, 0x6F, 0x72, 0x74]
def meterCtx : List Byte := ascii [0x65, 0x74, 0x7A, 0x6F, 0x72, 0x2D, 0x6D, 0x65, 0x74, 0x65, 0x72]

/-- SVN_FLOOR: a thermometer of 127 fuses that never falls (R333). -/
def State.svnFloor (s : State) : Nat := min 127 (max Config.fusedSvnFloor s.sec.svnBlown)

/-- The digest D of an image: its header, and its bytes padded to a multiple of 64 (R331). -/
def fwDigest (i : FwImage) : Digest := Config.sha384 (i.header ++ padTo ((i.imageBytes + 63) / 64 * 64) 0 i.image)

/-- Whether an image's header, length, role and digest are valid for a role: step 1 of R332. -/
def fwShapeOk (role : Nat) (i : FwImage) : Bool :=
  decide (i.magic = 0x4D494647 ∧ i.version = 1 ∧ i.role = role ∧ role ≤ 6 ∧ i.svn ≤ 127 ∧ 64 ≤ i.imageBytes ∧ i.imageBytes ≤ 2 ^ 22 ∧
    i.image.length = i.imageBytes ∧ i.signer ≤ 3) && i.rsvZero && i.tailZero && decide (Config.sha384 i.image = i.imageDigest)

/-- Steps 1 to 3 of R332. -/
def fwSigned (role : Nat) (i : FwImage) : Nat :=
  let k := Config.fwSignerKeys i.signer
  let d := octetsOf (fwDigest i)
  firstCode [
    (!fwShapeOk role i, 0x0404),
    (Config.fusedSignersRevoked.getLsbD i.signer, 0x0405),
    (!Config.rsaVerify k.1 d i.rsaSig, 0x0401),
    (!Config.slhVerify k.2 fwCtx d i.slhSig, 0x0402)]

/-- The checks of R332, in order; 0 is a pass. -/
def State.fwCheck (s : State) (role : Nat) (i : FwImage) : Nat :=
  let st := fwSigned role i
  if st ≠ 0 then st else if i.svn < s.svnFloor then 0x0403 else 0

/-! ## Measurement (R345, Table 14.4) -/

/-- SEC_FUSE (Table 14.10). -/
def State.secFuse (s : State) : Nat :=
  fld 9 s.svnFloor + fld 5 Config.fusedSignersRevoked.toNat + fld 1 (b2n (Config.fusedDebugUsed || s.sec.debugUsedBlown)) +
    b2n Config.fusedDebugLock

/-- Blocks 2, 15 and 16 are taken again: what they hash is laid out as the model chooses (assumption 56). -/
def State.measureFuse (s : State) : State :=
  s.measure 2 (Config.sha384 (leBytes s.secFuse 8 ++ leBytes (b2n s.sec.debugActive) 1))
def State.signerTable (s : State) : List Byte :=
  s.sec.signers.flatMap (fun e => match e.2 with
    | none => []
    | some g => octetsOf g.id ++ g.rsa ++ g.slh ++ leBytes (b2n g.revoked) 1)
def State.measurePolicy (s : State) : State :=
  s.measure 15 (Config.sha384 (leBytes (b2n s.sec.clearOk) 4 ++ octetsOf (Config.sha384 s.signerTable)))
def State.measureMeter (s : State) : State :=
  s.measure 16 (Config.sha384 (leBytes (b2n (decide (s.pail.st = .metered))) 1 ++ octetsOf (Config.pailKeyDigest s.pail.fitted)))

/-- A measurement block as GET_MEASUREMENTS returns it, in the DMTF format: index, specification, size, value type and SHA-384 value
(assumption 56). -/
def State.measBlock (s : State) (i : Nat) : List Byte :=
  let d := if i = 1 then Config.bootRomDigest else Map.get 0 s.sec.meas i
  let kind := if i = 1 then 0 else if i = 2 then 2 else if i ≤ 14 then 1 else 3
  leBytes i 1 ++ leBytes 1 1 ++ leBytes 51 2 ++ leBytes kind 1 ++ leBytes 48 2 ++ octetsOf d

/-! ## Rollback floor -/

/-- SEC_ROLLBACK.COMMIT (R333). -/
def State.rollbackCommit (s : State) : State :=
  let copies := (List.range 7).flatMap (fun r => [(r, (s.role r).imgA), (r, (s.role r).imgB)])
  let good := copies.all (fun e => match e.2 with | none => false | some i => decide (fwSigned e.1 i = 0))
  if good then
    let low := copies.foldl (fun m e => match e.2 with | none => m | some i => min m i.svn) 127
    ({ s with sec := { s.sec with svnBlown := max s.sec.svnBlown low } }).measureFuse
  else s.secCode 0x040B

def execRollbackCommit (s : State) : Host.Outcome State Fault Refusal := .next s.rollbackCommit

/-! ## Culture signers (R336) -/

/-- A request's buffer, read through the port it came by; none when that cannot be done or BUF_LEN is out of range (R416). -/
def State.bufferOf (s : State) (r : Request) : Option (List Byte) :=
  if 2 ^ 24 < r.bufLen then none else s.storeBytes 0 (r.client / 256) r.bufAddr r.bufLen

/-- The slot of an enrolled signer. -/
def State.signerSlot (s : State) (id : Digest) : Option Nat :=
  (s.sec.signers.find? (fun e => e.2.any (fun g => g.id == id))).map (fun e => e.1)

/-- Writes an entry of the signer table, and its record; an empty record removes it. -/
def State.setSigner (s : State) (i : Nat) (g : Option Signer) : State :=
  let s := { s with sec := { s.sec with signers := Map.set none i g s.sec.signers } }
  (s.journal (.signer i (g.getD { id := 0, rsa := [], slh := [] }))).measurePolicy

/-- SIGNER_ENROLL: the buffer holds the RSA key of P+0 bytes, the SLH-DSA key, and the two proofs. A signer that is in the table and not
revoked stays as it is (assumption 57). -/
def State.signerEnroll (s : State) (r : Request) : State :=
  let n := bits r.p0 15 0
  if s.roleHalted 0 then s.mbxError r 4
  else match s.bufferOf r with
    | none => s.mbxError r 3
    | some b =>
      if b.length ≠ n + 48 + 384 + 16224 then s.mbxError r 3
      else
        let rsa := b.take n
        let slh := (b.drop n).take 48
        let id := Config.sha384 (rsa ++ slh)
        let d := octetsOf (Config.sha384 (leBytes Config.modSerial.toNat 8 ++ octetsOf id))
        let ok := Config.rsaVerify rsa d ((b.drop (n + 48)).take 384) && Config.slhVerify slh enrolCtx d (b.drop (n + 432))
        let i := Map.firstFree s.sec.signers
        if !ok then (s.secCode 0x0407).answer r 0x0407 []
        else if (s.signerOf id).isSome then s.answer r 0 []
        else if 16 ≤ i then (s.secCode 0x0406).answer r 0x0406 []
        else (s.setSigner i (some { id := id, rsa := rsa, slh := slh })).answer r 0 []

def execSignerEnroll (r : Request) (s : State) : Host.Outcome State Fault Refusal := .next (s.signerEnroll r)

/-- SIGNER_REVOKE: the first marks the entry; a second removes it once no chain names the signer. While one does, it changes nothing
(assumption 57). -/
def State.signerRevoke (s : State) (r : Request) : State :=
  if s.roleHalted 0 then s.mbxError r 4
  else match s.sec.signers.find? (fun e => e.2.any (fun g => g.id == r.signer && !g.revoked)), s.signerSlot r.signer with
    | some (i, some g), _ => (s.setSigner i (some { g with revoked := true })).answer r 0 []
    | _, some i =>
      if s.comps.any (fun e => decide (e.2.st ≠ .free) && e.2.signers.contains r.signer) then s.answer r 0 []
      else (s.setSigner i none).answer r 0 []
    | _, none => (s.secCode 0x0408).answer r 0x0408 []

def execSignerRevoke (r : Request) (s : State) : Host.Outcome State Fault Refusal := .next (s.signerRevoke r)

/-! ## Keyslots (R338, R339) -/

/-- Installs a new key in a free slot for a context or a composition, or withdraws the key of a held slot. -/
def execKeyslotChange (slot : Fin 4096) (install : Bool) (holder : Nat) (shared : Bool) (s : State) : Host.Outcome State Fault Refusal :=
  let free := decide ((s.kslot slot.val).hold = .free)
  .next (if install then
      (if free then s.grantSlot slot.val (if shared then .shared holder else .ctx holder) else s)
    else if free then s else s.withdrawSlot slot.val)

/-! ## Attestation (R344 to R346) -/

/-- SEC is starting: what needs it waits (Table 18.1). -/
def State.secAway (s : State) : Bool := decide ((s.coreS 0).st = .loading ∨ (s.coreS 0).st = .restarting)

/-- Whether a context of a composition holds a clear range. -/
def State.compClear (s : State) (c : Nat) : Bool :=
  (s.ctxsOf c).any (fun x => (s.validSlots x).any (fun r => decide (eKind r.2.entry ≤ 1) && !eEnc r.2.entry))

/-- The composition report (Table 14.5), without its signature block. -/
def State.compReport (s : State) (c : Nat) (nonce : BitVec 256) : List Byte :=
  let x := s.comp c
  if x.st = .free then leBytes 0x5052434B 4 ++ leBytes 1 2 ++ leBytes c 1 ++ List.replicate 249 0
  else
    let flags := 1 + fld 1 (b2n x.tessel) + fld 2 (b2n x.multi) + fld 3 (b2n (decide (s.pail.st ≠ .metered))) + fld 4 (b2n s.sec.debugActive) +
      fld 5 (b2n (s.compClear c))
    leBytes 0x5052434B 4 ++ leBytes 1 2 ++ leBytes c 1 ++ leBytes flags 1 ++ leBytes x.gen.toNat 2 ++ leBytes x.shape 2 ++
    leBytes x.chain.length 1 ++ leBytes x.weights.length 1 ++ leBytes 0 2 ++ leBytes nonce.toNat 32 ++ leBytes Config.modSerial.toNat 8 ++
    leBytes s.sec.measCount.toNat 8 ++ octetsOf (Config.sha384 ((List.range 16).flatMap (fun i => s.measBlock (i + 1)))) ++ octetsOf x.eff ++
    (List.range 64).map (fun l => BitVec.ofNat 8 (Map.get 255 x.place l)) ++ leBytes 0 32 ++
    (x.chain.zip x.signers).flatMap (fun e => octetsOf e.1 ++ octetsOf e.2) ++ x.weights.flatMap (fun e => octetsOf e.2.digest)

/-- The answer to a request: measurement block `index`, the number of blocks for 0, every block for 0xFF, and the standard's answer for any other index;
the cosignature of one of the last four signed responses of a connection; the SLH-DSA certificate chain; the signed composition report; and the
standard's answer to any other request, of which a signed one leaves its transcript hash, four to a connection. A KEY_EXCHANGE opens a session and an
END_SESSION closes it; with 8 open a KEY_EXCHANGE gets the standard's ERROR SessionLimitExceeded (Table 14.3, assumption 227). -/
def State.spdmServe (s : State) (q : SpdmReq) : State :=
  match q with
  | .measurements index =>
    if index = 0 then s.emit (.answer 0 (leBytes 16 1))
    else if index ≤ 16 then s.emit (.answer 0 (s.measBlock index))
    else if index = 0xFF then s.emit (.answer 0 ((List.range 16).flatMap (fun i => s.measBlock (i + 1))))
    else s.emit (.answer 0 (Config.spdmAnswer (leBytes index 1)))
  | .cosign conn transcript =>
    if (Map.get [] s.sec.hashes conn).contains transcript then
      s.emit (.answer conn (((Config.signatureBlock spdmCtx transcript).drop 384).take 16224))
    else (s.secCode 0x040E).emit (.answer conn (leBytes 0x040E 2))
  | .cocert => s.emit (.answer 0 Config.coCert)
  | .report c nonce =>
    let b := s.compReport c nonce
    s.emit (.answer 0 (b ++ Config.signatureBlock reportCtx (Config.sha384 b)))
  | .other conn bytes signed =>
    let code := (nth 0 bytes 1).toNat
    if code = 0xE4 ∧ 8 ≤ s.sec.sessions.length then s.emit (.answer conn (leBytes 0x000A7F13 4))
    else
      let s := { s with sec := { s.sec with
        sessions := if code = 0xE4 then s.sec.sessions ++ [conn] else if code = 0xEC then s.sec.sessions.erase conn else s.sec.sessions } }
      let s := if signed then { s with sec := { s.sec with
          hashes := Map.upd [] conn (fun l => (Config.spdmTranscript bytes :: l).take 4) s.sec.hashes } } else s
      s.emit (.answer conn (Config.spdmAnswer bytes))

/-- A request is answered; it waits while the SEC core restarts, and RECOVERY has nothing to answer it (R334, Table 18.1). -/
def State.spdm (s : State) (q : SpdmReq) : State :=
  if s.sec.recovery then s
  else if s.secAway then { s with sec := { s.sec with waits := s.sec.waits ++ [q] } }
  else s.spdmServe q

/-- What has waited for SEC is answered in order. -/
def State.spdmLate (s : State) : State := ({ s with sec := { s.sec with waits := [] } } : State).each s.sec.waits (fun s q => s.spdm q)

def execGetMeasurements (index : Nat) (s : State) : Host.Outcome State Fault Refusal := .next (s.spdm (.measurements index))
def execCosign (conn : Nat) (transcript : Digest) (s : State) : Host.Outcome State Fault Refusal := .next (s.spdm (.cosign conn transcript))
def execGetCocert (s : State) : Host.Outcome State Fault Refusal := .next (s.spdm .cocert)
def execCompReport (c : CidT) (nonce : BitVec 256) (s : State) : Host.Outcome State Fault Refusal := .next (s.spdm (.report c.val nonce))
def execSpdmRequest (conn : Nat) (bytes : List Byte) (signed : Bool) (s : State) : Host.Outcome State Fault Refusal :=
  .next (s.spdm (.other conn bytes signed))

/-! ## Host-view accesses (R342) -/

/-- The VALID LOCAL entry of a client's contexts that covers set-space address a of set k with the right needed. -/
def State.hostviewEntry (s : State) (f k a : Nat) (write : Bool) : Option (Nat × BitVec 256) :=
  (s.ctxsOfClient f).findSome? (fun x => ((s.validSlots x).find? (fun r =>
    let e := r.2.entry
    decide (eKind e = 0 ∧ eAux e = k ∧ eTarget e ≤ a ∧ a < eTarget e + eLen e) && (if write then eW e else eR e))).map
      (fun r => (x, r.2.entry)))

/-- A CXL.mem access of a function; `addr` counts from its host base HB: to an interleave-set slot, in whole or partial sectors of 64 bytes, or to a
line of the submission region, where a read takes a shared copy and a write is the notice of a line the host was granted (R297, R299). -/
def State.hostview (s : State) (h f addr : Nat) (write : Bool) (data mask : BitVec 512) (tee : Bool) (err : ReadErr) : State :=
  let k := clientOf h f
  let a := addr % 2 ^ 39 / 64 * 64
  let x := s.fn k
  if f = 0 ∨ !x.valid ∨ 2 ^ 45 + 2 ^ 30 ≤ addr ∨ !s.hostUp h then s
  else if 2 ^ 45 ≤ addr then
    let l := (addr - 2 ^ 45) / 64
    let d := bytesLine (x.region.rdN (64 * l) 64)
    if write then (s.lineNotice k l ((d &&& ~~~mask) ||| (data &&& mask))).emit (.ack 0)
    else (s.hostTx h 64).emit (.data d false)
  else
    let e := if decide (x.tdi = .run) && !tee then none else s.hostviewEntry k (addr / 2 ^ 39) a write
    match e.bind (fun e => ((s.comp (s.ctx e.1).cid).chanAt (eAux e.2) a).map (fun l => (e.2, l))) with
    | some (e, ch, i) =>
      let s := (s.cacheKey (ch / 4) (eKeysel e)).direct ch 2
      if write then
        let s := s.updHport h (fun p => { p with rxBytes := p.rxBytes + 64 })
        if mask = BitVec.allOnes 512 then (s.wrSectorErr ch i (eKeysel e) 2 data err).emit (.ack 0)
        else ((s.wrPartial ch i (eKeysel e) 2 data mask err).2).emit (.ack 0)
      else
        let t := s.rdSector ch i (eKeysel e) 2 err
        (t.2.2.updHport h (fun p => { p with txBytes := p.txBytes + 64 })).emit (.data t.1 t.2.1)
    | none =>
      let s := ({ s with sec := { s.sec with denyHost := s.sec.denyHost + 1 } }).secCode 0x040A
      if write then s.emit (.ack 0) else s.emit (.data 0 true)

def execHostviewAccess (h : HPort) (f : Func) (addr : Nat) (write : Bool) (data mask : BitVec 512) (ideTee : Bool) (err : ReadErr)
    (s : State) : Host.Outcome State Fault Refusal :=
  .next (s.hostview h.val f.val addr write data mask ideTee err)

/-! ## Debug (R349) -/

/-- A debug token: an accepted one tears every context down with PARTITION_RESET, marks DEBUG_USED, is journaled and sets
DEBUG_ACTIVE. -/
def State.debugToken (s : State) (valid : Bool) (n : Nat) : State :=
  if !valid ∨ n = 0 then s.secCode 0x040D
  else
    let s := s.each ((s.ctxs.filter (fun e => decide (e.2.st ≠ .free))).map (fun e => e.1)) (fun s x =>
      (s.startTeardown x 0x0201 Request.zero).finishTeardown x)
    let s := { s with sec := { s.sec with debugUsedBlown := true, debugActive := true, token := n } }
    (s.journal (.setting .debugToken n)).measureFuse

def execDebugToken (valid : Bool) (powerOns : Nat) (s : State) : Host.Outcome State Fault Refusal := .next (s.debugToken valid powerOns)

/-! ## Tenant counters (R347) -/

/-- The boundary of a 1 ms window: every counter is published, floored to a multiple of 1024, and the mean power to one of 50 W. -/
def State.tcPublish (s : State) : State :=
  { s with ctxs := Map.mapV {} (fun _ x => { x with pub := Map.mapV 0 (fun _ r => (r >>> 10) <<< 10) x.raw }) s.ctxs }

def execTcWindowUpdate (meanWatts : Nat) (s : State) : Host.Outcome State Fault Refusal :=
  let s := s.tcPublish
  .next { s with sec := { s.sec with tcPower := min 65535 meanWatts / 50 * 50 }, pwr := { s.pwr with watts := min 65535 meanWatts } }

end Sys2Proof.Machine
end

