-- ==== Sys2Proof/Machine/Meter.lean ====
section
/-!
DEFINITION. Commands of the metering die: its lines, records, journal, seal and oscillator (chapter 15).
-/

namespace Sys2Proof.Machine

/-! ## What the lines carry (R354 to R356) -/

/-- SCH has asked a composition to show idle: every context is QUIESCED or IDLE and no work is admitted (R312). -/
def State.idleAsked (s : State) (c : Nat) : Bool :=
  (s.ctxsOf c).all (fun x => match (s.ctx x).st with | .quiesced => true | .idle => true | _ => false) && (s.workOfComp c).isEmpty

/-- The 2-bit state, CID and generation a die line carries for a partition (assumption 232). -/
def State.lineOf (s : State) (p : Nat) : DieView :=
  let x := s.part p
  match x.st with
  | .bound =>
    let rest := (unitsOf p).all (fun u => (s.unit u).retired || (match (s.unit u).st with | .idle => true | .stopped => true | _ => false))
    { st := if s.idleAsked x.cid && rest && !(s.ctxsOf x.cid).isEmpty then 2 else 1, cid := x.cid, gen := (s.comp x.cid).gen }
  | _ => {}

/-- Whether a function of a port serves a composition (HOST_VF_ASSIGN.VALID, R319). -/
def State.hostHeld (s : State) (h c : Nat) : Bool :=
  s.host.fns.any (fun e => e.2.valid && e.2.cid == c && decide (e.1 / 256 = h))

/-- Whether a FAR range of a composition touches a granule of 1 GiB of a far port. -/
def State.granHeld (s : State) (d g c : Nat) : Bool :=
  s.xlt.slots.any (fun e =>
    let r := e.2.entry
    let t := eTarget r % 2 ^ 41
    decide (e.2.st ≠ .invalid ∧ eKind r = 1 ∧ eTarget r >>> 41 = d ∧ (s.ctx (e.1 / 4096)).cid = c ∧ t < 2 ^ 30 * (g + 1) ∧ 2 ^ 30 * g < t + eLen r))

/-! ## Tracking and events (R353, R360) -/

/-- The generation the pail knows a CID under: that of a partition showing it, or of an account it tracks. -/
def Pail.genOf (p : Pail) (c : Nat) : Word16 :=
  match p.parts.find? (fun e => decide (e.2.st ≠ 0 ∧ e.2.cid = c)) with
  | some e => e.2.gen
  | none => match p.accts.find? (fun e => e.2.tracked && decide (e.1 / 65536 = c)) with
    | some e => BitVec.ofNat 16 (e.1 % 65536)
    | none => 0

def acctKey (c : Nat) (g : Word16) : Nat := 65536 * c + g.toNat
def Pail.acct (p : Pail) (c : Nat) (g : Word16) : Acct := Map.get {} p.accts (acctKey c g)
def Pail.updAcct (p : Pail) (c : Nat) (g : Word16) (f : Acct → Acct) : Pail := { p with accts := Map.upd {} (acctKey c g) f p.accts }

/-- The pail keeps a chain: it is METERED, or its START record is being signed. -/
def Pail.recording (p : Pail) : Bool :=
  decide (p.st = .metered) || (match p.signing with | some r => decide (p.st = .starting) && r.kind == 3 | none => false)

def State.updPail (s : State) (f : Pail → Pail) : State := { s with pail := f s.pail }

/-- A change on a line: its CID is tracked, and it becomes an entry of the FIFO of 4096, or is counted in MERGED. -/
def State.pailEvent (s : State) (c : Nat) (g : Word16) (source event gran : Nat) : State :=
  if !s.pail.recording then s
  else
    let s := s.updPail (fun p => p.updAcct c g (fun a => { a with tracked := true }))
    if s.pail.fifo.length < 4096 then
      s.updPail (fun p => { p with fifo := p.fifo ++ [.event c g source event gran p.time] })
    else
      let first := !s.pail.coalescing
      let s := s.updPail (fun p => { p with merged := p.merged + 1, coalescing := true })
      if first then s.mtrCode 0x0807 else s

/-- A partition's state as a valid frame brings it. -/
def State.pailPart (s : State) (n : Nat) (v : DieView) : State :=
  let o := Map.get {} s.pail.parts n
  let s := s.updPail (fun p => { p with parts := Map.set {} n v p.parts })
  let same := decide (o.cid = v.cid ∧ o.gen = v.gen)
  let s := if o.st ≠ 0 ∧ (v.st = 0 ∨ !same) then s.pailEvent o.cid o.gen n 2 0 else s
  let s := if v.st ≠ 0 ∧ (o.st = 0 ∨ !same) then s.pailEvent v.cid v.gen n 1 0 else s
  if v.st = 2 ∧ (o.st ≠ 2 ∨ !same) then s.pailEvent v.cid v.gen n 3 0
  else if o.st = 2 ∧ v.st = 1 ∧ same then s.pailEvent v.cid v.gen n 4 0 else s

/-- A die-line frame, which carries the full state of the die: a frame with DOWN shows four UNBOUND partitions, and one whose CRC
fails is no frame. It ends the loss of the line (R357). -/
def State.dieFrame (s : State) (d : Nat) (down crcOk : Bool) : State :=
  if !crcOk ∨ s.pail.st = .absent then s
  else
    let s := s.updPail (fun p => { p with lineLost := clrBit p.lineLost d })
    s.each (List.range 4) (fun s q => s.pailPart (4 * d + q) (if down then {} else s.lineOf (4 * d + q)))

def execDieLineFrame (d : Fin 16) (down : Bool) (crcOk : Bool) (s : State) : Host.Outcome State Fault Refusal :=
  .next (s.dieFrame d.val down crcOk)

/-- One bit of a port line's state changes: GRANT or RELEASE. -/
def State.pailBit (s : State) (host : Bool) (key c source gran : Nat) (v : Bool) : State :=
  let o := Map.get false (if host then s.pail.hosts else s.pail.grans) key
  if o = v then s
  else
    let s := s.updPail (fun p =>
      if host then { p with hosts := Map.set false key v p.hosts } else { p with grans := Map.set false key v p.grans })
    s.pailEvent c (s.pail.genOf c) source (if v then 5 else 6) gran

/-- A port-line frame: row 2048 is the host map, and a smaller row the CIDs of a granule. The last granule row completes a full
state and ends the loss of the line (assumption 60). -/
def State.portFrame (s : State) (i row : Nat) (crcOk : Bool) : State :=
  if !crcOk ∨ s.pail.st = .absent then s
  else if row = 2048 then
    s.each (List.range 256) (fun s c => s.pailBit true (256 * i + c) c (64 + i) 0 (s.hostHeld i c))
  else if row < 2048 then
    let s := s.each (List.range 256) (fun s c => s.pailBit false (256 * (2048 * i + row) + c) c (68 + i) row (s.granHeld i row c))
    if row = 2047 then s.updPail (fun p => { p with lineLost := clrBit p.lineLost (16 + i) }) else s
  else s

def execPortLineFrame (i : Fin 4) (row : Nat) (crcOk : Bool) (s : State) : Host.Outcome State Fault Refusal :=
  .next (s.portFrame i.val row crcOk)

/-- A line is lost: the pail goes on with its last state (R357). -/
def execLineLost (line : Fin 20) (s : State) : Host.Outcome State Fault Refusal :=
  .next (if s.pail.st = .absent then s
    else (s.updPail (fun p => { p with lineLost := setBit p.lineLost line.val, lostSince := true })).mtrCode 0x0804)

/-! ## Accumulators (R353, R355) -/

/-- Partitions that show a composition, and those of them that show BOUND. -/
def Pail.showing (p : Pail) (c : Nat) (g : Word16) : Nat := (p.parts.filter (fun e => decide (e.2.st ≠ 0 ∧ e.2.cid = c ∧ e.2.gen = g))).length
def Pail.metering (p : Pail) (c : Nat) (g : Word16) : Nat := (p.parts.filter (fun e => decide (e.2.st = 1 ∧ e.2.cid = c ∧ e.2.gen = g))).length
/-- Every partition that shows the composition shows BOUND_IDLE. -/
def Pail.paused (p : Pail) (c : Nat) (g : Word16) : Bool := decide (p.metering c g = 0)

/-- Adds one microsecond to the accumulators of a composition (Table 15.1). -/
def Pail.accrue (p : Pail) (k : Nat) (a : Acct) : Acct :=
  let c := k / 65536
  let g := BitVec.ofNat 16 (k % 65536)
  if !a.tracked || p.paused c g then a
  else
    let n := p.metering c g
    let now := decide (p.genOf c = g)
    let far := if now then (p.grans.filter (fun e => decide (e.1 % 256 = c))).length else 0
    let port := if now then (p.hosts.filter (fun e => decide (e.1 % 256 = c))).length else 0
    { a with part := a.part + BitVec.ofNat 64 n, loc := a.loc + BitVec.ofNat 64 (60 * n),
             far := a.far + BitVec.ofNat 64 far, port := a.port + BitVec.ofNat 64 port }

/-- A microsecond of pail time, and of time outside METERED (R353, R364). -/
def Pail.tick (p : Pail) : Pail :=
  let p := if p.st = .metered then p else { p with unmeteredUs := p.unmeteredUs + 1 }
  if p.st = .absent then p
  else
    let p := { p with time := p.time + 1 }
    if p.recording then { p with accts := p.accts.map (fun e => (e.1, p.accrue e.1 e.2)) } else p

/-! ## Records (R358 to R360) -/

/-- The CID entry of an account. -/
def Pail.cidEntry (p : Pail) (k : Nat) : MEntry :=
  let c := k / 65536
  let g := BitVec.ofNat 16 (k % 65536)
  let a := Map.get {} p.accts k
  let q (i : Nat) (v : Word64) : Word64 := if has a.quantities i then v else 0
  .cid c g a.profile a.quantities (b2n (p.paused c g) + fld 1 (b2n a.labelled)) a.contract (q 0 a.part) (q 1 a.loc) (q 2 a.far) (q 3 a.port)

/-- The 64 bytes of an entry (Table 15.3). -/
def MEntry.bytes (e : MEntry) : List Byte :=
  match e with
  | .cid c g p q f k a l r o => leBytes 1 1 ++ leBytes c 1 ++ leBytes g.toNat 2 ++ leBytes p 2 ++ leBytes q 1 ++ leBytes f 1 ++
      leBytes k.toNat 16 ++ leBytes a.toNat 8 ++ leBytes l.toNat 8 ++ leBytes r.toNat 8 ++ leBytes o.toNat 8 ++ leBytes 0 8
  | .event c g s v n t => leBytes 2 1 ++ leBytes c 1 ++ leBytes g.toNat 2 ++ leBytes s 1 ++ leBytes v 1 ++ leBytes n 2 ++
      leBytes t.toNat 8 ++ leBytes 0 48
  | .gap a b => leBytes 3 1 ++ leBytes 0 7 ++ leBytes a 8 ++ leBytes b 8 ++ leBytes 0 40

/-- The header and the entries of a record, which its digest covers (Table 15.2). -/
def recBytes (kind flags seq : Nat) (time : Word64) (serial : Word64) (es : List MEntry) (merged : Nat) (prev : Digest) : List Byte :=
  leBytes 0x4D545250 4 ++ leBytes 1 2 ++ leBytes kind 1 ++ leBytes flags 1 ++ leBytes seq 8 ++ leBytes time.toNat 8 ++
  leBytes Config.modSerial.toNat 8 ++ leBytes serial.toNat 8 ++ leBytes es.length 4 ++ leBytes merged 4 ++ octetsOf prev ++
  leBytes 0 32 ++ es.flatMap MEntry.bytes

/-- Bytes of a record in the flash, with its signature block. -/
def MRec.size (r : MRec) : Nat := 128 + 64 * r.entries.length + 16640

/-- Closes a record and begins to sign it. -/
def Pail.close (p : Pail) (kind : Nat) (es : List MEntry) (merged : Nat) (coalesced : Bool) : Pail :=
  let missing := es.any (fun e => match e with
    | .cid c g .. => (p.acct c g).labelMissing
    | _ => false)
  let flags := b2n coalesced + fld 1 (b2n (decide (p.lineLost ≠ 0) || p.lostSince)) + fld 2 (b2n missing) + fld 3 (b2n p.oscFault)
  let seq := if kind = 3 then 1 else p.seq + 1
  let prev := if kind = 3 then 0 else p.lastDigest
  { p with
    signing := some { kind := kind, flags := flags, seq := seq, time := p.time, entries := es, merged := merged, prev := prev,
                      digest := Config.sha384 (recBytes kind flags seq p.time (Config.pailSerial p.fitted) es merged prev) },
    lostSince := decide (p.lineLost ≠ 0) }

/-- A PERIODIC record: one CID entry for each composition tracked. -/
def Pail.closePeriodic (p : Pail) : Pail :=
  { p.close 1 ((p.accts.filter (fun e => e.2.tracked)).map (fun e => p.cidEntry e.1)) 0 false with periodicDue := false }

/-- Due while a record is being signed, it closes next. -/
def execPeriodicClose (s : State) : Host.Outcome State Fault Refusal :=
  .next (if s.pail.st ≠ .metered then s
    else match s.pail.signing with
      | some _ => s.updPail (fun p => { p with periodicDue := true })
      | none => s.updPail Pail.closePeriodic)

/-- The account an entry names. -/
def MEntry.key (e : MEntry) : Option Nat :=
  match e with | .cid c g .. => some (acctKey c g) | .event c g .. => some (acctKey c g) | .gap .. => none

/-- A composition is tracked no more once its last partition and every grant are gone. -/
def Pail.untrack (p : Pail) (k : Nat) : Pail :=
  let c := k / 65536
  let g := BitVec.ofNat 16 (k % 65536)
  let held := p.genOf c == g && (p.grans.any (fun e => e.1 % 256 == c) || p.hosts.any (fun e => e.1 % 256 == c))
  if p.showing c g = 0 ∧ held = false then p.updAcct c g (fun a => { a with tracked := false }) else p

/-- An EVENT record: the queued entries, then a CID entry for each CID they name. -/
def Pail.closeEvent (p : Pail) : Pail :=
  let ks := (p.fifo.filterMap MEntry.key).eraseDups
  let q := p.close 2 (p.fifo ++ ks.map p.cidEntry) p.merged (decide (0 < p.merged))
  ks.foldl Pail.untrack { q with fifo := [], merged := 0, coalescing := false }

def execEventClose (s : State) : Host.Outcome State Fault Refusal :=
  .next (if s.pail.st ≠ .metered ∨ s.pail.fifo.isEmpty then s
    else match s.pail.signing with
      | some _ => s
      | none => s.updPail (fun p => if p.periodicDue then p.closePeriodic else p.closeEvent))

/-- The record being signed is appended to the journal. A START record makes the pail METERED. -/
def State.pailDurable (s : State) : State :=
  match s.pail.signing with
  | none => s
  | some r =>
    let s := s.updPail (fun p => { p with
      signing := none, records := p.records ++ [r], used := p.used + r.size, seq := r.seq, lastDigest := r.digest })
    let s := if r.kind = 3 then ((s.updPail (fun p => { p with st := .metered })).mtrCode 0x080A).measureMeter else s
    if s.pail.periodicDue then s.updPail Pail.closePeriodic else s

def execRecordDurable (s : State) : Host.Outcome State Fault Refusal := .next s.pailDurable

/-! ## Labels (R359) -/

def execLabelReceive (c : CidT) (s : State) : Host.Outcome State Fault Refusal :=
  let b := frmBody (s.comp c.val).frames 13 0
  .next (if s.pail.st = .absent ∨ (s.comp c.val).st = .free then s
    else s.updPail (fun p => p.updAcct c.val (s.comp c.val).gen (fun a => { a with
      labelled := true, labelMissing := false, profile := fle b 0 2, quantities := fle b 2 1, contract := BitVec.ofNat 128 (fle b 8 16) })))

def execLabelTimeout (c : CidT) (s : State) : Host.Outcome State Fault Refusal :=
  let g := s.pail.genOf c.val
  let a := s.pail.acct c.val g
  .next (if s.pail.st = .absent ∨ !a.tracked ∨ a.labelled then s
    else (s.updPail (fun p => p.updAcct c.val g (fun a => { a with labelMissing := true }))).mtrCode 0x0808)

/-! ## The pail's journal (R361 to R363) -/

/-- 75 % of a half of 512 MiB. -/
def pailLimit : Nat := 3 * 2 ^ 27
def recsSize (l : List MRec) : Nat := l.foldl (fun n r => n + r.size) 0

/-- The PERIODIC records that thinning drops: those followed by a later one, but for one in every 60 (assumption 59). -/
def thinDrops (l : List MRec) : List Nat :=
  let ps := (l.filter (fun r => r.kind == 1)).map (fun r => r.seq)
  (ps.dropLast.zipIdx.filter (fun e => decide (e.2 % 60 ≠ 0))).map (fun e => e.1)

/-- The oldest records go until the rest fits. -/
def dropOldest (l : List MRec) : List Nat × List MRec :=
  match l with
  | [] => ([], [])
  | r :: t => if recsSize (r :: t) ≤ pailLimit then ([], r :: t) else let d := dropOldest t; (r.seq :: d.1, d.2)

/-- The ranges a rising list of SEQs makes. -/
def gapsOf (l : List Nat) : List (Nat × Nat) :=
  l.foldl (fun acc n => match acc.getLast? with
    | some g => if g.2 + 1 = n then acc.dropLast ++ [(g.1, n)] else acc ++ [(n, n)]
    | none => [(n, n)]) []

/-- At 75 % the records above MTR_ACK go to the other half, thinned when they still fill 75 % of it. It waits for a record being
signed. -/
def State.pailCompact (s : State) : State :=
  let p := s.pail
  if p.st ≠ .metered ∨ p.used < pailLimit ∨ p.signing.isSome then s
  else
    let l := p.records.filter (fun r => decide (p.ack < r.seq))
    if recsSize l ≤ pailLimit then s.updPail (fun p => { p with records := l, used := recsSize l, thinning := false })
    else
      let d := thinDrops l
      let t := dropOldest (l.filter (fun r => !d.contains r.seq))
      let gone := (l.map (fun r => r.seq)).filter (fun n => d.contains n || t.1.contains n)
      let s := s.updPail (fun p => { p with records := t.2, used := recsSize t.2, thinning := true })
      (s.updPail (fun p => p.close 4 ((gapsOf gone).map (fun g => MEntry.gap g.1 g.2)) 0 false)).mtrCode 0x0806

def execPailCompaction (s : State) : Host.Outcome State Fault Refusal := .next s.pailCompact

/-- MTR_ACK: a value below the present one or above MTR_SEQ is ignored. -/
def execMtrAck (value : Word64) (s : State) : Host.Outcome State Fault Refusal :=
  .next (if s.pail.ack ≤ value.toNat ∧ value.toNat ≤ s.pail.seq then s.updPail (fun p => { p with ack := value.toNat }) else s)

/-! ## Pail states (R364 to R366) -/

/-- The pail takes a state with a code; a departure from METERED is counted, and measurement block 16 follows. -/
def State.pailTo (s : State) (st : PailSt) (code : Nat) : State :=
  let s := s.updPail (fun p => { p with
    st := st, gaps := if p.st = .metered then sat 0xFFFFFFFF (p.gaps + 1) else p.gaps, signing := none, periodicDue := false, fifo := [],
    merged := 0, coalescing := false })
  (s.mtrCode code).measureMeter

/-- The sub-carrier is removed: what the pail held goes with it. -/
def execMdPresentFall (s : State) : Host.Outcome State Fault Refusal :=
  .next (if !s.pail.present then s
    else (s.updPail (fun p => { st := p.st, lastCode := p.lastCode, gaps := p.gaps, unmeteredUs := p.unmeteredUs, fitted := p.fitted,
                                sel := p.sel })).pailTo .absent 0x0801 |>.setDom domMeter false)

/-- Another pail is seated. Its time since certification is its own: a free value (assumption 3). -/
def execMdPresentRise (s : State) : Host.Outcome State Fault Refusal :=
  let d := s.draw
  .next (if s.pail.present then s
    else (d.2.setDom domMeter true).updPail (fun p => { p with st := .starting, present := true, fitted := p.fitted + 1, time := d.1 }))

/-- A chain begins: accumulators at zero, and a START record of what the lines report. The records of the chain before stay in the flash
(R366, assumption 233). -/
def Pail.startChain (p : Pail) : Pail :=
  let p := { p with st := .starting, earlier := p.earlier ++ p.records, accts := [], fifo := [], merged := 0, coalescing := false, seq := 0, ack := 0, lastDigest := 0,
                    records := [], used := 0, unsealed := false, sealOpen := false }
  let es := (p.parts.filter (fun e => decide (e.2.st ≠ 0))).map (fun e => MEntry.event e.2.cid e.2.gen e.1 7 0 p.time) ++
    p.hosts.map (fun e => MEntry.event (e.1 % 256) (p.genOf (e.1 % 256)) (64 + e.1 / 256) 7 0 p.time) ++
    p.grans.map (fun e => MEntry.event (e.1 % 256) (p.genOf (e.1 % 256)) (68 + e.1 / 256 / 2048) 7 (e.1 / 256 % 2048) p.time)
  let ks := (es.filterMap MEntry.key).eraseDups
  let p := ks.foldl (fun p k => p.updAcct (k / 65536) (BitVec.ofNat 16 (k % 65536)) (fun a => { a with tracked := true })) p
  p.close 3 (es ++ ks.map p.cidEntry) 0 false

/-- Limits of an oscillator disagreement, in ppm: OSC_FAULT above the first, FAULT above the second (R364). -/
def State.oscBand (s : State) : Nat × Nat := if s.boot.intRef then (70, 150) else (20, 100)

def execPailSelfTestDone (passed : Bool) (oscPpm : Nat) (s : State) : Host.Outcome State Fault Refusal :=
  .next (if s.pail.st ≠ .starting ∨ s.pail.signing.isSome then s
    else if !passed ∨ s.oscBand.2 < oscPpm then s.pailTo .fault 0x0802
    else if s.pail.unsealed ∨ s.pail.sealOpen then s.pailTo .unsealed 0x0803
    else s.updPail (fun p => { p with oscFault := decide (s.oscBand.1 < oscPpm) }.startChain))

/-- The seal opens: a record being signed is abandoned, and nothing further is written. -/
def execSealOpen (s : State) : Host.Outcome State Fault Refusal :=
  .next (if s.pail.st = .absent then s
    else (s.updPail (fun p => { p with sealOpen := true, unsealed := true })).pailTo .unsealed 0x0803)

/-- A valid SEAL token clears UNSEALED and begins a new chain. -/
def execSealToken (valid : Bool) (s : State) : Host.Outcome State Fault Refusal :=
  .next (if s.pail.st = .absent then s
    else if !valid then s.mtrCode 0x0809
    else if s.pail.st = .unsealed then s.updPail Pail.startChain
    else s)

/-- A disagreement with the reference in use that has lasted 1 s. -/
def execOscCheck (ppm : Nat) (s : State) : Host.Outcome State Fault Refusal :=
  .next (if s.pail.st ≠ .metered then s
    else if s.oscBand.2 < ppm then s.pailTo .fault 0x0802
    else if s.oscBand.1 < ppm then (s.updPail (fun p => { p with oscFault := true })).mtrCode 0x0805
    else s.updPail (fun p => { p with oscFault := false }))

end Sys2Proof.Machine
end

