-- ==== Sys2Proof/Machine/Power.lean ====
section
/-!
DEFINITION. Commands of power and thermal control: the input, rails, gating, clocks, ageing, caps, junctions and coolant (chapter 16).
-/

namespace Sys2Proof.Machine

/-! ## Gating (R375, R376) -/

/-- FREE partitions in ascending number. -/
def State.freeParts (s : State) : List Nat := (s.parts.filter (fun e => decide (e.2.st = .free))).map (fun e => e.1)
/-- How many FREE partitions are powered, and whether p is among the WARM lowest-numbered FREE ones. -/
def State.warmCount (s : State) : Nat := (s.freeParts.filter (fun p => (s.part p).logicOn)).length
def State.warmOne (s : State) (p : Nat) : Bool := decide ((s.freeParts.filter (fun q => decide (q < p))).length < s.pwr.warm)

/-- The PWR core runs: while it restarts or is halted, what it controls holds (Table 18.1). -/
def State.pwrRuns (s : State) : Bool := decide ((s.coreS 9).st = .running)

/-- Every FREE partition is gated, ignoring WARM: step 4 of R383 applies, by the cap or by T_crit (R385). -/
def State.gatesAll (s : State) : Bool := decide (4 ≤ s.pwr.step) || s.pwr.crit

def execGateFreePartition (p : PartId) (s : State) : Host.Outcome State Fault Refusal :=
  .next (if s.pwrRuns ∧ (s.gatesAll ∨ s.pwr.warm < s.warmCount ∧ !s.warmOne p.val) then s.gateOff p.val else s)

def execWarmPowerUp (p : PartId) (s : State) : Host.Outcome State Fault Refusal :=
  .next (if s.pwrRuns ∧ (s.part p.val).st = .free ∧ s.warmOne p.val ∧ !s.gatesAll ∧ s.railsOk p.val then s.powerUp p.val else s)

/-- A write to WARM; a value above 64 keeps the one before. It is journaled (R420). -/
def State.warmWrite (s : State) (v : Nat) : State :=
  if v ≤ 64 then ({ s with pwr := { s.pwr with warm := v } }).journal (.setting .warm v) else s

def execPwrGateCtlWrite (value : Word32) (s : State) : Host.Outcome State Fault Refusal := .next (s.warmWrite (bits value 6 0))

/-! ## Skim parking (R257, Table 10.3) -/

/-- Each skim context with no admitted work is saved and becomes PARKED, with the end of its last save. -/
def State.parkSkim (s : State) : State :=
  let xs := (s.ctxs.filter (fun e => e.2.skim && (match e.2.st with | .idle => true | .waiting => true | .running => true | _ => false))).map
    (fun e => e.1)
  let s := { s with sch := { s.sch with park := true } }
  s.each (xs.filter (fun x => (s.workOfCtx x).isEmpty)) (fun s x =>
    let s := s.saveCtx x
    match (s.ctx x).st with
    | .idle => s.ctxIdle x
    | .waiting => s.ctxIdle x
    | _ => s)

/-- The actuator is withdrawn. -/
def State.unpark (s : State) : State :=
  { s with sch := { s.sch with park := false }, ctxs := Map.mapV {} (fun x k =>
      if k.st = .parked then { k with st := if (s.workOfCtx x).isEmpty then .idle else .waiting } else k) s.ctxs }

/-! ## Caps (R382 to R384) -/

/-- The fall of a partition's islands by one 25 MHz step, never below a floor. -/
def State.lowerPart (s : State) (p floor : Nat) : State :=
  s.each (unitsOf p) (fun s u => s.updIsl u (fun i => { i with set := if floor + 25 ≤ i.set then i.set - 25 else min i.set (max floor i.set) }))

/-- Whether a partition's islands stand above a floor. -/
def State.aboveHold (s : State) (p : Nat) : Bool := (unitsOf p).any (fun u => decide (s.holdOf p + 25 ≤ (s.isl u).set))

/-- What a bound partition runs: 0 skim work, 1 nothing, 2 cream work. -/
def State.runsWhat (s : State) (p : Nat) : Nat :=
  match s.stageOfPart p with
  | none => 1
  | some (c, g) => match (s.stage c g).work.bind s.work with | none => 1 | some w => if w.skim then 0 else 2

/-- One notch of step 2: the islands that run skim work, then idle ones, then those that run cream work. A multi-module composition that
falls below its agreed frequency offers the new value (R384). -/
def State.lowerNotch (s : State) : State :=
  let ps := s.boundParts.filter s.aboveHold
  match [0, 1, 2].find? (fun k => ps.any (fun p => s.runsWhat p == k)) with
  | none => s
  | some k =>
    let hit := ps.filter (fun p => s.runsWhat p == k)
    let t := s.each hit (fun s p => s.lowerPart p (s.holdOf p))
    t.each ((hit.map (fun p => (s.part p).cid)).eraseDups) (fun t c =>
      if (t.job c).st = .formed ∧ (s.comp c).members.any (fun p => decide ((t.isl (uEng p 0)).set < (t.job c).mhz)) then t.freqRound c else t)

/-- Applies step n of R383 beside those before it. -/
def State.applyStep (s : State) (n : Nat) : State :=
  let s := { s with pwr := { s.pwr with step := n, stepAt := s.now } }
  match n with
  | 1 => s.each (s.freeParts.filter (fun p => (s.part p).logicOn)) (fun s p => s.setClock p 400 1)
  | 2 => s.lowerNotch
  | 3 => s.parkSkim
  | 4 => s.each s.freeParts (fun s p => s.gateOff p)
  | 5 => { s with sch := { s.sch with refuseAll := true } }
  | _ => s

/-- Withdraws step n. -/
def State.dropStep (s : State) (n : Nat) : State :=
  let s := { s with pwr := { s.pwr with step := n - 1 } }
  match n with
  | 2 => s.each s.boundParts (fun s p => (s.runClock p).runAgreed (s.part p).cid)
  | 3 => if s.pwr.crit then s else s.unpark
  | 5 => if s.pwr.crit then s else { s with sch := { s.sch with refuseAll := false } }
  | _ => s

/-- The comparison of the mean input power with the effective cap. Above it, step 2 goes on by notches, and the next step follows once
those applied have had 1 ms; below 95 % of it for 100 ms, the steps are withdrawn in reverse order. While the PWR core does
not run everything holds (Table 18.1). -/
def State.capCheck (s : State) (watts : Nat) : State :=
  let s := { s with pwr := { s.pwr with watts := min 65535 watts } }
  let cap := s.capEff
  if !s.pwrRuns then s
  else if cap < watts then
    let s := { s with pwr := { s.pwr with lowSince := none } }
    if 2 ≤ s.pwr.step ∧ s.boundParts.any s.aboveHold = true then ({ s with pwr := { s.pwr with stepAt := s.now } }).lowerNotch
    else if s.pwr.step = 0 ∨ s.pwr.step < 6 ∧ s.pwr.stepAt + 1000000 ≤ s.now then s.applyStep (s.pwr.step + 1)
    else s
  else if 100 * watts < 95 * cap then
    match s.pwr.lowSince with
    | none => { s with pwr := { s.pwr with lowSince := some s.now } }
    | some t =>
      if t + 100000000 ≤ s.now ∧ 0 < s.pwr.step then ({ s with pwr := { s.pwr with lowSince := some s.now } }).dropStep s.pwr.step else s
  else { s with pwr := { s.pwr with lowSince := none } }

def execCapCheck (watts : Nat) (s : State) : Host.Outcome State Fault Refusal := .next (s.capCheck watts)

/-- A write to PWR_CAP takes the nearer limit of 1000 to 11 500 W and is journaled; a live floor above it is reported. -/
def State.capWrite (s : State) (v : Nat) : State :=
  let w := max 1000 (min 11500 v)
  let s := ({ s with pwr := { s.pwr with cap := w } }).journal (.setting .pwrCap w)
  if w < s.pFloor then s.pwrCode 0x050B 0 else s

def execPwrCapWrite (value : Word32) (s : State) : Host.Outcome State Fault Refusal := .next (s.capWrite (bits value 15 0))

/-! ## The input (R370 to R372) -/

/-- Every host port, far port and fabric port loses its PHY domain: links go down, and generations advance (R263, R211). -/
def State.phyOff (s : State) : State :=
  let s := s.each (List.range 4) (fun s h => s.linkDown h)
  let s := s.each (List.range 4) (fun s d => if (s.farP d).st = .down then s else s.farLeave d)
  let s := s.each (List.range 32) (fun s f => if (s.fport f).st = .down then s else (s.fabLeave f).updFport f (fun x => { x with st := .down }))
  s.each (List.range 4) (fun s i => s.setPhys i false)

/-- Rails of the compute dies, or all but VSTBY, go off; a shorted one stays so. -/
def State.railsOff (s : State) (n : Nat) : State :=
  s.each (List.range n) (fun s r => s.updRail r (fun x => if x.st = .shorted then x else { x with st := .off, raise_ := 0 }))

/-- Every compute die sends a frame with DOWN on its die line (R354, R372, R386, R399). -/
def State.linesDown (s : State) : State := s.each (List.range 16) (fun s d => s.dieFrame d true true)

/-- The 144 domains of the compute dies go off, the router domains last (R375), and then their rails; each die sends DOWN before. What the routers and the memory of a
DEGRADED partition held is lost. -/
def State.domainsOff (s : State) : State :=
  let s := s.linesDown.each (List.range 64) (fun s p =>
    let s := s.each (List.range 8) (fun s k => s.updChan (8 * p + k) (fun c => c.restart .off))
    (s.updPart p (fun x => { x with logicOn := false, retOn := false })).setClock p 0 0)
  let s := s.each (List.range 16) (fun s d => s.routersOff d)
  ({ s with boot := { s.boot with computeOn := false } }).railsOff 64

/-- Every partition of the compute dies goes to OFFLINE with its work discarded, and the compute-die domains go off (R386). A DEGRADED
partition leaves that state only at a module reset (Table 1.8), or as the input is lost (R372 step 2). -/
def State.computeOff (s : State) (hold : Option PHold) (degraded ladle : Bool) (cause : Nat) : State :=
  let ps := (s.parts.filter (fun e => decide (e.2.st ≠ .offline) && (degraded || decide (e.2.st ≠ .degraded)))).map (fun e => e.1)
  let s := s.each ps (fun s p => s.takeOffline p 0x0201 cause ladle)
  let s := match hold with
    | none => s
    | some h => s.each ps (fun s p => s.updPart p (fun x => x.addHold h))
  s.domainsOff

/-- The input-loss sequence. The loss and the generations it advances are in its one further commit. -/
def State.inputLoss (s : State) (cond code : Nat) : State :=
  if s.pwr.inputLost ∨ s.boot.phase = .standby then s
  else
    let s := s.pwrCode code 0
    let s := s.sendNodeDown
    let s := (s.computeOff none true false 9).phyOff
    let s := s.railsOff 68
    let s := s.journal (.loss cond code)
    let s := { s with pwr := { s.pwr with inputLost := true, mainOn := false }, boot := { s.boot with pwrgd := false, needReset := true } }
    s.emit (.pin 1 0 false)

def execInputUndervolt (s : State) : Host.Outcome State Fault Refusal := .next (s.inputLoss 1 0x0501)
def execInputOvervolt (s : State) : Host.Outcome State Fault Refusal := .next (s.inputLoss 2 0x0502)

/-- Service goes on; the excursion is reported. -/
def execInputHigh (s : State) : Host.Outcome State Fault Refusal := .next (s.pwrCode 0x0510 0)

/-- Every unit island of a powered partition goes to its hold clock, or to 400 MHz at pulse rate 1/8 when it has none. -/
def execInputOvercurrent (s : State) : Host.Outcome State Fault Refusal :=
  let ps := (s.parts.filter (fun e => e.2.logicOn)).map (fun e => e.1)
  .next ((s.each ps (fun s p => if s.holdOf p = 0 then s.setClock p 400 1 else s.setClock p (s.holdOf p) 8)).pwrCode 0x050C 0)

/-- The standby converter stops: the management domains go off, their cores halt and what is not durable is lost; the next start is a cold power-on. -/
def State.standbyStop (s : State) : State :=
  if !s.pwr.inputLost then s
  else
    let s := s.each (List.range 4) (fun s i => s.setDom (domMgmt i) false)
    { s with
      pwr := { s.pwr with standby := false }, boot := { s.boot with phase := .standby }
      jrn := { s.jrn with writer := 0, waiting := [], compacting := false }
      fw := { s.fw with cores := Map.mapV {} (fun i x => if s.domOn (domMgmt (coreDie i)) then x else { x with st := .halted }) s.fw.cores } }

def execStandbyStop (s : State) : Host.Outcome State Fault Refusal := .next s.standbyStop

/-! ## Rails (R374, Table 16.6) -/

/-- Partitions that a compute-die rail feeds. -/
def railParts (r : Nat) : List Nat := if r < 64 then (List.range 4).map (fun q => 4 * (r % 16) + q) else []

/-- A shorted rail stops. The partitions it feeds are reset with CAUSE 9 and fail their retest; an I/O rail takes the ports of its die down
and MOD_PWRGD with it; VSTBY takes the management domains. -/
def State.railShort (s : State) (r : Nat) : State :=
  if (s.rail r).st = .shorted then s
  else
    let s := (s.updRail r (fun x => { x with st := .shorted })).pwrCode 0x0505 r
    let s := s.each (railParts r) (fun s p =>
      let s := if (s.part p).st = .offline ∨ (s.part p).st = .degraded then s else s.partStep p 0x0201 9 s.now 0 false
      (s.updPart p (fun x => { x with logicOn := false, retOn := false })).setClock p 0 0)
    let s := if 16 ≤ r ∧ r < 32 then s.routersOff (r - 16) else s
    if r < 64 then s
    else if r < 68 then
      let i := r - 64
      let s := s.linkDown i
      let s := if (s.farP i).st = .down then s else s.farLeave i
      let s := s.each ((List.range 8).map (fun j => 8 * i + j)) (fun s f =>
        if (s.fport f).st = .down then s else (s.fabLeave f).updFport f (fun x => { x with st := .down }))
      let s := s.setPhys i false
      ({ s with boot := { s.boot with pwrgd := false } }).emit (.pin 1 0 false)
    else (s.inputLoss 1 0x0505).standbyStop

def execRailShort (rail : Fin 69) (s : State) : Host.Outcome State Fault Refusal := .next (s.railShort rail.val)

/-- A phase is isolated. A VCORE rail below 9 phases, or whose die limit the hold clocks exceed, is handled as a rail short. -/
def State.phaseShort (s : State) (r : Nat) : State :=
  let s := (s.updRail r (fun x => { x with phasesOut := x.phasesOut + 1, st := if x.st = .shorted then .shorted else .derated })).pwrCode 0x0504 r
  if r < 16 ∧ (7 < (s.rail r).phasesOut ∨ s.dieLimit r < s.dieHeld r) then s.railShort r else s

def execPhaseShort (rail : Fin 69) (s : State) : Host.Outcome State Fault Refusal := .next (s.phaseShort rail.val)

/-- The islands on a rail: the unit islands of a die for VCORE, and its half-planes for VRTR. -/
def railIslands (r : Nat) : List Nat :=
  if r < 16 then (List.range 244).map (fun k => 244 * r + k) else if r < 32 then [3904 + 2 * (r - 16), 3905 + 2 * (r - 16)] else []

/-- The hold clock of an island, 0 when it is not held. -/
def State.islHold (s : State) (i : Nat) : Nat := if i < 3904 then s.holdOf (i / 61) else 0

/-- The lowest set clock of an island: its hold clock, and 1 GHz for a router half-plane that runs (R106, R379). -/
def State.islMin (s : State) (i : Nat) : Nat := if 3904 ≤ i ∧ i < 3936 then 1000 else s.islHold i

/-- The rail goes on by local sense, and its islands are capped at 90 % of FMAX, but never below a hold clock or the 1 GHz of a router half-plane. -/
def execSenseOpen (rail : Fin 69) (s : State) : Host.Outcome State Fault Refusal :=
  let s := (s.updRail rail.val (fun x => { x with st := if x.st = .shorted then .shorted else .localSense })).pwrCode 0x0506 rail.val
  .next (s.each (railIslands rail.val) (fun s i =>
    s.updIsl i (fun x => { x with set := min x.set (max (s.islMin i) (s.fmaxOf i * 9 / 10 / 25 * 25)) })))

/-! ## Temperature sensors (R374) -/

/-- The two-current test of a sensor. A partition left with no valid sensor runs at its hold clocks. -/
def State.sensorTest (s : State) (i : Nat) (t : SensorTest) : State :=
  match t with
  | .good => s.updIsl i (fun x => { x with sensorFault := false })
  | r =>
    let s := (s.updIsl i (fun x => { x with sensorFault := true })).pwrCode (match r with | .openWire => 0x0507 | _ => 0x0508) i
    if i < 3904 ∧ s.sensorless (i / 61) = true ∧ s.holdOf (i / 61) ≠ 0 then
      s.setClock (i / 61) (s.holdOf (i / 61)) 8
    else s

def execTsensorTest (isl : Fin 4185) (result : SensorTest) (s : State) : Host.Outcome State Fault Refusal :=
  .next (s.sensorTest isl.val result)

def execInletHot (s : State) : Host.Outcome State Fault Refusal := .next (s.pwrCode 0x050F 0)

/-! ## Ageing (R378) -/

/-- An FMAX falls: it is journaled and reported, an island's clock follows it, and a unit below 1600 MHz is retired for good. -/
def State.lowerFmax (s : State) (i v : Nat) : State :=
  let s := s.updIsl i (fun x => { x with fmax := some v, deferred := none, set := min x.set (if 3904 ≤ i ∧ i < 3936 then max 1000 v else v) })
  let s := (s.journal (.fmax i v)).pwrCode 0x050D i
  if i < 3904 ∧ v < 1600 then s.retireUnit i true 6 else s

/-- The hourly reading of an ageing monitor: FMAX becomes the measured maximum less 50 MHz, rounded down to 25 MHz, when that is lower. One
that would fall below the hold clock of a BOUND partition waits. -/
def State.ageing (s : State) (i mhz : Nat) : State :=
  let v := (mhz - 50) / 25 * 25
  if 3936 ≤ i ∨ s.pwrRuns = false ∨ s.fmaxOf i ≤ v then s
  else if v < s.islHold i then s.updIsl i (fun x => { x with deferred := some (match x.deferred with | none => v | some w => min v w) })
  else s.lowerFmax i v

def execAgeingRead (isl : Fin 4185) (mhz : Nat) (s : State) : Host.Outcome State Fault Refusal := .next (s.ageing isl.val mhz)

/-- Lowerings that waited take effect once their partition has left BOUND. -/
def State.ageSettle (s : State) : State :=
  s.each s.pwr.isls (fun s (e : Nat × Isl) => match e.2.deferred with
    | some v => if s.islHold e.1 = 0 then s.lowerFmax e.1 v else s
    | none => s)

/-! ## Droop (R380) -/

/-- VCORE of a die before any raise: for the highest set clock it feeds. -/
def State.vcoreBase (s : State) (d : Nat) : Nat := vcoreOf ((railIslands d).foldl (fun m i => max m (s.isl i).set) 0)

/-- A droop of a unit island is counted; the pulse rate is back at its set value when it ends. At the limit of the response the rail's
setpoint rises by 10 mV, up to 0.90 V. -/
def State.droop (s : State) (i : Nat) (overLimit : Bool) : State :=
  if 3904 ≤ i then s
  else
    let s := s.updIsl i (fun x => { x with droops := sat 255 (x.droops + 1) })
    let d := i / 244
    if overLimit then
      (s.updRail d (fun x => if s.vcoreBase d + x.raise_ + 10 ≤ 900 then { x with raise_ := x.raise_ + 10 } else x)).pwrCode 0x050E i
    else s

def execDroop (isl : Fin 4185) (overLimit : Bool) (s : State) : Host.Outcome State Fault Refusal := .next (s.droop isl.val overLimit)

def execDroopSetpointReturn (rail : Fin 69) (s : State) : Host.Outcome State Fault Refusal :=
  .next (s.updRail rail.val (fun x => { x with raise_ := 0 }))

/-! ## Junctions (R385) -/

/-- The die of a unit island or router half-plane. -/
def islDie (i : Nat) : Option Nat := if i < 3904 then some (i / 244) else if i < 3936 then some ((i - 3904) / 2) else none
/-- The islands with a sensor on a die. -/
def dieIslands (d : Nat) : List Nat := (List.range 244).map (fun k => 244 * d + k) ++ [3904 + 2 * d, 3905 + 2 * d]

/-- Whether two unit islands stand at neighbouring routers (assumption 61). -/
def islNear (i j : Nat) : Bool :=
  decide (i ≠ j) && (List.range 5).any (fun p => decide (neighbor (unitRouter i) p = some (unitRouter j)))

/-- The temperature an island is taken to be at: what its sensor reads, or the hottest neighbour's and 10 K when the sensor has failed. -/
def State.islTemp (s : State) (i read : Nat) : Nat :=
  if !(s.isl i).sensorFault then read
  else if 3904 ≤ i then 0
  else ((unitsOf (i / 61)).filter (islNear i)).foldl (fun m j => if (s.isl j).sensorFault then m else max m (s.isl j).temp) 0 + 10

/-- Every valid sensor of a die reads below 85 °C. -/
def State.dieCool (s : State) (d : Nat) : Bool := (dieIslands d).all (fun i => (s.isl i).sensorFault || decide ((s.isl i).temp < 85))

/-- Partitions held since T_trip rejoin once every sensor of their die has read below 85 °C for 1 s. Which channels then fail their training is
open (assumption 190). -/
def State.tripSettle (s : State) (d : Nat) : State :=
  let cool := s.dieCool d
  let hit (e : Nat × Option Nat) : Bool := dieOf e.1 == d
  let done := s.pwr.trip.filter (fun (e : Nat × Option Nat) => hit e && cool && (match e.2 with | none => false | some t => decide (t + 1000000000 ≤ s.now)))
  let left := (s.pwr.trip.filter (fun (e : Nat × Option Nat) => !done.contains e)).map (fun (e : Nat × Option Nat) =>
    if hit e then (e.1, if cool then some (e.2.getD s.now) else none) else e)
  let s := { s with pwr := { s.pwr with trip := left } }
  s.each done (fun s e =>
    let t := s.draw
    (t.2.updPart e.1 (fun x => x.dropHold .trip)).bringBack e.1 (t.1.setWidth 8) false)

/-- T_trip: the partition fences and is reset with CAUSE 8, and stays OFFLINE (R385). -/
def State.tripPart (s : State) (p : Nat) : State :=
  if (s.part p).st = .offline ∨ (s.part p).st = .degraded then s
  else
    let s := (s.updPart p (fun x => x.addHold .trip)).partStep p 0x0201 8 s.now 0 false
    ({ s with pwr := { s.pwr with trip := s.pwr.trip.filter (fun (e : Nat × Option Nat) => e.1 != p) ++ [(p, none)] } }).pwrCode 0x050A p

/-- T_crit: steps 3 to 5 of R383 apply to the whole module. -/
def State.critOn (s : State) : State :=
  if s.pwr.crit then s
  else
    let s := ({ s with pwr := { s.pwr with crit := true } }).parkSkim
    let s := s.each s.freeParts (fun s p => s.gateOff p)
    { s with sch := { s.sch with refuseAll := true } }

/-- They are withdrawn once every island is below 95 °C, but for what the cap asks. -/
def State.critOff (s : State) : State :=
  if s.pwr.crit && s.pwr.isls.all (fun e => decide (e.2.temp < 95)) then
    let s := { s with pwr := { s.pwr with crit := false }, sch := { s.sch with refuseAll := decide (5 ≤ s.pwr.step) } }
    if 3 ≤ s.pwr.step then s else s.unpark
  else s

/-- A junction reading of a unit island, a half-plane or an I/O block. Above T_throttle the set clock falls one step every 100 µs, never
below the hold clock; below 90 °C it rises again. -/
def State.junction (s : State) (i read : Nat) : State :=
  let s := s.updIsl i (fun x => { x with temp := read })
  let t := s.islTemp i read
  match islDie i with
  | none =>
    -- Without coolant, an I/O sensor at 95 °C takes the PHY domains down, NODE_DOWN first (R386 step 4).
    if 4128 ≤ i ∧ i < 4184 ∧ 95 ≤ t ∧ !s.pwr.flowOk then s.sendNodeDown.phyOff else s
  | some d =>
    let x := s.isl i
    let h := s.islHold i
    let low := if i < 3904 then max 400 h else 1000
    let s := if 95 < t then
        (if match x.fellAt with | none => true | some v => decide (v + 100000 ≤ s.now) then
          s.updIsl i (fun y => { y with hot := true, fellAt := some s.now, set := if low + 25 ≤ y.set then y.set - 25 else y.set })
        else s.updIsl i (fun y => { y with hot := true }))
      else if t < 90 ∧ x.hot then
        s.updIsl i (fun y => { y with hot := false, fellAt := none, set := if s.pwr.step < 2 ∧ h ≠ 0 then s.fullClock i h else y.set })
      else s
    let s := if 105 ≤ t ∧ (s.isl i).set < low + 25 then s.critOn else s
    let s := if 115 ≤ t ∧ i < 3904 then s.tripPart (i / 61) else s
    s.critOff.tripSettle d

def execJunctionRead (isl : Fin 4185) (celsius : Nat) (s : State) : Host.Outcome State Fault Refusal := .next (s.junction isl.val celsius)

/-! ## Coolant (R386) -/

/-- FLOW_OK falls: every partition is reset to OFFLINE with its ladles taken, jobs are abandoned, and the compute dies go off. -/
def State.flowLost (s : State) : State :=
  let s := { s with pwr := { s.pwr with flowOk := false } }
  let s := s.pwrCode 0x0509 0
  let s := s.each (s.fab.jobs.map (fun e => e.1)) (fun s c => s.sendAbandon c)
  let s := s.computeOff (some .coolant) false true 8
  match s.boot.phase with
  | .partitions => { s with boot := { s.boot with phase := .waitFlow } }
  | _ => s

def execFlowOkLow (s : State) : Host.Outcome State Fault Refusal := .next s.flowLost

/-- The compute-die rails run, and the router domains come up (R439 step 6): none starts while FLOW_OK is low or MOD_RESET_N is held (R431). -/
def State.railsOn (s : State) : State :=
  let s := s.each (List.range 64) (fun s r => s.updRail r (fun x => match x.st with
    | .off => { x with st := if 0 < x.phasesOut then .derated else .on }
    | _ => x))
  let s := s.each (List.range 16) (fun s d => if (s.rail (16 + d)).st = .shorted then s else s.routersUp d)
  { s with boot := { s.boot with computeOn := true } }

/-- FLOW_OK has been high for 10 s: a partition whose channels and units `bad` names as failing their tests comes online through the partition-reset path. -/
def State.flowBack (s : State) (p : Nat) (bad : BitVec 69) : State :=
  if !s.boot.resetRel ∨ !s.pwr.mainOn ∨ !s.boot.replayed then { s with pwr := { s.pwr with flowOk := true } }
  else
    let s := { s with pwr := { s.pwr with flowOk := true } }
    let s := if s.boot.computeOn then s else s.railsOn
    if (s.part p).holds.contains .coolant then ((s.failUnits p bad 8).updPart p (fun x => x.dropHold .coolant)).bringBack p (bad.extractLsb' 0 8) false else s

def execFlowOkRestore (p : PartId) (bad : BitVec 69) (s : State) : Host.Outcome State Fault Refusal := .next (s.flowBack p.val bad)

end Sys2Proof.Machine
end

