-- ==== Sys2Proof/Machine/Wire.lean ====
section
/-!
DEFINITION. The bytes of two structures that the state holds by their fields: the header of a Krygo Link frame (Table 11.2) and a journal
record (Tables 7.8, 7.10, 18.6 and 18.7), every field little-endian (R2).
-/

namespace Sys2Proof.Machine

/-! ## Frames (R265) -/

/-- One bit of a CRC-8 by 0x07, the highest bit of a byte first. -/
def crc8Bit (c : Nat) : Nat := if c < 128 then 2 * c else (2 * c) % 256 ^^^ 0x07

/-- CRC-8 by the polynomial 0x07 from zero (R265, assumption 193). -/
def crc8 (l : List Byte) : Nat :=
  l.foldl (fun c b => (List.range 8).foldl (fun c _ => crc8Bit c) (c ^^^ b.toNat)) 0

/-- One bit of a CRC-32C, the lowest bit of a byte first. -/
def crc32Bit (c : Nat) : Nat := if c % 2 = 0 then c / 2 else c / 2 ^^^ 0x82F63B78

/-- CRC-32C (R265, assumption 193). -/
def crc32c (l : List Byte) : Nat :=
  l.foldl (fun c b => (List.range 8).foldl (fun c _ => crc32Bit c) (c ^^^ b.toNat)) 0xFFFFFFFF ^^^ 0xFFFFFFFF

/-- Bytes 0x00 to 0x1A of a frame header (Table 11.2). -/
def frameFields (f : Frame) : List Byte :=
  leBytes f.typ 1 ++ leBytes (4 * (f.cls % 4) + f.level % 4 + fld 4 (b2n f.last) + fld 5 (b2n f.poison)) 1 ++ leBytes f.len 1 ++
    leBytes f.hops 1 ++ leBytes (f.dst % 4096) 2 ++ leBytes (f.src % 4096) 2 ++ leBytes f.srcMgen.toNat 2 ++ leBytes f.dstMgen.toNat 2 ++
    leBytes f.fjob 2 ++ leBytes (f.sel % 4096) 2 ++ leBytes f.arg.toNat 8 ++ leBytes f.tag 2 ++ leBytes f.via 1

/-- Bytes 0x00 to 0x1B, with HCRC. -/
def frameChecked (f : Frame) : List Byte := (frameFields f) ++ leBytes (crc8 (frameFields f)) 1

/-- The payload units of a frame. -/
def framePayload (f : Frame) : List Byte := f.payload.flatMap lineBytes

/-- A frame as it is sent: the 32-byte header and the payload (R265). -/
def frameBytes (f : Frame) : List Byte := frameChecked f ++ leBytes (crc32c (frameChecked f ++ framePayload f)) 4 ++ framePayload f

/-- The frame that bytes spell, with what its two checks find. -/
def frameOf (b : List Byte) : Frame :=
  let flags := fle b 1 1
  { typ := fle b 0 1, cls := nbits flags 3 2, level := nbits flags 1 0, last := has flags 4, poison := has flags 5, len := fle b 2 1,
    hops := fle b 3 1, dst := fle b 4 2 % 4096, src := fle b 6 2 % 4096, srcMgen := BitVec.ofNat 16 (fle b 8 2),
    dstMgen := BitVec.ofNat 16 (fle b 10 2), fjob := fle b 12 2, sel := fle b 14 2 % 4096, arg := BitVec.ofNat 64 (fle b 16 8),
    tag := fle b 24 2, via := fle b 26 1, payload := (List.range ((b.length - 32) / 64)).map (fun i => bytesLine (b.drop (32 + 64 * i))),
    hcrcOk := crc8 (b.take 27) == fle b 27 1, pcrcOk := crc32c (b.take 28 ++ b.drop 32) == fle b 28 4 }

/-! ## Journal records (R419, R420) -/

def TState.num (x : TState) : Nat := match x with | .none => 0 | .owned => 1 | .sending => 2 | .released => 3 | .lost => 4
def GKind.num (x : GKind) : Nat := match x with | .part => 0 | .unit => 1 | .far => 2 | .fab => 3 | .module => 4 | .comp => 5
/-- A setting, and the port it belongs to. -/
def SKey.num (x : SKey) : Nat × Nat :=
  match x with
  | .pwrCap => (0, 0) | .warm => (1, 0) | .secPolicy => (2, 0) | .fabNode => (3, 0) | .fabTopo => (4, 0) | .fabRole f => (5, f)
  | .fabExpect f => (6, f) | .debugToken => (7, 0)

/-- A state token (Table 7.8). -/
def Token.bytes (x : Token) (t : Word64) : List Byte :=
  leBytes t.toNat 8 ++ leBytes x.cid 1 ++ leBytes x.st.num 1 ++ leBytes (x.xid % 4096) 2 ++ leBytes x.epoch 4 ++ leBytes x.pool.toNat 8 ++
    leBytes x.peer.toNat 8 ++ leBytes x.off 8 ++ leBytes x.len 8 ++ leBytes 0 16

/-- TYPE of a record (Tables 7.10 and 18.7). -/
def JRec.type (r : JRec) : Nat :=
  match r with
  | .half .. => 0x01 | .snapEnd _ => 0x02 | .void .. => 0x03 | .loss .. => 0x04 | .cause _ => 0x05 | .fwActive .. => 0x06
  | .comp .. => 0x10 | .bindBegin .. => 0x11 | .rebindBegin .. => 0x12 | .step .. => 0x13 | .prepared .. => 0x14 | .commit .. => 0x15
  | .rollback .. => 0x16 | .done _ => 0x17 | .token .. => 0x18 | .tokens _ => 0x18
  | .spareMap .. => 0x20 | .gen .. => 0x21 | .fmax .. => 0x22 | .repair .. => 0x23 | .lostFault .. => 0x24 | .health .. => 0x25
  | .ctx .. => 0x26 | .ctxEnd _ => 0x26 | .assign .. => 0x27 | .fjob .. => 0x28 | .fjobEnd _ => 0x28 | .signer .. => 0x30 | .setting .. => 0x31

/-- The fields of a body, in the order Tables 7.10 and 18.7 name them; where they give no layout it is the model's (assumption 15). -/
def JRec.fields (r : JRec) : List Byte :=
  match r with
  | .half e q => leBytes e 8 ++ leBytes q.toNat 8
  | .snapEnd d => octetsOf d
  | .void a b => leBytes a 8 ++ leBytes b 8
  | .loss i c => leBytes i 1 ++ leBytes c 2
  | .cause c => leBytes c 1
  | .fwActive role copy rel out => leBytes role 1 ++ leBytes copy 1 ++ leBytes rel 2 ++ leBytes out 1
  | .comp cid c => c.record cid
  | .bindBegin cid g d => leBytes cid 2 ++ leBytes g.toNat 2 ++ leBytes 0 4 ++ octetsOf d
  | .rebindBegin cid g shape base part n fast => leBytes cid 1 ++ leBytes (b2n fast) 1 ++ leBytes g.toNat 2 ++ leBytes shape 4 ++ leBytes n 8 ++
      octetsOf base ++ octetsOf part
  | .step cid k p n => leBytes cid 1 ++ leBytes k 1 ++ leBytes p 2 ++ leBytes 0 4 ++ leBytes n 8
  | .prepared cid l => leBytes cid 8 ++ leBytes (l.foldl (fun a p => setBit a p) 0) 8
  | .commit cid c l => c.record cid ++ l.flatMap (fun e => leBytes e.1.toNat 8 ++ leBytes e.2.toNat 8)
  | .rollback cid c => leBytes cid 2 ++ leBytes c 2
  | .done cid => leBytes cid 1
  | .token t x => x.bytes t
  | .tokens l => l.flatMap (fun e => e.2.bytes e.1)
  | .spareMap p me vt meSp vtSp a b c ret => ([p, a, b, c, me.length, vt.length, meSp.length, vtSp.length] ++ me ++ vt ++ meSp ++ vtSp).flatMap
      (fun n => leBytes n 1) ++ ret.flatMap (fun u => leBytes u 2)
  | .gen k i v => leBytes k.num 2 ++ leBytes i 2 ++ leBytes v.toNat 2
  | .fmax i m => leBytes i 2 ++ leBytes m 2
  | .repair ch rows => leBytes ch 2 ++ leBytes rows.length 2 ++ rows.flatMap (fun n => leBytes n 4)
  | .lostFault x v => leBytes x 8 ++ leBytes v.toNat 8
  | .health a b m => (a ++ b).flatMap (fun n => leBytes n 2) ++ (List.range 10).flatMap (fun i => leBytes (Map.get 0 m i) 2)
  | .ctx x cid g k skim slot j fc q => leBytes x 2 ++ leBytes cid 2 ++ leBytes g.toNat 2 ++ leBytes k 2 ++ leBytes (b2n skim + 2 * b2n q) 2 ++
      leBytes slot 2 ++ leBytes fc 4 ++ leBytes j.toNat 8
  | .ctxEnd x => leBytes x 2 ++ leBytes 0 6 ++ leBytes 4 2
  | .assign p f v cid g => leBytes p 1 ++ leBytes f 1 ++ leBytes (b2n v) 1 ++ leBytes cid 1 ++ leBytes g.toNat 2
  | .fjob cid j rank n l => leBytes cid 2 ++ leBytes j 2 ++ leBytes rank 2 ++ leBytes n 2 ++ l.flatMap (fun x => leBytes x 2)
  | .fjobEnd cid => leBytes cid 2
  | .signer i x => leBytes i 1 ++ leBytes (b2n x.revoked) 1 ++ leBytes x.rsa.length 2 ++ leBytes x.slh.length 4 ++ octetsOf x.id ++ x.rsa ++ x.slh
  | .setting k v => leBytes k.num.1 4 ++ leBytes k.num.2 4 ++ leBytes v 8

/-- A record without its CHAIN. -/
def JRec.head (r : JRec) (last snap : Bool) (seq : Word64) : List Byte :=
  leBytes r.type 1 ++ leBytes (b2n last + 2 * b2n snap) 1 ++ leBytes r.size 2 ++ leBytes 0 4 ++ leBytes seq.toNat 8 ++ padTo (r.size - 64) 0 r.fields

/-- The CHAIN of a record after one whose CHAIN is `prev`. -/
def JRec.chain (r : JRec) (last snap : Bool) (seq : Word64) (prev : List Byte) : List Byte := octetsOf (Config.sha384 (prev ++ r.head last snap seq))

/-- CHAIN of the last record of a log whose first record has number `seq` (R419): 48 zero bytes before the first. -/
def chainOf (l : List JEnt) (seq : Word64) : List Byte :=
  (l.foldl (fun (a : Word64 × List Byte) e => (a.1 + 1, e.r.chain e.last e.snap a.1 a.2)) (seq, List.replicate 48 0)).2

/-- A record as the journal holds it (Table 18.6). -/
def JRec.bytes (r : JRec) (last snap : Bool) (seq : Word64) (prev : List Byte) : List Byte := r.head last snap seq ++ r.chain last snap seq prev

end Sys2Proof.Machine
end

