-- ==== Sys2Proof/Machine/Firmware.lean ====
section
/-!
DEFINITION. Management firmware and the configuration journal: cores, images, commits, replay and compaction (chapter 18).
-/

namespace Sys2Proof.Machine

/-! ## Cores and their images (R332 to R334, R411, R413) -/

/-- The role of a core: SEC, SUP0, SUP1, XLT0 to XLT3, SCH0, SCH1, PWR, HLT, LNK. -/
def coreRole (i : Nat) : Nat := nth 0 [0, 1, 1, 2, 2, 2, 2, 3, 3, 4, 5, 6] i
/-- The cores of a role, in core-number order. -/
def coresOf (r : Nat) : List Nat := (List.range 12).filter (fun i => decide (coreRole i = r))

/-- A copy of a role's image, and whether the directory calls it VALID. -/
def RoleS.img (x : RoleS) (copy : Bool) : Option FwImage := if copy then x.imgB else x.imgA
def RoleS.valid (x : RoleS) (copy : Bool) : Bool := if copy then x.validB else x.validA

/-- The code a copy is refused with, 0 when it is accepted; an empty slot holds no header. -/
def State.copyCode (s : State) (r : Nat) (copy : Bool) : Nat :=
  match (s.role r).img copy with | none => 0x0404 | some i => s.fwCheck r i

/-- A role is halted. PWR halted leaves step 5 of R383 in force, SUP halted leaves no writer, SEC halted is RECOVERY (Table 18.1, R334). -/
def State.haltRole (s : State) (r : Nat) : State :=
  let s := { s with sec := { s.sec with haltedRoles := setBit s.sec.haltedRoles r, recovery := s.sec.recovery || decide (r = 0) } }
  match r with
  | 1 => { s with jrn := { s.jrn with writer := 0 } }
  | 4 => { s with sch := { s.sch with refuseAll := true } }
  | _ => s

/-- A core is loaded with its role's active image, or with the other copy when that is refused, and the code of the refusal is recorded. Its
measurement block changes. When both copies are refused the role is halted. -/
def State.loadCore (s : State) (i : Nat) : State :=
  let r := coreRole i
  let a := (s.role r).active
  let code := s.copyCode r a
  let s := if code = 0 then s else s.secCode code
  let copy := if code = 0 then a else !a
  match (s.role r).img copy with
  | none => (s.updCore i (fun x => { x with st := .halted })).haltRole r
  | some g =>
    if s.fwCheck r g ≠ 0 then (s.updCore i (fun x => { x with st := .halted })).haltRole r
    else
      let s := s.updCore i (fun x => { x with st := .running, beat := true, release := g.release.toNat, svn := g.svn, copy := copy })
      let s := s.measure (3 + i) (fwDigest g)
      if i = 0 then { s with sec := { s.sec with secSvn := g.svn, secRelease := g.release.toNat, secCopy := copy } } else s

/-- A core restarts. The third restart within 1 h halts it, and a role left without a core; PWR, XLT and LNK then bring a module step (R412).
SPDM sessions end with SEC. -/
def State.restartCore (s : State) (i : Nat) : State :=
  match (s.coreS i).st with
  | .halted => s
  | .restarting => s
  | _ =>
    let r := coreRole i
    let s := s.updCore i (fun x => { x with
      st := .restarting, restarts := sat 0xFFFF (x.restarts + 1), recent := within s.now 3600000000000 x.recent })
    let s := if r = 1 ∧ s.jrn.writer = i then { s with jrn := { s.jrn with writer := 0 } } else s
    let s := if i = 0 then { s with sec := { s.sec with hashes := [], sessions := [] } } else s
    let s := s.health
    if 3 ≤ (s.coreS i).recent.length then
      let s := s.updCore i (fun x => { x with st := .halted, halted3 := true })
      if (coresOf r).all (fun j => decide ((s.coreS j).st = .halted)) then
        let s := s.haltRole r
        if r = 2 ∨ r = 4 ∨ r = 6 then s.startStep .module 0 12 else s
      else s
    else s

/-! ## An update (R415) -/

/-- The update is over: its outcome is journaled and the request answered. -/
def State.updateEnd (s : State) (u : Update) : State :=
  let a := (s.role u.role).active
  let release := match (s.role u.role).img a with | none => 0 | some g => g.release.toNat
  (({ s with fw := { s.fw with update := none } }).journal (.fwActive u.role (b2n a) release (u.back.getD 0))).answer u.req (u.back.getD 0) []

/-- Restarts the next core of an update; a core that its restart halts leaves its partner to cover for it. -/
def State.updateRun (s : State) (u : Update) (cores : List Nat) : State :=
  match cores with
  | [] => s.updateEnd u
  | i :: r =>
    let t := s.restartCore i
    if (t.coreS i).st = .halted then t.updateRun u r
    else { t with fw := { t.fw with update := some { u with cores := i :: r } } }

/-- The directory is written: the sector that does not govern takes the next sequence number, and governs (R413). -/
def State.dirWrite (s : State) : State := { s with fw := { s.fw with dirSeq := s.fw.dirSeq + 1 } }

/-- ACTIVE flips in the directory. -/
def State.flipActive (s : State) (r : Nat) : State := (s.updRole r (fun x => { x with active := !x.active })).dirWrite

/-- A core of an update has failed its check: back to the old copy, and the cores already switched restart onto it. -/
def State.updateBack (s : State) (u : Update) (code : Nat) : State :=
  (s.flipActive u.role).updateRun { u with back := some code, switched := [] } u.switched

/-- A core already switched restarts again while the update runs (assumption 62). -/
def State.updateAgain (s : State) (i : Nat) : State :=
  match s.fw.update with
  | none => s
  | some u =>
    if u.back.isNone ∧ u.switched.contains i = true then
      let s := s.flipActive u.role
      { s with fw := { s.fw with update := some { u with back := some 0x0404, cores := u.cores.take 1 ++ u.switched.erase i, switched := [] } } }
    else s

def execHeartbeatMiss (core : Fin 12) (s : State) : Host.Outcome State Fault Refusal :=
  .next (if (s.coreS core.val).st = .running then (s.restartCore core.val).updateAgain core.val else s)

/-- CORE_RESTART: P+0 is the core number. A core already restarting absorbs it (Table 18.9). -/
def State.coreRestart (s : State) (r : Request) : State :=
  let i := r.p0.toNat
  if 12 ≤ i then s.mbxError r 2
  else
    let s := if (s.coreS i).st = .running then (s.restartCore i).updateAgain i else s
    s.answer r 0 []

def execCoreRestart (r : Request) (s : State) : Host.Outcome State Fault Refusal := .next (s.coreRestart r)

/-- The order in which SEC loads the cores at a boot (R333 step 4). -/
def bootOrder : List Nat := [0, 1, 2, 10, 9, 7, 8, 3, 4, 5, 6, 11]

/-- Whether a core's turn to be loaded has come: at a boot, when every core before it has been. -/
def State.bootTurn (s : State) (i : Nat) : Bool :=
  decide ((s.coreS i).st ≠ .loading) || (bootOrder.takeWhile (fun j => j != i)).all (fun j => decide ((s.coreS j).st ≠ .loading))

/-- The cover ends. The first SUP core back writes the journal when no core does. An update goes on to its next core. -/
def State.firstHeartbeat (s : State) (i : Nat) : State :=
  let r := coreRole i
  let wait := decide ((s.coreS i).st = .loading ∨ (s.coreS i).st = .restarting)
  if !wait ∨ i ≠ 0 ∧ (s.coreS 0).st ≠ .running ∨ s.bootTurn i = false then s
  else
    let code := s.copyCode r (s.role r).active
    let s := s.loadCore i
    let stopped := decide (s.jrn.writer = 0)
    let s := if r = 1 ∧ (s.coreS i).st = .running then
        { s with jrn := { s.jrn with writer := if s.jrn.writer = 0 then i else s.jrn.writer },
                 boot := { s.boot with phase := if s.boot.phase = .boot then .replay else s.boot.phase } }
      else s
    -- A core that writes the journal after a restart resolves the handoffs it finds (R182).
    let s := if stopped ∧ s.jrn.writer = i ∧ s.boot.replayed then s.resolveTokens else s
    let s := if i = 0 then s.spdmLate else s
    match s.fw.update with
    | none => s
    | some u =>
      if u.cores.head? = some i then
        (if code ≠ 0 ∧ u.back.isNone then s.updateBack u code
         else s.updateRun { u with switched := u.switched ++ [i] } (u.cores.drop 1))
      else s

/-! ## Images (R414, R415) -/

/-- FW_WRITE: P+0 is the role. The image goes to the inactive slot, which is VALID only when every check passes. -/
def State.fwWrite (s : State) (r : Request) (img : FwImage) : State :=
  let role := r.p0.toNat
  if s.roleHalted 0 then s.mbxError r 4
  else if s.fw.update.isSome then s.mbxError r 5
  else if 2 ^ 24 < r.bufLen then s.mbxError r 3
  else if 7 ≤ role then s.answer r 0x0404 []
  else
    let code := s.fwCheck role img
    let s := s.updRole role (fun x =>
      if x.active then { x with imgA := some img, validA := decide (code = 0) } else { x with imgB := some img, validB := decide (code = 0) })
    (if code = 0 then s else s.secCode code).dirWrite.answer r code []

def execFwWrite (r : Request) (img : FwImage) (s : State) : Host.Outcome State Fault Refusal := .next (s.fwWrite r img)

/-- The order in which an update restarts a role's cores: of SUP, the one that does not write the journal first. -/
def State.updateOrder (s : State) (role : Nat) : List Nat :=
  (if role = 1 ∧ s.jrn.writer = 1 then [2, 1] else coresOf role).filter (fun i => !(s.coreS i).halted3)

/-- FW_ACTIVATE: P+0 is the role. A role whose inactive copy is not VALID is refused with FW_IMAGE (assumption 62). -/
def State.fwActivate (s : State) (r : Request) : State :=
  let role := r.p0.toNat
  if s.roleHalted 0 then s.mbxError r 4
  else if s.fw.update.isSome then s.mbxError r 5
  else if 7 ≤ role ∨ !(s.role role).valid (!(s.role role).active) then s.answer r 0x0404 []
  else (s.flipActive role).updateRun { role := role, req := r, cores := [], switched := [] } (s.updateOrder role)

def execFwActivate (r : Request) (s : State) : Host.Outcome State Fault Refusal := .next (s.fwActivate r)

/-! ## Commits (R418, R422) -/

/-- How many records at the front of a list make one commit: whole runs that fit in 32 KiB together. `i` records have been seen, of `used`
bytes, and `n` of them end a run. -/
def commitLen (l : List JEnt) (used i n : Nat) : Nat :=
  match l with
  | [] => n
  | e :: t => if used + e.r.size ≤ 32768 then commitLen t (used + e.r.size) (i + 1) (if e.last then i + 1 else n) else n

/-- The records that wait and go into the next commit. -/
def commitRun (l : List JEnt) : List JEnt := l.take (commitLen l 0 0 0)

/-- Records that wait together become durable. -/
def State.commit (s : State) : State :=
  if s.canCommit then
    let now := commitRun s.jrn.waiting
    ({ s with jrn := { s.jrn with waiting := s.jrn.waiting.drop now.length } }).each now (fun s r => s.append r) |>.beginBinds.sendAnswers
  else s

def execJournalCommit (s : State) : Host.Outcome State Fault Refusal := .next s.commit

/-- The other SUP takes over from a stopped writer. The commit it finds without an END is named by a VOID, and its records are submitted
again (R422). Handoffs in progress are resolved (R182). -/
def State.takeover (s : State) : State :=
  if s.jrn.writer ≠ 0 ∨ s.roleHalted 1 then s
  else match (coresOf 1).find? (fun i => decide ((s.coreS i).st = .running)) with
    | none => s
    | some i =>
      let s := { s with jrn := { s.jrn with writer := i } }
      let n := s.jrn.waiting.length
      let s := if n = 0 then s else
        let a := s.jrn.seq.toNat + 1
        ({ s with jrn := { s.jrn with seq := s.jrn.seq + BitVec.ofNat 64 n } }).append { r := .void a (a + n - 1) }
      s.resolveTokens

def execWriterTakeover (s : State) : Host.Outcome State Fault Refusal := .next s.takeover

/-! ## Replay (R424, R187, R421) -/

/-- What the journal brings back leaves the machine first. A module step keeps what hardware holds: the spare maps, generations, FMAX, repair
queues, counts and keys; only a cold power-on takes them from the journal too. -/
def State.forget (s : State) : State :=
  { s with
    comps := [], freeCids := List.range 256, tokens := [], nextToken := 1, ctxs := [], freedXids := [], nextXid := 0
    sch := { s.sch with jobs := [] }
    fab := { s.fab with jobs := Map.mapV {} (fun _ j => { ({} : Job) with fgen := j.fgen }) s.fab.jobs }
    host := { s.host with fns := Map.mapV {} (fun _ f => { f with valid := false, cid := 0, gen := 0 }) s.host.fns }
    sec := { s.sec with signers := [] } }

/-- A CID that is free stands behind those that were freed before it (R165). -/
def State.freedAgain (s : State) (c : Nat) : State := if s.freeCids.contains c then { s with freeCids := s.freeCids.erase c ++ [c] } else s

/-- A composition's CID is FREE again, its generation kept. -/
def State.replayFree (s : State) (c : Nat) : State :=
  let s := s.updComp c (fun x => { gen := x.gen })
  { s with freeCids := s.freeCids.erase c ++ [c] }

/-- A setting (Table 18.7): FAB_NODE is kept as SYSTEM over NODE, and of a port its ROLE and EXPECT fields. -/
def State.applySetting (s : State) (k : SKey) (v : Nat) : State :=
  match k with
  | .pwrCap => { s with pwr := { s.pwr with cap := v } }
  | .warm => { s with pwr := { s.pwr with warm := v } }
  | .secPolicy => { s with sec := { s.sec with clearOk := v.testBit 0 } }
  | .fabNode => { s with fab := { s.fab with system := BitVec.ofNat 32 (v / 65536), node := v % 4096 } }
  | .fabTopo => { s with fab := { s.fab with topo := BitVec.ofNat 64 v } }
  | .fabRole f => s.updFport f (fun x => { x with ctl := (x.ctl &&& 0xFFF80000) ||| BitVec.ofNat 32 (fld 4 v) })
  | .fabExpect f => s.updFport f (fun x => { x with ctl := (x.ctl &&& 0xF0) ||| BitVec.ofNat 32 (fld 19 v) })
  | .debugToken => { s with sec := { s.sec with token := v } }

/-- A generation of the journal. -/
def State.applyGen (s : State) (k : GKind) (i : Nat) (v : Word16) : State :=
  match k with
  | .part => s.updPart i (fun x => { x with gen := v })
  | .unit => s.updUnit i (fun x => { x with gen := v })
  | .far => s.updFar i (fun x => { x with gen := v })
  | .fab => s.updFport i (fun x => { x with gen := v })
  | .module => { s with fab := { s.fab with mgen := v } }
  | .comp => s.updComp i (fun x => { x with gen := v })

/-- A further record of a token at replay (Table 7.9): the highest epoch decides. V's record after S's SENDING leaves S to be written RELEASED, a
RELEASED record settles that, records of equal epoch of two pools lose the token, and so does a RELEASED that follows SENDING with no V. -/
def Token.meets (y k : Token) : Token :=
  if y.st = .none then k
  else if y.epoch < k.epoch then
    { k with owed := if y.st = .sending then y.owed ++ [{ epoch := y.epoch, pool := y.pool, req := Request.zero }] else y.owed }
  else if k.epoch < y.epoch then { y with owed := y.owed.filter (fun o => o.epoch != k.epoch || o.pool != k.pool) }
  else if k.pool ≠ y.pool ∨ y.st = .sending ∧ k.st = .released then { y with st := .lost, peer := 0 }
  else { k with owed := y.owed }

/-- A token's record at replay. -/
def State.applyToken (s : State) (t : Word64) (k : Token) : State :=
  let s := s.updTok t.toNat (fun y => y.meets k)
  { s with nextToken := max s.nextToken (t.toNat + 1) }

/-- One record of the replay. -/
def State.applyRec (cold : Bool) (s : State) (r : JRec) : State :=
  match r with
  | .comp c x => let s := s.updComp c (fun _ => x); { s with freeCids := s.freeCids.erase c }
  | .commit c x rp =>
    let s := s.updComp c (fun _ => x)
    { s with tokens := Map.mapV {} (fun _ t =>
        match rp.find? (fun m => t.cid == c && m.1 == t.pool && decide (t.st = .owned ∨ t.st = .sending)) with
        | none => t
        | some m => { t with pool := m.2, epoch := t.epoch + 1 }) s.tokens }
  | .rollback c _ =>
    match (s.comp c).st with
    | .binding => s.replayFree c
    | _ => s.updComp c (fun x => { x with op := none })
  | .done c => if (s.comp c).st = .unbinding then s.replayFree c else s.updComp c (fun x => { x with ending := false, toRelease := [] })
  | .token t k => s.applyToken t k
  | .tokens l => s.each l (fun s e => s.applyToken e.1 e.2)
  | .spareMap p me vt meSp vtSp meRet vtRet stRet ret =>
    if cold then
      let s := s.updPart p (fun x => { x with meMap := me, vtMap := vt, meSpare := meSp, vtSpare := vtSp, meRet := meRet, vtRet := vtRet, stRet := stRet })
      s.each (unitsOf p) (fun s u => s.updUnit u (fun x =>
        if ret.contains u then { x with retired := true, retiredOnce := true, fenced := true, portClosed := true, st := .fenced }
        else { x with retired := false, fenced := false, portClosed := false, st := .idle }))
    else s
  | .gen k i v => if k = .comp then (s.applyGen k i v).freedAgain i else if cold then s.applyGen k i v else s
  | .fmax i v => if cold then s.updIsl i (fun x => { x with fmax := some v }) else s
  | .repair ch rows => if cold then s.updChan ch (fun x => { x with rows := rows }) else s
  | .lostFault x v => if cold then { s with xlt := { s.xlt with lostX := Map.set 0 x v s.xlt.lostX } } else s
  | .health n ret restarts =>
    if cold then
      let s := { s with flt := { s.flt with
        nCtx := nth 0 n 0, nEng := nth 0 n 1, nPart := nth 0 n 2, nMod := nth 0 n 3,
        retMe := nth 0 ret 0, retVt := nth 0 ret 1, retSt := nth 0 ret 2, retRouters := nth 0 ret 3 } }
      s.each restarts (fun s e => s.updCore e.1 (fun x => { x with restarts := e.2 }))
    else s
  | .ctx x cid _ client skim slot jobs fctx quiesced =>
    let s := s.updCtx x (fun _ =>
      { st := if quiesced then .quiesced else .idle, cid := cid, client := client, skim := skim, slot := slot, fctx := fctx })
    { s with nextXid := max s.nextXid (x + 1), freedXids := s.freedXids.erase x,
             sch := { s.sch with jobs := Map.set 0 client jobs s.sch.jobs } }
  | .ctxEnd x =>
    let s := { s.updCtx x (fun _ => {}) with tokens := Map.mapV {} (fun _ k => if k.xid = x then { k with st := .released, owed := [] } else k) s.tokens }
    { s with freedXids := s.freedXids.erase x ++ [x] }
  | .assign p f valid cid gen => s.updFn (256 * p + f) (fun x => { x with valid := valid, cid := cid, gen := gen })
  | .fjob c fj rank ranks nodes =>
    if c < 256 then s.updJob c (fun j =>
      { fgen := j.fgen, st := .abandoned, fjob := fj, rank := rank, ranks := ranks, nodes := nodes,
        down := (List.range ranks).filter (fun i => i != rank) }) else s
  | .fjobEnd c => s.updJob c (fun _ => {})
  | .signer i g => { s with sec := { s.sec with signers := Map.set none i (if g.id = 0 then none else some g) s.sec.signers } }
  | .setting k v => s.applySetting k v
  | _ => s

/-- Every generation that the journal holds advances by 1024 after a cut (R424 step 4). -/
def State.cutGens (s : State) : State :=
  { s with
    parts := Map.mapV {} (fun _ x => { x with gen := x.gen + 1024 }) s.parts
    units := Map.mapV {} (fun _ x => { x with gen := x.gen + 1024 }) s.units
    far := Map.mapV {} (fun _ x => { x with gen := x.gen + 1024 }) s.far
    comps := Map.mapV {} (fun _ x => { x with gen := x.gen + 1024 }) s.comps
    fab := { s.fab with mgen := s.fab.mgen + 1024,
                        ports := Map.mapV {} (fun _ x => { x with gen := x.gen + 1024 }) s.fab.ports }
    jrn := { s.jrn with corrupt := sat 255 (s.jrn.corrupt + 1) } }

/-- Every generation the journal holds, as records. Those of the free CIDs stand in the order in which they were freed (R165, assumption 127). -/
def State.genRecs (s : State) : List JRec :=
  s.parts.map (fun e => .gen .part e.1 e.2.gen) ++
  (s.units.filter (fun e => decide (e.2.gen ≠ 0))).map (fun e => .gen .unit e.1 e.2.gen) ++
  s.far.map (fun e => .gen .far e.1 e.2.gen) ++ s.fab.ports.map (fun e => .gen .fab e.1 e.2.gen) ++
  [.gen .module 0 s.fab.mgen] ++
  (s.comps.filter (fun e => decide (e.2.st ≠ .free))).map (fun e => .gen .comp e.1 e.2.gen) ++
  s.freeCids.map (fun c => .gen .comp c (s.comp c).gen)

/-- MGEN and the generations of the ports and partitions are advanced and committed (R439 step 5). -/
def State.advanceGens (s : State) : State :=
  let s := s.each (List.range 64) (fun s p => s.updPart p (fun x => { x with gen := x.gen + 1 }))
  let s := s.each (List.range 4) (fun s d => s.updFar d (fun x => { x with gen := x.gen + 1 }))
  let s := s.each (List.range 32) (fun s f => s.updFport f (fun x => { x with gen := x.gen + 1 }))
  { s with fab := { s.fab with mgen := s.fab.mgen + 1, upOwed := true } }

/-- The end of a composition that was being unbound (R187): its contexts are torn down, END is journaled and its CID is FREE. -/
def State.endComp (s : State) (c : Nat) : State :=
  let s := s.each (s.ctxsOf c) (fun s x => (s.startTeardown x 0x0201 Request.zero).finishTeardown x)
  let s := s.updComp c (fun x => { x with st := .unbinding })
  (s.journalRun [.comp c (s.comp c), .done c]).freeCid c

/-- A composition left standing is to be restored (R446). -/
def State.toRestore (s : State) (c : Nat) : State :=
  (s.updComp c (fun x => { x with
    op := none, ending := false, toRelease := [], restoring := true, lostGroups := [], oldest := none, readNext := false })).compState c .binding

/-- A composition is settled at replay (R187). -/
def State.settleComp (s : State) (c : Nat) : State :=
  let x := s.comp c
  let back := (s.journal (.rollback c 0x0201)).toRestore c
  match x.st with
  | .free => s
  | .binding => if x.op.any (fun o => decide (o.kind = .bind)) then (s.journal (.rollback c 0x0201)).freeCid c else s.toRestore c
  | .rebinding => back
  | .reshaping => back
  | .quiescing => if x.op.any (fun o => decide (o.kind = .slow) && o.begun) then back else s.endComp c
  | .unbinding => s.endComp c
  | _ => if x.op.any (fun o => o.begun) then back else (if x.ending then s.journal (.done c) else s).toRestore c

/-- Copies the range template into a context's table; an entry that fails its checks stays INVALID, and the SHARED
entries of its weight sets (R421, R219). -/
def State.refillTable (s : State) (x : Nat) : State :=
  let k := s.ctx x
  (s.each (templateOf (s.comp k.cid).frames).zipIdx (fun s e =>
    let t := s.copyTemplate x k.slot [e]
    if t.1 = 0 then t.2 else s)).shareWeights x

/-- What R421 brings back with the records: contexts with a template table, tokens LOST, jobs ABANDONED with FGEN advanced. After a cold
power-on each context's keyslot has a new key, and each assigned function's lease is QUIESCED. -/
def State.returnCtxs (s : State) (cold : Bool) : State :=
  let xs := (s.ctxs.filter (fun e => decide (e.2.st ≠ .free))).map (fun e => e.1)
  let s := if cold then
      let s := s.each xs (fun s x => s.grantSlot (s.ctx x).slot (.ctx x))
      s.each ((s.host.fns.filter (fun e => e.2.valid)).map (fun e => e.1)) (fun s f =>
        s.updFn f (fun y => { y with lease := .quiesced, since := s.now }))
    else s
  let s := s.each xs (fun s x => s.refillTable x)
  let s := s.resolveTokens
  let s := s.loseTokens (fun _ => true)
  s.each ((s.fab.jobs.filter (fun e => decide (e.2.st ≠ .none))).map (fun e => e.1)) (fun s c =>
    s.updJob c (fun j => { j with st := .abandoned, fgen := j.fgen + 1 }))

/-- At a cold power-on the journaled debug token loses one; while any is left DEBUG_ACTIVE is set again (R349). -/
def State.coldDebug (s : State) : State :=
  if s.sec.token = 0 then s
  else
    let n := s.sec.token - 1
    ({ s with sec := { s.sec with token := n, debugActive := decide (0 < n) } }.journal (.setting .debugToken n)).measureFuse

/-- A cold power-on ends the operator's cap: PWR_CAP reads 10 500 W until it is written (R382, assumption 229). -/
def State.coldCap (s : State) : State :=
  if s.pwr.cap = 10500 then s else ({ s with pwr := { s.pwr with cap := 10500 } }).journal (.setting .pwrCap 10500)

/-- The records up to the last END (R424 step 3). -/
def ended (l : List JEnt) : List JEnt := (l.reverse.dropWhile (fun e => !e.last)).reverse

/-- JRN_STATUS after a start: the writer goes on with an erase that was cut off, and with a compaction that is due (R423, R425). -/
def State.jrnStatus (s : State) : State :=
  { s with jrn := { s.jrn with erasing := s.jrn.dirty, full := decide (0x4000000 ≤ s.jrn.usedBytes),
                               compacting := decide (0x3000000 ≤ s.jrn.usedBytes) && !s.jrn.dirty } }

/-- Replay of the journal. A record that fails while a later one verifies cuts the log there. -/
def State.replay (s : State) (cold : Bool) (corruptAt : Option Nat) : State :=
  let n := s.jrn.log.length
  let cut := corruptAt.any (fun i => decide (i + 1 < n))
  let log := ended (match corruptAt with | some i => s.jrn.log.take i | none => s.jrn.log)
  let s := { s.forget with jrn := { s.jrn with log := log } }.jrnStatus
  let s := s.each log (fun s e => s.applyRec cold e.r)
  let s := if cut then s.cutGens else s
  let s := if cold then s.advanceGens else s
  let s := if cut || cold then s.each s.genRecs (fun s r => s.journal r) else s
  let s := s.each ((s.comps.filter (fun e => decide (e.2.st ≠ .free))).map (fun e => e.1)) (fun s c => s.settleComp c)
  let s := s.returnCtxs cold
  let s := if cold then s.coldDebug.coldCap else s
  { s.measurePolicy with boot := { s.boot with replayed := true } }

/-- The replay of a start. A replay by the first SUP core back, with no reset before it, finds what the machine already holds (Table 18.9). -/
def execJournalReplay (corruptAt : Option Nat) (s : State) : Host.Outcome State Fault Refusal :=
  .next (if s.boot.replayed ∨ s.jrn.writer = 0 then s
    else
      let s := s.replay s.boot.cold corruptAt
      { s with boot := { s.boot with phase := .waitFlow } })

/-! ## Compaction (R425) -/

/-- Tokens, 63 to a record (Table 18.7). -/
def packTokens (l : List (Word64 × Token)) : List JRec :=
  (List.range (ceilDiv l.length 63)).map (fun i => .tokens ((l.drop (63 * i)).take 63))

/-- Records of the live state. -/
def State.snapshot (s : State) : List JRec :=
  s.genRecs ++
  (s.comps.filter (fun e => decide (e.2.st ≠ .free))).map (fun e => .comp e.1 e.2) ++
  packTokens ((s.tokens.filter (fun e => decide (e.2.st ≠ .none ∧ e.2.st ≠ .released))).flatMap (fun e =>
    e.2.owed.map (fun o => (BitVec.ofNat 64 e.1, { e.2.record with st := .sending, epoch := o.epoch, pool := o.pool })) ++
      [(BitVec.ofNat 64 e.1, e.2.record)])) ++
  (s.ctxs.filter (fun e => decide (e.2.st ≠ .free))).map (fun e =>
    .ctx e.1 e.2.cid (s.comp e.2.cid).gen e.2.client e.2.skim e.2.slot (Map.get 0 s.sch.jobs e.2.client) e.2.fctx (decide (e.2.st = .quiesced))) ++
  (s.host.fns.filter (fun e => e.2.valid)).map (fun e => .assign (e.1 / 256) (e.1 % 256) true e.2.cid e.2.gen) ++
  (s.fab.jobs.filter (fun e => decide (e.2.st ≠ .none))).map (fun e => .fjob e.1 e.2.fjob e.2.rank e.2.ranks e.2.nodes) ++
  s.parts.map (fun e =>
    .spareMap e.1 e.2.meMap e.2.vtMap e.2.meSpare e.2.vtSpare e.2.meRet e.2.vtRet e.2.stRet ((unitsOf e.1).filter (fun u => (s.unit u).retired))) ++
  s.pwr.isls.filterMap (fun e => e.2.fmax.map (fun v => .fmax e.1 v)) ++
  (s.chans.filter (fun e => !e.2.rows.isEmpty)).map (fun e => .repair e.1 e.2.rows) ++
  s.xlt.lostX.map (fun e => .lostFault e.1 e.2) ++
  [.health [s.flt.nCtx, s.flt.nEng, s.flt.nPart, s.flt.nMod] [s.flt.retMe, s.flt.retVt, s.flt.retSt, s.flt.retRouters]
    ((s.fw.cores.map (fun e => (e.1, e.2.restarts))).filter (fun e => decide (e.2 ≠ 0)))] ++
  s.sec.signers.filterMap (fun e => e.2.map (fun g => .signer e.1 g)) ++
  [.setting .pwrCap s.pwr.cap, .setting .warm s.pwr.warm, .setting .secPolicy (b2n s.sec.clearOk),
    .setting .fabNode (fld 16 s.fab.system.toNat + s.fab.node), .setting .fabTopo s.fab.topo.toNat, .setting .debugToken s.sec.token] ++
  s.fab.ports.flatMap (fun e => [.setting (.fabRole e.1) (bits e.2.ctl 7 4), .setting (.fabExpect e.1) (bits e.2.ctl 31 19)])

/-- The records of a compacted half (R425): HALF with the next epoch, the live state, and SNAP_END with the CHAIN of the old half. No record is
committed while one command compacts, so none is copied, and HALF names the number after the live state's (assumption 200). -/
def State.newHalf (s : State) : List JEnt :=
  let l := s.snapshot
  let first := s.jrn.seq + BitVec.ofNat 64 (l.length + 2)
  ((.half (s.jrn.epoch + 1) first :: l).map (fun r => { r := r, snap := true })) ++
    [{ r := .snapEnd (BitVec.ofNat 384 (ofLE (chainOf s.jrn.log (s.jrn.seq + 1 - BitVec.ofNat 64 s.jrn.log.length)))), snap := true }]

/-- The writer snapshots live state into the other half, which becomes active; the old half is erased in the background. -/
def State.compact (s : State) : State :=
  if s.jrn.compacting ∧ !s.jrn.erasing ∧ s.jrn.writer ≠ 0 ∧ !s.pwr.inputLost then
    let l := s.newHalf
    { s with jrn := { s.jrn with
        log := l, seq := s.jrn.seq + BitVec.ofNat 64 l.length, usedBytes := l.foldl (fun n e => n + e.r.size) 0,
        half := !s.jrn.half, epoch := s.jrn.epoch + 1, full := false, compacting := false, erasing := true, dirty := true } }
  else s

def execJournalCompaction (s : State) : Host.Outcome State Fault Refusal := .next s.compact

/-- The old half is erased and ready for the next compaction. -/
def execBackgroundEraseDone (s : State) : Host.Outcome State Fault Refusal :=
  .next { s with jrn := { s.jrn with erasing := false, dirty := false, compacting := s.jrn.compacting || decide (0x3000000 ≤ s.jrn.usedBytes) } }

end Sys2Proof.Machine
end

