-- ==== Sys2Proof/Machine/Recovery.lean ====
section
/-!
DEFINITION. Commands of recovery: hangs, the steps of the ladder, and the substitution of spares (R390 to R406).
-/

namespace Sys2Proof.Machine

/-! ## Hangs (R390, R391) -/

def execNpOverrun (u : UnitId) (s : State) : Host.Outcome State Fault Refusal :=
  .next (if s.npRunning u.val then s.startStep .engine u.val 2 else s)

/-- The bind or re-bind that a frame load belongs to fails, and the target partition takes the partition step (R156). -/
def execLoadOverrun (c : CidT) (p : PartId) (s : State) : Host.Outcome State Fault Refusal :=
  .next (match (s.comp c.val).op with
    | none => s
    | some o =>
      if !o.loads.any (fun l => l.1 == p.val) then s
      else
        let t := s.startStep .partition p.val 3
        if (t.comp c.val).op.isSome ∧ o.kind ≠ .restore ∧ o.kind ≠ .unbind then t.undo c.val 0x0201 0x0201 else t)

def execStopTimeout (u : UnitId) (s : State) : Host.Outcome State Fault Refusal :=
  .next (if (s.unit u.val).st = .stopping then s.startStep .engine u.val 4 else s)

/-- Whether the command at the head of a queue is a WAIT for a value that has not come. -/
def State.headWaits (s : State) (u : Nat) : Bool :=
  match s.headCmd u with | none => false | some c => decide (cOp c = 6) && !reached (s.cntOf u (waitCnt c)) (waitVal c)

/-- Whether a command of an engine is stalled for credit: an EPI whose stream port has none, or an NSEND whose flits wait at the router (R85, R110). -/
def State.engStalled (s : State) (p e : Nat) : Bool :=
  let x := s.engine (kEng p e)
  x.epi.exe.any (fun r => (epiOf r.cmd).stream && !r.fin &&
    (match s.streamPort p e r.cmd with | none => true | some vc => decide (Map.get 128 (s.vt (kVt p vc.1)).scCred vc.2 < 2))) ||
  x.dma.exe.any (fun r => decide (cOp r.cmd = 5)) && !(s.router (unitRouter (uEng p e))).outq.isEmpty

/-- Whether a unit holds work and is held to make progress: its queue is not empty or one of its units executes, and it waits for nothing
R391 exempts: a WAIT at the head, a halted queue, a wait of a program, a stall for credit. -/
def State.mustProgress (s : State) (u : Nat) : Bool :=
  match ukind u with
  | .eng p e =>
    let x := s.engine (kEng p e)
    !x.halted && !s.engStalled p e &&
      (!x.queue.isEmpty && !s.headWaits u || x.arr.exe.isSome || x.epi.exe.isSome || x.dma.exe.isSome)
  | .vt p v =>
    let x := s.vt (kVt p v)
    !x.halted && decide (x.wait = .none) && (!x.queue.isEmpty && !s.headWaits u || x.launch.isSome)
  | .st p t =>
    let x := s.tile (kSt p t)
    decide ((s.unit u).st = .run ∧ x.wait = .none) && x.loaded && x.ended.isNone

def execNoProgress (u : UnitId) (s : State) : Host.Outcome State Fault Refusal :=
  .next (if s.mustProgress u.val then s.startStep .engine u.val 6 else s)

/-! ## Context, engine and partition steps (R395 to R398) -/

/-- When a step was asked for, or now. -/
def State.startedAt (s : State) (l : LStep) (target : Nat) : Nat :=
  match s.stepOn l target with | some x => x.at_ | none => s.now

/-- A context step. A unit that runs a non-pre-emptible command takes the engine step instead, and the context step waits for an engine
step of one of its units, whose own context steps satisfy it, and for what is outstanding (R395, R409). -/
def State.contextStep (s : State) (x cause : Nat) : State :=
  let at_ := s.startedAt .context x
  let s := s.startStep .context x cause
  let t := s.restUnits x cause
  if !t.1 then t.2
  else match (t.2.ctx x).st with
    | .resetting => t.2.ctxStepEnd x cause at_
    | _ => t.2.stepDone .context x

def execContextStep (x : XidT) (cause : Fin 16) (s : State) : Host.Outcome State Fault Refusal := .next (s.contextStep x.val cause.val)

/-- An engine step; its partition's own reset absorbs it (R409). -/
def State.engineStep (s : State) (u cause : Nat) (passed ladleRead : Bool) : State :=
  let at_ := s.startedAt .engine u
  let s := s.startStep .engine u cause
  if (s.stepOn .engine u).isSome then s.engStep u cause at_ passed ladleRead else s

def execEngineStep (u : UnitId) (cause : Fin 16) (passed ladleRead : Bool) (s : State) : Host.Outcome State Fault Refusal :=
  .next (s.engineStep u.val cause.val passed ladleRead)

/-- A partition step. -/
def State.partitionStep (s : State) (p cause : Nat) (bad : BitVec 69) (retest : Bool) : State :=
  let at_ := s.startedAt .partition p
  let s := s.startStep .partition p cause
  if (s.stepOn .partition p).isSome then s.partStep p 0x0201 cause at_ bad retest else s

def execPartitionStep (p : PartId) (cause : Fin 16) (bad : BitVec 69) (retest : Bool) (s : State) : Host.Outcome State Fault Refusal :=
  .next (s.partitionStep p.val cause.val bad retest)

/-- A watchdog limit has passed: the step is escalated, with CAUSE 7, to the smallest unit that contains the failure (R392). -/
def State.stepTimeout (s : State) (l : LStep) (target : Nat) : State :=
  match s.stepOn l target with
  | none => s
  | some x =>
    let us := s.ctxUnits target
    let s := (s.stepDone l target).fltLast x.cause (LStep.num l) 2 target x.at_
    match l with
    | .context => s.each us (fun s u => s.startStep .engine u 7)
    | .engine => s.startStep .partition (ukind target).part 7
    | .partition => s.startStep .module 0 7
    | _ => s.startStep .powerCycle 0 7

def execStepTimeout (step : LStep) (target : Nat) (s : State) : Host.Outcome State Fault Refusal := .next (s.stepTimeout step target)

/-! ## Power cycle (R400) -/

/-- HLT journals the cause, NODE_DOWN is sent, TRAY_PWR_CYCLE_REQ is asserted, and the compute domains stay off from then on. -/
def State.powerCycle (s : State) (cause : Nat) : State :=
  if s.flt.pwrCycleReq then s
  else
    let s := (s.journal (.cause cause)).sendNodeDown
    let s := s.computeOff none false false cause
    let s := { s with flt := { s.flt with pwrCycleReq := true, steps := [] } }
    (s.fltLast cause 5 1 0 s.now).emit (.pin 0 0 true)

def execPowerCycle (cause : Fin 16) (s : State) : Host.Outcome State Fault Refusal := .next (s.powerCycle cause.val)

/-! ## Module step (R399, R421) -/

/-- A partition goes OFFLINE with every other: no composition reacts, for all of them are restored. -/
def State.offlineInModule (s : State) (p : Nat) : State :=
  if (s.part p).st = .offline then s
  else (s.updPart p (fun x => { x with st := if x.st = .degraded then .degraded else .free })).takeOffline p 0x0201 0 false

/-- What of a host function outlives a module step: its assignment and its lease. Its region lay in partition memory, and its registers,
HOST_TDI_STATE among them, are of reset domain M. No pending event is lost (R308). -/
def Fn.afterModule (f : Fn) : Fn :=
  { valid := f.valid, cid := f.cid, gen := f.gen, lease := f.lease, seq := f.seq, renewed := f.renewed, since := f.since,
    mustAck := f.mustAck, events := f.events, era := f.era + 1 }

/-- The domains that outlive a module reset: the management domains and the metering die (Table 1.17), and the host PHYs, whose ports stay
trained (R399, assumption 165). -/
def keptDoms (doms : Nat) : Nat :=
  ((List.range 4).flatMap (fun i => [domHost i, domMgmt i]) ++ [domMeter]).foldl (fun m n => if has doms n then setBit m n else m) 0

/-- The registers of reset domain M, and everything the module step ends, at their reset values. Host ports stay trained. -/
def State.moduleReset (s : State) : State :=
  { s with
    parts := Map.mapV {} (fun _ x => { x with logicOn := false, retOn := false }) s.parts
    bars := [], net := { routers := Map.mapV {} (fun _ y =>
      { ({} : Router) with faulty := y.faulty, fenced := y.fenced, detours := y.detours }) s.net.routers }
    staged := [], grades := []
    chans := Map.mapV {} (fun _ x => { ({} : Chan) with pprUsed := x.pprUsed, rows := x.rows, corr := x.corr, patrol := x.patrol, st := x.st }) s.chans
    far := Map.mapV {} (fun _ x => { ({} : Far) with gen := x.gen, present := x.present, secs := x.secs }) s.far
    xlt := { lostX := s.xlt.lostX }
    sch := { jobs := s.sch.jobs }
    fab := { node := s.fab.node, system := s.fab.system, mgen := s.fab.mgen, topo := s.fab.topo, jobs := s.fab.jobs,
             ports := Map.mapV {} (fun _ x => { ({} : FabPort) with gen := x.gen, ctl := x.ctl &&& 0xFFF800F0, cpres := x.cpres })
               s.fab.ports }
    host := { ports := Map.mapV {} (fun _ x => { ({} : HostPort) with
                st := x.st, width := x.width, rate := x.rate, ide := x.ide, perstRel := x.perstRel }) s.host.ports
              fns := Map.mapV {} (fun _ f => f.afterModule) s.host.fns, mem := s.host.mem }
    sec := { s.sec with waits := [], lastCode := 0, caches := [], denyHost := 0, denyClear := 0, tcPower := 0,
                        haltedRoles := s.sec.haltedRoles % 2 }
    pwr := { s.pwr with lastCode := 0, step := 0, lowSince := none, crit := false, islSel := 0, railSel := 0, joules := [], prtWatts := [],
                        inputLost := false, doms := keptDoms s.pwr.doms
                        isls := Map.mapV {} (fun _ x => { ({} : Isl) with fmax := x.fmax }) s.pwr.isls }
    flt := { s.flt with steps := [], ladled := [], lastCause := 0, lastStep := 0, lastOutcome := 0, lastTarget := 0, lastUs := 0,
                        ladleSel := 0, reqStep := 0, reqTarget := 0 }
    jrn := { s.jrn with waiting := [], writer := 0, full := false, compacting := false, erasing := false }
    pail := { s.pail with sel := 0 }
    fw := { cores := s.fw.cores, roles := s.fw.roles, dirSeq := s.fw.dirSeq }
    boot := { s.boot with announced := [], changed := 0, evtEn := false, evtVec := 0, cold := false, readyMs := 0, origin := s.now,
                          storeWait := [], needReset := false, replayed := false, fixedSpread := s.boot.spread, phase := .boot } }

/-- The cores other than SEC start again from their checked images, and the first SUP core writes the journal. -/
def State.reloadCores (s : State) : State :=
  let s := s.each [1, 2, 10, 11, 8, 9, 3, 4, 5, 6, 7] (fun s i => s.loadCore i)
  let w := match (coresOf 1).find? (fun i => decide ((s.coreS i).st = .running)) with | none => 0 | some i => i
  { s with jrn := { s.jrn with writer := w } }

/-- Steps 1 to 3 of R399: NODE_DOWN, the discard of all work, the ladles, and every partition and port down. -/
def State.moduleDown (s : State) (cause : Nat) : State :=
  let s := s.sendNodeDown.discardIf (fun _ => true) 0x0201
  let s := s.each ((List.range 64).filter (fun p => decide ((s.part p).st ≠ .offline))) (fun s p =>
    s.each ((List.range 38).filter (fun e => !s.flt.ladled.contains (uEng p e))) (fun s e => s.takeLadle p e cause 4 true))
  let s := s.each (List.range 64) (fun s p => s.offlineInModule p)
  let s := s.each (List.range 32) (fun s f => (s.fabLeave f).updFport f (fun x => { x with st := .down }))
  (s.linesDown.each (List.range 4) (fun s d => s.farLeave d)).ageSettle

/-- The PHY domains of the I/O dies whose rail stands, and the router domains once the compute-die rails run, come up again (R375). -/
def State.domainsOn (s : State) : State :=
  let s := s.each ((List.range 4).filter (fun i => decide ((s.rail (64 + i)).st ≠ .off ∧ (s.rail (64 + i)).st ≠ .shorted)))
    (fun s i => s.setPhys i true)
  if s.boot.computeOn then
    s.each ((List.range 16).filter (fun d => decide ((s.rail (16 + d)).st ≠ .shorted))) (fun s d => s.setDom (domRouter d) true)
  else s

/-- Step 4: the cores restart, requests in progress end with RESET, and the journal is replayed. -/
def State.moduleBoot (s : State) : State :=
  let busy := (s.fw.slots.filter (fun e => e.2.busy || s.fw.held.contains e.1)).map (fun e => (e.1, Map.get 0 e.2.req 1))
  let s := s.moduleReset.reloadCores
  let s := s.each busy (fun s e => s.mbxRespond e.1 0 6 e.2 [])
  let s := { s with flt := { s.flt with nMod := sat 0xFFFF (s.flt.nMod + 1) } }
  if s.jrn.writer = 0 then s else s.replay false none

/-- The channels of partition p among module channel numbers, one bit each. -/
def chansFailed (failed : List Nat) (p : Nat) : BitVec 8 :=
  BitVec.ofNat 8 ((List.range 8).foldl (fun m k => if failed.contains (8 * p + k) then setBit m k else m) 0)

/-- Steps 5 and 6: the units that fail their self-test, named as 512 + u, are retired, the partitions come back, MGEN advances and NODE_UP is sent. A partition that heat or coolant holds stays OFFLINE. -/
def State.moduleUp (s : State) (failed : List Nat) : State :=
  let s := { s with boot := { s.boot with phase := if s.boot.computeOn then .partitions else .waitFlow } }.domainsOn
  let s := s.each ((failed.filter (fun n => decide (512 ≤ n ∧ n < 4416))).map (fun n => n - 512)) (fun s u => s.retireUnit u false 6)
  let s := s.each (List.range 64) (fun s p => s.bringBack p (chansFailed failed p) false)
  let s := { s with fab := { s.fab with mgen := s.fab.mgen + 1 } }
  (s.journal (.gen .module 0 s.fab.mgen)).sendNodeUp

/-- The module step (R399). `failed` names the channels, by module number, that fail training or test, and as 512 + u the units that fail their self-test. A third within 1 h is a power cycle (R392), and so
is any with HLT halted (Table 18.1). -/
def State.moduleStep (s : State) (cause : Nat) (failed : List Nat) : State :=
  let at_ := s.startedAt .module 0
  let times := within s.now 3600000000000 s.flt.mod1h
  if s.roleHalted 5 then s.powerCycle cause
  else if 3 ≤ times.length then (s.fltLast cause 4 2 0 at_).powerCycle 12
  else
    let s := (({ s with flt := { s.flt with mod1h := times } }).moduleDown cause).moduleBoot.moduleUp failed
    (s.fltLast cause 4 1 0 at_).health

def execModuleStep (cause : Fin 16) (failed : List Nat) (s : State) : Host.Outcome State Fault Refusal := .next (s.moduleStep cause.val failed)

/-! ## Substitution of a spare (R406) -/

/-- The record a unit runs under goes onto the spare that takes its place, with its image. -/
def State.moveRecord (s : State) (u v : Nat) : State :=
  match ukind u, ukind v with
  | .eng p a, .eng _ b => s.updEng (kEng p b) (fun x => { x with cfg := (s.engine (kEng p a)).cfg })
  | .vt p a, .vt _ b => (s.updVt (kVt p b) (fun x => { x with cfg := (s.vt (kVt p a)).cfg, loaded := (s.vt (kVt p a)).loaded })).loadProg v
  | _, _ => s

/-- The spare that takes a retired unit's logical index. -/
def State.spareFor (s : State) (u : Nat) : Option Nat :=
  match ukind u with
  | .eng p e => if (s.part p).meMap.contains e then ((s.part p).meSpare.head?).map (uEng p) else none
  | .vt p v => if (s.part p).vtMap.contains v then ((s.part p).vtSpare.head?).map (uVt p) else none
  | .st _ _ => none

/-- SUP substitutes a spare for a retired unit of a BOUND partition and re-derives the collective entries; a derivation that fails costs
the composition the partition. During a re-bind it waits (R409). -/
def State.substitute (s : State) (u : Nat) : State :=
  let p := (ukind u).part
  let c := (s.part p).cid
  match s.spareFor u with
  | none => s
  | some v =>
    if !(s.unit u).retired ∨ (s.part p).st ≠ .bound ∨ (s.comp c).op.isSome ∨ s.roleHalted 1 then s
    else
      let s := s.updPart p (fun x => match ukind u, ukind v with
        | .eng _ a, .eng _ b => { x with meMap := x.meMap.map (fun y => if y = a then b else y), meSpare := x.meSpare.erase b }
        | .vt _ a, .vt _ b => { x with vtMap := x.vtMap.map (fun y => if y = a then b else y), vtSpare := x.vtSpare.erase b }
        | _, _ => x)
      let s := (s.moveRecord u v).journalSpares p
      let ents := s.treesOf c (s.comp c).frames (s.comp c).place
      if s.treesCode c ents = 0 then s.installTrees c ents else s.losePart p 6

def execSpareSubstitute (u : UnitId) (s : State) : Host.Outcome State Fault Refusal := .next (s.substitute u.val)

end Sys2Proof.Machine
end

