-- ==== Sys2Proof/Machine/Startup.lean ====
section
/-!
DEFINITION. Commands of start-up and of the sideband (chapter 19).
-/

namespace Sys2Proof.Machine

/-! ## Cold power-on (R439, R8) -/

/-- What outlives the loss of power: the flash devices, the fuses, the hard repairs of the memory devices (Table 8.14, PPR_LEFT), the pail on its own feed, what stands outside the module, and what the
hardware of routers and rails has lost for good. -/
def State.coldBase (s : State) : State :=
  { ({} : State) with
    pending := s.pending, now := s.now, fresh := s.fresh, out := s.out
    jrn := { log := s.jrn.log, seq := s.jrn.seq, usedBytes := s.jrn.usedBytes, half := s.jrn.half, epoch := s.jrn.epoch,
             corrupt := s.jrn.corrupt, dirty := s.jrn.dirty }
    fw := { roles := s.fw.roles, dirSeq := s.fw.dirSeq }
    pail := { s.pail with ack := 0, sel := 0, gaps := 0, unmeteredUs := 0, lastCode := 0 }
    sec := { svnBlown := s.sec.svnBlown, debugUsedBlown := s.sec.debugUsedBlown, nextKey := s.sec.nextKey }
    net := { routers := Map.mapV {} (fun _ y =>
      { ({} : Router) with faulty := y.faulty, fenced := y.fenced, detours := y.detours }) s.net.routers }
    chans := Map.mapV {} (fun _ x => { ({} : Chan) with pprUsed := x.pprUsed }) s.chans
    far := Map.mapV {} (fun _ x => { ({} : Far) with present := x.present, secs := x.secs }) s.far
    host := { mem := s.host.mem }
    pwr := { rails := Map.mapV {} (fun _ x => { ({} : Rail) with phasesOut := x.phasesOut }) s.pwr.rails,
             reversed := s.pwr.reversed } }

/-- The standby and VIO rails are in regulation, and the main converters run (R431, R439 steps 1 to 4). -/
def State.railsIO (s : State) : State :=
  let s := s.each [64, 65, 66, 67, 68] (fun s r => s.updRail r (fun x => match x.st with
    | .off => { x with st := if 0 < x.phasesOut then .derated else .on }
    | _ => x))
  let s := s.each (List.range 4) (fun s i => (s.setDom (domMgmt i) true).setPhys i (decide ((s.rail (64 + i)).st ≠ .shorted)))
  ({ s with pwr := { s.pwr with mainOn := true, standby := true, inputLost := false }, boot := { s.boot with pwrgd := true } }).emit
    (.pin 1 0 true)

/-- Steps 1 to 4 of R439: the rails, the straps, and the boot of the cores. A reversed input seen before is reported (R371). Until REFCLK
has been classed the module runs on its internal reference. -/
def State.coldPowerOn (s : State) (slot hsris : BitVec 4) : State :=
  if s.pwr.standby then s
  else
    let rev := s.pwr.reversed
    let s := s.coldBase.railsIO
    let s := { s with
      fw := { s.fw with cores := (List.range 12).map (fun i => (i, { ({} : CoreS) with st := .loading })) }
      boot := { s.boot with cold := true, slotId := slot.toNat, hsris := hsris.toNat, resetRel := true, intRef := true, origin := s.now } }
    if rev then ({ s with pwr := { s.pwr with reversed := false } }).pwrCode 0x0503 0 else s

def execColdPowerOn (slotId hsris : BitVec 4) (s : State) : Host.Outcome State Fault Refusal := .next (s.coldPowerOn slotId hsris)

/-- Step 6 of R439, with FLOW_OK high: the compute-die rails and the router domains start. -/
def State.computeRails (s : State) : State :=
  if s.pwr.mainOn && s.boot.resetRel && s.boot.replayed && !s.boot.needReset && !s.flt.pwrCycleReq &&
      decide ((s.coreS 10).st = .running ∧ (s.coreS 9).st = .running) then
    let s := ({ s with pwr := { s.pwr with flowOk := true } }).railsOn
    { s with boot := { s.boot with phase := if s.boot.phase = .ready then .ready else .partitions } }
  else s

def execComputeRailStart (s : State) : Host.Outcome State Fault Refusal := .next s.computeRails

/-- Whether a partition's bring-up has begun: they begin in ascending number with at most 8 at once, so fewer than 8 below it are still to come (R440). -/
def State.bringupTurn (s : State) (p : Nat) : Bool :=
  decide (((List.range p).filter (fun q => decide ((s.part q).st = .offline ∧ (s.part q).holds = []))).length < 8)

/-- A partition is brought up: its tests, its domains, its generation, and its announcement (R440). -/
def State.bringup (s : State) (p : Nat) (bad : BitVec 8) (failed : List Nat) : State :=
  if (s.part p).st ≠ .offline ∨ (s.part p).holds ≠ [] ∨ !s.canCommit ∨ !s.boot.computeOn ∨ s.roleHalted 5 ∨ s.bringupTurn p = false then s
  else
    let s := s.each (failed.filter (fun u => decide ((ukind u).part = p))) (fun s u => s.retireUnit u false 6)
    s.bringBack p bad false

def execPartitionBringup (p : PartId) (bad : BitVec 8) (failedUnits : List UnitId) (s : State) : Host.Outcome State Fault Refusal :=
  .next (s.bringup p.val bad (failedUnits.map (fun u => u.val)))

/-- READY (R442). After a cold power-on the window of each QUIESCED lease counts from here (R421). -/
def State.reachReady (s : State) : State :=
  let settled := (List.range 12).all (fun i => decide ((s.coreS i).st = .running ∨ (s.coreS i).st = .halted))
  if s.boot.phase ≠ .ready ∧ s.boot.announced.length = 64 ∧ settled = true ∧ s.boot.replayed ∧ !s.roleHalted 1 ∧ !s.roleHalted 5 then
    let s := { s with boot := { s.boot with phase := .ready, readyMs := sat 0xFFFFFFFF ((s.now - s.boot.origin) / 1000000) } }
    if s.boot.cold then
      s.each ((s.host.fns.filter (fun e => decide (e.2.lease = .quiesced))).map (fun e => e.1)) (fun s f =>
        s.updFn f (fun y => { y with since := s.now }))
    else s
  else s

def execReady (s : State) : Host.Outcome State Fault Refusal := .next s.reachReady

/-! ## Sideband (R431 to R436) -/

/-- MOD_RESET_N held low starts a module step while the module serves, and otherwise takes start-up back to the replay; the compute-die rails
stay off until its release. -/
def State.modReset (s : State) (low : Bool) : State :=
  if !low then { s with boot := { s.boot with resetRel := true } }
  else
    let s := { s with boot := { s.boot with resetRel := false } }
    match s.boot.phase with
    | .standby => s
    | .ready => (s.startStep .module 0 10).computeOff none false true 10
    | .boot => s
    | _ => let s := s.computeOff none false true 10; { s with boot := { s.boot with phase := .replay, replayed := false } }

def execModResetN (low : Bool) (s : State) : Host.Outcome State Fault Refusal := .next (s.modReset low)

def execPerstN (h : HPort) (released : Bool) (s : State) : Host.Outcome State Fault Refusal :=
  let s := if released then s else s.linkDown h.val
  .next (s.updHport h.val (fun p => { p with perstRel := released }))

/-- An expander's presence changes; a rise of PRSNT_N is surprise removal. -/
def State.prsnt (s : State) (d : Nat) (present : Bool) : State :=
  let s := s.updFar d (fun f => { f with present := present })
  if present then s.farStart d else if (s.farP d).st = .down then s else s.farLeave d

def execPrsntN (d : FarId) (present : Bool) (s : State) : Host.Outcome State Fault Refusal := .next (s.prsnt d.val present)

/-- Common-clock host ports lose their link when the module leaves REFCLK. -/
def execRefclkBad (s : State) : Host.Outcome State Fault Refusal :=
  let s := { s with boot := { s.boot with refOk := false, intRef := true, spread := false } }
  .next (s.each ((List.range 4).filter (fun h => !has s.boot.hsris h)) (fun s h => s.linkDown h))

/-- REFCLK is CLEAN or SPREAD again. The class found before the replay fixes the source of the far ports and the fabric. -/
def State.refclk (s : State) (c : RefClass) : State :=
  match c with
  | .bad => s
  | k =>
    let sp := decide (k = .spread)
    { s with boot := { s.boot with refOk := true, intRef := false, spread := sp,
                                   fixedSpread := if s.boot.phase = .boot then sp else s.boot.fixedSpread } }

def execRefclkReturn (cls : RefClass) (s : State) : Host.Outcome State Fault Refusal := .next (s.refclk cls)

/-- The input is back while the standby converter runs: the main converters start again under a module step with CAUSE 9. -/
def State.inputBack (s : State) : State :=
  if s.pwr.inputLost && s.pwr.standby then s.railsIO.startStep .module 0 9 else s

def execInputReturn (s : State) : Host.Outcome State Fault Refusal := .next s.inputBack

/-- The protection controller's flag is non-volatile. -/
def execReversedPolarity (s : State) : Host.Outcome State Fault Refusal := .next { s with pwr := { s.pwr with reversed := true } }

/-- A host port whose PERST_N is released and whose link is down trains (Table 12.13); one that requires IDE has it established within a microsecond
of its link coming up (R295, assumption 223). -/
def State.hostTick (s : State) : State :=
  s.each (List.range 4) (fun s h => s.updHport h (fun p =>
    { p with st := if p.st = .down ∧ p.perstRel ∧ s.domOn (domHost h) = true then .training else p.st,
             ide := p.ide || p.ideDue, ideDue := false }))

/-- A host port finishes training, and records IDE_FAIL until IDE is established where it is required (Table 12.1): while MOD_PWRGD is high, its PHY domain is on, its PERST_N is released and its clock is there (R433, R436, R295). -/
def State.hostTrained (s : State) (h width rate : Nat) : State :=
  let p := s.hport h
  if (p.st = .down ∨ p.st = .training) ∧ s.boot.pwrgd ∧ s.domOn (domHost h) = true ∧ p.perstRel ∧ (has s.boot.hsris h ∨ s.boot.refOk) then
    let up (st : HPState) : State :=
      let s := s.updHport h (fun p => { p with st := st, width := width, rate := rate, ide := false, ideDue := p.ideReq })
      if p.ideReq then s.hostCode h 0x070B else s
    if width = 8 ∧ rate = 64 then up .up
    else if rate = 32 ∧ (width = 8 ∨ width = 4) then (up .degraded).hostCode h 0x0707
    else s
  else s

def execHostLinkUp (h : HPort) (width rate : Nat) (s : State) : Host.Outcome State Fault Refusal := .next (s.hostTrained h.val width rate)

/-- The wait of a composition for its store's port is over: the store is read, and a read that fails ends it (R443, R169). -/
def State.storeExpiry (s : State) (c : Nat) : State :=
  if s.boot.storeWait.contains c then
    let s := { s with boot := { s.boot with storeWait := s.boot.storeWait.erase c } }
    if s.storeGood c && (s.comp c).weights.all (fun e => (s.goldenOf e.2 (s.comp c).storePort).isSome) then (s.readStore c).restoreComp c
    else ((s.readStore c).updComp c (fun y => { y with restoring := false, place := [] })).enterUnbinding c Request.zero false []
  else s

def execStoreWaitExpiry (c : CidT) (s : State) : Host.Outcome State Fault Refusal := .next (s.storeExpiry c.val)

/-- Set Endpoint ID, or a dynamic I3C address (R432). -/
def execSetEndpointId (eid : Byte) (dynAddr : Option (BitVec 7)) (s : State) : Host.Outcome State Fault Refusal :=
  .next (match dynAddr with
    | none => { s with boot := { s.boot with eid := eid } }
    | some a => { s with boot := { s.boot with dynAddr := some a } })

end Sys2Proof.Machine
end

