-- ==== Sys2Proof/Machine/Clock.lean ====
section
/-!
DEFINITION. What a microsecond does when no command waits: the clocks of the module and of the pail run, budgets and slices are spent, and
what waited only for time or for a condition goes on (assumption 2).
-/

namespace Sys2Proof.Machine

/-- Cream runs on a stage, or a switch that cream causes is in progress there (R245). A wait for a non-pre-emptible command is charged as
its stop ends (R249). -/
def State.creamBusy (s : State) (c g : Nat) : Bool :=
  let y := s.stage c g
  match y.phase with
  | .quiet => y.work.isSome && y.resident.any (fun x => !(s.ctx x).skim)
  | .saving _ next => y.npStop.isNone && next.any (fun x => !(s.ctx x).skim)
  | .restoring x => !(s.ctx x).skim

/-- Skim runs on a stage. -/
def State.skimBusy (s : State) (c g : Nat) : Bool :=
  let y := s.stage c g
  decide (y.phase = .quiet) && y.work.isSome && y.resident.any (fun x => (s.ctx x).skim)

/-- A stage's cream budget accrues CREAM_SHARE / 1024 of a microsecond, up to its cap, and is spent; the running slice and the running work go on
(R245, R247, R253). A stop that waited for a non-pre-emptible command is charged once that has ended (R249). -/
def State.stageTick (s : State) (c g : Nat) : State :=
  let x := s.comp c
  let gain := x.creamShare * (s.now + 1000) / 1024 - x.creamShare * s.now / 1024
  let spent := if s.creamBusy c g then 1000 else 0
  let slice := if s.skimBusy c g then 1000 else 0
  let y := s.stage c g
  let s := match y.phase with
    | .quiet => (match y.work with
      | none => s
      | some n => s.setWork n ((s.work n).map (fun (w : Work) => { w with ran := Map.upd 0 g (fun v => v + 1000) w.ran })))
    | .saving x _ => if (s.stageUnits c g).any s.npRunning then s else s.chargeStop c g x
    | .restoring _ => s
  s.updStage c g (fun y => { y with budget := min x.budgetCap (y.budget + gain) - spent, sliceLeft := y.sliceLeft - slice })

/-- Every stage of the compositions that serve. -/
def State.stagesTick (s : State) : State :=
  s.each (s.comps.filter (fun e => decide (e.2.st ≠ .free ∧ e.2.st ≠ .binding))) (fun s e => s.each e.2.groups (fun s g => s.stageTick e.1 g.first))

/-- While skim is parked, contexts that have run out of work since are saved and PARKED (R257). -/
def State.parkTick (s : State) : State := if s.sch.park then s.parkSkim else s

/-- A ramp of 64 cycles is over within the microsecond (R97). -/
def State.rampsEnd (s : State) : State :=
  s.each (s.eng.filter (fun e => decide (e.2.soft = .ramp))) (fun s e => s.updEng e.1 (fun x => { x with soft := .none }))

/-- Jobs whose ranks are all up again return to FORMED (Table 11.6), and an offer that has changed makes a round (R286). -/
def State.jobsTick (s : State) : State :=
  s.each (s.fab.jobs.map (fun e => e.1)) (fun s c => (s.jobReturn c).freqChange c)

/-- The fabric ports go on: frames in transit take the reservations that have come free, and the ports audit their pools (R271, R276). -/
def State.portsTick (s : State) : State := s.forwardAll.auditTick

/-- The contexts that a rolled-back operation had saved are restored, and its composition is ACTIVE again (R175, Table 7.3). -/
def State.rollTick (s : State) : State :=
  (s.each ((s.comps.filter (fun e => e.2.op.any (fun o => o.rolled))).map (fun e => e.1)) (fun s c => s.undo c 0x0207 0x0207)).settleHellos

/-- The channels of a partition whose step has run 32 ms, the longest initialisation and training of Table 8.5, are under test (R201,
assumption 190). -/
def State.trainTick (s : State) : State :=
  s.each (s.flt.steps.filter (fun x => x.step == .partition && decide (x.at_ + 32000000 ≤ s.now))) (fun s x =>
    s.each (List.range 8) (fun s k => s.updChan (8 * x.target + k) (fun c => { c with st := if c.st = .training then .test else c.st })))

/-- What waited for a copy of logical partition 0 goes on (R298, Table 13.3). -/
def State.regionTick (s : State) : State := (s.each (s.host.fns.map (fun e => e.1)) (fun s f => s.lateNotices f)).handTick

/-- A microsecond passes. -/
def tick (s : State) : State :=
  let s := s.farTick.trainTick.stagesTick.parkTick.rampsEnd.rollTick.jobsTick.portsTick.regionTick.hostTick.farSettle.ageSettle.sendAnswers
  { s with now := s.now + 1000, pail := s.pail.tick }

end Sys2Proof.Machine
end

