-- ==== Sys2Proof/Machine/Network.lean ====
section
/-!
DEFINITION. Commands of the die network (chapter 5): flits, pours and churns, credits and audits, faulty routers and links, and
crossings.
-/

namespace Sys2Proof.Machine

/-! ## Flits (R110 to R114) -/

/-- A flit as its sender sent it: without what the link did to it. -/
def cleanFlit (f : Flit) : Flit := { f with eccBad := false, parityBad := 0 }

/-- The oldest flit in flight to a pool: a link delivers in order. -/
def State.nextFlit (s : State) (id : Nat) : Option Flit := (s.net.flights.find? (fun e => e.1 == id)).map (fun e => e.2)

/-- The flight to a port of a router that a flit is: the oldest of its pool. A flight keeps the pool it was sent into. -/
def State.flightOf (s : State) (r port : Nat) (f : Flit) : Option Nat :=
  (s.net.flights.find? (fun e => poolSite e.1 == (r, port) && e.2 == cleanFlit f && s.nextFlit e.1 == some e.2)).map (fun e => e.1)

/-- A control word with an uncorrectable error has come in at a router: the second within 1 ms makes the router faulty (R116). Answers whether it
does. -/
def State.eccSeen (s : State) (r : Nat) : Bool × State :=
  let l := within s.now 1000000 (s.router r).eccAt
  (decide (2 ≤ l.length), s.updRouter r (fun x => { x with eccAt := l }))

/-- A flit arrives at a port of a router whose domain is powered; while a crossing holds it, it stays in the FIFO, which is the head of the buffer
(R131). One that nothing in the model has sent is taken as sent now by what stands outside it, while a credit of the pool is there (assumption
43): an endpoint of the router, or an I/O die at the gateway of R113. A CMD, EVENT or STREAM flit takes its queue's credit too (R58). -/
def State.flitIn (s : State) (r port : Nat) (f : Flit) : State :=
  if !s.routerOn r then s
  else
    match s.flightOf r port f with
    | some id => if s.landOpen r port then (((s.landOn id (cleanFlit f)).crossAll (landXings r port)).checkPool id).takeFlit r port id f else s
    | none =>
      let g := if port = 0 then s.stamp r (cleanFlit f) else cleanFlit f
      let id := s.poolOf r port g
      if s.net.flights.any (fun e => e.1 == id) || !(s.pool id).ready then s
      else if port = 0 && (!s.mayInject r g || decide (g.src ≠ r)) then s
      else if decide (port ≠ 0) && ((neighbor r port).isSome || !entersAt r port f.src f.dst || !s.landOpen r port) then s
      else match s.takeQueue g with
        | none => s
        | some s =>
          let s := s.sendOn id g
          if s.landOpen r port then
            ((s.landOn id g).crossAll (landXings r port)).takeFlit r port id { g with eccBad := f.eccBad, parityBad := f.parityBad }
          else s


/-! ## Pour (R123) -/

/-- Whether a branch of a pour can take a flit of the input pool `id`: the local port when its link is free and the crossing passes it,
another with an open port, a free link and a credit. -/
def State.branchReady (s : State) (r o id : Nat) (f : Flit) : Bool :=
  if o = 0 then (s.router r).linkFree 0 f.vc id && s.xingOpen (localXing r)
  else (neighbor r o).isSome && s.mayGo r o id (s.beyond r o f) f

/-- One copy of a pour flit. The local copy lands, and its last flit is acknowledged to the source (R123). -/
def State.branchSend (s : State) (r o id : Nat) (e : CEnt) (f : Flit) : State :=
  if o = 0 then
    let t := ((s.cross (localXing r)).usedLink r 0 id f).landCollective r e f
    if t.1 && f.tail && f.last then t.2.inject r (ackFlit r f.src f.xid f.group f.gen) else t.2
  else s.goOut r o id f

/-- The oldest pour flit at an input of a router is copied to every branch at once; one whose entry has become invalid is dropped (R111). At the source of a spanning pour the combine unit
takes a copy too (R281). -/
def State.pour (s : State) (r port : Nat) : State :=
  match (s.router r).inq.find? (fun x => x.port == port && x.flit.kind == 4) with
  | none => s
  | some x =>
    let f := x.flit
    let cid := (s.ctx f.xid).cid
    match (s.router r).entry cid f.group false with
    | none => (s.updRouter r (fun y => { y with inq := y.inq.erase x })).dropFlit r x.pool
    | some e =>
      let outs := (List.range 5).filter (has e.outMask)
      if has e.inMask port && outs.all (fun o => s.branchReady r o x.pool f) && (decide (port ≠ 0) || s.winReady cid f.group) then
        let s := s.updRouter r (fun y => { y with inq := y.inq.erase x })
        let s := s.freeOn x.pool
        let s := if port = 0 ∧ (s.comp cid).spanning f.group = true ∧ (s.job cid).rank = 0 then
            (let s := s.toWindow cid f.group e.got f
             s.updEntry r cid f.group (fun y => { y with got := if f.tail && f.last then 0 else y.got + 64 }))
          else s
        s.each outs (fun s o => s.branchSend r o x.pool e f)
      else s

def execPourForward (r : RouterId) (port : RPort) (s : State) : Host.Outcome State Fault Refusal := .next (s.pour r.val (RPort.num port))

/-! ## Churn (R125, R126) -/

/-- The flit an input of a node presents for a group. -/
def State.presented (s : State) (r port cid g : Nat) : Option Held :=
  (s.router r).inq.find? (fun x => x.port == port && x.flit.kind == 5 && x.flit.group == g && (s.ctx x.flit.xid).cid == cid)

/-- What a node's output counts as at the links it uses: an input of its own (R107). -/
def nodeInput (cid g : Nat) : Nat := 2 ^ 50 + 4096 * cid + g

/-- A node combines the flits its inputs present, and sends the result on (R124, R125). Inputs that end unequally break the use of the
tree (R126). -/
def State.churn (s : State) (r cid g : Nat) : State :=
  match (s.router r).entry cid g true with
  | none => s
  | some e =>
    let ins := (List.range 5).filter (has e.inMask)
    let xs := ins.filterMap (fun i => s.presented r i cid g)
    match xs with
    | [] => s
    | x :: rest =>
      if xs.length < ins.length then s
      else
        let f := x.flit
        if rest.any (fun y => y.flit.fidx != f.fidx || y.flit.tail != f.tail || y.flit.last != f.last) then s.churnBreak cid g f.xid
        else
          let out := { f with payload := churnOp e.op (xs.map (fun y => y.flit.payload)), poison := xs.any (fun y => y.flit.poison) }
          let take (s : State) : State := s.each xs (fun s y =>
            (s.updRouter r (fun z => { z with inq := z.inq.erase y })).freeOn y.pool)
          if has e.outMask 0 then
            (if s.branchReady r 0 (nodeInput cid g) out && s.winReady cid g then
              (((take s).cross (localXing r)).usedLink r 0 (nodeInput cid g) out).churnRoot r e out else s)
          else match (List.range 5).find? (has e.outMask) with
            | none => s
            | some o =>
              if s.branchReady r o (nodeInput cid g) out then (take s).branchSend r o (nodeInput cid g) e out else s

def execChurnCombine (r : RouterId) (c : CidT) (group : Nat) (s : State) : Host.Outcome State Fault Refusal :=
  .next (s.churn r.val c.val group)

/-! ## Detours (R115) -/

/-- The neighbour of router r beside it in its row or its column that exists, the west or the north one first (R115, assumption 163). -/
def besideCol (r : Nat) : Nat := if 0 < rGx r then rAt (rGx r - 1) (rGy r) else rAt (rGx r + 1) (rGy r)
def besideRow (r : Nat) : Nat := if 0 < rGy r then rAt (rGx r) (rGy r - 1) else rAt (rGx r) (rGy r + 1)

/-- The detour entries of router r around a faulty router f (R115). With source and destination in one row the neighbour to the north is taken when
there is one (assumption 163). The entries for I/O destinations come first: the waypoint is the source's neighbour one column aside (IO0, IO2)
or one row aside (IO1, IO3). -/
def faultDetours (f r : Nat) : List Detour :=
  let fx := rGx f
  let fy := rGy f
  let rx := rGx r
  let ry := rGy r
  if r = f then []
  else if ry = fy then
    let x0 := if rx < fx then fx else 0
    let x1 := if rx < fx then 63 else fx
    let edge := if rx < fx then 63 else 0
    [{ x0 := edge, x1 := edge, y0 := ry, y1 := ry, wpt := besideRow r, io := true }] ++
    (if 0 < fy then [{ x0 := x0, x1 := x1, y0 := 0, y1 := fy - 1, wpt := rAt rx (ry - 1) }] else []) ++
    (if fy < 63 then [{ x0 := x0, x1 := x1, y0 := fy + 1, y1 := 63, wpt := rAt rx (ry + 1) }] else []) ++
    [{ x0 := x0, x1 := x1, y0 := fy, y1 := fy, wpt := besideRow r }]
  else
    let side := if 0 < fx then fx - 1 else fx + 1
    let ys := if ry < fy then (List.range 64).filter (fun y => decide (fy < y)) else (List.range fy).reverse
    let edge := if ry < fy then 63 else 0
    (if rx = fx then [{ x0 := rx, x1 := rx, y0 := edge, y1 := edge, wpt := besideCol r, io := true }] else []) ++
    (if rx = fx then [{ x0 := fx, x1 := fx, y0 := fy, y1 := fy, wpt := rAt side ry }] else []) ++
    ys.map (fun y => { x0 := fx, x1 := fx, y0 := y, y1 := y, wpt := rAt side y })

/-- Ends of die-to-die link l: a router on one side, the port out of it, and how many routers wide. Links 0 to 11 join dies in a row,
12 to 23 dies in a column, and 24 + 4 io + i the i-th die of an edge to I/O die io (assumption 44). -/
def linkEnds (l : Nat) : List (Nat × Nat) :=
  if l < 12 then (List.range 16).map (fun i => (rAt (16 * (l % 3) + 15) (16 * (l / 3) + i), 2))
  else if l < 24 then (List.range 16).map (fun i => (rAt (16 * ((l - 12) % 4) + i) (16 * ((l - 12) / 4) + 15), 3))
  else
    let io := (l - 24) / 4
    let b := 16 * ((l - 24) % 4)
    (List.range 16).map (fun i =>
      (match io with | 0 => rAt (b + i) 0 | 1 => rAt 63 (b + i) | 2 => rAt (b + i) 63 | _ => rAt 0 (b + i), ioPort io))

/-- A row or column in the neighbouring die. -/
def besideDie (v : Nat) : Nat := if v < 16 then 16 else 16 * (v / 16) - 1

/-- The detour entries of router r around a failed link: the waypoint lies on the other side of a neighbouring die (R115). -/
def linkDetours (l r : Nat) : List Detour :=
  let rx := rGx r
  let ry := rGy r
  if l < 12 then
    let x := 16 * (l % 3) + 15
    if ry / 16 = l / 3 then
      [if rx ≤ x then { x0 := x + 1, x1 := 63, y0 := 0, y1 := 63, wpt := rAt rx (besideDie ry) }
       else { x0 := 0, x1 := x, y0 := 0, y1 := 63, wpt := rAt rx (besideDie ry) }]
    else []
  else if l < 24 then
    let y := 16 * ((l - 12) / 4) + 15
    let c := 16 * ((l - 12) % 4)
    let ys := if ry ≤ y then (List.range 64).filter (fun v => decide (y < v)) else List.range (y + 1)
    ys.map (fun v => { x0 := c, x1 := c + 15, y0 := v, y1 := v, wpt := rAt (besideDie c) v })
  else
    let io := (l - 24) / 4
    let b := 16 * ((l - 24) % 4)
    if io % 2 = 0 then
      (if b ≤ rx ∧ rx < b + 16 then
        [{ x0 := rx, x1 := rx, y0 := if io = 0 then 0 else 63, y1 := if io = 0 then 0 else 63, wpt := rAt (besideDie rx) ry, io := true }]
       else [])
    else if b ≤ ry ∧ ry < b + 16 then
      [{ x0 := if io = 1 then 63 else 0, x1 := if io = 1 then 63 else 0, y0 := ry, y1 := ry, wpt := rAt rx (besideDie ry), io := true }]
    else []

/-- Whether router r and a place a detour entry covers serve partitions of one composition. -/
def State.pairUsed (s : State) (r : Nat) (d : Detour) : Bool :=
  let p := s.part (routerEp r).1
  let q := s.part (routerEp (rAt d.x0 d.y0)).1
  d.io || decide (p.st = .bound ∧ q.st = .bound ∧ p.cid = q.cid)

/-- Entries are installed in every router of the module (R116 item 3). A table holds 32; where more are wanted, the pairs that a bound
composition uses come first (R114, assumption 42). -/
def State.installDetours (s : State) (g : Nat → List Detour) : State :=
  s.each (List.range 4096) (fun s r =>
    let l := g r
    if l.isEmpty then s
    else
      let l := l.filter (s.pairUsed r) ++ l.filter (fun d => !s.pairUsed r d)
      s.updRouter r (fun x => { x with detours := (x.detours ++ l).take 32 }))

/-! ## Faults of the network (R115, R116) -/

/-- A port of a router is fenced, on both sides, and the pools of its link are retired, those of churn windows too. -/
def State.fencePort (s : State) (r port : Nat) : State :=
  let retire (s : State) (r port : Nat) : State :=
    let s := s.each (List.range 8) (fun s k => s.updPool (bufPool r port (k / 2) (k % 2)) (fun p => { p with retired := true }))
    s.each (s.net.pools.filter (fun e => decide (2 ^ 27 ≤ e.1) && poolSite e.1 == (r, port))) (fun s e =>
      s.updPool e.1 (fun p => { p with retired := true }))
  let s := (s.updRouter r (fun x => { x with fenced := setBit x.fenced port }))
  let s := retire s r port
  match neighbor r port with
  | none => s.each (List.range 8) (fun s k => s.updPool (adapterPool r port (k / 2) (k % 2)) (fun p => { p with retired := true }))
  | some n => retire (s.updRouter n (fun x => { x with fenced := setBit x.fenced (facing port) })) n (facing port)

/-- Whether the route from some router of partition p to some router of partition q passes router f: along p's row, then along q's column
(R112). -/
def mayCross (f p q : Nat) : Bool :=
  let fx := rGx f
  let fy := rGy f
  decide (blockY p ≤ fy ∧ fy < blockY p + 8 ∧ min (blockX p) (blockX q) ≤ fx ∧ fx < max (blockX p) (blockX q) + 8) ||
  decide (blockX q ≤ fx ∧ fx < blockX q + 8 ∧ min (blockY p) (blockY q) ≤ fy ∧ fy < max (blockY p) (blockY q) + 8)

/-- Whether the route between some router of partition p and I/O die io passes router f: along the column or the row to the edge (R113). -/
def ioCross (f p io : Nat) : Bool :=
  let fx := rGx f
  let fy := rGy f
  match io with
  | 0 => decide (blockX p ≤ fx ∧ fx < blockX p + 8 ∧ fy < blockY p + 8)
  | 2 => decide (blockX p ≤ fx ∧ fx < blockX p + 8 ∧ blockY p ≤ fy)
  | 1 => decide (blockY p ≤ fy ∧ fy < blockY p + 8 ∧ blockX p ≤ fx)
  | _ => decide (blockY p ≤ fy ∧ fy < blockY p + 8 ∧ fx < blockX p + 8)

/-- The I/O dies a work's routes lead to: that of its host port, those of its FAR and HOST ranges, and every one for a composition on the
fabric. -/
def State.workIo (s : State) (w : Work) : List Nat :=
  w.port :: ((s.validSlots w.xid).filterMap (fun e =>
    if eKind e.2.entry = 1 then some (eTarget e.2.entry / 2 ^ 41 % 4) else if eKind e.2.entry = 2 then some (eAux e.2.entry) else none)) ++
    (if (s.comp w.cid).multi then List.range 4 else [])

/-- The work of every context one of whose routes satisfies a condition is discarded with UNIT_RETIRED (R116 item 4): `on` two partitions of
its composition, or `out` a partition and an I/O die. -/
def State.discardRoutes (s : State) (on out : Nat → Nat → Bool) : State :=
  s.each s.allWork (fun s e =>
    let ps := (s.comp e.2.cid).members
    if e.2.started && ps.any (fun p => ps.any (on p) || (s.workIo e.2).any (out p)) then s.finishWork e.1 0x0209 else s)

/-- The work of every context whose routes cross router f is discarded (R116 item 4). -/
def State.discardCrossing (s : State) (f : Nat) : State := s.discardRoutes (mayCross f) (ioCross f)

/-- A partition loses an endpoint that has no spare: a package controller with its four channels, or the barrier block (R116 item 2). -/
def State.endpointLost (s : State) (p n : Nat) : State :=
  let s := s.losePart p 6
  if n = 63 then s.updPart p (fun x => { x with barrierBlockOk := false })
  else s.each (List.range 4) (fun s k => s.updChan (8 * p + 4 * (n - 61) + k) (fun c => { c with st := .failed }))

/-- The endpoint a router serves is retired (R116 item 2). -/
def State.endpointGone (s : State) (r : Nat) : State :=
  match routerUnit r with
  | some u => s.retireUnit u false 6
  | none => s.endpointLost (routerEp r).1 (routerEp r).2

/-- Whether the hops along a list of routers are open: none of them is faulty, and none of the ports between them is fenced. -/
def State.wayOpen (s : State) (l : List Nat) : Bool :=
  match l with
  | [] => true
  | [a] => !(s.router a).faulty
  | a :: b :: r => !(s.router a).faulty && !has (s.router a).fenced (stepTo a b) && s.wayOpen (b :: r)

/-- Whether a flit from router a reaches router b under the detours of a (R112, R114). -/
def State.reaches (s : State) (a b : Nat) : Bool :=
  let f := s.stamp a { Flit.zero with dst := b, kind := 1 }
  if f.leg then s.wayOpen (walk 128 a b) else s.wayOpen (walk 128 a f.wpt) && s.wayOpen (walk 128 f.wpt b)

/-- The routers of the members of a composition whose endpoints still serve. -/
def State.ends (s : State) (c : Nat) : List Nat :=
  (s.comp c).members.flatMap (fun p => ((List.range 64).map (epRouter p)).filter (fun r =>
    !(s.router r).faulty && (match routerUnit r with | none => true | some u => !(s.unit u).retired)))

/-- Whether a flit from router a reaches I/O die io under the detours of a (R113, R114). -/
def State.reachesIo (s : State) (a io : Nat) : Bool :=
  let f := s.stamp a { Flit.zero with dst := 4096 + 1024 * io, kind := 1 }
  let from_ (r : Nat) : Bool := s.wayOpen (walk 128 r (ioGate r io)) && !has (s.router (ioGate r io)).fenced (ioPort io)
  if f.leg then from_ a else s.wayOpen (walk 128 a f.wpt) && from_ f.wpt

/-- The I/O dies the routes of a composition lead to. -/
def State.compIo (s : State) (c : Nat) : List Nat :=
  ((s.allWork.filter (fun e => e.2.cid == c)).flatMap (fun e => s.workIo e.2)).eraseDups

/-- An endpoint of a composition that is cut off: no other reaches it, it reaches no other, or an I/O die it needs is out of its reach. -/
def State.cutOff (s : State) (c b : Nat) : Bool :=
  let others := (s.ends c).filter (fun a => a != b)
  !others.isEmpty && (others.all (fun a => !s.reaches a b) || others.all (fun a => !s.reaches b a)) ||
    (s.compIo c).any (fun io => !s.reachesIo b io)

/-- When several routers and links have failed, an endpoint of a bound composition that cannot be reached is retired as though its router had
failed (R115): first those that are cut off, then, one at a time, one that some other that is left cannot reach. -/
def State.retireUnreached (s : State) : State :=
  let broken := (s.net.routers.filter (fun e => e.2.faulty)).length + (s.net.links.filter (fun e => e.2.failed)).length
  if broken < 2 then s
  else
    s.each ((s.comps.filter (fun e => decide (e.2.st = .active ∨ e.2.st = .impaired ∨ e.2.st = .rebinding))).map (fun e => e.1)) (fun s c =>
      let s := s.each ((s.ends c).filter (s.cutOff c)) State.endpointGone
      s.each (s.ends c) (fun s b =>
        if (s.ends c).contains b && (s.ends c).any (fun a => !s.reaches a b) then s.endpointGone b else s))

/-- A router is declared faulty (R116). -/
def State.routerFault (s : State) (r : Nat) : State :=
  if (s.router r).faulty then s
  else
    let s := s.updRouter r (fun x => { x with faulty := true })
    let s := { s with flt := { s.flt with retRouters := s.flt.retRouters + 1 } }
    let s := s.each [1, 2, 3, 4] (fun s o => s.fencePort r o)
    let s := s.discardCrossing r
    let s := s.endpointGone r
    ((s.installDetours (faultDetours r)).retireUnreached).health

def execRouterFaulty (r : RouterId) (s : State) : Host.Outcome State Fault Refusal := .next (s.routerFault r.val)

/-- Whether a route from a router of partition p to one of partition q uses link l between two dies. -/
def linkCross (l p q : Nat) : Bool :=
  if l < 12 then
    let x := 16 * (l % 3) + 15
    decide (blockY p / 16 = l / 3) && (decide (blockX p ≤ x ∧ x < blockX q) || decide (blockX q ≤ x ∧ x < blockX p))
  else if l < 24 then
    let y := 16 * ((l - 12) / 4) + 15
    decide (blockX q / 16 = (l - 12) % 4) && (decide (blockY p ≤ y ∧ y < blockY q) || decide (blockY q ≤ y ∧ y < blockY p))
  else false

/-- Whether a route between partition p and I/O die io uses link l: the edge link of that die in p's column or row, or a link between dies on the
way there. -/
def linkIo (l p io : Nat) : Bool :=
  if 24 ≤ l then decide ((l - 24) / 4 = io ∧ (if io % 2 = 0 then blockX p else blockY p) / 16 = (l - 24) % 4)
  else if l < 12 then
    decide (io % 2 = 1 ∧ blockY p / 16 = l / 3) && (if io = 1 then decide (blockX p ≤ 16 * (l % 3) + 15) else decide (16 * (l % 3) + 15 < blockX p))
  else
    decide (io % 2 = 0 ∧ blockX p / 16 = (l - 12) % 4) &&
      (if io = 2 then decide (blockY p ≤ 16 * ((l - 12) / 4) + 15) else decide (16 * ((l - 12) / 4) + 15 < blockY p))

/-- A link between dies fails: its ports are fenced, the work whose routes use it is discarded, and detours are installed (R115, R121). -/
def State.linkFail (s : State) (l : Nat) : State :=
  let s := s.each (linkEnds l) (fun s e => s.fencePort e.1 e.2)
  ((s.discardRoutes (linkCross l) (linkIo l)).installDetours (linkDetours l)).retireUnreached

def State.dlink (s : State) (l : Nat) : Link := Map.get {} s.net.links l

/-- A link word is replayed; 16 replays within 1 µs, or a lane repair without spares, fail the link (R121). -/
def execLinkWordCrcFail (l : Fin 40) (sparesUsed : Bool) (s : State) : Host.Outcome State Fault Refusal :=
  .next (if (s.dlink l.val).failed then s
    else
      let x : Link := { s.dlink l.val with replays := within s.now 1000 (s.dlink l.val).replays }
      let bad := sparesUsed || decide (16 ≤ x.replays.length)
      let s := { s with net := { s.net with links := Map.set {} l.val { x with failed := bad } s.net.links } }
      if bad then s.linkFail l.val else s)

/-- A flit arrives. An uncorrectable control word counts against the router that sees it (R111, R116). -/
def execFlitArrive (r : RouterId) (port : RPort) (f : Flit) (s : State) : Host.Outcome State Fault Refusal :=
  .next (
    let s := s.flitIn r.val (RPort.num port) f
    if f.eccBad && s.routerOn r.val then (let t := s.eccSeen r.val; if t.1 then t.2.routerFault r.val else t.2) else s)

/-! ## Credits and audits (R128 to R130) -/

/-- What waits at a router goes on: what its inputs hold, and what its endpoint has to inject. -/
def State.stirRouter (s : State) (r : Nat) : State :=
  let s := s.drainRouter r (s.router r).inq.length
  s.drainOut r (s.router r).outq.length [] (s.router r).outq

/-- What waits for a credit of a pool goes on: the endpoint of a local port, the router of an adapter, or the router upstream. -/
def State.wakePool (s : State) (id : Nat) : State :=
  let t := poolSite id
  if 163840 ≤ id ∧ id < 2 ^ 20 then s
  else if 2 ^ 21 ≤ id ∧ id < 2 ^ 27 then s
  else if 2 ^ 20 ≤ id ∧ id < 2 ^ 21 then s.drainRouter t.1 (s.router t.1).inq.length
  else if t.2 = 0 then s.drainOut t.1 (s.router t.1).outq.length [] (s.router t.1).outq
  else match neighbor t.1 t.2 with
    | none => s
    | some n => s.drainRouter n (s.router n).inq.length

/-- The answer of an audit is next on the return wires: every credit returned before it has arrived (R129). -/
def Pool.answerFirst (p : Pool) : Bool :=
  match p.answer with
  | none => false
  | some v => decide (BitVec.ofNat 32 p.ret ≤ p.cs - v)

/-- A freed slot's credit arrives, in order with the answers of audits (R128, R129). -/
def execCreditReturn (pool : Nat) (s : State) : Host.Outcome State Fault Refusal :=
  .next (if 0 < (s.pool pool).ret && !(s.pool pool).answerFirst then
      (s.updPool pool (fun p => { p with ret := p.ret - 1, fly := p.fly - 1, held := p.held + 1, cr := p.cr + 1 })).checkPool pool |>.wakePool pool
    else s)

/-- The virtual channel of a pool's flits (Tables 5.3, 5.10). -/
def poolVc (id : Nat) : Nat :=
  if 2 ^ 27 ≤ id then 2
  else if 2 ^ 21 ≤ id then (if 2 ^ 21 + 4096 ≤ id ∧ id < 2 ^ 21 + 8192 then 1 else 0)
  else if 2 ^ 20 ≤ id then (id - 2 ^ 20) / 2 % 4
  else if 163840 ≤ id then 3
  else id / 2 % 4

/-- The flit that stands for an AUDIT in a pool's flights, on the VC of its pool (Table 5.3). -/
def auditFlit (id : Nat) : Flit := { Flit.zero with kind := 8, vc := poolVc id }

/-- Whether no packet of a pool's VC is open on the link into it: the AUDIT flit goes between packets (R107). -/
def State.betweenPackets (s : State) (id : Nat) : Bool :=
  let t := poolSite id
  if 163840 ≤ id ∧ id < 2 ^ 20 then true
  else if 2 ^ 20 ≤ id ∧ id < 2 ^ 21 then (Map.get none (s.router t.1).owner (4 * t.2 + poolVc id)).isNone
  else if t.2 = 0 then !(s.router t.1).outq.any (fun f => decide (f.vc = poolVc id ∧ f.fidx ≠ 0))
  else match neighbor t.1 t.2 with
    | none => true
    | some n => (Map.get none (s.router n).owner (4 * facing t.2 + poolVc id)).isNone

/-- Credits the sender of a queue's or a channel's pool holds (R58, R84, R85, R91). -/
def State.queueHeld (s : State) (id : Nat) : Nat :=
  let n := id - 2 ^ 21
  if 8192 ≤ n then Map.get 128 (s.vt ((n - 8192) / 4)).scCred (n % 4)
  else if 4096 ≤ n then (s.tile (n - 4096)).evCred
  else s.heldCred n

/-- The audit of a queue's or a channel's pool, whose AUDIT flit is landed and answered within the command: it is counted, its slot is freed, and
the sender checks held = size − (S − Cr); a pool that fails stops (R129, R130). -/
def State.auditQueue (s : State) (id : Nat) : State :=
  let s := (s.qUse id 1).qFree id 1
  if s.queueHeld id + (Map.get 0 s.net.qSent id - Map.get 0 s.net.qBack id).toNat = poolSize id then s
  else s.updPool id (fun p => { p with resolving := true })

/-- The sender injects an AUDIT flit that carries S, itself counted. -/
def execAuditInject (pool : Nat) (s : State) : Host.Outcome State Fault Refusal :=
  .next (if 2 ^ 21 ≤ pool ∧ pool < 2 ^ 27 then s.auditQueue pool
    else if (s.pool pool).ready && (s.pool pool).audit.isNone && (s.pool pool).answer.isNone && s.betweenPackets pool then
      (s.sendOn pool (auditFlit pool)).updPool pool (fun p => { p with audit := some p.s })
    else s)

/-- The AUDIT flit lands after the flits sent before it. -/
def execAuditArrive (pool : Nat) (s : State) : Host.Outcome State Fault Refusal :=
  .next (match (s.pool pool).audit with
    | none => s
    | some _ => if s.nextFlit pool ≠ some (auditFlit pool) then s else (s.landOn pool (auditFlit pool)).auditLand pool)

/-- The answer arrives behind the credits returned before it; the sender checks Cr = Cs. -/
def execAuditAnswerArrive (pool : Nat) (s : State) : Host.Outcome State Fault Refusal :=
  .next (match (s.pool pool).answer with
    | none => s
    | some v =>
      if !(s.pool pool).answerFirst then s
      else s.updPool pool (fun p => { p with answer := none, resolving := p.resolving || decide (p.cr ≠ v) }))

/-- The sender of a queue's or a channel's pool goes on: a tile waiting in KISSUE, a unit with records to post, an engine with rows to hand over. -/
def State.wakeQueue (s : State) (id : Nat) : State :=
  let n := id - 2 ^ 21
  if 8192 ≤ n then s
  else if 4096 ≤ n then s.repost (n - 4096)
  else s

/-- The receiver has drained, nothing is in flight, and it reports empty: the sender checks held = size, and goes on, or fences the link, which is handled as R116 states:
the router that receives by it is declared faulty (R130, assumption 173). -/
def execAuditResolve (pool : Nat) (s : State) : Host.Outcome State Fault Refusal :=
  let p := s.pool pool
  let t := poolSite pool
  .next (if !p.resolving then s
    else if 2 ^ 21 ≤ pool ∧ pool < 2 ^ 27 then
      (if Map.get 0 s.net.qSent pool ≠ Map.get 0 s.net.qBack pool then s
       else if s.queueHeld pool = poolSize pool then (s.updPool pool (fun p => { p with resolving := false })).wakeQueue pool
       else (s.updPool pool (fun p => { p with resolving := false, retired := true })).routerFault t.1)
    else if 0 < p.occ ∨ 0 < p.fly then s
    else if p.held = poolSize pool then (s.updPool pool (fun p => { p with resolving := false })).wakePool pool
    else
      let s := s.updPool pool (fun p => { p with resolving := false, retired := true })
      (if t.2 = 0 then s else s.fencePort t.1 t.2).routerFault t.1)

/-! ## Crossings (R131 to R133) -/

/-- The routers beside a crossing stir: what waited behind it goes on. -/
def State.stirXing (s : State) (x : Nat) : State := s.each ((xingSites x).map (fun e => e.1)) State.stirRouter

/-- A wake request: the receiving clock restarts, and what waited goes on (R132). -/
def State.wakeXing (s : State) (x : Nat) : State := (s.restart x).stirXing x

/-- A flit is written into a FIFO whose receiving clock is stopped: in SERVICE a wake request is raised; in HOLD the flit waits (R132). -/
def execCrossingWake (x : Nat) (s : State) : Host.Outcome State Fault Refusal :=
  .next (
    let s := s.updXing x (fun y => { y with clockStopped := true, wake := false })
    if (s.xing x).service then s.wakeXing x else s)

/-- A change from HOLD to SERVICE raises a wake at once when the FIFO holds data and its clock stands (R132). -/
def execCrossingModeSet (x : Nat) (service : Bool) (s : State) : Host.Outcome State Fault Refusal :=
  .next (
    let rise := service && !(s.xing x).service && (s.xing x).clockStopped && decide (0 < s.xingData x)
    let s := s.updXing x (fun y => { y with service := service })
    if rise then s.wakeXing x else s)

/-- The generation of the side that was reset, of a crossing between a unit and its router (assumption 44); of another, as last recorded. -/
def State.xingGen (s : State) (x : Nat) : Word16 := if x < 3904 then (s.unit x).gen else (s.xing x).peerGen

/-- A flit is of an old generation: its GEN is not that of the unit that sent it, or of a reply, of the unit it answers (R117, R133). -/
def State.oldFlit (s : State) (f : Flit) : Bool :=
  match routerUnit (if f.kind = 2 ∨ f.kind = 3 ∨ f.kind = 11 then f.dst else f.src) with
  | none => false
  | some u => f.gen != (s.unit u).gen

/-- The survivor's receive side of a crossing: the inputs that the reset side feeds. -/
def xingFrom (x : Nat) : List (Nat × Nat) := (xingSites x).filter (fun e => e.2 = 0 || (neighbor e.1 e.2).isSome)

/-- The survivor stops writes and empties its receive side: flits of the old generation, in the FIFO or the buffer, are dropped, the others go on
as they can; then its pointers are zero and ACK is raised (R133). -/
def execRsyncReq (x : Nat) (s : State) : Host.Outcome State Fault Refusal :=
  .next (if (s.xing x).rsync ≠ 0 then s
    else
      let s := s.each (xingFrom x) (fun s e =>
        let s := s.each (s.net.flights.filter (fun y => poolSite y.1 == e && y.2.kind != 8 && s.oldFlit y.2)) (fun s y =>
          ((s.landOn y.1 y.2).dropFlit e.1 y.1).returnQueue y.2)
        s.each ((s.router e.1).inq.filter (fun y => y.port == e.2 && s.oldFlit y.flit)) (fun s y =>
          ((s.updRouter e.1 (fun z => { z with inq := z.inq.erase y })).dropFlit e.1 y.pool).returnQueue y.flit))
      s.updXing x (fun y => { y with stopped := true, rsync := 1, peerGen := s.xingGen x }))

/-- The survivor takes back exactly what it has outstanding in a pool whose receiver was reset and reports every slot empty (R133). -/
def Pool.restored (p : Pool) : Pool :=
  { p with held := p.held + (p.s - p.cr).toNat, cr := p.s, rx := p.s, cs := p.s, occ := 0, fly := 0, ret := 0, audit := none, answer := none }

/-- The survivor takes back what it has outstanding in a pool behind a crossing; what was in flight into it was lost with the reset. -/
def State.restorePool (s : State) (id : Nat) : State :=
  let s := s.each (s.net.flights.filter (fun e => e.1 == id)) (fun s e => s.returnQueue e.2)
  let s := { s with net := { s.net with flights := s.net.flights.filter (fun e => e.1 != id) } }
  let s := s.updPool id Pool.restored
  if (s.pool id).held = poolSize id then s else s.updPool id (fun p => { p with resolving := true })

/-- The reset side reports empty: the survivor takes back exactly what was out, of each pool behind the crossing, and resumes when its counts are the
pools' sizes; otherwise the crossing stays stopped, and R130 applies (R133). -/
def execRsyncPeerEmpty (x : Nat) (s : State) : Host.Outcome State Fault Refusal :=
  .next (if (s.xing x).rsync ≠ 1 then s
    else
      let s := s.each (xingPools x) State.restorePool
      let s := s.updXing x (fun y => { y with held := y.held + (y.sent - y.credRcvd).toNat, credRcvd := y.sent, rsync := 0 })
      if (s.xing x).held = (s.xing x).size ∧ (xingPools x).all (fun id => !(s.pool id).resolving) then
        (s.updXing x (fun y => { y with stopped := false })).stirXing x
      else
        let s := s.updXing x (fun y => { y with faulted := true })
        s.each ((xingFrom x).filter (fun e => e.2 = 0)) (fun s e =>
          s.each (List.range 8) (fun s k => s.updPool (bufPool e.1 0 (k / 2) (k % 2)) (fun p => { p with resolving := true }))))

end Sys2Proof.Machine
end

