-- ==== Sys2Proof/WellFormed.lean ====
section
/-!
DEFINITION. Well-formed commands: operands within what the spec names (R7, R12-R31). Operands typed Fin are bounded by
their type; the checks here bound the plain numbers.
-/

namespace Sys2Proof

/-- An access is 4 or 8 bytes wide and aligned to its width, inside its window (R7, R28, R318). -/
def accessOk (w : Window) (addr bytes : Nat) : Bool :=
  (bytes == 4 || bytes == 8) && addr % bytes == 0 &&
    (match w with | .bar0 _ => decide (addr < 0x08000000) | .cw _ _ => decide (addr < 0x01000000))

/-- A flit's fields fit their widths (Table 5.2). -/
def flitOk (f : Flit) : Bool :=
  decide (f.dst < 8192 ∧ f.src < 8192 ∧ f.wpt < 4096 ∧ f.vc < 4 ∧ f.kind < 16 ∧ f.fidx < 8 ∧ f.group < 4096 ∧
    f.op < 8 ∧ f.xid < 4096)

/-- A frame's fields fit their widths and its payload is LEN units (R265). -/
def frameOk (f : Frame) : Bool :=
  decide (f.typ < 256 ∧ f.cls < 4 ∧ f.level < 4 ∧ f.len ≤ 8 ∧ f.dst < 4096 ∧ f.src < 4096 ∧ f.fjob < 65536 ∧
    f.sel < 4096) && (f.typ == 1 || f.payload.length == f.len)

/-- The checks of a command's plain operands. -/
def Instr.wf (i : Instr) : Bool :=
  match i with
  | .registerWrite w addr bytes _ _ => accessOk w addr bytes
  | .flitArrive _ _ f => flitOk f
  | .frameReceive _ fr => frameOk fr
  | .frameEnd _ fr => frameOk fr
  | .userTrap _ _ cause _ => decide (cause < 256)
  | .memRead _ _ off _ _ _ => decide (off < 0x3C000000 ∧ off % 64 = 0)
  | .memWrite _ _ off _ _ _ _ => decide (off < 0x3C000000 ∧ off % 64 = 0)
  | .memPartialWrite _ _ off _ _ _ _ _ => decide (off < 0x3C000000 ∧ off % 64 = 0)
  | .churnCombine _ _ group => decide (group < 4096)
  | .crossingWake x => decide (x < 4185)
  | .crossingModeSet x _ => decide (x < 4185)
  | .portLineFrame _ row _ => decide (row < 2049)
  | _ => true

end Sys2Proof
end

