-- ==== Sys2Proof/Machine/Registers.lean ====
section
/-!
DEFINITION. Writes to registers: the BAR0 management window, the composition windows and the mailbox (R5 to R10, R28 to R30, R318, R416, R417).
-/

namespace Sys2Proof.Machine

/-! ## Mailbox requests (R416, R417) -/

/-- The request area of a slot, 256 bytes. -/
def Slot.area (m : Slot) : List Byte := (List.range 32).flatMap (fun i => leBytes (Map.get 0 m.req i).toNat 8)

/-- What a request code uses of PARAMS: offset, size, and the bits that may be set (Tables 18.5 and 12.4). None is a code without a request. -/
def mbxParams (code : Nat) : Option (List (Nat × Nat × Nat)) :=
  let w (n : Nat) : Nat := 256 ^ n - 1
  match code with
  | 0x01 => some [(0, 1, 1), (8, 8, w 8), (16, 8, w 8)]
  | 0x02 => some [(0, 4, w 4)]
  | 0x03 => some [(0, 1, w 1), (2, 2, w 2), (4, 4, w 4)]
  | 0x04 => some [(0, 1, w 1), (1, 1, 1)]
  | 0x05 => some [(0, 1, w 1)]
  | 0x10 => some [(2, 1, w 1), (8, 8, 1)]
  | 0x11 => some [(0, 2, 0xFFF)]
  | 0x12 => some [(0, 2, 0xFFF), (8, 8, w 8), (16, 8, w 8), (24, 8, w 8)]
  | 0x13 => some [(0, 2, 0xFFF), (8, 8, w 8), (16, 8, w 8)]
  | 0x14 => some [(0, 2, 0xFFF), (8, 8, w 8)]
  | 0x18 => some [(0, 2, 0xFFF), (8, 8, w 8), (32, 32, w 32)]
  | 0x19 => some [(0, 2, 0xFFF), (8, 8, w 8)]
  | 0x1A => some [(0, 2, 0xFFF), (8, 8, w 8)]
  | 0x20 => some [(0, 4, w 4), (4, 2, w 2), (6, 2, w 2)]
  | 0x21 => some [(0, 2, 0xFFF), (2, 2, w 2)]
  | 0x30 => some [(0, 2, w 2)]
  | 0x31 => some [(0, 48, w 48)]
  | 0x40 => some [(0, 1, w 1)]
  | 0x41 => some [(0, 1, w 1)]
  | 0x42 => some [(0, 1, w 1)]
  | _ => none

/-- Whether a reserved byte of the request area, or a bit of PARAMS that the code does not use, is set. -/
def mbxReserved (b : List Byte) (ps : List (Nat × Nat × Nat)) : Bool :=
  !zeroAt b 2 6 || !zeroAt b 0x1C 4 ||
    decide (fle b 0x20 224 ≠ ps.foldl (fun a p => a ||| (fle b (0x20 + p.1) p.2.1 &&& p.2.2) <<< (8 * p.1)) 0)

/-- The role whose core owns a request. -/
def mbxRole (code : Nat) : Nat :=
  if code ≤ 5 then 1 else if code ≤ 0x14 then 3 else if code ≤ 0x1A then 2 else if code ≤ 0x21 then 6 else if code ≤ 0x41 then 0 else 1

/-- The request of an area: the operator's client of the port is 256 × port. -/
def mbxRequest (b : List Byte) (slot port : Nat) : Request :=
  let code := fle b 0 2
  let p (o n : Nat) : Nat := fle b (0x20 + o) n
  let q : Nat × Nat × Nat × Nat × Nat :=
    match code with
    | 0x01 => (0, 0, p 0 1, p 8 8, p 16 8)
    | 0x02 => (0, 0, p 0 4, 0, 0)
    | 0x03 => (p 0 1, 0, p 4 4, p 2 2, 0)
    | 0x04 => (p 0 1, 0, p 1 1, 0, 0)
    | 0x05 => (p 0 1, 0, 0, 0, 0)
    | 0x20 => (0, 0, p 0 4, p 4 2, p 6 2)
    | 0x21 => (0, p 0 2, p 2 2, 0, 0)
    | 0x30 => (0, 0, p 0 2, 0, 0)
    | 0x31 => (0, 0, 0, 0, 0)
    | 0x40 => (0, 0, p 0 1, 0, 0)
    | 0x41 => (0, 0, p 0 1, 0, 0)
    | 0x42 => (0, 0, p 0 1, 0, 0)
    | _ => (p 2 1, p 0 2, p 8 8, p 16 8, p 24 8)
  { reply := .mbx slot, client := 256 * port, tag := BitVec.ofNat 64 (fle b 8 8), cid := q.1, xid := q.2.1,
    p0 := BitVec.ofNat 64 q.2.2.1, p1 := BitVec.ofNat 64 q.2.2.2.1, p2 := BitVec.ofNat 64 q.2.2.2.2,
    entry := BitVec.ofNat 256 (if code = 0x18 then p 32 32 else 0), bufAddr := fle b 0x10 8, bufLen := fle b 0x18 4,
    signer := BitVec.ofNat 384 (if code = 0x31 then p 0 48 else 0) }

/-- A firmware image as it lies in a buffer: header, image, signature block (R331, Table 14.1). -/
def fwImageOf (b : List Byte) : FwImage :=
  let n := fle b 8 8
  let o := 0x100 + (n + 63) / 64 * 64
  { magic := BitVec.ofNat 32 (fle b 0 4), version := BitVec.ofNat 16 (fle b 4 2), role := fle b 6 1, svn := fle b 7 1, imageBytes := n,
    release := BitVec.ofNat 16 (fle b 0x10 2), signer := fle b 0x12 1, rsvZero := zeroAt b 0x13 45 && zeroAt b 0x70 144,
    imageDigest := octets b 0x40, image := (b.drop 0x100).take n, header := padTo 0x100 0 b, rsaSig := (b.drop o).take 384,
    slhSig := (b.drop (o + 384)).take 16224, tailZero := decide (b.length = o + 16640) && zeroAt b (o + 16608) 32 }

/-- A request with a buffer: the run reads or writes it through the port of its GO, and an unreadable one is BUFFER. -/
def State.withBuffer (s : State) (r : Request) (run : State → State) : State :=
  if (s.bufferOf r).isNone then s.mbxError r 3 else run s

/-- SUP hands a request to its owner. -/
def State.mbxDispatch (s : State) (code : Nat) (r : Request) : State :=
  match code with
  | 0x01 => s.runStage r
  | 0x02 => s.runBind r
  | 0x03 => s.runApply r
  | 0x04 => s.runUnbind r
  | 0x05 => if r.bufLen < 256 then s.mbxError r 3 else s.withBuffer r (fun s => s.runQuery r)
  | 0x10 => s.runCtxCreate r
  | 0x11 => s.runCtxDestroy r
  | 0x12 => s.runTokenNew r
  | 0x13 => s.runTokenMove r
  | 0x14 => s.runTokenRelease r
  | 0x18 => s.runMap r
  | 0x19 => s.runUnmap r
  | 0x1A => s.runRangeQuery r
  | 0x20 => s.withBuffer r (fun s => s.runFabJoin r)
  | 0x21 => s.runFabFctx r
  | 0x30 => s.signerEnroll r
  | 0x31 => s.signerRevoke r
  | 0x40 => s.withBuffer r (fun s => s.fwWrite r (fwImageOf ((s.bufferOf r).getD [])))
  | 0x41 => s.fwActivate r
  | _ => s.coreRestart r

/-- Every core of a role that is left restarts or is loaded: what asks for it waits (R417). -/
def State.roleAway (s : State) (r : Nat) : Bool :=
  !s.roleHalted r && (coresOf r).any (fun i => decide ((s.coreS i).st = .loading ∨ (s.coreS i).st = .restarting)) &&
    !(coresOf r).any (fun i => decide ((s.coreS i).st = .running))

/-- A slot waits, behind those whose GO came before. -/
def State.mbxHold (s : State) (slot : Nat) : State := { s with fw := { s.fw with held := s.fw.held ++ [slot] } }

/-- The active SUP takes a request and passes it to the core that owns it; a CTX_CREATE also needs SEC (Table 18.1). One whose core restarts waits.
The order of the checks is BAD_CODE, BAD_PARAM, BUFFER, ROLE_HALTED (assumption 65). -/
def State.mbxTake (s : State) (slot : Nat) : State :=
  if s.roleAway 1 then s.mbxHold slot
  else
    let b := (s.mslot slot).area
    let code := fle b 0 2
    let r := mbxRequest b slot (s.mslot slot).port
    let s := s.updMslot slot (fun m => { m with busy := true })
    match mbxParams code with
    | none => s.mbxError r 1
    | some ps =>
      if mbxReserved b ps then s.mbxError r 2
      else if 2 ^ 24 < r.bufLen then s.mbxError r 3
      else if s.roleHalted (mbxRole code) then s.mbxError r 4
      else if s.roleAway (mbxRole code) || decide (code = 0x10) && s.secAway then s.mbxHold slot
      else s.mbxDispatch code r

/-- GO: the request area is submitted, and served as the active SUP takes it; with the SUP role halted nothing takes it. -/
def State.mbxGo (s : State) (slot port : Nat) : State :=
  if (s.mslot slot).busy ∨ s.roleHalted 1 ∨ s.fw.held.contains slot = true then s
  else (s.updMslot slot (fun m => { m with done := false, port := port })).mbxTake slot

/-- Requests that have waited are taken in the order of their GO. -/
def State.mbxLate (s : State) : State := ({ s with fw := { s.fw with held := [] } } : State).each s.fw.held (fun s i => s.mbxTake i)

/-- A core that started writes its first heartbeat: the cover ends, and what waited for it goes on (R412, R417). -/
def execCoreFirstHeartbeat (core : Fin 12) (s : State) : Host.Outcome State Fault Refusal := .next (s.firstHeartbeat core.val).mbxLate

/-! ## Access (R6, R7, R10, R28, R441) -/

/-- An RW1C field: a 1 clears a bit, and a bit the module sets in the same cycle stays set (R6). -/
def rw1c (old w hwSet : Nat) : Nat := BitVec.toNat ((BitVec.ofNat 64 old &&& ~~~(BitVec.ofNat 64 w)) ||| BitVec.ofNat 64 hwSet)

/-- The role whose first heartbeat opens the window of an offset; none for the MOD_ registers, which answer at once (R441, assumption 63). -/
def windowRole (a : Nat) : Option Nat :=
  if a < 0x10000 then none
  else if 0x02000000 ≤ a ∧ a < 0x03000000 then some 6
  else if 0x03000000 ≤ a ∧ a < 0x03800000 then some 3
  else if 0x03800000 ≤ a ∧ a < 0x04000000 then some 2
  else if 0x04000000 ≤ a ∧ a < 0x05000000 then some 4
  else if 0x05000000 ≤ a ∧ a < 0x06000000 then some 5
  else if 0x06000000 ≤ a ∧ a < 0x06400000 then some 3
  else if 0x06400000 ≤ a ∧ a < 0x06800000 then some 2
  else if 0x07000000 ≤ a ∧ a < 0x07800000 then some 0
  else some 1

/-- Whether the window of an offset takes writes. -/
def State.windowOpen (s : State) (a : Nat) : Bool :=
  match windowRole a with
  | none => true
  | some r => (coresOf r).any (fun i => (s.coreS i).beat)

/-! ## Partition windows (R29, R75, R102, R213) -/

/-- The engine or vector tile whose registers a partition window has at an offset, and the offset within them. -/
def windowUnit (p o : Nat) : Option (Nat × Nat) :=
  let k := (o - 0x1000) / 0x1000
  if 0x1000 ≤ o ∧ k < 38 then some (uEng p k, o % 0x1000)
  else
    let v := (o - 0x28000) / 0x1000
    if 0x28000 ≤ o ∧ v < 19 then some (uVt p v, o % 0x1000) else none

/-- A write to a 32-bit register of an engine or tile: FLAGS, and FLUSH and RESUME of QCTL. FLUSH also resumes. -/
def State.unitWrite (s : State) (u o w hw : Nat) : State :=
  if s.inEngStep u then s
  else match o with
  | 0x08 => match ukind u with
    | .eng p e => s.updEng (kEng p e) (fun x => { x with flags := BitVec.ofNat 8 (rw1c x.flags.toNat w (hw % 64)) })
    | .vt p v => s.updVt (kVt p v) (fun x => { x with flags := BitVec.ofNat 8 (rw1c x.flags.toNat w (hw % 32)) })
    | .st _ _ => s
  | 0x18 => if has w 2 then s.flush u else if has w 1 then s.resume u else s
  | _ => s

/-! ## The mailbox slots (R427) -/

/-- A write to a 64-bit register of a mailbox slot. -/
def State.slotWrite (s : State) (port slot o w hw : Nat) : State :=
  if o = 0 then
    let s := s.updMslot slot (fun m => { m with done := (m.done && !has w 2) || has hw 2 })
    if has w 0 then s.mbxGo slot port else s
  else if 0x100 ≤ o ∧ o < 0x200 ∧ !(s.mslot slot).busy then
    s.updMslot slot (fun m => { m with req := Map.set 0 ((o - 0x100) / 8) (BitVec.ofNat 64 w) m.req })
  else s

/-! ## 64-bit registers -/

/-- FLT_RESET_REQ (R410): TARGET and STEP are kept; GO starts the step with CAUSE 10, or is refused. -/
def State.resetReq (s : State) (w : Nat) : State :=
  let target := nbits w 31 16
  let step := nbits w 7 5
  let s := { s with flt := { s.flt with reqTarget := target, reqStep := step } }
  if !has w 0 then s
  else match step with
    | 1 => if target < 4096 then s.startStep .context target 10 else s.fltLast 10 step 4 target s.now
    | 2 => if target < 3904 then s.startStep .engine target 10 else s.fltLast 10 step 4 target s.now
    | 3 => if target < 64 then s.startStep .partition target 10 else s.fltLast 10 step 4 target s.now
    | 4 => s.startStep .module 0 10
    | 5 => s.startStep .powerCycle 0 10
    | _ => s.fltLast 10 step 4 target s.now

/-- HOST_VF_ASSIGN of a function (Table 13.5): an assignment, a hand-off or an unassignment. -/
def State.vfWrite (s : State) (h f w : Nat) : State :=
  let k := clientOf h f
  let c := nbits w 55 48
  let gen : Word16 := BitVec.ofNat 16 (nbits w 47 32)
  let s := s.vfFrom k (has w 26) (nbits w 25 24) (nbits w 23 16)
  if !has w 63 then s.vfUnassign k
  else if has w 26 then s.handOff k c gen (clientOf (nbits w 25 24) (nbits w 23 16))
  else s.vfAssign k c gen

/-- HOST_MIG_LOGBASE: a LOG2 of 9 to 15 keeps the one before (Table 13.5). -/
def State.logBaseWrite (s : State) (k w : Nat) : State :=
  s.updFn k (fun x => if x.logging then x else { x with logBase := nbits w 63 12, log2 := if nbits w 3 0 < 9 then nbits w 3 0 else x.log2 })

/-- FAB_NODE changes only while every port is DOWN (R293). -/
def State.nodeWrite (s : State) (w : Nat) : State :=
  if (List.range 32).all (fun f => decide ((s.fport f).st = .down)) then
    let s := { s with fab := { s.fab with system := BitVec.ofNat 32 (nbits w 47 16), node := nbits w 11 0 } }
    s.journal (.setting .fabNode (fld 16 (nbits w 47 16) + nbits w 11 0))
  else s

/-- FAB_TOPO, journaled. -/
def State.topoWrite (s : State) (w : Nat) : State :=
  let v := w % 2 ^ 12 + fld 20 (nbits w 32 20)
  ({ s with fab := { s.fab with topo := BitVec.ofNat 64 v } }).journal (.setting .fabTopo v)

/-- MTR_SEL selects a record. -/
def State.mtrSel (s : State) (w : Nat) : State := s.updPail (fun p => { p with sel := w })

/-- A write to the 64-bit register at an offset of BAR0; none where no 64-bit register that takes writes begins there. -/
def State.write64 (s : State) (port a w hw : Nat) : Option State :=
  if a = 0x1010 then
    let s := { s with boot := { s.boot with changed := rw1c s.boot.changed w 0 } }
    some (s.each ((List.range 64).filter (fun p => has hw p)) (fun s p => s.marked p))
  else if 0x01000000 ≤ a ∧ a < 0x02000000 then
    let p := (a - 0x01000000) / 0x40000
    let o := a % 0x40000
    if 0x3C000 ≤ o ∧ o % 0x800 = 0x18 then some (s.budgetWrite p ((o - 0x3C000) / 0x800) (BitVec.ofNat 64 w)) else none
  else if a = 0x02000000 then some (s.nodeWrite w)
  else if a = 0x02000008 then some (s.topoWrite w)
  else if 0x03400000 ≤ a ∧ a < 0x03800000 then
    let h := (a - 0x03400000) / 0x100000
    let f := a % 0x100000 / 0x1000
    let o := a % 0x1000
    if f = 0 then none
    else if o = 0 then some (s.vfWrite h f w)
    else if o = 0x18 then some (s.logBaseWrite (clientOf h f) w)
    else none
  else if a = 0x05000008 then some (s.resetReq w)
  else if 0x06401000 ≤ a ∧ a < 0x06401000 + 0x20 * 256 ∧ a % 0x20 = 0 then
    some (s.fqBase ((a - 0x06401000) / 0x20) (nbits w 63 16))
  else if 0x06801000 ≤ a ∧ a < 0x06801000 + 0x400 * 16 then
    let o := a % 0x400
    if o = 0 ∨ 0x100 ≤ o ∧ o < 0x200 then some (s.slotWrite port ((a - 0x06801000) / 0x400) o w hw) else none
  else if a = 0x07800010 then
    some (if s.pail.ack ≤ w ∧ w ≤ s.pail.seq then s.updPail (fun p => { p with ack := w }) else s)
  else if a = 0x07800018 then some (s.mtrSel w)
  else none

/-! ## 32-bit registers -/

/-- MOD_EVT_CTL (Table 19.9). -/
def State.evtCtl (s : State) (w : Nat) : State := { s with boot := { s.boot with evtEn := has w 6, evtVec := nbits w 5 0 } }

/-- HOST_MIG_CTL (Table 13.5). -/
def State.migWrite (s : State) (k w : Nat) : State :=
  s.migCtl k (fun s =>
    let s := if has w 0 then s.logStart k else s
    let s := if has w 1 then s.updFn k (fun x => { x with logging := false }) else s
    let s := if has w 2 then s.pauseFn k else s
    if has w 3 then s.resumeFn k else s)

/-- SEC_POLICY.CLEAR_OK, journaled and measured (R341, R345). -/
def State.policyWrite (s : State) (w : Nat) : State :=
  let s := { s with sec := { s.sec with clearOk := has w 0 } }
  (s.journal (.setting .secPolicy (w % 2))).measurePolicy

/-- FAR_CTL (Table 8.16). -/
def State.farWrite (s : State) (d w : Nat) : State :=
  (s.updFar d (fun x => { x with ideReq := has w 1 })).farCtl d (has w 0)

/-- Selection registers: each keeps its value when the one written names nothing. -/
def State.selWrite (s : State) (a w : Nat) : State :=
  if a = 0x02000020 then { s with fab := { s.fab with jobSel := w % 256 } }
  else if a = 0x04000030 then (if w % 8192 < 4185 then { s with pwr := { s.pwr with islSel := w % 8192 } } else s)
  else if a = 0x04000040 then (if w % 128 < 69 then { s with pwr := { s.pwr with railSel := w % 128 } } else s)
  else if a = 0x05000028 then (if w % 4096 < 2432 then { s with flt := { s.flt with ladleSel := w % 4096 } } else s)
  else if a = 0x06000008 then { s with sch := { s.sch with ctxSel := w % 4096 } }
  else if a = 0x06400010 then { s with xlt := { s.xlt with ctxSel := w % 4096 } }
  else if a = 0x06800010 then (if w % 16 < 12 then { s with fw := { s.fw with coreSel := w % 16 } } else s)
  else if a = 0x06800020 then (if w % 8 < 7 then { s with fw := { s.fw with roleSel := w % 8 } } else s)
  else s

/-- A write to a 32-bit register of the host-port window. -/
def State.hostWrite (s : State) (a w : Nat) : State :=
  if a < 0x03400000 then
    let h := (a - 0x03000000) / 0x10000
    if 4 ≤ h then s
    else match a % 0x10000 with
      | 0x08 => s.updHport h (fun p => { p with ideReq := has w 1 })
      | 0x18 => s.updHport h (fun p => { p with leaseSel := w % 256 })
      | _ => s
  else
    let h := (a - 0x03400000) / 0x100000
    let f := a % 0x100000 / 0x1000
    if f = 0 then s
    else match a % 0x1000 with
      | 0x10 => s.migWrite (clientOf h f) w
      | 0x28 => s.logHeadWrite (clientOf h f) w
      | _ => s

/-- A write to the 32-bit register at an offset of BAR0; every other offset ignores it. -/
def State.write32 (s : State) (a w hw : Nat) : State :=
  if a = 0x1018 then s.evtCtl w
  else if 0x01000000 ≤ a ∧ a < 0x02000000 then
    let p := (a - 0x01000000) / 0x40000
    match windowUnit p (a % 0x40000) with
    | none => s
    | some (u, o) => if s.partInReset p then s else s.unitWrite u o w hw
  else if 0x02001000 ≤ a ∧ a < 0x02003000 ∧ a % 0x100 = 8 then s.fabCtl ((a - 0x02001000) / 0x100) (BitVec.ofNat 32 w)
  else if 0x03000000 ≤ a ∧ a < 0x03800000 then s.hostWrite a w
  else if 0x03800000 ≤ a ∧ a < 0x03840000 ∧ a % 0x10000 = 8 then s.farWrite ((a - 0x03800000) / 0x10000) w
  else if a = 0x04000008 then s.capWrite (w % 65536)
  else if a = 0x04000028 then s.warmWrite (w % 128)
  else if 0x06401000 ≤ a ∧ a < 0x06403000 ∧ a % 0x20 = 0x10 then s.fqHead ((a - 0x06401000) / 0x20) (w % 2048)
  else if a = 0x07000010 then (if has w 0 then s.rollbackCommit else s)
  else if a = 0x07000018 then s.policyWrite w
  else s.selWrite a w

/-! ## BAR0 and the composition windows -/

/-- A write to BAR0 through a port. While a module step is in progress every register keeps its value, but for MTR_ACK, which only a cold
power-on resets (R8, R10). A 4-byte write does not reach a 64-bit register, and an 8-byte write that begins at none is two halves in one
access (R7). -/
def State.bar0Write (s : State) (port a bytes w hw : Nat) : State :=
  if !s.windowOpen a || ((s.stepOn .module 0).isSome && a != 0x07800010) then s
  else if bytes = 4 then s.write32 a (w % 2 ^ 32) (hw % 2 ^ 32)
  else match s.write64 port a w hw with
    | some t => t
    | none => (s.write32 a (w % 2 ^ 32) (hw % 2 ^ 32)).write32 (a + 4) (w >>> 32) (hw >>> 32)

/-- HOST_RING_CFG: while ENABLE is set only ENABLE may change; a ring that has not yet turned OFF goes on with the sizes in force (R318, assumption 64). -/
def State.ringCfgWrite (s : State) (k r w : Nat) : State :=
  if (s.ring k r).enable then (if has w 0 then s else s.ringDisable k r)
  else if has w 0 then s.ringEnable k r (BitVec.ofNat 64 w)
  else s.updRing k r (fun g => g.store w)

/-- A write to the composition window of a function (Tables 12.14 and 14.6). A ring at or above RINGS takes none, nor does PF0 have a
window. -/
def State.cwWrite (s : State) (k a bytes w : Nat) : State :=
  let r := (a - 0x1000) / 0x40
  if k % 256 = 0 then s
  else if a = 0x08 then (if has w 0 then s.ackJournal k else s)
  else if a = 0x100000 then s.updFn k (fun x => { x with tcSel := w % 4096 })
  else if 0x1000 ≤ a ∧ (s.fn k).valid = true ∧ r < (s.comp (s.fn k).cid).rings ∧ bytes = 8 then
    match a % 0x40 with
    | 0 => s.ringCfgWrite k r w
    | 8 => if (s.ring k r).enable then s else s.updRing k r (fun g => g.storeBase (w >>> 12))
    | _ => s
  else s

/-- REGISTER_WRITE: an access that R7 does not describe stops the model. The registers of the composition windows are of reset domain M, so a
module step discards writes to them (R10). -/
def execRegisterWrite (w : Window) (addr bytes : Nat) (data hwSet : Word64) (s : State) : Host.Outcome State Fault Refusal :=
  if accessOk w addr bytes then
    .next (match w with
      | .bar0 h => s.bar0Write h.val addr bytes data.toNat hwSet.toNat
      | .cw h f => if (s.stepOn .module 0).isSome then s else s.cwWrite (clientOf h.val f.val) addr bytes data.toNat)
  else .fault .badAccess

end Sys2Proof.Machine
end

