-- ==== Sys2Proof/Machine/Scalar.lean ====
section
/-!
DEFINITION. Commands of the scalar tile: the control instructions, ECALL and traps, barriers, soft start and tile stops (R89 to
R99).
-/

namespace Sys2Proof.Machine

def execKissue (p : PartId) (t : StId) (s : State) : Host.Outcome State Fault Refusal :=
  .next (s.krun p.val t.val 0 0 .none (fun s => s.kissue p.val t.val false))

/-- A waiting KISSUE goes on once its unit's queue has a credit. -/
def execKissueWake (p : PartId) (t : StId) (s : State) : Host.Outcome State Fault Refusal :=
  .next (s.krun p.val t.val 0 0 .kissue (fun s => s.kissue p.val t.val false))

def execKtryissue (p : PartId) (t : StId) (s : State) : Host.Outcome State Fault Refusal :=
  .next (s.krun p.val t.val 0 1 .none (fun s => s.kissue p.val t.val true))

def execKevpop (p : PartId) (t : StId) (s : State) : Host.Outcome State Fault Refusal :=
  .next (s.krun p.val t.val 1 0 .none (fun s => s.kevpop p.val t.val false))

def execKevwait (p : PartId) (t : StId) (s : State) : Host.Outcome State Fault Refusal :=
  .next (s.krun p.val t.val 1 1 .none (fun s => s.kevpop p.val t.val true))

def execKevwaitWake (p : PartId) (t : StId) (s : State) : Host.Outcome State Fault Refusal :=
  .next (s.krun p.val t.val 1 1 .kevwait (fun s => s.kevpop p.val t.val true))

/-- KCWAIT (R89): counter rs2 bits 2:0 of the unit operand that stands from bit 8 of rs2 on: its logical index in bits 15:8, and the bit that
tells a vector tile above it (assumption 34). -/
def State.kcwait (s : State) (p t : Nat) : State :=
  let k := kSt p t
  let x := s.tile k
  match s.unitOperand p t (bits x.rs2 16 8) with
  | none => let d := s.draw; d.2.trap p t 5 d.1
  | some u =>
    if reached (s.cntOf u (bits x.rs2 2 0)) (bits x.rs1 31 0) then s.updSt k STile.goOn
    else s.updSt k (fun y => { y with wait := .kcwait })

def execKcwait (p : PartId) (t : StId) (s : State) : Host.Outcome State Fault Refusal :=
  .next (s.krun p.val t.val 2 0 .none (fun s => s.kcwait p.val t.val))

def execKcwaitWake (p : PartId) (t : StId) (s : State) : Host.Outcome State Fault Refusal :=
  .next (s.krun p.val t.val 2 0 .kcwait (fun s => s.kcwait p.val t.val))

/-- KQCTL (R89, R76): FLUSH wins over RESUME. -/
def State.kqctl (s : State) (p t : Nat) : State :=
  let k := kSt p t
  let x := s.tile k
  match s.unitOperand p t x.rs2.toNat with
  | none => let d := s.draw; d.2.trap p t 5 d.1
  | some u =>
    let s := if bit x.rs1 1 then s.flush u else if bit x.rs1 0 then s.resume u else s
    s.updSt k STile.goOn

def execKqctl (p : PartId) (t : StId) (s : State) : Host.Outcome State Fault Refusal :=
  .next (s.krun p.val t.val 3 0 .none (fun s => s.kqctl p.val t.val))

/-! ## Pointer conversion (R92, R227, R228) -/

/-- The host view of device address v in a range, if it has one (Table 9.5). -/
def hostView (hb : Nat) (e : BitVec 256) (v : Nat) : Option Nat :=
  match eKind e with
  | 0 => some (hb + 2 ^ 39 * eAux e + eTarget e + (v - eBase e))
  | 2 => some (eTarget e + (v - eBase e))
  | _ => none

/-- The device view of host address h in a range, if its span contains h. -/
def deviceView (hb : Nat) (e : BitVec 256) (h : Nat) : Option Nat :=
  let t := if eKind e = 0 then hb + 2 ^ 39 * eAux e + eTarget e else eTarget e
  if (eKind e = 0 ∨ eKind e = 2) ∧ t ≤ h ∧ h < t + eLen e then some (eBase e + (h - t)) else none

/-- HB of a context: that of the function it was created through (R227, R238). -/
def State.hbOf (s : State) (x : Nat) : Nat := hostBaseOf (s.ctx x).client

/-- KPCVT from device to host: the range cache gives the range, or the access misses and the tile waits. -/
def State.pcvtOut (s : State) (p t : Nat) : State :=
  let k := kSt p t
  let u := uSt p t
  let v := (s.tile k).rs1.toNat
  match s.cached u v with
  | some c =>
    (match hostView (s.hbOf (s.unit u).xid) c.entry v with
     | some h => (s.touch u v).pcvtEnd k (BitVec.ofNat 64 h) 0
     | none => s.pcvtEnd k 0 0x030C)
  | none =>
    (s.updUnit u (fun c => { c with miss := some { xid := c.xid, va := v, len := 1, acc := 3 } })).updSt k
      (fun y => { y with wait := .kpcvt })

/-- KPCVT from host to device: the VALID HOST and LOCAL ranges in ascending index. -/
def State.pcvtIn (s : State) (p t : Nat) : State :=
  let k := kSt p t
  let x := (s.unit (uSt p t)).xid
  let h := (s.tile k).rs1.toNat
  match (s.validSlots x).findSome? (fun r => deviceView (s.hbOf x) r.2.entry h) with
  | some v => s.pcvtEnd k (BitVec.ofNat 64 v) 0
  | none => s.pcvtEnd k 0 0x030C

def execKpcvtDeviceToHost (p : PartId) (t : StId) (s : State) : Host.Outcome State Fault Refusal :=
  .next (s.krun p.val t.val 4 0 .none (fun s => s.pcvtOut p.val t.val))

def execKpcvtHostToDevice (p : PartId) (t : StId) (s : State) : Host.Outcome State Fault Refusal :=
  .next (s.krun p.val t.val 4 1 .none (fun s => s.pcvtIn p.val t.val))

def execKbarArriveWait (p : PartId) (t : StId) (s : State) : Host.Outcome State Fault Refusal :=
  .next (s.krun p.val t.val 5 0 .none (fun s => s.kbar p.val t.val 0))

def execKbarArrive (p : PartId) (t : StId) (s : State) : Host.Outcome State Fault Refusal :=
  .next (s.krun p.val t.val 5 1 .none (fun s => s.kbar p.val t.val 1))

def execKbarWait (p : PartId) (t : StId) (s : State) : Host.Outcome State Fault Refusal :=
  .next (s.krun p.val t.val 5 2 .none (fun s => s.kbar p.val t.val 2))

/-- KDRAIN (R89): every command the tile issued has completed, counted from the start of its work. -/
def State.kdrain (s : State) (p t : Nat) : State :=
  let k := kSt p t
  let x := s.tile k
  if x.completed = x.issued then s.updSt k (fun y => y.retire (BitVec.ofNat 64 y.completed))
  else s.updSt k (fun y => { y with wait := .kdrain })

def execKdrain (p : PartId) (t : StId) (s : State) : Host.Outcome State Fault Refusal :=
  .next (s.krun p.val t.val 6 0 .none (fun s => s.kdrain p.val t.val))

def execKdrainWake (p : PartId) (t : StId) (s : State) : Host.Outcome State Fault Refusal :=
  .next (s.krun p.val t.val 6 0 .kdrain (fun s => s.kdrain p.val t.val))

/-- KDMA (R89): its transfer starts. A descriptor or local bytes outside local memory, a read of memory over the program region, and
a breach of R68 raise an access fault (assumption 35). rd is a free value (assumption 162). -/
def State.kdma (s : State) (p t : Nat) : State :=
  let k := kSt p t
  let x := s.tile k
  let a := x.rs1.toNat
  if 0x80000 < a + 32 then s.trap p t 5 x.rs1
  else
    let w := BitVec.ofNat 256 (x.lm.rdLE a 32)
    if (xferChk 0x80000 (stProg x.cfg) x.lm a).any (fun c => c.2) then s.trap p t (if (xferDesc w).op = 0 then 7 else 5) x.rs1
    else
      let d := s.draw
      let s := d.2.updSt k (fun y => { y.retire d.1 with xfers := y.xfers ++ [{ d := w }] })
      if x.xfers.isEmpty then s.xferGo (uSt p t) else s

def execKdma (p : PartId) (t : StId) (s : State) : Host.Outcome State Fault Refusal :=
  .next (s.krun p.val t.val 7 0 .none (fun s => s.kdma p.val t.val))

/-- An ECALL with a7 = 0 ends the tile's part of the work; a0 bits 15:0 are its program result, and the latest such call gives the
work's (R250, assumption 49). -/
def execEcallEndOfWork (p : PartId) (t : StId) (s : State) : Host.Outcome State Fault Refusal :=
  let k := kSt p.val t.val
  let x := s.tile k
  .next (if (s.unit (uSt p.val t.val)).st = .run ∧ x.ended.isNone = true ∧ x.wait = .none ∧ x.kword = 0x73 ∧ x.xreg 17 = 0 then
      let a0 := bits (x.xreg 10) 15 0
      let s := s.updSt k (fun y => { y with ended := some a0, pc := y.pc + 4 })
      match s.workOn (uSt p.val t.val) with
      | none => s
      | some w => s.setWork w ((s.work w).map (fun v => { v with result := a0 }))
    else s)

/-- A trap of the control program. A word at the PC that R89 or R93 makes illegal traps as an illegal instruction, with the word in mtval. -/
def execUserTrap (p : PartId) (t : StId) (cause : Nat) (tval : Word64) (s : State) : Host.Outcome State Fault Refusal :=
  let x := s.tile (kSt p.val t.val)
  .next (if (s.unit (uSt p.val t.val)).st = .run ∧ x.ended.isNone = true then
      (if x.illegal && decide (x.wait = .none) then s.trap p.val t.val 2 (x.kword.setWidth 64) else s.trap p.val t.val cause tval)
    else s)

/-! ## Barriers -/

/-- An arrival reaches the root by the express links, which counts it and releases the barrier at n (R95). A barrier of a MULTI_MODULE composition then
waits for rank 0 (R285). -/
def execBarArrive (c : CidT) (b : Fin 32) (s : State) : Host.Outcome State Fault Refusal :=
  let x := s.bar c.val b.val
  let root := ((s.comp c.val).phys x.root).getD 0
  let from_ := nth root x.src 0
  .next (if x.broken ∨ x.arriving = 0 then s
    else match s.express from_ root (barFlit 6 from_ root 0) with
      | none => s
      | some s =>
        let s := s.updBar c.val b.val (fun y => { y with arriving := y.arriving - 1, src := y.src.drop 1, count := y.count + 1 })
        if x.count + 1 < x.n then s
        else if (s.comp c.val).multi then s.barLocal c.val b.val
        else s.barFlip c.val b.val)

/-- A release reaches a member partition by the express links from the root (R95, R119). -/
def execBarRelease (c : CidT) (b : Fin 32) (p : PartId) (s : State) : Host.Outcome State Fault Refusal :=
  let root := ((s.comp c.val).phys (s.bar c.val b.val).root).getD 0
  .next (if !(s.bar c.val b.val).toRelease.contains p.val then s
    else match s.express root p.val (barFlit 7 root p.val 0) with
      | none => s
      | some t => t.barReach c.val b.val p.val)

/-- The hold of an engine's wave ends: its array ramps, and a pending MMA may start (R97). -/
def execSoftStartHoldEnd (p : PartId) (e : EngId) (s : State) : Host.Outcome State Fault Refusal :=
  .next (if (s.engine (kEng p.val e.val)).soft = .hold then
      (s.updEng (kEng p.val e.val) (fun x => { x with soft := .ramp })).startUnits p.val e.val
    else s)

def execTileStopRequest (u : UnitId) (s : State) : Host.Outcome State Fault Refusal := .next (s.stopTile u.val)

end Sys2Proof.Machine
end

