-- ==== Sys2Proof/Machine/Dispatch.lean ====
section
/-! DEFINITION. One arm per command. -/

namespace Sys2Proof.Machine

def exec (i : Instr) (s : State) : Host.Outcome State Fault Refusal :=
  match i with
  | .registerWrite w addr bytes data hwSet => Sys2Proof.Machine.execRegisterWrite w addr bytes data hwSet s
  | .gateFreePartition p => Sys2Proof.Machine.execGateFreePartition p s
  | .spareSubstitute u => Sys2Proof.Machine.execSpareSubstitute u s
  | .nop u => Sys2Proof.Machine.execNop u s
  | .mma p e => Sys2Proof.Machine.execMma p e s
  | .epi p e => Sys2Proof.Machine.execEpi p e s
  | .accld p e => Sys2Proof.Machine.execAccld p e s
  | .dmaRead p e => Sys2Proof.Machine.execDmaRead p e s
  | .dmaWrite p e => Sys2Proof.Machine.execDmaWrite p e s
  | .aaddF32 p e => Sys2Proof.Machine.execAaddF32 p e s
  | .aaddI64 p e => Sys2Proof.Machine.execAaddI64 p e s
  | .aswap64 p e => Sys2Proof.Machine.execAswap64 p e s
  | .nsend p e => Sys2Proof.Machine.execNsend p e s
  | .wait u => Sys2Proof.Machine.execWait u s
  | .live u => Sys2Proof.Machine.execLive u s
  | .commandComplete p e w => Sys2Proof.Machine.execCommandComplete p e w s
  | .waitWake u => Sys2Proof.Machine.execWaitWake u s
  | .qctlFlush u => Sys2Proof.Machine.execQctlFlush u s
  | .qctlResume u => Sys2Proof.Machine.execQctlResume u s
  | .engineStopRequest p e => Sys2Proof.Machine.execEngineStopRequest p e s
  | .engineUnitsHalted p e => Sys2Proof.Machine.execEngineUnitsHalted p e s
  | .engineRestore p e x => Sys2Proof.Machine.execEngineRestore p e x s
  | .vadd p v => Sys2Proof.Machine.execVadd p v s
  | .vsub p v => Sys2Proof.Machine.execVsub p v s
  | .vmul p v => Sys2Proof.Machine.execVmul p v s
  | .vmax p v => Sys2Proof.Machine.execVmax p v s
  | .vmin p v => Sys2Proof.Machine.execVmin p v s
  | .vand p v => Sys2Proof.Machine.execVand p v s
  | .vor p v => Sys2Proof.Machine.execVor p v s
  | .vxor p v => Sys2Proof.Machine.execVxor p v s
  | .vfma p v => Sys2Proof.Machine.execVfma p v s
  | .vfms p v => Sys2Proof.Machine.execVfms p v s
  | .vdotw p v => Sys2Proof.Machine.execVdotw p v s
  | .vexp2 p v => Sys2Proof.Machine.execVexp2 p v s
  | .vlog2 p v => Sys2Proof.Machine.execVlog2 p v s
  | .vrcp p v => Sys2Proof.Machine.execVrcp p v s
  | .vrsq p v => Sys2Proof.Machine.execVrsq p v s
  | .vtanh p v => Sys2Proof.Machine.execVtanh p v s
  | .vsig p v => Sys2Proof.Machine.execVsig p v s
  | .vceq p v => Sys2Proof.Machine.execVceq p v s
  | .vclt p v => Sys2Proof.Machine.execVclt p v s
  | .vcle p v => Sys2Proof.Machine.execVcle p v s
  | .vrsum p v => Sys2Proof.Machine.execVrsum p v s
  | .vrmax p v => Sys2Proof.Machine.execVrmax p v s
  | .vrmin p v => Sys2Proof.Machine.execVrmin p v s
  | .vbcast p v => Sys2Proof.Machine.execVbcast p v s
  | .vshuf p v => Sys2Proof.Machine.execVshuf p v s
  | .vwlo p v => Sys2Proof.Machine.execVwlo p v s
  | .vwhi p v => Sys2Proof.Machine.execVwhi p v s
  | .vnrw p v => Sys2Proof.Machine.execVnrw p v s
  | .vqmx p v => Sys2Proof.Machine.execVqmx p v s
  | .vld p v => Sys2Proof.Machine.execVld p v s
  | .vst p v => Sys2Proof.Machine.execVst p v s
  | .srd p v => Sys2Proof.Machine.execSrd p v s
  | .srdWake p v => Sys2Proof.Machine.execSrdWake p v s
  | .swr p v => Sys2Proof.Machine.execSwr p v s
  | .xdma p v => Sys2Proof.Machine.execXdma p v s
  | .aaddi p v => Sys2Proof.Machine.execAaddi p v s
  | .aadd p v => Sys2Proof.Machine.execAadd p v s
  | .amul p v => Sys2Proof.Machine.execAmul p v s
  | .ashl p v => Sys2Proof.Machine.execAshl p v s
  | .amovv p v => Sys2Proof.Machine.execAmovv p v s
  | .bnez p v => Sys2Proof.Machine.execBnez p v s
  | .jmp p v => Sys2Proof.Machine.execJmp p v s
  | .waitc p v => Sys2Proof.Machine.execWaitc p v s
  | .waitcWake p v => Sys2Proof.Machine.execWaitcWake p v s
  | .fence p v => Sys2Proof.Machine.execFence p v s
  | .fenceWake p v => Sys2Proof.Machine.execFenceWake p v s
  | .vend p v => Sys2Proof.Machine.execVend p v s
  | .vlaunch p v => Sys2Proof.Machine.execVlaunch p v s
  | .launchComplete p v => Sys2Proof.Machine.execLaunchComplete p v s
  | .streamFlitDeliver p v ch => Sys2Proof.Machine.execStreamFlitDeliver p v ch s
  | .kissue p t => Sys2Proof.Machine.execKissue p t s
  | .kissueWake p t => Sys2Proof.Machine.execKissueWake p t s
  | .ktryissue p t => Sys2Proof.Machine.execKtryissue p t s
  | .kevpop p t => Sys2Proof.Machine.execKevpop p t s
  | .kevwait p t => Sys2Proof.Machine.execKevwait p t s
  | .kevwaitWake p t => Sys2Proof.Machine.execKevwaitWake p t s
  | .kcwait p t => Sys2Proof.Machine.execKcwait p t s
  | .kcwaitWake p t => Sys2Proof.Machine.execKcwaitWake p t s
  | .kqctl p t => Sys2Proof.Machine.execKqctl p t s
  | .kpcvtDeviceToHost p t => Sys2Proof.Machine.execKpcvtDeviceToHost p t s
  | .kpcvtHostToDevice p t => Sys2Proof.Machine.execKpcvtHostToDevice p t s
  | .kbarArriveWait p t => Sys2Proof.Machine.execKbarArriveWait p t s
  | .kbarArrive p t => Sys2Proof.Machine.execKbarArrive p t s
  | .kbarWait p t => Sys2Proof.Machine.execKbarWait p t s
  | .kdrain p t => Sys2Proof.Machine.execKdrain p t s
  | .kdrainWake p t => Sys2Proof.Machine.execKdrainWake p t s
  | .kdma p t => Sys2Proof.Machine.execKdma p t s
  | .ecallEndOfWork p t => Sys2Proof.Machine.execEcallEndOfWork p t s
  | .userTrap p t cause tval => Sys2Proof.Machine.execUserTrap p t cause tval s
  | .barArrive c b => Sys2Proof.Machine.execBarArrive c b s
  | .barRelease c b p => Sys2Proof.Machine.execBarRelease c b p s
  | .softStartHoldEnd p e => Sys2Proof.Machine.execSoftStartHoldEnd p e s
  | .tileStopRequest u => Sys2Proof.Machine.execTileStopRequest u s
  | .flitArrive r port f => Sys2Proof.Machine.execFlitArrive r port f s
  | .pourForward r port => Sys2Proof.Machine.execPourForward r port s
  | .churnCombine r c group => Sys2Proof.Machine.execChurnCombine r c group s
  | .routerFaulty r => Sys2Proof.Machine.execRouterFaulty r s
  | .creditReturn pool => Sys2Proof.Machine.execCreditReturn pool s
  | .auditInject pool => Sys2Proof.Machine.execAuditInject pool s
  | .auditArrive pool => Sys2Proof.Machine.execAuditArrive pool s
  | .auditAnswerArrive pool => Sys2Proof.Machine.execAuditAnswerArrive pool s
  | .auditResolve pool => Sys2Proof.Machine.execAuditResolve pool s
  | .crossingWake x => Sys2Proof.Machine.execCrossingWake x s
  | .crossingModeSet x service => Sys2Proof.Machine.execCrossingModeSet x service s
  | .rsyncReq x => Sys2Proof.Machine.execRsyncReq x s
  | .rsyncPeerEmpty x => Sys2Proof.Machine.execRsyncPeerEmpty x s
  | .linkWordCrcFail l sparesUsed => Sys2Proof.Machine.execLinkWordCrcFail l sparesUsed s
  | .stage r => Sys2Proof.Machine.execStage r s
  | .bind r => Sys2Proof.Machine.execBind r s
  | .frameLoad c p typ key => Sys2Proof.Machine.execFrameLoad c p typ key s
  | .bindCommit c => Sys2Proof.Machine.execBindCommit c s
  | .apply r => Sys2Proof.Machine.execApply r s
  | .rebindBegin c => Sys2Proof.Machine.execRebindBegin c s
  | .prepared c => Sys2Proof.Machine.execPrepared c s
  | .stageDrained c g => Sys2Proof.Machine.execStageDrained c g s
  | .moveCopyDone c g => Sys2Proof.Machine.execMoveCopyDone c g s
  | .rebindCommit c => Sys2Proof.Machine.execRebindCommit c s
  | .rebindEnd c => Sys2Proof.Machine.execRebindEnd c s
  | .rebindRollback c => Sys2Proof.Machine.execRebindRollback c s
  | .drainLimitExpired c => Sys2Proof.Machine.execDrainLimitExpired c s
  | .quiesceDone c => Sys2Proof.Machine.execQuiesceDone c s
  | .unbind r => Sys2Proof.Machine.execUnbind r s
  | .unbindEnd c => Sys2Proof.Machine.execUnbindEnd c s
  | .query r => Sys2Proof.Machine.execQuery r s
  | .repair c => Sys2Proof.Machine.execRepair c s
  | .repairHoldExpiry work => Sys2Proof.Machine.execRepairHoldExpiry work s
  | .compositionRestore c => Sys2Proof.Machine.execCompositionRestore c s
  | .tokenNew r => Sys2Proof.Machine.execTokenNew r s
  | .tokenMove r => Sys2Proof.Machine.execTokenMove r s
  | .handoffCopyDone token => Sys2Proof.Machine.execHandoffCopyDone token s
  | .handoffAck token => Sys2Proof.Machine.execHandoffAck token s
  | .tokenRelease r => Sys2Proof.Machine.execTokenRelease r s
  | .memRead p ch off keysel sender err => Sys2Proof.Machine.execMemRead p ch off keysel sender err s
  | .memWrite p ch off keysel sender data err => Sys2Proof.Machine.execMemWrite p ch off keysel sender data err s
  | .memPartialWrite p ch off keysel sender data mask err => Sys2Proof.Machine.execMemPartialWrite p ch off keysel sender data mask err s
  | .patrolRead p ch err => Sys2Proof.Machine.execPatrolRead p ch err s
  | .repairReset p finds retest => Sys2Proof.Machine.execRepairReset p finds retest s
  | .weightReloadDone c w => Sys2Proof.Machine.execWeightReloadDone c w s
  | .weightReloadRetry c w => Sys2Proof.Machine.execWeightReloadRetry c w s
  | .mr4Poll pkg grade => Sys2Proof.Machine.execMr4Poll pkg grade s
  | .thermalRejoin p bad => Sys2Proof.Machine.execThermalRejoin p bad s
  | .requestAgePromote p ch => Sys2Proof.Machine.execRequestAgePromote p ch s
  | .keyCacheFill cache slot => Sys2Proof.Machine.execKeyCacheFill cache slot s
  | .memcBudgetWrite p ch value => Sys2Proof.Machine.execMemcBudgetWrite p ch value s
  | .farEnable d => Sys2Proof.Machine.execFarEnable d s
  | .farDisable d => Sys2Proof.Machine.execFarDisable d s
  | .farLinkUp d width rate trained => Sys2Proof.Machine.execFarLinkUp d width rate trained s
  | .farConfigDone d ok ide capGib poisonList => Sys2Proof.Machine.execFarConfigDone d ok ide capGib poisonList s
  | .farConfigTimeout d => Sys2Proof.Machine.execFarConfigTimeout d s
  | .farPortDown d => Sys2Proof.Machine.execFarPortDown d s
  | .farEventPoll d events => Sys2Proof.Machine.execFarEventPoll d events s
  | .rangeMiss u => Sys2Proof.Machine.execRangeMiss u s
  | .missReply u => Sys2Proof.Machine.execMissReply u s
  | .map r => Sys2Proof.Machine.execMap r s
  | .unmap r => Sys2Proof.Machine.execUnmap r s
  | .rangeQuery r => Sys2Proof.Machine.execRangeQuery r s
  | .invalidationReceive u x index => Sys2Proof.Machine.execInvalidationReceive u x index s
  | .withdrawAck u x index => Sys2Proof.Machine.execWithdrawAck u x index s
  | .withdrawTimeout x index => Sys2Proof.Machine.execWithdrawTimeout x index s
  | .faultRecordWrite => Sys2Proof.Machine.execFaultRecordWrite s
  | .fqHeadWrite c value => Sys2Proof.Machine.execFqHeadWrite c value s
  | .fqBaseWrite c value => Sys2Proof.Machine.execFqBaseWrite c value s
  | .ctxCreate r => Sys2Proof.Machine.execCtxCreate r s
  | .ctxDestroy r => Sys2Proof.Machine.execCtxDestroy r s
  | .teardown x => Sys2Proof.Machine.execTeardown x s
  | .descriptorRead h f ring => Sys2Proof.Machine.execDescriptorRead h f ring s
  | .workStart work g => Sys2Proof.Machine.execWorkStart work g s
  | .workComplete work => Sys2Proof.Machine.execWorkComplete work s
  | .deadlineFire work => Sys2Proof.Machine.execDeadlineFire work s
  | .sliceEnd c g => Sys2Proof.Machine.execSliceEnd c g s
  | .creamPreempt c g => Sys2Proof.Machine.execCreamPreempt c g s
  | .creamBudgetEmpty c g => Sys2Proof.Machine.execCreamBudgetEmpty c g s
  | .creamBudgetRefill c g => Sys2Proof.Machine.execCreamBudgetRefill c g s
  | .switchSaveDone c g => Sys2Proof.Machine.execSwitchSaveDone c g s
  | .switchRestoreDone c g => Sys2Proof.Machine.execSwitchRestoreDone c g s
  | .fabPortEnable f value => Sys2Proof.Machine.execFabPortEnable f value s
  | .signalDetect f => Sys2Proof.Machine.execSignalDetect f s
  | .detectTimeout f => Sys2Proof.Machine.execDetectTimeout f s
  | .detectRetry f => Sys2Proof.Machine.execDetectRetry f s
  | .equalizeDone f => Sys2Proof.Machine.execEqualizeDone f s
  | .equalizeTimeout f => Sys2Proof.Machine.execEqualizeTimeout f s
  | .alignDone f laneMap polInv => Sys2Proof.Machine.execAlignDone f laneMap polInv s
  | .identify f peer => Sys2Proof.Machine.execIdentify f peer s
  | .identifyTimeout f => Sys2Proof.Machine.execIdentifyTimeout f s
  | .codewordReceive f seq ack corrected correctable => Sys2Proof.Machine.execCodewordReceive f seq ack corrected correctable s
  | .replayRequest f seq => Sys2Proof.Machine.execReplayRequest f seq s
  | .retrainDone f peer => Sys2Proof.Machine.execRetrainDone f peer s
  | .linkFailed f => Sys2Proof.Machine.execLinkFailed f s
  | .frameReceive f fr => Sys2Proof.Machine.execFrameReceive f fr s
  | .frameEnd f fr => Sys2Proof.Machine.execFrameEnd f fr s
  | .creditFrameSend f vc => Sys2Proof.Machine.execCreditFrameSend f vc s
  | .creditFrameReceive f vc count => Sys2Proof.Machine.execCreditFrameReceive f vc count s
  | .auditFrame f vc sent => Sys2Proof.Machine.execAuditFrame f vc sent s
  | .fabJoin r => Sys2Proof.Machine.execFabJoin r s
  | .fabFctx r => Sys2Proof.Machine.execFabFctx r s
  | .hello c rank digest ranks mgen => Sys2Proof.Machine.execHello c rank digest ranks mgen s
  | .formationTimeout c => Sys2Proof.Machine.execFormationTimeout c s
  | .nodeDown f node mgen => Sys2Proof.Machine.execNodeDown f node mgen s
  | .nodeUp f node mgen => Sys2Proof.Machine.execNodeUp f node mgen s
  | .abandon f fjob fgen => Sys2Proof.Machine.execAbandon f fjob fgen s
  | .freqOffer c rank mhz => Sys2Proof.Machine.execFreqOffer c rank mhz s
  | .freqSet c mhz step => Sys2Proof.Machine.execFreqSet c mhz step s
  | .freqRoundTimer c => Sys2Proof.Machine.execFreqRoundTimer c s
  | .combine c group step offset => Sys2Proof.Machine.execCombine c group step offset s
  | .barFrame c b rank release fgen => Sys2Proof.Machine.execBarFrame c b rank release fgen s
  | .lnkDetour node waypoint => Sys2Proof.Machine.execLnkDetour node waypoint s
  | .cpresNFall f => Sys2Proof.Machine.execCpresNFall f s
  | .watchedLineNotice h f line data => Sys2Proof.Machine.execWatchedLineNotice h f line data s
  | .msixCoalesceTimer h f ring => Sys2Proof.Machine.execMsixCoalesceTimer h f ring s
  | .eventRecordWrite h f => Sys2Proof.Machine.execEventRecordWrite h f s
  | .hostTransferTimeout h u => Sys2Proof.Machine.execHostTransferTimeout h u s
  | .cqWriteRetry h f ring done => Sys2Proof.Machine.execCqWriteRetry h f ring done s
  | .leaseRenewal h f seq reclaim => Sys2Proof.Machine.execLeaseRenewal h f seq reclaim s
  | .leaseRelease h f => Sys2Proof.Machine.execLeaseRelease h f s
  | .leaseTimeout h f => Sys2Proof.Machine.execLeaseTimeout h f s
  | .leaseQuiesce h f => Sys2Proof.Machine.execLeaseQuiesce h f s
  | .leaseExpire h f => Sys2Proof.Machine.execLeaseExpire h f s
  | .journalAck h f => Sys2Proof.Machine.execJournalAck h f s
  | .flr h f => Sys2Proof.Machine.execFlr h f s
  | .hostLinkDown h => Sys2Proof.Machine.execHostLinkDown h s
  | .ringEnable h f ring cfg => Sys2Proof.Machine.execRingEnable h f ring cfg s
  | .ringDisable h f ring => Sys2Proof.Machine.execRingDisable h f ring s
  | .vfAssign h f c gen => Sys2Proof.Machine.execVfAssign h f c gen s
  | .vfUnassign h f => Sys2Proof.Machine.execVfUnassign h f s
  | .handOff h f c gen fromPort fromFunc => Sys2Proof.Machine.execHandOff h f c gen fromPort fromFunc s
  | .lockInterface h f => Sys2Proof.Machine.execLockInterface h f s
  | .startInterface h f => Sys2Proof.Machine.execStartInterface h f s
  | .stopInterface h f => Sys2Proof.Machine.execStopInterface h f s
  | .logStart h f => Sys2Proof.Machine.execLogStart h f s
  | .logStop h f => Sys2Proof.Machine.execLogStop h f s
  | .logheadWrite h f value => Sys2Proof.Machine.execLogheadWrite h f value s
  | .pause h f => Sys2Proof.Machine.execPause h f s
  | .pauseComplete h f => Sys2Proof.Machine.execPauseComplete h f s
  | .migResume h f => Sys2Proof.Machine.execMigResume h f s
  | .rollbackCommit => Sys2Proof.Machine.execRollbackCommit s
  | .signerEnroll r => Sys2Proof.Machine.execSignerEnroll r s
  | .signerRevoke r => Sys2Proof.Machine.execSignerRevoke r s
  | .keyslotChange slot install holder shared => Sys2Proof.Machine.execKeyslotChange slot install holder shared s
  | .getMeasurements index => Sys2Proof.Machine.execGetMeasurements index s
  | .cosign conn transcript => Sys2Proof.Machine.execCosign conn transcript s
  | .getCocert => Sys2Proof.Machine.execGetCocert s
  | .compReport c nonce => Sys2Proof.Machine.execCompReport c nonce s
  | .spdmRequest conn bytes signed => Sys2Proof.Machine.execSpdmRequest conn bytes signed s
  | .hostviewAccess h f addr write data mask ideTee err => Sys2Proof.Machine.execHostviewAccess h f addr write data mask ideTee err s
  | .debugToken valid powerOns => Sys2Proof.Machine.execDebugToken valid powerOns s
  | .tcWindowUpdate meanWatts => Sys2Proof.Machine.execTcWindowUpdate meanWatts s
  | .dieLineFrame d down crcOk => Sys2Proof.Machine.execDieLineFrame d down crcOk s
  | .portLineFrame k0 row crcOk => Sys2Proof.Machine.execPortLineFrame k0 row crcOk s
  | .lineLost line => Sys2Proof.Machine.execLineLost line s
  | .periodicClose => Sys2Proof.Machine.execPeriodicClose s
  | .eventClose => Sys2Proof.Machine.execEventClose s
  | .recordDurable => Sys2Proof.Machine.execRecordDurable s
  | .labelReceive c => Sys2Proof.Machine.execLabelReceive c s
  | .labelTimeout c => Sys2Proof.Machine.execLabelTimeout c s
  | .pailCompaction => Sys2Proof.Machine.execPailCompaction s
  | .mtrAck value => Sys2Proof.Machine.execMtrAck value s
  | .mdPresentFall => Sys2Proof.Machine.execMdPresentFall s
  | .mdPresentRise => Sys2Proof.Machine.execMdPresentRise s
  | .pailSelfTestDone passed oscPpm => Sys2Proof.Machine.execPailSelfTestDone passed oscPpm s
  | .sealOpen => Sys2Proof.Machine.execSealOpen s
  | .sealToken valid => Sys2Proof.Machine.execSealToken valid s
  | .oscCheck ppm => Sys2Proof.Machine.execOscCheck ppm s
  | .inputUndervolt => Sys2Proof.Machine.execInputUndervolt s
  | .inputOvervolt => Sys2Proof.Machine.execInputOvervolt s
  | .inputHigh => Sys2Proof.Machine.execInputHigh s
  | .inputOvercurrent => Sys2Proof.Machine.execInputOvercurrent s
  | .standbyStop => Sys2Proof.Machine.execStandbyStop s
  | .phaseShort rail => Sys2Proof.Machine.execPhaseShort rail s
  | .railShort rail => Sys2Proof.Machine.execRailShort rail s
  | .senseOpen rail => Sys2Proof.Machine.execSenseOpen rail s
  | .tsensorTest isl result => Sys2Proof.Machine.execTsensorTest isl result s
  | .inletHot => Sys2Proof.Machine.execInletHot s
  | .ageingRead isl mhz => Sys2Proof.Machine.execAgeingRead isl mhz s
  | .capCheck watts => Sys2Proof.Machine.execCapCheck watts s
  | .pwrCapWrite value => Sys2Proof.Machine.execPwrCapWrite value s
  | .pwrGateCtlWrite value => Sys2Proof.Machine.execPwrGateCtlWrite value s
  | .droop isl overLimit => Sys2Proof.Machine.execDroop isl overLimit s
  | .droopSetpointReturn rail => Sys2Proof.Machine.execDroopSetpointReturn rail s
  | .junctionRead isl celsius => Sys2Proof.Machine.execJunctionRead isl celsius s
  | .flowOkLow => Sys2Proof.Machine.execFlowOkLow s
  | .flowOkRestore p bad => Sys2Proof.Machine.execFlowOkRestore p bad s
  | .npOverrun u => Sys2Proof.Machine.execNpOverrun u s
  | .loadOverrun c p => Sys2Proof.Machine.execLoadOverrun c p s
  | .stopTimeout u => Sys2Proof.Machine.execStopTimeout u s
  | .noProgress u => Sys2Proof.Machine.execNoProgress u s
  | .stepTimeout step target => Sys2Proof.Machine.execStepTimeout step target s
  | .contextStep x cause => Sys2Proof.Machine.execContextStep x cause s
  | .engineStep u cause passed ladleRead => Sys2Proof.Machine.execEngineStep u cause passed ladleRead s
  | .partitionStep p cause bad retest => Sys2Proof.Machine.execPartitionStep p cause bad retest s
  | .moduleStep cause failed => Sys2Proof.Machine.execModuleStep cause failed s
  | .powerCycle cause => Sys2Proof.Machine.execPowerCycle cause s
  | .heartbeatMiss core => Sys2Proof.Machine.execHeartbeatMiss core s
  | .coreRestart r => Sys2Proof.Machine.execCoreRestart r s
  | .coreFirstHeartbeat core => Sys2Proof.Machine.execCoreFirstHeartbeat core s
  | .fwWrite r img => Sys2Proof.Machine.execFwWrite r img s
  | .fwActivate r => Sys2Proof.Machine.execFwActivate r s
  | .journalCommit => Sys2Proof.Machine.execJournalCommit s
  | .writerTakeover => Sys2Proof.Machine.execWriterTakeover s
  | .journalReplay corruptAt => Sys2Proof.Machine.execJournalReplay corruptAt s
  | .journalCompaction => Sys2Proof.Machine.execJournalCompaction s
  | .coldPowerOn slotId hsris => Sys2Proof.Machine.execColdPowerOn slotId hsris s
  | .computeRailStart => Sys2Proof.Machine.execComputeRailStart s
  | .partitionBringup p bad failedUnits => Sys2Proof.Machine.execPartitionBringup p bad failedUnits s
  | .ready => Sys2Proof.Machine.execReady s
  | .modResetN low => Sys2Proof.Machine.execModResetN low s
  | .perstN h released => Sys2Proof.Machine.execPerstN h released s
  | .prsntN d present => Sys2Proof.Machine.execPrsntN d present s
  | .refclkBad => Sys2Proof.Machine.execRefclkBad s
  | .refclkReturn cls => Sys2Proof.Machine.execRefclkReturn cls s
  | .inputReturn => Sys2Proof.Machine.execInputReturn s
  | .reversedPolarity => Sys2Proof.Machine.execReversedPolarity s
  | .hostLinkUp h width rate => Sys2Proof.Machine.execHostLinkUp h width rate s
  | .ideFailure h => Sys2Proof.Machine.execIdeFailure h s
  | .watchedLineOwnership h f line => Sys2Proof.Machine.execWatchedLineOwnership h f line s
  | .warmPowerUp p => Sys2Proof.Machine.execWarmPowerUp p s
  | .backgroundEraseDone => Sys2Proof.Machine.execBackgroundEraseDone s
  | .storeWaitExpiry c => Sys2Proof.Machine.execStoreWaitExpiry c s
  | .setEndpointId eid dynAddr => Sys2Proof.Machine.execSetEndpointId eid dynAddr s

end Sys2Proof.Machine
end

