-- ==== Sys2Proof/Machine/RegRead.lean ====
section
/-!
DEFINITION. The value of every register as a read finds it (R5, R7, R10, R28 to R31, and the register tables of every chapter): the BAR0
window and the composition windows. No command of the table reads a register; these are what REGISTER_WRITE and every event leave to be read.
-/

namespace Sys2Proof.Machine

/-- A value from its fields, each with its lowest bit. -/
def packed (l : List (Nat × Nat)) : Nat := l.foldl (fun a e => a + fld e.1 e.2) 0

/-- Bits i below n of which a condition holds. -/
def maskOf (n : Nat) (f : Nat → Bool) : Nat := (List.range n).foldl (fun a i => if f i then a + fld i 1 else a) 0

/-! ## Codes of states, as the STATE fields give them -/

def PState.num (x : PState) : Nat := match x with | .offline => 0 | .free => 1 | .claimed => 2 | .bound => 3 | .degraded => 4
def UState.num (x : UState) : Nat :=
  match x with | .idle => 0 | .run => 1 | .stopping => 2 | .stopped => 3 | .halted => 4 | .trapped => 4 | .fenced => 5 | .reset => 6
def ChState.num (x : ChState) : Nat :=
  match x with | .off => 0 | .training => 1 | .test => 2 | .ready => 3 | .fenced => 4 | .failed => 5
def FarState.num (x : FarState) : Nat := match x with | .down => 0 | .training => 1 | .config => 2 | .ready => 3
def XState.num (x : XState) : Nat :=
  match x with
  | .free => 0 | .idle => 1 | .waiting => 2 | .running => 3 | .switching => 4 | .parked => 5 | .quiesced => 6 | .resetting => 7 | .teardown => 8
def JobSt.num (x : JobSt) : Nat := match x with | .none => 0 | .joined => 0 | .forming => 1 | .formed => 2 | .abandoned => 3
def FPState.num (x : FPState) : Nat :=
  match x with
  | .down => 0 | .detect => 1 | .equalize => 2 | .align => 3 | .identify => 4 | .active => 5 | .retrain => 6 | .fenced => 7
def HPState.num (x : HPState) : Nat := match x with | .down => 0 | .training => 1 | .up => 2 | .degraded => 3
def Lease.num (x : Lease) : Nat := match x with | .none => 0 | .held => 1 | .lapsed => 2 | .quiesced => 3
def Tdi.num (x : Tdi) : Nat := match x with | .unlocked => 0 | .locked => 1 | .run => 2 | .error => 3
def PauseSt.num (x : PauseSt) : Nat := match x with | .serving => 0 | .pausing => 1 | .paused => 2
def PailSt.num (x : PailSt) : Nat := match x with | .absent => 0 | .starting => 1 | .metered => 2 | .fault => 3 | .unsealed => 4
def RailSt.num (x : RailSt) : Nat := match x with | .off => 0 | .on => 1 | .localSense => 2 | .derated => 3 | .shorted => 4
def CoreSt.num (x : CoreSt) : Nat := match x with | .halted => 0 | .loading => 1 | .running => 2 | .restarting => 3
def Phase.num (x : Phase) : Nat :=
  match x with | .standby => 0 | .boot => 1 | .replay => 2 | .waitFlow => 3 | .partitions => 4 | .ready => 5

/-! ## Identity and inventory (R31) -/

/-- Partitions in a state. -/
def State.countIn (s : State) (x : PState) : Nat := ((List.range 64).filter (fun p => decide ((s.part p).st = x))).length

/-- MOD_INVENTORY (Table 1.15). -/
def State.inventory (s : State) : Nat :=
  packed [(0, s.countIn .offline), (8, s.countIn .free), (16, s.countIn .claimed), (24, s.countIn .bound), (32, s.countIn .degraded)]

/-- MOD_PRT_ONLINE (Table 1.16). -/
def State.prtOnline (s : State) : Nat :=
  maskOf 64 (fun p => match (s.part p).st with | .free => true | .claimed => true | .bound => true | _ => false)

/-- MOD_PD_STATEk (Table 1.17). -/
def State.pdState (s : State) (k : Nat) : Nat := maskOf 64 (fun b => decide (64 * k + b < 165) && s.domOn (64 * k + b))

/-- MOD_BOOT and MOD_SIDEBAND (Table 19.9). -/
def State.modBoot (s : State) : Nat :=
  packed [(0, s.boot.phase.num), (3, b2n (decide (s.boot.phase = .ready))), (4, b2n s.boot.cold), (16, s.boot.announced.length),
    (32, s.boot.readyMs)]
def State.sideband (s : State) : Nat :=
  packed [(1, b2n s.boot.spread), (2, b2n s.pwr.flowOk), (3, b2n s.boot.resetRel), (4, b2n s.flt.pwrCycleReq), (5, b2n s.boot.pwrgd),
    (6, b2n s.boot.intRef), (7, b2n s.boot.refOk), (20, maskOf 4 (fun h => (s.hport h).perstRel)), (24, maskOf 4 (fun d => (s.farP d).present)),
    (28, s.boot.slotId), (32, s.boot.hsris)]

/-- The registers MOD_ of both chapters. Each answer below is a register's width in bytes and its value. -/
def State.modReg (s : State) (a : Nat) : Option (Nat × Nat) :=
  match a with
  | 0x00 => some (8, packed [(32, Config.modSteps.toNat), (48, 0x2304)])
  | 0x08 => some (8, Config.modSerial.toNat)
  | 0x10 => some (8, s.inventory)
  | 0x18 => some (8, s.prtOnline)
  | 0x20 => some (8, s.pdState 0)
  | 0x28 => some (8, s.pdState 1)
  | 0x30 => some (8, s.pdState 2)
  | 0x1000 => some (8, s.modBoot)
  | 0x1008 => some (8, s.sideband)
  | 0x1010 => some (8, s.boot.changed)
  | 0x1018 => some (4, packed [(0, s.boot.evtVec), (6, b2n s.boot.evtEn)])
  | _ => none

/-! ## Partition windows (R29, R31, R75, R102, R103, R213) -/

/-- STATE of an engine or tile. While its engine step is in progress it reads RESET, and with a refusal held HALTED (R75). -/
def State.unitState (s : State) (u : Nat) (halted : Bool) : Nat :=
  if s.inEngStep u then 6
  else match (s.unit u).st with | .run => if halted then 4 else 1 | x => x.num

/-- What the registers of a unit show: while its engine step is in progress, their reset values (R10). -/
def State.seenUnit (s : State) (u : Nat) : State := if s.inEngStep u then s.resetUnit u else s

/-- LOGICAL of a unit: the index its spare map gives it; a retired unit has none (Tables 3.14 and 4.13). -/
def State.logicalOf (s : State) (u : Nat) (i : Option Nat) (none_ : Nat) : Nat := if (s.unit u).retired then none_ else i.getD none_

/-- Registers of engine e of partition p (Tables 3.14 to 3.18). -/
def State.meReg (s : State) (p e o : Nat) : Option (Nat × Nat) :=
  let u := uEng p e
  let x := (s.seenUnit u).engine (kEng p e)
  let busy (q : UnitQ) : Nat := b2n q.exe.isSome
  match o with
  | 0x00 => some (8, packed [(0, s.unitState u x.halted), (7, busy x.arr), (8, busy x.epi), (9, busy x.dma), (10, x.entries),
      (26, s.logicalOf u ((s.part p).logEng e) 0x3F), (32, ((s.seenUnit u).unit u).xid), (48, (s.unit u).gen.toNat)])
  | 0x08 => some (4, x.flags.toNat % 64)
  | 0x10 => some (8, x.cmdErr.toNat)
  | 0x18 => some (4, b2n x.halted)
  | 0x20 => some (8, x.macs.toNat)
  | 0x28 => some (8, x.arrBusy.toNat)
  | _ => none

/-- Registers of vector tile v of partition p (Tables 4.13 to 4.16). -/
def State.vtReg (s : State) (p v o : Nat) : Option (Nat × Nat) :=
  let u := uVt p v
  let x := (s.seenUnit u).vt (kVt p v)
  match o with
  | 0x00 => some (8, packed [(0, s.unitState u x.halted), (6, x.entries), (11, x.pc % 65536), (27, s.logicalOf u ((s.part p).logVt v) 0x1F),
      (32, ((s.seenUnit u).unit u).xid), (48, (s.unit u).gen.toNat)])
  | 0x08 => some (4, x.flags.toNat % 32)
  | 0x10 => some (8, x.cmdErr.toNat)
  | 0x18 => some (4, b2n x.halted)
  | 0x20 => some (8, x.fmas.toNat)
  | 0x28 => some (8, x.busy.toNat)
  | _ => none

/-- PRT_BAR_STATE: the barriers whose root is partition p (Table 4.18). -/
def State.barState (s : State) (p : Nat) : Nat :=
  let x := s.part p
  let mine (b : Nat) : Bool := decide (x.st = .bound) && (s.bar x.cid b).defined && (s.bar x.cid b).root == x.lp
  packed [(0, maskOf 32 (fun b => mine b && decide (0 < (s.bar x.cid b).count))), (32, maskOf 32 (fun b => mine b && (s.bar x.cid b).phase))]

/-- PRT_SPARES (Table 1.18). -/
def Part.spares (x : Part) : Nat :=
  packed [(0, min 15 x.stRet), (4, min 15 x.vtRet), (8, min 15 x.meRet), (15, (x.vtSpare[0]?).getD 0x1F), (20, (x.meSpare[1]?).getD 0x3F), (26, (x.meSpare[0]?).getD 0x3F)]

/-- The registers PRT_ of a partition window (Tables 1.18, 4.17 and 4.18). -/
def State.prtReg (s : State) (p o : Nat) : Option (Nat × Nat) :=
  let x := s.part p
  if o = 0 then some (4, packed [(0, x.st.num), (8, x.cid), (16, x.gen.toNat)])
  else if o = 8 then some (4, x.spares)
  else if o = 0x200 then some (8, s.barState p)
  else if 0x100 ≤ o ∧ o < 0x200 then
    let t := (o - 0x100) / 0x40
    let u := uSt p t
    let y := (s.seenUnit u).tile (kSt p t)
    match o % 0x40 with
    | 0x00 => some (8, packed [(0, s.unitState u false), (16, y.evq.length), (32, ((s.seenUnit u).unit u).xid), (48, (s.unit u).gen.toNat)])
    | 0x08 => some (8, y.pc.toNat)
    | 0x10 => some (8, packed [(0, y.tval.toNat % 2 ^ 48), (48, y.cause % 256)])
    | _ => none
  else none

/-- The registers of channel ch = 8 n + k (Tables 8.13 and 8.14). -/
def State.memcReg (s : State) (ch o : Nat) : Option (Nat × Nat) :=
  let c := s.chan ch
  if o = 0x00 then some (8, packed [(0, c.st.num), (8, Map.get 0 s.grades (ch / 4)), (40, sat 255 c.rows.length), (48, sat 255 (Config.pprLeft ch c.pprUsed))])
  else if o = 0x08 then some (8, packed [(16, c.ue), (32, c.ce.toNat)])
  else if o = 0x10 then some (8, match c.ueAddr with | none => 0 | some a => packed [(0, a), (63, 1)])
  else if o = 0x18 then some (8, packed (c.budget.zipIdx.map (fun e => (8 * e.2, e.1))))
  else if o = 0x20 then some (8, c.demoted.toNat)
  else if 0x40 ≤ o ∧ o < 0x68 ∧ o % 8 = 0 then some (8, (nth 0 c.rdBytes ((o - 0x40) / 8)).toNat)
  else if 0x68 ≤ o ∧ o < 0x90 ∧ o % 8 = 0 then some (8, (nth 0 c.wrBytes ((o - 0x68) / 8)).toNat)
  else none

/-- A partition window (Table 1.11). -/
def State.partReg (s : State) (p o : Nat) : Option (Nat × Nat) :=
  if o < 0x1000 then s.prtReg p o
  else if 0x3C000 ≤ o then s.memcReg (8 * p + (o - 0x3C000) / 0x800) (o % 0x800)
  else match windowUnit p o with
    | none => none
    | some (u, o) => match ukind u with | .eng p e => s.meReg p e o | .vt p v => s.vtReg p v o | .st _ _ => none

/-! ## Fabric (R293) -/

def State.fabPortReg (s : State) (f o : Nat) : Option (Nat × Nat) :=
  let x := s.fport f
  match o with
  | 0x00 => some (8, packed [(0, x.st.num), (20, x.polInv), (24, x.laneMap), (32, x.lastCode), (48, x.gen.toNat)])
  | 0x08 => some (4, BitVec.toNat (x.ctl &&& 0xFFF800F1))
  | 0x10 => some (8, match x.peer with | none => 0 | some q => packed [(31, q.port), (36, q.node), (48, q.mgen.toNat)])
  | 0x18 => some (8, packed [(0, x.errC), (16, x.errB), (32, x.errA)])
  | 0x20 => some (8, x.txBytes.toNat)
  | 0x28 => some (8, x.rxBytes.toNat)
  | _ => none

def State.fabReg (s : State) (a : Nat) : Option (Nat × Nat) :=
  let j := s.job s.fab.jobSel
  match a with
  | 0x00 => some (8, packed [(0, s.fab.node), (16, s.fab.system.toNat), (48, s.fab.mgen.toNat)])
  | 0x08 => some (8, s.fab.topo.toNat)
  | 0x10 => some (8, packed [(0, ((List.range 32).filter (fun f => decide ((s.fport f).st = .active))).length), (16, s.fab.detours.length)])
  | 0x18 => some (8, packed [(0, s.fab.abnTx), (16, s.fab.abnRx), (32, s.fab.upRx), (48, s.fab.downRx)])
  | 0x20 => some (4, s.fab.jobSel)
  | 0x28 => some (8, packed [(0, j.st.num), (8, j.ranks - 1), (20, j.rank), (32, j.fjob), (48, j.fgen.toNat)])
  | _ => if 0x1000 ≤ a ∧ a < 0x3000 then s.fabPortReg ((a - 0x1000) / 0x100) (a % 0x100) else none

/-! ## Host ports, functions and far ports (R214, R317, R318, R330) -/

/-- HOST_LEASE_INFO of a function (Table 12.13). -/
def State.leaseInfo (s : State) (k : Nat) : Nat :=
  let x := s.fn k
  packed [(0, x.lease.num), (20, if x.lease = .none then 0 else sat 0xFFFFF ((s.now - x.renewed) / 1000000)), (40, x.cid)]

def State.hostReg (s : State) (h o : Nat) : Option (Nat × Nat) :=
  let x := s.hport h
  match o with
  | 0x00 => some (8, packed [(0, x.st.num), (4, b2n x.ide), (12, x.rate), (20, x.width), (24, x.vfs), (32, x.lastCode)])
  | 0x08 => some (4, fld 1 (b2n x.ideReq))
  | 0x10 => some (8, packed [(0, x.flrs), (16, x.hostTimeout), (32, x.cqTimeout), (48, x.linkDown)])
  | 0x18 => some (4, x.leaseSel)
  | 0x20 => some (8, s.leaseInfo (clientOf h x.leaseSel))
  | 0x28 => some (8, x.rxBytes.toNat)
  | 0x30 => some (8, x.txBytes.toNat)
  | _ => none

/-- Admitted, undelivered descriptors of a client (HOST_MIG_STATUS.OUTSTANDING). -/
def State.outstanding (s : State) (k : Nat) : Nat :=
  (s.sch.works.filter (fun e => e.2.any (fun w => clientOf w.port w.func == k))).length

def State.fnReg (s : State) (h f o : Nat) : Option (Nat × Nat) :=
  let k := clientOf h f
  let x := s.fn k
  if f = 0 then none
  else match o with
    | 0x00 => some (8, packed [(0, x.err), (16, x.fromFunc), (24, x.fromPort), (26, b2n x.fromEn), (32, x.gen.toNat), (48, x.cid), (63, b2n x.valid)])
    | 0x08 => some (4, x.tdi.num)
    | 0x10 => some (4, 0)
    | 0x18 => some (8, packed [(0, x.log2), (12, x.logBase)])
    | 0x20 => some (4, x.logTail)
    | 0x28 => some (4, x.logHead)
    | 0x30 => some (8, packed [(0, x.pause.num), (4, b2n x.logging), (5, b2n x.ovf), (48, sat 0xFFFF (s.outstanding k))])
    | _ => none

def State.farReg (s : State) (d o : Nat) : Option (Nat × Nat) :=
  let x := s.farP d
  match o with
  | 0x00 => some (8, packed [(0, x.st.num), (3, b2n x.disPend), (4, b2n x.ide), (20, x.capGib), (32, x.rate), (40, x.width), (48, x.gen.toNat)])
  | 0x08 => some (4, packed [(0, b2n x.enable), (1, b2n x.ideReq)])
  | 0x10 => some (8, packed [(0, x.retrain), (16, x.linkDown), (32, x.poisonRd.toNat)])
  | 0x18 => some (8, x.rdBytes.toNat)
  | 0x20 => some (8, x.wrBytes.toNat)
  | _ => none

/-! ## Power (R389) -/

/-- Setpoint of a rail in mV (Table 16.4); that of VMEM is the memory's own, and a rail that is off has none. -/
def State.railMv (s : State) (r : Nat) : Nat :=
  if (s.rail r).st = .off then 0
  else if r < 16 then s.vcoreBase r + (s.rail r).raise_
  else if r < 32 then 800
  else if r < 48 then 750
  else if r < 64 then Config.vmemMv
  else 800

/-- Phases of a rail (Table 16.4). -/
def railPhases (r : Nat) : Nat := if r < 16 then 16 else if r < 32 then 2 else if r < 48 then 4 else if r < 68 then 6 else 1

def State.pwrReg (s : State) (a : Nat) : Option (Nat × Nat) :=
  let i := s.pwr.islSel
  let x := s.isl i
  let r := s.pwr.railSel
  match a with
  | 0x00 => some (8, packed [(3, b2n s.pwr.mainOn), (4, b2n s.pwr.flowOk), (5, b2n (decide (s.pwr.cap < s.pFloor))), (6, s.pwr.step),
      (32, maskOf 16 (fun d => (dieIslands d).any (fun j => !(s.isl j).sensorFault && decide (95 < (s.isl j).temp)))), (48, s.pwr.lastCode)])
  | 0x08 => some (4, s.pwr.cap)
  | 0x10 => some (4, s.capEff)
  | 0x18 => some (8, packed [(0, s.pwr.watts), (32, s.pwr.amps), (48, s.pwr.volts)])
  | 0x20 => some (4, s.pFloor)
  | 0x28 => some (4, s.pwr.warm)
  | 0x30 => some (4, i)
  | 0x38 => some (8, packed [(2, b2n x.deferred.isSome), (3, b2n x.sensorFault), (8, x.droops), (16, s.islHold i),
      (28, if x.sensorFault then 0xFF else min 0xFE x.temp), (36, x.pulse), (40, x.set), (52, s.fmaxOf i)])
  | 0x40 => some (4, r)
  | 0x48 => some (8, packed [(0, (s.rail r).st.num), (27, if (s.rail r).st = .off then 0 else railPhases r - (s.rail r).phasesOut),
      (32, (s.rail r).amps), (48, s.railMv r)])
  | _ =>
    if 0x1000 ≤ a ∧ a < 0x1200 ∧ a % 8 = 0 then
      let p := (a - 0x1000) / 8
      some (8, packed [(0, min 0xFFFF (Map.get 0 s.pwr.prtWatts p)), (16, Map.get 0 s.pwr.joules p % 2 ^ 48)])
    else none

/-! ## Recovery (R401, R410) -/

/-- The slot of a physical engine 38 n + e in the ladle store of its I/O die (R401). -/
def ladleSlot (k : Nat) : Nat :=
  let p := k / 38
  let d := dieOf p
  152 * ((List.range d).filter (fun x => xltOf x == xltOf d)).length + 38 * quadOf p + k % 38

/-- Sector j of the body of a ladle, as the store holds it: in the clear, or enciphered at the slot's own sector index with bit 126 set
(R401). -/
def State.ladleSector (s : State) (k j : Nat) : BitVec 512 :=
  let l := Map.get {} s.flt.ladles k
  let d := bytesLine (l.body.rdN (64 * j) 64)
  if !l.valid then 0
  else if l.enc then Config.xtsCipher l.key (BitVec.ofNat 128 (fld 126 1 + 1024 * ladleSlot k + j)) d
  else d

def State.fltReg (s : State) (a : Nat) : Option (Nat × Nat) :=
  let inStep (l : LStep) : Nat := (s.flt.steps.filter (fun x => x.step == l)).length
  let k := s.flt.ladleSel
  let l := Map.get {} s.flt.ladles k
  if 0x10000 ≤ a ∧ a < 0x20000 ∧ a % 8 = 0 then
    some (8, bits (s.ladleSector k ((a - 0x10000) / 64)) (8 * (a % 64) + 63) (8 * (a % 64)))
  else match a with
  | 0x00 => some (8, packed [(2, b2n (decide (0 < inStep .module))), (3, b2n s.flt.pwrCycleReq), (4, inStep .context), (16, inStep .engine), (32, inStep .partition)])
  | 0x08 => some (8, packed [(5, s.flt.reqStep), (16, s.flt.reqTarget)])
  | 0x10 => some (8, packed [(0, s.flt.lastUs), (32, s.flt.lastTarget), (54, s.flt.lastOutcome), (57, s.flt.lastStep), (60, s.flt.lastCause)])
  | 0x18 => some (8, packed [(0, s.flt.nCtx), (16, s.flt.nEng), (32, s.flt.nPart), (48, s.flt.nMod)])
  | 0x20 => some (8, packed [(0, s.flt.retMe), (12, s.flt.retVt), (24, s.flt.retSt), (36, s.flt.retRouters)])
  | 0x28 => some (4, k)
  | 0x30 => some (8, packed [(0, l.seq), (20, l.xid), (32, l.unitGen.toNat), (53, l.step), (56, l.cause), (61, b2n l.missing), (62, b2n l.enc), (63, b2n l.valid)])
  | _ => none

/-! ## Scheduling, translation, journal (R237, R259, R427) -/

def State.schReg (s : State) (a : Nat) : Option (Nat × Nat) :=
  let x := s.ctx s.sch.ctxSel
  match a with
  | 0x00 => some (8, packed [(0, maskOf 2 (fun i => decide ((s.coreS (7 + i)).st = .running))), (4, b2n s.sch.park), (5, b2n s.sch.refuseAll)])
  | 0x08 => some (4, s.sch.ctxSel)
  | 0x10 => some (8, packed [(0, x.st.num), (4, b2n x.skim), (16, x.client), (40, x.cid), (48, sat 0xFFFF x.debtUs)])
  | 0x18 => some (8, (Map.get 0 s.sch.jobs x.client).toNat)
  | _ =>
    if 0x1000 ≤ a ∧ a < 0x3000 then
      let c := (a - 0x1000) / 0x20
      match a % 0x20 with
      | 0x00 => some (8, (Map.get 0 s.sch.accept c).toNat)
      | 0x08 => some (8, (Map.get 0 s.sch.refuse c).toNat)
      | 0x10 => some (8, (Map.get 0 s.sch.discard c).toNat)
      | 0x18 => some (8, (Map.get 0 s.sch.miss c).toNat)
      | _ => none
    else none

def State.xltReg (s : State) (a : Nat) : Option (Nat × Nat) :=
  let up (i : Nat) : Bool := !s.roleHalted 2 && decide ((s.coreS (3 + i)).st = .running)
  match a with
  | 0x00 => some (8, packed [(0, maskOf 4 up), (4, maskOf 4 (fun i => !up i && (List.range 4).any up))])
  | 0x08 => some (8, s.xlt.misses.toNat)
  | 0x10 => some (4, s.xlt.ctxSel)
  | 0x18 => some (8, (Map.get 0 s.xlt.lostX s.xlt.ctxSel).toNat)
  | _ =>
    if 0x1000 ≤ a ∧ a < 0x3000 then
      let q := s.fq ((a - 0x1000) / 0x20)
      match a % 0x20 with
      | 0x00 => some (8, fld 16 q.base)
      | 0x08 => some (4, q.tail)
      | 0x10 => some (4, q.head)
      | 0x18 => some (8, packed [(0, q.lost), (63, b2n q.ovf)])
      | _ => none
    else none

def State.jrnReg (s : State) (a : Nat) : Option (Nat × Nat) :=
  let x := s.coreS s.fw.coreSel
  let y := s.role s.fw.roleSel
  let rel (i : Option FwImage) : Nat := match i with | none => 0 | some v => v.release.toNat
  let svn (i : Option FwImage) : Nat := match i with | none => 0 | some v => v.svn
  match a with
  | 0x00 => some (8, packed [(0, s.jrn.writer), (4, b2n s.jrn.half), (5, b2n s.jrn.erasing), (6, b2n s.jrn.compacting), (7, b2n s.jrn.full),
      (16, s.jrn.corrupt), (30, ceilDiv s.jrn.usedBytes 1024)])
  | 0x08 => some (8, s.jrn.seq.toNat)
  | 0x10 => some (4, s.fw.coreSel)
  | 0x18 => some (8, packed [(0, x.st.num), (16, x.restarts), (39, b2n x.copy), (40, x.svn), (48, x.release)])
  | 0x20 => some (4, s.fw.roleSel)
  | 0x28 => some (8, packed [(0, b2n y.active), (1, b2n y.validA), (2, b2n y.validB), (16, svn y.imgB), (24, svn y.imgA), (32, rel y.imgB), (48, rel y.imgA)])
  | _ =>
    if 0x1000 ≤ a ∧ a < 0x5000 then
      let m := s.mslot ((a - 0x1000) / 0x400)
      let o := a % 0x400
      if o = 0 then some (8, packed [(1, b2n m.busy), (2, b2n m.done)])
      else if 0x100 ≤ o ∧ o < 0x200 ∧ o % 8 = 0 then some (8, (Map.get 0 m.req ((o - 0x100) / 8)).toNat)
      else if 0x200 ≤ o ∧ o < 0x300 ∧ o % 8 = 0 then some (8, (Map.get 0 m.rsp ((o - 0x200) / 8)).toNat)
      else none
    else none

/-! ## Trust and metering (R352, R369) -/

def State.secReg (s : State) (a : Nat) : Option (Nat × Nat) :=
  let held (f : KHold → Bool) : Nat := (s.sec.slots.filter (fun e => f e.2.hold)).length
  let ctxs := held (fun h => match h with | .ctx _ => true | _ => false)
  let shared := held (fun h => match h with | .shared _ => true | _ => false)
  match a with
  | 0x00 => some (8, packed [(0, b2n s.sec.secCopy), (8, s.sec.secRelease), (24, s.sec.secSvn), (32, b2n s.sec.recovery), (33, b2n s.sec.debugActive),
      (40, s.sec.haltedRoles), (48, s.sec.lastCode)])
  | 0x08 => some (8, s.secFuse)
  | 0x10 => some (4, 0)
  | 0x18 => some (4, b2n s.sec.clearOk)
  | 0x20 => some (8, packed [(0, shared), (16, ctxs), (32, 4096 - ctxs - shared)])
  | 0x28 => some (8, packed [(0, (s.sec.signers.filter (fun e => e.2.isSome)).length), (5, (s.sec.signers.filter (fun e => e.2.any (fun x => x.revoked))).length)])
  | 0x30 => some (8, packed [(0, s.sec.denyClear.toNat), (32, s.sec.denyHost.toNat)])
  | _ => none

/-- The item MTR_SEL selects: a record with its signature block, or for 0 the certificate chains (R369). -/
def Pail.selected (p : Pail) : Option (List Byte) :=
  if p.st = .absent then none
  else if p.sel = 0 then some (Config.pailCerts p.fitted)
  else (p.records.find? (fun r => r.seq == p.sel)).map (fun r =>
    recBytes r.kind r.flags r.seq r.time (Config.pailSerial p.fitted) r.entries r.merged r.prev ++
      Config.signatureBlock meterCtx r.digest)

def State.mtrReg (s : State) (a : Nat) : Option (Nat × Nat) :=
  let p := s.pail
  match a with
  | 0x00 => some (8, packed [(0, p.st.num), (5, b2n p.oscFault), (6, b2n p.thinning), (7, b2n p.coalescing), (28, p.lineLost), (48, p.lastCode)])
  | 0x08 => some (8, p.seq)
  | 0x10 => some (8, p.ack)
  | 0x18 => some (8, p.sel)
  | 0x20 => some (8, match p.selected with | none => 0 | some b => packed [(0, b.length), (63, 1)])
  | 0x28 => some (8, packed [(0, sat 0xFFFFFFFF (p.unmeteredUs / 1000000)), (32, p.gaps)])
  | _ =>
    if 0x1000 ≤ a ∧ a < 0x81000 ∧ a % 8 = 0 then some (8, fle (p.selected.getD []) (a - 0x1000) 8) else none

/-! ## The windows -/

/-- The register that begins at an offset of BAR0: its width in bytes and its value; none at an offset no chapter assigns (Table 1.10). -/
def State.regAt (s : State) (a : Nat) : Option (Nat × Nat) :=
  if a < 0x10000 then s.modReg a
  else if 0x01000000 ≤ a ∧ a < 0x02000000 then s.partReg ((a - 0x01000000) / 0x40000) (a % 0x40000)
  else if 0x02000000 ≤ a ∧ a < 0x03000000 then s.fabReg (a - 0x02000000)
  else if 0x03000000 ≤ a ∧ a < 0x03040000 then s.hostReg ((a - 0x03000000) / 0x10000) (a % 0x10000)
  else if 0x03400000 ≤ a ∧ a < 0x03800000 then s.fnReg ((a - 0x03400000) / 0x100000) (a % 0x100000 / 0x1000) (a % 0x1000)
  else if 0x03800000 ≤ a ∧ a < 0x03840000 then s.farReg ((a - 0x03800000) / 0x10000) (a % 0x10000)
  else if 0x04000000 ≤ a ∧ a < 0x05000000 then s.pwrReg (a - 0x04000000)
  else if 0x05000000 ≤ a ∧ a < 0x06000000 then s.fltReg (a - 0x05000000)
  else if 0x06000000 ≤ a ∧ a < 0x06400000 then s.schReg (a - 0x06000000)
  else if 0x06400000 ≤ a ∧ a < 0x06800000 then s.xltReg (a - 0x06400000)
  else if 0x06800000 ≤ a ∧ a < 0x07000000 then s.jrnReg (a - 0x06800000)
  else if 0x07000000 ≤ a ∧ a < 0x07800000 then s.secReg (a - 0x07000000)
  else if 0x07800000 ≤ a ∧ a < 0x08000000 then s.mtrReg (a - 0x07800000)
  else none

/-- A read of n bytes, 4 or 8, over registers: a whole register, a half of a 64-bit one, or two neighbours at one instant (R7). What no register
covers reads as zero (R28). -/
def readOver (f : Nat → Option (Nat × Nat)) (a n : Nat) : Nat :=
  let half (a : Nat) : Nat :=
    match f a with
    | some (_, v) => v % 2 ^ 32
    | none => match f (a - 4) with | some (8, v) => if a % 8 = 4 then v >>> 32 % 2 ^ 32 else 0 | _ => 0
  if n = 4 then half a
  else match f a with
    | some (8, v) => v
    | _ => half a + fld 32 (half (a + 4))

/-- Registers of BAR0 that no module step resets: reset domain C. -/
def coldOnly (a : Nat) : Bool :=
  a == 0 || a == 8 || a == 0x06400018 || a == 0x07000008 || a == 0x07800000 || a == 0x07800008 || a == 0x07800010 || a == 0x07800028 ||
    decide (0x05000018 ≤ a ∧ a < 0x05000028) || decide (0x05000030 ≤ a ∧ a < 0x05020000) || decide (0x01000000 ≤ a ∧ a < 0x02000000 ∧ a % 0x40000 = 8)

/-- What registers show while a module step is in progress: the reset values of every field it resets (R10). Of the power domains only the
management domains and the metering die read as on (Table 1.17). -/
def State.seenModule (s : State) : State :=
  let m := s.moduleReset
  { m with
    parts := Map.mapV {} (fun _ x => { x with st := .offline, cid := 0, lp := 0 }) m.parts
    units := Map.mapV {} (fun _ x => { ({} : UnitC) with gen := x.gen }) m.units
    eng := [], vts := [], sts := [], chans := [], ctxs := []
    fw := { m.fw with cores := Map.mapV {} (fun _ x => { ({} : CoreS) with restarts := x.restarts }) m.fw.cores }
    pwr := { m.pwr with doms := ([0, 1, 2, 3].map domMgmt ++ [domMeter]).foldl setBit 0 } }

/-- A read of BAR0. A window whose core has not started reads as zero (R441); while a module step is in progress a register it resets reads its
reset value (R10). -/
def State.bar0Read (s : State) (a n : Nat) : Nat :=
  if !s.windowOpen a then 0
  else
    let r := if (s.stepOn .module 0).isSome then s.seenModule else s
    readOver (fun a => if coldOnly a then s.regAt a else r.regAt a) a n

/-- The register that begins at an offset of a function's composition window (Tables 12.14 and 14.6). PF0 has no window, and a ring at or above
RINGS no registers. A tenant reads counters of its own contexts alone (R347). -/
def State.cwReg (s : State) (k a : Nat) : Option (Nat × Nat) :=
  let x := s.fn k
  let c := s.comp x.cid
  let r := (a - 0x1000) / 0x40
  let g := s.ring k r
  let v := if g.enable then g else g.settled
  let mine := decide ((s.ctx x.tcSel).st ≠ .free ∧ (s.ctx x.tcSel).st ≠ .resetting ∧ (s.ctx x.tcSel).client = k)
  let count (i : Nat) : Nat := if mine then (Map.get 0 (s.ctx x.tcSel).pub i).toNat else 0
  if k % 256 = 0 then none
  else if a = 0 then some (8, packed [(0, x.lease.num), (13, x.journal.length), (32, if x.valid then c.rings - 1 else 0), (40, x.gen.toNat), (56, x.cid)])
  else if a = 8 then some (4, 0)
  else if a = 0x100000 then some (4, x.tcSel)
  else if a = 0x100008 then some (8, count 0)
  else if a = 0x100010 then some (8, count 1)
  else if a = 0x100018 then some (8, count 2)
  else if a = 0x100020 then some (4, s.sec.tcPower)
  else if 0x1000 ≤ a ∧ x.valid = true ∧ r < c.rings then
    match a % 0x40 with
    | 0x00 => some (8, packed [(0, b2n g.enable), (8, v.sqLog2), (12, v.cqLog2), (16, v.coalCnt), (24, v.coalUs), (32, v.vec)])
    | 0x08 => some (8, fld 12 v.cqBase)
    | 0x10 => some (8, packed [(0, b2n g.on), (1, b2n g.disPend), (12, g.free), (25, g.cqTail % g.size), (37, g.sqHead % 2 ^ g.sqLog2), (48, g.lastCode)])
    | _ => none
  else none

/-- A read of a composition window. -/
def State.cwRead (s : State) (k a n : Nat) : Nat :=
  let r := if (s.stepOn .module 0).isSome then s.moduleReset else s
  readOver (r.cwReg k) a n

end Sys2Proof.Machine
end

