-- ==== Sys2Proof/Safety.lean ====
section
/-!
DEFINITION. A safe run, and the canonical form of a state: the invariant that every command keeps.
-/

namespace Sys2Proof

open Sys2Proof.Machine in
/-- A step that answers a next state. -/
def Safe (s : State) : Prop := ∃ t, step s = .next t

namespace Machine

/-- The tables the state and its units of state hold by number are in the one canonical form of a sparse table (Map.wf). -/
def State.tablesOk (s : State) : Bool :=
  Map.wf {} s.parts && Map.wf {} s.units && Map.wf {} s.eng && Map.wf {} s.vts && Map.wf {} s.sts && Map.wf {} s.bars &&
  Map.wf {} s.comps && Map.wf {} s.tokens && Map.wf {} s.chans && Map.wf 0 s.grades && Map.wf {} s.far && Map.wf {} s.ctxs &&
  Map.wf {} s.xlt.slots && Map.wf {} s.xlt.fqs && Map.wf {} s.sch.stages && Map.wf none s.sch.works &&
  Map.wf {} s.net.routers && Map.wf {} s.host.ports && Map.wf {} s.host.fns && Map.wf [] s.host.mem && Map.wf {} s.sec.slots &&
  Map.wf {} s.fab.ports && Map.wf {} s.fab.jobs && Map.wf {} s.pwr.isls && Map.wf {} s.pwr.rails && Map.wf {} s.fw.cores &&
  Map.wf {} s.fw.roles && Map.wf {} s.fw.slots && Map.wf 0 s.cool

/-- Every addressed memory of the state is in canonical form: scratchpads, local memories, channels, far memory, host memory and the
submission regions. -/
def State.memsOk (s : State) : Bool :=
  s.eng.all (fun e => Bytes.wf e.2.sp) && s.vts.all (fun e => Bytes.wf e.2.lm) && s.sts.all (fun e => Bytes.wf e.2.lm) &&
  s.host.mem.all (fun e => Bytes.wf e.2) && s.chans.all (fun e => Map.wf {} e.2.secs) && s.far.all (fun e => Map.wf {} e.2.secs) &&
  s.host.fns.all (fun e => Bytes.wf e.2.region)

/-- The canonical form of a state. -/
def State.canon (s : State) : Bool := s.tablesOk && s.memsOk

end Machine

end Sys2Proof
end

