-- ==== Sys2Proof/Claims.lean ====
section
/-!
DEFINITION. The words the claims use: when a command finds what it needs, and what a unit is left as.
-/

namespace Sys2Proof.Machine

/-- The command at the head of an engine's queue: the engine runs and is not halted, the units the command names are idle, it may leave
the head, and it passes every check of Table 3.8 (R59, R69). -/
abbrev State.engReady (s : State) (p e : Nat) (c : Cmd) : Prop :=
  s.headCmd (uEng p e) = some c ∧ (s.engine (kEng p e)).canLeave c = true ∧ s.engCode p e c = 0

/-- An engine whose head command has left its queue. -/
def Engine.took (x : Engine) : Engine := { x with queue := x.queue.drop 1, seq := x.seq + 1 }

/-- An engine whose command c uses a slot, live from now on when b (R69). -/
def Engine.uses (x : Engine) (i : Nat) (b : Bool) : Engine :=
  { x with qSeen := setBit x.qSeen i, qLive := if b then setBit x.qLive i else clrBit x.qLive i }

/-- The instruction of class opc and function func stands at the program counter of a vector tile that runs a launch and waits as w says;
its reserved field is zero, its TY is none of the reserved 6 and 7, and no check fails (R80, R84). -/
abbrev State.vReady (s : State) (p v opc func : Nat) (w : VWait) (chk : VTile → VI → List (Nat × Bool)) : Prop :=
  s.inLaunch p v = true ∧ (s.vt (kVt p v)).wait = w ∧ (s.vt (kVt p v)).word.opc = opc ∧ (s.vt (kVt p v)).word.func = func ∧
    (s.vt (kVt p v)).word.rsv = 0 ∧ (s.vt (kVt p v)).word.ty ≤ 5 ∧ (chk (s.vt (kVt p v)) (s.vt (kVt p v)).word).all (fun c => !c.2) = true

/-- A vector tile past an instruction that held the issue slot for n cycles and gathered flags fl. -/
def VTile.ran (t : VTile) (n : Nat) (fl : Byte) : VTile :=
  { t with pc := (t.pc + 1) % 65536, busy := t.busy + BitVec.ofNat 64 n, wait := .none,
           launch := t.launch.map (fun l => { l with flags := l.flags ||| (fl &&& 0x1F) }) }

/-- A vector tile past an instruction that wrote vd. -/
def VTile.put (t : VTile) (n : Nat) (r : BitVec 4096 × Byte) : VTile :=
  { t with v := Map.set 0 t.word.vd r.1 t.v }.ran n r.2

/-- A vector tile past an instruction that wrote address register rd. -/
def VTile.putA (t : VTile) (x : Word64) : VTile := (t.setA t.word.vd x).ran 1 0

end Sys2Proof.Machine
end

