-- ==== Sys2Proof/Certificates/Slice0/Obligations.lean ====
section
/-!
DEFINITION. The statements for the provers. A statement of several parts names them: Clauses.<Name>.
-/

open Sys2Proof Sys2Proof.Machine

/-! ## The block as a whole -/

/-- With a command at the front of the queue, a step is exec of it on the state with the queue's rest. -/
def Obligations.StepRunsFrontCommand : Prop :=
  ∀ (s : State) (c : Instr) (r : List Instr),
    step { s with pending := c :: r } = exec c { s with pending := r }

/-- On an empty queue a step answers a next state, with an empty queue, one microsecond later: the model's choice
(assumption 2). -/
def Obligations.IdleStepIsAMicrosecond : Prop :=
  ∀ s : State, s.pending = [] → ∃ t, step s = .next t ∧ t.pending = [] ∧ t.now = s.now + 1000

/-- The state right after reset is in canonical form. -/
def Obligations.ResetIsCanonical : Prop := State.reset.canon = true

/-- Every step keeps the canonical form of the tables and addressed memories that State.canon names, from every state that has it. -/
def Obligations.StepKeepsCanonical : Prop :=
  ∀ s t : State, s.canon = true → step s = .next t → t.canon = true

/-- No command changes the queue, takes back what was sent, or lets time or the count of free values run back. -/
def Obligations.CommandsKeepQueueAndHistory : Prop :=
  ∀ (c : Instr) (s t : State), exec c s = .next t →
    t.pending = s.pending ∧ s.out <+: t.out ∧ s.now ≤ t.now ∧ s.fresh ≤ t.fresh

/-- Fuses are never unblown: SVN_FLOOR never falls, and a debug use that was recorded stays recorded, over every step. -/
def Obligations.FusesStayBlown : Prop :=
  ∀ s t : State, step s = .next t →
    s.svnFloor ≤ t.svnFloor ∧ (s.sec.debugUsedBlown = true → t.sec.debugUsedBlown = true)

/-- Every command answers a next state in every state, but a REGISTER_WRITE whose access is not 4 or 8 bytes wide, aligned and inside
its window: that one faults (the model's fault: the spec describes no such access). -/
def Obligations.OnlyIllFormedAccessStops : Prop :=
  ∀ (c : Instr) (s : State),
    (∃ t, exec c s = .next t) ∨
      ∃ w a n d h, c = .registerWrite w a n d h ∧ accessOk w a n = false ∧ exec c s = .fault .badAccess

/-! ## Numerics -/

/-- R37: an INT8 element n denotes n × 2^−6 in two's complement, −128 included; a conversion saturates to ±127 and never gives −128. -/
def Obligations.Int8ElementsAndConversion : Prop :=
  (∀ n : Int, -128 ≤ n → n ≤ 127 →
      elemVal 10 (BitVec.ofInt 8 n).toNat = .num (decide (n < 0)) n.natAbs (-6)) ∧
    (∀ (md : OutMode) (s : Nat) (v : Word32), ((mxElem 10 md s v).1 = 0x80 → False) ∧
      (∀ neg m e, f32 v = .num neg m e → aboveMax 10 m (e - ((s : Int) - 127)) = true →
        (mxElem 10 md s v).1 = (BitVec.ofInt 8 (if neg then -127 else 127)).toNat))

/-! ## Registers -/

/-- R6: a write of 1 to a FLAGS bit of a matrix engine or vector tile clears it, unless the module sets it in the same cycle: it then
stays set. `hw` is what the module sets in that cycle. -/
def Obligations.SetEventSurvivesClear : Prop :=
  ∀ (s : State) (h : HPort) (p : PartId) (data hw : Word64) (i : Nat),
    s.canon = true → s.partInReset p.val = false →
      (∀ e : EngId, i < 6 → s.windowOpen (0x01001008 + 0x40000 * p.val + 0x1000 * e.val) = true →
        s.inEngStep (uEng p.val e.val) = false →
        ∃ t, exec (.registerWrite (.bar0 h) (0x01001008 + 0x40000 * p.val + 0x1000 * e.val) 4 data hw) s = .next t ∧
          (t.engine (kEng p.val e.val)).flags.getLsbD i =
            (hw.getLsbD i || (s.engine (kEng p.val e.val)).flags.getLsbD i && !data.getLsbD i)) ∧
      (∀ v : VtId, i < 5 → s.windowOpen (0x01028008 + 0x40000 * p.val + 0x1000 * v.val) = true →
        s.inEngStep (uVt p.val v.val) = false →
        ∃ t, exec (.registerWrite (.bar0 h) (0x01028008 + 0x40000 * p.val + 0x1000 * v.val) 4 data hw) s = .next t ∧
          (t.vt (kVt p.val v.val)).flags.getLsbD i =
            (hw.getLsbD i || (s.vt (kVt p.val v.val)).flags.getLsbD i && !data.getLsbD i))

/-! ## Matrix engines -/

/-- R59, R60, R66: a NOP, a WAIT whose condition holds and a LIVE at the head of an engine's queue that may leave it and pass the checks of
Table 3.8 complete at the head with no error; a LIVE writes its live-map entry first. -/
def Clauses.EngineHeadCommandsComplete : Prop :=
  ∀ (s : State) (p : PartId) (e : EngId) (u : UnitId) (c : Cmd),
    s.canon = true → u.val = uEng p.val e.val → s.engReady p.val e.val c →
    (cOp c = 0 → exec (.nop u) s = .next ((s.updEng (kEng p.val e.val) Engine.took).complete u.val c 0 0 0)) ∧
    (cOp c = 6 → exec (.wait u) s = .next ((s.updEng (kEng p.val e.val) Engine.took).complete u.val c 0 0 0) ∧
      exec (.waitWake u) s = .next ((s.updEng (kEng p.val e.val) Engine.took).complete u.val c 0 0 0)) ∧
    (cOp c = 7 → exec (.live u) s = .next ((s.updEng (kEng p.val e.val) (fun x =>
      { x.took with lmap := Map.set {} (liveEntry c) (liveOf c) x.lmap })).complete u.val c 0 0 0))

/-- R59, R61, R69: a command for a unit of the engine that passes the checks leaves the head and becomes the pending command of its unit:
MMA and ACCLD of the array, whose slot counts as live from then on, EPI of the epilogue, which with RELEASE ends its slot, and the DMA
commands and NSEND of the DMA unit. Pending commands then start where their unit is free. -/
def Clauses.EngineCommandsGoToTheirUnit : Prop :=
  ∀ (s : State) (p : PartId) (e : EngId) (c : Cmd), s.canon = true → s.engReady p.val e.val c →
    let k := kEng p.val e.val
    let d := (s.engine k).dispatch { cmd := c, seq := (s.engine k).seq }
    let r := d.2
    let dma := (s.updEng k (fun _ => { d.1.took with dma := { d.1.dma with pend := some r } })).startUnits p.val e.val
    (cOp c = 1 → exec (.mma p e) s = .next ((s.updEng k (fun _ =>
      { d.1.took with arr := { d.1.arr with pend := some r } }.uses (mmaOf c).slot true)).startUnits p.val e.val)) ∧
    (cOp c = 3 → exec (.accld p e) s = .next ((s.updEng k (fun _ =>
      { d.1.took with arr := { d.1.arr with pend := some r } }.uses (ldSlot c) true)).startUnits p.val e.val)) ∧
    (cOp c = 2 → (epiOf c).release = false → exec (.epi p e) s = .next ((s.updEng k (fun _ =>
      { d.1.took with epi := { d.1.epi with pend := some r } })).startUnits p.val e.val)) ∧
    (cOp c = 2 → (epiOf c).release = true → exec (.epi p e) s = .next ((s.updEng k (fun _ =>
      { d.1.took with epi := { d.1.epi with pend := some r } }.uses (epiOf c).slot false)).startUnits p.val e.val)) ∧
    (cOp c = 4 → (dmaDesc c).op = 0 → exec (.dmaRead p e) s = .next dma) ∧
    (cOp c = 4 → (dmaDesc c).op = 1 → exec (.dmaWrite p e) s = .next dma) ∧
    (cOp c = 4 → (dmaDesc c).op = 2 → exec (.aaddF32 p e) s = .next dma) ∧
    (cOp c = 4 → (dmaDesc c).op = 3 → exec (.aaddI64 p e) s = .next dma) ∧
    (cOp c = 4 → (dmaDesc c).op = 4 → exec (.aswap64 p e) s = .next dma) ∧
    (cOp c = 5 → exec (.nsend p e) s = .next dma)

/-- R32, R40, R56, R64, R66, R71: with the engine's units idle and no soft start holding it, an MMA or ACCLD that passes the checks starts in
the array; no slot, scratchpad byte or counter has changed yet. -/
def Clauses.ArrayCommandsStart : Prop :=
  ∀ (s : State) (p : PartId) (e : EngId) (c : Cmd), s.canon = true → s.engReady p.val e.val c →
    let x := s.engine (kEng p.val e.val)
    let go (slot : Nat) : Engine := { x.took.uses slot true with soft := .none, arr := { exe := some { cmd := c, seq := x.seq } } }
    x.arr = {} → x.epi = {} → x.dma = {} → x.soft ≠ .hold → (s.unit (uEng p.val e.val)).st = .run →
    (cOp c = 1 → exec (.mma p e) s = .next (s.updEng (kEng p.val e.val) (fun _ => go (mmaOf c).slot))) ∧
    (cOp c = 3 → exec (.accld p e) s = .next (s.updEng (kEng p.val e.val) (fun _ => go (ldSlot c))))

/-- A command that passes its checks leaves the head of an engine's queue: it completes there, or goes to its unit. -/
def Obligations.EngineCommandsIssue : Prop := Clauses.EngineHeadCommandsComplete ∧ Clauses.EngineCommandsGoToTheirUnit ∧ Clauses.ArrayCommandsStart

/-- R32, R40, R56, R60, R64, R66: when the array completes an MMA that nothing overlaps, its pass has run over the 64 × 64 cells of its slot
from the k-step it stood at; an ACCLD has loaded its rows. The slot is live, the counters have moved on, the scratchpad and every other
engine and tile stand. -/
def Obligations.ArrayCommandsRun : Prop :=
  ∀ (s : State) (p : PartId) (e : EngId) (r : Run), s.canon = true →
    let k := kEng p.val e.val
    let x := s.engine k
    x.arr = { exe := some r } → x.epi = {} → x.dma = {} → r.fin = false → r.haz = [] → r.done < arrEnd r.cmd →
    let cyc := arrCycles r.cmd (arrEnd r.cmd) - arrCycles r.cmd r.done
    let rest (t : State) : Prop :=
      (t.engine k).arr = {} ∧ (t.engine k).sp = x.sp ∧ (t.engine k).queue = x.queue ∧
      (t.engine k).arrBusy = x.arrBusy + BitVec.ofNat 64 cyc ∧
      (∀ j, j ≠ k → t.engine j = s.engine j) ∧ t.vts = s.vts ∧ t.chans = s.chans ∧ t.units = s.units
    (cOp r.cmd = 1 → ∃ t, exec (.commandComplete p e .arr) s = .next t ∧ rest t ∧
      let m := mmaPass x.sp (mmaOf r.cmd) r.done (mmaOf r.cmd).k x.acc
      (t.engine k).acc = m.1 ∧ (t.engine k).live = setBit x.live (mmaOf r.cmd).slot ∧
      (t.engine k).macs = x.macs + BitVec.ofNat 64 (4096 * ((mmaOf r.cmd).k - r.done)) ∧
      (t.engine k).flags = x.flags ||| (r.flags ||| m.2)) ∧
    (cOp r.cmd = 3 → ∃ t, exec (.commandComplete p e .arr) s = .next t ∧ rest t ∧
      (t.engine k).acc = ldSlots x.sp r.cmd r.done 64 x.acc ∧ (t.engine k).live = setBit x.live (ldSlot r.cmd) ∧
      (t.engine k).macs = x.macs ∧ (t.engine k).flags = x.flags ||| r.flags)

/-- R60: a command whose effects are done completes: its unit is free, its flags join FLAGS and the work's, and its completion follows with
no error, the flags and, for an EPI, amax. A stop request to a running engine whose issuer does not run stops its dispatch (R71); at a
stop point its record is written, its scratchpad and slots are zeroed and it is STOPPED (R72); a restore loads the record (R73). -/
def Clauses.EngineCompletesStopsAndRestores : Prop :=
  ∀ (s : State) (p : PartId) (e : EngId), s.canon = true →
    let k := kEng p.val e.val
    let u := uEng p.val e.val
    (∀ (w : EUnit) (r : Run), ((s.engine k).unitQ w).exe = some r → r.fin = true →
      exec (.commandComplete p e w) s = .next
        ((((s.updEng k (fun x => { x.updUnitQ w (fun q => { q with exe := none }) with flags := x.flags ||| r.flags })).workFlags u
          r.flags).complete u r.cmd 0 r.flags (if cOp r.cmd = 2 then r.amax else 0)).startUnits p.val e.val)) ∧
    ((s.unit u).st = .run → (s.unit (uSt (s.issuer u / 4) (s.issuer u % 4))).st ≠ .run → s.cmdsLanded u = true →
      exec (.engineStopRequest p e) s = .next ((s.updUnit u (fun x =>
        { x with st := .stopping, stop := true, miss := if s.npRunning u then x.miss else none })).updEng k (fun x => { x with soft := .none }))) ∧
    ((s.unit u).st = .stopping → s.atStop p.val e.val = true →
      let h := s.haltUnits p.val e.val
      exec (.engineUnitsHalted p e) s = .next ((((h.putSave (h.unit u).xid u (.eng (h.engine k).save)).clearUnit u).updUnit u
        (fun x => { x with st := .stopped, cache := [], miss := none })).ackAll u)) ∧
    ((((s.clearUnit u).engine k).sp = [] ∧ ((s.clearUnit u).engine k).acc = [] ∧ ((s.clearUnit u).engine k).live = 0) ∧
      ∀ (j : Nat) (r : Run), (s.engine k).arr.exe = some r → cOp r.cmd = 1 → r.done % 32 = 0 → r.fin = false →
        ((s.haltUnits p.val e.val).engine k).arr.exe.map (fun r => r.done) = some j → j % 32 = 0 ∨ j = (mmaOf r.cmd).k) ∧
    (∀ (x : XidT) (r : EngSave), (s.unit u).st = .idle ∨ (s.unit u).st = .stopped → s.savedOf x.val u = .eng r →
      exec (.engineRestore p e x) s = .next (s.loadEng p.val e.val x.val r))

/-- R69, R76: FLUSH completes every remaining entry of an engine's queue with 0xF, then empties the queue and clears HALTED and the captured
refusal; RESUME on a halted queue clears HALTED and the captured refusal. -/
def Clauses.QueueControl : Prop :=
  ∀ (s : State) (p : PartId) (e : EngId) (u : UnitId), s.canon = true → u.val = uEng p.val e.val →
    let k := kEng p.val e.val
    exec (.qctlFlush u) s = .next ((s.each (s.engine k).queue (fun s c => s.complete u.val c 0xF 0 0)).updEng k
      (fun x => { x with queue := [], halted := false, cmdErr := 0 })) ∧
    ((s.engine k).halted = true →
      exec (.qctlResume u) s = .next (s.updEng k (fun x => { x with halted := false, cmdErr := 0 })))

/-- An engine completes its commands, stops, restores, flushes and resumes. -/
def Obligations.EngineLifecycle : Prop := Clauses.EngineCompletesStopsAndRestores ∧ Clauses.QueueControl

/-- R60, R69, R91: a completion counts at the issuer and advances the command's counter when it names one and its code is 0 or that of a FLUSH.
One that asks for no event and has no error gives the queue credit back at once; any other posts a record of TAG, OP, flags, code and amax and
gives the credit back while the issuer's event queue has a credit and its credits are not being counted, and without a credit holds the record
at the engine. -/
def Obligations.CompletionRule : Prop :=
  ∀ (s : State) (p : PartId) (e : EngId) (c : Cmd) (code : Nat) (fl : Byte) (amax : Word32), s.canon = true →
    let k := kEng p.val e.val
    let u := uEng p.val e.val
    let i := s.issuer u
    let t := s.complete u c code fl amax
    (t.tile i).completed = (s.tile i).completed + 1 ∧
    (t.engine k).cnt = (if cCntEn c = true ∧ (code = 0 ∨ code = 0xF) then
      Map.upd 0 (cCnt c) (fun v => v + 1) (s.engine k).cnt else (s.engine k).cnt) ∧
    (cEvent c = false → code = 0 → (t.engine k).cred = (s.engine k).cred + 1 ∧ (t.tile i).evq = (s.tile i).evq) ∧
    ((cEvent c = true ∨ code ≠ 0) → 0 < (s.tile i).evCred → (s.pool (eventPool i)).resolving = false →
      (t.tile i).evq = (s.tile i).evq ++ [doneRec c code fl amax] ∧ (t.tile i).evCred = (s.tile i).evCred - 1 ∧
      (t.engine k).cred = (s.engine k).cred + 1) ∧
    ((cEvent c = true ∨ code ≠ 0) → (s.tile i).evCred = 0 →
      (t.engine k).posts = (s.engine k).posts ++ [doneRec c code fl amax] ∧ (t.engine k).cred = (s.engine k).cred)

/-- R69: a command at the head of an engine's queue that fails a check is refused with the lowest code: the queue halts, the refusal is
captured, the command completes with the code, and no slot, scratchpad byte or pending command changes. -/
def Obligations.RefusalHaltsTheQueue : Prop :=
  ∀ (s : State) (p : PartId) (e : EngId) (c : Cmd), s.canon = true → s.headCmd (uEng p.val e.val) = some c →
    (s.engine (kEng p.val e.val)).canLeave c = true → s.engCode p.val e.val c ≠ 0 → cOp c = 1 →
    ∃ t, exec (.mma p e) s = .next t ∧
      let x := s.engine (kEng p.val e.val)
      let y := t.engine (kEng p.val e.val)
      y.halted = true ∧
      y.cmdErr = BitVec.ofNat 64 (fld 48 (cTag c) + fld 40 (cOp c) + fld 36 (s.engCode p.val e.val c) + fld 16 0) ∧
      y.queue = x.queue.drop 1 ∧ y.acc = x.acc ∧ y.sp = x.sp ∧ y.live = x.live ∧ y.arr = x.arr ∧ y.epi = x.epi ∧ y.dma = x.dma

/-! ## Vector tiles -/

/-- R77, R78, R80: an arithmetic or bitwise instruction of two or three sources, under its mask: the tile writes vd lane by lane, gathers
the flags, counts the lanes of a multiply-add, and moves on after one cycle. -/
def Obligations.VectorArithmetic : Prop :=
  ∀ (s : State) (p : PartId) (v : VtId), s.canon = true →
    let k := kVt p.val v.val
    let i := (s.vt k).word
    let w := tyWidth i.ty
    let two (t : VTile) := [t.vreg i.vs1, t.vreg i.vs2]
    let three (t : VTile) := [t.vreg i.vs1, t.vreg i.vs2, t.vreg i.vs3]
    let lanes (t : VTile) := ((List.range (4096 / w)).filter (t.act i w)).length
    (s.vReady p.val v.val 1 0 .none noChk → exec (.vadd p v) s = .next (s.updVt k (fun t => t.put 1 (t.mapLanes i w (two t)
      (tyOp i.ty (fun l => (v0 l).add (v1 l)) (fun l => i0 l + i1 l)))))) ∧
    (s.vReady p.val v.val 1 1 .none noChk → exec (.vsub p v) s = .next (s.updVt k (fun t => t.put 1 (t.mapLanes i w (two t)
      (tyOp i.ty (fun l => (v0 l).add (v1 l).neg) (fun l => i0 l - i1 l)))))) ∧
    (s.vReady p.val v.val 1 2 .none noChk → exec (.vmul p v) s = .next (s.updVt k (fun t => t.put 1 (t.mapLanes i w (two t)
      (tyOp i.ty (fun l => (v0 l).mul (v1 l)) (fun l => i0 l * i1 l)))))) ∧
    (s.vReady p.val v.val 1 3 .none noChk → exec (.vmax p v) s = .next (s.updVt k (fun t => t.put 1 (t.mapLanes i w (two t)
      (tyOp i.ty (fun l => (v0 l).maxZ (v1 l)) (fun l => max (i0 l) (i1 l))))))) ∧
    (s.vReady p.val v.val 1 4 .none noChk → exec (.vmin p v) s = .next (s.updVt k (fun t => t.put 1 (t.mapLanes i w (two t)
      (tyOp i.ty (fun l => (v0 l).minZ (v1 l)) (fun l => min (i0 l) (i1 l))))))) ∧
    (s.vReady p.val v.val 1 5 .none noChk → exec (.vand p v) s = .next (s.updVt k (fun t => t.put 1 (t.mapLanes i w (two t)
      (fun l => (nth 0 l 0 &&& nth 0 l 1, 0)))))) ∧
    (s.vReady p.val v.val 1 6 .none noChk → exec (.vor p v) s = .next (s.updVt k (fun t => t.put 1 (t.mapLanes i w (two t)
      (fun l => (nth 0 l 0 ||| nth 0 l 1, 0)))))) ∧
    (s.vReady p.val v.val 1 7 .none noChk → exec (.vxor p v) s = .next (s.updVt k (fun t => t.put 1 (t.mapLanes i w (two t)
      (fun l => (nth 0 l 0 ^^^ nth 0 l 1, 0)))))) ∧
    (s.vReady p.val v.val 2 0 .none noChk → exec (.vfma p v) s = .next (s.updVt k (fun t =>
      { t with fmas := t.fmas + BitVec.ofNat 64 (lanes t) }.put 1 (t.mapLanes i w (three t)
        (tyOp i.ty (fun l => ((v0 l).mul (v1 l)).add (v2 l)) (fun l => i0 l * i1 l + i2 l)))))) ∧
    (s.vReady p.val v.val 2 1 .none noChk → exec (.vfms p v) s = .next (s.updVt k (fun t =>
      { t with fmas := t.fmas + BitVec.ofNat 64 (lanes t) }.put 1 (t.mapLanes i w (three t)
        (tyOp i.ty (fun l => ((v0 l).mul (v1 l)).add (v2 l).neg) (fun l => i0 l * i1 l - i2 l)))))) ∧
    (s.vReady p.val v.val 2 2 .none noChk → ∃ f : List Nat → Nat × Byte,
      exec (.vdotw p v) s = .next (s.updVt k (fun t =>
        { t with fmas := t.fmas + BitVec.ofNat 64 (2 * ((List.range 128).filter (t.act i 32)).length) }.put 1
          (t.mapLanes i 32 [t.vreg i.vd, t.vreg i.vs1, t.vreg i.vs2] f))) ∧
      ∀ c x y : Nat, x < 2 ^ 32 → y < 2 ^ 32 → (f [c, x, y]).1 = (arith fF32 [] (((f32 (BitVec.ofNat 32 c)).add
        ((fBF16.decode (x % 65536)).mul (fBF16.decode (y % 65536)))).add
        ((fBF16.decode (x / 65536)).mul (fBF16.decode (y / 65536))))).1)

/-- R78: in a lane-wise result every lane that is not masked off holds f of the sources' lanes, every other lane the old lane of vd, for
lanes of 8, 16 and 32 bits and results that fit them. -/
def Obligations.LanesAreIndependent : Prop :=
  ∀ (t : VTile) (i : VI) (w l : Nat) (srcs : List (BitVec 4096)) (f : List Nat → Nat × Byte),
    w = 8 ∨ w = 16 ∨ w = 32 → l < 4096 / w → (∀ x, (f x).1 < 2 ^ w) →
      lane w l (t.mapLanes i w srcs f).1 = if t.act i w l then (f (srcs.map (lane w l))).1 else lane w l (t.vreg i.vd)

/-- R81: a special function takes 4 cycles of issue in FP32 and 8 in BF16, and writes vd under the mask. -/
def Clauses.VectorSpecialFunctions : Prop :=
  ∀ (s : State) (p : PartId) (v : VtId), s.canon = true →
    let k := kVt p.val v.val
    let i := (s.vt k).word
    let r (func : Nat) : State := s.updVt k (fun t =>
      t.put (if i.ty = 0 then 4 else 8) (t.mapLanes i (tyWidth i.ty) [t.vreg i.vs1] (sfuLane i.ty func)))
    (s.vReady p.val v.val 3 0 .none (tyIn [0, 1]) → exec (.vexp2 p v) s = .next (r 0)) ∧
    (s.vReady p.val v.val 3 1 .none (tyIn [0, 1]) → exec (.vlog2 p v) s = .next (r 1)) ∧
    (s.vReady p.val v.val 3 2 .none (tyIn [0, 1]) → exec (.vrcp p v) s = .next (r 2)) ∧
    (s.vReady p.val v.val 3 3 .none (tyIn [0, 1]) → exec (.vrsq p v) s = .next (r 3)) ∧
    (s.vReady p.val v.val 3 4 .none (tyIn [0, 1]) → exec (.vtanh p v) s = .next (r 4)) ∧
    (s.vReady p.val v.val 3 5 .none (tyIn [0, 1]) → exec (.vsig p v) s = .next (r 5))

/-- R78, R80, R82: a compare writes the mask register vd modulo 8 and draws the free values its mixed lanes take (assumption 30); a
reduction puts the result of the fixed tree into every lane of vd. -/
def Clauses.VectorComparesAndReductions : Prop :=
  ∀ (s : State) (p : PartId) (v : VtId), s.canon = true →
    let k := kVt p.val v.val
    let i := (s.vt k).word
    let cmp (g : Val → Val → Bool) (h : Int → Int → Bool) : State :=
      let r := (s.vt k).compare i s.fresh g h
      ({ s with fresh := r.2.2 }).updVt k (fun t => { t with m := Map.set 0 (i.vd % 8) r.1 t.m }.ran 1 r.2.1)
    (s.vReady p.val v.val 4 0 .none noChk →
      exec (.vceq p v) s = .next (cmp (fun a b => !a.lt b && !b.lt a) (fun a b => decide (a = b)))) ∧
    (s.vReady p.val v.val 4 1 .none noChk → exec (.vclt p v) s = .next (cmp (fun a b => a.lt b) (fun a b => decide (a < b)))) ∧
    (s.vReady p.val v.val 4 2 .none noChk → exec (.vcle p v) s = .next (cmp (fun a b => !b.lt a) (fun a b => decide (a ≤ b)))) ∧
    (s.vReady p.val v.val 5 0 .none noChk → exec (.vrsum p v) s = .next (s.updVt k (fun t =>
      t.put 1 (t.reduce i (fun l => (v0 l).add (v1 l)) (fun l => i0 l + i1 l))))) ∧
    (s.vReady p.val v.val 5 1 .none noChk → exec (.vrmax p v) s = .next (s.updVt k (fun t =>
      t.put 1 (t.reduce i (fun l => (v0 l).maxZ (v1 l)) (fun l => max (i0 l) (i1 l)))))) ∧
    (s.vReady p.val v.val 5 2 .none noChk → exec (.vrmin p v) s = .next (s.updVt k (fun t =>
      t.put 1 (t.reduce i (fun l => (v0 l).minZ (v1 l)) (fun l => min (i0 l) (i1 l))))))

/-- R48, R80, R83: broadcast of a lane (of a free value where vs1 has no lane of that number, the model's choice, assumption 31), shuffle,
widening, narrowing, and quantizing to MX blocks write vd under the mask and gather the flags the conversions give. -/
def Clauses.VectorMovesAndConversions : Prop :=
  ∀ (s : State) (p : PartId) (v : VtId), s.canon = true →
    let k := kVt p.val v.val
    let i := (s.vt k).word
    let w := tyWidth i.ty
    (s.vReady p.val v.val 6 0 .none noChk → i.imm < 4096 / w → exec (.vbcast p v) s = .next (s.updVt k (fun t =>
      t.put 1 (t.merge i w (ofLanes w (List.replicate (4096 / w) (lane w i.imm (t.vreg i.vs1)))), 0)))) ∧
    (s.vReady p.val v.val 6 0 .none noChk → 4096 / w ≤ i.imm → exec (.vbcast p v) s = .next
      (({ s with fresh := s.fresh + 1 } : State).updVt k (fun t => t.put 1
        (t.merge i w (ofLanes w (List.replicate (4096 / w) ((Config.freeValue s.fresh).toNat % 2 ^ w))), 0)))) ∧
    (s.vReady p.val v.val 6 1 .none noChk → exec (.vshuf p v) s = .next (s.updVt k (fun t =>
      t.put 1 (t.merge i w (ofLanes w ((List.range (4096 / w)).map (fun l =>
        lane w (lane w l (t.vreg i.vs2) % (4096 / w)) (t.vreg i.vs1)))), 0)))) ∧
    (s.vReady p.val v.val 7 0 .none (tyIn [1, 2]) → exec (.vwlo p v) s = .next (s.updVt k (fun t =>
      t.put 1 (t.widen i 0)))) ∧
    (s.vReady p.val v.val 7 1 .none (tyIn [1, 2]) → exec (.vwhi p v) s = .next (s.updVt k (fun t =>
      t.put 1 (t.widen i 128)))) ∧
    (s.vReady p.val v.val 7 2 .none (tyIn [1, 2, 4, 5]) → exec (.vnrw p v) s = .next (s.updVt k (fun t => t.put 1 (t.narrow i)))) ∧
    (s.vReady p.val v.val 7 3 .none (fun _ i => [(3, decide (i.imm % 16 < 5 ∨ 10 < i.imm % 16))]) →
      exec (.vqmx p v) s = .next (s.updVt k (fun t => t.put 2 (t.merge i 32 (t.quant i).1, (t.quant i).2))))

/-- Special functions, compares, reductions, moves and conversions complete. -/
def Obligations.VectorUnaryAndLaneForms : Prop := Clauses.VectorSpecialFunctions ∧ Clauses.VectorComparesAndReductions ∧ Clauses.VectorMovesAndConversions

/-- R80: a VLD reads 512 bytes of local memory into vd; a VST stores the lanes that are not masked off and changes no other byte, register
or tile. The address stored to is vaddrOf, which the meaning uses too. -/
def Obligations.VectorLoadAndStore : Prop :=
  ∀ (s : State) (p : PartId) (v : VtId), s.canon = true →
    let k := kVt p.val v.val
    let x := s.vt k
    let i := x.word
    (s.vReady p.val v.val 8 0 .none (fun t i => localChk t (vaddrOf t i) 512 false) → exec (.vld p v) s = .next (s.updVt k (fun t =>
      t.put 1 (t.merge i 32 (BitVec.ofNat 4096 (t.lm.rdLE (vaddrOf t i) 512)), 0)))) ∧
    (s.vReady p.val v.val 8 1 .none (fun t i => localChk t (vaddrOf t i) 512 true) → ∃ m : Bytes,
      exec (.vst p v) s = .next (s.updVt k (fun t => { t with lm := m }.ran 1 0)) ∧
      (∀ l j, l < 128 → j < 4 → x.act i 32 l = true →
        m.rd (vaddrOf x i + 4 * l + j) = (x.vreg i.vs2).extractLsb' (32 * l + 8 * j) 8) ∧
      (∀ a, (∀ l, l < 128 → x.act i 32 l = true → a < vaddrOf x i + 4 * l ∨ vaddrOf x i + 4 * l + 4 ≤ a) → m.rd a = x.lm.rd a))

/-- R85 to R87, R80: an SRD whose flits are present pops them, returns their credits and writes vd, and a stalled epilogue of the bound
engine goes on; one whose flits are missing waits. An SWR lands its bytes in the engine's scratchpad and advances its counter when it names
one. An XDMA adds its transfer. -/
def Clauses.VectorStreamsAndTransfers : Prop :=
  ∀ (s : State) (p : PartId) (v : VtId), s.canon = true →
    let k := kVt p.val v.val
    let x := s.vt k
    let i := x.word
    let n := streamN i
    let ch := streamCh i
    let q := Map.get [] x.sc ch
    let popped : State := (s.qFree (streamPool k ch) n).updVt k (fun t => { t with
      sc := Map.set [] ch (q.drop n) t.sc, scCred := Map.upd 128 ch (fun c => c + n) t.scCred,
      v := Map.set 0 i.vd (t.merge i 32 (BitVec.ofNat 4096 (unchunk 512 ((q.take n).map (fun (f : BitVec 512) => f.toNat))))) t.v }.ran 1 0)
    let go (e : Option Nat) : State := match e with | none => popped | some e => popped.epiFeed p.val e
    (s.vReady p.val v.val 9 0 .none srdChk → n ≤ q.length →
      exec (.srd p v) s = .next (go ((s.part p.val).meMap[vtChan x.cfg ch]?))) ∧
    (s.vReady p.val v.val 9 0 .none srdChk → q.length < n →
      exec (.srd p v) s = .next (s.updVt k (fun t => { t with wait := .srd }))) ∧
    (s.vReady p.val v.val 9 0 .srd srdChk → n ≤ q.length →
      exec (.srdWake p v) s = .next (go ((s.part p.val).meMap[vtChan x.cfg ch]?))) ∧
    (∀ e, s.vReady p.val v.val 9 1 .none swrChk → (s.part p.val).meMap[bits (x.areg i.vs2) 5 0]? = some e → n ≤ 8 →
      exec (.swr p v) s = .next
        (let t := s.landSp (kEng p.val e) (x.areg i.vs3).toNat ((leBytes (x.vreg i.vs1).toNat 512).take (64 * n))
         (if has i.imm 6 then t.advCnt (uEng p.val e) (nbits i.imm 9 7) else t).updVt k (fun t => t.ran 1 0))) ∧
    (s.vReady p.val v.val 10 0 .none (fun t i => xferChk 0x200000 (vtProg t.cfg) t.lm (t.areg i.vs1).toNat) →
      let started : State := s.updVt k (fun t => { t.ran 1 0 with
        xfers := t.xfers ++ [{ d := BitVec.ofNat 256 (t.lm.rdLE (t.areg i.vs1).toNat 32) }] })
      exec (.xdma p v) s = .next (if x.xfers = [] then started.xferGo (uVt p.val v.val) else started))

/-- R79, R80: AADDI, AADD, AMUL, ASHL and AMOVV write their result to the address register vd and move on after one cycle; an ASHL by 64 or more
writes a free value (the model's choice, assumption 31); no write to an address register changes what a0 reads as. -/
def Clauses.VectorAddressRegisters : Prop :=
  ∀ (s : State) (p : PartId) (v : VtId), s.canon = true →
    let k := kVt p.val v.val
    let i := (s.vt k).word
    (s.vReady p.val v.val 11 0 .none noChk →
      exec (.aaddi p v) s = .next (s.updVt k (fun t => t.putA (t.areg i.vs1 + BitVec.ofInt 64 i.simm)))) ∧
    (s.vReady p.val v.val 11 1 .none noChk →
      exec (.aadd p v) s = .next (s.updVt k (fun t => t.putA (t.areg i.vs1 + t.areg i.vs2)))) ∧
    (s.vReady p.val v.val 11 2 .none noChk →
      exec (.amul p v) s = .next (s.updVt k (fun t => t.putA (t.areg i.vs1 * t.areg i.vs2)))) ∧
    (s.vReady p.val v.val 11 3 .none noChk → ((s.vt k).areg i.vs2).toNat < 64 →
      exec (.ashl p v) s = .next (s.updVt k (fun t => t.putA (t.areg i.vs1 <<< (t.areg i.vs2).toNat)))) ∧
    (s.vReady p.val v.val 11 3 .none noChk → 64 ≤ ((s.vt k).areg i.vs2).toNat →
      exec (.ashl p v) s = .next (({ s with fresh := s.fresh + 1 } : State).updVt k (fun t => t.putA (Config.freeValue s.fresh)))) ∧
    (s.vReady p.val v.val 11 4 .none noChk →
      exec (.amovv p v) s = .next (s.updVt k (fun t => t.putA ((t.vreg i.vs1).extractLsb' 0 64)))) ∧
    (∀ (t : VTile) (j : Nat) (x : Word64), (t.setA j x).areg 0 = t.areg 0)

/-- R80: BNEZ with a register that is not zero, and JMP, move the program counter by IMM instructions from their own place; WAITC passes once
its counter has reached the value and FENCE once no transfer is outstanding, and both wait until then; END ends the program. -/
def Clauses.VectorControlFlow : Prop :=
  ∀ (s : State) (p : PartId) (v : VtId), s.canon = true →
    let k := kVt p.val v.val
    let x := s.vt k
    let i := x.word
    let next : State := s.updVt k (fun t => t.ran 1 0)
    let jump : State := s.updVt k (fun t => { t with pc := (((t.pc : Int) + i.simm) % 65536).toNat, busy := t.busy + 2 })
    let met := reached (Map.get 0 x.cnt (i.imm % 8)) (bits (x.areg i.vs1) 31 0)
    (s.vReady p.val v.val 12 0 .none noChk → x.areg i.vs1 = 0 → exec (.bnez p v) s = .next next) ∧
    (s.vReady p.val v.val 12 0 .none noChk → x.areg i.vs1 ≠ 0 → exec (.bnez p v) s = .next jump) ∧
    (s.vReady p.val v.val 12 1 .none noChk → exec (.jmp p v) s = .next jump) ∧
    (s.vReady p.val v.val 12 2 .none noChk → met = true → exec (.waitc p v) s = .next next) ∧
    (s.vReady p.val v.val 12 2 .none noChk → met = false → exec (.waitc p v) s = .next (s.updVt k (fun t => { t with wait := .waitc }))) ∧
    (s.vReady p.val v.val 12 2 .waitc noChk → met = true → exec (.waitcWake p v) s = .next next) ∧
    (s.vReady p.val v.val 12 3 .none noChk → x.xfers = [] → exec (.fence p v) s = .next next) ∧
    (s.vReady p.val v.val 12 3 .none noChk → x.xfers ≠ [] → exec (.fence p v) s = .next (s.updVt k (fun t => { t with wait := .fence }))) ∧
    (s.vReady p.val v.val 12 3 .fence noChk → x.xfers = [] → exec (.fenceWake p v) s = .next next) ∧
    (s.vReady p.val v.val 12 4 .none noChk → exec (.vend p v) s = .next (s.updVt k (fun t =>
      { t with busy := t.busy + 1, launch := t.launch.map (fun l => { l with ended := true }) })))

/-- Address registers, branches, waits and the end of a program. -/
def Obligations.VectorAddressesAndControl : Prop := Clauses.VectorAddressRegisters ∧ Clauses.VectorControlFlow

/-- R84, R85: a VLAUNCH at the head that passes its checks starts its program at ENTRY with a1 to a7; a launch whose program has ended and
whose transfers are done completes with its flags; a flit in flight to a stream channel lands at the end of its FIFO. -/
def Clauses.LaunchesAndFlits : Prop :=
  ∀ (s : State) (p : PartId) (v : VtId), s.canon = true →
    let k := kVt p.val v.val
    let u := uVt p.val v.val
    (∀ c : Cmd, s.headCmd u = some c → cOp c = 0x10 → s.vtCode p.val v.val c = 0 → Map.wf 0 (s.vt k).a = true → ∃ t, exec (.vlaunch p v) s = .next t ∧
      (t.vt k).queue = (s.vt k).queue.drop 1 ∧ (t.vt k).launch = some { cmd := c } ∧ (t.vt k).pc = bits c 47 32 ∧
      (t.vt k).wait = .none ∧ (∀ j, 0 < j → j < 8 → (t.vt k).areg j = c.extractLsb' (64 * j) 64) ∧
      (t.vt k).v = (s.vt k).v ∧ (t.vt k).m = (s.vt k).m ∧ (t.vt k).lm = (s.vt k).lm ∧ (t.vt k).cnt = (s.vt k).cnt ∧
      ∀ j, j ≠ k → t.vt j = s.vt j) ∧
    (∀ l : Launch, (s.vt k).launch = some l → l.ended = true → (s.vt k).xfers = [] → (s.unit u).st = .run →
      exec (.launchComplete p v) s = .next
        (((s.updVt k (fun t => { t with launch := none, flags := t.flags ||| l.flags })).workFlags u l.flags).complete u l.cmd
          l.err l.flags 0)) ∧
    (∀ (ch : Fin 4) (f : BitVec 512) (r : List (BitVec 512)), Map.get [] (s.vt k).scFly ch.val = f :: r →
      exec (.streamFlitDeliver p v ch) s = .next (s.updVt k (fun t =>
        { t with scFly := Map.set [] ch.val r t.scFly, sc := Map.upd [] ch.val (fun l => l ++ [f]) t.sc })))

/-- Streams, transfers and launches of a vector tile. -/
def Obligations.VectorStreamsAndLaunches : Prop := Clauses.VectorStreamsAndTransfers ∧ Clauses.LaunchesAndFlits

/-! ## Scalar tiles -/

/-- R89, R90: with a credit for the engine its rs2 names, and 64 aligned bytes inside local memory, KISSUE moves the command into the engine's
queue, takes the credit and gives rd the credits left; KTRYISSUE gives 0. Without a credit KISSUE waits and KTRYISSUE gives 1. -/
def Clauses.ScalarIssue : Prop :=
  ∀ (s : State) (p : PartId) (t : StId) (e : EngId), s.canon = true →
    let k := kSt p.val t.val
    let x := s.tile k
    let u := uEng p.val e.val
    let cr := s.creditOf u
    let c : Cmd := BitVec.ofNat 512 (x.lm.rdLE x.rs1.toNat 64)
    let sent : State := (s.qUse (queuePool u) 1).updEng (kEng p.val e.val) (fun y => { y with queue := y.queue ++ [c], cred := y.cred - 1 })
    s.unitOperand p.val t.val x.rs2.toNat = some u → x.rs1.toNat % 64 = 0 → x.userOk x.rs1.toNat 64 false = true →
    (s.unit u).portClosed = false → (s.unit u).fenced = false →
    (s.kat p.val t.val 0 0 .none = true → 0 < cr → exec (.kissue p t) s = .next (sent.updSt k (fun y =>
      ({ y with issued := y.issued + 1 } : STile).retire (BitVec.ofNat 64 (cr - 1))))) ∧
    (s.kat p.val t.val 0 0 .none = true → cr = 0 → exec (.kissue p t) s = .next (s.updSt k (fun y => { y with wait := .kissue }))) ∧
    (s.kat p.val t.val 0 0 .kissue = true → 0 < cr → exec (.kissueWake p t) s = .next (sent.updSt k (fun y =>
      ({ y with issued := y.issued + 1 } : STile).retire (BitVec.ofNat 64 (cr - 1))))) ∧
    (s.kat p.val t.val 0 1 .none = true → 0 < cr → exec (.ktryissue p t) s = .next (sent.updSt k (fun y =>
      ({ y with issued := y.issued + 1 } : STile).retire 0))) ∧
    (s.kat p.val t.val 0 1 .none = true → cr = 0 → exec (.ktryissue p t) s = .next (s.updSt k (fun y => y.retire 1)))

/-- R89, R91: KEVPOP and KEVWAIT pop the oldest record into local memory, give rd the number of records left, and return a posting credit,
with which a record held for the tile is posted; on an empty queue KEVPOP gives −1 and KEVWAIT waits. -/
def Clauses.ScalarEvents : Prop :=
  ∀ (s : State) (p : PartId) (t : StId), s.canon = true →
    let k := kSt p.val t.val
    let x := s.tile k
    let pop (r : BitVec 128) (rest : List (BitVec 128)) : State := ((s.qFree (eventPool k) 1).updSt k (fun y =>
      ({ y with evq := rest, evCred := y.evCred + 1 }.retire (BitVec.ofNat 64 rest.length)).wrEvent x.rs1.toNat r)).repost k
    (∀ r rest, x.evq = r :: rest → x.userOk x.rs1.toNat 16 true = true →
      (s.kat p.val t.val 1 0 .none = true → exec (.kevpop p t) s = .next (pop r rest)) ∧
      (s.kat p.val t.val 1 1 .none = true → exec (.kevwait p t) s = .next (pop r rest)) ∧
      (s.kat p.val t.val 1 1 .kevwait = true → exec (.kevwaitWake p t) s = .next (pop r rest))) ∧
    (x.evq = [] → s.kat p.val t.val 1 0 .none = true →
      exec (.kevpop p t) s = .next (s.updSt k (fun y => y.retire (BitVec.ofInt 64 (-1))))) ∧
    (x.evq = [] → s.kat p.val t.val 1 1 .none = true →
      exec (.kevwait p t) s = .next (s.updSt k (fun y => { y with wait := .kevwait })))

/-- R76, R89: KCWAIT goes on once the counter of its unit has reached the value and waits until then; KQCTL flushes or resumes the queue of
its unit, FLUSH first; KDRAIN goes on, with the number of completed commands in rd, once every command the tile issued has completed. -/
def Clauses.ScalarWaitsAndQueueControl : Prop :=
  ∀ (s : State) (p : PartId) (t : StId), s.canon = true →
    let k := kSt p.val t.val
    let x := s.tile k
    (∀ u, s.unitOperand p.val t.val (bits x.rs2 16 8) = some u →
      (s.kat p.val t.val 2 0 .none = true → reached (s.cntOf u (bits x.rs2 2 0)) (bits x.rs1 31 0) = true →
        exec (.kcwait p t) s = .next (s.updSt k STile.goOn)) ∧
      (s.kat p.val t.val 2 0 .none = true → reached (s.cntOf u (bits x.rs2 2 0)) (bits x.rs1 31 0) = false →
        exec (.kcwait p t) s = .next (s.updSt k (fun y => { y with wait := .kcwait }))) ∧
      (s.kat p.val t.val 2 0 .kcwait = true → reached (s.cntOf u (bits x.rs2 2 0)) (bits x.rs1 31 0) = true →
        exec (.kcwaitWake p t) s = .next (s.updSt k STile.goOn))) ∧
    (∀ u, s.unitOperand p.val t.val x.rs2.toNat = some u → s.kat p.val t.val 3 0 .none = true →
      (bit x.rs1 1 = true → exec (.kqctl p t) s = .next ((s.flush u).updSt k STile.goOn)) ∧
      (bit x.rs1 1 = false → bit x.rs1 0 = true → exec (.kqctl p t) s = .next ((s.resume u).updSt k STile.goOn)) ∧
      (bit x.rs1 1 = false → bit x.rs1 0 = false → exec (.kqctl p t) s = .next (s.updSt k STile.goOn))) ∧
    (s.kat p.val t.val 6 0 .none = true → x.completed = x.issued →
      exec (.kdrain p t) s = .next (s.updSt k (fun y => y.retire (BitVec.ofNat 64 y.completed)))) ∧
    (s.kat p.val t.val 6 0 .none = true → x.completed ≠ x.issued →
      exec (.kdrain p t) s = .next (s.updSt k (fun y => { y with wait := .kdrain }))) ∧
    (s.kat p.val t.val 6 0 .kdrain = true → x.completed = x.issued →
      exec (.kdrainWake p t) s = .next (s.updSt k (fun y => y.retire (BitVec.ofNat 64 y.completed))))

/-- R92, R227, R228: a pointer conversion to the host view gives HB + 2^39 × set + target + offset for a cached LOCAL range; one from a host
address gives the device address in the first VALID range, in ascending index, whose host view holds it, and without one 0 with kpst
RANGE_KIND. -/
def Clauses.PointerConversion : Prop :=
  ∀ (s : State) (p : PartId) (t : StId), s.canon = true →
    let k := kSt p.val t.val
    let u := uSt p.val t.val
    let a := (s.tile k).rs1.toNat
    let xid := (s.unit u).xid
    (∀ c, s.kat p.val t.val 4 0 .none = true → s.cached u a = some c → eKind c.entry = 0 →
      exec (.kpcvtDeviceToHost p t) s = .next ((s.updUnit u (fun y => { y with cache := c :: y.cache.erase c })).updSt k (fun y =>
        { y.setX (kRd y.kword) (BitVec.ofNat 64 (s.hbOf xid + 2 ^ 39 * eAux c.entry + eTarget c.entry + (a - eBase c.entry))) with
          kpst := 0, wait := .none, pc := y.pc + 4 }))) ∧
    (s.kat p.val t.val 4 0 .none = true → s.cached u a = none →
      exec (.kpcvtDeviceToHost p t) s = .next ((s.updUnit u (fun c =>
        { c with miss := some { xid := c.xid, va := a, len := 1, acc := 3 } })).updSt k (fun y => { y with wait := .kpcvt }))) ∧
    (∀ v, s.kat p.val t.val 4 1 .none = true →
      (s.validSlots xid).findSome? (fun r => deviceView (s.hbOf xid) r.2.entry a) = some v →
      exec (.kpcvtHostToDevice p t) s = .next (s.updSt k (fun y =>
        { y.setX (kRd y.kword) (BitVec.ofNat 64 v) with kpst := 0, wait := .none, pc := y.pc + 4 }))) ∧
    (s.kat p.val t.val 4 1 .none = true →
      (s.validSlots xid).findSome? (fun r => deviceView (s.hbOf xid) r.2.entry a) = none →
      exec (.kpcvtHostToDevice p t) s = .next (s.updSt k (fun y =>
        { y.setX (kRd y.kword) 0 with kpst := 0x030C, wait := .none, pc := y.pc + 4 })))

/-- A scalar tile issues, takes events, waits, controls queues and converts pointers. -/
def Obligations.ScalarIssueAndEvents : Prop := Clauses.ScalarIssue ∧ Clauses.ScalarEvents ∧ Clauses.ScalarWaitsAndQueueControl ∧ Clauses.PointerConversion

/-- R89, R95, R96: a member tile of a barrier that is not broken, in a composition of one module, sends its arrival, waits, or both; a wait
with nothing outstanding goes on with kpst 0. rd is a free value (assumption 32). -/
def Clauses.ScalarBarriers : Prop :=
  ∀ (s : State) (p : PartId) (t : StId), s.canon = true →
    let k := kSt p.val t.val
    let b := (s.tile k).rs1.toNat % 32
    let c := (s.part p.val).cid
    let arrive (s : State) : State := (s.updSt k (fun y => { y with arrived := setBit y.arrived b })).updBar c b (fun x =>
      { x with arriving := x.arriving + 1, src := x.src ++ [p.val] })
    let waits (s : State) : State := (s.updSt k (fun y => { y with wait := .kbar b })).updBar c b (fun x =>
      { x with waiting := if x.waiting.contains k then x.waiting else x.waiting ++ [k] })
    s.barMember p.val t.val b = true → (s.bar c b).broken = false → (s.comp c).multi = false →
    (s.kat p.val t.val 5 0 .none = true → has (s.tile k).arrived b = false →
      exec (.kbarArriveWait p t) s = .next (waits (arrive s))) ∧
    (s.kat p.val t.val 5 1 .none = true → has (s.tile k).arrived b = false →
      exec (.kbarArrive p t) s = .next (({ arrive s with fresh := s.fresh + 1 } : State).updSt k (fun y =>
        { y.retire (Config.freeValue s.fresh) with kpst := 0 }))) ∧
    (s.kat p.val t.val 5 2 .none = true → has (s.tile k).arrived b = true →
      exec (.kbarWait p t) s = .next (waits s)) ∧
    (s.kat p.val t.val 5 2 .none = true → has (s.tile k).arrived b = false →
      exec (.kbarWait p t) s = .next (({ s with fresh := s.fresh + 1 } : State).updSt k (fun y =>
        { y.retire (Config.freeValue s.fresh) with kpst := 0 })))

/-- R89, R94, R250: a KDMA whose descriptor passes its checks adds its transfer, rd a free value (assumption 35); an ECALL with a7 = 0 ends
the tile's part of the work with a0 bits 15:0 as the result; a trap in user mode halts the tile in TRAPPED with mcause and mtval recorded and
a fatal TILE_TRAP fault, an illegal word at its program counter giving cause 2 and the word; a stop request to a running tile writes its record, zeroes it and leaves it STOPPED (R99). -/
def Obligations.ScalarTransfersTrapsAndStops : Prop :=
  ∀ (s : State) (p : PartId) (t : StId), s.canon = true →
    let k := kSt p.val t.val
    let u := uSt p.val t.val
    let x := s.tile k
    (s.kat p.val t.val 7 0 .none = true → x.rs1.toNat + 32 ≤ 0x80000 →
      (xferChk 0x80000 (stProg x.cfg) x.lm x.rs1.toNat).any (fun c => c.2) = false →
      let started : State := ({ s with fresh := s.fresh + 1 } : State).updSt k (fun y => { y.retire (Config.freeValue s.fresh) with
        xfers := y.xfers ++ [{ d := BitVec.ofNat 256 (x.lm.rdLE x.rs1.toNat 32) }] })
      exec (.kdma p t) s = .next (if x.xfers = [] then started.xferGo u else started)) ∧
    ((s.unit u).st = .run → x.ended = none → x.wait = .none → x.kword = 0x73 → x.xreg 17 = 0 →
      (∀ w, s.workOn u = some w → exec (.ecallEndOfWork p t) s = .next
        ((s.updSt k (fun y => { y with ended := some (bits (x.xreg 10) 15 0), pc := y.pc + 4 })).setWork w
          ((s.work w).map (fun v => { v with result := bits (x.xreg 10) 15 0 })))) ∧
      (s.workOn u = none → exec (.ecallEndOfWork p t) s = .next
        (s.updSt k (fun y => { y with ended := some (bits (x.xreg 10) 15 0), pc := y.pc + 4 })))) ∧
    (∀ (n : Nat) (a : Word64), n < 256 → (s.unit u).st = .run → x.ended = none → ∃ r, exec (.userTrap p t n a) s = .next r ∧
      let bad := x.illegal && decide (x.wait = .none)
      let cause := if bad then 2 else n
      let tval : Word64 := if bad then x.kword.setWidth 64 else a
      (r.unit u).st = .trapped ∧ (r.tile k).cause = cause ∧ (r.tile k).tval = tval ∧ (r.tile k).x = x.x ∧ (r.tile k).pc = x.pc ∧
      ((s.ctx (s.unit u).xid).st ≠ .resetting → (s.xlt.faults.any (fun g => g.xid == (s.unit u).xid && g.fatal)) = false →
        ∃ f, r.xlt.faults = s.xlt.faults ++ [f] ∧ f.status = 0x030E ∧ f.kind = 2 ∧ f.fatal = true ∧ f.xid = (s.unit u).xid ∧
          f.addr = tval.toNat)) ∧
    (∀ n : UnitId, n.val = u → (s.unit u).st = .run → (s.unit u).ext = none →
      exec (.tileStopRequest n) s = .next
        ((((({ s with bars := Map.mapV {} (fun _ b => { b with waiting := b.waiting.erase k }) s.bars } : State).putSave (s.unit u).xid u
          (.st (x.save false ((s.issues p.val t.val).map s.heldCred)))).clearUnit u).updUnit u (fun y =>
            { y with st := .stopped, stop := true, cache := [], miss := none })).ackAll u))

/-- R95 to R97, R119: an arrival that can travel the express links is counted at the root; the last of n of a composition of one module flips the
phase and puts the release on its way to the partitions of the barrier; a release that can travel is no longer on its way to its partition, no tile
of the partition waits, and its member tiles may arrive again; a flit travels the express links while each has a credit and its crossings are open;
the end of a hold lets the engine's soft start ramp. -/
def Clauses.BarrierRootAndSoftStart : Prop :=
  (∀ (s s' : State) (c : CidT) (b : Fin 32), s.canon = true → (s.bar c.val b.val).broken = false → 0 < (s.bar c.val b.val).arriving →
    let x := s.bar c.val b.val
    let root := ((s.comp c.val).phys x.root).getD 0
    let first := nth root x.src 0
    s.express first root (barFlit 6 first root 0) = some s' →
    (x.count + 1 < x.n → exec (.barArrive c b) s = .next (s'.updBar c.val b.val (fun y =>
      { y with arriving := y.arriving - 1, src := y.src.drop 1, count := y.count + 1 }))) ∧
    (x.n ≤ x.count + 1 → (s.comp c.val).multi = false → exec (.barArrive c b) s = .next (s'.updBar c.val b.val (fun y =>
      { y with arriving := y.arriving - 1, src := y.src.drop 1, phase := !y.phase, count := y.count + 1 - y.n,
               toRelease := y.toRelease ++ y.lps.filterMap (fun lp => (s.comp c.val).phys lp) })))) ∧
  (∀ (s s' : State) (c : CidT) (b : Fin 32) (p : PartId), s.canon = true → (s.bar c.val b.val).toRelease.contains p.val = true →
    let root := ((s.comp c.val).phys (s.bar c.val b.val).root).getD 0
    s.express root p.val (barFlit 7 root p.val 0) = some s' →
    ∃ t, exec (.barRelease c b p) s = .next t ∧
      (t.bar c.val b.val).toRelease = (s.bar c.val b.val).toRelease.erase p.val ∧
      (∀ k ∈ (t.bar c.val b.val).waiting, k / 4 ≠ p.val) ∧
      (∀ j : StId, mkLref (s.part p.val).lp 2 j.val ∈ (s.bar c.val b.val).members → (s.part p.val).lp < 64 →
        has (t.tile (kSt p.val j.val)).arrived b.val = false)) ∧
  (∀ (s : State) (p q : Nat) (f : Flit), (expressHops 16 p q).all (fun id => (s.pool id).ready &&
    (expressXings id).all (fun x => s.xingOpen (some x))) = true → (s.express p q f).isSome = true) ∧
  (∀ (s : State) (p : PartId) (e : EngId), (s.engine (kEng p.val e.val)).soft = .hold →
    exec (.softStartHoldEnd p e) s = .next ((s.updEng (kEng p.val e.val) (fun x => { x with soft := .ramp })).startUnits p.val e.val))

/-- Barriers: arrivals, waits, the root and the release. -/
def Obligations.BarriersOfACulture : Prop := Clauses.ScalarBarriers ∧ Clauses.BarrierRootAndSoftStart

/-! ## Die network -/

/-- R110 to R114, R116: a flit that is next in flight to its pool, at a router whose die runs and over crossings that are open, lands. One with
an uncorrectable control word is dropped and counted, and the second within a millisecond makes the router faulty; one with a VC that is not its
KIND's is dropped; a pour flit or a churn flit without an entry is dropped, and a pour flit with one waits at its input; any other flit but an
audit, with none waiting before it in its buffer, is delivered at its last router with its slot freed, and goes out by the port of its route where
that port can take it. -/
def Obligations.FlitsLandAndMoveOn : Prop :=
  ∀ (s : State) (r : RouterId) (port : RPort) (f : Flit) (id : Nat),
    let landed := ((s.landOn id (cleanFlit f)).crossAll (landXings r.val (RPort.num port))).checkPool id
    let dropped := (landed.dropFlit r.val id).returnQueue f
    let t := routeAt r.val f
    s.routerOn r.val = true → s.flightOf r.val (RPort.num port) f = some id → s.landOpen r.val (RPort.num port) = true → f.parityBad = 0 →
    (f.eccBad = true → dropped.routerOn r.val = true → let e := dropped.eccSeen r.val
      exec (.flitArrive r port f) s = .next (if e.1 then e.2.routerFault r.val else e.2)) ∧
    (f.eccBad = false → kindVc f.kind f.vc ≠ some f.vc → exec (.flitArrive r port f) s = .next dropped) ∧
    (f.eccBad = false → kindVc f.kind f.vc = some f.vc →
      (f.kind = 4 ∨ f.kind = 5 → landed.entryOf r.val f = none → exec (.flitArrive r port f) s = .next (landed.dropFlit r.val id)) ∧
      (∀ e, f.kind = 4 → landed.entryOf r.val f = some e → exec (.flitArrive r port f) s = .next
        (landed.updRouter r.val (fun x => { x with inq := x.inq ++ [⟨RPort.num port, id, f⟩] })))) ∧
    (f.eccBad = false → kindVc f.kind f.vc = some f.vc → f.kind ≠ 4 → f.kind ≠ 5 → f.kind ≠ 8 →
      (landed.router r.val).inq.any (fun x => x.pool == id) = false →
      (t.2 = 0 → (landed.router r.val).linkFree 0 f.vc id = true → landed.xingOpen (localXing r.val) = true →
        exec (.flitArrive r port f) s = .next ((((landed.freeOn id).cross (localXing r.val)).usedLink r.val 0 id t.1).deliver r.val t.1)) ∧
      (t.2 ≠ 0 → landed.mayGo r.val t.2 id (landed.beyond r.val t.2 t.1) t.1 = true →
        exec (.flitArrive r port f) s = .next ((landed.freeOn id).goOut r.val t.2 id t.1)))

/-- R122 to R126: the oldest pour flit at an input that its entry names is copied to every branch once all can take it; a churn node whose inputs
present flits of one index combines them, and its root delivers the result while any other node sends it on by its branch; inputs that end
unequally break the use of the tree. Of a group of one module, the pour's; of any group, the churn's. -/
def Clauses.PourAndChurn : Prop :=
  ∀ (s : State) (r : RouterId),
    (∀ (port : RPort) (x : Held) (e : CEnt),
      (s.router r.val).inq.find? (fun y => y.port == RPort.num port && y.flit.kind == 4) = some x →
      (s.router r.val).entry (s.ctx x.flit.xid).cid x.flit.group false = some e → has e.inMask (RPort.num port) = true →
      ((List.range 5).filter (has e.outMask)).all (fun o => s.branchReady r.val o x.pool x.flit) = true →
      (s.comp (s.ctx x.flit.xid).cid).spanning x.flit.group = false →
      exec (.pourForward r port) s = .next
        (((s.updRouter r.val (fun y => { y with inq := y.inq.erase x })).freeOn x.pool).each
          ((List.range 5).filter (has e.outMask)) (fun s o => s.branchSend r.val o x.pool e x.flit))) ∧
    (∀ (c : CidT) (g : Nat) (e : CEnt) (x : Held) (rest : List Held),
      (s.router r.val).entry c.val g true = some e →
      ((List.range 5).filter (has e.inMask)).filterMap (fun i => s.presented r.val i c.val g) = x :: rest →
      (x :: rest).length = ((List.range 5).filter (has e.inMask)).length →
      let bad := rest.any (fun y => y.flit.fidx != x.flit.fidx || y.flit.tail != x.flit.tail || y.flit.last != x.flit.last)
      let out : Flit := { x.flit with payload := churnOp e.op ((x :: rest).map (fun y => y.flit.payload)),
                                      poison := (x :: rest).any (fun y => y.flit.poison) }
      let taken := s.each (x :: rest) (fun s y => (s.updRouter r.val (fun z => { z with inq := z.inq.erase y })).freeOn y.pool)
      (bad = true → exec (.churnCombine r c g) s = .next (s.churnBreak c.val g x.flit.xid)) ∧
      (bad = false → has e.outMask 0 = true → s.branchReady r.val 0 (nodeInput c.val g) out = true → s.winReady c.val g = true →
        exec (.churnCombine r c g) s = .next
          (((taken.cross (localXing r.val)).usedLink r.val 0 (nodeInput c.val g) out).churnRoot r.val e out)) ∧
      (∀ o, bad = false → has e.outMask 0 = false → (List.range 5).find? (has e.outMask) = some o →
        s.branchReady r.val o (nodeInput c.val g) out = true →
        exec (.churnCombine r c g) s = .next (taken.branchSend r.val o (nodeInput c.val g) e out)))

/-- R115, R116, R121: a router declared faulty is faulty and counted, and a second declaration does nothing; the replay of a link word is noted,
and the 16th within a microsecond, or a lane repair without spares, fails the link. -/
def Clauses.RouterAndLinkFaults : Prop :=
  (∀ (s : State) (r : RouterId), s.canon = true → (s.router r.val).faulty = false →
    ∃ t, exec (.routerFaulty r) s = .next t ∧ s.flt.retRouters < t.flt.retRouters ∧ (t.router r.val).faulty = true) ∧
  (∀ (s : State) (r : RouterId), (s.router r.val).faulty = true → exec (.routerFaulty r) s = .next s) ∧
  (∀ (s : State) (l : Fin 40), (s.dlink l.val).failed = false →
    let times := within s.now 1000 (s.dlink l.val).replays
    let kept (b : Bool) : State :=
      { s with net := { s.net with links := Map.set {} l.val { s.dlink l.val with replays := times, failed := b } s.net.links } }
    (times.length < 16 → exec (.linkWordCrcFail l false) s = .next (kept false)) ∧
    (16 ≤ times.length → exec (.linkWordCrcFail l false) s = .next ((kept true).linkFail l.val)) ∧
    exec (.linkWordCrcFail l true) s = .next ((kept true).linkFail l.val))

/-- Pours and churns of the die network, and its faults. -/
def Obligations.CollectivesAndRouterFaults : Prop := Clauses.PourAndChurn ∧ Clauses.RouterAndLinkFaults

/-- R128 to R130: a credit on its way back, with no answer of an audit to arrive before it, arrives, the pool is checked, and what waited for it
goes on; an audit goes between two packets with S, itself counted, lands once it is next in flight, and is answered with Cs when Rx is S; an answer
arrives once the credits before it have, and Cr equal to Cs ends the audit, anything else starts the resolution, as an Rx other than S does. The
resolution ends when nothing is held or under way: the sender goes on when it holds the pool's size; otherwise the pool retires, its link is
fenced, and the router that receives by it is faulty (assumption 173). The pool of a queue or stream channel counts what was sent and came back. -/
def Clauses.CreditsAndAudits : Prop :=
  ∀ (s : State) (pool : Nat),
    let q := s.pool pool
    (0 < q.ret → q.answerFirst = false → exec (.creditReturn pool) s = .next (((s.updPool pool (fun p =>
      { p with ret := p.ret - 1, fly := p.fly - 1, held := p.held + 1, cr := p.cr + 1 })).checkPool pool).wakePool pool)) ∧
    (pool < 2 ^ 21 ∨ 2 ^ 27 ≤ pool → q.ready = true → q.audit = none → q.answer = none → s.betweenPackets pool = true →
      exec (.auditInject pool) s = .next ((s.sendOn pool (auditFlit pool)).updPool pool (fun p => { p with audit := some p.s }))) ∧
    (2 ^ 21 ≤ pool → pool < 2 ^ 27 → exec (.auditInject pool) s = .next (s.auditQueue pool)) ∧
    (∀ v, q.audit = some v → s.nextFlit pool = some (auditFlit pool) →
      exec (.auditArrive pool) s = .next (((s.landOn pool (auditFlit pool)).freeOn pool).updPool pool (fun p =>
        if p.rx = v then { p with audit := none, answer := some p.cs } else { p with audit := none, resolving := true }))) ∧
    (∀ v, q.answer = some v → BitVec.ofNat 32 q.ret ≤ q.cs - v →
      exec (.auditAnswerArrive pool) s = .next (s.updPool pool (fun p =>
        { p with answer := none, resolving := p.resolving || decide (p.cr ≠ v) }))) ∧
    (pool < 2 ^ 21 ∨ 2 ^ 27 ≤ pool → q.resolving = true → q.occ = 0 → q.fly = 0 → q.held = poolSize pool →
      exec (.auditResolve pool) s = .next ((s.updPool pool (fun p => { p with resolving := false })).wakePool pool)) ∧
    (pool < 2 ^ 21 ∨ 2 ^ 27 ≤ pool → q.resolving = true → q.occ = 0 → q.fly = 0 → q.held ≠ poolSize pool →
      let t := poolSite pool
      let stopped := s.updPool pool (fun p => { p with resolving := false, retired := true })
      exec (.auditResolve pool) s = .next ((if t.2 = 0 then stopped else stopped.fencePort t.1 t.2).routerFault t.1)) ∧
    (2 ^ 21 ≤ pool → pool < 2 ^ 27 → q.resolving = true → Map.get 0 s.net.qSent pool = Map.get 0 s.net.qBack pool →
      (s.queueHeld pool = poolSize pool → exec (.auditResolve pool) s = .next
        ((s.updPool pool (fun p => { p with resolving := false })).wakeQueue pool)) ∧
      (s.queueHeld pool ≠ poolSize pool → exec (.auditResolve pool) s = .next
        ((s.updPool pool (fun p => { p with resolving := false, retired := true })).routerFault (poolSite pool).1)))

/-- An empty receiving FIFO whose clock stops: in HOLD nothing else happens, in SERVICE the crossing raises its wake request, which restarts the
clock and lets go on what waited behind it. The mode follows its setting, and a mode raised to SERVICE over waiting flits raises the wake request
too. A survivor asked to resynchronise, with no flit of the old generation before it, stops its writes and keeps the peer's generation; once the
reset side is empty, the survivor of a unit's or an endpoint's crossing, with every credit out or held, resumes at the pool's size. -/
def Clauses.Crossings : Prop :=
  ∀ (s : State) (x : Nat),
    let y := s.xing x
    let stopped := s.updXing x (fun z => { z with clockStopped := true, wake := false })
    (Map.wf {} s.net.xings = true → y.service = false → exec (.crossingWake x) s = .next stopped) ∧
    (Map.wf {} s.net.xings = true → y.service = true → exec (.crossingWake x) s = .next (stopped.wakeXing x)) ∧
    (exec (.crossingModeSet x false) s = .next (s.updXing x (fun z => { z with service := false }))) ∧
    (y.service = false → y.clockStopped = true → 0 < s.xingData x → exec (.crossingModeSet x true) s = .next
      ((s.updXing x (fun z => { z with service := true })).wakeXing x)) ∧
    (y.service = true ∨ y.clockStopped = false ∨ s.xingData x = 0 → exec (.crossingModeSet x true) s = .next
      (s.updXing x (fun z => { z with service := true }))) ∧
    (y.rsync = 0 →
      (∀ e ∈ xingFrom x, (∀ z ∈ s.net.flights, poolSite z.1 = e → z.2.kind ≠ 8 → s.oldFlit z.2 = false) ∧
        ∀ z ∈ (s.router e.1).inq, z.port = e.2 → s.oldFlit z.flit = false) →
      exec (.rsyncReq x) s = .next (s.updXing x (fun z => { z with stopped := true, rsync := 1, peerGen := s.xingGen x }))) ∧
    (Map.wf {} s.net.xings = true → y.rsync = 1 → xingPools x = [] → y.held + (y.sent - y.credRcvd).toNat = y.size →
      exec (.rsyncPeerEmpty x) s = .next ((s.updXing x (fun z =>
        { z with held := z.size, credRcvd := z.sent, rsync := 0, stopped := false })).stirXing x))

/-- Credits, audits and clock crossings. -/
def Obligations.CreditsAndCrossings : Prop := Clauses.CreditsAndAudits ∧ Clauses.Crossings

/-! ## Cultures, compositions and state tokens -/

/-- R157, R168, R170, R158: STAGE of a store of at most 2^27 bytes that can be read, whose bytes pass the checks, keeps the culture under the next
handle and answers it, and of one that fails a check answers the check's code; BIND of a staged culture that passes stage 2, while a CID is free,
takes the one that has been free the longest; a partial culture or a refusal at stage 9 rolls it back with the code, and otherwise BIND_BEGIN is
journaled and the binds that may begin do; QUERY by a mailbox writes the composition's record to its buffer and answers 0. -/
def Clauses.StageBindAndQuery : Prop :=
  ∀ (s : State) (r : Request),
    (∀ (port : Nat) (b : List Byte), r.p0.toNat ≤ 1 → r.p2.toNat ≤ 2 ^ 27 →
      port = (match r.reply with | .mbx i => (s.mslot i).port | _ => r.client / 256) →
      s.storeBytes r.p0.toNat port r.p1.toNat r.p2.toNat = some b →
      let t := s.countRead r.p0.toNat port r.p1.toNat r.p2.toNat
      (t.validate b = 0 → exec (.stage r) s = .next
        (({ t with staged := t.stagedRoom ++ [cultureOf b t.nextHandle r.p0.toNat r.p1.toNat port], nextHandle := t.nextHandle + 1 } :
          State).answer r 0 [t.nextHandle])) ∧
      (t.validate b ≠ 0 → exec (.stage r) s = .next (t.answer r (t.validate b) []))) ∧
    (∀ (k : Culture) (c : Nat) (rest : List Nat), s.staged.find? (fun k => k.handle == r.p0.toNat) = some k →
      (s.useStaged k.handle).stage2 k.signer = 0 → s.freeCids = c :: rest →
      let t := (s.useStaged k.handle).assignCid c k r
      let code := if k.part = true then 0x061E else (t.bindStage9 c).1
      (code ≠ 0 → exec (.bind r) s = .next (t.rollback c code code)) ∧
      (code = 0 → exec (.bind r) s = .next ((t.journal (.bindBegin c (t.comp c).gen k.digest)).beginBinds))) ∧
    (∀ i, r.reply = .mbx i → exec (.query r) s = .next
      (((s.updHmem (s.mslot i).port (fun m => m.wrL r.bufAddr ((s.comp r.cid).record r.cid))).hostTx (s.mslot i).port
        ((s.comp r.cid).record r.cid).length).answer r 0 []))

/-- R165, R170: the CID a bind is assigned leaves the free ones, holds the culture under the next generation, and is BINDING. -/
def Clauses.BindAssignsTheCid : Prop :=
  ∀ (s : State) (r : Request) (k : Culture) (c : CidT), s.canon = true → s.freeCids.Nodup →
    let t := s.assignCid c.val k r
    (t.comp c.val) = bindComp k r ((s.comp c.val).gen + 1) ∧ (t.comp c.val).st = .binding ∧ c.val ∉ t.freeCids ∧
      ∀ d, d ≠ c.val → t.comp d = s.comp d

/-- Staging, binding and querying a composition. -/
def Obligations.StageBindAndQuery : Prop := Clauses.StageBindAndQuery ∧ Clauses.BindAssignsTheCid

/-- R156, R170, R446: a frame load an operation has still to do writes the records or image of its frame and leaves the list; once no load is
left and the writer commits, a bind commits, and a restore commits the groups that could be placed. -/
def Clauses.LoadsAndBindCommit : Prop :=
  ∀ (s : State) (c : CidT) (o : CompOp), (s.comp c.val).op = some o →
    (∀ (p : PartId) (typ key : Nat), o.loads.contains (p.val, typ, key) = true →
      exec (.frameLoad c p typ key) s = .next
        (((s.loadFrame ((s.comp c.val).loadFrames o) p.val typ key).updComp c.val (fun x =>
          { x with op := some { o with loads := o.loads.erase (p.val, typ, key) } })).jwait
            (.step c.val 1 p.val (frmBody ((s.comp c.val).loadFrames o) typ key).length))) ∧
    ((s.comp c.val).st = .binding → s.bindReady c.val o = true → o.kind = .bind →
      exec (.bindCommit c) s = .next (s.commitBind c.val o)) ∧
    ((s.comp c.val).st = .binding → s.bindReady c.val o = true → o.kind = .restore →
      exec (.bindCommit c) s = .next (s.commitRestore c.val o)) ∧
    ((s.comp c.val).st = .binding → s.bindReady c.val o = false → exec (.bindCommit c) s = .next s)

/-- R170: committing a bind places the composition on its targets with SHAPE 0, journals COMMIT, binds the targets, makes the composition ACTIVE
with its barriers and full budgets, and answers its CID and generation. -/
def Clauses.BindCommitEffect : Prop :=
  ∀ (s : State) (c : CidT) (o : CompOp), s.canon = true → (s.comp c.val).op = some o → (s.comp c.val).st = .binding →
    s.bindReady c.val o = true → o.kind = .bind → ∃ t, exec (.bindCommit c) s = .next t ∧
      (t.comp c.val).st = .active ∧ (t.comp c.val).op = none ∧ (t.comp c.val).shape = 0 ∧
      (t.comp c.val).gen = (s.comp c.val).gen ∧ (t.comp c.val).frames = (s.comp c.val).frames ∧
      (t.comp c.val).place = o.targets.foldl (fun m e => Map.set 255 e.1 e.2 m) [] ∧
      (∀ p, (s.part p).st = .claimed → p ∈ o.targets.map (fun e => e.2) → (t.part p).st = .bound) ∧
      ∀ d, d ≠ c.val → t.comp d = s.comp d

/-- Frame loads, and what the commit of a bind leaves. -/
def Obligations.BindCommits : Prop := Clauses.LoadsAndBindCommit ∧ Clauses.BindCommitEffect

/-- R164, R174, R178: APPLY, of a partial culture without weight sets whose checks pass, to an ACTIVE composition of one module without an
operation, makes it the composition's operation, and nothing else changes but the order of use of the staged cultures; the begin of a fast or slow
operation fixes the switch batch, journals REBIND_BEGIN with the new state, ends the fabric job, and goes on to REBINDING with its targets claimed, or
to QUIESCING. -/
def Clauses.ApplyAndBegin : Prop :=
  (∀ (s : State) (r : Request) (k : Culture),
    let t := s.useStaged k.handle
    let x := s.comp r.cid
    let o := x.opFor k r
    r.p1.toNat ≤ 60000 → x.st = .active → x.op = none → x.multi = false → s.staged.find? (fun k => k.handle == r.p0.toNat) = some k →
    t.stage2 k.signer = 0 → k.base = x.eff → applyCheck x k = 0 → (t.placeRebind r.cid o).1 = 0 → wsetsOf o.newFrames = [] →
    exec (.apply r) s = .next (t.updComp r.cid (fun y => { y with op := some o }))) ∧
  (∀ (s : State) (c : CidT) (o : CompOp),
    let x := s.comp c.val
    let b := x.switchBatch
    x.op = some o → x.st = .active → x.ending = false → o.begun = false → s.canCommit = true →
    let t (st : CState) : State := ((s.updComp c.val (fun y => { y with op := some { o with begun := true, s := b } })).compRun c.val st
      [.rebindBegin c.val x.gen x.shape x.eff o.newDigest (b.getD 0) (o.kind == .fast)]).endJob c.val
    (o.kind = .fast → exec (.rebindBegin c) s = .next ((t .rebinding).claimTargets c.val)) ∧
    (o.kind = .slow → exec (.rebindBegin c) s = .next (t .quiescing)))

/-- R174, R176, R178: PREPARED, with every load done, is durable and binds the targets; a stage of an unchanged group without old work is drained;
the copy of a moved group of a slow operation is made extent by extent, once no context is resident on its stage; the commit of an operation that is
ready is the model's rebindCommit or, of a repair, repairCommit, and without readiness nothing changes. -/
def Clauses.RebindSteps : Prop :=
  ∀ (s : State) (c : CidT) (o : CompOp), (s.comp c.val).op = some o →
    let x := s.comp c.val
    (x.preparable o = true → s.canCommit = true →
      exec (.prepared c) s = .next (((s.updComp c.val (fun y => { y with op := some { o with prepared := true } })).durable
        (.prepared c.val (o.targets.map (fun e => e.2)))).each o.targets (fun s e => s.bindPart e.2))) ∧
    (∀ g : Fin 64, (s.stage c.val g.val).work = none → x.st = .rebinding → o.prepared = true → o.rolled = false → o.drained.contains g.val = false →
      x.groups.any (fun y => y.first == g.val) = true → s.oldWorkOn c.val (some g.val) = false → o.moved.contains g.val = false →
      o.changed.contains g.val = false → o.removed.contains g.val = false →
      exec (.stageDrained c g) s = .next (s.updComp c.val (fun y => { y with op := some { o with drained := o.drained ++ [g.val] } }))) ∧
    (∀ g : Fin 64, o.rolled = false → o.moved.contains g.val = true → o.copied.contains g.val = false → x.st = .reshaping →
      (s.stage c.val g.val).resident = none → exec (.moveCopyDone c g) s = .next
        ((s.each (x.lpsOf g.val) (fun s lp => match o.targets.find? (fun e => e.1 == lp) with
          | none => s
          | some t => s.copyExtent c.val lp (Map.get 255 x.place lp) t.2)).updComp c.val (fun y =>
            { y with op := y.op.map (fun v => { v with copied := v.copied ++ [g.val] }) }))) ∧
    (o.kind ≠ .repair → s.rebindReady c.val o = true → exec (.rebindCommit c) s = .next (s.rebindCommit c.val o)) ∧
    (o.kind ≠ .repair → s.rebindReady c.val o = false → exec (.rebindCommit c) s = .next s) ∧
    (o.kind = .repair → s.repairReady c.val o = true → exec (.rebindCommit c) s = .next (s.repairCommit c.val o)) ∧
    (o.kind = .repair → s.repairReady c.val o = false → exec (.rebindCommit c) s = .next s)

/-- R174, R175, R177, R178: END frees the partitions that wait for it and is durable; a rollback of a fast or slow operation or a repair undoes it
with 0x0207, and so does the limit of a wait for tokens while they hold; a composition with no work left goes on from QUIESCING to UNBINDING, or,
once every context is saved, to RESHAPING with its targets claimed and, when it removes or moves a group, the limit of the wait set; a repair whose
work has left and whose contexts are saved claims its targets. -/
def Clauses.RebindEndAndRollback : Prop :=
  ∀ (s : State) (c : CidT),
    let x := s.comp c.val
    (s.canCommit = true → x.ending = true → exec (.rebindEnd c) s = .next
      (((s.each x.toRelease (fun s p => if (s.part p).cid = c.val then s.freePart p else s)).updComp c.val (fun y =>
        { y with ending := false, toRelease := [] })).durable (.done c.val))) ∧
    (∀ o, x.op = some o → o.kind = .fast ∨ o.kind = .slow ∨ o.kind = .repair → exec (.rebindRollback c) s = .next (s.undo c.val 0x0207 0x0207)) ∧
    (∀ o, x.op = some o → o.kind = .fast ∨ o.kind = .slow → o.drainBy.isSome = true → s.tokensHold c.val o = true →
      exec (.drainLimitExpired c) s = .next (s.undo c.val 0x0207 0x0207)) ∧
    (∀ o, x.op = some o → x.st = .quiescing → s.workOfComp c.val = [] → o.kind = .slow → (s.saveAll c.val).stillSaves c.val = true →
      exec (.quiesceDone c) s = .next (s.saveAll c.val)) ∧
    (∀ o, x.op = some o → x.st = .quiescing → s.workOfComp c.val = [] → o.kind = .slow → (s.saveAll c.val).stillSaves c.val = false →
      o.removed = [] → o.moved = [] →
      exec (.quiesceDone c) s = .next (((s.saveAll c.val).compState c.val .reshaping).claimTargets c.val)) ∧
    (∀ o, x.op = some o → x.st = .quiescing → s.workOfComp c.val = [] → o.kind = .slow → (s.saveAll c.val).stillSaves c.val = false →
      o.removed ≠ [] ∨ o.moved ≠ [] →
      exec (.quiesceDone c) s = .next ((((s.saveAll c.val).compState c.val .reshaping).updComp c.val (fun x =>
        { x with op := x.op.map (fun v => { v with
          drainBy := some (((s.saveAll c.val).compState c.val .reshaping).now + 1000000 * v.drainMs) }) })).claimTargets c.val)) ∧
    (∀ o, x.op = some o → x.st = .impaired → o.kind = .repair → o.quiet = false → s.repairBusy c.val = false →
      (s.saveAll c.val).stillSaves c.val = false →
      exec (.quiesceDone c) s = .next ((s.saveAll c.val).claimRepair c.val)) ∧
    (∀ o, x.op = some o → x.st = .quiescing → s.workOfComp c.val = [] → o.kind = .unbind →
      exec (.quiesceDone c) s = .next (s.enterUnbinding c.val o.req o.force o.more))

/-- A re-bind from APPLY to END, and its rollback. -/
def Obligations.Rebinding : Prop := Clauses.ApplyAndBegin ∧ Clauses.RebindSteps ∧ Clauses.RebindEndAndRollback

/-- R167 to R169, R185, R446: UNBIND without FORCE of a free CID is answered at once, and of an ACTIVE composition without an operation starts to
quiesce it; the end of an UNBINDING composition is the model's unbindEnd; a repair of an IMPAIRED composition reads its store and runs while the
store holds the cultures, and otherwise ends the composition; work held for a lost group leaves at its limit; a composition to restore, none lower
waiting, whose store cannot be read waits for it, and one without weight sets whose store holds the cultures is placed again. -/
def Clauses.UnbindRepairAndRestore : Prop :=
  (∀ (s : State) (r : Request), (s.comp r.cid).st = .free → bit r.p0 0 = false → exec (.unbind r) s = .next (s.answer r 0 [])) ∧
  (∀ (s : State) (r : Request), (s.comp r.cid).st = .active → (s.comp r.cid).op = none → bit r.p0 0 = false →
    exec (.unbind r) s = .next ((s.updComp r.cid (fun x => { x with op := some { kind := .unbind, req := r } })).compState r.cid
      .quiescing)) ∧
  (∀ (s : State) (c : CidT), s.canCommit = true → (s.comp c.val).st = .unbinding → exec (.unbindEnd c) s = .next (s.unbindEnd c.val)) ∧
  (∀ (s : State) (c : CidT), s.canCommit = true → (s.comp c.val).st = .impaired → (s.comp c.val).op = none → s.storeGood c.val = true →
    exec (.repair c) s = .next (State.repair (s.readStore c.val) c.val)) ∧
  (∀ (s : State) (c : CidT), s.canCommit = true → (s.comp c.val).st = .impaired → (s.comp c.val).op = none → s.storeGood c.val = false →
    exec (.repair c) s = .next ((s.readStore c.val).enterUnbinding c.val Request.zero false [])) ∧
  (∀ (s : State) (n : Nat) (w : Work), s.work n = some w → (s.comp w.cid).st = .impaired →
    w.stages.any (fun g => (s.comp w.cid).lostGroups.contains g && decide (w.on g = .ready)) = true →
    exec (.repairHoldExpiry n) s = .next (s.finishWork n (s.comp w.cid).lossCode)) ∧
  (∀ (s : State) (c : CidT), (s.comp c.val).st = .binding → (s.comp c.val).op = none → (s.comp c.val).restoring = true →
    s.boot.cold = false ∨ s.boot.phase = .ready → s.restoreFirst c.val = false →
    (s.storeReady c.val = false → s.boot.storeWait.contains c.val = false → exec (.compositionRestore c) s = .next
      { s with boot := { s.boot with storeWait := s.boot.storeWait ++ [c.val] } }) ∧
    (let t : State := { s with boot := { s.boot with storeWait := s.boot.storeWait.erase c.val } }
     s.storeReady c.val = true → t.storeGood c.val = true → (s.comp c.val).weights = [] →
      exec (.compositionRestore c) s = .next ((t.readStore c.val).restoreComp c.val)))

/-- R158, R165, R167: the end of an unbind frees the CID, which becomes the most recently freed, keeps only its generation, and releases every
partition of the composition. -/
def Clauses.UnbindEndFreesTheCid : Prop :=
  ∀ (s : State) (c : CidT), s.canon = true → s.canCommit = true → (s.comp c.val).st = .unbinding → s.ctxsOf c.val = [] → s.fnsOf c.val = [] →
    ∃ t, exec (.unbindEnd c) s = .next t ∧ t.comp c.val = { gen := (s.comp c.val).gen } ∧ t.freeCids = s.freeCids ++ [c.val]

/-- Unbinding, repair and restoration of a composition. -/
def Obligations.UnbindRepairAndRestore : Prop := Clauses.UnbindRepairAndRestore ∧ Clauses.UnbindEndFreesTheCid

/-- R180, R181, R183, R239: TOKEN_NEW makes a token at epoch 0, OWNED by the context, and answers its number once its record is durable; TOKEN_MOVE
makes it SENDING with the record durable while the journal can commit; the copy's landing makes it OWNED at the next epoch on the receiving pool and
owes the sender its release, loses the token where the sender's pool is of another generation, and fails the handoff where the receiver's is; the
acknowledgement settles the oldest record owed; TOKEN_RELEASE releases a token that is OWNED or LOST and answers once that is durable; a request for
another client's context answers 0x0103. -/
def Clauses.StateTokens : Prop :=
  (∀ (s : State) (r : Request) (pool : Word64),
    let c := (s.ctx r.xid).cid
    let k : Token := { st := .owned, cid := c, xid := r.xid, epoch := 0, pool := pool, off := r.p1.toNat, len := r.p2.toNat }
    s.ownsCtx r = true → r.p2.toNat % 64 = 0 → (s.tokens.filter (fun e => e.2.held && e.2.cid == c)).length < 65536 →
    (s.tokens.filter (fun e => e.2.held)).length < 262144 → s.poolNamed c r.p0 = some pool →
    exec (.tokenNew r) s = .next (((({ s with nextToken := s.nextToken + 1 } : State).updTok s.nextToken (fun _ => k)).journal
      (.token (BitVec.ofNat 64 s.nextToken) k)).answerDurable r [s.nextToken])) ∧
  (∀ (s : State) (r : Request) (pool : Word64),
    let k := s.token r.p0.toNat
    s.canon = true → s.ownsCtx r = true → k.st = .owned → k.xid = r.xid → k.epoch < 0xFFFFFFFF → s.poolNamed k.cid r.p1 = some pool →
    ∃ t, exec (.tokenMove r) s = .next t ∧ t.token r.p0.toNat = { k with st := .sending, peer := pool, req := r } ∧
      ((s.canCommit = true → t.jrn.log.getLast? = some { r := .token (BitVec.ofNat 64 r.p0.toNat) { k with st := .sending, peer := pool, req := Request.zero, owed := [] } }))) ∧
  (∀ (s : State) (token : Word64),
    let t := token.toNat
    let k := s.token t
    s.canCommit = true →
    (k.st = .sending → s.poolGen k.pool = true → s.poolFresh k.peer = true → k.epoch < 0xFFFFFFFF → exec (.handoffCopyDone token) s = .next
      ((s.copyPool k.cid k.pool k.peer k.off k.len).setToken t (fun k =>
        { k with st := .owned, epoch := k.epoch + 1, pool := k.peer, peer := 0, req := Request.zero,
                 owed := k.owed ++ [{ epoch := k.epoch, pool := k.pool, req := k.req }] }))) ∧
    (k.st = .sending → s.poolGen k.pool = false → exec (.handoffCopyDone token) s = .next (s.loseToken t)) ∧
    (k.st = .sending → s.poolGen k.pool = true → s.poolFresh k.peer = false → exec (.handoffCopyDone token) s = .next (s.failHandoff t)) ∧
    (∀ o l, k.owed = o :: l → exec (.handoffAck token) s = .next (s.ackHandoff t o))) ∧
  (∀ (s : State) (r : Request), s.ownsCtx r = true → (s.token r.p0.toNat).xid = r.xid →
    (s.token r.p0.toNat).st = .owned ∨ (s.token r.p0.toNat).st = .lost →
    exec (.tokenRelease r) s = .next ((s.releaseToken r.p0.toNat).answerDurable r [0])) ∧
  (∀ (s : State) (r : Request), s.ownsCtx r = false → exec (.tokenNew r) s = .next (s.answer r 0x0103 [0]) ∧
    exec (.tokenMove r) s = .next (s.answer r 0x0103 [0]) ∧ exec (.tokenRelease r) s = .next (s.answer r 0x0103 [0]))

/-- R182, Table 7.9: of two records of a token the one with the higher epoch decides. V's OWNED after S's SENDING makes V the owner and leaves S to
be written RELEASED; S's RELEASED after it changes no owner and settles that; two records of one epoch and different pools lose the token. -/
def Clauses.TokenRecordsMeet : Prop :=
  ∀ y k : Token, y.st ≠ .none →
    (y.st = .sending → k.st = .owned → k.epoch = y.epoch + 1 →
      y.meets k = { k with owed := y.owed ++ [{ epoch := y.epoch, pool := y.pool, req := Request.zero }] }) ∧
    (k.epoch < y.epoch → (y.meets k).st = y.st ∧ (y.meets k).pool = y.pool ∧ (y.meets k).epoch = y.epoch ∧
      ∀ o ∈ (y.meets k).owed, o.epoch ≠ k.epoch ∨ o.pool ≠ k.pool) ∧
    (k.epoch = y.epoch → k.pool ≠ y.pool → (y.meets k).st = .lost)

/-- State tokens are made, moved, handed off and released. -/
def Obligations.StateTokens : Prop := Clauses.StateTokens ∧ Clauses.TokenRecordsMeet

/-! ## Memory tiers -/

/-- R192 to R194, R203 to R206: a sender with bit 30 of its control word is of the class SAVE, and a request that no class takes does nothing. On
a READY channel, below its usable size, with room in the transaction table, in the clear or under a key that its key cache holds, and in budget,
a read the code finds clean of a sector that is no poison marker and in no poisoned weight set returns what the sector holds under the key; one
of a poison marker returns zeros as poison; a write stores the sector and is acknowledged; a partial write of such a sector merges under its mask
and is acknowledged. A read whose key is not held waits in the table, and a write that finds the table full is held before it. -/
def Clauses.MemoryAccesses : Prop :=
  ∀ (s : State) (p : PartId) (ch : Fin 8) (off : Nat) (ks : BitVec 13) (m : Sender) (d mk : BitVec 512), s.canon = true →
    let k := 8 * p.val + ch.val
    let c := s.chan k
    let i := off / 64
    let key := s.keyOf ks.toNat (s.tweakOf k i)
    let old := Map.get {} c.secs i
    let held := !ks.toNat.testBit 12 || (Map.get [] s.sec.caches (k / 4)).contains (ks.toNat % 4096)
    (m.bit30 = true → masterOf m = some .save) ∧
    (masterOf m = none → ∀ e, exec (.memRead p ch off ks m e) s = .next s ∧ exec (.memWrite p ch off ks m d e) s = .next s ∧
      exec (.memPartialWrite p ch off ks m d mk e) s = .next s) ∧
    (∀ cls, masterOf m = some cls → off < chanBytes → c.st = .ready →
      let req (op : Nat) (d m : BitVec 512) (e : ReadErr) : MemReq :=
        { ch := k, off := off, keysel := ks.toNat, cls := mclass cls, op := op, data := d, mask := m, err := e }
      let read : State := s.updChan k (fun c => { c with rdBytes := bump c.rdBytes (mclass cls) 64 })
      (s.tableCount (k / 4) < 256 → held = true → c.inBudget (mclass cls) (c.outOf (mclass cls) + 1) = true →
        (old.isPoison = false → s.inPoisonedSet k (64 * i) = false →
          exec (.memRead p ch off ks m .clean) s = .next (read.emit (.data (old.view key) false))) ∧
        (old.isPoison = true → exec (.memRead p ch off ks m .clean) s = .next (read.emit (.data 0 true))) ∧
        (exec (.memWrite p ch off ks m d .clean) s = .next ((s.updChan k (fun c =>
          { c with secs := Map.set {} i (Sector.make key d) c.secs, wrBytes := bump c.wrBytes (mclass cls) 64 })).emit (.ack 0))) ∧
        (old.isPoison = false → s.inPoisonedSet k (64 * i) = false →
          exec (.memPartialWrite p ch off ks m d mk .clean) s = .next ((s.updChan k (fun c =>
            { c with secs := Map.set {} i (Sector.make key ((old.view key &&& ~~~mk) ||| (d &&& mk))) c.secs,
                     rdBytes := bump c.rdBytes (mclass cls) 64, wrBytes := bump c.wrBytes (mclass cls) 64 })).emit (.ack 0)))) ∧
      (s.tableCount (k / 4) < 256 → held = false → ∀ e, exec (.memRead p ch off ks m e) s = .next (s.updChan k (fun c =>
        { c with waiting := c.waiting ++ [req 0 0 0 e] }))) ∧
      (256 ≤ s.tableCount (k / 4) → ∀ e, exec (.memWrite p ch off ks m d e) s = .next (s.holdReq (req 1 d 0 e))))

/-- R206, R207: what is written under a key and tweak reads back under them, what is written in the clear reads back in the clear, and no written
sector is a poison marker. -/
def Clauses.SectorsReadBack : Prop :=
  ∀ (d : BitVec 512), (∀ k t, (Sector.make (some (k, t)) d).view (some (k, t)) = d) ∧ (Sector.make none d).view none = d ∧
    ∀ key, (Sector.make key d).isPoison = false

/-- Reads and writes of a channel, and what a sector gives back. -/
def Obligations.MemoryAccesses : Prop := Clauses.MemoryAccesses ∧ Clauses.SectorsReadBack

/-- R190, R195, R204, R213: a clean patrol read of a READY channel moves the patrol on; the oldest waiting request that has not aged is aged;
MEMC_BUDGET of a partition not in reset takes each field from 1 to 64 and keeps the others; a key fill of a keyslot in use makes it the most
recently used of the cache, and in the cache of a memory stack what waited for it on the stack's four channels is served. -/
def Clauses.ChannelUpkeep : Prop :=
  ∀ (s : State) (p : PartId) (ch : Fin 8), s.canon = true →
    let k := 8 * p.val + ch.val
    ((s.chan k).st = .ready → exec (.patrolRead p ch .clean) s = .next
      (s.updChan k (fun c => { c with patrol := (c.patrol + 1) % 2 ^ 24 }))) ∧
    (exec (.requestAgePromote p ch) s = .next (s.updChan k (fun c =>
      { c with waiting := updFirst (fun r => !r.aged) (fun r => { r with aged := true }) c.waiting }))) ∧
    (∀ v : Word64, s.partInReset p.val = false → exec (.memcBudgetWrite p ch v) s = .next (s.updChan k (fun c =>
      { c with budget := c.budget.zipIdx.map (fun (e : Nat × Nat) =>
          if bits v (8 * e.2 + 7) (8 * e.2) = 0 ∨ 64 < bits v (8 * e.2 + 7) (8 * e.2) then e.1 else bits v (8 * e.2 + 7) (8 * e.2)) }))) ∧
    (∀ (cache : Fin 132) (slot : Fin 4096), (s.kslot slot.val).hold ≠ .free →
      (128 ≤ cache.val → exec (.keyCacheFill cache slot) s = .next (s.cacheKey cache.val (4096 + slot.val))) ∧
      (cache.val < 128 → exec (.keyCacheFill cache slot) s = .next
        ((s.cacheKey cache.val (4096 + slot.val)).each (List.range 4) (fun s j => s.serveWaiting (4 * cache.val + j) slot.val))))

/-- R196, R197, R200: a repair reset takes a FREE partition with queued rows OFFLINE, repairs the rows of each channel or fails the channel whose
rows outnumber its repair resources and whose rows are found unrepaired, and brings the partition back; a reload of a poisoned set of a
composition that is not IMPAIRED writes the whole golden copy, and clears the set when the copy hashes to its digest; an attempt that fails is
counted, and the third, where the store cannot be read, is reported to the operator; grade G4 fences the partition of the package, other grades
are noted; a partition held for its heat whose packages have been cool long enough is brought back. -/
def Clauses.RepairReloadAndTemperature : Prop :=
  (∀ (s : State) (p : PartId) (f : RepairFinds) (retest : Bool), (s.part p.val).st = .free → s.rowsQueued p.val ≠ [] →
    exec (.repairReset p f retest) s = .next
      (((s.takeOffline p.val 0x0201 0 false).each (s.rowsQueued p.val) (fun s ch =>
        if (s.chan ch).rows.length ≤ Config.pprLeft ch (s.chan ch).pprUsed ∨ bit f.unrepaired (ch % 8) = false then
          (s.updChan ch (fun c => { c with rows := [], pprUsed := c.pprUsed + c.rows.length })).journal (.repair ch [])
        else s.updChan ch (fun c => { c with st := .failed }))).bringBack p.val f.bad retest)) ∧
  (∀ (s : State) (c : CidT) (w : Nat),
    let x := Map.get {} (s.comp c.val).weights w
    x.poisoned = true → (s.comp c.val).st ≠ .impaired →
    (∀ bs k, s.golden c.val x = some bs → s.sharedSlot c.val = some k →
      let v := (s.readGolden c.val x).writeSet c.val w k bs
      let good := (v.updComp c.val (fun k =>
        { k with weights := Map.upd {} w (fun v => { v with poisoned := false, fails := 0 }) k.weights })).eventAll c.val 0 w
      (Config.sha384 bs = x.digest →
        (x.fails < 3 → exec (.weightReloadDone c w) s = .next good) ∧ (3 ≤ x.fails → exec (.weightReloadRetry c w) s = .next good)) ∧
      (Config.sha384 bs ≠ x.digest → x.fails < 2 → exec (.weightReloadDone c w) s = .next (v.updComp c.val (fun k =>
        { k with weights := Map.upd {} w (fun v => { v with fails := min 3 (v.fails + 1) }) k.weights })))) ∧
    (s.golden c.val x = none →
      let t := s.updComp c.val (fun k => { k with weights := Map.upd {} w (fun v => { v with fails := min 3 (v.fails + 1) }) k.weights })
      (x.fails < 2 → exec (.weightReloadDone c w) s = .next t) ∧
      (x.fails = 2 → exec (.weightReloadDone c w) s = .next ((t.emit (.operator 0x0619 w)).eventAll c.val 0x0619 w)))) ∧
  (∀ (s : State) (pkg : Fin 128) (g : Fin 5),
    let seen := Map.get 0 s.cool pkg.val
    let t : State := { s with
      grades := Map.set 0 pkg.val g.val s.grades,
      cool := Map.set 0 pkg.val (if g.val ≤ 1 then (if seen = 0 then s.now + 1 else seen) else 0) s.cool }
    (g.val < 4 → exec (.mr4Poll pkg g) s = .next t) ∧ (g.val = 4 → exec (.mr4Poll pkg g) s = .next (t.fenceHot (pkg.val / 2)))) ∧
  (∀ (s : State) (p : PartId) (bad : BitVec 8), (s.part p.val).holds.contains .thermal = true → s.coolEnough p.val = true →
    exec (.thermalRejoin p bad) s = .next ((s.updPart p.val (fun x => x.dropHold .thermal)).bringBack p.val bad false))

/-- R209, R211, R212, R434: a DOWN far port with an expander present, in a powered domain, starts TRAINING when it is enabled; one that is not
READY keeps only the cleared enable of a disable, and a READY one that a range targets waits with it; a trained link the port accepts takes it to
CONFIG, a successful configuration with IDE to READY, and a failed training, a configuration without IDE where it is required, a timeout or a
fall DOWN; events are passed to the operator. Leaving READY advances the port's generation and counts, completes what is outstanding on the port,
and loses the tokens on it. -/
def Clauses.FarPorts : Prop :=
  ∀ (s : State) (d : FarId), s.canon = true →
    let f := s.farP d.val
    let down : State := (s.emit (.pin 2 d.val false)).updFar d.val Far.toDown
    (f.st = .down → f.present = true → s.domOn (domFar d.val) = true → exec (.farEnable d) s = .next (((s.updFar d.val (fun f =>
      { f with enable := true, disPend := false, st := .training, refOut := true })).emit (.pin 3 d.val true)).emit (.pin 2 d.val true))) ∧
    (f.st ≠ .ready → exec (.farDisable d) s = .next (s.updFar d.val (fun f => { f with enable := false }))) ∧
    (f.st = .ready → s.farTargeted d.val = true →
      exec (.farDisable d) s = .next (s.updFar d.val (fun f => { f with enable := false, disPend := true }))) ∧
    (∀ w r, f.st = .training → farLinkOk w r = true → exec (.farLinkUp d w r true) s = .next (s.updFar d.val (fun f =>
      { f with st := .config, width := w, rate := r }))) ∧
    (∀ w r, f.st = .training → exec (.farLinkUp d w r false) s = .next down) ∧
    (∀ cap l, f.st = .config → f.enable = true → exec (.farConfigDone d true true cap l) s = .next (s.updFar d.val (fun f =>
      { f with st := .ready, ide := true, capGib := min 2048 cap, poison := l }))) ∧
    (∀ cap l, f.st = .config → f.ideReq = true → exec (.farConfigDone d true false cap l) s = .next down) ∧
    (f.st = .config → exec (.farConfigTimeout d) s = .next down) ∧
    (f.st = .training ∨ f.st = .config → exec (.farPortDown d) s = .next down) ∧
    (f.st = .ready → exec (.farPortDown d) s = .next (((((s.emit (.pin 2 d.val false)).updFar d.val (fun f =>
      { f.toDown with gen := f.gen + 1, linkDown := min 0xFFFF (f.linkDown + 1) })).journal (.gen .far d.val (f.gen + 1))).farCut d.val).loseTokens
        (fun t => poolOfFar t d.val))) ∧
    (∀ l, f.st = .ready → exec (.farEventPoll d l) s = .next (s.each l (fun s e => s.emit (.farEvent d.val e))))

/-- Upkeep of channels, repair, reload, temperature, and far ports. -/
def Obligations.ChannelsAndFarPorts : Prop := Clauses.ChannelUpkeep ∧ Clauses.RepairReloadAndTemperature ∧ Clauses.FarPorts

/-! ## Address ranges and faults -/

/-- R218, R229, R302: MAP of an entry that passes every condition into an INVALID slot makes it VALID, and a breach answers its code and counts a
refused clear range; UNMAP of a VALID slot of a context resident nowhere invalidates it at the next epoch at once, and of a resident one makes it
WITHDRAWING with every unit that runs the context to be told; QUERY answers the slot. A request for another client's context answers 0x0103. -/
def Obligations.RangeRequests : Prop :=
  ∀ (s : State) (r : Request), s.canon = true →
    let i := r.p0.toNat
    let k := s.slot r.xid i
    (s.ownsCtx r = false → exec (.map r) s = .next (s.answer r 0x0103 [0]) ∧ exec (.unmap r) s = .next (s.answer r 0x0103 [0]) ∧
      exec (.rangeQuery r) s = .next (s.answer r 0x0103 [0])) ∧
    (s.ownsCtx r = true → i < 4096 →
      (k.st = .invalid → s.entryCheck r.xid r.entry = 0 → exec (.map r) s = .next
        ((s.updSlot r.xid i (fun k => { k with st := .valid, entry := r.entry })).answer r 0 [0])) ∧
      (k.st = .invalid → s.entryCheck r.xid r.entry ≠ 0 → exec (.map r) s = .next
        ((s.countClear (s.entryCheck r.xid r.entry)).answer r (s.entryCheck r.xid r.entry) [0])) ∧
      (k.st = .valid → s.ctxUnits r.xid = [] → exec (.unmap r) s = .next
        (((s.updSlot r.xid i (fun k => { st := .invalid, epoch := (k.epoch + 1) % 65536, entry := 0 })).answer r 0 [0]).farSettle)) ∧
      (k.st = .valid → s.ctxUnits r.xid ≠ [] →
        let t := s.updSlot r.xid i (fun k => { k with st := .withdrawing, epoch := (k.epoch + 1) % 65536 })
        exec (.unmap r) s = .next { t with xlt := { t.xlt with wds := t.xlt.wds ++
          [{ xid := r.xid, idx := i, toSend := s.ctxUnits r.xid, waitFor := [], req := r }] } }) ∧
      (exec (.rangeQuery r) s = .next (s.answer r 0 ([0, k.st.num + k.epoch <<< 16] ++ chunk 64 4 k.entry.toNat))))

/-- R222, R223, R226, R228, R230: a held access is sent to the XLT core that serves its die, or to the next one where that core does not run, and
to none while XLT is halted; the reply to an engine's miss fills the cache with the entry, first in its order, and the engine's transfer goes on,
or the access faults with 0x0302; an invalidation drops the cached entry and notes the unit as told; the acknowledgement follows once no transfer
is outstanding under it; at the timeout an engine step starts for each unit of the withdrawal. -/
def Obligations.MissesAndWithdrawals : Prop :=
  ∀ (s : State) (u : UnitId), s.canon = true →
    let home := xltOf (dieOf (ukind u.val).part)
    (s.roleHalted 2 = false → (s.coreS (3 + home)).st = .running → exec (.rangeMiss u) s = .next (s.updUnit u.val (fun k =>
      { k with miss := k.miss.map (fun m => { m with core := some home }) }))) ∧
    (s.roleHalted 2 = false → (s.coreS (3 + home)).st ≠ .running → (s.coreS (3 + (home + 1) % 4)).st = .running →
      exec (.rangeMiss u) s = .next (s.updUnit u.val (fun k => { k with miss := k.miss.map (fun m => { m with core := some ((home + 1) % 4) }) }))) ∧
    (s.roleHalted 2 = true → exec (.rangeMiss u) s = .next s) ∧
    (∀ (m : Miss) (p : PartId) (e : EngId), u.val = uEng p.val e.val → (s.unit u.val).miss = some m → m.core ≠ none →
      s.xltFor u.val ≠ none → m.acc ≠ 3 →
      let t := ({ s with xlt := { s.xlt with misses := s.xlt.misses + 1 } } : State).updUnit u.val (fun k => { k with miss := none })
      (s.slotAt m.xid m.va = none → exec (.missReply u) s = .next (t.xlFault u.val 0x0302 0xFFFF 0 m.va m.len m.acc)) ∧
      (∀ r, s.slotAt m.xid m.va = some r → eHas r.2.entry (m.va + m.len - 1) = true →
        exec (.missReply u) s = .next ((t.fillCache u.val r.1 r.2).xferGo u.val))) ∧
    (∀ (x : XidT) (i : Fin 4096),
      let hit (w : Withdraw) : Bool := w.xid == x.val && w.idx == i.val && w.toSend.contains u.val
      s.xlt.wds.any hit = true → exec (.invalidationReceive u x i) s = .next
        (({ s with xlt := { s.xlt with wds := s.xlt.wds.map (fun w =>
          if hit w then { w with toSend := w.toSend.erase u.val, waitFor := w.waitFor ++ [u.val] } else w) } } : State).updUnit u.val
            (fun k => { k with cache := dropEntry i.val k.cache }))) ∧
    (∀ (x : XidT) (i : Fin 4096),
      s.xlt.wds.any (fun w => w.xid == x.val && w.idx == i.val && w.waitFor.contains u.val) = true →
      (s.unit u.val).cache.any (fun c => c.idx == i.val && decide (0 < c.out)) = false →
      exec (.withdrawAck u x i) s = .next (((s.updUnit u.val (fun k =>
        { k with cache := k.cache.filter (fun c => decide (c.idx ≠ i.val)) })).ackWithdraw x.val i.val u.val).farSettle)) ∧
    (∀ (x : XidT) (i : Fin 4096) (w : Withdraw), s.xlt.wds.find? (fun w => w.xid == x.val && w.idx == i.val) = some w →
      exec (.withdrawTimeout x i) s = .next (s.each (w.toSend ++ w.waitFor) (fun s u => s.startStep .engine u 5)))

/-- R231 to R235, R237: while the port is up, the queue has a base and has not overflowed, and no lease lapses or context is torn down, the
oldest detected fault becomes a record in its composition's queue if a slot is free, a fatal one starting the context step, and a full queue
takes an OVERFLOW record while the fault is lost; a write of HEAD that does not raise the occupancy takes, and clears OVF
when it reaches TAIL; XLT_FQ_BASE takes a write while the queue is empty. -/
def Obligations.FaultQueues : Prop :=
  ∀ (s : State), s.canon = true →
    (∀ (f : Fault0) (rest : List Fault0), s.xlt.faults = f :: rest →
      let t : State := { s with xlt := { s.xlt with faults := rest } }
      let q := s.fq f.cid
      let lost := (Map.get 0 s.xlt.lostX f.xid).toNat
      let gen := (s.comp f.cid).gen
      let put (u : State) (r : BitVec 512) : State := (u.updHmem (s.comp f.cid).fqPort (fun m =>
        m.wrL (q.base * 65536 + 64 * (q.tail % 1024)) (lineBytes r))).hostTx (s.comp f.cid).fqPort 64
      s.hostUp (s.comp f.cid).fqPort = true → q.base ≠ 0 → q.ovf = false → (s.fn (s.ctx f.xid).client).lease ≠ .lapsed →
      (s.fn (s.ctx f.xid).client).lease ≠ .quiesced → (s.ctx f.xid).st ≠ .teardown →
      (q.occ < 1023 → f.fatal = false → exec .faultRecordWrite s = .next
        ((put t (faultRec f f.kind gen q.seq.toNat lost (q.tail.testBit 10))).updFq f.cid (fun q =>
          { q with tail := (q.tail + 1) % 2048, seq := q.seq + 1 }))) ∧
      (q.occ < 1023 → f.fatal = true → exec .faultRecordWrite s = .next
        ((((put t (faultRec f f.kind gen q.seq.toNat lost (q.tail.testBit 10))).updFq f.cid (fun q =>
          { q with tail := (q.tail + 1) % 2048, seq := q.seq + 1 })).ctxStepStart f.xid f.status).startStep .context f.xid 11)) ∧
      (1023 ≤ q.occ → exec .faultRecordWrite s = .next
        (((put t (faultRec f 5 gen q.seq.toNat (lost + 1) (q.tail.testBit 10))).updFq f.cid (fun v =>
          { v with tail := (v.tail + 1) % 2048, ovf := true, ovfAt := v.tail })).faultLost f))) ∧
    (∀ (c : CidT) (v : Word32),
      let q := s.fq c.val
      let h := bits v 10 0
      ((q.tail + 2048 - h) % 2048 ≤ q.occ → exec (.fqHeadWrite c v) s = .next (s.updFq c.val (fun q =>
        { q with head := h, ovf := q.ovf && decide (h ≠ q.tail) }))) ∧
      (q.occ < (q.tail + 2048 - h) % 2048 → ∃ t, exec (.fqHeadWrite c v) s = .next t ∧ t.fq c.val = q)) ∧
    (∀ (c : CidT) (v : Word64), (s.fq c.val).occ = 0 →
      exec (.fqBaseWrite c v) s = .next (s.updFq c.val (fun q => { q with base := bits v 63 16 })))

/-! ## Contexts and scheduling -/

/-- R238, R239, R219, R447: CTX_CREATE in a serving composition that is not closed to its class nor full, with debug not active, takes the XID
that `freeXid` names (a never used one, else the one freed first) and a keyslot, makes the context IDLE (PARKED where skim is parked), copies the
range template and the entries of the shared weights, journals it and answers the XID; a refused template entry is answered with its code; a
closed class is CLASS_CLOSED and a full composition CTX_LIMIT. CTX_DESTROY of the client's own context with work outstanding is CTX_BUSY, and
without starts the teardown. A teardown whose units run no non-pre-emptible command, no engine step and no outside transfer ends: the context is
free, the XID joins the end of the freed list, its range slots are empty and its tokens released. -/
def Obligations.ContextsComeAndGo : Prop :=
  (∀ (s : State) (r : Request),
    let x := s.comp r.cid
    let skim := bit r.p0 0
    x.st = .active ∨ x.st = .rebinding →
    (x.classOpen skim = false → exec (.ctxCreate r) s = .next (s.answer r 0x010E [0])) ∧
    (x.classOpen skim = true → x.maxCtx ≤ (s.ctxsOf r.cid).length → exec (.ctxCreate r) s = .next (s.answer r 0x010C [0])) ∧
    (∀ xid slot, x.classOpen skim = true → (s.ctxsOf r.cid).length < x.maxCtx → s.sec.debugActive = false → s.freeXid = some xid →
      s.freeSlot = some slot →
      let t := ((s.takeXid).grantSlot slot (.ctx xid)).updCtx xid (fun _ =>
        { st := if s.sch.park && skim then .parked else .idle, cid := r.cid, client := r.client, skim := skim, slot := slot })
      let m := t.copyTemplate xid slot (templateOf x.frames).zipIdx
      (m.1 = 0 → exec (.ctxCreate r) s = .next (((m.2.shareWeights xid).journalCtx xid).answer r 0 [xid])) ∧
      (m.1 ≠ 0 → exec (.ctxCreate r) s = .next ((s.countClear m.1).answer r m.1 [0])))) ∧
  (∀ (s : State) (r : Request), s.ownsCtx r = true → (s.ctx r.xid).st ≠ .teardown →
    (s.workOfCtx r.xid ≠ [] → exec (.ctxDestroy r) s = .next (s.answer r 0x010D [0])) ∧
    (s.workOfCtx r.xid = [] → exec (.ctxDestroy r) s = .next (s.startTeardown r.xid 0 r)) ∧
    ((s.ctx r.xid).st ≠ .free → s.startTeardown r.xid 0 r = (s.discardIf (fun w => w.xid == r.xid) 0).updCtx r.xid (fun c =>
      { c with st := .teardown, code := 0, req := r }))) ∧
  (∀ (s : State) (x : XidT), s.canon = true → s.canCommit = true → (s.ctx x.val).st = .teardown →
    (s.ctxUnits x.val).all (fun u => !s.npRunning u && (s.stepOn .engine u).isNone && (s.unit u).ext.isNone) = true → ∃ t, exec (.teardown x) s = .next t ∧
    t.ctx x.val = {} ∧ t.freedXids = s.freedXids ++ [x.val] ∧ (∀ i, i < 4096 → t.slot x.val i = {}) ∧ t.tokensOf x.val = [])

/-- R171, R299, R301 to R303: with a notice at a ring's head, the function's rings readable and SCH at work, SCH looks at the descriptor: an
empty slot loses its notice; with the descriptor's second line granted to the host, the line is recalled first; a WORK descriptor whose batch may
be read and for which two completion slots are free reserves them, is consumed and taken; any other kind with one free slot and fewer than 1024
requests open reserves one, is consumed and handled as a control descriptor. -/
def Obligations.DescriptorsAreRead : Prop :=
  ∀ (s : State) (h : HPort) (f : Func) (ring : Fin 256),
    let k := clientOf h.val f.val
    let g := s.ring k ring.val
    let o := sqOffset ring.val g.sqLog2 g.sqHead
    let d := (s.fn k).region.rdN o 128
    s.readsRings k = true → g.on = true → (s.fn k).notices.contains (o / 64) = true → s.schAway (fle d 0 1) (fle d 1 1) = false →
    (fle d 0 1 = 0 → exec (.descriptorRead h f ring) s = .next (s.updFn k (fun x =>
      { x with notices := x.notices.filter (fun l => l != o / 64) }))) ∧
    (fle d 0 1 ≠ 0 → (s.fn k).granted.contains (o / 64 + 1) = true →
      exec (.descriptorRead h f ring) s = .next (s.emit (.bisnp (k / 256) (k % 256) (o / 64 + 1)))) ∧
    (fle d 0 1 = 1 → (s.fn k).granted.contains (o / 64 + 1) = false → 2 ≤ g.free → (s.comp (s.fn k).cid).readable (fle d 4 2) = true →
      exec (.descriptorRead h f ring) s = .next (((s.updRing k ring.val (fun g => { g with reserved := g.reserved + 2 })).consumeSlot k
        ring.val).takeWork k ring.val d (g.sqHead % 2 ^ g.sqLog2))) ∧
    (1 < fle d 0 1 → (s.fn k).granted.contains (o / 64 + 1) = false → 1 ≤ g.free → (s.fn k).ctlOut < 1024 →
      exec (.descriptorRead h f ring) s = .next (((s.updRing k ring.val (fun g => { g with reserved := g.reserved + 1 })).consumeSlot k
        ring.val).takeControl k ring.val d))

/-- R250, R251, R254: the work SCH picks on a quiet stage without work and without a retired unit starts where its context is resident, and a
switch begins where another is, or none; work that has ended on every stage it names is finished with OK; a missed deadline counts, finishes the
work as a hang, starts the context step of each context resident on its stages, and in a multi-module composition sends ABANDON. -/
def Clauses.WorkStartsAndEnds : Prop :=
  (∀ (s : State) (n : Nat) (g : Fin 64) (w v : Work), s.work n = some w →
    let t := s.settleStage w.cid g.val
    (t.stage w.cid g.val).work = none → (t.stage w.cid g.val).phase = .quiet →
    (t.stageUnits w.cid g.val).any (fun u => (t.unit u).retired) = false → t.pick w.cid g.val = some (n, v) →
    ((t.stage w.cid g.val).resident = some v.xid → exec (.workStart n g) s = .next (t.startWork w.cid g.val n v)) ∧
    ((t.stage w.cid g.val).resident = none → exec (.workStart n g) s = .next (t.startRestore w.cid g.val v.xid)) ∧
    (∀ x, (t.stage w.cid g.val).resident = some x → x ≠ v.xid →
      exec (.workStart n g) s = .next ((t.updStage w.cid g.val (fun y => { y with
        work := none, phase := .saving x (some v.xid),
        npStop := if (t.stageUnits w.cid g.val).any t.npRunning then some t.now else none })).updCtx x
          (fun k => if k.st = .running then { k with st := .switching } else k)))) ∧
  (∀ (s : State) (n : Nat) (w v : Work), s.work n = some w →
    let t := s.each w.stages (fun s g => if (s.stage w.cid g).work = some n then s.settleStage w.cid g else s)
    t.work n = some v →
    (v.stages.all (fun g => decide (v.on g = .done)) = true → exec (.workComplete n) s = .next (t.finishWork n 0)) ∧
    (v.stages.all (fun g => decide (v.on g = .done)) = false → exec (.workComplete n) s = .next t)) ∧
  (∀ (s : State) (n : Nat) (w : Work), s.work n = some w →
    let t := ((({ s with sch := { s.sch with miss := Map.upd 0 w.cid (fun v => v + 1) s.sch.miss } } : State).finishWork n 0x0201).each
      ((w.stages.filterMap (fun g => (s.stage w.cid g).resident)).eraseDups) (fun s x => s.startStep .context x 1))
    ((t.comp w.cid).multi = false → exec (.deadlineFire n) s = .next t) ∧
    ((t.comp w.cid).multi = true → exec (.deadlineFire n) s = .next (t.sendAbandon w.cid)))

/-- R241, R244 to R249: a save is done when the units of the stage have stopped: the stage is then free, and the next context's restore starts if
it may still be restored; a restored context resumes the work it had under way, and one that may no longer be restored is evicted; a slice that
ends over skim work gives the stage to ready cream with budget, else to the skim work picked (the running context's own only where it is urgent),
else starts anew, or stops while skim is parked; ready cream with budget stops running skim and takes over a skim context's save or restore; an
empty budget yields to ready skim, and a refill to a tenth of the cap ends that. -/
def Clauses.StagesSwitch : Prop :=
  ∀ (s : State) (c : CidT) (g : Fin 64),
    let y := s.stage c.val g.val
    let t := s.settleStage c.val g.val
    let q := t.stage c.val g.val
    (∀ x next, y.phase = .saving x next →
      let h := s.stopStage c.val g.val
      let v := ((((h.chargeStop c.val g.val x).evict c.val g.val).settleSaved x).updStage c.val g.val (fun y =>
        { y with sliceLeft := 0, empty := y.empty && !(h.ctx x).skim }))
      let v := if (v.comp c.val).op.any (fun o => o.savedCtx.contains (g.val, x)) then v.stepSaves c.val g.val x 2 else v
      (h.stageHalted c.val g.val = false → exec (.switchSaveDone c g) s = .next h) ∧
      (h.stageHalted c.val g.val = true → next = none → exec (.switchSaveDone c g) s = .next v) ∧
      (∀ x', h.stageHalted c.val g.val = true → next = some x' → v.canRestore x' = true →
        exec (.switchSaveDone c g) s = .next (v.startRestore c.val g.val x'))) ∧
    (∀ x, y.phase = .restoring x → s.canRestore x = false → exec (.switchRestoreDone c g) s = .next (s.evict c.val g.val)) ∧
    (∀ x, y.phase = .restoring x → s.canRestore x = true →
      let r := (s.restoreStage c.val g.val x).dropSaved x ((s.comp c.val).lpsOf g.val)
      let v := if (r.ctx x).skim then r.newSlice c.val g.val x else r
      (v.underWay c.val g.val x = none → exec (.switchRestoreDone c g) s = .next v) ∧
      (∀ e, v.underWay c.val g.val x = some e → exec (.switchRestoreDone c g) s = .next (v.runOn c.val g.val e.1 e.2))) ∧
    (∀ x, q.resident = some x → q.phase = .quiet → t.runsSkim c.val g.val true = true →
      let v := t.updStage c.val g.val (fun v => { v with sliceLeft := 0 })
      let others := v.pickSkim c.val g.val ((v.eligible c.val g.val true).filter (fun e => e.2.xid != x || v.urgent c.val g.val e.2))
      (∀ e, 0 < q.budget → v.pickCream c.val g.val = some e → exec (.sliceEnd c g) s = .next
        ((v.updStage c.val g.val (fun v => { v with empty := false })).stopFor c.val g.val (some e.2.xid))) ∧
      (q.budget = 0 ∨ v.pickCream c.val g.val = none →
        (∀ e, others = some e → e.2.xid ≠ x → exec (.sliceEnd c g) s = .next (v.stopFor c.val g.val (some e.2.xid))) ∧
        (∀ e, others = some e → e.2.xid = x → exec (.sliceEnd c g) s = .next (v.newSlice c.val g.val x)) ∧
        (others = none → s.sch.park = false → exec (.sliceEnd c g) s = .next (v.newSlice c.val g.val x)) ∧
        (others = none → s.sch.park = true → exec (.sliceEnd c g) s = .next (v.stopFor c.val g.val none)))) ∧
    (∀ e, t.pickCream c.val g.val = some e → q.empty = false → 0 < q.budget →
      (q.phase = .quiet → t.runsSkim c.val g.val true = true → exec (.creamPreempt c g) s = .next (t.stopFor c.val g.val (some e.2.xid))) ∧
      (∀ x z, q.phase = .saving x z → (t.ctx x).skim = true → exec (.creamPreempt c g) s = .next (t.updStage c.val g.val (fun v =>
        { v with phase := .saving x (some e.2.xid) }))) ∧
      (∀ x, q.phase = .restoring x → (t.ctx x).skim = true → exec (.creamPreempt c g) s = .next
        (((t.evict c.val g.val).settleSaved x).startRestore c.val g.val e.2.xid))) ∧
    (let v := t.updStage c.val g.val (fun y => { y with budget := 0, empty := true })
     (v.stage c.val g.val).phase = .quiet → v.runsSkim c.val g.val false = true →
      (v.pickSkim c.val g.val (v.eligible c.val g.val true) = none → exec (.creamBudgetEmpty c g) s = .next v) ∧
      (∀ e, v.pickSkim c.val g.val (v.eligible c.val g.val true) = some e →
        exec (.creamBudgetEmpty c g) s = .next (v.stopFor c.val g.val (some e.2.xid)))) ∧
    (y.empty = true → exec (.creamBudgetRefill c g) s = .next ((s.updStage c.val g.val (fun y =>
      { y with budget := max y.budget ((s.comp c.val).budgetCap / 10), empty := false })).creamPreempt c.val g.val)) ∧
    (y.empty = false → exec (.creamBudgetRefill c g) s = .next s)

/-- Work starts and ends, and stages switch contexts. -/
def Obligations.WorkAndStages : Prop := Clauses.WorkStartsAndEnds ∧ Clauses.StagesSwitch

/-! ## Fabric -/

/-- R263, R264, R287, R293, R435, Table 11.1: a port takes each step of its training on its event, goes DOWN with a code when the step's time is
over, is ACTIVE with an accepted peer, on which an owed NODE_UP goes out, and FENCED with any other; a lane or polarity repair is reported and
the identity is sent; its control register starts it, and takes down one that is not in service. -/
def Clauses.FabricPortsTrain : Prop :=
  ∀ (s : State) (f : FabId), s.canon = true →
    let x := s.fport f.val
    let p := f.val
    (∀ v : Word32,
      let w := v &&& 0xFFF800F1
      let t := ((s.updFport p (fun x => { x with ctl := w })).journal (.setting (.fabRole p) (bits w 7 4))).journal
        (.setting (.fabExpect p) (bits w 31 19))
      (x.st = .down → x.cpres = true → s.domOn (domPort p) = true → s.roleHalted 6 = false → bit w 0 = true →
        exec (.fabPortEnable f v) s = .next (t.updFport p (fun x => { x with st := .detect, role := bits w 7 4 }))) ∧
      (x.st ≠ .down → bit w 0 = true → exec (.fabPortEnable f v) s = .next t) ∧
      (x.st ≠ .active → x.st ≠ .retrain → bit w 0 = false → exec (.fabPortEnable f v) s = .next (t.updFport p (fun x =>
        { x with st := .down })))) ∧
    (x.st = .detect → exec (.signalDetect f) s = .next (s.updFport p (fun x => { x with st := .equalize }))) ∧
    (x.st = .equalize → exec (.equalizeDone f) s = .next (s.updFport p (fun x => { x with st := .align }))) ∧
    (x.st = .detect → exec (.detectTimeout f) s = .next ((s.updFport p (fun x => { x with st := .down })).fabCode p 0x0783)) ∧
    (x.st = .equalize → exec (.equalizeTimeout f) s = .next ((s.updFport p (fun x => { x with st := .down })).fabCode p 0x0783)) ∧
    (x.st = .identify → exec (.identifyTimeout f) s = .next ((s.updFport p (fun x => { x with st := .down })).fabCode p 0x0784)) ∧
    (x.st = .down → bit x.ctl 0 = true → x.cpres = true → s.domOn (domPort p) = true → s.roleHalted 6 = false →
      exec (.detectRetry f) s = .next (s.updFport p (fun x => { x with st := .detect, role := bits x.ctl 7 4 }))) ∧
    (x.st = .down → bit x.ctl 0 = true → s.domOn (domPort p) = true → s.roleHalted 6 = false → exec (.cpresNFall f) s = .next (s.updFport p (fun x =>
      { x with cpres := true, st := .detect, role := bits x.ctl 7 4 }))) ∧
    (x.st ≠ .down → exec (.cpresNFall f) s = .next (s.updFport p (fun x => { x with cpres := true }))) ∧
    (∀ (l : BitVec 8) (q : BitVec 4), x.st = .align →
      let t := s.updFport p (fun x => { x with st := .identify, laneMap := l.toNat, polInv := q.toNat })
      let t := if l = 0xE4 then t else t.fabCode p 0x0781
      let t := if q = 0 then t else t.fabCode p 0x0782
      exec (.alignDone f l q) s = .next (t.sendLink p (.identity p
        { system := t.fab.system, node := t.fab.node, mgen := t.fab.mgen, port := p, groups := t.ownGroups }))) ∧
    (∀ q : PeerId, x.st = .identify →
      (q.system = s.fab.system → q.node ≠ s.fab.node → bit x.ctl 19 = false ∨ q.node = bits x.ctl 31 20 →
        let t := s.updFport p (fun x => { x with
          st := .active, peer := some q, seq := 0, ack := 1023, cwLeft := 0, replay := [], replays := [], vcs := [], audAt := s.now })
        (s.fab.upOwed = false → exec (.identify f q) s = .next t) ∧
        (s.fab.upOwed = true → exec (.identify f q) s = .next (t.portSend p (t.notice 2 t.fab.node t.fab.mgen 0 0 0)))) ∧
      (q.system ≠ s.fab.system →
        exec (.identify f q) s = .next ((s.updFport p (fun x => { x with st := .fenced })).fabCode p 0x0787)) ∧
      (q.system = s.fab.system → q.node = s.fab.node →
        exec (.identify f q) s = .next ((s.updFport p (fun x => { x with st := .fenced })).fabCode p 0x0786)) ∧
      (q.system = s.fab.system → q.node ≠ s.fab.node → bit x.ctl 19 = true → q.node ≠ bits x.ctl 31 20 →
        exec (.identify f q) s = .next ((s.updFport p (fun x => { x with st := .fenced })).fabCode p 0x0785)))

/-- R261, R262, R263, R271, R288: the codeword after the last one moves ACK, any other leaves it, and both take what the peer has acknowledged
out of the replay buffer; one that cannot be corrected asks for a replay; a replay request sends the buffer from its SEQ on again, counted, and
at the 16th within 10 µs the port retrains; the same peer under the same MGEN makes it ACTIVE and the buffer goes out again; a link that fails
takes it DOWN with its generation advanced and its pools retired, its lost frames abandoned unless the peer sent NODE_DOWN, detours installed,
and what it had received or not yet sent going on. -/
def Clauses.FabricLinksReplay : Prop :=
  ∀ (s : State) (f : FabId), s.canon = true →
    let x := s.fport f.val
    let p := f.val
    (∀ ack n, x.st = .active → exec (.codewordReceive f ((x.ack + 1) % 1024) ack n true) s = .next (s.updFport p (fun x =>
      { x with errA := (x.errA + n) % 2 ^ 32, ack := (x.ack + 1) % 1024, replay := ackReplay x.replay ack }))) ∧
    (∀ seq ack n, x.st = .active → seq ≠ (x.ack + 1) % 1024 → exec (.codewordReceive f seq ack n true) s = .next (s.updFport p (fun x =>
      { x with errA := (x.errA + n) % 2 ^ 32, replay := ackReplay x.replay ack }))) ∧
    (∀ seq ack n, x.st = .active → exec (.codewordReceive f seq ack n false) s = .next (s.sendLink p (.link p 0 ((x.ack + 1) % 1024)))) ∧
    (∀ seq, x.st = .active →
      let l := x.replay.dropWhile (fun e => e.1 != seq)
      let t := s.updFport p (fun x => { x with replays := within s.now 10000 x.replays })
      ((within s.now 10000 x.replays).length < 16 → exec (.replayRequest f seq) s = .next (t.replayOut p l)) ∧
      (16 ≤ (within s.now 10000 x.replays).length → exec (.replayRequest f seq) s = .next (t.updFport p (fun x =>
        { x with st := .retrain })))) ∧
    (∀ a b : PeerId, x.st = .retrain → x.peer = some a → a.system = b.system → a.node = b.node → a.mgen = b.mgen → a.port = b.port →
      exec (.retrainDone f b) s = .next (((s.updFport p (fun x =>
        { x with st := .active, replays := [], errC := sat 0xFFFF (x.errC + 1) })).replayOut p x.replay).portDrain p x.wait.length)) ∧
    (∀ (t : State) (l : List (Nat × Frame)), t.replayOut p l = ((t.updFport p (fun x => { x with
        errB := sat 0xFFFF (x.errB + ((l.map (fun e => e.1)).eraseDups).length),
        txBytes := x.txBytes + BitVec.ofNat 64 ((l.map (fun e => frBytes e.2)).sum) })).each l (fun s e => s.emit (.frame p e.2)))) ∧
    (x.st = .active ∨ x.st = .retrain →
      let t := (s.updFport p (fun x => { x with
        st := .down, gen := x.gen + 1, replay := [], replays := [], vcs := [], wait := [], inq := [], resv := [], lent := [],
        cwLeft := 0 })).journal (.gen .fab p (x.gen + 1))
      let told := match x.peer with
        | none => false | some q => t.fab.seen.any (fun k => k.1 == 1 && k.2.1 == q.node && k.2.2.1 == q.mgen.toNat)
      let t := if told then t else t.each (x.replay.map (fun e => e.2)) (fun s f => s.lostFrame f)
      let t := (t.detourLost s).each x.inq (fun s f => if s.transits f then s.sendFrame { f with hops := f.hops + 1 } else s.endFrame p f)
      exec (.linkFailed f) s = .next (((t.each x.wait (fun s f => if f.typ = 9 then s else s.sendFrame f)).updFport p (fun x =>
        { x with st := .down })).fabCode p 0x0788))

/-- Fabric ports train, and their links replay and fail. -/
def Obligations.FabricPortsAndLinks : Prop := Clauses.FabricPortsTrain ∧ Clauses.FabricLinksReplay

/-- R266 to R268, R270, R271, R276, R277, R287: a frame with a good header that ends here waits at its port, one for another module goes on, over
to another I/O die only with a reservation there, and one with a bad header or too many hops is dropped with its credit returned; a frame of a
job that may end is consumed unless it is stale, and a HELLO of a job that has not begun forming is kept for it; CREDIT and AUDIT frames carry
the counts of a VC, a count of more than is out fences the port, and an audit that fails does so once its buffer has drained; a new notice is
flooded on and acted on, and one seen before is dropped; LNK takes a detour, and reports a node that no route reaches. -/
def Obligations.FabricFramesAndNotices : Prop :=
  ∀ (s : State) (f : FabId),
    let x := s.fport f.val
    let p := f.val
    (∀ fr : Frame, x.st = .active → 0 < fr.typ → fr.typ < 0x0A →
      let n := BitVec.ofNat 32 (frUnits fr)
      let t := (s.updFport p (fun x => { x with rxBytes := x.rxBytes + BitVec.ofNat 64 (frBytes fr) })).updFport p (fun x =>
        x.updVc (vcNum fr) (fun v => { v with rcvd := v.rcvd + n }))
      (fr.hcrcOk = false → exec (.frameReceive f fr) s = .next ((t.freeFrame p fr).updFport p (fun x => { x with drops := x.drops + 1 }))) ∧
      (fr.hcrcOk = true → 32 ≤ fr.hops → exec (.frameReceive f fr) s = .next
        ((((t.freeFrame p fr).updFport p (fun x => { x with drops := x.drops + 1 })).fabCode p 0x078E).lostFrame fr)) ∧
      (fr.hcrcOk = true → fr.hops < 32 → flooded fr = true ∨ fr.dst = s.fab.node →
        exec (.frameReceive f fr) s = .next (t.updFport p (fun x => { x with inq := x.inq ++ [fr] }))) ∧
      (fr.hcrcOk = true → fr.hops < 32 → flooded fr = false → fr.dst ≠ s.fab.node →
        exec (.frameReceive f fr) s = .next ((t.updFport p (fun x => { x with inq := x.inq ++ [fr] })).forward p fr))) ∧
    (∀ (fr : Frame) (q : Nat) (g : Frame), x.inq.contains fr = true →
      (x.inq.takeWhile (fun g => g != fr)).any (fun g => s.transits g && vcNum g == vcNum fr) = false →
      s.route (some p) { fr with hops := fr.hops + 1 } = some (q, g) →
      let t := (s.updFport p (fun x => { x with inq := x.inq.erase fr })).freeFrame p fr
      let key := 16 * (p / 8) + vcNum g
      (q / 8 = p / 8 → s.forward p fr = t.portSend q g) ∧
      (q / 8 ≠ p / 8 → Map.get 0 (s.fport q).resv key + frUnits g ≤ 32 → s.forward p fr = (t.updFport q (fun y => { y with
        resv := Map.upd 0 key (fun n => n + frUnits g) y.resv, lent := y.lent ++ [(p / 8, g)] })).portSend q g) ∧
      (q / 8 ≠ p / 8 → 32 < Map.get 0 (s.fport q).resv key + frUnits g → s.forward p fr = s)) ∧
    (∀ fr : Frame, x.inq.contains fr = true → s.transits fr = true → exec (.frameEnd f fr) s = .next (s.forward p fr)) ∧
    (∀ fr : Frame, x.inq.contains fr = true → s.transits fr = false → s.mayEnd p fr = false → exec (.frameEnd f fr) s = .next s) ∧
    (∀ fr : Frame, x.inq.contains fr = true → fr.dst = s.fab.node → s.mayEnd p fr = true → fr.pcrcOk = true → flooded fr = false →
      let t := (s.updFport p (fun x => { x with inq := x.inq.erase fr })).freeFrame p fr
      (t.frameStale fr = true → (t.compOfJob fr.fjob).isSome = true ∨ t.joinBy fr.fjob = none →
        exec (.frameEnd f fr) s = .next ((t.updFport p (fun x => { x with drops := x.drops + 1 })).auditSettle p (vcNum fr))) ∧
      (∀ d, t.compOfJob fr.fjob = none → (t.joinBy fr.fjob).isSome = true → fr.poison = false → fr.typ = 9 → bits fr.arg 63 56 = 6 →
        fr.payload = [d] → exec (.frameEnd f fr) s = .next
          ((t.earlyHello fr.fjob (bits d 415 400) (BitVec.ofNat 384 (bits d 383 0)) (bits d 399 384) fr.srcMgen).auditSettle p (vcNum fr))) ∧
      (∀ c, t.frameStale fr = false → t.compOfJob fr.fjob = some c → exec (.frameEnd f fr) s = .next
        ((t.consume c fr).auditSettle p (vcNum fr)))) ∧
    (∀ vc : Fin 16, x.st = .active →
      ((x.vc vc.val).freed ≠ (x.vc vc.val).freedSent → exec (.creditFrameSend f vc) s = .next ((s.updFport p (fun x =>
        x.updVc vc.val (fun v => { v with freedSent := v.freed }))).transmit p (s.vcFrame 0x0A vc.val (x.vc vc.val).freed))) ∧
      (∀ n : Word32,
        let t := s.updFport p (fun x => x.updVc vc.val (fun v => { v with used := v.used - (n - v.retRcvd).toNat, retRcvd := n }))
        let v := x.vc vc.val
        ((n - v.retRcvd).toNat ≤ v.used → exec (.creditFrameReceive f vc n) s = .next (t.portDrain p (t.fport p).wait.length)) ∧
        (v.used < (n - v.retRcvd).toNat → exec (.creditFrameReceive f vc n) s = .next (s.fabStop p .fenced 0x0789))) ∧
      (∀ n : Word32,
        let t := s.transmit p (s.vcFrame 0x0B vc.val (x.vc vc.val).sent)
        (((t.fport p).vc vc.val).rcvd = n → exec (.auditFrame f vc n) s = .next (t.sendCredit p vc.val)) ∧
        (((t.fport p).vc vc.val).rcvd ≠ n → exec (.auditFrame f vc n) s = .next
          ((t.updFport p (fun x => x.updVc vc.val (fun v => { v with failed := some n }))).auditSettle p vc.val))) ∧
      (∀ n, (x.vc vc.val).failed = some n → x.inq.any (fun f => vcNum f == vc.val) = false →
        ((x.vc vc.val).rcvd = n → s.auditSettle p vc.val = s.updFport p (fun x => x.updVc vc.val (fun v => { v with failed := none }))) ∧
        ((x.vc vc.val).rcvd ≠ n → s.auditSettle p vc.val = s.fabStop p .fenced 0x0789))) ∧
    (∀ (node : Nat) (mgen : Word16), x.st = .active → node < 4096 →
      let sent (code : Nat) : State := ({ s with fab := { s.fab with seen := s.fab.seen ++ [noticeKey code node mgen 0 0] } } : State).flood
        { s.notice code node mgen 0 0 0 with src := node, srcMgen := mgen, hops := 1 } (some p)
      (s.fab.seen.contains (noticeKey 1 node mgen 0 0) = false → exec (.nodeDown f node mgen) s = .next ((sent 1).nodeDown node mgen)) ∧
      (s.fab.seen.contains (noticeKey 1 node mgen 0 0) = true → exec (.nodeDown f node mgen) s = .next s) ∧
      (s.fab.seen.contains (noticeKey 2 node mgen 0 0) = false → exec (.nodeUp f node mgen) s = .next ((sent 2).nodeUp node mgen)) ∧
      (s.fab.seen.contains (noticeKey 2 node mgen 0 0) = true → exec (.nodeUp f node mgen) s = .next s)) ∧
    (∀ (q : PeerId) (fjob : Nat) (fgen : Word16), x.st = .active → x.peer = some q → q.node < 4096 → fjob < 65536 →
      (s.fab.seen.contains (noticeKey 3 q.node q.mgen fjob fgen) = true → exec (.abandon f fjob fgen) s = .next s) ∧
      (s.fab.seen.contains (noticeKey 3 q.node q.mgen fjob fgen) = false → exec (.abandon f fjob fgen) s = .next
        ((({ s with fab := { s.fab with seen := s.fab.seen ++ [noticeKey 3 q.node q.mgen fjob fgen] } } : State).flood
          { s.notice 3 q.node q.mgen fgen fjob 0 with src := q.node, srcMgen := q.mgen, hops := 1 } (some p)).takeAbandon fjob fgen))) ∧
    (∀ node way : Nat, s.roleHalted 6 = false →
      let t : State := { s with fab := { s.fab with detours := s.fab.detours.filter (fun e => e.1 != node) ++ [(node, way)] } }
      (t.reachable node = true → exec (.lnkDetour node way) s = .next t) ∧
      (t.reachable node = false → exec (.lnkDetour node way) s = .next ((t.tray 0x078C node).emit (.operator 0x078C node))))

/-- R278 to R286, R289: FAB_JOIN keeps the job a staged culture is to have, FAB_FCTX the fabric number of a context of the client; a HELLO of a
rank with the same digest and RANKS counts and brings its MGEN, and the last one forms the job; a formation that takes too long rolls a bind
back, and else ends the job; an offer is gathered and a set goes down the tree; the units of a collective combine once all inputs are there, and
go to the parent or, at rank 0, down, while inputs that end unequally break the churn and abandon the job; at rank 0 an arrival at a barrier
counts, and a release goes down the tree. -/
def Obligations.FabricJobs : Prop :=
  (∀ (s : State) (r : Request), s.staged.find? (fun k => k.handle == r.p0.toNat) = none → exec (.fabJoin r) s = .next (s.answer r 0x078D [])) ∧
  (∀ (s : State) (r : Request) (k : Culture) (b : Machine.Frm),
    let nodes := rankTable (s.reqBuf r) (fle b.body 0 2)
    let j : Job := { st := .joined, fjob := r.p1.toNat, rank := r.p2.toNat, ranks := fle b.body 0 2, nodes := nodes, handle := r.p0.toNat }
    s.staged.find? (fun k => k.handle == r.p0.toNat) = some k → k.frames.find? (fun f => f.typ == 0x0A) = some b →
    0 < r.p1.toNat → r.p1.toNat < 65536 → r.p2.toNat < fle b.body 0 2 → nodes.eraseDups.length = fle b.body 0 2 →
    nth 4096 nodes r.p2.toNat = s.fab.node → s.jobs.any (fun c => (s.job c).fjob == r.p1.toNat) = false →
    s.fab.joins.any (fun e => e.2.fjob == r.p1.toNat && e.1 != r.p0.toNat) = false →
    exec (.fabJoin r) s = .next ((({ s.countBuf r with fab := { s.fab with joins := Map.set {} r.p0.toNat j s.fab.joins } } : State).journal
      (.fjob 256 j.fjob j.rank j.ranks nodes)).answer r 0 [])) ∧
  (∀ (s : State) (r : Request), (s.ctx r.xid).st = .free ∨ (s.ctx r.xid).client ≠ r.client →
    exec (.fabFctx r) s = .next (s.answer r 0x0103 [])) ∧
  (∀ (s : State) (r : Request), (s.ctx r.xid).st ≠ .free → (s.ctx r.xid).client = r.client → r.p0.toNat ≤ 4095 →
    (s.ctxsOf (s.ctx r.xid).cid).any (fun x => decide ((s.ctx x).fctx = r.p0.toNat + 1)) = false →
    exec (.fabFctx r) s = .next (((s.updCtx r.xid (fun c => { c with fctx := r.p0.toNat + 1 })).journalCtx r.xid).answer r 0 [])) ∧
  (∀ (s : State) (c : CidT),
    let j := s.job c.val
    (∀ (rank : Nat) (mgen : Word16), j.st = .forming → rank < j.ranks → s.roleHalted 6 = false →
      let t := s.updJob c.val (fun j => { j with hello := if j.hello.contains rank then j.hello else j.hello ++ [rank],
                                                 mgens := Map.set 0 (nth 0 j.nodes rank) mgen j.mgens })
      ((t.job c.val).allHere = false → exec (.hello c rank (s.helloDigest c.val) j.ranks mgen) s = .next t) ∧
      ((t.job c.val).allHere = true → exec (.hello c rank (s.helloDigest c.val) j.ranks mgen) s = .next (t.jobFormed c.val))) ∧
    (j.st = .forming → (∀ o, (s.comp c.val).op = some o → o.kind ≠ .bind) → exec (.formationTimeout c) s = .next
      (((s.updJob c.val (fun _ => {})).journal (.fjobEnd c.val)).emit (.operator 0x061A c.val))) ∧
    (∀ o, j.st = .forming → (s.comp c.val).op = some o → o.kind = .bind → exec (.formationTimeout c) s = .next
      (s.rollback c.val 0x061A 0x061A)) ∧
    (∀ rank mhz, j.st = .formed → (s.fab.children j j.rank).contains rank = true → exec (.freqOffer c rank mhz) s = .next
      ((s.updJob c.val (fun j => { j with offers := j.offers.filter (fun e => e.1 != rank) ++ [(rank, mhz)] })).freqGather c.val)) ∧
    (∀ mhz step, j.st = .formed → 0 < j.rank → exec (.freqSet c mhz step) s = .next
      (((s.toChildren c.val (s.freqFrame c.val 5 mhz step)).updJob c.val (fun j => { j with pendMhz := some (mhz, step) })).freqApply c.val)) ∧
    (j.st = .formed → exec (.freqRoundTimer c) s = .next ((s.updJob c.val (fun j =>
      { j with offers := j.offers.filter (fun e => e.1 != j.rank) ++ [(j.rank, s.offerMhz c.val)], offered := s.offerMhz c.val })).freqGather c.val)) ∧
    (∀ (g step off : Nat) (w : CWin) (ws : List CWin), j.st = .formed → (findFrm (s.comp c.val).frames 7 g).isSome = true →
      j.windows.filter (fun w => w.group == g && w.step == step && w.offset == off) = w :: ws →
      (j.rank :: s.fab.children j j.rank).all (fun r => (w :: ws).any (fun v => v.input == r)) = true →
      ws.any (fun v => v.last != w.last) = false →
      let t := s.updJob c.val (fun j => { j with windows := j.windows.filter (fun v =>
        !(v.group == g && v.step == step && v.offset == off)) })
      let d := churnOp (fle (frmBody (s.comp c.val).frames 7 g) 2 1) ((w :: ws).map (fun v => v.data))
      let poison := (w :: ws).any (fun v => v.poison)
      (j.rank = 0 → exec (.combine c g step off) s = .next (t.pourDown c.val g step off d w.last poison false)) ∧
      (0 < j.rank → exec (.combine c g step off) s = .next (t.toParent c.val (t.collFrame c.val 6 g step off d w.last poison)))) ∧
    (∀ (g step off : Nat) (w : CWin), j.st = .formed → (findFrm (s.comp c.val).frames 7 g).isSome = false →
      j.windows.filter (fun w => w.group == g && w.step == step && w.offset == off) = [w] → w.input = j.rank →
      let t := s.updJob c.val (fun j => { j with windows := j.windows.filter (fun v =>
        !(v.group == g && v.step == step && v.offset == off)) })
      (j.rank = 0 → exec (.combine c g step off) s = .next (t.pourDown c.val g step off w.data w.last w.poison true)) ∧
      (0 < j.rank → exec (.combine c g step off) s = .next (t.toParent c.val (t.collFrame c.val 6 g step off w.data w.last w.poison)))) ∧
    (∀ (g step off : Nat) (w : CWin) (ws : List CWin) (u : Nat) (e : CEnt), j.st = .formed → (findFrm (s.comp c.val).frames 7 g).isSome = true →
      j.windows.filter (fun w => w.group == g && w.step == step && w.offset == off) = w :: ws →
      (j.rank :: s.fab.children j j.rank).all (fun r => (w :: ws).any (fun v => v.input == r)) = true →
      ws.any (fun v => v.last != w.last) = true → s.rootEntry c.val g = some (u, e) →
      exec (.combine c g step off) s = .next ((s.churnBreak c.val g (s.unit u).xid).sendAbandon c.val)) ∧
    (∀ (b : Fin 32) (rank : Nat), j.st = .formed →
      (0 < j.rank → exec (.barFrame c b rank true j.fgen) s = .next
        ((s.toChildren c.val (s.barFrame c.val b.val true)).barFlip c.val b.val)) ∧
      (j.rank = 0 → rank < j.ranks → exec (.barFrame c b rank false j.fgen) s = .next (s.barRank c.val b.val rank))))

/-! ## Host ports -/

/-- R297 to R300, R304, R310: with the port up, ownership of a watched line of an assigned function is granted with a back-invalidate, and the
write-back of a granted line is a notice; it waits while logical partition 0 is being copied, else the line of a backed submission slot or
journal byte is stored, one of a ring control line moves CQ_HEAD, and one of the lease line renews or releases the lease. -/
def Clauses.WatchedLines : Prop :=
  ∀ (s : State) (h : HPort) (f : Func) (line : Nat), (s.fn (clientOf h.val f.val)).valid = true →
    let k := clientOf h.val f.val
    let x := s.fn k
    (line < 2 ^ 24 → s.hostUp (k / 256) = true → x.granted.contains line = false → exec (.watchedLineOwnership h f line) s = .next
      ((s.updFn k (fun x => { x with granted := x.granted ++ [line] })).emit (.bisnp (k / 256) (k % 256) line))) ∧
    (∀ d : BitVec 512, x.granted.contains line = true → s.hostUp (k / 256) = true →
      let g := (s.updFn k (fun x => { x with granted := x.granted.erase line })).hostRx (k / 256) 64
      (g.comp (g.fn k).cid).copiesRegion = true → exec (.watchedLineNotice h f line d) s = .next (g.updFn k (fun x =>
        { x with late := x.late ++ [(line, d)] }))) ∧
    (∀ d : BitVec 512, x.granted.contains line = true → s.hostUp (k / 256) = true →
      let g := (s.updFn k (fun x => { x with granted := x.granted.erase line })).hostRx (k / 256) 64
      (g.comp (g.fn k).cid).copiesRegion = false →
      let t := g.updFn k (fun x => { x with notices := if x.notices.contains line then x.notices else x.notices ++ [line] })
      let u := t.updFn k (fun x => { x with region := x.region.wrL (64 * line) (lineBytes d) })
      (t.regionBacked k (64 * line) = false → exec (.watchedLineNotice h f line d) s = .next t) ∧
      (t.regionBacked k (64 * line) = true → 0x100000 ≤ 64 * line → exec (.watchedLineNotice h f line d) s = .next u) ∧
      (t.regionBacked k (64 * line) = true → 0 < line → 64 * line < 0x100000 → exec (.watchedLineNotice h f line d) s = .next
        ((u.updFn k (fun x => { x with notices := x.notices.erase line })).cqHeadWrite k ((64 * line - 0x1000) / 64) (bits d 31 0))) ∧
      (line = 0 → bit d 64 = true → exec (.watchedLineNotice h f line d) s = .next
        (((u.updFn k (fun x => { x with notices := x.notices.erase 0 })).updFn k (fun x => { x with seq := d.extractLsb' 0 64 })).lapse k)) ∧
      (line = 0 → bit d 64 = false → exec (.watchedLineNotice h f line d) s = .next
        ((u.updFn k (fun x => { x with notices := x.notices.erase 0 })).renew k (d.extractLsb' 0 64) (bit d 65))))

/-- R304 to R309, R315, R318: a ring whose configuration is in range turns ON with it, and one out of range records RING_CONFIG; a disabled ring
turns OFF once no slot is reserved; records that wait for an interrupt raise it when COAL_US has passed; a pending event that is ready is
written; a record becomes visible in host memory, is logged and may be signalled, unless a write is held up or the link is down: it then waits in
order; the retry writes all that wait, or counts a timeout; a host transfer of 2 ms is ended by its port, a read with poison. -/
def Clauses.RingsAndInterrupts : Prop :=
  ∀ (s : State) (h : HPort) (f : Func) (r : Fin 256),
    let k := clientOf h.val f.val
    let g := s.ring k r.val
    (∀ v : Word64, (s.fn k).valid = true → r.val < (s.comp (s.fn k).cid).rings → g.enable = false →
      (s.ringCfgOk k r.val v = true → exec (.ringEnable h f r v) s = .next ((s.updRing k r.val (fun g =>
        { g.settled.configured v.toNat with enable := true, on := true, disPend := false })).flushEvents k)) ∧
      (s.ringCfgOk k r.val v = false → exec (.ringEnable h f r v) s = .next
        ((s.updRing k r.val (fun g => { g.store v.toNat with lastCode := 0x0703 })).hostCode (k / 256) 0x0703))) ∧
    (s.canon = true → Map.wf {} (s.fn k).rings = true → g.enable = true → (g.reserved = 0 → ∃ t, exec (.ringDisable h f r) s = .next t ∧
        (t.ring k r.val).enable = false ∧ (t.ring k r.val).on = false ∧ (t.ring k r.val).disPend = false) ∧
      (0 < g.reserved → ∃ t, exec (.ringDisable h f r) s = .next t ∧
        (t.ring k r.val).enable = false ∧ (t.ring k r.val).on = g.on ∧ (t.ring k r.val).disPend = true)) ∧
    (0 < g.unsig → exec (.msixCoalesceTimer h f r) s = .next
      ((s.emit (.msix h.val f.val g.vec)).updRing k r.val (fun g => { g with unsig := 0 }))) ∧
    (g.unsig = 0 → exec (.msixCoalesceTimer h f r) s = .next s) ∧
    (∀ e, (s.fn k).events.find? (fun e => s.eventReady k e.1) = some e → exec (.eventRecordWrite h f) s = .next
      ((s.updFn k (fun f => { f with events := f.events.erase e })).cqWrite k 0 (eventRec e.1 e.2.1 e.2.2))) ∧
    (s.hostUp (k / 256) = true → exec (.cqWriteRetry h f r true) s = .next
      (((s.updRing k r.val (fun g => { g with retry := [], stuck := false })).each g.retry (fun s e => s.cqVisible k r.val e.1 e.2)).signal k r.val)) ∧
    (s.hostUp (k / 256) = false → exec (.cqWriteRetry h f r true) s = .next s) ∧
    (g.retry = [] → exec (.cqWriteRetry h f r false) s = .next (s.updRing k r.val (fun g => { g with stuck := true }))) ∧
    (∀ (rec_ : BitVec 512), 
      let slot := g.cqTail % g.size
      let t := s.updRing k r.val (fun g => { g with cqTail := add32 g.cqTail 1 })
      (g.stuck = true ∨ g.retry ≠ [] ∨ t.hostUp (k / 256) = false → s.cqWrite k r.val rec_ = t.updRing k r.val (fun g =>
        { g with retry := g.retry ++ [(slot, rec_)] })) ∧
      (g.stuck = false → g.retry = [] → t.hostUp (k / 256) = true → s.cqWrite k r.val rec_ = (t.cqVisible k r.val slot rec_).signal k r.val)) ∧
    (∀ (rec_ : BitVec 512) (slot : Nat),
      let a := 4096 * g.cqBase + 64 * slot
      s.cqVisible k r.val slot rec_ = ((((s.updHmem (k / 256) (fun m => m.wrL a (lineBytes rec_))).updRing k r.val (fun g =>
        { g with unsig := g.unsig + 1 })).hostTx (k / 256) 64).logPage k (a / 4096) 0)) ∧
    (g.retry ≠ [] → exec (.cqWriteRetry h f r false) s = .next
      (((s.updHport (k / 256) (fun p => { p with cqTimeout := min 0xFFFF (p.cqTimeout + 1) })).updRing k r.val (fun g =>
        { g with lastCode := 0x0704 })).hostCode (k / 256) 0x0704)) ∧
    (∀ (u : UnitId) (w : ExtWait), (s.unit u.val).ext = some w → w.peer = false → w.far = false → w.port = h.val →
      let t := s.updHport h.val (fun p => { p with hostTimeout := min 0xFFFF (p.hostTimeout + 1) })
      (∀ d, t.heldRow u.val = some d → d.1.op = 1 → exec (.hostTransferTimeout h u) s = .next
        (((t.extEnd u.val none).poisonWork u.val).hostCode h.val 0x0705)) ∧
      (∀ d, t.heldRow u.val = some d → d.1.op ≠ 1 → exec (.hostTransferTimeout h u) s = .next
        (((t.extEnd u.val (some [])).poisonWork u.val).hostCode h.val 0x0705)))

/-- Watched lines, rings, interrupts and events of a host port. -/
def Obligations.HostRings : Prop := Clauses.WatchedLines ∧ Clauses.RingsAndInterrupts

/-- R310 to R314, R327: a change of SEQ takes or renews a lease, and RECLAIM takes a lapsed one back; a release and a timeout let a held lease
lapse, with waiting records put in the journal, but a pausing function keeps its own; a lapsed lease is quiesced; the end of the window starts
the teardown of the contexts; ACK under a held lease empties the journal; a function reset lapses the lease, resets the rings and takes a locked
interface to ERROR. -/
def Clauses.Leases : Prop :=
  ∀ (s : State) (h : HPort) (f : Func),
    let k := clientOf h.val f.val
    let x := s.fn k
    (∀ (seq : Word64) (b : Bool), x.valid = true → seq ≠ x.seq →
      (x.lease = .held → exec (.leaseRenewal h f seq b) s = .next (s.updFn k (fun x => { x with seq := seq, renewed := s.now }))) ∧
      (x.lease = .none → exec (.leaseRenewal h f seq b) s = .next ((s.updFn k (fun x =>
        { x with seq := seq, lease := .held, renewed := s.now, since := s.now, mustAck := !x.journal.isEmpty })).flushEvents k)) ∧
      (x.lease = .lapsed ∨ x.lease = .quiesced → b = false →
        exec (.leaseRenewal h f seq b) s = .next (s.updFn k (fun x => { x with seq := seq }))) ∧
      (x.lease = .lapsed ∨ x.lease = .quiesced → b = true → s.canon = true → ∃ t, exec (.leaseRenewal h f seq b) s = .next t ∧
        (t.fn k).lease = .held ∧ (t.fn k).seq = seq ∧ (t.fn k).renewed = s.now ∧ (t.fn k).mustAck = !x.journal.isEmpty)) ∧
    (x.lease = .held →
      let l := s.updFn k (fun x => { x with lease := .lapsed, since := s.now })
      let t := (l.each ((l.fn k).rings.map (fun e => e.1)) (fun s r => s.retryToJournal k r)).hostCode (k / 256) 0x0708
      exec (.leaseRelease h f) s = .next t ∧ (x.pause = .serving → exec (.leaseTimeout h f) s = .next t)) ∧
    (x.pause ≠ .serving → exec (.leaseTimeout h f) s = .next s) ∧
    (x.lease = .lapsed → s.canon = true → ∃ t, exec (.leaseQuiesce h f) s = .next t ∧ (t.fn k).lease = .quiesced ∧ (t.fn k).since = s.now) ∧
    (x.lease = .quiesced → exec (.leaseExpire h f) s = .next
      (let t := s.updFn k (fun x => { x with lease := .none, since := s.now })
       t.each (t.ctxsOfClient k) (fun s x => (s.startTeardown x 0x0208 Request.zero).emit (.operator 0x0208 x)))) ∧
    (x.lease = .held → exec (.journalAck h f) s = .next ((s.updFn k (fun x => { x with journal := [], mustAck := false })).flushEvents k)) ∧
    (x.lease ≠ .held → exec (.journalAck h f) s = .next s) ∧
    (s.canon = true → ∃ t, exec (.flr h f) s = .next t ∧ (t.fn k).lease = (if x.lease = .held then .lapsed else x.lease) ∧
      (t.fn k).rings = [] ∧ (t.fn k).tcSel = 0 ∧ (t.fn k).tdi = (if x.tdi = .locked ∨ x.tdi = .run then .error else x.tdi))

/-- R295, R314, R433, R436, Table 12.1: a host port that trains with MOD_PWRGD high, its PERST_N released and its clock there is UP at x8 and 64
GT/s and DEGRADED at x8 or x4 and 32 GT/s, with IDE_FAIL recorded while a required IDE is not established; a link-down counts, resets the serving
functions of the port and leaves it DOWN; PERST_N takes it down too; an IDE failure resets its locked functions. -/
def Clauses.HostLinks : Prop :=
  ∀ (s : State) (h : HPort), s.canon = true →
    let p := s.hport h.val
    let downed := (s.updHport h.val (fun p =>
      { p with st := .down, width := 0, rate := 0, ide := false, ideDue := false, linkDown := min 0xFFFF (p.linkDown + 1) }))
    (p.st = .down ∨ p.st = .training → s.boot.pwrgd = true → s.domOn (domHost h.val) = true → p.perstRel = true → has s.boot.hsris h.val = true ∨ s.boot.refOk = true →
      let up (st : HPState) (w r : Nat) : State :=
        let t := s.updHport h.val (fun p => { p with st := st, width := w, rate := r, ide := false, ideDue := p.ideReq })
        if p.ideReq then t.hostCode h.val 0x070B else t
      exec (.hostLinkUp h 8 64) s = .next (up .up 8 64) ∧
      (∀ w, w = 8 ∨ w = 4 → exec (.hostLinkUp h w 32) s = .next ((up .degraded w 32).hostCode h.val 0x0707))) ∧
    (p.st = .up ∨ p.st = .degraded → exec (.hostLinkDown h) s = .next ((downed.each (downed.fnsOnPort h.val) (fun s f => s.fnReset f)).hostCode h.val 0x0706)) ∧
    (p.st = .down ∨ p.st = .training → exec (.hostLinkDown h) s = .next (s.updHport h.val (fun p => { p with st := .down }))) ∧
    (exec (.perstN h true) s = .next (s.updHport h.val (fun p => { p with perstRel := true }))) ∧
    (p.st = .down ∨ p.st = .training → exec (.perstN h false) s = .next
      ((s.updHport h.val (fun p => { p with st := .down })).updHport h.val (fun p => { p with perstRel := false }))) ∧
    (p.st = .up ∨ p.st = .degraded → exec (.perstN h false) s = .next
      (((downed.each (downed.fnsOnPort h.val) (fun s f => s.fnReset f)).hostCode h.val 0x0706).updHport h.val (fun p =>
        { p with perstRel := false }))) ∧
    (let t := s.updHport h.val (fun p => { p with ide := false, ideDue := false })
     exec (.ideFailure h) s = .next ((t.each ((t.fnsOnPort h.val).filter (fun f => decide ((t.fn f).tdi = .locked ∨ (t.fn f).tdi = .run)))
      (fun s f => s.fnReset f)).hostCode h.val 0x070B))

/-- Leases of functions, and the links of host ports. -/
def Obligations.LeasesAndLinks : Prop := Clauses.Leases ∧ Clauses.HostLinks

/-! ## Sharing and migration -/

/-- R319, R321, R328, Table 13.3: an assignment that passes every check makes the function serve the composition, its region zeroed and its lease
NONE, and is journaled; one that fails a check sets ERR; an unassignment takes it back while the lease is NONE and the client holds no context,
else ERR is set; a hand-off from a function that is not an unlocked, paused, not logging one of the composition, or while an unbind is in
progress, sets ERR, waits while logical partition 0 is being copied, and else moves the client with its region, journal and contexts in one step. -/
def Obligations.Assignment : Prop :=
  ∀ (s : State) (h : HPort) (f : Func), s.canon = true → f.val ≠ 0 →
    let k := clientOf h.val f.val
    let x := s.fn k
    (∀ (c : CidT) (gen : Word16), s.assignErr k c.val gen = 0 →
      let t := (s.updFn k (fun x => { x with fromEn := false, fromPort := 0, fromFunc := 0 })).updFn k (fun x =>
        { (if x.valid then x else x.bare) with valid := true, cid := c.val, gen := gen, err := 0 })
      exec (.vfAssign h f c gen) s = .next (((t.regionWritten k).updFn k (fun x =>
        { x with region := [], journal := [], mustAck := false, notices := [], late := [], lease := .none, since := t.now })).journal
          (.assign (k / 256) (k % 256) true c.val gen))) ∧
    (∀ (c : CidT) (gen : Word16), s.assignErr k c.val gen ≠ 0 → x.tdi ≠ .locked → x.tdi ≠ .run → exec (.vfAssign h f c gen) s = .next
      (s.updFn k (fun x => { x with fromEn := false, fromPort := 0, fromFunc := 0, err := s.assignErr k c.val gen }))) ∧
    (x.tdi = .unlocked → x.lease ≠ .none ∨ s.ctxsOfClient k ≠ [] → exec (.vfUnassign h f) s = .next
      (s.updFn k (fun x => { x with fromEn := false, fromPort := 0, fromFunc := 0, err := 4 }))) ∧
    (x.tdi = .unlocked → x.lease = .none → s.ctxsOfClient k = [] → x.valid = true → exec (.vfUnassign h f) s = .next
      ((((s.updFn k (fun x => { x with fromEn := false, fromPort := 0, fromFunc := 0 })).updFn k (fun x => x.bare)).journal
        (.assign (k / 256) (k % 256) false 0 0)).updFn k (fun x => { x with err := 0 }))) ∧
    (∀ (c : CidT) (gen : Word16) (q : HPort) (g : Func),
      let src := clientOf q.val g.val
      let y := s.fn src
      let ends := decide ((s.comp c.val).st = .unbinding) || (s.comp c.val).op.any (fun o => decide (o.kind = .unbind))
      let good := y.valid && decide (y.cid = c.val ∧ y.gen = gen ∧ y.pause = .paused) && !y.logging && decide (src ≠ k)
      let bad (e : Nat) : Prop := exec (.handOff h f c gen q g) s = .next (s.updFn k (fun x => { x with err := e }))
      s.assignErr k c.val gen = 0 →
      (ends = true → bad 1) ∧ (ends = false → y.tdi ≠ .unlocked → bad 3) ∧ (ends = false → y.tdi = .unlocked → good = false → bad 5) ∧
      (ends = false → y.tdi = .unlocked → good = true → (s.comp c.val).copiesRegion = true → exec (.handOff h f c gen q g) s = .next
        (s.updFn k (fun x => { x with hand := some (c.val, gen, src) }))) ∧
      (ends = false → y.tdi = .unlocked → good = true → (s.comp c.val).copiesRegion = false → ∃ t, exec (.handOff h f c gen q g) s = .next t ∧ (t.fn k).valid = true ∧ (t.fn k).cid = c.val ∧ (t.fn k).gen = gen ∧
        (t.fn k).lease = .lapsed ∧ (t.fn k).region = y.region ∧ (t.fn k).journal = y.journal ∧ (t.fn k).pause = .serving ∧
        (t.fn src).valid = false ∧ (t.fn src).region = [] ∧ t.ctxsOfClient src = []))

/-- R322 to R327, R341: LOCK_INTERFACE locks an assigned function whose rings are OFF and whose client holds no clear range and reports the
interface, START_INTERFACE lets it run, and STOP_INTERFACE unlocks it with its contexts torn down; a log session starts at zero, its head moves
no further than its tail, a pause waits for the client's work, then saves its contexts and is complete once no stage holds one and no record
waits, and a resume serves again. -/
def Obligations.InterfacesAndMigration : Prop :=
  ∀ (s : State) (h : HPort) (f : Func),
    let k := clientOf h.val f.val
    let x := s.fn k
    (x.tdi = .unlocked → x.valid = true → x.rings.any (fun e => e.2.on) = false →
      (s.holdsClear k = false → exec (.lockInterface h f) s = .next ((s.updFn k (fun x => { x with tdi := .locked })).emit
        (.tdi (k / 256) (k % 256) 0x1000000 (hostBaseOf k) (2 ^ 45 + 2 ^ 30) x.cid x.gen.toNat (s.comp x.cid).shape))) ∧
      (s.holdsClear k = true → exec (.lockInterface h f) s = .next
        ((s.emit (.tdispError (k / 256) (k % 256))).secCode 0x040C))) ∧
    (x.tdi ≠ .unlocked → exec (.lockInterface h f) s = .next (s.emit (.tdispError (k / 256) (k % 256)))) ∧
    (x.tdi = .locked → exec (.startInterface h f) s = .next (s.updFn k (fun x => { x with tdi := .run }))) ∧
    (x.tdi ≠ .locked → exec (.startInterface h f) s = .next (s.emit (.tdispError h.val f.val))) ∧
    (x.tdi ≠ .unlocked → s.canon = true → ∃ t, exec (.stopInterface h f) s = .next t ∧ (t.fn k).tdi = .unlocked ∧
      (t.fn k).pause = .serving ∧ (t.fn k).lease ≠ .held ∧ t.ctxsOfClient k = []) ∧
    (x.tdi = .unlocked → exec (.stopInterface h f) s = .next s) ∧
    (x.tdi = .unlocked →
      (x.logBase ≠ 0 → exec (.logStart h f) s = .next (s.updFn k (fun x =>
        { x with logging := true, logTail := 0, logHead := 0, ovf := false }))) ∧
      (exec (.logStop h f) s = .next (s.updFn k (fun x => { x with logging := false }))) ∧
      (x.valid = true → x.pause = .serving → exec (.pause h f) s = .next (s.updFn k (fun x => { x with pause := .pausing }))) ∧
      (x.pause ≠ .serving → exec (.migResume h f) s = .next (s.updFn k (fun x => { x with pause := .serving, renewed := s.now })))) ∧
    (∀ v : Word32, sub32 v.toNat x.logHead ≤ sub32 x.logTail x.logHead →
      exec (.logheadWrite h f v) s = .next (s.updFn k (fun x => { x with logHead := v.toNat }))) ∧
    (∀ v : Word32, s.canon = true → sub32 x.logTail x.logHead < sub32 v.toNat x.logHead → ∃ t, exec (.logheadWrite h f v) s = .next t ∧
      t.fn k = x) ∧
    (x.pause = .pausing → s.allWork.any (fun e => e.2.client == k) = true → exec (.pauseComplete h f) s = .next s) ∧
    (x.pause = .pausing → s.allWork.any (fun e => e.2.client == k) = false →
      let t := s.each (s.ctxsOfClient k) (fun s x => s.saveCtx x)
      let done := (t.ctxsOfClient k).all (fun x => (t.heldOn x).isEmpty && decide ((t.ctx x).st ≠ .resetting)) &&
        (t.fn k).rings.all (fun e => e.2.retry.isEmpty)
      (done = true → exec (.pauseComplete h f) s = .next (t.updFn k (fun x => { x with pause := .paused }))) ∧
      (done = false → exec (.pauseComplete h f) s = .next t))

/-! ## Trust -/

/-- R333, R336, R338, R339, R349: a rollback commit raises the floor to the lowest SVN of the good copies of every role, and fails with one that
is not good; an enrolment whose two proofs verify takes the first free slot of the table, else it is refused; a revocation marks the entry, and a
second one removes it once no chain names it; a keyslot is installed in a free slot and withdrawn from a held one; a valid debug token tears
every context down and is recorded, any other is reported. -/
def Clauses.RootOfTrust : Prop :=
  ∀ s : State,
    (let copies := (List.range 7).flatMap (fun r => [(r, (s.role r).imgA), (r, (s.role r).imgB)])
     let good := copies.all (fun e => match e.2 with | none => false | some i => decide (fwSigned e.1 i = 0))
     let low := copies.foldl (fun m e => match e.2 with | none => m | some i => min m i.svn) 127
     (good = true → exec .rollbackCommit s = .next
       (({ s with sec := { s.sec with svnBlown := max s.sec.svnBlown low } } : State).measureFuse)) ∧
     (good = false → exec .rollbackCommit s = .next (s.secCode 0x040B))) ∧
    (∀ (r : Request) (rsa slh p1 p2 : List Byte), s.roleHalted 0 = false → s.bufferOf r = some (rsa ++ slh ++ p1 ++ p2) →
      rsa.length = bits r.p0 15 0 → slh.length = 48 → p1.length = 384 → p2.length = 16224 →
      let id := Config.sha384 (rsa ++ slh)
      let d := octetsOf (Config.sha384 (leBytes Config.modSerial.toNat 8 ++ octetsOf id))
      ((Config.rsaVerify rsa d p1 && Config.slhVerify slh enrolCtx d p2) = false →
        exec (.signerEnroll r) s = .next ((s.secCode 0x0407).answer r 0x0407 [])) ∧
      ((Config.rsaVerify rsa d p1 && Config.slhVerify slh enrolCtx d p2) = true → s.signerOf id = none →
        (Map.firstFree s.sec.signers < 16 → exec (.signerEnroll r) s = .next
          ((s.setSigner (Map.firstFree s.sec.signers) (some { id := id, rsa := rsa, slh := slh })).answer r 0 [])) ∧
        (16 ≤ Map.firstFree s.sec.signers → exec (.signerEnroll r) s = .next ((s.secCode 0x0406).answer r 0x0406 [])))) ∧
    (∀ r : Request, s.roleHalted 0 = false →
      let live := s.sec.signers.find? (fun e => e.2.any (fun g => g.id == r.signer && !g.revoked))
      (∀ i g, live = some (i, some g) → exec (.signerRevoke r) s = .next
        ((s.setSigner i (some { g with revoked := true })).answer r 0 [])) ∧
      (∀ i, live = none → s.signerSlot r.signer = some i →
        s.comps.any (fun e => decide (e.2.st ≠ .free) && e.2.signers.contains r.signer) = false →
        exec (.signerRevoke r) s = .next ((s.setSigner i none).answer r 0 [])) ∧
      (live = none → s.signerSlot r.signer = none → exec (.signerRevoke r) s = .next ((s.secCode 0x0408).answer r 0x0408 []))) ∧
    (∀ (k : Fin 4096) (n : Nat) (b : Bool),
      ((s.kslot k.val).hold = .free →
        exec (.keyslotChange k true n b) s = .next (s.grantSlot k.val (if b then .shared n else .ctx n))) ∧
      ((s.kslot k.val).hold ≠ .free → exec (.keyslotChange k false n b) s = .next (s.withdrawSlot k.val))) ∧
    (∀ n, 0 < n →
      let t := s.each ((s.ctxs.filter (fun e => decide (e.2.st ≠ .free))).map (fun e => e.1)) (fun s x =>
        (s.startTeardown x 0x0201 Request.zero).finishTeardown x)
      exec (.debugToken true n) s = .next ((({ t with sec := { t.sec with debugUsedBlown := true, debugActive := true, token := n } } : State).journal
        (.setting .debugToken n)).measureFuse)) ∧
    (∀ n, exec (.debugToken false n) s = .next (s.secCode 0x040D))

/-- R334, R344 to R347, Table 18.1: RECOVERY answers nothing, and while SEC starts requests wait; else GET_MEASUREMENTS answers the number of
blocks, one block or all; a transcript among the last four of its connection is cosigned and any other is refused; the certificate and the
composition report are answered; another request is answered by the standard's answer, a signed one keeps its transcript, and a KEY_EXCHANGE with
8 sessions open is refused; each window publishes every tenant counter floored to a multiple of 1024. -/
def Clauses.Attestation : Prop :=
  ∀ s : State,
    (s.sec.recovery = false → s.secAway = false →
      (exec (.getMeasurements 0) s = .next (s.emit (.answer 0 (leBytes 16 1)))) ∧
      (∀ i, 0 < i → i ≤ 16 → exec (.getMeasurements i) s = .next (s.emit (.answer 0 (s.measBlock i)))) ∧
      (∀ i, 16 < i → i ≠ 0xFF → exec (.getMeasurements i) s = .next (s.emit (.answer 0 (Config.spdmAnswer (leBytes i 1))))) ∧
      (exec (.getMeasurements 0xFF) s = .next (s.emit (.answer 0 ((List.range 16).flatMap (fun i => s.measBlock (i + 1)))))) ∧
      (∀ conn d, (Map.get [] s.sec.hashes conn).contains d = true → exec (.cosign conn d) s = .next
        (s.emit (.answer conn (((Config.signatureBlock spdmCtx d).drop 384).take 16224)))) ∧
      (∀ conn d, (Map.get [] s.sec.hashes conn).contains d = false → exec (.cosign conn d) s = .next
        ((s.secCode 0x040E).emit (.answer conn (leBytes 0x040E 2)))) ∧
      (exec .getCocert s = .next (s.emit (.answer 0 Config.coCert))) ∧
      (∀ (c : CidT) (n : BitVec 256), exec (.compReport c n) s = .next (s.emit (.answer 0
        (s.compReport c.val n ++ Config.signatureBlock reportCtx (Config.sha384 (s.compReport c.val n)))))) ∧
      (∀ conn bs b, (nth 0 bs 1).toNat = 0xE4 → 8 ≤ s.sec.sessions.length →
        exec (.spdmRequest conn bs b) s = .next (s.emit (.answer conn (leBytes 0x000A7F13 4)))) ∧
      (∀ conn bs b, (nth 0 bs 1).toNat ≠ 0xE4 ∨ s.sec.sessions.length < 8 →
        let code := (nth 0 bs 1).toNat
        let ss := if code = 0xE4 then s.sec.sessions ++ [conn] else if code = 0xEC then s.sec.sessions.erase conn else s.sec.sessions
        let hs := if b then Map.upd [] conn (fun l => (Config.spdmTranscript bs :: l).take 4) s.sec.hashes else s.sec.hashes
        exec (.spdmRequest conn bs b) s = .next (({ s with sec := { s.sec with sessions := ss, hashes := hs } } : State).emit
          (.answer conn (Config.spdmAnswer bs))))) ∧
    (s.sec.recovery = true → ∀ i conn d c n bs b, exec (.getMeasurements i) s = .next s ∧ exec (.cosign conn d) s = .next s ∧
      exec .getCocert s = .next s ∧ exec (.compReport c n) s = .next s ∧ exec (.spdmRequest conn bs b) s = .next s) ∧
    (s.sec.recovery = false → s.secAway = true →
      let kept (q : SpdmReq) : State := { s with sec := { s.sec with waits := s.sec.waits ++ [q] } }
      ∀ i conn d c n bs b, exec (.getMeasurements i) s = .next (kept (.measurements i)) ∧ exec (.cosign conn d) s = .next (kept (.cosign conn d)) ∧
        exec .getCocert s = .next (kept .cocert) ∧ exec (.compReport c n) s = .next (kept (.report c.val n)) ∧
        exec (.spdmRequest conn bs b) s = .next (kept (.other conn bs b))) ∧
    (∀ w, ∃ t, exec (.tcWindowUpdate w) s = .next t ∧ t.sec.tcPower = min 65535 w / 50 * 50 ∧
      (s.canon = true → ∀ x i, Map.wf 0 (s.ctx x).raw = true →
        Map.get 0 (t.ctx x).pub i = (Map.get 0 (s.ctx x).raw i >>> 10) <<< 10 ∧ (t.ctx x).st = (s.ctx x).st))

/-- The root of trust, and attestation. -/
def Obligations.TrustAndAttestation : Prop := Clauses.RootOfTrust ∧ Clauses.Attestation

/-- R297, R299, R342: with the port up, a host access to an interleave-set slot of an assigned function that a VALID LOCAL range of its client
allows reads or writes the sector, whole or in part, under the range's key, and any other is denied: counted, with zeros as poison for a read; a
read of the submission region answers its bytes, and a write is the notice of its line. -/
def Obligations.HostViewAccesses : Prop :=
  ∀ (s : State) (h : HPort) (f : Func) (addr : Nat) (d m : BitVec 512) (tee : Bool),
    let k := clientOf h.val f.val
    let a := addr % 2 ^ 39 / 64 * 64
    let found (w : Bool) := (s.hostviewEntry k (addr / 2 ^ 39) a w).bind (fun e =>
      ((s.comp (s.ctx e.1).cid).chanAt (eAux e.2) a).map (fun l => (e.2, l)))
    let denied : State := ({ s with sec := { s.sec with denyHost := s.sec.denyHost + 1 } } : State).secCode 0x040A
    let put (e : BitVec 256) (ch : Nat) : State := ((s.cacheKey (ch / 4) (eKeysel e)).direct ch 2).updHport h.val (fun p =>
      { p with rxBytes := p.rxBytes + 64 })
    (f.val ≠ 0 → (s.fn k).valid = true → s.hostUp h.val = true → 2 ^ 45 ≤ addr → addr < 2 ^ 45 + 2 ^ 30 →
      let l := (addr - 2 ^ 45) / 64
      let x := bytesLine ((s.fn k).region.rdN (64 * l) 64)
      exec (.hostviewAccess h f addr false d m tee .clean) s = .next ((s.hostTx h.val 64).emit (.data x false)) ∧
      exec (.hostviewAccess h f addr true d m tee .clean) s = .next
        ((s.lineNotice k l ((x &&& ~~~m) ||| (d &&& m))).emit (.ack 0))) ∧
    (f.val ≠ 0 → (s.fn k).valid = true → addr < 2 ^ 45 → s.hostUp h.val = true → (s.fn k).tdi ≠ .run ∨ tee = true →
    (∀ e ch i, found true = some (e, ch, i) → exec (.hostviewAccess h f addr true d (BitVec.allOnes 512) tee .clean) s = .next
      (((put e ch).wrSectorErr ch i (eKeysel e) 2 d .clean).emit (.ack 0))) ∧
    (∀ e ch i, found true = some (e, ch, i) → m ≠ BitVec.allOnes 512 → exec (.hostviewAccess h f addr true d m tee .clean) s = .next
      (((put e ch).wrPartial ch i (eKeysel e) 2 d m .clean).2.emit (.ack 0))) ∧
    (∀ e ch i, found false = some (e, ch, i) → exec (.hostviewAccess h f addr false d m tee .clean) s = .next
      (let t := ((s.cacheKey (ch / 4) (eKeysel e)).direct ch 2).rdSector ch i (eKeysel e) 2 .clean
       (t.2.2.updHport h.val (fun p => { p with txBytes := p.txBytes + 64 })).emit (.data t.1 t.2.1))) ∧
    (found true = none → exec (.hostviewAccess h f addr true d m tee .clean) s = .next (denied.emit (.ack 0))) ∧
    (found false = none → exec (.hostviewAccess h f addr false d m tee .clean) s = .next (denied.emit (.data 0 true))))

/-! ## Metering -/

/-- R353 to R357: a good die-line frame shows the pail its four partitions and ends the loss of the line, one with DOWN shows none of them; a
port-line frame shows the functions or a row of granules; a line that is lost is marked and reported. -/
def Clauses.PailLines : Prop :=
  ∀ s : State, s.pail.st ≠ .absent →
    (∀ (d : Fin 16) (down : Bool), exec (.dieLineFrame d down true) s = .next
      ((s.updPail (fun p => { p with lineLost := clrBit p.lineLost d.val })).each (List.range 4) (fun s q =>
        s.pailPart (4 * d.val + q) (if down then {} else s.lineOf (4 * d.val + q))))) ∧
    (∀ (d : Fin 16) (down : Bool), exec (.dieLineFrame d down false) s = .next s) ∧
    (∀ i : Fin 4, exec (.portLineFrame i 2048 true) s = .next (s.each (List.range 256) (fun s c =>
      s.pailBit true (256 * i.val + c) c (64 + i.val) 0 (s.hostHeld i.val c)))) ∧
    (∀ (i : Fin 4) (row : Nat),
      let t := s.each (List.range 256) (fun s c =>
        s.pailBit false (256 * (2048 * i.val + row) + c) c (68 + i.val) row (s.granHeld i.val row c))
      (row < 2047 → exec (.portLineFrame i row true) s = .next t) ∧
      (row = 2047 → exec (.portLineFrame i row true) s = .next (t.updPail (fun p => { p with lineLost := clrBit p.lineLost (16 + i.val) })))) ∧
    (∀ l : Fin 20, exec (.lineLost l) s = .next ((s.updPail (fun p =>
      { p with lineLost := setBit p.lineLost l.val, lostSince := true })).mtrCode 0x0804))

/-- R358 to R363: a METERED pail that signs nothing closes a PERIODIC record, and an EVENT record when its FIFO holds entries; a record being signed
delays the PERIODIC one; a signed record is appended, and a START record makes the pail METERED; labels are kept and their absence is
reported; acknowledged records go at 75 % of the journal; MTR_ACK moves forward up to MTR_SEQ. -/
def Obligations.PailRecords : Prop :=
  ∀ s : State,
    (s.pail.st = .metered →
      (s.pail.signing = none → exec .periodicClose s = .next (s.updPail Pail.closePeriodic)) ∧
      (∀ r, s.pail.signing = some r → exec .periodicClose s = .next (s.updPail (fun p => { p with periodicDue := true }))) ∧
      (s.pail.signing = none → s.pail.fifo ≠ [] → s.pail.periodicDue = false → exec .eventClose s = .next (s.updPail Pail.closeEvent)) ∧
      (s.pail.signing = none → pailLimit ≤ s.pail.used →
        let l := s.pail.records.filter (fun r => decide (s.pail.ack < r.seq))
        recsSize l ≤ pailLimit →
        exec .pailCompaction s = .next (s.updPail (fun p => { p with records := l, used := recsSize l, thinning := false })))) ∧
    (∀ r, s.pail.signing = some r → s.pail.periodicDue = false →
      let t := s.updPail (fun p => { p with
        signing := none, records := p.records ++ [r], used := p.used + r.size, seq := r.seq, lastDigest := r.digest })
      (r.kind ≠ 3 → exec .recordDurable s = .next t) ∧
      (r.kind = 3 → exec .recordDurable s = .next (((t.updPail (fun p => { p with st := .metered })).mtrCode 0x080A).measureMeter))) ∧
    (s.pail.signing = none → exec .recordDurable s = .next s) ∧
    (∀ c : CidT, s.pail.st ≠ .absent →
      let g := s.pail.genOf c.val
      let b := frmBody (s.comp c.val).frames 13 0
      ((s.comp c.val).st ≠ .free → exec (.labelReceive c) s = .next (s.updPail (fun p => p.updAcct c.val (s.comp c.val).gen (fun a =>
        { a with labelled := true, labelMissing := false, profile := fle b 0 2, quantities := fle b 2 1,
                 contract := BitVec.ofNat 128 (fle b 8 16) })))) ∧
      ((s.pail.acct c.val g).tracked = true → (s.pail.acct c.val g).labelled = false → exec (.labelTimeout c) s = .next
        ((s.updPail (fun p => p.updAcct c.val g (fun a => { a with labelMissing := true }))).mtrCode 0x0808))) ∧
    (∀ v : Word64, s.pail.ack ≤ v.toNat → v.toNat ≤ s.pail.seq →
      exec (.mtrAck v) s = .next (s.updPail (fun p => { p with ack := v.toNat }))) ∧
    (∀ v : Word64, v.toNat < s.pail.ack ∨ s.pail.seq < v.toNat → exec (.mtrAck v) s = .next s)

/-- R364 to R366: the pail that is removed is ABSENT, and one that is seated is STARTING; a self-test that passes with the seal closed begins a
chain, one that fails is a FAULT, an open seal UNSEALED; a valid SEAL token begins a new chain; an oscillator beyond its second limit is a
FAULT, and beyond its first is marked. -/
def Clauses.PailStates : Prop :=
  ∀ s : State,
    (s.pail.present = true → ∃ t, exec .mdPresentFall s = .next t ∧ t.pail.st = .absent ∧ t.pail.present = false ∧ t.pail.records = [] ∧
      t.pail.lastCode = 0x0801) ∧
    (s.pail.present = false → ∃ t, exec .mdPresentRise s = .next t ∧ t.pail.st = .starting ∧ t.pail.present = true ∧
      t.pail.fitted = s.pail.fitted + 1) ∧
    (∀ ppm, s.pail.st = .starting → s.pail.signing = none →
      (exec (.pailSelfTestDone false ppm) s = .next (s.pailTo .fault 0x0802)) ∧
      (s.oscBand.2 < ppm → exec (.pailSelfTestDone true ppm) s = .next (s.pailTo .fault 0x0802)) ∧
      (ppm ≤ s.oscBand.2 → s.pail.unsealed = true ∨ s.pail.sealOpen = true →
        exec (.pailSelfTestDone true ppm) s = .next (s.pailTo .unsealed 0x0803)) ∧
      (ppm ≤ s.oscBand.2 → s.pail.unsealed = false → s.pail.sealOpen = false →
        exec (.pailSelfTestDone true ppm) s = .next (s.updPail (fun p => { p with oscFault := decide (s.oscBand.1 < ppm) }.startChain)))) ∧
    (s.pail.st ≠ .absent →
      (exec .sealOpen s = .next ((s.updPail (fun p => { p with sealOpen := true, unsealed := true })).pailTo .unsealed 0x0803)) ∧
      (exec (.sealToken false) s = .next (s.mtrCode 0x0809)) ∧
      (s.pail.st = .unsealed → exec (.sealToken true) s = .next (s.updPail Pail.startChain))) ∧
    (∀ ppm, s.pail.st = .metered →
      (s.oscBand.2 < ppm → exec (.oscCheck ppm) s = .next (s.pailTo .fault 0x0802)) ∧
      (ppm ≤ s.oscBand.2 → s.oscBand.1 < ppm → exec (.oscCheck ppm) s = .next
        ((s.updPail (fun p => { p with oscFault := true })).mtrCode 0x0805)) ∧
      (ppm ≤ s.oscBand.2 → ppm ≤ s.oscBand.1 → exec (.oscCheck ppm) s = .next (s.updPail (fun p => { p with oscFault := false }))))

/-- The lines and states of the metering die. -/
def Obligations.PailLinesAndStates : Prop := Clauses.PailLines ∧ Clauses.PailStates

/-! ## Power -/

/-- R375, R376, R383, Table 18.1: while PWR runs, a powered FREE partition beyond WARM, or while step 4 applies, is gated off and loses its
memory; a WARM one is powered up on sound rails; while PWR does not run neither is; WARM takes a value up to 64. -/
def Clauses.Gating : Prop :=
  ∀ (s : State) (p : PartId),
    (s.pwrRuns = true → (s.part p.val).st = .free → (s.part p.val).logicOn = true →
      s.gatesAll = true ∨ s.pwr.warm < s.warmCount ∧ s.warmOne p.val = false →
      exec (.gateFreePartition p) s = .next (((s.each (List.range 8) (fun s k => s.updChan (8 * p.val + k) (fun c =>
        if c.st = .failed then c else { c with st := .off, secs := [] }))).updPart p.val (fun x =>
          { x with logicOn := false, retOn := false })).setClock p.val 0 0)) ∧
    (s.pwrRuns = true → (s.part p.val).st = .free → (s.part p.val).logicOn = false → s.warmOne p.val = true → s.gatesAll = false → s.railsOk p.val = true →
      exec (.warmPowerUp p) s = .next (((s.each (List.range 8) (fun s k => s.updChan (8 * p.val + k) (fun c =>
        if c.st = .failed then c else { c with st := .ready, secs := [] }))).updPart p.val (fun x =>
          { x with logicOn := true, retOn := true })).setClock p.val 400 1)) ∧
    (s.pwrRuns = false → exec (.gateFreePartition p) s = .next s ∧ exec (.warmPowerUp p) s = .next s) ∧
    (∀ v : Word32, bits v 6 0 ≤ 64 → exec (.pwrGateCtlWrite v) s = .next
      (({ s with pwr := { s.pwr with warm := bits v 6 0 } } : State).journal (.setting .warm (bits v 6 0)))) ∧
    (∀ v : Word32, 64 < bits v 6 0 → exec (.pwrGateCtlWrite v) s = .next s)

/-- R370 to R372, R386: an input below or above its limits starts the loss sequence once: NODE_DOWN goes out, the compute dies, the PHY domains
and the rails go off, the loss is journaled and MOD_PWRGD goes low; the standby converter's stop after it halts the cores; the other input
conditions are reported, an overcurrent with the clocks lowered; FLOW_OK low abandons the jobs and takes the compute dies off, and its return
brings a held partition back. -/
def Clauses.InputAndCoolant : Prop :=
  ∀ s : State,
    (s.pwr.inputLost = false → s.boot.phase ≠ .standby →
      let lost (cond code : Nat) : State :=
        let t := ((((s.pwrCode code 0).sendNodeDown.computeOff none true false 9).phyOff).railsOff 68).journal (.loss cond code)
        ({ t with pwr := { t.pwr with inputLost := true, mainOn := false }, boot := { t.boot with pwrgd := false, needReset := true } } : State).emit
          (.pin 1 0 false)
      exec .inputUndervolt s = .next (lost 1 0x0501) ∧ exec .inputOvervolt s = .next (lost 2 0x0502)) ∧
    (s.pwr.inputLost = true ∨ s.boot.phase = .standby → exec .inputUndervolt s = .next s ∧ exec .inputOvervolt s = .next s) ∧
    (exec .inputHigh s = .next (s.pwrCode 0x0510 0)) ∧ (exec .inletHot s = .next (s.pwrCode 0x050F 0)) ∧
    (exec .inputOvercurrent s = .next ((s.each ((s.parts.filter (fun e => e.2.logicOn)).map (fun e => e.1)) (fun s p =>
      if s.holdOf p = 0 then s.setClock p 400 1 else s.setClock p (s.holdOf p) 8)).pwrCode 0x050C 0)) ∧
    (s.pwr.inputLost = true →
      let t := s.each (List.range 4) (fun s i => s.setDom (domMgmt i) false)
      exec .standbyStop s = .next { t with
        pwr := { t.pwr with standby := false }, boot := { t.boot with phase := .standby }
        jrn := { t.jrn with writer := 0, waiting := [], compacting := false }
        fw := { t.fw with cores := Map.mapV {} (fun i x => if t.domOn (domMgmt (coreDie i)) then x else { x with st := .halted }) t.fw.cores } }) ∧
    (s.pwr.inputLost = false → exec .standbyStop s = .next s) ∧
    (let t := ((({ s with pwr := { s.pwr with flowOk := false } } : State).pwrCode 0x0509 0).each (s.fab.jobs.map (fun e => e.1)) (fun s c =>
       s.sendAbandon c)).computeOff (some .coolant) false true 8
     (t.boot.phase = .partitions → exec .flowOkLow s = .next { t with boot := { t.boot with phase := .waitFlow } }) ∧
     (t.boot.phase ≠ .partitions → exec .flowOkLow s = .next t)) ∧
    (∀ (p : PartId) (b : BitVec 69), s.boot.resetRel = false ∨ s.pwr.mainOn = false ∨ s.boot.replayed = false →
      exec (.flowOkRestore p b) s = .next { s with pwr := { s.pwr with flowOk := true } }) ∧
    (∀ (p : PartId) (b : BitVec 69), s.boot.resetRel = true → s.pwr.mainOn = true → s.boot.replayed = true →
      let t : State := { s with pwr := { s.pwr with flowOk := true } }
      let u := if t.boot.computeOn then t else t.railsOn
      ((u.part p.val).holds.contains .coolant = true → exec (.flowOkRestore p b) s = .next
        (((u.failUnits p.val b 8).updPart p.val (fun x => x.dropHold .coolant)).bringBack p.val (b.extractLsb' 0 8) false)) ∧
      ((u.part p.val).holds.contains .coolant = false → exec (.flowOkRestore p b) s = .next u))

/-- Gating, the input and the coolant. -/
def Obligations.GatingInputAndCoolant : Prop := Clauses.Gating ∧ Clauses.InputAndCoolant

/-- R374, R380: a shorted rail stops for good, with the partitions it feeds reset and unpowered, or, of an I/O die, its ports down and MOD_PWRGD
low, or, of VSTBY, the loss sequence; a phase short derates its rail, and one too many stops it; an open sense line caps the islands; a failed
sensor is marked, and a partition without any runs at its hold clock; a droop is counted and at the limit raises the setpoint up to 0.90 V, which
returns. -/
def Obligations.RailsSensorsAndDroop : Prop :=
  ∀ s : State, s.canon = true →
    (∀ r : Fin 69, (s.rail r.val).st ≠ .shorted →
      let t := (s.updRail r.val (fun x => { x with st := .shorted })).pwrCode 0x0505 r.val
      let u := t.each (railParts r.val) (fun s p =>
        ((if (s.part p).st = .offline ∨ (s.part p).st = .degraded then s else s.partStep p 0x0201 9 s.now 0 false).updPart p (fun x =>
          { x with logicOn := false, retOn := false })).setClock p 0 0)
      let i := r.val - 64
      (r.val < 16 ∨ 32 ≤ r.val → r.val < 64 → exec (.railShort r) s = .next u) ∧
      (16 ≤ r.val → r.val < 32 → exec (.railShort r) s = .next (u.routersOff (r.val - 16))) ∧
      (64 ≤ r.val → r.val < 68 →
        let v := t.linkDown i
        let v := if (v.farP i).st = .down then v else v.farLeave i
        let v := (v.each ((List.range 8).map (fun j => 8 * i + j)) (fun s f =>
          if (s.fport f).st = .down then s else (s.fabLeave f).updFport f (fun x => { x with st := .down }))).setPhys i false
        exec (.railShort r) s = .next (({ v with boot := { v.boot with pwrgd := false } } : State).emit (.pin 1 0 false))) ∧
      (r.val = 68 → exec (.railShort r) s = .next (t.inputLoss 1 0x0505).standbyStop)) ∧
    (∀ r : Fin 69, (s.rail r.val).st = .shorted → exec (.railShort r) s = .next s) ∧
    (∀ r : Fin 69, 16 ≤ r.val → (s.rail r.val).st ≠ .shorted → exec (.phaseShort r) s = .next ((s.updRail r.val (fun x =>
      { x with phasesOut := x.phasesOut + 1, st := .derated })).pwrCode 0x0504 r.val)) ∧
    (∀ r : Fin 69, r.val < 16 → (s.rail r.val).st ≠ .shorted →
      let t := (s.updRail r.val (fun x => { x with phasesOut := x.phasesOut + 1, st := .derated })).pwrCode 0x0504 r.val
      (7 < (t.rail r.val).phasesOut ∨ t.dieLimit r.val < t.dieHeld r.val → exec (.phaseShort r) s = .next (t.railShort r.val)) ∧
      ((t.rail r.val).phasesOut ≤ 7 → t.dieHeld r.val ≤ t.dieLimit r.val → exec (.phaseShort r) s = .next t)) ∧
    (∀ r : Fin 69, (s.rail r.val).st ≠ .shorted → exec (.senseOpen r) s = .next
      (let t := (s.updRail r.val (fun x => { x with st := .localSense })).pwrCode 0x0506 r.val
       t.each (railIslands r.val) (fun s i => s.updIsl i (fun x =>
        { x with set := min x.set (max (s.islMin i) (s.fmaxOf i * 9 / 10 / 25 * 25)) })))) ∧
    (∀ i : Fin 4185,
      (exec (.tsensorTest i .good) s = .next (s.updIsl i.val (fun x => { x with sensorFault := false }))) ∧
      (3904 ≤ i.val → exec (.tsensorTest i .openWire) s = .next ((s.updIsl i.val (fun x => { x with sensorFault := true })).pwrCode 0x0507
        i.val)) ∧
      (3904 ≤ i.val → exec (.tsensorTest i .shorted) s = .next ((s.updIsl i.val (fun x => { x with sensorFault := true })).pwrCode 0x0508
        i.val)) ∧
      (∀ w, w = .openWire ∨ w = .shorted → i.val < 3904 →
        let t := (s.updIsl i.val (fun x => { x with sensorFault := true })).pwrCode (if w = .openWire then 0x0507 else 0x0508) i.val
        (t.sensorless (i.val / 61) = true → t.holdOf (i.val / 61) ≠ 0 → exec (.tsensorTest i w) s = .next
          (t.setClock (i.val / 61) (t.holdOf (i.val / 61)) 8)) ∧
        (t.sensorless (i.val / 61) = false ∨ t.holdOf (i.val / 61) = 0 → exec (.tsensorTest i w) s = .next t)) ∧
      (i.val < 3904 → exec (.droop i false) s = .next (s.updIsl i.val (fun x => { x with droops := min 255 (x.droops + 1) }))) ∧
      (i.val < 3904 →
        let t := s.updIsl i.val (fun x => { x with droops := min 255 (x.droops + 1) })
        let d := i.val / 244
        exec (.droop i true) s = .next ((t.updRail d (fun x =>
          if t.vcoreBase d + x.raise_ + 10 ≤ 900 then { x with raise_ := x.raise_ + 10 } else x)).pwrCode 0x050E i.val))) ∧
    (∀ r : Fin 69, exec (.droopSetpointReturn r) s = .next (s.updRail r.val (fun x => { x with raise_ := 0 })))

/-- R378, R382, R383, R385, Table 18.1: an ageing monitor that reads lower lowers FMAX, retires a unit below 1600 MHz, and keeps the lowering for
a held partition; a mean input power above the cap lowers the clocks by a notch or applies the next step, below 95 % for 100 ms withdraws the
last, and neither while PWR does not run; PWR_CAP takes the nearer limit; a junction above 95 °C and below T_crit lowers its island's clock by
one step, not below its hold clock. -/
def Obligations.AgeingCapsAndJunctions : Prop :=
  ∀ s : State, s.canon = true →
    (∀ (i : Fin 4185) (mhz : Nat), s.pwrRuns = false → exec (.ageingRead i mhz) s = .next s) ∧
    (∀ (i : Fin 4185) (mhz : Nat), i.val < 3936 → s.pwrRuns = true →
      let v := (mhz - 50) / 25 * 25
      let t := ((s.updIsl i.val (fun x => { x with
        fmax := some v, deferred := none, set := min x.set (if 3904 ≤ i.val ∧ i.val < 3936 then max 1000 v else v) })).journal
          (.fmax i.val v)).pwrCode 0x050D i.val
      (v < s.fmaxOf i.val → s.islHold i.val ≤ v → 1600 ≤ v ∨ 3904 ≤ i.val → exec (.ageingRead i mhz) s = .next t) ∧
      (v < s.fmaxOf i.val → s.islHold i.val ≤ v → v < 1600 → i.val < 3904 → exec (.ageingRead i mhz) s = .next (t.retireUnit i.val true 6)) ∧
      (v < s.fmaxOf i.val → v < s.islHold i.val → exec (.ageingRead i mhz) s = .next (s.updIsl i.val (fun x =>
        { x with deferred := some (match x.deferred with | none => v | some w => min v w) }))) ∧
      (s.fmaxOf i.val ≤ v → exec (.ageingRead i mhz) s = .next s)) ∧
    (∀ w : Nat,
      let t : State := { s with pwr := { s.pwr with watts := min 65535 w } }
      let u : State := { t with pwr := { t.pwr with lowSince := none } }
      (s.pwrRuns = false → exec (.capCheck w) s = .next t) ∧ (s.pwrRuns = true →
      (t.capEff < w → s.pwr.step = 0 → exec (.capCheck w) s = .next (u.applyStep 1)) ∧
      (t.capEff < w → 2 ≤ s.pwr.step → u.boundParts.any u.aboveHold = true → exec (.capCheck w) s = .next
        (({ u with pwr := { u.pwr with stepAt := s.now } } : State).lowerNotch)) ∧
      (t.capEff < w → 0 < s.pwr.step → s.pwr.step < 2 ∨ u.boundParts.any u.aboveHold = false →
        (s.pwr.step < 6 → s.pwr.stepAt + 1000000 ≤ s.now → exec (.capCheck w) s = .next (u.applyStep (s.pwr.step + 1))) ∧
        (6 ≤ s.pwr.step ∨ s.now < s.pwr.stepAt + 1000000 → exec (.capCheck w) s = .next u)) ∧
      (w ≤ t.capEff → 100 * w < 95 * t.capEff → s.pwr.lowSince = none → exec (.capCheck w) s = .next
        { t with pwr := { t.pwr with lowSince := some s.now } }) ∧
      (∀ b, w ≤ t.capEff → 100 * w < 95 * t.capEff → s.pwr.lowSince = some b → b + 100000000 ≤ s.now → 0 < s.pwr.step →
        exec (.capCheck w) s = .next (({ t with pwr := { t.pwr with lowSince := some s.now } } : State).dropStep s.pwr.step)) ∧
      (w ≤ t.capEff → 95 * t.capEff ≤ 100 * w → exec (.capCheck w) s = .next u))) ∧
    (∀ v : Word32,
      let w := max 1000 (min 11500 (bits v 15 0))
      let t := ({ s with pwr := { s.pwr with cap := w } } : State).journal (.setting .pwrCap w)
      (t.pFloor ≤ w → exec (.pwrCapWrite v) s = .next t) ∧ (w < t.pFloor → exec (.pwrCapWrite v) s = .next (t.pwrCode 0x050B 0))) ∧
    (∀ (i : Fin 4185) (c : Nat), i.val < 3904 → (s.isl i.val).sensorFault = false → (s.isl i.val).fellAt = none →
      95 < c → c < 105 → s.pwr.crit = false → s.pwr.trip = [] → ∃ t, exec (.junctionRead i c) s = .next t ∧ (t.isl i.val).temp = c ∧
        (t.isl i.val).hot = true ∧ (t.isl i.val).fellAt = some s.now ∧
        (t.isl i.val).set = (if max 400 (s.islHold i.val) + 25 ≤ (s.isl i.val).set then (s.isl i.val).set - 25 else (s.isl i.val).set))

/-! ## Recovery -/

/-- R390 to R392, R156: the watchdogs. A non-pre-emptible overrun, a stop that is not answered and a unit that makes no progress start an engine
step of their unit; a frame load that does not end starts a partition step and fails its bind or re-bind; a step that overruns goes to the next
wider one. -/
def Obligations.Watchdogs : Prop :=
  ∀ s : State,
    (∀ u : UnitId, s.npRunning u.val = true → exec (.npOverrun u) s = .next (s.startStep .engine u.val 2)) ∧
    (∀ u : UnitId, s.npRunning u.val = false → exec (.npOverrun u) s = .next s) ∧
    (∀ u : UnitId, (s.unit u.val).st = .stopping → exec (.stopTimeout u) s = .next (s.startStep .engine u.val 4)) ∧
    (∀ u : UnitId, (s.unit u.val).st ≠ .stopping → exec (.stopTimeout u) s = .next s) ∧
    (∀ u : UnitId, s.mustProgress u.val = true → exec (.noProgress u) s = .next (s.startStep .engine u.val 6)) ∧
    (∀ u : UnitId, s.mustProgress u.val = false → exec (.noProgress u) s = .next s) ∧
    (∀ (c : CidT) (p : PartId) (o : CompOp), (s.comp c.val).op = some o → o.loads.any (fun l => l.1 == p.val) = true →
      let t := s.startStep .partition p.val 3
      ((t.comp c.val).op.isSome = true → o.kind ≠ .restore → o.kind ≠ .unbind →
        exec (.loadOverrun c p) s = .next (t.undo c.val 0x0201 0x0201)) ∧
      ((t.comp c.val).op = none ∨ o.kind = .restore ∨ o.kind = .unbind → exec (.loadOverrun c p) s = .next t)) ∧
    (∀ (n : Nat) (x : StepIn),
      let done (l : LStep) : State := (s.stepDone l n).fltLast x.cause (LStep.num l) 2 n x.at_
      (s.stepOn .context n = some x → exec (.stepTimeout .context n) s = .next
        ((done .context).each (s.ctxUnits n) (fun s u => s.startStep .engine u 7))) ∧
      (s.stepOn .engine n = some x → exec (.stepTimeout .engine n) s = .next ((done .engine).startStep .partition (ukind n).part 7)) ∧
      (s.stepOn .partition n = some x → exec (.stepTimeout .partition n) s = .next ((done .partition).startStep .module 0 7)) ∧
      (s.stepOn .module n = some x → exec (.stepTimeout .module n) s = .next ((done .module).startStep .powerCycle 0 7)))

/-- R395 to R400, R405, R406: a context step waits for what its units run, then takes the context from its stages, breaks off its barriers, drops
its saves and counts; an engine step takes the ladle, resets its unit and loads its program again, counts, and retires a unit that fails or has
had three in 24 h; a partition step takes its partition offline, retires what fails, counts and brings it back; a module step takes the module
down, boots it and brings it up, the third in 1 h or one without HLT asking for a power cycle, which sends NODE_DOWN, takes the compute dies off
and asks the tray; a spare takes the place of a retired engine of a BOUND partition, and a derivation that fails costs the partition. -/
def Obligations.LadderSteps : Prop :=
  ∀ s : State,
    (∀ (x : XidT) (cause : Fin 16),
      let t := s.startStep .context x.val cause.val
      let r := t.restUnits x.val cause.val
      let at_ := match s.stepOn .context x.val with | some w => w.at_ | none => s.now
      (r.1 = false → exec (.contextStep x cause) s = .next r.2) ∧
      (r.1 = true → (r.2.ctx x.val).st = .resetting →
        let c := (r.2.ctx x.val).cid
        let lps := (r.2.heldOn x.val).flatMap (r.2.comp c).lpsOf
        let a := r.2.leaveAll x.val
        let b : State := { a with bars := Map.mapV {} (fun j b =>
          if j / 32 = c ∧ b.members.any (fun l => lps.contains (lrefPart l)) = true then
            { b with count := 0, arriving := 0, src := [], waiting := [] } else b) a.bars }
        let d := (b.updCtx x.val (fun k => { k with saved := [], raw := [], pub := [] })).ctxIdle x.val
        let e : State := { d with flt := { d.flt with nCtx := sat 0xFFFF (d.flt.nCtx + 1) } }
        exec (.contextStep x cause) s = .next ((e.stepDone .context x.val).fltLast cause.val 1 1 x.val at_).health) ∧
      (r.1 = true → (r.2.ctx x.val).st ≠ .resetting → exec (.contextStep x cause) s = .next (r.2.stepDone .context x.val))) ∧
    (∀ (u : UnitId) (cause : Fin 16) (b r : Bool),
      let t := s.startStep .engine u.val cause.val
      let at_ := match s.stepOn .engine u.val with | some w => w.at_ | none => s.now
      (t.stepOn .engine u.val = none → exec (.engineStep u cause b r) s = .next t) ∧
      ((t.stepOn .engine u.val).isSome = true →
        let a := match ukind u.val with
          | .eng p e => if t.flt.ladled.contains u.val then t else t.takeLadle p e cause.val 2 r
          | _ => t
        let a := a.stageLost u.val cause.val
        let a := match ukind u.val with | .st p v => a.each (a.issues p v) (fun s w => s.resetOne w) | _ => a
        let a := (a.resetOne u.val).loadProg u.val
        let a := a.updUnit u.val (fun x => { x with steps24 := within a.now 86400000000000 x.steps24 })
        let a : State := { a with flt := { a.flt with nEng := sat 0xFFFF (a.flt.nEng + 1), ladled := a.flt.ladled.filter (fun x => x != u.val) } }
        (b = true → (a.unit u.val).steps24.length < 3 → exec (.engineStep u cause b r) s = .next
          ((a.stepDone .engine u.val).fltLast cause.val 2 1 u.val at_).health) ∧
        (b = false ∨ 3 ≤ (a.unit u.val).steps24.length → exec (.engineStep u cause b r) s = .next
          (((a.retireUnit u.val false cause.val).stepDone .engine u.val).fltLast cause.val 2 3 u.val at_).health))) ∧
    (∀ (p : PartId) (cause : Fin 16) (b : BitVec 69) (r : Bool), s.roleHalted 5 = false →
      let t := s.startStep .partition p.val cause.val
      let at_ := match s.stepOn .partition p.val with | some w => w.at_ | none => s.now
      (t.stepOn .partition p.val = none → exec (.partitionStep p cause b r) s = .next t) ∧
      ((t.stepOn .partition p.val).isSome = true →
        let a := if (t.part p.val).st = .offline then t.failUnits p.val b cause.val
          else if (t.part p.val).st = .degraded then ((t.resetPart p.val).testDegraded p.val (b.extractLsb' 0 8)).failUnits p.val b cause.val
          else (t.takeOffline p.val 0x0201 cause.val true).failUnits p.val b cause.val
        let a : State := { a with flt := { a.flt with nPart := sat 0xFFFF (a.flt.nPart + 1),
                                                      ladled := a.flt.ladled.filter (fun u => decide ((ukind u).part ≠ p.val)) } }
        exec (.partitionStep p cause b r) s = .next
          ((((a.bringBack p.val (b.extractLsb' 0 8) r).stepDone .partition p.val).fltLast cause.val 3 1 p.val at_).health))) ∧
    (∀ (cause : Fin 16) (l : List Nat),
      let times := within s.now 3600000000000 s.flt.mod1h
      let at_ := match s.stepOn .module 0 with | some w => w.at_ | none => s.now
      (s.roleHalted 5 = true → exec (.moduleStep cause l) s = exec (.powerCycle cause) s) ∧
      (s.roleHalted 5 = false → 3 ≤ times.length →
        exec (.moduleStep cause l) s = exec (.powerCycle 12) (s.fltLast cause.val 4 2 0 at_)) ∧
      (s.roleHalted 5 = false → times.length < 3 →
        let t := (({ s with flt := { s.flt with mod1h := times } } : State).moduleDown cause.val).moduleBoot.moduleUp l
        exec (.moduleStep cause l) s = .next (t.fltLast cause.val 4 1 0 at_).health)) ∧
    (∀ cause : Fin 16, s.flt.pwrCycleReq = false →
      let t := ((s.journal (.cause cause.val)).sendNodeDown).computeOff none false false cause.val
      exec (.powerCycle cause) s = .next ((({ t with flt := { t.flt with pwrCycleReq := true, steps := [] } } : State).fltLast cause.val 5 1 0
        t.now).emit (.pin 0 0 true))) ∧
    (∀ cause : Fin 16, s.flt.pwrCycleReq = true → exec (.powerCycle cause) s = .next s) ∧
    (∀ (p : PartId) (e : EngId) (n : Nat) (rest : List Nat) (u : UnitId), u.val = uEng p.val e.val → (s.unit u.val).retired = true →
      (s.part p.val).meMap.contains e.val = true → (s.part p.val).meSpare = n :: rest → n < 38 → (s.part p.val).st = .bound →
      (s.comp (s.part p.val).cid).op = none → s.roleHalted 1 = false →
      let c := (s.part p.val).cid
      let t := ((s.updPart p.val (fun x => { x with meMap := x.meMap.map (fun y => if y = e.val then n else y),
                                                    meSpare := x.meSpare.erase n })).moveRecord u.val (uEng p.val n)).journalSpares p.val
      let ents := t.treesOf c (t.comp c).frames (t.comp c).place
      (t.treesCode c ents = 0 → exec (.spareSubstitute u) s = .next (t.installTrees c ents)) ∧
      (t.treesCode c ents ≠ 0 → exec (.spareSubstitute u) s = .next (t.losePart p.val 6)))

/-! ## Firmware and the journal -/

/-- R332, R411 to R415: a core that misses its heartbeat, or is asked to, restarts, and at its first heartbeat, in its turn, runs its role's
active image where that passes its checks; an image goes to the inactive copy with the code of its checks, and the directory is written; an
activation of a VALID copy flips the directory and restarts the role's cores, any other is refused. -/
def Clauses.CoresAndImages : Prop :=
  (∀ (s : State) (i : Fin 12), (s.coreS i.val).st = .running → s.fw.update = none →
    exec (.heartbeatMiss i) s = .next (s.restartCore i.val)) ∧
  (∀ (s : State) (i : Fin 12), (s.coreS i.val).st ≠ .running → exec (.heartbeatMiss i) s = .next s) ∧
  (∀ (s : State) (r : Request), r.p0.toNat < 12 → s.fw.update = none →
    ((s.coreS r.p0.toNat).st = .running → exec (.coreRestart r) s = .next ((s.restartCore r.p0.toNat).answer r 0 [])) ∧
    ((s.coreS r.p0.toNat).st ≠ .running → exec (.coreRestart r) s = .next (s.answer r 0 []))) ∧
  (∀ (s : State) (i : Fin 12) (g : FwImage), s.canon = true → (s.coreS i.val).st = .loading ∨ (s.coreS i.val).st = .restarting →
    i.val = 0 ∨ (s.coreS 0).st = .running → s.bootTurn i.val = true → s.fw.update = none →
    (s.role (coreRole i.val)).img (s.role (coreRole i.val)).active = some g → s.fwCheck (coreRole i.val) g = 0 →
    ∃ t, exec (.coreFirstHeartbeat i) s = .next t ∧ (t.coreS i.val).st = .running ∧ (t.coreS i.val).svn = g.svn ∧
      (t.coreS i.val).release = g.release.toNat ∧ (t.coreS i.val).copy = (s.role (coreRole i.val)).active) ∧
  (∀ (s : State) (r : Request) (img : FwImage), s.roleHalted 0 = false → s.fw.update = none → r.bufLen ≤ 2 ^ 24 → r.p0.toNat < 7 →
    let code := s.fwCheck r.p0.toNat img
    let t := s.updRole r.p0.toNat (fun x =>
      if x.active then { x with imgA := some img, validA := decide (code = 0) } else { x with imgB := some img, validB := decide (code = 0) })
    (code = 0 → exec (.fwWrite r img) s = .next (t.dirWrite.answer r 0 [])) ∧
    (code ≠ 0 → exec (.fwWrite r img) s = .next ((t.secCode code).dirWrite.answer r code []))) ∧
  (∀ (s : State) (r : Request), s.roleHalted 0 = false → s.fw.update = none →
    (7 ≤ r.p0.toNat ∨ (s.role r.p0.toNat).valid (!(s.role r.p0.toNat).active) = false →
      exec (.fwActivate r) s = .next (s.answer r 0x0404 [])) ∧
    (r.p0.toNat < 7 → (s.role r.p0.toNat).valid (!(s.role r.p0.toNat).active) = true → exec (.fwActivate r) s = .next
      ((s.flipActive r.p0.toNat).updateRun { role := r.p0.toNat, req := r, cores := [], switched := [] } (s.updateOrder r.p0.toNat))))

/-- R170, R182, R239, R418, R422 to R425: the records at the front that fit 32 KiB become durable together, binds that waited for them begin, and
answers that waited for them are sent; the other SUP takes over, names the unfinished commit in a VOID, and resolves the handoffs in progress, if
there are any; a replay ends with the module waiting for coolant, and is done once; a compaction writes the live state to the other half, whose
erasure follows. -/
def Clauses.JournalKeeping : Prop :=
  ∀ s : State,
    (s.canCommit = true →
      let now := commitRun s.jrn.waiting
      ∃ t : State, exec .journalCommit s = .next t.beginBinds.sendAnswers ∧
        t.jrn.log = s.jrn.log ++ now.map (fun e => { e with ans := [] }) ∧ t.jrn.waiting = s.jrn.waiting.drop now.length ∧
        t.jrn.owed = s.jrn.owed ++ now.flatMap (fun e => e.ans) ∧ t.jrn.seq = s.jrn.seq + BitVec.ofNat 64 now.length ∧
        ((∀ e ∈ s.comps, e.2.st ≠ .binding) → t.beginBinds = t)) ∧
    (∀ t : State, t.sendAnswers = ({ t with jrn := { t.jrn with owed := [] } } : State).each t.jrn.owed (fun s a => s.answer a.1 0 a.2)) ∧
    (s.canCommit = false → exec .journalCommit s = .next s) ∧
    (∀ i, s.jrn.writer = 0 → s.roleHalted 1 = false → (coresOf 1).find? (fun i => decide ((s.coreS i).st = .running)) = some i →
      (s.jrn.waiting = [] → exec .writerTakeover s = .next ({ s with jrn := { s.jrn with writer := i } } : State).resolveTokens) ∧
      (s.jrn.waiting ≠ [] → ∃ t : State, exec .writerTakeover s = .next t.resolveTokens ∧ t.jrn.writer = i ∧ t.jrn.waiting = s.jrn.waiting ∧
        t.jrn.log = s.jrn.log ++ [{ r := .void (s.jrn.seq.toNat + 1) (s.jrn.seq.toNat + s.jrn.waiting.length) }] ∧
        ((∀ k, (s.token k).owed = [] ∧ (s.token k).st ≠ .sending) → t.resolveTokens = t))) ∧
    (s.boot.replayed = false → s.jrn.writer ≠ 0 → ∀ a, ∃ t, exec (.journalReplay a) s = .next t ∧ t.boot.replayed = true ∧
      t.boot.phase = .waitFlow) ∧
    (s.boot.replayed = true → ∀ a, exec (.journalReplay a) s = .next s) ∧
    (s.jrn.compacting = true → s.jrn.erasing = false → s.jrn.writer ≠ 0 → s.pwr.inputLost = false →
      ∃ t, exec .journalCompaction s = .next t ∧ t.jrn.log = s.newHalf ∧ t.jrn.half = !s.jrn.half ∧ t.jrn.epoch = s.jrn.epoch + 1 ∧
        t.jrn.erasing = true ∧ t.jrn.dirty = true ∧ t.jrn.compacting = false ∧ t.jrn.full = false) ∧
    (exec .backgroundEraseDone s = .next { s with jrn := { s.jrn with
      erasing := false, dirty := false, compacting := s.jrn.compacting || decide (0x3000000 ≤ s.jrn.usedBytes) } })

/-- Management cores, their images, and the journal. -/
def Obligations.CoresAndJournal : Prop := Clauses.CoresAndImages ∧ Clauses.JournalKeeping

/-! ## Start-up and registers -/

/-- R431, R439, R440, R442: the standby and I/O rails come up and the cores load at a cold power-on; the compute-die rails start once the journal
is replayed; a partition's bring-up in its turn retires the units that failed and brings it back; READY follows the last announcement and the
cores. -/
def Clauses.StartUp : Prop :=
  (∀ (s : State) (a b : BitVec 4), s.pwr.standby = false → ∃ t, exec (.coldPowerOn a b) s = .next t ∧ t.pwr.standby = true ∧
    t.pwr.mainOn = true ∧ t.boot.pwrgd = true ∧ t.boot.slotId = a.toNat ∧ t.boot.hsris = b.toNat ∧ t.boot.cold = true ∧
    t.jrn.log = s.jrn.log ∧ (∀ i, i < 12 → (t.coreS i).st = .loading)) ∧
  (∀ (s : State) (a b : BitVec 4), s.pwr.standby = true → exec (.coldPowerOn a b) s = .next s) ∧
  (∀ s : State, s.pwr.mainOn = true → s.boot.resetRel = true → s.boot.replayed = true → s.boot.needReset = false →
    s.flt.pwrCycleReq = false → (s.coreS 10).st = .running → (s.coreS 9).st = .running → ∃ t, exec .computeRailStart s = .next t ∧
      t.boot.computeOn = true ∧ t.pwr.flowOk = true ∧ t.boot.phase = (if s.boot.phase = .ready then .ready else .partitions)) ∧
  (∀ (s : State) (p : PartId) (b : BitVec 8), (s.part p.val).st = .offline → (s.part p.val).holds = [] → s.canCommit = true →
    s.boot.computeOn = true → s.roleHalted 5 = false → s.bringupTurn p.val = true → ∀ l : List UnitId,
      let t := s.each ((l.map (fun u => u.val)).filter (fun u => decide ((ukind u).part = p.val))) (fun s u => s.retireUnit u false 6)
      exec (.partitionBringup p b l) s = .next (t.bringBack p.val b false)) ∧
  (∀ (s : State) (p : PartId) (b : BitVec 8) (l : List UnitId), s.bringupTurn p.val = false → exec (.partitionBringup p b l) s = .next s) ∧
  (∀ s : State, s.boot.phase ≠ .ready → s.boot.announced.length = 64 →
    (List.range 12).all (fun i => decide ((s.coreS i).st = .running ∨ (s.coreS i).st = .halted)) = true → s.boot.replayed = true →
    s.roleHalted 1 = false → s.roleHalted 5 = false → ∃ t, exec .ready s = .next t ∧ t.boot.phase = .ready ∧
      t.boot.readyMs = min 0xFFFFFFFF ((s.now - s.boot.origin) / 1000000)) ∧
  (∀ s : State, s.boot.phase = .ready → exec .ready s = .next s)

/-- R371, R431 to R436, R443: the sideband. The release of MOD_RESET_N is kept and its fall starts a module step while the module serves, and
during start-up goes back to the replay; an expander that appears starts its port and one that goes takes it down; REFCLK going bad takes the
common-clock host ports down; an input that comes back starts a module step; a store's wait that is over restores its composition, or ends it
where the store or a golden copy is not good; an endpoint ID and address are kept. -/
def Clauses.Sideband : Prop :=
  ∀ s : State,
    (exec (.modResetN false) s = .next { s with boot := { s.boot with resetRel := true } }) ∧
    (s.boot.phase = .ready → exec (.modResetN true) s = .next
      ((({ s with boot := { s.boot with resetRel := false } } : State).startStep .module 0 10).computeOff none false true 10)) ∧
    (s.boot.phase = .standby ∨ s.boot.phase = .boot → exec (.modResetN true) s = .next { s with boot := { s.boot with resetRel := false } }) ∧
    (s.boot.phase ≠ .standby → s.boot.phase ≠ .boot → s.boot.phase ≠ .ready →
      let t := ({ s with boot := { s.boot with resetRel := false } } : State).computeOff none false true 10
      exec (.modResetN true) s = .next { t with boot := { t.boot with phase := .replay, replayed := false } }) ∧
    (∀ d : FarId,
      (s.canon = true → (s.farP d.val).st = .down → (s.farP d.val).enable = true → s.domOn (domFar d.val) = true → exec (.prsntN d true) s = .next
        (((s.updFar d.val (fun f => { f with present := true, st := .training, refOut := true })).emit (.pin 3 d.val true)).emit
          (.pin 2 d.val true))) ∧
      ((s.farP d.val).st = .down → exec (.prsntN d false) s = .next (s.updFar d.val (fun f => { f with present := false }))) ∧
      ((s.farP d.val).st ≠ .down → exec (.prsntN d false) s = .next
        ((s.updFar d.val (fun f => { f with present := false })).farLeave d.val))) ∧
    (exec .refclkBad s = .next (({ s with boot := { s.boot with refOk := false, intRef := true, spread := false } } : State).each
      ((List.range 4).filter (fun h => !has s.boot.hsris h)) (fun s h => s.linkDown h))) ∧
    (∀ c : RefClass, c ≠ .bad → ∃ t, exec (.refclkReturn c) s = .next t ∧ t.boot.refOk = true ∧ t.boot.intRef = false ∧
      t.boot.spread = decide (c = .spread)) ∧
    (s.pwr.inputLost = true → s.pwr.standby = true → exec .inputReturn s = .next (s.railsIO.startStep .module 0 9)) ∧
    (exec .reversedPolarity s = .next { s with pwr := { s.pwr with reversed := true } }) ∧
    (∀ c : CidT, s.boot.storeWait.contains c.val = true →
      let t : State := { s with boot := { s.boot with storeWait := s.boot.storeWait.erase c.val } }
      let good := t.storeGood c.val && (t.comp c.val).weights.all (fun e => (t.goldenOf e.2 (t.comp c.val).storePort).isSome)
      (good = true → exec (.storeWaitExpiry c) s = .next ((t.readStore c.val).restoreComp c.val)) ∧
      (good = false → exec (.storeWaitExpiry c) s = .next
        (((t.readStore c.val).updComp c.val (fun y => { y with restoring := false, place := [] })).enterUnbinding c.val Request.zero false []))) ∧
    (∀ (e : Byte) (a : BitVec 7), exec (.setEndpointId e none) s = .next { s with boot := { s.boot with eid := e } } ∧
      exec (.setEndpointId e (some a)) s = .next { s with boot := { s.boot with dynAddr := some a } })

/-- Start-up and the sideband. -/
def Obligations.StartUpAndSideband : Prop := Clauses.StartUp ∧ Clauses.Sideband

/-- R5 to R7, R10, R28: a register write of 4 or 8 bytes reaches the register at its offset while its window is open and no module step is in
progress, and changes nothing otherwise; an ill-formed access stops the model. Some registers: PWR_CAP, PWR_GATE_CTL, FAB_NODE, MTR_ACK,
an engine's QCTL, and those of a composition window. -/
def Obligations.RegisterWrites : Prop :=
  ∀ (s : State) (h : HPort) (d hw : Word64), s.stepOn .module 0 = none →
    (∀ a n, accessOk (.bar0 h) a n = true → s.windowOpen a = false → exec (.registerWrite (.bar0 h) a n d hw) s = .next s) ∧
    (∀ w a n, accessOk w a n = false → exec (.registerWrite w a n d hw) s = .fault .badAccess) ∧
    (s.windowOpen 0x04000008 = true → exec (.registerWrite (.bar0 h) 0x04000008 4 d hw) s = exec (.pwrCapWrite (d.setWidth 32)) s) ∧
    (s.windowOpen 0x04000028 = true → exec (.registerWrite (.bar0 h) 0x04000028 4 d hw) s = exec (.pwrGateCtlWrite (d.setWidth 32)) s) ∧
    (s.windowOpen 0x07800010 = true → exec (.registerWrite (.bar0 h) 0x07800010 8 d hw) s = exec (.mtrAck d) s) ∧
    (∀ (p : PartId) (e : EngId),
      let a := 0x01001018 + 0x40000 * p.val + 0x1000 * e.val
      s.windowOpen a = true → s.partInReset p.val = false → s.inEngStep (uEng p.val e.val) = false →
      (d.getLsbD 2 = true → exec (.registerWrite (.bar0 h) a 4 d hw) s = .next (s.flush (uEng p.val e.val))) ∧
      (d.getLsbD 2 = false → d.getLsbD 1 = true → exec (.registerWrite (.bar0 h) a 4 d hw) s = .next (s.resume (uEng p.val e.val)))) ∧
    (s.windowOpen 0x02000000 = true → (List.range 32).all (fun f => decide ((s.fport f).st = .down)) = true →
      ∃ t, exec (.registerWrite (.bar0 h) 0x02000000 8 d hw) s = .next t ∧ t.fab.node = (d.extractLsb' 0 12).toNat ∧
        t.fab.system = d.extractLsb' 16 32) ∧
    (∀ f : Func, f.val ≠ 0 →
      let k := clientOf h.val f.val
      (d.getLsbD 0 = true → exec (.registerWrite (.cw h f) 0x08 8 d hw) s = exec (.journalAck h f) s) ∧
      (exec (.registerWrite (.cw h f) 0x100000 4 d hw) s = .next (s.updFn k (fun x => { x with tcSel := d.toNat % 4096 }))))
end

