-- ==== Sys2Proof/Laws/Table.lean ====
section
/-!
SUPPORT. Sparse tables and byte memories: reading after writing, and the canonical form.
-/

namespace Sys2Proof.Machine

section
variable {β : Type}

/-- A key below every listed one is unlisted. -/
theorem Map.get_of_lt (d : β) (k : Nat) (m : Map β) (h : ∀ e ∈ m, k < e.1) : Map.get d m k = d := by
  induction m with
  | nil => rfl
  | cons e r ih =>
    have h1 := h e (by simp)
    have h2 := ih (fun x hx => h x (by simp [hx]))
    simp only [Map.get, h2]
    rw [if_neg (by omega)]

variable [DecidableEq β]

theorem Map.wf_cons (d v : β) (k : Nat) (m : Map β) :
    Map.wf d ((k, v) :: m) = true ↔ v ≠ d ∧ (∀ e ∈ m, k < e.1) ∧ Map.wf d m = true := by
  simp [Map.wf, and_assoc]

/-- A read of the key just written gives the value written. -/
theorem Map.get_set_self (d v : β) (k : Nat) (m : Map β) (h : Map.wf d m = true) :
    Map.get d (Map.set d k v m) k = v := by
  induction m with
  | nil => unfold Map.set; split <;> simp_all [Map.get]
  | cons e r ih =>
    obtain ⟨k', v'⟩ := e
    obtain ⟨hv, hk, hr⟩ := (Map.wf_cons d v' k' r).1 h
    unfold Map.set
    split
    · rename_i hlt
      split
      · rename_i hvd
        rw [hvd]
        exact Map.get_of_lt d k _ (by
          intro x hx
          rcases List.mem_cons.1 hx with rfl | hx
          · exact hlt
          · have := hk x hx; omega)
      · simp [Map.get]
    · split
      · rename_i hlt heq
        split
        · rename_i hvd
          rw [hvd, heq]
          exact Map.get_of_lt d k' r hk
        · simp [Map.get]
      · rename_i hlt hne
        simp only [Map.get]
        rw [if_neg (by omega)]
        exact ih hr

/-- A read of another key gives what it gave before. -/
theorem Map.get_set_ne (d v : β) (k j : Nat) (m : Map β) (h : j ≠ k) :
    Map.get d (Map.set d k v m) j = Map.get d m j := by
  induction m with
  | nil => unfold Map.set; split <;> simp [Map.get, h.symm]
  | cons e r ih =>
    obtain ⟨k', v'⟩ := e
    unfold Map.set
    split
    · split <;> simp [Map.get, h.symm]
    · split
      · rename_i _ heq
        subst heq
        split <;> simp [Map.get, h.symm]
      · simp only [Map.get]
        rw [ih]

theorem Map.mem_set (d v : β) (k : Nat) (m : Map β) (x : Nat × β) (h : x ∈ Map.set d k v m) : x.1 = k ∨ x ∈ m := by
  induction m with
  | nil =>
    unfold Map.set at h
    split at h
    · simp at h
    · simp only [List.mem_singleton] at h
      exact Or.inl (by rw [h])
  | cons e r ih =>
    obtain ⟨k', v'⟩ := e
    unfold Map.set at h
    split at h
    · split at h
      · exact Or.inr h
      · rcases List.mem_cons.1 h with h | h
        · exact Or.inl (by rw [h])
        · exact Or.inr h
    · split at h
      · split at h
        · exact Or.inr (List.mem_cons_of_mem _ h)
        · rcases List.mem_cons.1 h with h | h
          · exact Or.inl (by rw [h])
          · exact Or.inr (List.mem_cons_of_mem _ h)
      · rcases List.mem_cons.1 h with h | h
        · exact Or.inr (by simp [h])
        · rcases ih h with h | h
          · exact Or.inl h
          · exact Or.inr (List.mem_cons_of_mem _ h)

/-- A write keeps the canonical form. -/
theorem Map.set_wf (d v : β) (k : Nat) (m : Map β) (h : Map.wf d m = true) : Map.wf d (Map.set d k v m) = true := by
  induction m with
  | nil =>
    unfold Map.set
    split
    · rfl
    · rename_i hv
      exact (Map.wf_cons d v k []).2 ⟨hv, by simp, rfl⟩
  | cons e r ih =>
    obtain ⟨k', v'⟩ := e
    obtain ⟨hv, hk, hr⟩ := (Map.wf_cons d v' k' r).1 h
    unfold Map.set
    split
    · rename_i hlt
      split
      · exact h
      · rename_i hvd
        refine (Map.wf_cons d v k _).2 ⟨hvd, ?_, h⟩
        intro x hx
        rcases List.mem_cons.1 hx with rfl | hx
        · exact hlt
        · have := hk x hx; omega
    · split
      · rename_i _ heq
        split
        · exact hr
        · rename_i hvd
          exact (Map.wf_cons d v k _).2 ⟨hvd, by intro x hx; have := hk x hx; omega, hr⟩
      · rename_i hlt hne
        refine (Map.wf_cons d v' k' _).2 ⟨hv, ?_, ih hr⟩
        intro x hx
        rcases Map.mem_set d v k r x hx with hx | hx
        · omega
        · exact hk x hx

theorem Map.upd_wf (d : β) (k : Nat) (f : β → β) (m : Map β) (h : Map.wf d m = true) :
    Map.wf d (Map.upd d k f m) = true := Map.set_wf d _ k m h

theorem Map.get_upd_self (d : β) (k : Nat) (f : β → β) (m : Map β) (h : Map.wf d m = true) :
    Map.get d (Map.upd d k f m) k = f (Map.get d m k) := Map.get_set_self d _ k m h

theorem Map.get_upd_ne (d : β) (k j : Nat) (f : β → β) (m : Map β) (h : j ≠ k) :
    Map.get d (Map.upd d k f m) j = Map.get d m j := Map.get_set_ne d _ k j m h

/-- Leaving entries out keeps the canonical form. -/
theorem Map.filter_wf (d : β) (p : Nat × β → Bool) (m : Map β) (h : Map.wf d m = true) :
    Map.wf d (m.filter p) = true := by
  induction m with
  | nil => rfl
  | cons e r ih =>
    obtain ⟨k', v'⟩ := e
    obtain ⟨hv, hk, hr⟩ := (Map.wf_cons d v' k' r).1 h
    rw [List.filter_cons]
    split
    · exact (Map.wf_cons d v' k' _).2 ⟨hv, fun x hx => hk x (List.mem_of_mem_filter hx), ih hr⟩
    · exact ih hr

/-- Changing every entry keeps the canonical form. -/
theorem Map.mapV_wf (d : β) (f : Nat → β → β) (m : Map β) (h : Map.wf d m = true) : Map.wf d (Map.mapV d f m) = true := by
  unfold Map.mapV
  induction m with
  | nil => rfl
  | cons e r ih =>
    obtain ⟨k, v⟩ := e
    obtain ⟨hv, hk, hr⟩ := (Map.wf_cons d v k r).1 h
    rw [List.map_cons, List.filter_cons]
    split
    · rename_i hd
      refine (Map.wf_cons d _ k _).2 ⟨by simpa using hd, fun x hx => ?_, ih hr⟩
      obtain ⟨y, hy, rfl⟩ := List.mem_map.1 (List.mem_of_mem_filter hx)
      exact hk y hy
    · exact ih hr

end

/-! ## Byte memories -/

theorem Bytes.rd_wr_self (m : Bytes) (a : Nat) (b : Byte) (h : m.wf = true) : (m.wr a b).rd a = b :=
  Map.get_set_self 0 b a m h

theorem Bytes.rd_wr_ne (m : Bytes) (a c : Nat) (b : Byte) (h : c ≠ a) : (m.wr a b).rd c = m.rd c :=
  Map.get_set_ne 0 b a c m h

theorem Bytes.wr_wf (m : Bytes) (a : Nat) (b : Byte) (h : m.wf = true) : (m.wr a b).wf = true := Map.set_wf 0 b a m h

theorem Bytes.wrL_wf (m : Bytes) (a : Nat) (bs : List Byte) (h : m.wf = true) : (m.wrL a bs).wf = true := by
  induction bs generalizing m a with
  | nil => exact h
  | cons b r ih => exact ih (m.wr a b) (a + 1) (Bytes.wr_wf m a b h)

/-- The memory that holds listed bytes is canonical. -/
theorem Bytes.ofCells_wf (l : List Host.Cell) : (Bytes.ofCells l).wf = true := by
  have gen : ∀ (l : List Host.Cell) (m : Bytes), m.wf = true → (l.foldl (fun m c => m.wr c.1 c.2) m).wf = true := by
    intro l
    induction l with
    | nil => exact fun _ h => h
    | cons c r ih => exact fun m h => ih _ (Bytes.wr_wf m c.1 c.2 h)
  exact gen l [] rfl

/-- A byte outside the bytes written reads as before. -/
theorem Bytes.rd_wrL_out (m : Bytes) (a c : Nat) (bs : List Byte) (h : c < a ∨ a + bs.length ≤ c) :
    (m.wrL a bs).rd c = m.rd c := by
  induction bs generalizing m a with
  | nil => rfl
  | cons b r ih =>
    simp only [List.length_cons] at h
    simp only [Bytes.wrL]
    rw [ih (m.wr a b) (a + 1) (by omega), Bytes.rd_wr_ne m a c b (by omega)]

/-- A byte written reads as written. -/
theorem Bytes.rd_wrL_in (m : Bytes) (a i : Nat) (bs : List Byte) (h : m.wf = true) (hi : i < bs.length) :
    (m.wrL a bs).rd (a + i) = bs[i] := by
  induction bs generalizing m a i with
  | nil => simp at hi
  | cons b r ih =>
    simp only [Bytes.wrL]
    cases i with
    | zero => rw [Bytes.rd_wrL_out _ _ _ _ (by omega)]; exact Bytes.rd_wr_self m a b h
    | succ n =>
      have := ih (m.wr a b) (a + 1) n (Bytes.wr_wf m a b h) (by simpa using hi)
      rw [show a + (n + 1) = a + 1 + n by omega, this]
      simp

theorem Bytes.zeroN_wf (m : Bytes) (a n : Nat) (h : m.wf = true) : (m.zeroN a n).wf = true := Map.filter_wf 0 _ m h

end Sys2Proof.Machine
end

