-- ==== Sys2Proof/Laws/State.lean ====
section
/-!
SUPPORT. One lemma per field per update of the state, and what an entry reads as after an update of its table.
-/

namespace Sys2Proof.Machine

/-! ## Unit numbers (R389) -/

@[simp] theorem ukind_uEng (p : PartId) (e : EngId) : ukind (uEng p.val e.val) = .eng p.val e.val := by
  have := e.isLt
  have h1 : (61 * p.val + e.val) / 61 = p.val := by omega
  have h2 : (61 * p.val + e.val) % 61 = e.val := by omega
  simp [ukind, uEng, h1, h2, this]

@[simp] theorem ukind_uVt (p : PartId) (v : VtId) : ukind (uVt p.val v.val) = .vt p.val v.val := by
  have := v.isLt
  have h1 : (61 * p.val + 38 + v.val) / 61 = p.val := by omega
  have h2 : (61 * p.val + 38 + v.val) % 61 = 38 + v.val := by omega
  have h3 : 38 + v.val < 57 := by omega
  simp [ukind, uVt, h1, h2, h3]

@[simp] theorem ukind_uSt (p : PartId) (t : StId) : ukind (uSt p.val t.val) = .st p.val t.val := by
  have := t.isLt
  have h1 : (61 * p.val + 57 + t.val) / 61 = p.val := by omega
  have h2 : (61 * p.val + 57 + t.val) % 61 = 57 + t.val := by omega
  have h3 : ¬ 57 + t.val < 38 := by omega
  simp [ukind, uSt, h1, h2, h3]

/-! ## Updates and reads of one table -/

section
variable {β : Type} [DecidableEq β]

/-- Two writes at a key are one. -/
theorem Map.set_set (d v w : β) (k : Nat) (m : Map β) (h : Map.wf d m = true) :
    Map.set d k w (Map.set d k v m) = Map.set d k w m := by
  induction m with
  | nil =>
    by_cases hv : v = d
    · simp [Map.set, hv]
    · by_cases hw : w = d <;> simp [Map.set, hv, hw]
  | cons e r ih =>
    obtain ⟨j, x⟩ := e
    obtain ⟨hx, hl, hr⟩ := (Map.wf_cons d x j r).1 h
    by_cases h1 : k < j
    · by_cases hv : v = d
      · simp [Map.set, h1, hv]
      · by_cases hw : w = d <;> simp [Map.set, h1, hv, hw]
    · by_cases h2 : k = j
      · subst h2
        have hs : Map.set d k w r = if w = d then r else (k, w) :: r := by
          cases r with
          | nil => rfl
          | cons e2 r2 =>
            have := hl e2 (by simp)
            simp [Map.set, this]
        by_cases hv : v = d
        · simp only [Map.set, hv, Nat.lt_irrefl, if_true, if_false, hs]
        · by_cases hw : w = d <;> simp [Map.set, hv, hw]
      · simp [Map.set, h1, h2, ih hr]

/-- Two updates at a key are one. -/
theorem Map.upd_upd (d : β) (k : Nat) (f g : β → β) (m : Map β) (h : Map.wf d m = true) :
    Map.upd d k g (Map.upd d k f m) = Map.upd d k (fun x => g (f x)) m := by
  unfold Map.upd
  rw [Map.set_set d _ _ k m h, Map.get_set_self d _ k m h]

end

/-! ## The tables of a canonical state are canonical -/

theorem State.tables_wf {s : State} (h : s.canon = true) :
    Map.wf {} s.parts = true ∧
    Map.wf {} s.units = true ∧
    Map.wf {} s.eng = true ∧
    Map.wf {} s.vts = true ∧
    Map.wf {} s.sts = true ∧
    Map.wf {} s.bars = true ∧
    Map.wf {} s.comps = true ∧
    Map.wf {} s.tokens = true ∧
    Map.wf {} s.chans = true ∧
    Map.wf 0 s.grades = true ∧
    Map.wf {} s.far = true ∧
    Map.wf {} s.ctxs = true ∧
    Map.wf {} s.xlt.slots = true ∧
    Map.wf {} s.xlt.fqs = true ∧
    Map.wf {} s.sch.stages = true ∧
    Map.wf none s.sch.works = true ∧
    Map.wf {} s.net.routers = true ∧
    Map.wf {} s.host.ports = true ∧
    Map.wf {} s.host.fns = true ∧
    Map.wf [] s.host.mem = true ∧
    Map.wf {} s.sec.slots = true ∧
    Map.wf {} s.fab.ports = true ∧
    Map.wf {} s.fab.jobs = true ∧
    Map.wf {} s.pwr.isls = true ∧
    Map.wf {} s.pwr.rails = true ∧
    Map.wf {} s.fw.cores = true ∧
    Map.wf {} s.fw.roles = true ∧
    Map.wf {} s.fw.slots = true := by
  simp only [State.canon, State.tablesOk, Bool.and_eq_true, and_assoc] at h
  obtain ⟨h0, h1, h2, h3, h4, h5, h6, h7, h8, h9, h10, h11, h12, h13, h14, h15, h16, h17, h18, h19, h20, h21, h22, h23, h24, h25, h26, h27, _⟩ := h
  exact ⟨h0, h1, h2, h3, h4, h5, h6, h7, h8, h9, h10, h11, h12, h13, h14, h15, h16, h17, h18, h19, h20, h21, h22, h23, h24, h25, h26, h27⟩

theorem State.parts_wf {s : State} (h : s.canon = true) : Map.wf {} s.parts = true := (State.tables_wf h).1
theorem State.units_wf {s : State} (h : s.canon = true) : Map.wf {} s.units = true := (State.tables_wf h).2.1
theorem State.eng_wf {s : State} (h : s.canon = true) : Map.wf {} s.eng = true := (State.tables_wf h).2.2.1
theorem State.vts_wf {s : State} (h : s.canon = true) : Map.wf {} s.vts = true := (State.tables_wf h).2.2.2.1
theorem State.sts_wf {s : State} (h : s.canon = true) : Map.wf {} s.sts = true := (State.tables_wf h).2.2.2.2.1
theorem State.bars_wf {s : State} (h : s.canon = true) : Map.wf {} s.bars = true := (State.tables_wf h).2.2.2.2.2.1
theorem State.comps_wf {s : State} (h : s.canon = true) : Map.wf {} s.comps = true := (State.tables_wf h).2.2.2.2.2.2.1
theorem State.tokens_wf {s : State} (h : s.canon = true) : Map.wf {} s.tokens = true := (State.tables_wf h).2.2.2.2.2.2.2.1
theorem State.chans_wf {s : State} (h : s.canon = true) : Map.wf {} s.chans = true := (State.tables_wf h).2.2.2.2.2.2.2.2.1
theorem State.grades_wf {s : State} (h : s.canon = true) : Map.wf 0 s.grades = true := (State.tables_wf h).2.2.2.2.2.2.2.2.2.1
theorem State.far_wf {s : State} (h : s.canon = true) : Map.wf {} s.far = true := (State.tables_wf h).2.2.2.2.2.2.2.2.2.2.1
theorem State.ctxs_wf {s : State} (h : s.canon = true) : Map.wf {} s.ctxs = true := (State.tables_wf h).2.2.2.2.2.2.2.2.2.2.2.1
theorem State.xlt_slots_wf {s : State} (h : s.canon = true) : Map.wf {} s.xlt.slots = true := (State.tables_wf h).2.2.2.2.2.2.2.2.2.2.2.2.1
theorem State.xlt_fqs_wf {s : State} (h : s.canon = true) : Map.wf {} s.xlt.fqs = true := (State.tables_wf h).2.2.2.2.2.2.2.2.2.2.2.2.2.1
theorem State.sch_stages_wf {s : State} (h : s.canon = true) : Map.wf {} s.sch.stages = true := (State.tables_wf h).2.2.2.2.2.2.2.2.2.2.2.2.2.2.1
theorem State.sch_works_wf {s : State} (h : s.canon = true) : Map.wf none s.sch.works = true := (State.tables_wf h).2.2.2.2.2.2.2.2.2.2.2.2.2.2.2.1
theorem State.net_routers_wf {s : State} (h : s.canon = true) : Map.wf {} s.net.routers = true := (State.tables_wf h).2.2.2.2.2.2.2.2.2.2.2.2.2.2.2.2.1
theorem State.host_ports_wf {s : State} (h : s.canon = true) : Map.wf {} s.host.ports = true := (State.tables_wf h).2.2.2.2.2.2.2.2.2.2.2.2.2.2.2.2.2.1
theorem State.host_fns_wf {s : State} (h : s.canon = true) : Map.wf {} s.host.fns = true := (State.tables_wf h).2.2.2.2.2.2.2.2.2.2.2.2.2.2.2.2.2.2.1
theorem State.host_mem_wf {s : State} (h : s.canon = true) : Map.wf [] s.host.mem = true := (State.tables_wf h).2.2.2.2.2.2.2.2.2.2.2.2.2.2.2.2.2.2.2.1
theorem State.sec_slots_wf {s : State} (h : s.canon = true) : Map.wf {} s.sec.slots = true := (State.tables_wf h).2.2.2.2.2.2.2.2.2.2.2.2.2.2.2.2.2.2.2.2.1
theorem State.fab_ports_wf {s : State} (h : s.canon = true) : Map.wf {} s.fab.ports = true := (State.tables_wf h).2.2.2.2.2.2.2.2.2.2.2.2.2.2.2.2.2.2.2.2.2.1
theorem State.fab_jobs_wf {s : State} (h : s.canon = true) : Map.wf {} s.fab.jobs = true := (State.tables_wf h).2.2.2.2.2.2.2.2.2.2.2.2.2.2.2.2.2.2.2.2.2.2.1
theorem State.pwr_isls_wf {s : State} (h : s.canon = true) : Map.wf {} s.pwr.isls = true := (State.tables_wf h).2.2.2.2.2.2.2.2.2.2.2.2.2.2.2.2.2.2.2.2.2.2.2.1
theorem State.pwr_rails_wf {s : State} (h : s.canon = true) : Map.wf {} s.pwr.rails = true := (State.tables_wf h).2.2.2.2.2.2.2.2.2.2.2.2.2.2.2.2.2.2.2.2.2.2.2.2.1
theorem State.fw_cores_wf {s : State} (h : s.canon = true) : Map.wf {} s.fw.cores = true := (State.tables_wf h).2.2.2.2.2.2.2.2.2.2.2.2.2.2.2.2.2.2.2.2.2.2.2.2.2.1
theorem State.fw_roles_wf {s : State} (h : s.canon = true) : Map.wf {} s.fw.roles = true := (State.tables_wf h).2.2.2.2.2.2.2.2.2.2.2.2.2.2.2.2.2.2.2.2.2.2.2.2.2.2.1
theorem State.fw_slots_wf {s : State} (h : s.canon = true) : Map.wf {} s.fw.slots = true := (State.tables_wf h).2.2.2.2.2.2.2.2.2.2.2.2.2.2.2.2.2.2.2.2.2.2.2.2.2.2.2
theorem State.cool_wf {s : State} (h : s.canon = true) : Map.wf 0 s.cool = true := by
  simp only [State.canon, State.tablesOk, Bool.and_eq_true] at h
  exact h.1.2

/-! ## The addressed memories of a canonical state are canonical -/

/-- What holds of every listed value and of the default holds of every read. -/
theorem Map.get_all {β : Type} (d : β) (p : β → Bool) (m : Map β) (h : m.all (fun e => p e.2) = true) (hd : p d = true) (k : Nat) :
    p (Map.get d m k) = true := by
  induction m with
  | nil => exact hd
  | cons e r ih =>
    obtain ⟨j, x⟩ := e
    simp only [List.all_cons, Bool.and_eq_true] at h
    unfold Map.get
    split
    · exact h.1
    · exact ih h.2

theorem State.mems_wf {s : State} (h : s.canon = true) (k : Nat) :
    Bytes.wf (s.engine k).sp = true ∧ Bytes.wf (s.vt k).lm = true ∧ Bytes.wf (s.tile k).lm = true ∧ Bytes.wf (s.hmem k) = true ∧
    Map.wf {} (s.chan k).secs = true ∧ Map.wf {} (s.farP k).secs = true ∧ Bytes.wf (s.fn k).region = true := by
  simp only [State.canon, State.memsOk, Bool.and_eq_true] at h
  obtain ⟨-, ⟨⟨⟨⟨⟨h1, h2⟩, h3⟩, h4⟩, h5⟩, h6⟩, h7⟩ := h
  exact ⟨Map.get_all ({} : Engine) (fun (e : Engine) => Bytes.wf e.sp) _ h1 rfl k, Map.get_all ({} : VTile) (fun (e : VTile) => Bytes.wf e.lm) _ h2 rfl k,
    Map.get_all ({} : STile) (fun (e : STile) => Bytes.wf e.lm) _ h3 rfl k, Map.get_all [] (fun (e : Bytes) => Bytes.wf e) _ h4 rfl k,
    Map.get_all ({} : Chan) (fun (e : Chan) => Map.wf {} e.secs) _ h5 rfl k, Map.get_all ({} : Far) (fun (e : Far) => Map.wf {} e.secs) _ h6 rfl k,
    Map.get_all ({} : Fn) (fun (e : Fn) => Bytes.wf e.region) _ h7 rfl k⟩

/-! ## updPart -/

theorem State.part_updPart_self {s : State} (h : s.canon = true) (n : Nat) (f : Part → Part) : (s.updPart n f).part n = f (s.part n) :=
  Map.get_upd_self _ _ f _ (State.parts_wf h)
theorem State.part_updPart_ne (s : State) (n : Nat) (n' : Nat) (f : Part → Part) (h : n' ≠ n) :
    (s.updPart n f).part n' = s.part n' := Map.get_upd_ne _ _ _ f _ h
theorem State.updPart_updPart {s : State} (h : s.canon = true) (n : Nat) (f f' : Part → Part) :
    (s.updPart n f).updPart n f' = s.updPart n (fun x => f' (f x)) := by
  simp only [State.updPart, Map.upd_upd _ _ f f' _ (State.parts_wf h)]
theorem State.updPart_congr (s : State) (n : Nat) {f f' : Part → Part} (h : f (s.part n) = f' (s.part n)) :
    s.updPart n f = s.updPart n f' := by
  unfold State.updPart Map.upd
  unfold State.part at h
  rw [h]
@[simp] theorem State.updPart_pending (s : State) (n : Nat) (f : Part → Part) : (s.updPart n f).pending = s.pending := rfl
@[simp] theorem State.updPart_units (s : State) (n : Nat) (f : Part → Part) : (s.updPart n f).units = s.units := rfl
@[simp] theorem State.updPart_eng (s : State) (n : Nat) (f : Part → Part) : (s.updPart n f).eng = s.eng := rfl
@[simp] theorem State.updPart_vts (s : State) (n : Nat) (f : Part → Part) : (s.updPart n f).vts = s.vts := rfl
@[simp] theorem State.updPart_sts (s : State) (n : Nat) (f : Part → Part) : (s.updPart n f).sts = s.sts := rfl
@[simp] theorem State.updPart_bars (s : State) (n : Nat) (f : Part → Part) : (s.updPart n f).bars = s.bars := rfl
@[simp] theorem State.updPart_net (s : State) (n : Nat) (f : Part → Part) : (s.updPart n f).net = s.net := rfl
@[simp] theorem State.updPart_staged (s : State) (n : Nat) (f : Part → Part) : (s.updPart n f).staged = s.staged := rfl
@[simp] theorem State.updPart_nextHandle (s : State) (n : Nat) (f : Part → Part) : (s.updPart n f).nextHandle = s.nextHandle := rfl
@[simp] theorem State.updPart_comps (s : State) (n : Nat) (f : Part → Part) : (s.updPart n f).comps = s.comps := rfl
@[simp] theorem State.updPart_freeCids (s : State) (n : Nat) (f : Part → Part) : (s.updPart n f).freeCids = s.freeCids := rfl
@[simp] theorem State.updPart_tokens (s : State) (n : Nat) (f : Part → Part) : (s.updPart n f).tokens = s.tokens := rfl
@[simp] theorem State.updPart_nextToken (s : State) (n : Nat) (f : Part → Part) : (s.updPart n f).nextToken = s.nextToken := rfl
@[simp] theorem State.updPart_chans (s : State) (n : Nat) (f : Part → Part) : (s.updPart n f).chans = s.chans := rfl
@[simp] theorem State.updPart_grades (s : State) (n : Nat) (f : Part → Part) : (s.updPart n f).grades = s.grades := rfl
@[simp] theorem State.updPart_cool (s : State) (n : Nat) (f : Part → Part) : (s.updPart n f).cool = s.cool := rfl
@[simp] theorem State.updPart_far (s : State) (n : Nat) (f : Part → Part) : (s.updPart n f).far = s.far := rfl
@[simp] theorem State.updPart_xlt (s : State) (n : Nat) (f : Part → Part) : (s.updPart n f).xlt = s.xlt := rfl
@[simp] theorem State.updPart_ctxs (s : State) (n : Nat) (f : Part → Part) : (s.updPart n f).ctxs = s.ctxs := rfl
@[simp] theorem State.updPart_freedXids (s : State) (n : Nat) (f : Part → Part) : (s.updPart n f).freedXids = s.freedXids := rfl
@[simp] theorem State.updPart_nextXid (s : State) (n : Nat) (f : Part → Part) : (s.updPart n f).nextXid = s.nextXid := rfl
@[simp] theorem State.updPart_sch (s : State) (n : Nat) (f : Part → Part) : (s.updPart n f).sch = s.sch := rfl
@[simp] theorem State.updPart_fab (s : State) (n : Nat) (f : Part → Part) : (s.updPart n f).fab = s.fab := rfl
@[simp] theorem State.updPart_host (s : State) (n : Nat) (f : Part → Part) : (s.updPart n f).host = s.host := rfl
@[simp] theorem State.updPart_sec (s : State) (n : Nat) (f : Part → Part) : (s.updPart n f).sec = s.sec := rfl
@[simp] theorem State.updPart_pail (s : State) (n : Nat) (f : Part → Part) : (s.updPart n f).pail = s.pail := rfl
@[simp] theorem State.updPart_pwr (s : State) (n : Nat) (f : Part → Part) : (s.updPart n f).pwr = s.pwr := rfl
@[simp] theorem State.updPart_flt (s : State) (n : Nat) (f : Part → Part) : (s.updPart n f).flt = s.flt := rfl
@[simp] theorem State.updPart_jrn (s : State) (n : Nat) (f : Part → Part) : (s.updPart n f).jrn = s.jrn := rfl
@[simp] theorem State.updPart_fw (s : State) (n : Nat) (f : Part → Part) : (s.updPart n f).fw = s.fw := rfl
@[simp] theorem State.updPart_boot (s : State) (n : Nat) (f : Part → Part) : (s.updPart n f).boot = s.boot := rfl
@[simp] theorem State.updPart_now (s : State) (n : Nat) (f : Part → Part) : (s.updPart n f).now = s.now := rfl
@[simp] theorem State.updPart_fresh (s : State) (n : Nat) (f : Part → Part) : (s.updPart n f).fresh = s.fresh := rfl
@[simp] theorem State.updPart_out (s : State) (n : Nat) (f : Part → Part) : (s.updPart n f).out = s.out := rfl
@[simp] theorem State.updPart_unit (s : State) (n : Nat) (n' : Nat) (f : Part → Part) : (s.updPart n f).unit n' = s.unit n' := rfl
@[simp] theorem State.updPart_engine (s : State) (n : Nat) (n' : Nat) (f : Part → Part) : (s.updPart n f).engine n' = s.engine n' := rfl
@[simp] theorem State.updPart_vt (s : State) (n : Nat) (n' : Nat) (f : Part → Part) : (s.updPart n f).vt n' = s.vt n' := rfl
@[simp] theorem State.updPart_tile (s : State) (n : Nat) (n' : Nat) (f : Part → Part) : (s.updPart n f).tile n' = s.tile n' := rfl
@[simp] theorem State.updPart_bar (s : State) (n : Nat) (c' b' : Nat) (f : Part → Part) : (s.updPart n f).bar c' b' = s.bar c' b' := rfl
@[simp] theorem State.updPart_comp (s : State) (n : Nat) (n' : Nat) (f : Part → Part) : (s.updPart n f).comp n' = s.comp n' := rfl
@[simp] theorem State.updPart_ctx (s : State) (n : Nat) (n' : Nat) (f : Part → Part) : (s.updPart n f).ctx n' = s.ctx n' := rfl
@[simp] theorem State.updPart_chan (s : State) (n : Nat) (n' : Nat) (f : Part → Part) : (s.updPart n f).chan n' = s.chan n' := rfl
@[simp] theorem State.updPart_farP (s : State) (n : Nat) (n' : Nat) (f : Part → Part) : (s.updPart n f).farP n' = s.farP n' := rfl
@[simp] theorem State.updPart_token (s : State) (n : Nat) (n' : Nat) (f : Part → Part) : (s.updPart n f).token n' = s.token n' := rfl
@[simp] theorem State.updPart_slot (s : State) (n : Nat) (x' i' : Nat) (f : Part → Part) : (s.updPart n f).slot x' i' = s.slot x' i' := rfl
@[simp] theorem State.updPart_fq (s : State) (n : Nat) (n' : Nat) (f : Part → Part) : (s.updPart n f).fq n' = s.fq n' := rfl
@[simp] theorem State.updPart_stage (s : State) (n : Nat) (c' g' : Nat) (f : Part → Part) : (s.updPart n f).stage c' g' = s.stage c' g' := rfl
@[simp] theorem State.updPart_router (s : State) (n : Nat) (n' : Nat) (f : Part → Part) : (s.updPart n f).router n' = s.router n' := rfl
@[simp] theorem State.updPart_hport (s : State) (n : Nat) (n' : Nat) (f : Part → Part) : (s.updPart n f).hport n' = s.hport n' := rfl
@[simp] theorem State.updPart_fn (s : State) (n : Nat) (n' : Nat) (f : Part → Part) : (s.updPart n f).fn n' = s.fn n' := rfl
@[simp] theorem State.updPart_kslot (s : State) (n : Nat) (n' : Nat) (f : Part → Part) : (s.updPart n f).kslot n' = s.kslot n' := rfl
@[simp] theorem State.updPart_fport (s : State) (n : Nat) (n' : Nat) (f : Part → Part) : (s.updPart n f).fport n' = s.fport n' := rfl
@[simp] theorem State.updPart_job (s : State) (n : Nat) (n' : Nat) (f : Part → Part) : (s.updPart n f).job n' = s.job n' := rfl
@[simp] theorem State.updPart_isl (s : State) (n : Nat) (n' : Nat) (f : Part → Part) : (s.updPart n f).isl n' = s.isl n' := rfl
@[simp] theorem State.updPart_rail (s : State) (n : Nat) (n' : Nat) (f : Part → Part) : (s.updPart n f).rail n' = s.rail n' := rfl
@[simp] theorem State.updPart_coreS (s : State) (n : Nat) (n' : Nat) (f : Part → Part) : (s.updPart n f).coreS n' = s.coreS n' := rfl
@[simp] theorem State.updPart_role (s : State) (n : Nat) (n' : Nat) (f : Part → Part) : (s.updPart n f).role n' = s.role n' := rfl
@[simp] theorem State.updPart_mslot (s : State) (n : Nat) (n' : Nat) (f : Part → Part) : (s.updPart n f).mslot n' = s.mslot n' := rfl
@[simp] theorem State.updPart_hmem (s : State) (n : Nat) (n' : Nat) (f : Part → Part) : (s.updPart n f).hmem n' = s.hmem n' := rfl

/-! ## updUnit -/

theorem State.unit_updUnit_self {s : State} (h : s.canon = true) (n : Nat) (f : UnitC → UnitC) : (s.updUnit n f).unit n = f (s.unit n) :=
  Map.get_upd_self _ _ f _ (State.units_wf h)
theorem State.unit_updUnit_ne (s : State) (n : Nat) (n' : Nat) (f : UnitC → UnitC) (h : n' ≠ n) :
    (s.updUnit n f).unit n' = s.unit n' := Map.get_upd_ne _ _ _ f _ h
theorem State.updUnit_updUnit {s : State} (h : s.canon = true) (n : Nat) (f f' : UnitC → UnitC) :
    (s.updUnit n f).updUnit n f' = s.updUnit n (fun x => f' (f x)) := by
  simp only [State.updUnit, Map.upd_upd _ _ f f' _ (State.units_wf h)]
theorem State.updUnit_congr (s : State) (n : Nat) {f f' : UnitC → UnitC} (h : f (s.unit n) = f' (s.unit n)) :
    s.updUnit n f = s.updUnit n f' := by
  unfold State.updUnit Map.upd
  unfold State.unit at h
  rw [h]
@[simp] theorem State.updUnit_pending (s : State) (n : Nat) (f : UnitC → UnitC) : (s.updUnit n f).pending = s.pending := rfl
@[simp] theorem State.updUnit_parts (s : State) (n : Nat) (f : UnitC → UnitC) : (s.updUnit n f).parts = s.parts := rfl
@[simp] theorem State.updUnit_eng (s : State) (n : Nat) (f : UnitC → UnitC) : (s.updUnit n f).eng = s.eng := rfl
@[simp] theorem State.updUnit_vts (s : State) (n : Nat) (f : UnitC → UnitC) : (s.updUnit n f).vts = s.vts := rfl
@[simp] theorem State.updUnit_sts (s : State) (n : Nat) (f : UnitC → UnitC) : (s.updUnit n f).sts = s.sts := rfl
@[simp] theorem State.updUnit_bars (s : State) (n : Nat) (f : UnitC → UnitC) : (s.updUnit n f).bars = s.bars := rfl
@[simp] theorem State.updUnit_net (s : State) (n : Nat) (f : UnitC → UnitC) : (s.updUnit n f).net = s.net := rfl
@[simp] theorem State.updUnit_staged (s : State) (n : Nat) (f : UnitC → UnitC) : (s.updUnit n f).staged = s.staged := rfl
@[simp] theorem State.updUnit_nextHandle (s : State) (n : Nat) (f : UnitC → UnitC) : (s.updUnit n f).nextHandle = s.nextHandle := rfl
@[simp] theorem State.updUnit_comps (s : State) (n : Nat) (f : UnitC → UnitC) : (s.updUnit n f).comps = s.comps := rfl
@[simp] theorem State.updUnit_freeCids (s : State) (n : Nat) (f : UnitC → UnitC) : (s.updUnit n f).freeCids = s.freeCids := rfl
@[simp] theorem State.updUnit_tokens (s : State) (n : Nat) (f : UnitC → UnitC) : (s.updUnit n f).tokens = s.tokens := rfl
@[simp] theorem State.updUnit_nextToken (s : State) (n : Nat) (f : UnitC → UnitC) : (s.updUnit n f).nextToken = s.nextToken := rfl
@[simp] theorem State.updUnit_chans (s : State) (n : Nat) (f : UnitC → UnitC) : (s.updUnit n f).chans = s.chans := rfl
@[simp] theorem State.updUnit_grades (s : State) (n : Nat) (f : UnitC → UnitC) : (s.updUnit n f).grades = s.grades := rfl
@[simp] theorem State.updUnit_cool (s : State) (n : Nat) (f : UnitC → UnitC) : (s.updUnit n f).cool = s.cool := rfl
@[simp] theorem State.updUnit_far (s : State) (n : Nat) (f : UnitC → UnitC) : (s.updUnit n f).far = s.far := rfl
@[simp] theorem State.updUnit_xlt (s : State) (n : Nat) (f : UnitC → UnitC) : (s.updUnit n f).xlt = s.xlt := rfl
@[simp] theorem State.updUnit_ctxs (s : State) (n : Nat) (f : UnitC → UnitC) : (s.updUnit n f).ctxs = s.ctxs := rfl
@[simp] theorem State.updUnit_freedXids (s : State) (n : Nat) (f : UnitC → UnitC) : (s.updUnit n f).freedXids = s.freedXids := rfl
@[simp] theorem State.updUnit_nextXid (s : State) (n : Nat) (f : UnitC → UnitC) : (s.updUnit n f).nextXid = s.nextXid := rfl
@[simp] theorem State.updUnit_sch (s : State) (n : Nat) (f : UnitC → UnitC) : (s.updUnit n f).sch = s.sch := rfl
@[simp] theorem State.updUnit_fab (s : State) (n : Nat) (f : UnitC → UnitC) : (s.updUnit n f).fab = s.fab := rfl
@[simp] theorem State.updUnit_host (s : State) (n : Nat) (f : UnitC → UnitC) : (s.updUnit n f).host = s.host := rfl
@[simp] theorem State.updUnit_sec (s : State) (n : Nat) (f : UnitC → UnitC) : (s.updUnit n f).sec = s.sec := rfl
@[simp] theorem State.updUnit_pail (s : State) (n : Nat) (f : UnitC → UnitC) : (s.updUnit n f).pail = s.pail := rfl
@[simp] theorem State.updUnit_pwr (s : State) (n : Nat) (f : UnitC → UnitC) : (s.updUnit n f).pwr = s.pwr := rfl
@[simp] theorem State.updUnit_flt (s : State) (n : Nat) (f : UnitC → UnitC) : (s.updUnit n f).flt = s.flt := rfl
@[simp] theorem State.updUnit_jrn (s : State) (n : Nat) (f : UnitC → UnitC) : (s.updUnit n f).jrn = s.jrn := rfl
@[simp] theorem State.updUnit_fw (s : State) (n : Nat) (f : UnitC → UnitC) : (s.updUnit n f).fw = s.fw := rfl
@[simp] theorem State.updUnit_boot (s : State) (n : Nat) (f : UnitC → UnitC) : (s.updUnit n f).boot = s.boot := rfl
@[simp] theorem State.updUnit_now (s : State) (n : Nat) (f : UnitC → UnitC) : (s.updUnit n f).now = s.now := rfl
@[simp] theorem State.updUnit_fresh (s : State) (n : Nat) (f : UnitC → UnitC) : (s.updUnit n f).fresh = s.fresh := rfl
@[simp] theorem State.updUnit_out (s : State) (n : Nat) (f : UnitC → UnitC) : (s.updUnit n f).out = s.out := rfl
@[simp] theorem State.updUnit_part (s : State) (n : Nat) (n' : Nat) (f : UnitC → UnitC) : (s.updUnit n f).part n' = s.part n' := rfl
@[simp] theorem State.updUnit_engine (s : State) (n : Nat) (n' : Nat) (f : UnitC → UnitC) : (s.updUnit n f).engine n' = s.engine n' := rfl
@[simp] theorem State.updUnit_vt (s : State) (n : Nat) (n' : Nat) (f : UnitC → UnitC) : (s.updUnit n f).vt n' = s.vt n' := rfl
@[simp] theorem State.updUnit_tile (s : State) (n : Nat) (n' : Nat) (f : UnitC → UnitC) : (s.updUnit n f).tile n' = s.tile n' := rfl
@[simp] theorem State.updUnit_bar (s : State) (n : Nat) (c' b' : Nat) (f : UnitC → UnitC) : (s.updUnit n f).bar c' b' = s.bar c' b' := rfl
@[simp] theorem State.updUnit_comp (s : State) (n : Nat) (n' : Nat) (f : UnitC → UnitC) : (s.updUnit n f).comp n' = s.comp n' := rfl
@[simp] theorem State.updUnit_ctx (s : State) (n : Nat) (n' : Nat) (f : UnitC → UnitC) : (s.updUnit n f).ctx n' = s.ctx n' := rfl
@[simp] theorem State.updUnit_chan (s : State) (n : Nat) (n' : Nat) (f : UnitC → UnitC) : (s.updUnit n f).chan n' = s.chan n' := rfl
@[simp] theorem State.updUnit_farP (s : State) (n : Nat) (n' : Nat) (f : UnitC → UnitC) : (s.updUnit n f).farP n' = s.farP n' := rfl
@[simp] theorem State.updUnit_token (s : State) (n : Nat) (n' : Nat) (f : UnitC → UnitC) : (s.updUnit n f).token n' = s.token n' := rfl
@[simp] theorem State.updUnit_slot (s : State) (n : Nat) (x' i' : Nat) (f : UnitC → UnitC) : (s.updUnit n f).slot x' i' = s.slot x' i' := rfl
@[simp] theorem State.updUnit_fq (s : State) (n : Nat) (n' : Nat) (f : UnitC → UnitC) : (s.updUnit n f).fq n' = s.fq n' := rfl
@[simp] theorem State.updUnit_stage (s : State) (n : Nat) (c' g' : Nat) (f : UnitC → UnitC) : (s.updUnit n f).stage c' g' = s.stage c' g' := rfl
@[simp] theorem State.updUnit_router (s : State) (n : Nat) (n' : Nat) (f : UnitC → UnitC) : (s.updUnit n f).router n' = s.router n' := rfl
@[simp] theorem State.updUnit_hport (s : State) (n : Nat) (n' : Nat) (f : UnitC → UnitC) : (s.updUnit n f).hport n' = s.hport n' := rfl
@[simp] theorem State.updUnit_fn (s : State) (n : Nat) (n' : Nat) (f : UnitC → UnitC) : (s.updUnit n f).fn n' = s.fn n' := rfl
@[simp] theorem State.updUnit_kslot (s : State) (n : Nat) (n' : Nat) (f : UnitC → UnitC) : (s.updUnit n f).kslot n' = s.kslot n' := rfl
@[simp] theorem State.updUnit_fport (s : State) (n : Nat) (n' : Nat) (f : UnitC → UnitC) : (s.updUnit n f).fport n' = s.fport n' := rfl
@[simp] theorem State.updUnit_job (s : State) (n : Nat) (n' : Nat) (f : UnitC → UnitC) : (s.updUnit n f).job n' = s.job n' := rfl
@[simp] theorem State.updUnit_isl (s : State) (n : Nat) (n' : Nat) (f : UnitC → UnitC) : (s.updUnit n f).isl n' = s.isl n' := rfl
@[simp] theorem State.updUnit_rail (s : State) (n : Nat) (n' : Nat) (f : UnitC → UnitC) : (s.updUnit n f).rail n' = s.rail n' := rfl
@[simp] theorem State.updUnit_coreS (s : State) (n : Nat) (n' : Nat) (f : UnitC → UnitC) : (s.updUnit n f).coreS n' = s.coreS n' := rfl
@[simp] theorem State.updUnit_role (s : State) (n : Nat) (n' : Nat) (f : UnitC → UnitC) : (s.updUnit n f).role n' = s.role n' := rfl
@[simp] theorem State.updUnit_mslot (s : State) (n : Nat) (n' : Nat) (f : UnitC → UnitC) : (s.updUnit n f).mslot n' = s.mslot n' := rfl
@[simp] theorem State.updUnit_hmem (s : State) (n : Nat) (n' : Nat) (f : UnitC → UnitC) : (s.updUnit n f).hmem n' = s.hmem n' := rfl

/-! ## updEng -/

theorem State.engine_updEng_self {s : State} (h : s.canon = true) (n : Nat) (f : Engine → Engine) : (s.updEng n f).engine n = f (s.engine n) :=
  Map.get_upd_self _ _ f _ (State.eng_wf h)
theorem State.engine_updEng_ne (s : State) (n : Nat) (n' : Nat) (f : Engine → Engine) (h : n' ≠ n) :
    (s.updEng n f).engine n' = s.engine n' := Map.get_upd_ne _ _ _ f _ h
theorem State.updEng_updEng {s : State} (h : s.canon = true) (n : Nat) (f f' : Engine → Engine) :
    (s.updEng n f).updEng n f' = s.updEng n (fun x => f' (f x)) := by
  simp only [State.updEng, Map.upd_upd _ _ f f' _ (State.eng_wf h)]
theorem State.updEng_congr (s : State) (n : Nat) {f f' : Engine → Engine} (h : f (s.engine n) = f' (s.engine n)) :
    s.updEng n f = s.updEng n f' := by
  unfold State.updEng Map.upd
  unfold State.engine at h
  rw [h]
@[simp] theorem State.updEng_pending (s : State) (n : Nat) (f : Engine → Engine) : (s.updEng n f).pending = s.pending := rfl
@[simp] theorem State.updEng_parts (s : State) (n : Nat) (f : Engine → Engine) : (s.updEng n f).parts = s.parts := rfl
@[simp] theorem State.updEng_units (s : State) (n : Nat) (f : Engine → Engine) : (s.updEng n f).units = s.units := rfl
@[simp] theorem State.updEng_vts (s : State) (n : Nat) (f : Engine → Engine) : (s.updEng n f).vts = s.vts := rfl
@[simp] theorem State.updEng_sts (s : State) (n : Nat) (f : Engine → Engine) : (s.updEng n f).sts = s.sts := rfl
@[simp] theorem State.updEng_bars (s : State) (n : Nat) (f : Engine → Engine) : (s.updEng n f).bars = s.bars := rfl
@[simp] theorem State.updEng_net (s : State) (n : Nat) (f : Engine → Engine) : (s.updEng n f).net = s.net := rfl
@[simp] theorem State.updEng_staged (s : State) (n : Nat) (f : Engine → Engine) : (s.updEng n f).staged = s.staged := rfl
@[simp] theorem State.updEng_nextHandle (s : State) (n : Nat) (f : Engine → Engine) : (s.updEng n f).nextHandle = s.nextHandle := rfl
@[simp] theorem State.updEng_comps (s : State) (n : Nat) (f : Engine → Engine) : (s.updEng n f).comps = s.comps := rfl
@[simp] theorem State.updEng_freeCids (s : State) (n : Nat) (f : Engine → Engine) : (s.updEng n f).freeCids = s.freeCids := rfl
@[simp] theorem State.updEng_tokens (s : State) (n : Nat) (f : Engine → Engine) : (s.updEng n f).tokens = s.tokens := rfl
@[simp] theorem State.updEng_nextToken (s : State) (n : Nat) (f : Engine → Engine) : (s.updEng n f).nextToken = s.nextToken := rfl
@[simp] theorem State.updEng_chans (s : State) (n : Nat) (f : Engine → Engine) : (s.updEng n f).chans = s.chans := rfl
@[simp] theorem State.updEng_grades (s : State) (n : Nat) (f : Engine → Engine) : (s.updEng n f).grades = s.grades := rfl
@[simp] theorem State.updEng_cool (s : State) (n : Nat) (f : Engine → Engine) : (s.updEng n f).cool = s.cool := rfl
@[simp] theorem State.updEng_far (s : State) (n : Nat) (f : Engine → Engine) : (s.updEng n f).far = s.far := rfl
@[simp] theorem State.updEng_xlt (s : State) (n : Nat) (f : Engine → Engine) : (s.updEng n f).xlt = s.xlt := rfl
@[simp] theorem State.updEng_ctxs (s : State) (n : Nat) (f : Engine → Engine) : (s.updEng n f).ctxs = s.ctxs := rfl
@[simp] theorem State.updEng_freedXids (s : State) (n : Nat) (f : Engine → Engine) : (s.updEng n f).freedXids = s.freedXids := rfl
@[simp] theorem State.updEng_nextXid (s : State) (n : Nat) (f : Engine → Engine) : (s.updEng n f).nextXid = s.nextXid := rfl
@[simp] theorem State.updEng_sch (s : State) (n : Nat) (f : Engine → Engine) : (s.updEng n f).sch = s.sch := rfl
@[simp] theorem State.updEng_fab (s : State) (n : Nat) (f : Engine → Engine) : (s.updEng n f).fab = s.fab := rfl
@[simp] theorem State.updEng_host (s : State) (n : Nat) (f : Engine → Engine) : (s.updEng n f).host = s.host := rfl
@[simp] theorem State.updEng_sec (s : State) (n : Nat) (f : Engine → Engine) : (s.updEng n f).sec = s.sec := rfl
@[simp] theorem State.updEng_pail (s : State) (n : Nat) (f : Engine → Engine) : (s.updEng n f).pail = s.pail := rfl
@[simp] theorem State.updEng_pwr (s : State) (n : Nat) (f : Engine → Engine) : (s.updEng n f).pwr = s.pwr := rfl
@[simp] theorem State.updEng_flt (s : State) (n : Nat) (f : Engine → Engine) : (s.updEng n f).flt = s.flt := rfl
@[simp] theorem State.updEng_jrn (s : State) (n : Nat) (f : Engine → Engine) : (s.updEng n f).jrn = s.jrn := rfl
@[simp] theorem State.updEng_fw (s : State) (n : Nat) (f : Engine → Engine) : (s.updEng n f).fw = s.fw := rfl
@[simp] theorem State.updEng_boot (s : State) (n : Nat) (f : Engine → Engine) : (s.updEng n f).boot = s.boot := rfl
@[simp] theorem State.updEng_now (s : State) (n : Nat) (f : Engine → Engine) : (s.updEng n f).now = s.now := rfl
@[simp] theorem State.updEng_fresh (s : State) (n : Nat) (f : Engine → Engine) : (s.updEng n f).fresh = s.fresh := rfl
@[simp] theorem State.updEng_out (s : State) (n : Nat) (f : Engine → Engine) : (s.updEng n f).out = s.out := rfl
@[simp] theorem State.updEng_part (s : State) (n : Nat) (n' : Nat) (f : Engine → Engine) : (s.updEng n f).part n' = s.part n' := rfl
@[simp] theorem State.updEng_unit (s : State) (n : Nat) (n' : Nat) (f : Engine → Engine) : (s.updEng n f).unit n' = s.unit n' := rfl
@[simp] theorem State.updEng_vt (s : State) (n : Nat) (n' : Nat) (f : Engine → Engine) : (s.updEng n f).vt n' = s.vt n' := rfl
@[simp] theorem State.updEng_tile (s : State) (n : Nat) (n' : Nat) (f : Engine → Engine) : (s.updEng n f).tile n' = s.tile n' := rfl
@[simp] theorem State.updEng_bar (s : State) (n : Nat) (c' b' : Nat) (f : Engine → Engine) : (s.updEng n f).bar c' b' = s.bar c' b' := rfl
@[simp] theorem State.updEng_comp (s : State) (n : Nat) (n' : Nat) (f : Engine → Engine) : (s.updEng n f).comp n' = s.comp n' := rfl
@[simp] theorem State.updEng_ctx (s : State) (n : Nat) (n' : Nat) (f : Engine → Engine) : (s.updEng n f).ctx n' = s.ctx n' := rfl
@[simp] theorem State.updEng_chan (s : State) (n : Nat) (n' : Nat) (f : Engine → Engine) : (s.updEng n f).chan n' = s.chan n' := rfl
@[simp] theorem State.updEng_farP (s : State) (n : Nat) (n' : Nat) (f : Engine → Engine) : (s.updEng n f).farP n' = s.farP n' := rfl
@[simp] theorem State.updEng_token (s : State) (n : Nat) (n' : Nat) (f : Engine → Engine) : (s.updEng n f).token n' = s.token n' := rfl
@[simp] theorem State.updEng_slot (s : State) (n : Nat) (x' i' : Nat) (f : Engine → Engine) : (s.updEng n f).slot x' i' = s.slot x' i' := rfl
@[simp] theorem State.updEng_fq (s : State) (n : Nat) (n' : Nat) (f : Engine → Engine) : (s.updEng n f).fq n' = s.fq n' := rfl
@[simp] theorem State.updEng_stage (s : State) (n : Nat) (c' g' : Nat) (f : Engine → Engine) : (s.updEng n f).stage c' g' = s.stage c' g' := rfl
@[simp] theorem State.updEng_router (s : State) (n : Nat) (n' : Nat) (f : Engine → Engine) : (s.updEng n f).router n' = s.router n' := rfl
@[simp] theorem State.updEng_hport (s : State) (n : Nat) (n' : Nat) (f : Engine → Engine) : (s.updEng n f).hport n' = s.hport n' := rfl
@[simp] theorem State.updEng_fn (s : State) (n : Nat) (n' : Nat) (f : Engine → Engine) : (s.updEng n f).fn n' = s.fn n' := rfl
@[simp] theorem State.updEng_kslot (s : State) (n : Nat) (n' : Nat) (f : Engine → Engine) : (s.updEng n f).kslot n' = s.kslot n' := rfl
@[simp] theorem State.updEng_fport (s : State) (n : Nat) (n' : Nat) (f : Engine → Engine) : (s.updEng n f).fport n' = s.fport n' := rfl
@[simp] theorem State.updEng_job (s : State) (n : Nat) (n' : Nat) (f : Engine → Engine) : (s.updEng n f).job n' = s.job n' := rfl
@[simp] theorem State.updEng_isl (s : State) (n : Nat) (n' : Nat) (f : Engine → Engine) : (s.updEng n f).isl n' = s.isl n' := rfl
@[simp] theorem State.updEng_rail (s : State) (n : Nat) (n' : Nat) (f : Engine → Engine) : (s.updEng n f).rail n' = s.rail n' := rfl
@[simp] theorem State.updEng_coreS (s : State) (n : Nat) (n' : Nat) (f : Engine → Engine) : (s.updEng n f).coreS n' = s.coreS n' := rfl
@[simp] theorem State.updEng_role (s : State) (n : Nat) (n' : Nat) (f : Engine → Engine) : (s.updEng n f).role n' = s.role n' := rfl
@[simp] theorem State.updEng_mslot (s : State) (n : Nat) (n' : Nat) (f : Engine → Engine) : (s.updEng n f).mslot n' = s.mslot n' := rfl
@[simp] theorem State.updEng_hmem (s : State) (n : Nat) (n' : Nat) (f : Engine → Engine) : (s.updEng n f).hmem n' = s.hmem n' := rfl

/-! ## updVt -/

theorem State.vt_updVt_self {s : State} (h : s.canon = true) (n : Nat) (f : VTile → VTile) : (s.updVt n f).vt n = f (s.vt n) :=
  Map.get_upd_self _ _ f _ (State.vts_wf h)
theorem State.vt_updVt_ne (s : State) (n : Nat) (n' : Nat) (f : VTile → VTile) (h : n' ≠ n) :
    (s.updVt n f).vt n' = s.vt n' := Map.get_upd_ne _ _ _ f _ h
theorem State.updVt_updVt {s : State} (h : s.canon = true) (n : Nat) (f f' : VTile → VTile) :
    (s.updVt n f).updVt n f' = s.updVt n (fun x => f' (f x)) := by
  simp only [State.updVt, Map.upd_upd _ _ f f' _ (State.vts_wf h)]
theorem State.updVt_congr (s : State) (n : Nat) {f f' : VTile → VTile} (h : f (s.vt n) = f' (s.vt n)) :
    s.updVt n f = s.updVt n f' := by
  unfold State.updVt Map.upd
  unfold State.vt at h
  rw [h]
@[simp] theorem State.updVt_pending (s : State) (n : Nat) (f : VTile → VTile) : (s.updVt n f).pending = s.pending := rfl
@[simp] theorem State.updVt_parts (s : State) (n : Nat) (f : VTile → VTile) : (s.updVt n f).parts = s.parts := rfl
@[simp] theorem State.updVt_units (s : State) (n : Nat) (f : VTile → VTile) : (s.updVt n f).units = s.units := rfl
@[simp] theorem State.updVt_eng (s : State) (n : Nat) (f : VTile → VTile) : (s.updVt n f).eng = s.eng := rfl
@[simp] theorem State.updVt_sts (s : State) (n : Nat) (f : VTile → VTile) : (s.updVt n f).sts = s.sts := rfl
@[simp] theorem State.updVt_bars (s : State) (n : Nat) (f : VTile → VTile) : (s.updVt n f).bars = s.bars := rfl
@[simp] theorem State.updVt_net (s : State) (n : Nat) (f : VTile → VTile) : (s.updVt n f).net = s.net := rfl
@[simp] theorem State.updVt_staged (s : State) (n : Nat) (f : VTile → VTile) : (s.updVt n f).staged = s.staged := rfl
@[simp] theorem State.updVt_nextHandle (s : State) (n : Nat) (f : VTile → VTile) : (s.updVt n f).nextHandle = s.nextHandle := rfl
@[simp] theorem State.updVt_comps (s : State) (n : Nat) (f : VTile → VTile) : (s.updVt n f).comps = s.comps := rfl
@[simp] theorem State.updVt_freeCids (s : State) (n : Nat) (f : VTile → VTile) : (s.updVt n f).freeCids = s.freeCids := rfl
@[simp] theorem State.updVt_tokens (s : State) (n : Nat) (f : VTile → VTile) : (s.updVt n f).tokens = s.tokens := rfl
@[simp] theorem State.updVt_nextToken (s : State) (n : Nat) (f : VTile → VTile) : (s.updVt n f).nextToken = s.nextToken := rfl
@[simp] theorem State.updVt_chans (s : State) (n : Nat) (f : VTile → VTile) : (s.updVt n f).chans = s.chans := rfl
@[simp] theorem State.updVt_grades (s : State) (n : Nat) (f : VTile → VTile) : (s.updVt n f).grades = s.grades := rfl
@[simp] theorem State.updVt_cool (s : State) (n : Nat) (f : VTile → VTile) : (s.updVt n f).cool = s.cool := rfl
@[simp] theorem State.updVt_far (s : State) (n : Nat) (f : VTile → VTile) : (s.updVt n f).far = s.far := rfl
@[simp] theorem State.updVt_xlt (s : State) (n : Nat) (f : VTile → VTile) : (s.updVt n f).xlt = s.xlt := rfl
@[simp] theorem State.updVt_ctxs (s : State) (n : Nat) (f : VTile → VTile) : (s.updVt n f).ctxs = s.ctxs := rfl
@[simp] theorem State.updVt_freedXids (s : State) (n : Nat) (f : VTile → VTile) : (s.updVt n f).freedXids = s.freedXids := rfl
@[simp] theorem State.updVt_nextXid (s : State) (n : Nat) (f : VTile → VTile) : (s.updVt n f).nextXid = s.nextXid := rfl
@[simp] theorem State.updVt_sch (s : State) (n : Nat) (f : VTile → VTile) : (s.updVt n f).sch = s.sch := rfl
@[simp] theorem State.updVt_fab (s : State) (n : Nat) (f : VTile → VTile) : (s.updVt n f).fab = s.fab := rfl
@[simp] theorem State.updVt_host (s : State) (n : Nat) (f : VTile → VTile) : (s.updVt n f).host = s.host := rfl
@[simp] theorem State.updVt_sec (s : State) (n : Nat) (f : VTile → VTile) : (s.updVt n f).sec = s.sec := rfl
@[simp] theorem State.updVt_pail (s : State) (n : Nat) (f : VTile → VTile) : (s.updVt n f).pail = s.pail := rfl
@[simp] theorem State.updVt_pwr (s : State) (n : Nat) (f : VTile → VTile) : (s.updVt n f).pwr = s.pwr := rfl
@[simp] theorem State.updVt_flt (s : State) (n : Nat) (f : VTile → VTile) : (s.updVt n f).flt = s.flt := rfl
@[simp] theorem State.updVt_jrn (s : State) (n : Nat) (f : VTile → VTile) : (s.updVt n f).jrn = s.jrn := rfl
@[simp] theorem State.updVt_fw (s : State) (n : Nat) (f : VTile → VTile) : (s.updVt n f).fw = s.fw := rfl
@[simp] theorem State.updVt_boot (s : State) (n : Nat) (f : VTile → VTile) : (s.updVt n f).boot = s.boot := rfl
@[simp] theorem State.updVt_now (s : State) (n : Nat) (f : VTile → VTile) : (s.updVt n f).now = s.now := rfl
@[simp] theorem State.updVt_fresh (s : State) (n : Nat) (f : VTile → VTile) : (s.updVt n f).fresh = s.fresh := rfl
@[simp] theorem State.updVt_out (s : State) (n : Nat) (f : VTile → VTile) : (s.updVt n f).out = s.out := rfl
@[simp] theorem State.updVt_part (s : State) (n : Nat) (n' : Nat) (f : VTile → VTile) : (s.updVt n f).part n' = s.part n' := rfl
@[simp] theorem State.updVt_unit (s : State) (n : Nat) (n' : Nat) (f : VTile → VTile) : (s.updVt n f).unit n' = s.unit n' := rfl
@[simp] theorem State.updVt_engine (s : State) (n : Nat) (n' : Nat) (f : VTile → VTile) : (s.updVt n f).engine n' = s.engine n' := rfl
@[simp] theorem State.updVt_tile (s : State) (n : Nat) (n' : Nat) (f : VTile → VTile) : (s.updVt n f).tile n' = s.tile n' := rfl
@[simp] theorem State.updVt_bar (s : State) (n : Nat) (c' b' : Nat) (f : VTile → VTile) : (s.updVt n f).bar c' b' = s.bar c' b' := rfl
@[simp] theorem State.updVt_comp (s : State) (n : Nat) (n' : Nat) (f : VTile → VTile) : (s.updVt n f).comp n' = s.comp n' := rfl
@[simp] theorem State.updVt_ctx (s : State) (n : Nat) (n' : Nat) (f : VTile → VTile) : (s.updVt n f).ctx n' = s.ctx n' := rfl
@[simp] theorem State.updVt_chan (s : State) (n : Nat) (n' : Nat) (f : VTile → VTile) : (s.updVt n f).chan n' = s.chan n' := rfl
@[simp] theorem State.updVt_farP (s : State) (n : Nat) (n' : Nat) (f : VTile → VTile) : (s.updVt n f).farP n' = s.farP n' := rfl
@[simp] theorem State.updVt_token (s : State) (n : Nat) (n' : Nat) (f : VTile → VTile) : (s.updVt n f).token n' = s.token n' := rfl
@[simp] theorem State.updVt_slot (s : State) (n : Nat) (x' i' : Nat) (f : VTile → VTile) : (s.updVt n f).slot x' i' = s.slot x' i' := rfl
@[simp] theorem State.updVt_fq (s : State) (n : Nat) (n' : Nat) (f : VTile → VTile) : (s.updVt n f).fq n' = s.fq n' := rfl
@[simp] theorem State.updVt_stage (s : State) (n : Nat) (c' g' : Nat) (f : VTile → VTile) : (s.updVt n f).stage c' g' = s.stage c' g' := rfl
@[simp] theorem State.updVt_router (s : State) (n : Nat) (n' : Nat) (f : VTile → VTile) : (s.updVt n f).router n' = s.router n' := rfl
@[simp] theorem State.updVt_hport (s : State) (n : Nat) (n' : Nat) (f : VTile → VTile) : (s.updVt n f).hport n' = s.hport n' := rfl
@[simp] theorem State.updVt_fn (s : State) (n : Nat) (n' : Nat) (f : VTile → VTile) : (s.updVt n f).fn n' = s.fn n' := rfl
@[simp] theorem State.updVt_kslot (s : State) (n : Nat) (n' : Nat) (f : VTile → VTile) : (s.updVt n f).kslot n' = s.kslot n' := rfl
@[simp] theorem State.updVt_fport (s : State) (n : Nat) (n' : Nat) (f : VTile → VTile) : (s.updVt n f).fport n' = s.fport n' := rfl
@[simp] theorem State.updVt_job (s : State) (n : Nat) (n' : Nat) (f : VTile → VTile) : (s.updVt n f).job n' = s.job n' := rfl
@[simp] theorem State.updVt_isl (s : State) (n : Nat) (n' : Nat) (f : VTile → VTile) : (s.updVt n f).isl n' = s.isl n' := rfl
@[simp] theorem State.updVt_rail (s : State) (n : Nat) (n' : Nat) (f : VTile → VTile) : (s.updVt n f).rail n' = s.rail n' := rfl
@[simp] theorem State.updVt_coreS (s : State) (n : Nat) (n' : Nat) (f : VTile → VTile) : (s.updVt n f).coreS n' = s.coreS n' := rfl
@[simp] theorem State.updVt_role (s : State) (n : Nat) (n' : Nat) (f : VTile → VTile) : (s.updVt n f).role n' = s.role n' := rfl
@[simp] theorem State.updVt_mslot (s : State) (n : Nat) (n' : Nat) (f : VTile → VTile) : (s.updVt n f).mslot n' = s.mslot n' := rfl
@[simp] theorem State.updVt_hmem (s : State) (n : Nat) (n' : Nat) (f : VTile → VTile) : (s.updVt n f).hmem n' = s.hmem n' := rfl

/-! ## updSt -/

theorem State.tile_updSt_self {s : State} (h : s.canon = true) (n : Nat) (f : STile → STile) : (s.updSt n f).tile n = f (s.tile n) :=
  Map.get_upd_self _ _ f _ (State.sts_wf h)
theorem State.tile_updSt_ne (s : State) (n : Nat) (n' : Nat) (f : STile → STile) (h : n' ≠ n) :
    (s.updSt n f).tile n' = s.tile n' := Map.get_upd_ne _ _ _ f _ h
theorem State.updSt_updSt {s : State} (h : s.canon = true) (n : Nat) (f f' : STile → STile) :
    (s.updSt n f).updSt n f' = s.updSt n (fun x => f' (f x)) := by
  simp only [State.updSt, Map.upd_upd _ _ f f' _ (State.sts_wf h)]
theorem State.updSt_congr (s : State) (n : Nat) {f f' : STile → STile} (h : f (s.tile n) = f' (s.tile n)) :
    s.updSt n f = s.updSt n f' := by
  unfold State.updSt Map.upd
  unfold State.tile at h
  rw [h]
@[simp] theorem State.updSt_pending (s : State) (n : Nat) (f : STile → STile) : (s.updSt n f).pending = s.pending := rfl
@[simp] theorem State.updSt_parts (s : State) (n : Nat) (f : STile → STile) : (s.updSt n f).parts = s.parts := rfl
@[simp] theorem State.updSt_units (s : State) (n : Nat) (f : STile → STile) : (s.updSt n f).units = s.units := rfl
@[simp] theorem State.updSt_eng (s : State) (n : Nat) (f : STile → STile) : (s.updSt n f).eng = s.eng := rfl
@[simp] theorem State.updSt_vts (s : State) (n : Nat) (f : STile → STile) : (s.updSt n f).vts = s.vts := rfl
@[simp] theorem State.updSt_bars (s : State) (n : Nat) (f : STile → STile) : (s.updSt n f).bars = s.bars := rfl
@[simp] theorem State.updSt_net (s : State) (n : Nat) (f : STile → STile) : (s.updSt n f).net = s.net := rfl
@[simp] theorem State.updSt_staged (s : State) (n : Nat) (f : STile → STile) : (s.updSt n f).staged = s.staged := rfl
@[simp] theorem State.updSt_nextHandle (s : State) (n : Nat) (f : STile → STile) : (s.updSt n f).nextHandle = s.nextHandle := rfl
@[simp] theorem State.updSt_comps (s : State) (n : Nat) (f : STile → STile) : (s.updSt n f).comps = s.comps := rfl
@[simp] theorem State.updSt_freeCids (s : State) (n : Nat) (f : STile → STile) : (s.updSt n f).freeCids = s.freeCids := rfl
@[simp] theorem State.updSt_tokens (s : State) (n : Nat) (f : STile → STile) : (s.updSt n f).tokens = s.tokens := rfl
@[simp] theorem State.updSt_nextToken (s : State) (n : Nat) (f : STile → STile) : (s.updSt n f).nextToken = s.nextToken := rfl
@[simp] theorem State.updSt_chans (s : State) (n : Nat) (f : STile → STile) : (s.updSt n f).chans = s.chans := rfl
@[simp] theorem State.updSt_grades (s : State) (n : Nat) (f : STile → STile) : (s.updSt n f).grades = s.grades := rfl
@[simp] theorem State.updSt_cool (s : State) (n : Nat) (f : STile → STile) : (s.updSt n f).cool = s.cool := rfl
@[simp] theorem State.updSt_far (s : State) (n : Nat) (f : STile → STile) : (s.updSt n f).far = s.far := rfl
@[simp] theorem State.updSt_xlt (s : State) (n : Nat) (f : STile → STile) : (s.updSt n f).xlt = s.xlt := rfl
@[simp] theorem State.updSt_ctxs (s : State) (n : Nat) (f : STile → STile) : (s.updSt n f).ctxs = s.ctxs := rfl
@[simp] theorem State.updSt_freedXids (s : State) (n : Nat) (f : STile → STile) : (s.updSt n f).freedXids = s.freedXids := rfl
@[simp] theorem State.updSt_nextXid (s : State) (n : Nat) (f : STile → STile) : (s.updSt n f).nextXid = s.nextXid := rfl
@[simp] theorem State.updSt_sch (s : State) (n : Nat) (f : STile → STile) : (s.updSt n f).sch = s.sch := rfl
@[simp] theorem State.updSt_fab (s : State) (n : Nat) (f : STile → STile) : (s.updSt n f).fab = s.fab := rfl
@[simp] theorem State.updSt_host (s : State) (n : Nat) (f : STile → STile) : (s.updSt n f).host = s.host := rfl
@[simp] theorem State.updSt_sec (s : State) (n : Nat) (f : STile → STile) : (s.updSt n f).sec = s.sec := rfl
@[simp] theorem State.updSt_pail (s : State) (n : Nat) (f : STile → STile) : (s.updSt n f).pail = s.pail := rfl
@[simp] theorem State.updSt_pwr (s : State) (n : Nat) (f : STile → STile) : (s.updSt n f).pwr = s.pwr := rfl
@[simp] theorem State.updSt_flt (s : State) (n : Nat) (f : STile → STile) : (s.updSt n f).flt = s.flt := rfl
@[simp] theorem State.updSt_jrn (s : State) (n : Nat) (f : STile → STile) : (s.updSt n f).jrn = s.jrn := rfl
@[simp] theorem State.updSt_fw (s : State) (n : Nat) (f : STile → STile) : (s.updSt n f).fw = s.fw := rfl
@[simp] theorem State.updSt_boot (s : State) (n : Nat) (f : STile → STile) : (s.updSt n f).boot = s.boot := rfl
@[simp] theorem State.updSt_now (s : State) (n : Nat) (f : STile → STile) : (s.updSt n f).now = s.now := rfl
@[simp] theorem State.updSt_fresh (s : State) (n : Nat) (f : STile → STile) : (s.updSt n f).fresh = s.fresh := rfl
@[simp] theorem State.updSt_out (s : State) (n : Nat) (f : STile → STile) : (s.updSt n f).out = s.out := rfl
@[simp] theorem State.updSt_part (s : State) (n : Nat) (n' : Nat) (f : STile → STile) : (s.updSt n f).part n' = s.part n' := rfl
@[simp] theorem State.updSt_unit (s : State) (n : Nat) (n' : Nat) (f : STile → STile) : (s.updSt n f).unit n' = s.unit n' := rfl
@[simp] theorem State.updSt_engine (s : State) (n : Nat) (n' : Nat) (f : STile → STile) : (s.updSt n f).engine n' = s.engine n' := rfl
@[simp] theorem State.updSt_vt (s : State) (n : Nat) (n' : Nat) (f : STile → STile) : (s.updSt n f).vt n' = s.vt n' := rfl
@[simp] theorem State.updSt_bar (s : State) (n : Nat) (c' b' : Nat) (f : STile → STile) : (s.updSt n f).bar c' b' = s.bar c' b' := rfl
@[simp] theorem State.updSt_comp (s : State) (n : Nat) (n' : Nat) (f : STile → STile) : (s.updSt n f).comp n' = s.comp n' := rfl
@[simp] theorem State.updSt_ctx (s : State) (n : Nat) (n' : Nat) (f : STile → STile) : (s.updSt n f).ctx n' = s.ctx n' := rfl
@[simp] theorem State.updSt_chan (s : State) (n : Nat) (n' : Nat) (f : STile → STile) : (s.updSt n f).chan n' = s.chan n' := rfl
@[simp] theorem State.updSt_farP (s : State) (n : Nat) (n' : Nat) (f : STile → STile) : (s.updSt n f).farP n' = s.farP n' := rfl
@[simp] theorem State.updSt_token (s : State) (n : Nat) (n' : Nat) (f : STile → STile) : (s.updSt n f).token n' = s.token n' := rfl
@[simp] theorem State.updSt_slot (s : State) (n : Nat) (x' i' : Nat) (f : STile → STile) : (s.updSt n f).slot x' i' = s.slot x' i' := rfl
@[simp] theorem State.updSt_fq (s : State) (n : Nat) (n' : Nat) (f : STile → STile) : (s.updSt n f).fq n' = s.fq n' := rfl
@[simp] theorem State.updSt_stage (s : State) (n : Nat) (c' g' : Nat) (f : STile → STile) : (s.updSt n f).stage c' g' = s.stage c' g' := rfl
@[simp] theorem State.updSt_router (s : State) (n : Nat) (n' : Nat) (f : STile → STile) : (s.updSt n f).router n' = s.router n' := rfl
@[simp] theorem State.updSt_hport (s : State) (n : Nat) (n' : Nat) (f : STile → STile) : (s.updSt n f).hport n' = s.hport n' := rfl
@[simp] theorem State.updSt_fn (s : State) (n : Nat) (n' : Nat) (f : STile → STile) : (s.updSt n f).fn n' = s.fn n' := rfl
@[simp] theorem State.updSt_kslot (s : State) (n : Nat) (n' : Nat) (f : STile → STile) : (s.updSt n f).kslot n' = s.kslot n' := rfl
@[simp] theorem State.updSt_fport (s : State) (n : Nat) (n' : Nat) (f : STile → STile) : (s.updSt n f).fport n' = s.fport n' := rfl
@[simp] theorem State.updSt_job (s : State) (n : Nat) (n' : Nat) (f : STile → STile) : (s.updSt n f).job n' = s.job n' := rfl
@[simp] theorem State.updSt_isl (s : State) (n : Nat) (n' : Nat) (f : STile → STile) : (s.updSt n f).isl n' = s.isl n' := rfl
@[simp] theorem State.updSt_rail (s : State) (n : Nat) (n' : Nat) (f : STile → STile) : (s.updSt n f).rail n' = s.rail n' := rfl
@[simp] theorem State.updSt_coreS (s : State) (n : Nat) (n' : Nat) (f : STile → STile) : (s.updSt n f).coreS n' = s.coreS n' := rfl
@[simp] theorem State.updSt_role (s : State) (n : Nat) (n' : Nat) (f : STile → STile) : (s.updSt n f).role n' = s.role n' := rfl
@[simp] theorem State.updSt_mslot (s : State) (n : Nat) (n' : Nat) (f : STile → STile) : (s.updSt n f).mslot n' = s.mslot n' := rfl
@[simp] theorem State.updSt_hmem (s : State) (n : Nat) (n' : Nat) (f : STile → STile) : (s.updSt n f).hmem n' = s.hmem n' := rfl

/-! ## updBar -/

theorem State.bar_updBar_self {s : State} (h : s.canon = true) (c b : Nat) (f : Barrier → Barrier) : (s.updBar c b f).bar c b = f (s.bar c b) :=
  Map.get_upd_self _ _ f _ (State.bars_wf h)
theorem State.bar_updBar_ne (s : State) (c b : Nat) (c' b' : Nat) (f : Barrier → Barrier) (h : (32 * c' + b') ≠ (32 * c + b)) :
    (s.updBar c b f).bar c' b' = s.bar c' b' := Map.get_upd_ne _ _ _ f _ h
theorem State.updBar_updBar {s : State} (h : s.canon = true) (c b : Nat) (f f' : Barrier → Barrier) :
    (s.updBar c b f).updBar c b f' = s.updBar c b (fun x => f' (f x)) := by
  simp only [State.updBar, Map.upd_upd _ _ f f' _ (State.bars_wf h)]
theorem State.updBar_congr (s : State) (c b : Nat) {f f' : Barrier → Barrier} (h : f (s.bar c b) = f' (s.bar c b)) :
    s.updBar c b f = s.updBar c b f' := by
  unfold State.updBar Map.upd
  unfold State.bar at h
  rw [h]
@[simp] theorem State.updBar_pending (s : State) (c b : Nat) (f : Barrier → Barrier) : (s.updBar c b f).pending = s.pending := rfl
@[simp] theorem State.updBar_parts (s : State) (c b : Nat) (f : Barrier → Barrier) : (s.updBar c b f).parts = s.parts := rfl
@[simp] theorem State.updBar_units (s : State) (c b : Nat) (f : Barrier → Barrier) : (s.updBar c b f).units = s.units := rfl
@[simp] theorem State.updBar_eng (s : State) (c b : Nat) (f : Barrier → Barrier) : (s.updBar c b f).eng = s.eng := rfl
@[simp] theorem State.updBar_vts (s : State) (c b : Nat) (f : Barrier → Barrier) : (s.updBar c b f).vts = s.vts := rfl
@[simp] theorem State.updBar_sts (s : State) (c b : Nat) (f : Barrier → Barrier) : (s.updBar c b f).sts = s.sts := rfl
@[simp] theorem State.updBar_net (s : State) (c b : Nat) (f : Barrier → Barrier) : (s.updBar c b f).net = s.net := rfl
@[simp] theorem State.updBar_staged (s : State) (c b : Nat) (f : Barrier → Barrier) : (s.updBar c b f).staged = s.staged := rfl
@[simp] theorem State.updBar_nextHandle (s : State) (c b : Nat) (f : Barrier → Barrier) : (s.updBar c b f).nextHandle = s.nextHandle := rfl
@[simp] theorem State.updBar_comps (s : State) (c b : Nat) (f : Barrier → Barrier) : (s.updBar c b f).comps = s.comps := rfl
@[simp] theorem State.updBar_freeCids (s : State) (c b : Nat) (f : Barrier → Barrier) : (s.updBar c b f).freeCids = s.freeCids := rfl
@[simp] theorem State.updBar_tokens (s : State) (c b : Nat) (f : Barrier → Barrier) : (s.updBar c b f).tokens = s.tokens := rfl
@[simp] theorem State.updBar_nextToken (s : State) (c b : Nat) (f : Barrier → Barrier) : (s.updBar c b f).nextToken = s.nextToken := rfl
@[simp] theorem State.updBar_chans (s : State) (c b : Nat) (f : Barrier → Barrier) : (s.updBar c b f).chans = s.chans := rfl
@[simp] theorem State.updBar_grades (s : State) (c b : Nat) (f : Barrier → Barrier) : (s.updBar c b f).grades = s.grades := rfl
@[simp] theorem State.updBar_cool (s : State) (c b : Nat) (f : Barrier → Barrier) : (s.updBar c b f).cool = s.cool := rfl
@[simp] theorem State.updBar_far (s : State) (c b : Nat) (f : Barrier → Barrier) : (s.updBar c b f).far = s.far := rfl
@[simp] theorem State.updBar_xlt (s : State) (c b : Nat) (f : Barrier → Barrier) : (s.updBar c b f).xlt = s.xlt := rfl
@[simp] theorem State.updBar_ctxs (s : State) (c b : Nat) (f : Barrier → Barrier) : (s.updBar c b f).ctxs = s.ctxs := rfl
@[simp] theorem State.updBar_freedXids (s : State) (c b : Nat) (f : Barrier → Barrier) : (s.updBar c b f).freedXids = s.freedXids := rfl
@[simp] theorem State.updBar_nextXid (s : State) (c b : Nat) (f : Barrier → Barrier) : (s.updBar c b f).nextXid = s.nextXid := rfl
@[simp] theorem State.updBar_sch (s : State) (c b : Nat) (f : Barrier → Barrier) : (s.updBar c b f).sch = s.sch := rfl
@[simp] theorem State.updBar_fab (s : State) (c b : Nat) (f : Barrier → Barrier) : (s.updBar c b f).fab = s.fab := rfl
@[simp] theorem State.updBar_host (s : State) (c b : Nat) (f : Barrier → Barrier) : (s.updBar c b f).host = s.host := rfl
@[simp] theorem State.updBar_sec (s : State) (c b : Nat) (f : Barrier → Barrier) : (s.updBar c b f).sec = s.sec := rfl
@[simp] theorem State.updBar_pail (s : State) (c b : Nat) (f : Barrier → Barrier) : (s.updBar c b f).pail = s.pail := rfl
@[simp] theorem State.updBar_pwr (s : State) (c b : Nat) (f : Barrier → Barrier) : (s.updBar c b f).pwr = s.pwr := rfl
@[simp] theorem State.updBar_flt (s : State) (c b : Nat) (f : Barrier → Barrier) : (s.updBar c b f).flt = s.flt := rfl
@[simp] theorem State.updBar_jrn (s : State) (c b : Nat) (f : Barrier → Barrier) : (s.updBar c b f).jrn = s.jrn := rfl
@[simp] theorem State.updBar_fw (s : State) (c b : Nat) (f : Barrier → Barrier) : (s.updBar c b f).fw = s.fw := rfl
@[simp] theorem State.updBar_boot (s : State) (c b : Nat) (f : Barrier → Barrier) : (s.updBar c b f).boot = s.boot := rfl
@[simp] theorem State.updBar_now (s : State) (c b : Nat) (f : Barrier → Barrier) : (s.updBar c b f).now = s.now := rfl
@[simp] theorem State.updBar_fresh (s : State) (c b : Nat) (f : Barrier → Barrier) : (s.updBar c b f).fresh = s.fresh := rfl
@[simp] theorem State.updBar_out (s : State) (c b : Nat) (f : Barrier → Barrier) : (s.updBar c b f).out = s.out := rfl
@[simp] theorem State.updBar_part (s : State) (c b : Nat) (n' : Nat) (f : Barrier → Barrier) : (s.updBar c b f).part n' = s.part n' := rfl
@[simp] theorem State.updBar_unit (s : State) (c b : Nat) (n' : Nat) (f : Barrier → Barrier) : (s.updBar c b f).unit n' = s.unit n' := rfl
@[simp] theorem State.updBar_engine (s : State) (c b : Nat) (n' : Nat) (f : Barrier → Barrier) : (s.updBar c b f).engine n' = s.engine n' := rfl
@[simp] theorem State.updBar_vt (s : State) (c b : Nat) (n' : Nat) (f : Barrier → Barrier) : (s.updBar c b f).vt n' = s.vt n' := rfl
@[simp] theorem State.updBar_tile (s : State) (c b : Nat) (n' : Nat) (f : Barrier → Barrier) : (s.updBar c b f).tile n' = s.tile n' := rfl
@[simp] theorem State.updBar_comp (s : State) (c b : Nat) (n' : Nat) (f : Barrier → Barrier) : (s.updBar c b f).comp n' = s.comp n' := rfl
@[simp] theorem State.updBar_ctx (s : State) (c b : Nat) (n' : Nat) (f : Barrier → Barrier) : (s.updBar c b f).ctx n' = s.ctx n' := rfl
@[simp] theorem State.updBar_chan (s : State) (c b : Nat) (n' : Nat) (f : Barrier → Barrier) : (s.updBar c b f).chan n' = s.chan n' := rfl
@[simp] theorem State.updBar_farP (s : State) (c b : Nat) (n' : Nat) (f : Barrier → Barrier) : (s.updBar c b f).farP n' = s.farP n' := rfl
@[simp] theorem State.updBar_token (s : State) (c b : Nat) (n' : Nat) (f : Barrier → Barrier) : (s.updBar c b f).token n' = s.token n' := rfl
@[simp] theorem State.updBar_slot (s : State) (c b : Nat) (x' i' : Nat) (f : Barrier → Barrier) : (s.updBar c b f).slot x' i' = s.slot x' i' := rfl
@[simp] theorem State.updBar_fq (s : State) (c b : Nat) (n' : Nat) (f : Barrier → Barrier) : (s.updBar c b f).fq n' = s.fq n' := rfl
@[simp] theorem State.updBar_stage (s : State) (c b : Nat) (c' g' : Nat) (f : Barrier → Barrier) : (s.updBar c b f).stage c' g' = s.stage c' g' := rfl
@[simp] theorem State.updBar_router (s : State) (c b : Nat) (n' : Nat) (f : Barrier → Barrier) : (s.updBar c b f).router n' = s.router n' := rfl
@[simp] theorem State.updBar_hport (s : State) (c b : Nat) (n' : Nat) (f : Barrier → Barrier) : (s.updBar c b f).hport n' = s.hport n' := rfl
@[simp] theorem State.updBar_fn (s : State) (c b : Nat) (n' : Nat) (f : Barrier → Barrier) : (s.updBar c b f).fn n' = s.fn n' := rfl
@[simp] theorem State.updBar_kslot (s : State) (c b : Nat) (n' : Nat) (f : Barrier → Barrier) : (s.updBar c b f).kslot n' = s.kslot n' := rfl
@[simp] theorem State.updBar_fport (s : State) (c b : Nat) (n' : Nat) (f : Barrier → Barrier) : (s.updBar c b f).fport n' = s.fport n' := rfl
@[simp] theorem State.updBar_job (s : State) (c b : Nat) (n' : Nat) (f : Barrier → Barrier) : (s.updBar c b f).job n' = s.job n' := rfl
@[simp] theorem State.updBar_isl (s : State) (c b : Nat) (n' : Nat) (f : Barrier → Barrier) : (s.updBar c b f).isl n' = s.isl n' := rfl
@[simp] theorem State.updBar_rail (s : State) (c b : Nat) (n' : Nat) (f : Barrier → Barrier) : (s.updBar c b f).rail n' = s.rail n' := rfl
@[simp] theorem State.updBar_coreS (s : State) (c b : Nat) (n' : Nat) (f : Barrier → Barrier) : (s.updBar c b f).coreS n' = s.coreS n' := rfl
@[simp] theorem State.updBar_role (s : State) (c b : Nat) (n' : Nat) (f : Barrier → Barrier) : (s.updBar c b f).role n' = s.role n' := rfl
@[simp] theorem State.updBar_mslot (s : State) (c b : Nat) (n' : Nat) (f : Barrier → Barrier) : (s.updBar c b f).mslot n' = s.mslot n' := rfl
@[simp] theorem State.updBar_hmem (s : State) (c b : Nat) (n' : Nat) (f : Barrier → Barrier) : (s.updBar c b f).hmem n' = s.hmem n' := rfl

/-! ## updComp -/

theorem State.comp_updComp_self {s : State} (h : s.canon = true) (n : Nat) (f : Comp → Comp) : (s.updComp n f).comp n = f (s.comp n) :=
  Map.get_upd_self _ _ f _ (State.comps_wf h)
theorem State.comp_updComp_ne (s : State) (n : Nat) (n' : Nat) (f : Comp → Comp) (h : n' ≠ n) :
    (s.updComp n f).comp n' = s.comp n' := Map.get_upd_ne _ _ _ f _ h
theorem State.updComp_updComp {s : State} (h : s.canon = true) (n : Nat) (f f' : Comp → Comp) :
    (s.updComp n f).updComp n f' = s.updComp n (fun x => f' (f x)) := by
  simp only [State.updComp, Map.upd_upd _ _ f f' _ (State.comps_wf h)]
theorem State.updComp_congr (s : State) (n : Nat) {f f' : Comp → Comp} (h : f (s.comp n) = f' (s.comp n)) :
    s.updComp n f = s.updComp n f' := by
  unfold State.updComp Map.upd
  unfold State.comp at h
  rw [h]
@[simp] theorem State.updComp_pending (s : State) (n : Nat) (f : Comp → Comp) : (s.updComp n f).pending = s.pending := rfl
@[simp] theorem State.updComp_parts (s : State) (n : Nat) (f : Comp → Comp) : (s.updComp n f).parts = s.parts := rfl
@[simp] theorem State.updComp_units (s : State) (n : Nat) (f : Comp → Comp) : (s.updComp n f).units = s.units := rfl
@[simp] theorem State.updComp_eng (s : State) (n : Nat) (f : Comp → Comp) : (s.updComp n f).eng = s.eng := rfl
@[simp] theorem State.updComp_vts (s : State) (n : Nat) (f : Comp → Comp) : (s.updComp n f).vts = s.vts := rfl
@[simp] theorem State.updComp_sts (s : State) (n : Nat) (f : Comp → Comp) : (s.updComp n f).sts = s.sts := rfl
@[simp] theorem State.updComp_bars (s : State) (n : Nat) (f : Comp → Comp) : (s.updComp n f).bars = s.bars := rfl
@[simp] theorem State.updComp_net (s : State) (n : Nat) (f : Comp → Comp) : (s.updComp n f).net = s.net := rfl
@[simp] theorem State.updComp_staged (s : State) (n : Nat) (f : Comp → Comp) : (s.updComp n f).staged = s.staged := rfl
@[simp] theorem State.updComp_nextHandle (s : State) (n : Nat) (f : Comp → Comp) : (s.updComp n f).nextHandle = s.nextHandle := rfl
@[simp] theorem State.updComp_freeCids (s : State) (n : Nat) (f : Comp → Comp) : (s.updComp n f).freeCids = s.freeCids := rfl
@[simp] theorem State.updComp_tokens (s : State) (n : Nat) (f : Comp → Comp) : (s.updComp n f).tokens = s.tokens := rfl
@[simp] theorem State.updComp_nextToken (s : State) (n : Nat) (f : Comp → Comp) : (s.updComp n f).nextToken = s.nextToken := rfl
@[simp] theorem State.updComp_chans (s : State) (n : Nat) (f : Comp → Comp) : (s.updComp n f).chans = s.chans := rfl
@[simp] theorem State.updComp_grades (s : State) (n : Nat) (f : Comp → Comp) : (s.updComp n f).grades = s.grades := rfl
@[simp] theorem State.updComp_cool (s : State) (n : Nat) (f : Comp → Comp) : (s.updComp n f).cool = s.cool := rfl
@[simp] theorem State.updComp_far (s : State) (n : Nat) (f : Comp → Comp) : (s.updComp n f).far = s.far := rfl
@[simp] theorem State.updComp_xlt (s : State) (n : Nat) (f : Comp → Comp) : (s.updComp n f).xlt = s.xlt := rfl
@[simp] theorem State.updComp_ctxs (s : State) (n : Nat) (f : Comp → Comp) : (s.updComp n f).ctxs = s.ctxs := rfl
@[simp] theorem State.updComp_freedXids (s : State) (n : Nat) (f : Comp → Comp) : (s.updComp n f).freedXids = s.freedXids := rfl
@[simp] theorem State.updComp_nextXid (s : State) (n : Nat) (f : Comp → Comp) : (s.updComp n f).nextXid = s.nextXid := rfl
@[simp] theorem State.updComp_sch (s : State) (n : Nat) (f : Comp → Comp) : (s.updComp n f).sch = s.sch := rfl
@[simp] theorem State.updComp_fab (s : State) (n : Nat) (f : Comp → Comp) : (s.updComp n f).fab = s.fab := rfl
@[simp] theorem State.updComp_host (s : State) (n : Nat) (f : Comp → Comp) : (s.updComp n f).host = s.host := rfl
@[simp] theorem State.updComp_sec (s : State) (n : Nat) (f : Comp → Comp) : (s.updComp n f).sec = s.sec := rfl
@[simp] theorem State.updComp_pail (s : State) (n : Nat) (f : Comp → Comp) : (s.updComp n f).pail = s.pail := rfl
@[simp] theorem State.updComp_pwr (s : State) (n : Nat) (f : Comp → Comp) : (s.updComp n f).pwr = s.pwr := rfl
@[simp] theorem State.updComp_flt (s : State) (n : Nat) (f : Comp → Comp) : (s.updComp n f).flt = s.flt := rfl
@[simp] theorem State.updComp_jrn (s : State) (n : Nat) (f : Comp → Comp) : (s.updComp n f).jrn = s.jrn := rfl
@[simp] theorem State.updComp_fw (s : State) (n : Nat) (f : Comp → Comp) : (s.updComp n f).fw = s.fw := rfl
@[simp] theorem State.updComp_boot (s : State) (n : Nat) (f : Comp → Comp) : (s.updComp n f).boot = s.boot := rfl
@[simp] theorem State.updComp_now (s : State) (n : Nat) (f : Comp → Comp) : (s.updComp n f).now = s.now := rfl
@[simp] theorem State.updComp_fresh (s : State) (n : Nat) (f : Comp → Comp) : (s.updComp n f).fresh = s.fresh := rfl
@[simp] theorem State.updComp_out (s : State) (n : Nat) (f : Comp → Comp) : (s.updComp n f).out = s.out := rfl
@[simp] theorem State.updComp_part (s : State) (n : Nat) (n' : Nat) (f : Comp → Comp) : (s.updComp n f).part n' = s.part n' := rfl
@[simp] theorem State.updComp_unit (s : State) (n : Nat) (n' : Nat) (f : Comp → Comp) : (s.updComp n f).unit n' = s.unit n' := rfl
@[simp] theorem State.updComp_engine (s : State) (n : Nat) (n' : Nat) (f : Comp → Comp) : (s.updComp n f).engine n' = s.engine n' := rfl
@[simp] theorem State.updComp_vt (s : State) (n : Nat) (n' : Nat) (f : Comp → Comp) : (s.updComp n f).vt n' = s.vt n' := rfl
@[simp] theorem State.updComp_tile (s : State) (n : Nat) (n' : Nat) (f : Comp → Comp) : (s.updComp n f).tile n' = s.tile n' := rfl
@[simp] theorem State.updComp_bar (s : State) (n : Nat) (c' b' : Nat) (f : Comp → Comp) : (s.updComp n f).bar c' b' = s.bar c' b' := rfl
@[simp] theorem State.updComp_ctx (s : State) (n : Nat) (n' : Nat) (f : Comp → Comp) : (s.updComp n f).ctx n' = s.ctx n' := rfl
@[simp] theorem State.updComp_chan (s : State) (n : Nat) (n' : Nat) (f : Comp → Comp) : (s.updComp n f).chan n' = s.chan n' := rfl
@[simp] theorem State.updComp_farP (s : State) (n : Nat) (n' : Nat) (f : Comp → Comp) : (s.updComp n f).farP n' = s.farP n' := rfl
@[simp] theorem State.updComp_token (s : State) (n : Nat) (n' : Nat) (f : Comp → Comp) : (s.updComp n f).token n' = s.token n' := rfl
@[simp] theorem State.updComp_slot (s : State) (n : Nat) (x' i' : Nat) (f : Comp → Comp) : (s.updComp n f).slot x' i' = s.slot x' i' := rfl
@[simp] theorem State.updComp_fq (s : State) (n : Nat) (n' : Nat) (f : Comp → Comp) : (s.updComp n f).fq n' = s.fq n' := rfl
@[simp] theorem State.updComp_stage (s : State) (n : Nat) (c' g' : Nat) (f : Comp → Comp) : (s.updComp n f).stage c' g' = s.stage c' g' := rfl
@[simp] theorem State.updComp_router (s : State) (n : Nat) (n' : Nat) (f : Comp → Comp) : (s.updComp n f).router n' = s.router n' := rfl
@[simp] theorem State.updComp_hport (s : State) (n : Nat) (n' : Nat) (f : Comp → Comp) : (s.updComp n f).hport n' = s.hport n' := rfl
@[simp] theorem State.updComp_fn (s : State) (n : Nat) (n' : Nat) (f : Comp → Comp) : (s.updComp n f).fn n' = s.fn n' := rfl
@[simp] theorem State.updComp_kslot (s : State) (n : Nat) (n' : Nat) (f : Comp → Comp) : (s.updComp n f).kslot n' = s.kslot n' := rfl
@[simp] theorem State.updComp_fport (s : State) (n : Nat) (n' : Nat) (f : Comp → Comp) : (s.updComp n f).fport n' = s.fport n' := rfl
@[simp] theorem State.updComp_job (s : State) (n : Nat) (n' : Nat) (f : Comp → Comp) : (s.updComp n f).job n' = s.job n' := rfl
@[simp] theorem State.updComp_isl (s : State) (n : Nat) (n' : Nat) (f : Comp → Comp) : (s.updComp n f).isl n' = s.isl n' := rfl
@[simp] theorem State.updComp_rail (s : State) (n : Nat) (n' : Nat) (f : Comp → Comp) : (s.updComp n f).rail n' = s.rail n' := rfl
@[simp] theorem State.updComp_coreS (s : State) (n : Nat) (n' : Nat) (f : Comp → Comp) : (s.updComp n f).coreS n' = s.coreS n' := rfl
@[simp] theorem State.updComp_role (s : State) (n : Nat) (n' : Nat) (f : Comp → Comp) : (s.updComp n f).role n' = s.role n' := rfl
@[simp] theorem State.updComp_mslot (s : State) (n : Nat) (n' : Nat) (f : Comp → Comp) : (s.updComp n f).mslot n' = s.mslot n' := rfl
@[simp] theorem State.updComp_hmem (s : State) (n : Nat) (n' : Nat) (f : Comp → Comp) : (s.updComp n f).hmem n' = s.hmem n' := rfl

/-! ## updCtx -/

theorem State.ctx_updCtx_self {s : State} (h : s.canon = true) (n : Nat) (f : Ctx → Ctx) : (s.updCtx n f).ctx n = f (s.ctx n) :=
  Map.get_upd_self _ _ f _ (State.ctxs_wf h)
theorem State.ctx_updCtx_ne (s : State) (n : Nat) (n' : Nat) (f : Ctx → Ctx) (h : n' ≠ n) :
    (s.updCtx n f).ctx n' = s.ctx n' := Map.get_upd_ne _ _ _ f _ h
theorem State.updCtx_updCtx {s : State} (h : s.canon = true) (n : Nat) (f f' : Ctx → Ctx) :
    (s.updCtx n f).updCtx n f' = s.updCtx n (fun x => f' (f x)) := by
  simp only [State.updCtx, Map.upd_upd _ _ f f' _ (State.ctxs_wf h)]
theorem State.updCtx_congr (s : State) (n : Nat) {f f' : Ctx → Ctx} (h : f (s.ctx n) = f' (s.ctx n)) :
    s.updCtx n f = s.updCtx n f' := by
  unfold State.updCtx Map.upd
  unfold State.ctx at h
  rw [h]
@[simp] theorem State.updCtx_pending (s : State) (n : Nat) (f : Ctx → Ctx) : (s.updCtx n f).pending = s.pending := rfl
@[simp] theorem State.updCtx_parts (s : State) (n : Nat) (f : Ctx → Ctx) : (s.updCtx n f).parts = s.parts := rfl
@[simp] theorem State.updCtx_units (s : State) (n : Nat) (f : Ctx → Ctx) : (s.updCtx n f).units = s.units := rfl
@[simp] theorem State.updCtx_eng (s : State) (n : Nat) (f : Ctx → Ctx) : (s.updCtx n f).eng = s.eng := rfl
@[simp] theorem State.updCtx_vts (s : State) (n : Nat) (f : Ctx → Ctx) : (s.updCtx n f).vts = s.vts := rfl
@[simp] theorem State.updCtx_sts (s : State) (n : Nat) (f : Ctx → Ctx) : (s.updCtx n f).sts = s.sts := rfl
@[simp] theorem State.updCtx_bars (s : State) (n : Nat) (f : Ctx → Ctx) : (s.updCtx n f).bars = s.bars := rfl
@[simp] theorem State.updCtx_net (s : State) (n : Nat) (f : Ctx → Ctx) : (s.updCtx n f).net = s.net := rfl
@[simp] theorem State.updCtx_staged (s : State) (n : Nat) (f : Ctx → Ctx) : (s.updCtx n f).staged = s.staged := rfl
@[simp] theorem State.updCtx_nextHandle (s : State) (n : Nat) (f : Ctx → Ctx) : (s.updCtx n f).nextHandle = s.nextHandle := rfl
@[simp] theorem State.updCtx_comps (s : State) (n : Nat) (f : Ctx → Ctx) : (s.updCtx n f).comps = s.comps := rfl
@[simp] theorem State.updCtx_freeCids (s : State) (n : Nat) (f : Ctx → Ctx) : (s.updCtx n f).freeCids = s.freeCids := rfl
@[simp] theorem State.updCtx_tokens (s : State) (n : Nat) (f : Ctx → Ctx) : (s.updCtx n f).tokens = s.tokens := rfl
@[simp] theorem State.updCtx_nextToken (s : State) (n : Nat) (f : Ctx → Ctx) : (s.updCtx n f).nextToken = s.nextToken := rfl
@[simp] theorem State.updCtx_chans (s : State) (n : Nat) (f : Ctx → Ctx) : (s.updCtx n f).chans = s.chans := rfl
@[simp] theorem State.updCtx_grades (s : State) (n : Nat) (f : Ctx → Ctx) : (s.updCtx n f).grades = s.grades := rfl
@[simp] theorem State.updCtx_cool (s : State) (n : Nat) (f : Ctx → Ctx) : (s.updCtx n f).cool = s.cool := rfl
@[simp] theorem State.updCtx_far (s : State) (n : Nat) (f : Ctx → Ctx) : (s.updCtx n f).far = s.far := rfl
@[simp] theorem State.updCtx_xlt (s : State) (n : Nat) (f : Ctx → Ctx) : (s.updCtx n f).xlt = s.xlt := rfl
@[simp] theorem State.updCtx_freedXids (s : State) (n : Nat) (f : Ctx → Ctx) : (s.updCtx n f).freedXids = s.freedXids := rfl
@[simp] theorem State.updCtx_nextXid (s : State) (n : Nat) (f : Ctx → Ctx) : (s.updCtx n f).nextXid = s.nextXid := rfl
@[simp] theorem State.updCtx_sch (s : State) (n : Nat) (f : Ctx → Ctx) : (s.updCtx n f).sch = s.sch := rfl
@[simp] theorem State.updCtx_fab (s : State) (n : Nat) (f : Ctx → Ctx) : (s.updCtx n f).fab = s.fab := rfl
@[simp] theorem State.updCtx_host (s : State) (n : Nat) (f : Ctx → Ctx) : (s.updCtx n f).host = s.host := rfl
@[simp] theorem State.updCtx_sec (s : State) (n : Nat) (f : Ctx → Ctx) : (s.updCtx n f).sec = s.sec := rfl
@[simp] theorem State.updCtx_pail (s : State) (n : Nat) (f : Ctx → Ctx) : (s.updCtx n f).pail = s.pail := rfl
@[simp] theorem State.updCtx_pwr (s : State) (n : Nat) (f : Ctx → Ctx) : (s.updCtx n f).pwr = s.pwr := rfl
@[simp] theorem State.updCtx_flt (s : State) (n : Nat) (f : Ctx → Ctx) : (s.updCtx n f).flt = s.flt := rfl
@[simp] theorem State.updCtx_jrn (s : State) (n : Nat) (f : Ctx → Ctx) : (s.updCtx n f).jrn = s.jrn := rfl
@[simp] theorem State.updCtx_fw (s : State) (n : Nat) (f : Ctx → Ctx) : (s.updCtx n f).fw = s.fw := rfl
@[simp] theorem State.updCtx_boot (s : State) (n : Nat) (f : Ctx → Ctx) : (s.updCtx n f).boot = s.boot := rfl
@[simp] theorem State.updCtx_now (s : State) (n : Nat) (f : Ctx → Ctx) : (s.updCtx n f).now = s.now := rfl
@[simp] theorem State.updCtx_fresh (s : State) (n : Nat) (f : Ctx → Ctx) : (s.updCtx n f).fresh = s.fresh := rfl
@[simp] theorem State.updCtx_out (s : State) (n : Nat) (f : Ctx → Ctx) : (s.updCtx n f).out = s.out := rfl
@[simp] theorem State.updCtx_part (s : State) (n : Nat) (n' : Nat) (f : Ctx → Ctx) : (s.updCtx n f).part n' = s.part n' := rfl
@[simp] theorem State.updCtx_unit (s : State) (n : Nat) (n' : Nat) (f : Ctx → Ctx) : (s.updCtx n f).unit n' = s.unit n' := rfl
@[simp] theorem State.updCtx_engine (s : State) (n : Nat) (n' : Nat) (f : Ctx → Ctx) : (s.updCtx n f).engine n' = s.engine n' := rfl
@[simp] theorem State.updCtx_vt (s : State) (n : Nat) (n' : Nat) (f : Ctx → Ctx) : (s.updCtx n f).vt n' = s.vt n' := rfl
@[simp] theorem State.updCtx_tile (s : State) (n : Nat) (n' : Nat) (f : Ctx → Ctx) : (s.updCtx n f).tile n' = s.tile n' := rfl
@[simp] theorem State.updCtx_bar (s : State) (n : Nat) (c' b' : Nat) (f : Ctx → Ctx) : (s.updCtx n f).bar c' b' = s.bar c' b' := rfl
@[simp] theorem State.updCtx_comp (s : State) (n : Nat) (n' : Nat) (f : Ctx → Ctx) : (s.updCtx n f).comp n' = s.comp n' := rfl
@[simp] theorem State.updCtx_chan (s : State) (n : Nat) (n' : Nat) (f : Ctx → Ctx) : (s.updCtx n f).chan n' = s.chan n' := rfl
@[simp] theorem State.updCtx_farP (s : State) (n : Nat) (n' : Nat) (f : Ctx → Ctx) : (s.updCtx n f).farP n' = s.farP n' := rfl
@[simp] theorem State.updCtx_token (s : State) (n : Nat) (n' : Nat) (f : Ctx → Ctx) : (s.updCtx n f).token n' = s.token n' := rfl
@[simp] theorem State.updCtx_slot (s : State) (n : Nat) (x' i' : Nat) (f : Ctx → Ctx) : (s.updCtx n f).slot x' i' = s.slot x' i' := rfl
@[simp] theorem State.updCtx_fq (s : State) (n : Nat) (n' : Nat) (f : Ctx → Ctx) : (s.updCtx n f).fq n' = s.fq n' := rfl
@[simp] theorem State.updCtx_stage (s : State) (n : Nat) (c' g' : Nat) (f : Ctx → Ctx) : (s.updCtx n f).stage c' g' = s.stage c' g' := rfl
@[simp] theorem State.updCtx_router (s : State) (n : Nat) (n' : Nat) (f : Ctx → Ctx) : (s.updCtx n f).router n' = s.router n' := rfl
@[simp] theorem State.updCtx_hport (s : State) (n : Nat) (n' : Nat) (f : Ctx → Ctx) : (s.updCtx n f).hport n' = s.hport n' := rfl
@[simp] theorem State.updCtx_fn (s : State) (n : Nat) (n' : Nat) (f : Ctx → Ctx) : (s.updCtx n f).fn n' = s.fn n' := rfl
@[simp] theorem State.updCtx_kslot (s : State) (n : Nat) (n' : Nat) (f : Ctx → Ctx) : (s.updCtx n f).kslot n' = s.kslot n' := rfl
@[simp] theorem State.updCtx_fport (s : State) (n : Nat) (n' : Nat) (f : Ctx → Ctx) : (s.updCtx n f).fport n' = s.fport n' := rfl
@[simp] theorem State.updCtx_job (s : State) (n : Nat) (n' : Nat) (f : Ctx → Ctx) : (s.updCtx n f).job n' = s.job n' := rfl
@[simp] theorem State.updCtx_isl (s : State) (n : Nat) (n' : Nat) (f : Ctx → Ctx) : (s.updCtx n f).isl n' = s.isl n' := rfl
@[simp] theorem State.updCtx_rail (s : State) (n : Nat) (n' : Nat) (f : Ctx → Ctx) : (s.updCtx n f).rail n' = s.rail n' := rfl
@[simp] theorem State.updCtx_coreS (s : State) (n : Nat) (n' : Nat) (f : Ctx → Ctx) : (s.updCtx n f).coreS n' = s.coreS n' := rfl
@[simp] theorem State.updCtx_role (s : State) (n : Nat) (n' : Nat) (f : Ctx → Ctx) : (s.updCtx n f).role n' = s.role n' := rfl
@[simp] theorem State.updCtx_mslot (s : State) (n : Nat) (n' : Nat) (f : Ctx → Ctx) : (s.updCtx n f).mslot n' = s.mslot n' := rfl
@[simp] theorem State.updCtx_hmem (s : State) (n : Nat) (n' : Nat) (f : Ctx → Ctx) : (s.updCtx n f).hmem n' = s.hmem n' := rfl

/-! ## updChan -/

theorem State.chan_updChan_self {s : State} (h : s.canon = true) (n : Nat) (f : Chan → Chan) : (s.updChan n f).chan n = f (s.chan n) :=
  Map.get_upd_self _ _ f _ (State.chans_wf h)
theorem State.chan_updChan_ne (s : State) (n : Nat) (n' : Nat) (f : Chan → Chan) (h : n' ≠ n) :
    (s.updChan n f).chan n' = s.chan n' := Map.get_upd_ne _ _ _ f _ h
theorem State.updChan_updChan {s : State} (h : s.canon = true) (n : Nat) (f f' : Chan → Chan) :
    (s.updChan n f).updChan n f' = s.updChan n (fun x => f' (f x)) := by
  simp only [State.updChan, Map.upd_upd _ _ f f' _ (State.chans_wf h)]
theorem State.updChan_congr (s : State) (n : Nat) {f f' : Chan → Chan} (h : f (s.chan n) = f' (s.chan n)) :
    s.updChan n f = s.updChan n f' := by
  unfold State.updChan Map.upd
  unfold State.chan at h
  rw [h]
@[simp] theorem State.updChan_pending (s : State) (n : Nat) (f : Chan → Chan) : (s.updChan n f).pending = s.pending := rfl
@[simp] theorem State.updChan_parts (s : State) (n : Nat) (f : Chan → Chan) : (s.updChan n f).parts = s.parts := rfl
@[simp] theorem State.updChan_units (s : State) (n : Nat) (f : Chan → Chan) : (s.updChan n f).units = s.units := rfl
@[simp] theorem State.updChan_eng (s : State) (n : Nat) (f : Chan → Chan) : (s.updChan n f).eng = s.eng := rfl
@[simp] theorem State.updChan_vts (s : State) (n : Nat) (f : Chan → Chan) : (s.updChan n f).vts = s.vts := rfl
@[simp] theorem State.updChan_sts (s : State) (n : Nat) (f : Chan → Chan) : (s.updChan n f).sts = s.sts := rfl
@[simp] theorem State.updChan_bars (s : State) (n : Nat) (f : Chan → Chan) : (s.updChan n f).bars = s.bars := rfl
@[simp] theorem State.updChan_net (s : State) (n : Nat) (f : Chan → Chan) : (s.updChan n f).net = s.net := rfl
@[simp] theorem State.updChan_staged (s : State) (n : Nat) (f : Chan → Chan) : (s.updChan n f).staged = s.staged := rfl
@[simp] theorem State.updChan_nextHandle (s : State) (n : Nat) (f : Chan → Chan) : (s.updChan n f).nextHandle = s.nextHandle := rfl
@[simp] theorem State.updChan_comps (s : State) (n : Nat) (f : Chan → Chan) : (s.updChan n f).comps = s.comps := rfl
@[simp] theorem State.updChan_freeCids (s : State) (n : Nat) (f : Chan → Chan) : (s.updChan n f).freeCids = s.freeCids := rfl
@[simp] theorem State.updChan_tokens (s : State) (n : Nat) (f : Chan → Chan) : (s.updChan n f).tokens = s.tokens := rfl
@[simp] theorem State.updChan_nextToken (s : State) (n : Nat) (f : Chan → Chan) : (s.updChan n f).nextToken = s.nextToken := rfl
@[simp] theorem State.updChan_grades (s : State) (n : Nat) (f : Chan → Chan) : (s.updChan n f).grades = s.grades := rfl
@[simp] theorem State.updChan_cool (s : State) (n : Nat) (f : Chan → Chan) : (s.updChan n f).cool = s.cool := rfl
@[simp] theorem State.updChan_far (s : State) (n : Nat) (f : Chan → Chan) : (s.updChan n f).far = s.far := rfl
@[simp] theorem State.updChan_xlt (s : State) (n : Nat) (f : Chan → Chan) : (s.updChan n f).xlt = s.xlt := rfl
@[simp] theorem State.updChan_ctxs (s : State) (n : Nat) (f : Chan → Chan) : (s.updChan n f).ctxs = s.ctxs := rfl
@[simp] theorem State.updChan_freedXids (s : State) (n : Nat) (f : Chan → Chan) : (s.updChan n f).freedXids = s.freedXids := rfl
@[simp] theorem State.updChan_nextXid (s : State) (n : Nat) (f : Chan → Chan) : (s.updChan n f).nextXid = s.nextXid := rfl
@[simp] theorem State.updChan_sch (s : State) (n : Nat) (f : Chan → Chan) : (s.updChan n f).sch = s.sch := rfl
@[simp] theorem State.updChan_fab (s : State) (n : Nat) (f : Chan → Chan) : (s.updChan n f).fab = s.fab := rfl
@[simp] theorem State.updChan_host (s : State) (n : Nat) (f : Chan → Chan) : (s.updChan n f).host = s.host := rfl
@[simp] theorem State.updChan_sec (s : State) (n : Nat) (f : Chan → Chan) : (s.updChan n f).sec = s.sec := rfl
@[simp] theorem State.updChan_pail (s : State) (n : Nat) (f : Chan → Chan) : (s.updChan n f).pail = s.pail := rfl
@[simp] theorem State.updChan_pwr (s : State) (n : Nat) (f : Chan → Chan) : (s.updChan n f).pwr = s.pwr := rfl
@[simp] theorem State.updChan_flt (s : State) (n : Nat) (f : Chan → Chan) : (s.updChan n f).flt = s.flt := rfl
@[simp] theorem State.updChan_jrn (s : State) (n : Nat) (f : Chan → Chan) : (s.updChan n f).jrn = s.jrn := rfl
@[simp] theorem State.updChan_fw (s : State) (n : Nat) (f : Chan → Chan) : (s.updChan n f).fw = s.fw := rfl
@[simp] theorem State.updChan_boot (s : State) (n : Nat) (f : Chan → Chan) : (s.updChan n f).boot = s.boot := rfl
@[simp] theorem State.updChan_now (s : State) (n : Nat) (f : Chan → Chan) : (s.updChan n f).now = s.now := rfl
@[simp] theorem State.updChan_fresh (s : State) (n : Nat) (f : Chan → Chan) : (s.updChan n f).fresh = s.fresh := rfl
@[simp] theorem State.updChan_out (s : State) (n : Nat) (f : Chan → Chan) : (s.updChan n f).out = s.out := rfl
@[simp] theorem State.updChan_part (s : State) (n : Nat) (n' : Nat) (f : Chan → Chan) : (s.updChan n f).part n' = s.part n' := rfl
@[simp] theorem State.updChan_unit (s : State) (n : Nat) (n' : Nat) (f : Chan → Chan) : (s.updChan n f).unit n' = s.unit n' := rfl
@[simp] theorem State.updChan_engine (s : State) (n : Nat) (n' : Nat) (f : Chan → Chan) : (s.updChan n f).engine n' = s.engine n' := rfl
@[simp] theorem State.updChan_vt (s : State) (n : Nat) (n' : Nat) (f : Chan → Chan) : (s.updChan n f).vt n' = s.vt n' := rfl
@[simp] theorem State.updChan_tile (s : State) (n : Nat) (n' : Nat) (f : Chan → Chan) : (s.updChan n f).tile n' = s.tile n' := rfl
@[simp] theorem State.updChan_bar (s : State) (n : Nat) (c' b' : Nat) (f : Chan → Chan) : (s.updChan n f).bar c' b' = s.bar c' b' := rfl
@[simp] theorem State.updChan_comp (s : State) (n : Nat) (n' : Nat) (f : Chan → Chan) : (s.updChan n f).comp n' = s.comp n' := rfl
@[simp] theorem State.updChan_ctx (s : State) (n : Nat) (n' : Nat) (f : Chan → Chan) : (s.updChan n f).ctx n' = s.ctx n' := rfl
@[simp] theorem State.updChan_farP (s : State) (n : Nat) (n' : Nat) (f : Chan → Chan) : (s.updChan n f).farP n' = s.farP n' := rfl
@[simp] theorem State.updChan_token (s : State) (n : Nat) (n' : Nat) (f : Chan → Chan) : (s.updChan n f).token n' = s.token n' := rfl
@[simp] theorem State.updChan_slot (s : State) (n : Nat) (x' i' : Nat) (f : Chan → Chan) : (s.updChan n f).slot x' i' = s.slot x' i' := rfl
@[simp] theorem State.updChan_fq (s : State) (n : Nat) (n' : Nat) (f : Chan → Chan) : (s.updChan n f).fq n' = s.fq n' := rfl
@[simp] theorem State.updChan_stage (s : State) (n : Nat) (c' g' : Nat) (f : Chan → Chan) : (s.updChan n f).stage c' g' = s.stage c' g' := rfl
@[simp] theorem State.updChan_router (s : State) (n : Nat) (n' : Nat) (f : Chan → Chan) : (s.updChan n f).router n' = s.router n' := rfl
@[simp] theorem State.updChan_hport (s : State) (n : Nat) (n' : Nat) (f : Chan → Chan) : (s.updChan n f).hport n' = s.hport n' := rfl
@[simp] theorem State.updChan_fn (s : State) (n : Nat) (n' : Nat) (f : Chan → Chan) : (s.updChan n f).fn n' = s.fn n' := rfl
@[simp] theorem State.updChan_kslot (s : State) (n : Nat) (n' : Nat) (f : Chan → Chan) : (s.updChan n f).kslot n' = s.kslot n' := rfl
@[simp] theorem State.updChan_fport (s : State) (n : Nat) (n' : Nat) (f : Chan → Chan) : (s.updChan n f).fport n' = s.fport n' := rfl
@[simp] theorem State.updChan_job (s : State) (n : Nat) (n' : Nat) (f : Chan → Chan) : (s.updChan n f).job n' = s.job n' := rfl
@[simp] theorem State.updChan_isl (s : State) (n : Nat) (n' : Nat) (f : Chan → Chan) : (s.updChan n f).isl n' = s.isl n' := rfl
@[simp] theorem State.updChan_rail (s : State) (n : Nat) (n' : Nat) (f : Chan → Chan) : (s.updChan n f).rail n' = s.rail n' := rfl
@[simp] theorem State.updChan_coreS (s : State) (n : Nat) (n' : Nat) (f : Chan → Chan) : (s.updChan n f).coreS n' = s.coreS n' := rfl
@[simp] theorem State.updChan_role (s : State) (n : Nat) (n' : Nat) (f : Chan → Chan) : (s.updChan n f).role n' = s.role n' := rfl
@[simp] theorem State.updChan_mslot (s : State) (n : Nat) (n' : Nat) (f : Chan → Chan) : (s.updChan n f).mslot n' = s.mslot n' := rfl
@[simp] theorem State.updChan_hmem (s : State) (n : Nat) (n' : Nat) (f : Chan → Chan) : (s.updChan n f).hmem n' = s.hmem n' := rfl

/-! ## updFar -/

theorem State.farP_updFar_self {s : State} (h : s.canon = true) (n : Nat) (f : Far → Far) : (s.updFar n f).farP n = f (s.farP n) :=
  Map.get_upd_self _ _ f _ (State.far_wf h)
theorem State.farP_updFar_ne (s : State) (n : Nat) (n' : Nat) (f : Far → Far) (h : n' ≠ n) :
    (s.updFar n f).farP n' = s.farP n' := Map.get_upd_ne _ _ _ f _ h
theorem State.updFar_updFar {s : State} (h : s.canon = true) (n : Nat) (f f' : Far → Far) :
    (s.updFar n f).updFar n f' = s.updFar n (fun x => f' (f x)) := by
  simp only [State.updFar, Map.upd_upd _ _ f f' _ (State.far_wf h)]
theorem State.updFar_congr (s : State) (n : Nat) {f f' : Far → Far} (h : f (s.farP n) = f' (s.farP n)) :
    s.updFar n f = s.updFar n f' := by
  unfold State.updFar Map.upd
  unfold State.farP at h
  rw [h]
@[simp] theorem State.updFar_pending (s : State) (n : Nat) (f : Far → Far) : (s.updFar n f).pending = s.pending := rfl
@[simp] theorem State.updFar_parts (s : State) (n : Nat) (f : Far → Far) : (s.updFar n f).parts = s.parts := rfl
@[simp] theorem State.updFar_units (s : State) (n : Nat) (f : Far → Far) : (s.updFar n f).units = s.units := rfl
@[simp] theorem State.updFar_eng (s : State) (n : Nat) (f : Far → Far) : (s.updFar n f).eng = s.eng := rfl
@[simp] theorem State.updFar_vts (s : State) (n : Nat) (f : Far → Far) : (s.updFar n f).vts = s.vts := rfl
@[simp] theorem State.updFar_sts (s : State) (n : Nat) (f : Far → Far) : (s.updFar n f).sts = s.sts := rfl
@[simp] theorem State.updFar_bars (s : State) (n : Nat) (f : Far → Far) : (s.updFar n f).bars = s.bars := rfl
@[simp] theorem State.updFar_net (s : State) (n : Nat) (f : Far → Far) : (s.updFar n f).net = s.net := rfl
@[simp] theorem State.updFar_staged (s : State) (n : Nat) (f : Far → Far) : (s.updFar n f).staged = s.staged := rfl
@[simp] theorem State.updFar_nextHandle (s : State) (n : Nat) (f : Far → Far) : (s.updFar n f).nextHandle = s.nextHandle := rfl
@[simp] theorem State.updFar_comps (s : State) (n : Nat) (f : Far → Far) : (s.updFar n f).comps = s.comps := rfl
@[simp] theorem State.updFar_freeCids (s : State) (n : Nat) (f : Far → Far) : (s.updFar n f).freeCids = s.freeCids := rfl
@[simp] theorem State.updFar_tokens (s : State) (n : Nat) (f : Far → Far) : (s.updFar n f).tokens = s.tokens := rfl
@[simp] theorem State.updFar_nextToken (s : State) (n : Nat) (f : Far → Far) : (s.updFar n f).nextToken = s.nextToken := rfl
@[simp] theorem State.updFar_chans (s : State) (n : Nat) (f : Far → Far) : (s.updFar n f).chans = s.chans := rfl
@[simp] theorem State.updFar_grades (s : State) (n : Nat) (f : Far → Far) : (s.updFar n f).grades = s.grades := rfl
@[simp] theorem State.updFar_cool (s : State) (n : Nat) (f : Far → Far) : (s.updFar n f).cool = s.cool := rfl
@[simp] theorem State.updFar_xlt (s : State) (n : Nat) (f : Far → Far) : (s.updFar n f).xlt = s.xlt := rfl
@[simp] theorem State.updFar_ctxs (s : State) (n : Nat) (f : Far → Far) : (s.updFar n f).ctxs = s.ctxs := rfl
@[simp] theorem State.updFar_freedXids (s : State) (n : Nat) (f : Far → Far) : (s.updFar n f).freedXids = s.freedXids := rfl
@[simp] theorem State.updFar_nextXid (s : State) (n : Nat) (f : Far → Far) : (s.updFar n f).nextXid = s.nextXid := rfl
@[simp] theorem State.updFar_sch (s : State) (n : Nat) (f : Far → Far) : (s.updFar n f).sch = s.sch := rfl
@[simp] theorem State.updFar_fab (s : State) (n : Nat) (f : Far → Far) : (s.updFar n f).fab = s.fab := rfl
@[simp] theorem State.updFar_host (s : State) (n : Nat) (f : Far → Far) : (s.updFar n f).host = s.host := rfl
@[simp] theorem State.updFar_sec (s : State) (n : Nat) (f : Far → Far) : (s.updFar n f).sec = s.sec := rfl
@[simp] theorem State.updFar_pail (s : State) (n : Nat) (f : Far → Far) : (s.updFar n f).pail = s.pail := rfl
@[simp] theorem State.updFar_pwr (s : State) (n : Nat) (f : Far → Far) : (s.updFar n f).pwr = s.pwr := rfl
@[simp] theorem State.updFar_flt (s : State) (n : Nat) (f : Far → Far) : (s.updFar n f).flt = s.flt := rfl
@[simp] theorem State.updFar_jrn (s : State) (n : Nat) (f : Far → Far) : (s.updFar n f).jrn = s.jrn := rfl
@[simp] theorem State.updFar_fw (s : State) (n : Nat) (f : Far → Far) : (s.updFar n f).fw = s.fw := rfl
@[simp] theorem State.updFar_boot (s : State) (n : Nat) (f : Far → Far) : (s.updFar n f).boot = s.boot := rfl
@[simp] theorem State.updFar_now (s : State) (n : Nat) (f : Far → Far) : (s.updFar n f).now = s.now := rfl
@[simp] theorem State.updFar_fresh (s : State) (n : Nat) (f : Far → Far) : (s.updFar n f).fresh = s.fresh := rfl
@[simp] theorem State.updFar_out (s : State) (n : Nat) (f : Far → Far) : (s.updFar n f).out = s.out := rfl
@[simp] theorem State.updFar_part (s : State) (n : Nat) (n' : Nat) (f : Far → Far) : (s.updFar n f).part n' = s.part n' := rfl
@[simp] theorem State.updFar_unit (s : State) (n : Nat) (n' : Nat) (f : Far → Far) : (s.updFar n f).unit n' = s.unit n' := rfl
@[simp] theorem State.updFar_engine (s : State) (n : Nat) (n' : Nat) (f : Far → Far) : (s.updFar n f).engine n' = s.engine n' := rfl
@[simp] theorem State.updFar_vt (s : State) (n : Nat) (n' : Nat) (f : Far → Far) : (s.updFar n f).vt n' = s.vt n' := rfl
@[simp] theorem State.updFar_tile (s : State) (n : Nat) (n' : Nat) (f : Far → Far) : (s.updFar n f).tile n' = s.tile n' := rfl
@[simp] theorem State.updFar_bar (s : State) (n : Nat) (c' b' : Nat) (f : Far → Far) : (s.updFar n f).bar c' b' = s.bar c' b' := rfl
@[simp] theorem State.updFar_comp (s : State) (n : Nat) (n' : Nat) (f : Far → Far) : (s.updFar n f).comp n' = s.comp n' := rfl
@[simp] theorem State.updFar_ctx (s : State) (n : Nat) (n' : Nat) (f : Far → Far) : (s.updFar n f).ctx n' = s.ctx n' := rfl
@[simp] theorem State.updFar_chan (s : State) (n : Nat) (n' : Nat) (f : Far → Far) : (s.updFar n f).chan n' = s.chan n' := rfl
@[simp] theorem State.updFar_token (s : State) (n : Nat) (n' : Nat) (f : Far → Far) : (s.updFar n f).token n' = s.token n' := rfl
@[simp] theorem State.updFar_slot (s : State) (n : Nat) (x' i' : Nat) (f : Far → Far) : (s.updFar n f).slot x' i' = s.slot x' i' := rfl
@[simp] theorem State.updFar_fq (s : State) (n : Nat) (n' : Nat) (f : Far → Far) : (s.updFar n f).fq n' = s.fq n' := rfl
@[simp] theorem State.updFar_stage (s : State) (n : Nat) (c' g' : Nat) (f : Far → Far) : (s.updFar n f).stage c' g' = s.stage c' g' := rfl
@[simp] theorem State.updFar_router (s : State) (n : Nat) (n' : Nat) (f : Far → Far) : (s.updFar n f).router n' = s.router n' := rfl
@[simp] theorem State.updFar_hport (s : State) (n : Nat) (n' : Nat) (f : Far → Far) : (s.updFar n f).hport n' = s.hport n' := rfl
@[simp] theorem State.updFar_fn (s : State) (n : Nat) (n' : Nat) (f : Far → Far) : (s.updFar n f).fn n' = s.fn n' := rfl
@[simp] theorem State.updFar_kslot (s : State) (n : Nat) (n' : Nat) (f : Far → Far) : (s.updFar n f).kslot n' = s.kslot n' := rfl
@[simp] theorem State.updFar_fport (s : State) (n : Nat) (n' : Nat) (f : Far → Far) : (s.updFar n f).fport n' = s.fport n' := rfl
@[simp] theorem State.updFar_job (s : State) (n : Nat) (n' : Nat) (f : Far → Far) : (s.updFar n f).job n' = s.job n' := rfl
@[simp] theorem State.updFar_isl (s : State) (n : Nat) (n' : Nat) (f : Far → Far) : (s.updFar n f).isl n' = s.isl n' := rfl
@[simp] theorem State.updFar_rail (s : State) (n : Nat) (n' : Nat) (f : Far → Far) : (s.updFar n f).rail n' = s.rail n' := rfl
@[simp] theorem State.updFar_coreS (s : State) (n : Nat) (n' : Nat) (f : Far → Far) : (s.updFar n f).coreS n' = s.coreS n' := rfl
@[simp] theorem State.updFar_role (s : State) (n : Nat) (n' : Nat) (f : Far → Far) : (s.updFar n f).role n' = s.role n' := rfl
@[simp] theorem State.updFar_mslot (s : State) (n : Nat) (n' : Nat) (f : Far → Far) : (s.updFar n f).mslot n' = s.mslot n' := rfl
@[simp] theorem State.updFar_hmem (s : State) (n : Nat) (n' : Nat) (f : Far → Far) : (s.updFar n f).hmem n' = s.hmem n' := rfl

/-! ## updTok -/

theorem State.token_updTok_self {s : State} (h : s.canon = true) (n : Nat) (f : Token → Token) : (s.updTok n f).token n = f (s.token n) :=
  Map.get_upd_self _ _ f _ (State.tokens_wf h)
theorem State.token_updTok_ne (s : State) (n : Nat) (n' : Nat) (f : Token → Token) (h : n' ≠ n) :
    (s.updTok n f).token n' = s.token n' := Map.get_upd_ne _ _ _ f _ h
theorem State.updTok_updTok {s : State} (h : s.canon = true) (n : Nat) (f f' : Token → Token) :
    (s.updTok n f).updTok n f' = s.updTok n (fun x => f' (f x)) := by
  simp only [State.updTok, Map.upd_upd _ _ f f' _ (State.tokens_wf h)]
theorem State.updTok_congr (s : State) (n : Nat) {f f' : Token → Token} (h : f (s.token n) = f' (s.token n)) :
    s.updTok n f = s.updTok n f' := by
  unfold State.updTok Map.upd
  unfold State.token at h
  rw [h]
@[simp] theorem State.updTok_pending (s : State) (n : Nat) (f : Token → Token) : (s.updTok n f).pending = s.pending := rfl
@[simp] theorem State.updTok_parts (s : State) (n : Nat) (f : Token → Token) : (s.updTok n f).parts = s.parts := rfl
@[simp] theorem State.updTok_units (s : State) (n : Nat) (f : Token → Token) : (s.updTok n f).units = s.units := rfl
@[simp] theorem State.updTok_eng (s : State) (n : Nat) (f : Token → Token) : (s.updTok n f).eng = s.eng := rfl
@[simp] theorem State.updTok_vts (s : State) (n : Nat) (f : Token → Token) : (s.updTok n f).vts = s.vts := rfl
@[simp] theorem State.updTok_sts (s : State) (n : Nat) (f : Token → Token) : (s.updTok n f).sts = s.sts := rfl
@[simp] theorem State.updTok_bars (s : State) (n : Nat) (f : Token → Token) : (s.updTok n f).bars = s.bars := rfl
@[simp] theorem State.updTok_net (s : State) (n : Nat) (f : Token → Token) : (s.updTok n f).net = s.net := rfl
@[simp] theorem State.updTok_staged (s : State) (n : Nat) (f : Token → Token) : (s.updTok n f).staged = s.staged := rfl
@[simp] theorem State.updTok_nextHandle (s : State) (n : Nat) (f : Token → Token) : (s.updTok n f).nextHandle = s.nextHandle := rfl
@[simp] theorem State.updTok_comps (s : State) (n : Nat) (f : Token → Token) : (s.updTok n f).comps = s.comps := rfl
@[simp] theorem State.updTok_freeCids (s : State) (n : Nat) (f : Token → Token) : (s.updTok n f).freeCids = s.freeCids := rfl
@[simp] theorem State.updTok_nextToken (s : State) (n : Nat) (f : Token → Token) : (s.updTok n f).nextToken = s.nextToken := rfl
@[simp] theorem State.updTok_chans (s : State) (n : Nat) (f : Token → Token) : (s.updTok n f).chans = s.chans := rfl
@[simp] theorem State.updTok_grades (s : State) (n : Nat) (f : Token → Token) : (s.updTok n f).grades = s.grades := rfl
@[simp] theorem State.updTok_cool (s : State) (n : Nat) (f : Token → Token) : (s.updTok n f).cool = s.cool := rfl
@[simp] theorem State.updTok_far (s : State) (n : Nat) (f : Token → Token) : (s.updTok n f).far = s.far := rfl
@[simp] theorem State.updTok_xlt (s : State) (n : Nat) (f : Token → Token) : (s.updTok n f).xlt = s.xlt := rfl
@[simp] theorem State.updTok_ctxs (s : State) (n : Nat) (f : Token → Token) : (s.updTok n f).ctxs = s.ctxs := rfl
@[simp] theorem State.updTok_freedXids (s : State) (n : Nat) (f : Token → Token) : (s.updTok n f).freedXids = s.freedXids := rfl
@[simp] theorem State.updTok_nextXid (s : State) (n : Nat) (f : Token → Token) : (s.updTok n f).nextXid = s.nextXid := rfl
@[simp] theorem State.updTok_sch (s : State) (n : Nat) (f : Token → Token) : (s.updTok n f).sch = s.sch := rfl
@[simp] theorem State.updTok_fab (s : State) (n : Nat) (f : Token → Token) : (s.updTok n f).fab = s.fab := rfl
@[simp] theorem State.updTok_host (s : State) (n : Nat) (f : Token → Token) : (s.updTok n f).host = s.host := rfl
@[simp] theorem State.updTok_sec (s : State) (n : Nat) (f : Token → Token) : (s.updTok n f).sec = s.sec := rfl
@[simp] theorem State.updTok_pail (s : State) (n : Nat) (f : Token → Token) : (s.updTok n f).pail = s.pail := rfl
@[simp] theorem State.updTok_pwr (s : State) (n : Nat) (f : Token → Token) : (s.updTok n f).pwr = s.pwr := rfl
@[simp] theorem State.updTok_flt (s : State) (n : Nat) (f : Token → Token) : (s.updTok n f).flt = s.flt := rfl
@[simp] theorem State.updTok_jrn (s : State) (n : Nat) (f : Token → Token) : (s.updTok n f).jrn = s.jrn := rfl
@[simp] theorem State.updTok_fw (s : State) (n : Nat) (f : Token → Token) : (s.updTok n f).fw = s.fw := rfl
@[simp] theorem State.updTok_boot (s : State) (n : Nat) (f : Token → Token) : (s.updTok n f).boot = s.boot := rfl
@[simp] theorem State.updTok_now (s : State) (n : Nat) (f : Token → Token) : (s.updTok n f).now = s.now := rfl
@[simp] theorem State.updTok_fresh (s : State) (n : Nat) (f : Token → Token) : (s.updTok n f).fresh = s.fresh := rfl
@[simp] theorem State.updTok_out (s : State) (n : Nat) (f : Token → Token) : (s.updTok n f).out = s.out := rfl
@[simp] theorem State.updTok_part (s : State) (n : Nat) (n' : Nat) (f : Token → Token) : (s.updTok n f).part n' = s.part n' := rfl
@[simp] theorem State.updTok_unit (s : State) (n : Nat) (n' : Nat) (f : Token → Token) : (s.updTok n f).unit n' = s.unit n' := rfl
@[simp] theorem State.updTok_engine (s : State) (n : Nat) (n' : Nat) (f : Token → Token) : (s.updTok n f).engine n' = s.engine n' := rfl
@[simp] theorem State.updTok_vt (s : State) (n : Nat) (n' : Nat) (f : Token → Token) : (s.updTok n f).vt n' = s.vt n' := rfl
@[simp] theorem State.updTok_tile (s : State) (n : Nat) (n' : Nat) (f : Token → Token) : (s.updTok n f).tile n' = s.tile n' := rfl
@[simp] theorem State.updTok_bar (s : State) (n : Nat) (c' b' : Nat) (f : Token → Token) : (s.updTok n f).bar c' b' = s.bar c' b' := rfl
@[simp] theorem State.updTok_comp (s : State) (n : Nat) (n' : Nat) (f : Token → Token) : (s.updTok n f).comp n' = s.comp n' := rfl
@[simp] theorem State.updTok_ctx (s : State) (n : Nat) (n' : Nat) (f : Token → Token) : (s.updTok n f).ctx n' = s.ctx n' := rfl
@[simp] theorem State.updTok_chan (s : State) (n : Nat) (n' : Nat) (f : Token → Token) : (s.updTok n f).chan n' = s.chan n' := rfl
@[simp] theorem State.updTok_farP (s : State) (n : Nat) (n' : Nat) (f : Token → Token) : (s.updTok n f).farP n' = s.farP n' := rfl
@[simp] theorem State.updTok_slot (s : State) (n : Nat) (x' i' : Nat) (f : Token → Token) : (s.updTok n f).slot x' i' = s.slot x' i' := rfl
@[simp] theorem State.updTok_fq (s : State) (n : Nat) (n' : Nat) (f : Token → Token) : (s.updTok n f).fq n' = s.fq n' := rfl
@[simp] theorem State.updTok_stage (s : State) (n : Nat) (c' g' : Nat) (f : Token → Token) : (s.updTok n f).stage c' g' = s.stage c' g' := rfl
@[simp] theorem State.updTok_router (s : State) (n : Nat) (n' : Nat) (f : Token → Token) : (s.updTok n f).router n' = s.router n' := rfl
@[simp] theorem State.updTok_hport (s : State) (n : Nat) (n' : Nat) (f : Token → Token) : (s.updTok n f).hport n' = s.hport n' := rfl
@[simp] theorem State.updTok_fn (s : State) (n : Nat) (n' : Nat) (f : Token → Token) : (s.updTok n f).fn n' = s.fn n' := rfl
@[simp] theorem State.updTok_kslot (s : State) (n : Nat) (n' : Nat) (f : Token → Token) : (s.updTok n f).kslot n' = s.kslot n' := rfl
@[simp] theorem State.updTok_fport (s : State) (n : Nat) (n' : Nat) (f : Token → Token) : (s.updTok n f).fport n' = s.fport n' := rfl
@[simp] theorem State.updTok_job (s : State) (n : Nat) (n' : Nat) (f : Token → Token) : (s.updTok n f).job n' = s.job n' := rfl
@[simp] theorem State.updTok_isl (s : State) (n : Nat) (n' : Nat) (f : Token → Token) : (s.updTok n f).isl n' = s.isl n' := rfl
@[simp] theorem State.updTok_rail (s : State) (n : Nat) (n' : Nat) (f : Token → Token) : (s.updTok n f).rail n' = s.rail n' := rfl
@[simp] theorem State.updTok_coreS (s : State) (n : Nat) (n' : Nat) (f : Token → Token) : (s.updTok n f).coreS n' = s.coreS n' := rfl
@[simp] theorem State.updTok_role (s : State) (n : Nat) (n' : Nat) (f : Token → Token) : (s.updTok n f).role n' = s.role n' := rfl
@[simp] theorem State.updTok_mslot (s : State) (n : Nat) (n' : Nat) (f : Token → Token) : (s.updTok n f).mslot n' = s.mslot n' := rfl
@[simp] theorem State.updTok_hmem (s : State) (n : Nat) (n' : Nat) (f : Token → Token) : (s.updTok n f).hmem n' = s.hmem n' := rfl

/-! ## updSlot -/

theorem State.slot_updSlot_self {s : State} (h : s.canon = true) (x i : Nat) (f : RSlot → RSlot) : (s.updSlot x i f).slot x i = f (s.slot x i) :=
  Map.get_upd_self _ _ f _ (State.xlt_slots_wf h)
theorem State.slot_updSlot_ne (s : State) (x i : Nat) (x' i' : Nat) (f : RSlot → RSlot) (h : (4096 * x' + i') ≠ (4096 * x + i)) :
    (s.updSlot x i f).slot x' i' = s.slot x' i' := Map.get_upd_ne _ _ _ f _ h
theorem State.updSlot_updSlot {s : State} (h : s.canon = true) (x i : Nat) (f f' : RSlot → RSlot) :
    (s.updSlot x i f).updSlot x i f' = s.updSlot x i (fun x => f' (f x)) := by
  simp only [State.updSlot, Map.upd_upd _ _ f f' _ (State.xlt_slots_wf h)]
theorem State.updSlot_congr (s : State) (x i : Nat) {f f' : RSlot → RSlot} (h : f (s.slot x i) = f' (s.slot x i)) :
    s.updSlot x i f = s.updSlot x i f' := by
  unfold State.updSlot Map.upd
  unfold State.slot at h
  rw [h]
@[simp] theorem State.updSlot_pending (s : State) (x i : Nat) (f : RSlot → RSlot) : (s.updSlot x i f).pending = s.pending := rfl
@[simp] theorem State.updSlot_parts (s : State) (x i : Nat) (f : RSlot → RSlot) : (s.updSlot x i f).parts = s.parts := rfl
@[simp] theorem State.updSlot_units (s : State) (x i : Nat) (f : RSlot → RSlot) : (s.updSlot x i f).units = s.units := rfl
@[simp] theorem State.updSlot_eng (s : State) (x i : Nat) (f : RSlot → RSlot) : (s.updSlot x i f).eng = s.eng := rfl
@[simp] theorem State.updSlot_vts (s : State) (x i : Nat) (f : RSlot → RSlot) : (s.updSlot x i f).vts = s.vts := rfl
@[simp] theorem State.updSlot_sts (s : State) (x i : Nat) (f : RSlot → RSlot) : (s.updSlot x i f).sts = s.sts := rfl
@[simp] theorem State.updSlot_bars (s : State) (x i : Nat) (f : RSlot → RSlot) : (s.updSlot x i f).bars = s.bars := rfl
@[simp] theorem State.updSlot_net (s : State) (x i : Nat) (f : RSlot → RSlot) : (s.updSlot x i f).net = s.net := rfl
@[simp] theorem State.updSlot_staged (s : State) (x i : Nat) (f : RSlot → RSlot) : (s.updSlot x i f).staged = s.staged := rfl
@[simp] theorem State.updSlot_nextHandle (s : State) (x i : Nat) (f : RSlot → RSlot) : (s.updSlot x i f).nextHandle = s.nextHandle := rfl
@[simp] theorem State.updSlot_comps (s : State) (x i : Nat) (f : RSlot → RSlot) : (s.updSlot x i f).comps = s.comps := rfl
@[simp] theorem State.updSlot_freeCids (s : State) (x i : Nat) (f : RSlot → RSlot) : (s.updSlot x i f).freeCids = s.freeCids := rfl
@[simp] theorem State.updSlot_tokens (s : State) (x i : Nat) (f : RSlot → RSlot) : (s.updSlot x i f).tokens = s.tokens := rfl
@[simp] theorem State.updSlot_nextToken (s : State) (x i : Nat) (f : RSlot → RSlot) : (s.updSlot x i f).nextToken = s.nextToken := rfl
@[simp] theorem State.updSlot_chans (s : State) (x i : Nat) (f : RSlot → RSlot) : (s.updSlot x i f).chans = s.chans := rfl
@[simp] theorem State.updSlot_grades (s : State) (x i : Nat) (f : RSlot → RSlot) : (s.updSlot x i f).grades = s.grades := rfl
@[simp] theorem State.updSlot_cool (s : State) (x i : Nat) (f : RSlot → RSlot) : (s.updSlot x i f).cool = s.cool := rfl
@[simp] theorem State.updSlot_far (s : State) (x i : Nat) (f : RSlot → RSlot) : (s.updSlot x i f).far = s.far := rfl
@[simp] theorem State.updSlot_ctxs (s : State) (x i : Nat) (f : RSlot → RSlot) : (s.updSlot x i f).ctxs = s.ctxs := rfl
@[simp] theorem State.updSlot_freedXids (s : State) (x i : Nat) (f : RSlot → RSlot) : (s.updSlot x i f).freedXids = s.freedXids := rfl
@[simp] theorem State.updSlot_nextXid (s : State) (x i : Nat) (f : RSlot → RSlot) : (s.updSlot x i f).nextXid = s.nextXid := rfl
@[simp] theorem State.updSlot_sch (s : State) (x i : Nat) (f : RSlot → RSlot) : (s.updSlot x i f).sch = s.sch := rfl
@[simp] theorem State.updSlot_fab (s : State) (x i : Nat) (f : RSlot → RSlot) : (s.updSlot x i f).fab = s.fab := rfl
@[simp] theorem State.updSlot_host (s : State) (x i : Nat) (f : RSlot → RSlot) : (s.updSlot x i f).host = s.host := rfl
@[simp] theorem State.updSlot_sec (s : State) (x i : Nat) (f : RSlot → RSlot) : (s.updSlot x i f).sec = s.sec := rfl
@[simp] theorem State.updSlot_pail (s : State) (x i : Nat) (f : RSlot → RSlot) : (s.updSlot x i f).pail = s.pail := rfl
@[simp] theorem State.updSlot_pwr (s : State) (x i : Nat) (f : RSlot → RSlot) : (s.updSlot x i f).pwr = s.pwr := rfl
@[simp] theorem State.updSlot_flt (s : State) (x i : Nat) (f : RSlot → RSlot) : (s.updSlot x i f).flt = s.flt := rfl
@[simp] theorem State.updSlot_jrn (s : State) (x i : Nat) (f : RSlot → RSlot) : (s.updSlot x i f).jrn = s.jrn := rfl
@[simp] theorem State.updSlot_fw (s : State) (x i : Nat) (f : RSlot → RSlot) : (s.updSlot x i f).fw = s.fw := rfl
@[simp] theorem State.updSlot_boot (s : State) (x i : Nat) (f : RSlot → RSlot) : (s.updSlot x i f).boot = s.boot := rfl
@[simp] theorem State.updSlot_now (s : State) (x i : Nat) (f : RSlot → RSlot) : (s.updSlot x i f).now = s.now := rfl
@[simp] theorem State.updSlot_fresh (s : State) (x i : Nat) (f : RSlot → RSlot) : (s.updSlot x i f).fresh = s.fresh := rfl
@[simp] theorem State.updSlot_out (s : State) (x i : Nat) (f : RSlot → RSlot) : (s.updSlot x i f).out = s.out := rfl
@[simp] theorem State.updSlot_part (s : State) (x i : Nat) (n' : Nat) (f : RSlot → RSlot) : (s.updSlot x i f).part n' = s.part n' := rfl
@[simp] theorem State.updSlot_unit (s : State) (x i : Nat) (n' : Nat) (f : RSlot → RSlot) : (s.updSlot x i f).unit n' = s.unit n' := rfl
@[simp] theorem State.updSlot_engine (s : State) (x i : Nat) (n' : Nat) (f : RSlot → RSlot) : (s.updSlot x i f).engine n' = s.engine n' := rfl
@[simp] theorem State.updSlot_vt (s : State) (x i : Nat) (n' : Nat) (f : RSlot → RSlot) : (s.updSlot x i f).vt n' = s.vt n' := rfl
@[simp] theorem State.updSlot_tile (s : State) (x i : Nat) (n' : Nat) (f : RSlot → RSlot) : (s.updSlot x i f).tile n' = s.tile n' := rfl
@[simp] theorem State.updSlot_bar (s : State) (x i : Nat) (c' b' : Nat) (f : RSlot → RSlot) : (s.updSlot x i f).bar c' b' = s.bar c' b' := rfl
@[simp] theorem State.updSlot_comp (s : State) (x i : Nat) (n' : Nat) (f : RSlot → RSlot) : (s.updSlot x i f).comp n' = s.comp n' := rfl
@[simp] theorem State.updSlot_ctx (s : State) (x i : Nat) (n' : Nat) (f : RSlot → RSlot) : (s.updSlot x i f).ctx n' = s.ctx n' := rfl
@[simp] theorem State.updSlot_chan (s : State) (x i : Nat) (n' : Nat) (f : RSlot → RSlot) : (s.updSlot x i f).chan n' = s.chan n' := rfl
@[simp] theorem State.updSlot_farP (s : State) (x i : Nat) (n' : Nat) (f : RSlot → RSlot) : (s.updSlot x i f).farP n' = s.farP n' := rfl
@[simp] theorem State.updSlot_token (s : State) (x i : Nat) (n' : Nat) (f : RSlot → RSlot) : (s.updSlot x i f).token n' = s.token n' := rfl
@[simp] theorem State.updSlot_fq (s : State) (x i : Nat) (n' : Nat) (f : RSlot → RSlot) : (s.updSlot x i f).fq n' = s.fq n' := rfl
@[simp] theorem State.updSlot_stage (s : State) (x i : Nat) (c' g' : Nat) (f : RSlot → RSlot) : (s.updSlot x i f).stage c' g' = s.stage c' g' := rfl
@[simp] theorem State.updSlot_router (s : State) (x i : Nat) (n' : Nat) (f : RSlot → RSlot) : (s.updSlot x i f).router n' = s.router n' := rfl
@[simp] theorem State.updSlot_hport (s : State) (x i : Nat) (n' : Nat) (f : RSlot → RSlot) : (s.updSlot x i f).hport n' = s.hport n' := rfl
@[simp] theorem State.updSlot_fn (s : State) (x i : Nat) (n' : Nat) (f : RSlot → RSlot) : (s.updSlot x i f).fn n' = s.fn n' := rfl
@[simp] theorem State.updSlot_kslot (s : State) (x i : Nat) (n' : Nat) (f : RSlot → RSlot) : (s.updSlot x i f).kslot n' = s.kslot n' := rfl
@[simp] theorem State.updSlot_fport (s : State) (x i : Nat) (n' : Nat) (f : RSlot → RSlot) : (s.updSlot x i f).fport n' = s.fport n' := rfl
@[simp] theorem State.updSlot_job (s : State) (x i : Nat) (n' : Nat) (f : RSlot → RSlot) : (s.updSlot x i f).job n' = s.job n' := rfl
@[simp] theorem State.updSlot_isl (s : State) (x i : Nat) (n' : Nat) (f : RSlot → RSlot) : (s.updSlot x i f).isl n' = s.isl n' := rfl
@[simp] theorem State.updSlot_rail (s : State) (x i : Nat) (n' : Nat) (f : RSlot → RSlot) : (s.updSlot x i f).rail n' = s.rail n' := rfl
@[simp] theorem State.updSlot_coreS (s : State) (x i : Nat) (n' : Nat) (f : RSlot → RSlot) : (s.updSlot x i f).coreS n' = s.coreS n' := rfl
@[simp] theorem State.updSlot_role (s : State) (x i : Nat) (n' : Nat) (f : RSlot → RSlot) : (s.updSlot x i f).role n' = s.role n' := rfl
@[simp] theorem State.updSlot_mslot (s : State) (x i : Nat) (n' : Nat) (f : RSlot → RSlot) : (s.updSlot x i f).mslot n' = s.mslot n' := rfl
@[simp] theorem State.updSlot_hmem (s : State) (x i : Nat) (n' : Nat) (f : RSlot → RSlot) : (s.updSlot x i f).hmem n' = s.hmem n' := rfl

/-! ## updFq -/

theorem State.fq_updFq_self {s : State} (h : s.canon = true) (n : Nat) (f : FaultQ → FaultQ) : (s.updFq n f).fq n = f (s.fq n) :=
  Map.get_upd_self _ _ f _ (State.xlt_fqs_wf h)
theorem State.fq_updFq_ne (s : State) (n : Nat) (n' : Nat) (f : FaultQ → FaultQ) (h : n' ≠ n) :
    (s.updFq n f).fq n' = s.fq n' := Map.get_upd_ne _ _ _ f _ h
theorem State.updFq_updFq {s : State} (h : s.canon = true) (n : Nat) (f f' : FaultQ → FaultQ) :
    (s.updFq n f).updFq n f' = s.updFq n (fun x => f' (f x)) := by
  simp only [State.updFq, Map.upd_upd _ _ f f' _ (State.xlt_fqs_wf h)]
theorem State.updFq_congr (s : State) (n : Nat) {f f' : FaultQ → FaultQ} (h : f (s.fq n) = f' (s.fq n)) :
    s.updFq n f = s.updFq n f' := by
  unfold State.updFq Map.upd
  unfold State.fq at h
  rw [h]
@[simp] theorem State.updFq_pending (s : State) (n : Nat) (f : FaultQ → FaultQ) : (s.updFq n f).pending = s.pending := rfl
@[simp] theorem State.updFq_parts (s : State) (n : Nat) (f : FaultQ → FaultQ) : (s.updFq n f).parts = s.parts := rfl
@[simp] theorem State.updFq_units (s : State) (n : Nat) (f : FaultQ → FaultQ) : (s.updFq n f).units = s.units := rfl
@[simp] theorem State.updFq_eng (s : State) (n : Nat) (f : FaultQ → FaultQ) : (s.updFq n f).eng = s.eng := rfl
@[simp] theorem State.updFq_vts (s : State) (n : Nat) (f : FaultQ → FaultQ) : (s.updFq n f).vts = s.vts := rfl
@[simp] theorem State.updFq_sts (s : State) (n : Nat) (f : FaultQ → FaultQ) : (s.updFq n f).sts = s.sts := rfl
@[simp] theorem State.updFq_bars (s : State) (n : Nat) (f : FaultQ → FaultQ) : (s.updFq n f).bars = s.bars := rfl
@[simp] theorem State.updFq_net (s : State) (n : Nat) (f : FaultQ → FaultQ) : (s.updFq n f).net = s.net := rfl
@[simp] theorem State.updFq_staged (s : State) (n : Nat) (f : FaultQ → FaultQ) : (s.updFq n f).staged = s.staged := rfl
@[simp] theorem State.updFq_nextHandle (s : State) (n : Nat) (f : FaultQ → FaultQ) : (s.updFq n f).nextHandle = s.nextHandle := rfl
@[simp] theorem State.updFq_comps (s : State) (n : Nat) (f : FaultQ → FaultQ) : (s.updFq n f).comps = s.comps := rfl
@[simp] theorem State.updFq_freeCids (s : State) (n : Nat) (f : FaultQ → FaultQ) : (s.updFq n f).freeCids = s.freeCids := rfl
@[simp] theorem State.updFq_tokens (s : State) (n : Nat) (f : FaultQ → FaultQ) : (s.updFq n f).tokens = s.tokens := rfl
@[simp] theorem State.updFq_nextToken (s : State) (n : Nat) (f : FaultQ → FaultQ) : (s.updFq n f).nextToken = s.nextToken := rfl
@[simp] theorem State.updFq_chans (s : State) (n : Nat) (f : FaultQ → FaultQ) : (s.updFq n f).chans = s.chans := rfl
@[simp] theorem State.updFq_grades (s : State) (n : Nat) (f : FaultQ → FaultQ) : (s.updFq n f).grades = s.grades := rfl
@[simp] theorem State.updFq_cool (s : State) (n : Nat) (f : FaultQ → FaultQ) : (s.updFq n f).cool = s.cool := rfl
@[simp] theorem State.updFq_far (s : State) (n : Nat) (f : FaultQ → FaultQ) : (s.updFq n f).far = s.far := rfl
@[simp] theorem State.updFq_ctxs (s : State) (n : Nat) (f : FaultQ → FaultQ) : (s.updFq n f).ctxs = s.ctxs := rfl
@[simp] theorem State.updFq_freedXids (s : State) (n : Nat) (f : FaultQ → FaultQ) : (s.updFq n f).freedXids = s.freedXids := rfl
@[simp] theorem State.updFq_nextXid (s : State) (n : Nat) (f : FaultQ → FaultQ) : (s.updFq n f).nextXid = s.nextXid := rfl
@[simp] theorem State.updFq_sch (s : State) (n : Nat) (f : FaultQ → FaultQ) : (s.updFq n f).sch = s.sch := rfl
@[simp] theorem State.updFq_fab (s : State) (n : Nat) (f : FaultQ → FaultQ) : (s.updFq n f).fab = s.fab := rfl
@[simp] theorem State.updFq_host (s : State) (n : Nat) (f : FaultQ → FaultQ) : (s.updFq n f).host = s.host := rfl
@[simp] theorem State.updFq_sec (s : State) (n : Nat) (f : FaultQ → FaultQ) : (s.updFq n f).sec = s.sec := rfl
@[simp] theorem State.updFq_pail (s : State) (n : Nat) (f : FaultQ → FaultQ) : (s.updFq n f).pail = s.pail := rfl
@[simp] theorem State.updFq_pwr (s : State) (n : Nat) (f : FaultQ → FaultQ) : (s.updFq n f).pwr = s.pwr := rfl
@[simp] theorem State.updFq_flt (s : State) (n : Nat) (f : FaultQ → FaultQ) : (s.updFq n f).flt = s.flt := rfl
@[simp] theorem State.updFq_jrn (s : State) (n : Nat) (f : FaultQ → FaultQ) : (s.updFq n f).jrn = s.jrn := rfl
@[simp] theorem State.updFq_fw (s : State) (n : Nat) (f : FaultQ → FaultQ) : (s.updFq n f).fw = s.fw := rfl
@[simp] theorem State.updFq_boot (s : State) (n : Nat) (f : FaultQ → FaultQ) : (s.updFq n f).boot = s.boot := rfl
@[simp] theorem State.updFq_now (s : State) (n : Nat) (f : FaultQ → FaultQ) : (s.updFq n f).now = s.now := rfl
@[simp] theorem State.updFq_fresh (s : State) (n : Nat) (f : FaultQ → FaultQ) : (s.updFq n f).fresh = s.fresh := rfl
@[simp] theorem State.updFq_out (s : State) (n : Nat) (f : FaultQ → FaultQ) : (s.updFq n f).out = s.out := rfl
@[simp] theorem State.updFq_part (s : State) (n : Nat) (n' : Nat) (f : FaultQ → FaultQ) : (s.updFq n f).part n' = s.part n' := rfl
@[simp] theorem State.updFq_unit (s : State) (n : Nat) (n' : Nat) (f : FaultQ → FaultQ) : (s.updFq n f).unit n' = s.unit n' := rfl
@[simp] theorem State.updFq_engine (s : State) (n : Nat) (n' : Nat) (f : FaultQ → FaultQ) : (s.updFq n f).engine n' = s.engine n' := rfl
@[simp] theorem State.updFq_vt (s : State) (n : Nat) (n' : Nat) (f : FaultQ → FaultQ) : (s.updFq n f).vt n' = s.vt n' := rfl
@[simp] theorem State.updFq_tile (s : State) (n : Nat) (n' : Nat) (f : FaultQ → FaultQ) : (s.updFq n f).tile n' = s.tile n' := rfl
@[simp] theorem State.updFq_bar (s : State) (n : Nat) (c' b' : Nat) (f : FaultQ → FaultQ) : (s.updFq n f).bar c' b' = s.bar c' b' := rfl
@[simp] theorem State.updFq_comp (s : State) (n : Nat) (n' : Nat) (f : FaultQ → FaultQ) : (s.updFq n f).comp n' = s.comp n' := rfl
@[simp] theorem State.updFq_ctx (s : State) (n : Nat) (n' : Nat) (f : FaultQ → FaultQ) : (s.updFq n f).ctx n' = s.ctx n' := rfl
@[simp] theorem State.updFq_chan (s : State) (n : Nat) (n' : Nat) (f : FaultQ → FaultQ) : (s.updFq n f).chan n' = s.chan n' := rfl
@[simp] theorem State.updFq_farP (s : State) (n : Nat) (n' : Nat) (f : FaultQ → FaultQ) : (s.updFq n f).farP n' = s.farP n' := rfl
@[simp] theorem State.updFq_token (s : State) (n : Nat) (n' : Nat) (f : FaultQ → FaultQ) : (s.updFq n f).token n' = s.token n' := rfl
@[simp] theorem State.updFq_slot (s : State) (n : Nat) (x' i' : Nat) (f : FaultQ → FaultQ) : (s.updFq n f).slot x' i' = s.slot x' i' := rfl
@[simp] theorem State.updFq_stage (s : State) (n : Nat) (c' g' : Nat) (f : FaultQ → FaultQ) : (s.updFq n f).stage c' g' = s.stage c' g' := rfl
@[simp] theorem State.updFq_router (s : State) (n : Nat) (n' : Nat) (f : FaultQ → FaultQ) : (s.updFq n f).router n' = s.router n' := rfl
@[simp] theorem State.updFq_hport (s : State) (n : Nat) (n' : Nat) (f : FaultQ → FaultQ) : (s.updFq n f).hport n' = s.hport n' := rfl
@[simp] theorem State.updFq_fn (s : State) (n : Nat) (n' : Nat) (f : FaultQ → FaultQ) : (s.updFq n f).fn n' = s.fn n' := rfl
@[simp] theorem State.updFq_kslot (s : State) (n : Nat) (n' : Nat) (f : FaultQ → FaultQ) : (s.updFq n f).kslot n' = s.kslot n' := rfl
@[simp] theorem State.updFq_fport (s : State) (n : Nat) (n' : Nat) (f : FaultQ → FaultQ) : (s.updFq n f).fport n' = s.fport n' := rfl
@[simp] theorem State.updFq_job (s : State) (n : Nat) (n' : Nat) (f : FaultQ → FaultQ) : (s.updFq n f).job n' = s.job n' := rfl
@[simp] theorem State.updFq_isl (s : State) (n : Nat) (n' : Nat) (f : FaultQ → FaultQ) : (s.updFq n f).isl n' = s.isl n' := rfl
@[simp] theorem State.updFq_rail (s : State) (n : Nat) (n' : Nat) (f : FaultQ → FaultQ) : (s.updFq n f).rail n' = s.rail n' := rfl
@[simp] theorem State.updFq_coreS (s : State) (n : Nat) (n' : Nat) (f : FaultQ → FaultQ) : (s.updFq n f).coreS n' = s.coreS n' := rfl
@[simp] theorem State.updFq_role (s : State) (n : Nat) (n' : Nat) (f : FaultQ → FaultQ) : (s.updFq n f).role n' = s.role n' := rfl
@[simp] theorem State.updFq_mslot (s : State) (n : Nat) (n' : Nat) (f : FaultQ → FaultQ) : (s.updFq n f).mslot n' = s.mslot n' := rfl
@[simp] theorem State.updFq_hmem (s : State) (n : Nat) (n' : Nat) (f : FaultQ → FaultQ) : (s.updFq n f).hmem n' = s.hmem n' := rfl

/-! ## updStage -/

theorem State.stage_updStage_self {s : State} (h : s.canon = true) (c g : Nat) (f : Stage → Stage) : (s.updStage c g f).stage c g = f (s.stage c g) :=
  Map.get_upd_self _ _ f _ (State.sch_stages_wf h)
theorem State.stage_updStage_ne (s : State) (c g : Nat) (c' g' : Nat) (f : Stage → Stage) (h : (64 * c' + g') ≠ (64 * c + g)) :
    (s.updStage c g f).stage c' g' = s.stage c' g' := Map.get_upd_ne _ _ _ f _ h
theorem State.updStage_updStage {s : State} (h : s.canon = true) (c g : Nat) (f f' : Stage → Stage) :
    (s.updStage c g f).updStage c g f' = s.updStage c g (fun x => f' (f x)) := by
  simp only [State.updStage, Map.upd_upd _ _ f f' _ (State.sch_stages_wf h)]
theorem State.updStage_congr (s : State) (c g : Nat) {f f' : Stage → Stage} (h : f (s.stage c g) = f' (s.stage c g)) :
    s.updStage c g f = s.updStage c g f' := by
  unfold State.updStage Map.upd
  unfold State.stage at h
  rw [h]
@[simp] theorem State.updStage_pending (s : State) (c g : Nat) (f : Stage → Stage) : (s.updStage c g f).pending = s.pending := rfl
@[simp] theorem State.updStage_parts (s : State) (c g : Nat) (f : Stage → Stage) : (s.updStage c g f).parts = s.parts := rfl
@[simp] theorem State.updStage_units (s : State) (c g : Nat) (f : Stage → Stage) : (s.updStage c g f).units = s.units := rfl
@[simp] theorem State.updStage_eng (s : State) (c g : Nat) (f : Stage → Stage) : (s.updStage c g f).eng = s.eng := rfl
@[simp] theorem State.updStage_vts (s : State) (c g : Nat) (f : Stage → Stage) : (s.updStage c g f).vts = s.vts := rfl
@[simp] theorem State.updStage_sts (s : State) (c g : Nat) (f : Stage → Stage) : (s.updStage c g f).sts = s.sts := rfl
@[simp] theorem State.updStage_bars (s : State) (c g : Nat) (f : Stage → Stage) : (s.updStage c g f).bars = s.bars := rfl
@[simp] theorem State.updStage_net (s : State) (c g : Nat) (f : Stage → Stage) : (s.updStage c g f).net = s.net := rfl
@[simp] theorem State.updStage_staged (s : State) (c g : Nat) (f : Stage → Stage) : (s.updStage c g f).staged = s.staged := rfl
@[simp] theorem State.updStage_nextHandle (s : State) (c g : Nat) (f : Stage → Stage) : (s.updStage c g f).nextHandle = s.nextHandle := rfl
@[simp] theorem State.updStage_comps (s : State) (c g : Nat) (f : Stage → Stage) : (s.updStage c g f).comps = s.comps := rfl
@[simp] theorem State.updStage_freeCids (s : State) (c g : Nat) (f : Stage → Stage) : (s.updStage c g f).freeCids = s.freeCids := rfl
@[simp] theorem State.updStage_tokens (s : State) (c g : Nat) (f : Stage → Stage) : (s.updStage c g f).tokens = s.tokens := rfl
@[simp] theorem State.updStage_nextToken (s : State) (c g : Nat) (f : Stage → Stage) : (s.updStage c g f).nextToken = s.nextToken := rfl
@[simp] theorem State.updStage_chans (s : State) (c g : Nat) (f : Stage → Stage) : (s.updStage c g f).chans = s.chans := rfl
@[simp] theorem State.updStage_grades (s : State) (c g : Nat) (f : Stage → Stage) : (s.updStage c g f).grades = s.grades := rfl
@[simp] theorem State.updStage_cool (s : State) (c g : Nat) (f : Stage → Stage) : (s.updStage c g f).cool = s.cool := rfl
@[simp] theorem State.updStage_far (s : State) (c g : Nat) (f : Stage → Stage) : (s.updStage c g f).far = s.far := rfl
@[simp] theorem State.updStage_xlt (s : State) (c g : Nat) (f : Stage → Stage) : (s.updStage c g f).xlt = s.xlt := rfl
@[simp] theorem State.updStage_ctxs (s : State) (c g : Nat) (f : Stage → Stage) : (s.updStage c g f).ctxs = s.ctxs := rfl
@[simp] theorem State.updStage_freedXids (s : State) (c g : Nat) (f : Stage → Stage) : (s.updStage c g f).freedXids = s.freedXids := rfl
@[simp] theorem State.updStage_nextXid (s : State) (c g : Nat) (f : Stage → Stage) : (s.updStage c g f).nextXid = s.nextXid := rfl
@[simp] theorem State.updStage_fab (s : State) (c g : Nat) (f : Stage → Stage) : (s.updStage c g f).fab = s.fab := rfl
@[simp] theorem State.updStage_host (s : State) (c g : Nat) (f : Stage → Stage) : (s.updStage c g f).host = s.host := rfl
@[simp] theorem State.updStage_sec (s : State) (c g : Nat) (f : Stage → Stage) : (s.updStage c g f).sec = s.sec := rfl
@[simp] theorem State.updStage_pail (s : State) (c g : Nat) (f : Stage → Stage) : (s.updStage c g f).pail = s.pail := rfl
@[simp] theorem State.updStage_pwr (s : State) (c g : Nat) (f : Stage → Stage) : (s.updStage c g f).pwr = s.pwr := rfl
@[simp] theorem State.updStage_flt (s : State) (c g : Nat) (f : Stage → Stage) : (s.updStage c g f).flt = s.flt := rfl
@[simp] theorem State.updStage_jrn (s : State) (c g : Nat) (f : Stage → Stage) : (s.updStage c g f).jrn = s.jrn := rfl
@[simp] theorem State.updStage_fw (s : State) (c g : Nat) (f : Stage → Stage) : (s.updStage c g f).fw = s.fw := rfl
@[simp] theorem State.updStage_boot (s : State) (c g : Nat) (f : Stage → Stage) : (s.updStage c g f).boot = s.boot := rfl
@[simp] theorem State.updStage_now (s : State) (c g : Nat) (f : Stage → Stage) : (s.updStage c g f).now = s.now := rfl
@[simp] theorem State.updStage_fresh (s : State) (c g : Nat) (f : Stage → Stage) : (s.updStage c g f).fresh = s.fresh := rfl
@[simp] theorem State.updStage_out (s : State) (c g : Nat) (f : Stage → Stage) : (s.updStage c g f).out = s.out := rfl
@[simp] theorem State.updStage_part (s : State) (c g : Nat) (n' : Nat) (f : Stage → Stage) : (s.updStage c g f).part n' = s.part n' := rfl
@[simp] theorem State.updStage_unit (s : State) (c g : Nat) (n' : Nat) (f : Stage → Stage) : (s.updStage c g f).unit n' = s.unit n' := rfl
@[simp] theorem State.updStage_engine (s : State) (c g : Nat) (n' : Nat) (f : Stage → Stage) : (s.updStage c g f).engine n' = s.engine n' := rfl
@[simp] theorem State.updStage_vt (s : State) (c g : Nat) (n' : Nat) (f : Stage → Stage) : (s.updStage c g f).vt n' = s.vt n' := rfl
@[simp] theorem State.updStage_tile (s : State) (c g : Nat) (n' : Nat) (f : Stage → Stage) : (s.updStage c g f).tile n' = s.tile n' := rfl
@[simp] theorem State.updStage_bar (s : State) (c g : Nat) (c' b' : Nat) (f : Stage → Stage) : (s.updStage c g f).bar c' b' = s.bar c' b' := rfl
@[simp] theorem State.updStage_comp (s : State) (c g : Nat) (n' : Nat) (f : Stage → Stage) : (s.updStage c g f).comp n' = s.comp n' := rfl
@[simp] theorem State.updStage_ctx (s : State) (c g : Nat) (n' : Nat) (f : Stage → Stage) : (s.updStage c g f).ctx n' = s.ctx n' := rfl
@[simp] theorem State.updStage_chan (s : State) (c g : Nat) (n' : Nat) (f : Stage → Stage) : (s.updStage c g f).chan n' = s.chan n' := rfl
@[simp] theorem State.updStage_farP (s : State) (c g : Nat) (n' : Nat) (f : Stage → Stage) : (s.updStage c g f).farP n' = s.farP n' := rfl
@[simp] theorem State.updStage_token (s : State) (c g : Nat) (n' : Nat) (f : Stage → Stage) : (s.updStage c g f).token n' = s.token n' := rfl
@[simp] theorem State.updStage_slot (s : State) (c g : Nat) (x' i' : Nat) (f : Stage → Stage) : (s.updStage c g f).slot x' i' = s.slot x' i' := rfl
@[simp] theorem State.updStage_fq (s : State) (c g : Nat) (n' : Nat) (f : Stage → Stage) : (s.updStage c g f).fq n' = s.fq n' := rfl
@[simp] theorem State.updStage_router (s : State) (c g : Nat) (n' : Nat) (f : Stage → Stage) : (s.updStage c g f).router n' = s.router n' := rfl
@[simp] theorem State.updStage_hport (s : State) (c g : Nat) (n' : Nat) (f : Stage → Stage) : (s.updStage c g f).hport n' = s.hport n' := rfl
@[simp] theorem State.updStage_fn (s : State) (c g : Nat) (n' : Nat) (f : Stage → Stage) : (s.updStage c g f).fn n' = s.fn n' := rfl
@[simp] theorem State.updStage_kslot (s : State) (c g : Nat) (n' : Nat) (f : Stage → Stage) : (s.updStage c g f).kslot n' = s.kslot n' := rfl
@[simp] theorem State.updStage_fport (s : State) (c g : Nat) (n' : Nat) (f : Stage → Stage) : (s.updStage c g f).fport n' = s.fport n' := rfl
@[simp] theorem State.updStage_job (s : State) (c g : Nat) (n' : Nat) (f : Stage → Stage) : (s.updStage c g f).job n' = s.job n' := rfl
@[simp] theorem State.updStage_isl (s : State) (c g : Nat) (n' : Nat) (f : Stage → Stage) : (s.updStage c g f).isl n' = s.isl n' := rfl
@[simp] theorem State.updStage_rail (s : State) (c g : Nat) (n' : Nat) (f : Stage → Stage) : (s.updStage c g f).rail n' = s.rail n' := rfl
@[simp] theorem State.updStage_coreS (s : State) (c g : Nat) (n' : Nat) (f : Stage → Stage) : (s.updStage c g f).coreS n' = s.coreS n' := rfl
@[simp] theorem State.updStage_role (s : State) (c g : Nat) (n' : Nat) (f : Stage → Stage) : (s.updStage c g f).role n' = s.role n' := rfl
@[simp] theorem State.updStage_mslot (s : State) (c g : Nat) (n' : Nat) (f : Stage → Stage) : (s.updStage c g f).mslot n' = s.mslot n' := rfl
@[simp] theorem State.updStage_hmem (s : State) (c g : Nat) (n' : Nat) (f : Stage → Stage) : (s.updStage c g f).hmem n' = s.hmem n' := rfl

/-! ## updRouter -/

theorem State.router_updRouter_self {s : State} (h : s.canon = true) (n : Nat) (f : Router → Router) : (s.updRouter n f).router n = f (s.router n) :=
  Map.get_upd_self _ _ f _ (State.net_routers_wf h)
theorem State.router_updRouter_ne (s : State) (n : Nat) (n' : Nat) (f : Router → Router) (h : n' ≠ n) :
    (s.updRouter n f).router n' = s.router n' := Map.get_upd_ne _ _ _ f _ h
theorem State.updRouter_updRouter {s : State} (h : s.canon = true) (n : Nat) (f f' : Router → Router) :
    (s.updRouter n f).updRouter n f' = s.updRouter n (fun x => f' (f x)) := by
  simp only [State.updRouter, Map.upd_upd _ _ f f' _ (State.net_routers_wf h)]
theorem State.updRouter_congr (s : State) (n : Nat) {f f' : Router → Router} (h : f (s.router n) = f' (s.router n)) :
    s.updRouter n f = s.updRouter n f' := by
  unfold State.updRouter Map.upd
  unfold State.router at h
  rw [h]
@[simp] theorem State.updRouter_pending (s : State) (n : Nat) (f : Router → Router) : (s.updRouter n f).pending = s.pending := rfl
@[simp] theorem State.updRouter_parts (s : State) (n : Nat) (f : Router → Router) : (s.updRouter n f).parts = s.parts := rfl
@[simp] theorem State.updRouter_units (s : State) (n : Nat) (f : Router → Router) : (s.updRouter n f).units = s.units := rfl
@[simp] theorem State.updRouter_eng (s : State) (n : Nat) (f : Router → Router) : (s.updRouter n f).eng = s.eng := rfl
@[simp] theorem State.updRouter_vts (s : State) (n : Nat) (f : Router → Router) : (s.updRouter n f).vts = s.vts := rfl
@[simp] theorem State.updRouter_sts (s : State) (n : Nat) (f : Router → Router) : (s.updRouter n f).sts = s.sts := rfl
@[simp] theorem State.updRouter_bars (s : State) (n : Nat) (f : Router → Router) : (s.updRouter n f).bars = s.bars := rfl
@[simp] theorem State.updRouter_staged (s : State) (n : Nat) (f : Router → Router) : (s.updRouter n f).staged = s.staged := rfl
@[simp] theorem State.updRouter_nextHandle (s : State) (n : Nat) (f : Router → Router) : (s.updRouter n f).nextHandle = s.nextHandle := rfl
@[simp] theorem State.updRouter_comps (s : State) (n : Nat) (f : Router → Router) : (s.updRouter n f).comps = s.comps := rfl
@[simp] theorem State.updRouter_freeCids (s : State) (n : Nat) (f : Router → Router) : (s.updRouter n f).freeCids = s.freeCids := rfl
@[simp] theorem State.updRouter_tokens (s : State) (n : Nat) (f : Router → Router) : (s.updRouter n f).tokens = s.tokens := rfl
@[simp] theorem State.updRouter_nextToken (s : State) (n : Nat) (f : Router → Router) : (s.updRouter n f).nextToken = s.nextToken := rfl
@[simp] theorem State.updRouter_chans (s : State) (n : Nat) (f : Router → Router) : (s.updRouter n f).chans = s.chans := rfl
@[simp] theorem State.updRouter_grades (s : State) (n : Nat) (f : Router → Router) : (s.updRouter n f).grades = s.grades := rfl
@[simp] theorem State.updRouter_cool (s : State) (n : Nat) (f : Router → Router) : (s.updRouter n f).cool = s.cool := rfl
@[simp] theorem State.updRouter_far (s : State) (n : Nat) (f : Router → Router) : (s.updRouter n f).far = s.far := rfl
@[simp] theorem State.updRouter_xlt (s : State) (n : Nat) (f : Router → Router) : (s.updRouter n f).xlt = s.xlt := rfl
@[simp] theorem State.updRouter_ctxs (s : State) (n : Nat) (f : Router → Router) : (s.updRouter n f).ctxs = s.ctxs := rfl
@[simp] theorem State.updRouter_freedXids (s : State) (n : Nat) (f : Router → Router) : (s.updRouter n f).freedXids = s.freedXids := rfl
@[simp] theorem State.updRouter_nextXid (s : State) (n : Nat) (f : Router → Router) : (s.updRouter n f).nextXid = s.nextXid := rfl
@[simp] theorem State.updRouter_sch (s : State) (n : Nat) (f : Router → Router) : (s.updRouter n f).sch = s.sch := rfl
@[simp] theorem State.updRouter_fab (s : State) (n : Nat) (f : Router → Router) : (s.updRouter n f).fab = s.fab := rfl
@[simp] theorem State.updRouter_host (s : State) (n : Nat) (f : Router → Router) : (s.updRouter n f).host = s.host := rfl
@[simp] theorem State.updRouter_sec (s : State) (n : Nat) (f : Router → Router) : (s.updRouter n f).sec = s.sec := rfl
@[simp] theorem State.updRouter_pail (s : State) (n : Nat) (f : Router → Router) : (s.updRouter n f).pail = s.pail := rfl
@[simp] theorem State.updRouter_pwr (s : State) (n : Nat) (f : Router → Router) : (s.updRouter n f).pwr = s.pwr := rfl
@[simp] theorem State.updRouter_flt (s : State) (n : Nat) (f : Router → Router) : (s.updRouter n f).flt = s.flt := rfl
@[simp] theorem State.updRouter_jrn (s : State) (n : Nat) (f : Router → Router) : (s.updRouter n f).jrn = s.jrn := rfl
@[simp] theorem State.updRouter_fw (s : State) (n : Nat) (f : Router → Router) : (s.updRouter n f).fw = s.fw := rfl
@[simp] theorem State.updRouter_boot (s : State) (n : Nat) (f : Router → Router) : (s.updRouter n f).boot = s.boot := rfl
@[simp] theorem State.updRouter_now (s : State) (n : Nat) (f : Router → Router) : (s.updRouter n f).now = s.now := rfl
@[simp] theorem State.updRouter_fresh (s : State) (n : Nat) (f : Router → Router) : (s.updRouter n f).fresh = s.fresh := rfl
@[simp] theorem State.updRouter_out (s : State) (n : Nat) (f : Router → Router) : (s.updRouter n f).out = s.out := rfl
@[simp] theorem State.updRouter_part (s : State) (n : Nat) (n' : Nat) (f : Router → Router) : (s.updRouter n f).part n' = s.part n' := rfl
@[simp] theorem State.updRouter_unit (s : State) (n : Nat) (n' : Nat) (f : Router → Router) : (s.updRouter n f).unit n' = s.unit n' := rfl
@[simp] theorem State.updRouter_engine (s : State) (n : Nat) (n' : Nat) (f : Router → Router) : (s.updRouter n f).engine n' = s.engine n' := rfl
@[simp] theorem State.updRouter_vt (s : State) (n : Nat) (n' : Nat) (f : Router → Router) : (s.updRouter n f).vt n' = s.vt n' := rfl
@[simp] theorem State.updRouter_tile (s : State) (n : Nat) (n' : Nat) (f : Router → Router) : (s.updRouter n f).tile n' = s.tile n' := rfl
@[simp] theorem State.updRouter_bar (s : State) (n : Nat) (c' b' : Nat) (f : Router → Router) : (s.updRouter n f).bar c' b' = s.bar c' b' := rfl
@[simp] theorem State.updRouter_comp (s : State) (n : Nat) (n' : Nat) (f : Router → Router) : (s.updRouter n f).comp n' = s.comp n' := rfl
@[simp] theorem State.updRouter_ctx (s : State) (n : Nat) (n' : Nat) (f : Router → Router) : (s.updRouter n f).ctx n' = s.ctx n' := rfl
@[simp] theorem State.updRouter_chan (s : State) (n : Nat) (n' : Nat) (f : Router → Router) : (s.updRouter n f).chan n' = s.chan n' := rfl
@[simp] theorem State.updRouter_farP (s : State) (n : Nat) (n' : Nat) (f : Router → Router) : (s.updRouter n f).farP n' = s.farP n' := rfl
@[simp] theorem State.updRouter_token (s : State) (n : Nat) (n' : Nat) (f : Router → Router) : (s.updRouter n f).token n' = s.token n' := rfl
@[simp] theorem State.updRouter_slot (s : State) (n : Nat) (x' i' : Nat) (f : Router → Router) : (s.updRouter n f).slot x' i' = s.slot x' i' := rfl
@[simp] theorem State.updRouter_fq (s : State) (n : Nat) (n' : Nat) (f : Router → Router) : (s.updRouter n f).fq n' = s.fq n' := rfl
@[simp] theorem State.updRouter_stage (s : State) (n : Nat) (c' g' : Nat) (f : Router → Router) : (s.updRouter n f).stage c' g' = s.stage c' g' := rfl
@[simp] theorem State.updRouter_hport (s : State) (n : Nat) (n' : Nat) (f : Router → Router) : (s.updRouter n f).hport n' = s.hport n' := rfl
@[simp] theorem State.updRouter_fn (s : State) (n : Nat) (n' : Nat) (f : Router → Router) : (s.updRouter n f).fn n' = s.fn n' := rfl
@[simp] theorem State.updRouter_kslot (s : State) (n : Nat) (n' : Nat) (f : Router → Router) : (s.updRouter n f).kslot n' = s.kslot n' := rfl
@[simp] theorem State.updRouter_fport (s : State) (n : Nat) (n' : Nat) (f : Router → Router) : (s.updRouter n f).fport n' = s.fport n' := rfl
@[simp] theorem State.updRouter_job (s : State) (n : Nat) (n' : Nat) (f : Router → Router) : (s.updRouter n f).job n' = s.job n' := rfl
@[simp] theorem State.updRouter_isl (s : State) (n : Nat) (n' : Nat) (f : Router → Router) : (s.updRouter n f).isl n' = s.isl n' := rfl
@[simp] theorem State.updRouter_rail (s : State) (n : Nat) (n' : Nat) (f : Router → Router) : (s.updRouter n f).rail n' = s.rail n' := rfl
@[simp] theorem State.updRouter_coreS (s : State) (n : Nat) (n' : Nat) (f : Router → Router) : (s.updRouter n f).coreS n' = s.coreS n' := rfl
@[simp] theorem State.updRouter_role (s : State) (n : Nat) (n' : Nat) (f : Router → Router) : (s.updRouter n f).role n' = s.role n' := rfl
@[simp] theorem State.updRouter_mslot (s : State) (n : Nat) (n' : Nat) (f : Router → Router) : (s.updRouter n f).mslot n' = s.mslot n' := rfl
@[simp] theorem State.updRouter_hmem (s : State) (n : Nat) (n' : Nat) (f : Router → Router) : (s.updRouter n f).hmem n' = s.hmem n' := rfl

/-! ## updHport -/

theorem State.hport_updHport_self {s : State} (h : s.canon = true) (n : Nat) (f : HostPort → HostPort) : (s.updHport n f).hport n = f (s.hport n) :=
  Map.get_upd_self _ _ f _ (State.host_ports_wf h)
theorem State.hport_updHport_ne (s : State) (n : Nat) (n' : Nat) (f : HostPort → HostPort) (h : n' ≠ n) :
    (s.updHport n f).hport n' = s.hport n' := Map.get_upd_ne _ _ _ f _ h
theorem State.updHport_updHport {s : State} (h : s.canon = true) (n : Nat) (f f' : HostPort → HostPort) :
    (s.updHport n f).updHport n f' = s.updHport n (fun x => f' (f x)) := by
  simp only [State.updHport, Map.upd_upd _ _ f f' _ (State.host_ports_wf h)]
theorem State.updHport_congr (s : State) (n : Nat) {f f' : HostPort → HostPort} (h : f (s.hport n) = f' (s.hport n)) :
    s.updHport n f = s.updHport n f' := by
  unfold State.updHport Map.upd
  unfold State.hport at h
  rw [h]
@[simp] theorem State.updHport_pending (s : State) (n : Nat) (f : HostPort → HostPort) : (s.updHport n f).pending = s.pending := rfl
@[simp] theorem State.updHport_parts (s : State) (n : Nat) (f : HostPort → HostPort) : (s.updHport n f).parts = s.parts := rfl
@[simp] theorem State.updHport_units (s : State) (n : Nat) (f : HostPort → HostPort) : (s.updHport n f).units = s.units := rfl
@[simp] theorem State.updHport_eng (s : State) (n : Nat) (f : HostPort → HostPort) : (s.updHport n f).eng = s.eng := rfl
@[simp] theorem State.updHport_vts (s : State) (n : Nat) (f : HostPort → HostPort) : (s.updHport n f).vts = s.vts := rfl
@[simp] theorem State.updHport_sts (s : State) (n : Nat) (f : HostPort → HostPort) : (s.updHport n f).sts = s.sts := rfl
@[simp] theorem State.updHport_bars (s : State) (n : Nat) (f : HostPort → HostPort) : (s.updHport n f).bars = s.bars := rfl
@[simp] theorem State.updHport_net (s : State) (n : Nat) (f : HostPort → HostPort) : (s.updHport n f).net = s.net := rfl
@[simp] theorem State.updHport_staged (s : State) (n : Nat) (f : HostPort → HostPort) : (s.updHport n f).staged = s.staged := rfl
@[simp] theorem State.updHport_nextHandle (s : State) (n : Nat) (f : HostPort → HostPort) : (s.updHport n f).nextHandle = s.nextHandle := rfl
@[simp] theorem State.updHport_comps (s : State) (n : Nat) (f : HostPort → HostPort) : (s.updHport n f).comps = s.comps := rfl
@[simp] theorem State.updHport_freeCids (s : State) (n : Nat) (f : HostPort → HostPort) : (s.updHport n f).freeCids = s.freeCids := rfl
@[simp] theorem State.updHport_tokens (s : State) (n : Nat) (f : HostPort → HostPort) : (s.updHport n f).tokens = s.tokens := rfl
@[simp] theorem State.updHport_nextToken (s : State) (n : Nat) (f : HostPort → HostPort) : (s.updHport n f).nextToken = s.nextToken := rfl
@[simp] theorem State.updHport_chans (s : State) (n : Nat) (f : HostPort → HostPort) : (s.updHport n f).chans = s.chans := rfl
@[simp] theorem State.updHport_grades (s : State) (n : Nat) (f : HostPort → HostPort) : (s.updHport n f).grades = s.grades := rfl
@[simp] theorem State.updHport_cool (s : State) (n : Nat) (f : HostPort → HostPort) : (s.updHport n f).cool = s.cool := rfl
@[simp] theorem State.updHport_far (s : State) (n : Nat) (f : HostPort → HostPort) : (s.updHport n f).far = s.far := rfl
@[simp] theorem State.updHport_xlt (s : State) (n : Nat) (f : HostPort → HostPort) : (s.updHport n f).xlt = s.xlt := rfl
@[simp] theorem State.updHport_ctxs (s : State) (n : Nat) (f : HostPort → HostPort) : (s.updHport n f).ctxs = s.ctxs := rfl
@[simp] theorem State.updHport_freedXids (s : State) (n : Nat) (f : HostPort → HostPort) : (s.updHport n f).freedXids = s.freedXids := rfl
@[simp] theorem State.updHport_nextXid (s : State) (n : Nat) (f : HostPort → HostPort) : (s.updHport n f).nextXid = s.nextXid := rfl
@[simp] theorem State.updHport_sch (s : State) (n : Nat) (f : HostPort → HostPort) : (s.updHport n f).sch = s.sch := rfl
@[simp] theorem State.updHport_fab (s : State) (n : Nat) (f : HostPort → HostPort) : (s.updHport n f).fab = s.fab := rfl
@[simp] theorem State.updHport_sec (s : State) (n : Nat) (f : HostPort → HostPort) : (s.updHport n f).sec = s.sec := rfl
@[simp] theorem State.updHport_pail (s : State) (n : Nat) (f : HostPort → HostPort) : (s.updHport n f).pail = s.pail := rfl
@[simp] theorem State.updHport_pwr (s : State) (n : Nat) (f : HostPort → HostPort) : (s.updHport n f).pwr = s.pwr := rfl
@[simp] theorem State.updHport_flt (s : State) (n : Nat) (f : HostPort → HostPort) : (s.updHport n f).flt = s.flt := rfl
@[simp] theorem State.updHport_jrn (s : State) (n : Nat) (f : HostPort → HostPort) : (s.updHport n f).jrn = s.jrn := rfl
@[simp] theorem State.updHport_fw (s : State) (n : Nat) (f : HostPort → HostPort) : (s.updHport n f).fw = s.fw := rfl
@[simp] theorem State.updHport_boot (s : State) (n : Nat) (f : HostPort → HostPort) : (s.updHport n f).boot = s.boot := rfl
@[simp] theorem State.updHport_now (s : State) (n : Nat) (f : HostPort → HostPort) : (s.updHport n f).now = s.now := rfl
@[simp] theorem State.updHport_fresh (s : State) (n : Nat) (f : HostPort → HostPort) : (s.updHport n f).fresh = s.fresh := rfl
@[simp] theorem State.updHport_out (s : State) (n : Nat) (f : HostPort → HostPort) : (s.updHport n f).out = s.out := rfl
@[simp] theorem State.updHport_part (s : State) (n : Nat) (n' : Nat) (f : HostPort → HostPort) : (s.updHport n f).part n' = s.part n' := rfl
@[simp] theorem State.updHport_unit (s : State) (n : Nat) (n' : Nat) (f : HostPort → HostPort) : (s.updHport n f).unit n' = s.unit n' := rfl
@[simp] theorem State.updHport_engine (s : State) (n : Nat) (n' : Nat) (f : HostPort → HostPort) : (s.updHport n f).engine n' = s.engine n' := rfl
@[simp] theorem State.updHport_vt (s : State) (n : Nat) (n' : Nat) (f : HostPort → HostPort) : (s.updHport n f).vt n' = s.vt n' := rfl
@[simp] theorem State.updHport_tile (s : State) (n : Nat) (n' : Nat) (f : HostPort → HostPort) : (s.updHport n f).tile n' = s.tile n' := rfl
@[simp] theorem State.updHport_bar (s : State) (n : Nat) (c' b' : Nat) (f : HostPort → HostPort) : (s.updHport n f).bar c' b' = s.bar c' b' := rfl
@[simp] theorem State.updHport_comp (s : State) (n : Nat) (n' : Nat) (f : HostPort → HostPort) : (s.updHport n f).comp n' = s.comp n' := rfl
@[simp] theorem State.updHport_ctx (s : State) (n : Nat) (n' : Nat) (f : HostPort → HostPort) : (s.updHport n f).ctx n' = s.ctx n' := rfl
@[simp] theorem State.updHport_chan (s : State) (n : Nat) (n' : Nat) (f : HostPort → HostPort) : (s.updHport n f).chan n' = s.chan n' := rfl
@[simp] theorem State.updHport_farP (s : State) (n : Nat) (n' : Nat) (f : HostPort → HostPort) : (s.updHport n f).farP n' = s.farP n' := rfl
@[simp] theorem State.updHport_token (s : State) (n : Nat) (n' : Nat) (f : HostPort → HostPort) : (s.updHport n f).token n' = s.token n' := rfl
@[simp] theorem State.updHport_slot (s : State) (n : Nat) (x' i' : Nat) (f : HostPort → HostPort) : (s.updHport n f).slot x' i' = s.slot x' i' := rfl
@[simp] theorem State.updHport_fq (s : State) (n : Nat) (n' : Nat) (f : HostPort → HostPort) : (s.updHport n f).fq n' = s.fq n' := rfl
@[simp] theorem State.updHport_stage (s : State) (n : Nat) (c' g' : Nat) (f : HostPort → HostPort) : (s.updHport n f).stage c' g' = s.stage c' g' := rfl
@[simp] theorem State.updHport_router (s : State) (n : Nat) (n' : Nat) (f : HostPort → HostPort) : (s.updHport n f).router n' = s.router n' := rfl
@[simp] theorem State.updHport_fn (s : State) (n : Nat) (n' : Nat) (f : HostPort → HostPort) : (s.updHport n f).fn n' = s.fn n' := rfl
@[simp] theorem State.updHport_kslot (s : State) (n : Nat) (n' : Nat) (f : HostPort → HostPort) : (s.updHport n f).kslot n' = s.kslot n' := rfl
@[simp] theorem State.updHport_fport (s : State) (n : Nat) (n' : Nat) (f : HostPort → HostPort) : (s.updHport n f).fport n' = s.fport n' := rfl
@[simp] theorem State.updHport_job (s : State) (n : Nat) (n' : Nat) (f : HostPort → HostPort) : (s.updHport n f).job n' = s.job n' := rfl
@[simp] theorem State.updHport_isl (s : State) (n : Nat) (n' : Nat) (f : HostPort → HostPort) : (s.updHport n f).isl n' = s.isl n' := rfl
@[simp] theorem State.updHport_rail (s : State) (n : Nat) (n' : Nat) (f : HostPort → HostPort) : (s.updHport n f).rail n' = s.rail n' := rfl
@[simp] theorem State.updHport_coreS (s : State) (n : Nat) (n' : Nat) (f : HostPort → HostPort) : (s.updHport n f).coreS n' = s.coreS n' := rfl
@[simp] theorem State.updHport_role (s : State) (n : Nat) (n' : Nat) (f : HostPort → HostPort) : (s.updHport n f).role n' = s.role n' := rfl
@[simp] theorem State.updHport_mslot (s : State) (n : Nat) (n' : Nat) (f : HostPort → HostPort) : (s.updHport n f).mslot n' = s.mslot n' := rfl
@[simp] theorem State.updHport_hmem (s : State) (n : Nat) (n' : Nat) (f : HostPort → HostPort) : (s.updHport n f).hmem n' = s.hmem n' := rfl

/-! ## updFn -/

theorem State.fn_updFn_self {s : State} (h : s.canon = true) (n : Nat) (f : Fn → Fn) : (s.updFn n f).fn n = f (s.fn n) :=
  Map.get_upd_self _ _ f _ (State.host_fns_wf h)
theorem State.fn_updFn_ne (s : State) (n : Nat) (n' : Nat) (f : Fn → Fn) (h : n' ≠ n) :
    (s.updFn n f).fn n' = s.fn n' := Map.get_upd_ne _ _ _ f _ h
theorem State.updFn_updFn {s : State} (h : s.canon = true) (n : Nat) (f f' : Fn → Fn) :
    (s.updFn n f).updFn n f' = s.updFn n (fun x => f' (f x)) := by
  simp only [State.updFn, Map.upd_upd _ _ f f' _ (State.host_fns_wf h)]
theorem State.updFn_congr (s : State) (n : Nat) {f f' : Fn → Fn} (h : f (s.fn n) = f' (s.fn n)) :
    s.updFn n f = s.updFn n f' := by
  unfold State.updFn Map.upd
  unfold State.fn at h
  rw [h]
@[simp] theorem State.updFn_pending (s : State) (n : Nat) (f : Fn → Fn) : (s.updFn n f).pending = s.pending := rfl
@[simp] theorem State.updFn_parts (s : State) (n : Nat) (f : Fn → Fn) : (s.updFn n f).parts = s.parts := rfl
@[simp] theorem State.updFn_units (s : State) (n : Nat) (f : Fn → Fn) : (s.updFn n f).units = s.units := rfl
@[simp] theorem State.updFn_eng (s : State) (n : Nat) (f : Fn → Fn) : (s.updFn n f).eng = s.eng := rfl
@[simp] theorem State.updFn_vts (s : State) (n : Nat) (f : Fn → Fn) : (s.updFn n f).vts = s.vts := rfl
@[simp] theorem State.updFn_sts (s : State) (n : Nat) (f : Fn → Fn) : (s.updFn n f).sts = s.sts := rfl
@[simp] theorem State.updFn_bars (s : State) (n : Nat) (f : Fn → Fn) : (s.updFn n f).bars = s.bars := rfl
@[simp] theorem State.updFn_net (s : State) (n : Nat) (f : Fn → Fn) : (s.updFn n f).net = s.net := rfl
@[simp] theorem State.updFn_staged (s : State) (n : Nat) (f : Fn → Fn) : (s.updFn n f).staged = s.staged := rfl
@[simp] theorem State.updFn_nextHandle (s : State) (n : Nat) (f : Fn → Fn) : (s.updFn n f).nextHandle = s.nextHandle := rfl
@[simp] theorem State.updFn_comps (s : State) (n : Nat) (f : Fn → Fn) : (s.updFn n f).comps = s.comps := rfl
@[simp] theorem State.updFn_freeCids (s : State) (n : Nat) (f : Fn → Fn) : (s.updFn n f).freeCids = s.freeCids := rfl
@[simp] theorem State.updFn_tokens (s : State) (n : Nat) (f : Fn → Fn) : (s.updFn n f).tokens = s.tokens := rfl
@[simp] theorem State.updFn_nextToken (s : State) (n : Nat) (f : Fn → Fn) : (s.updFn n f).nextToken = s.nextToken := rfl
@[simp] theorem State.updFn_chans (s : State) (n : Nat) (f : Fn → Fn) : (s.updFn n f).chans = s.chans := rfl
@[simp] theorem State.updFn_grades (s : State) (n : Nat) (f : Fn → Fn) : (s.updFn n f).grades = s.grades := rfl
@[simp] theorem State.updFn_cool (s : State) (n : Nat) (f : Fn → Fn) : (s.updFn n f).cool = s.cool := rfl
@[simp] theorem State.updFn_far (s : State) (n : Nat) (f : Fn → Fn) : (s.updFn n f).far = s.far := rfl
@[simp] theorem State.updFn_xlt (s : State) (n : Nat) (f : Fn → Fn) : (s.updFn n f).xlt = s.xlt := rfl
@[simp] theorem State.updFn_ctxs (s : State) (n : Nat) (f : Fn → Fn) : (s.updFn n f).ctxs = s.ctxs := rfl
@[simp] theorem State.updFn_freedXids (s : State) (n : Nat) (f : Fn → Fn) : (s.updFn n f).freedXids = s.freedXids := rfl
@[simp] theorem State.updFn_nextXid (s : State) (n : Nat) (f : Fn → Fn) : (s.updFn n f).nextXid = s.nextXid := rfl
@[simp] theorem State.updFn_sch (s : State) (n : Nat) (f : Fn → Fn) : (s.updFn n f).sch = s.sch := rfl
@[simp] theorem State.updFn_fab (s : State) (n : Nat) (f : Fn → Fn) : (s.updFn n f).fab = s.fab := rfl
@[simp] theorem State.updFn_sec (s : State) (n : Nat) (f : Fn → Fn) : (s.updFn n f).sec = s.sec := rfl
@[simp] theorem State.updFn_pail (s : State) (n : Nat) (f : Fn → Fn) : (s.updFn n f).pail = s.pail := rfl
@[simp] theorem State.updFn_pwr (s : State) (n : Nat) (f : Fn → Fn) : (s.updFn n f).pwr = s.pwr := rfl
@[simp] theorem State.updFn_flt (s : State) (n : Nat) (f : Fn → Fn) : (s.updFn n f).flt = s.flt := rfl
@[simp] theorem State.updFn_jrn (s : State) (n : Nat) (f : Fn → Fn) : (s.updFn n f).jrn = s.jrn := rfl
@[simp] theorem State.updFn_fw (s : State) (n : Nat) (f : Fn → Fn) : (s.updFn n f).fw = s.fw := rfl
@[simp] theorem State.updFn_boot (s : State) (n : Nat) (f : Fn → Fn) : (s.updFn n f).boot = s.boot := rfl
@[simp] theorem State.updFn_now (s : State) (n : Nat) (f : Fn → Fn) : (s.updFn n f).now = s.now := rfl
@[simp] theorem State.updFn_fresh (s : State) (n : Nat) (f : Fn → Fn) : (s.updFn n f).fresh = s.fresh := rfl
@[simp] theorem State.updFn_out (s : State) (n : Nat) (f : Fn → Fn) : (s.updFn n f).out = s.out := rfl
@[simp] theorem State.updFn_part (s : State) (n : Nat) (n' : Nat) (f : Fn → Fn) : (s.updFn n f).part n' = s.part n' := rfl
@[simp] theorem State.updFn_unit (s : State) (n : Nat) (n' : Nat) (f : Fn → Fn) : (s.updFn n f).unit n' = s.unit n' := rfl
@[simp] theorem State.updFn_engine (s : State) (n : Nat) (n' : Nat) (f : Fn → Fn) : (s.updFn n f).engine n' = s.engine n' := rfl
@[simp] theorem State.updFn_vt (s : State) (n : Nat) (n' : Nat) (f : Fn → Fn) : (s.updFn n f).vt n' = s.vt n' := rfl
@[simp] theorem State.updFn_tile (s : State) (n : Nat) (n' : Nat) (f : Fn → Fn) : (s.updFn n f).tile n' = s.tile n' := rfl
@[simp] theorem State.updFn_bar (s : State) (n : Nat) (c' b' : Nat) (f : Fn → Fn) : (s.updFn n f).bar c' b' = s.bar c' b' := rfl
@[simp] theorem State.updFn_comp (s : State) (n : Nat) (n' : Nat) (f : Fn → Fn) : (s.updFn n f).comp n' = s.comp n' := rfl
@[simp] theorem State.updFn_ctx (s : State) (n : Nat) (n' : Nat) (f : Fn → Fn) : (s.updFn n f).ctx n' = s.ctx n' := rfl
@[simp] theorem State.updFn_chan (s : State) (n : Nat) (n' : Nat) (f : Fn → Fn) : (s.updFn n f).chan n' = s.chan n' := rfl
@[simp] theorem State.updFn_farP (s : State) (n : Nat) (n' : Nat) (f : Fn → Fn) : (s.updFn n f).farP n' = s.farP n' := rfl
@[simp] theorem State.updFn_token (s : State) (n : Nat) (n' : Nat) (f : Fn → Fn) : (s.updFn n f).token n' = s.token n' := rfl
@[simp] theorem State.updFn_slot (s : State) (n : Nat) (x' i' : Nat) (f : Fn → Fn) : (s.updFn n f).slot x' i' = s.slot x' i' := rfl
@[simp] theorem State.updFn_fq (s : State) (n : Nat) (n' : Nat) (f : Fn → Fn) : (s.updFn n f).fq n' = s.fq n' := rfl
@[simp] theorem State.updFn_stage (s : State) (n : Nat) (c' g' : Nat) (f : Fn → Fn) : (s.updFn n f).stage c' g' = s.stage c' g' := rfl
@[simp] theorem State.updFn_router (s : State) (n : Nat) (n' : Nat) (f : Fn → Fn) : (s.updFn n f).router n' = s.router n' := rfl
@[simp] theorem State.updFn_hport (s : State) (n : Nat) (n' : Nat) (f : Fn → Fn) : (s.updFn n f).hport n' = s.hport n' := rfl
@[simp] theorem State.updFn_kslot (s : State) (n : Nat) (n' : Nat) (f : Fn → Fn) : (s.updFn n f).kslot n' = s.kslot n' := rfl
@[simp] theorem State.updFn_fport (s : State) (n : Nat) (n' : Nat) (f : Fn → Fn) : (s.updFn n f).fport n' = s.fport n' := rfl
@[simp] theorem State.updFn_job (s : State) (n : Nat) (n' : Nat) (f : Fn → Fn) : (s.updFn n f).job n' = s.job n' := rfl
@[simp] theorem State.updFn_isl (s : State) (n : Nat) (n' : Nat) (f : Fn → Fn) : (s.updFn n f).isl n' = s.isl n' := rfl
@[simp] theorem State.updFn_rail (s : State) (n : Nat) (n' : Nat) (f : Fn → Fn) : (s.updFn n f).rail n' = s.rail n' := rfl
@[simp] theorem State.updFn_coreS (s : State) (n : Nat) (n' : Nat) (f : Fn → Fn) : (s.updFn n f).coreS n' = s.coreS n' := rfl
@[simp] theorem State.updFn_role (s : State) (n : Nat) (n' : Nat) (f : Fn → Fn) : (s.updFn n f).role n' = s.role n' := rfl
@[simp] theorem State.updFn_mslot (s : State) (n : Nat) (n' : Nat) (f : Fn → Fn) : (s.updFn n f).mslot n' = s.mslot n' := rfl
@[simp] theorem State.updFn_hmem (s : State) (n : Nat) (n' : Nat) (f : Fn → Fn) : (s.updFn n f).hmem n' = s.hmem n' := rfl

/-! ## updKslot -/

theorem State.kslot_updKslot_self {s : State} (h : s.canon = true) (n : Nat) (f : KSlot → KSlot) : (s.updKslot n f).kslot n = f (s.kslot n) :=
  Map.get_upd_self _ _ f _ (State.sec_slots_wf h)
theorem State.kslot_updKslot_ne (s : State) (n : Nat) (n' : Nat) (f : KSlot → KSlot) (h : n' ≠ n) :
    (s.updKslot n f).kslot n' = s.kslot n' := Map.get_upd_ne _ _ _ f _ h
theorem State.updKslot_updKslot {s : State} (h : s.canon = true) (n : Nat) (f f' : KSlot → KSlot) :
    (s.updKslot n f).updKslot n f' = s.updKslot n (fun x => f' (f x)) := by
  simp only [State.updKslot, Map.upd_upd _ _ f f' _ (State.sec_slots_wf h)]
theorem State.updKslot_congr (s : State) (n : Nat) {f f' : KSlot → KSlot} (h : f (s.kslot n) = f' (s.kslot n)) :
    s.updKslot n f = s.updKslot n f' := by
  unfold State.updKslot Map.upd
  unfold State.kslot at h
  rw [h]
@[simp] theorem State.updKslot_pending (s : State) (n : Nat) (f : KSlot → KSlot) : (s.updKslot n f).pending = s.pending := rfl
@[simp] theorem State.updKslot_parts (s : State) (n : Nat) (f : KSlot → KSlot) : (s.updKslot n f).parts = s.parts := rfl
@[simp] theorem State.updKslot_units (s : State) (n : Nat) (f : KSlot → KSlot) : (s.updKslot n f).units = s.units := rfl
@[simp] theorem State.updKslot_eng (s : State) (n : Nat) (f : KSlot → KSlot) : (s.updKslot n f).eng = s.eng := rfl
@[simp] theorem State.updKslot_vts (s : State) (n : Nat) (f : KSlot → KSlot) : (s.updKslot n f).vts = s.vts := rfl
@[simp] theorem State.updKslot_sts (s : State) (n : Nat) (f : KSlot → KSlot) : (s.updKslot n f).sts = s.sts := rfl
@[simp] theorem State.updKslot_bars (s : State) (n : Nat) (f : KSlot → KSlot) : (s.updKslot n f).bars = s.bars := rfl
@[simp] theorem State.updKslot_net (s : State) (n : Nat) (f : KSlot → KSlot) : (s.updKslot n f).net = s.net := rfl
@[simp] theorem State.updKslot_staged (s : State) (n : Nat) (f : KSlot → KSlot) : (s.updKslot n f).staged = s.staged := rfl
@[simp] theorem State.updKslot_nextHandle (s : State) (n : Nat) (f : KSlot → KSlot) : (s.updKslot n f).nextHandle = s.nextHandle := rfl
@[simp] theorem State.updKslot_comps (s : State) (n : Nat) (f : KSlot → KSlot) : (s.updKslot n f).comps = s.comps := rfl
@[simp] theorem State.updKslot_freeCids (s : State) (n : Nat) (f : KSlot → KSlot) : (s.updKslot n f).freeCids = s.freeCids := rfl
@[simp] theorem State.updKslot_tokens (s : State) (n : Nat) (f : KSlot → KSlot) : (s.updKslot n f).tokens = s.tokens := rfl
@[simp] theorem State.updKslot_nextToken (s : State) (n : Nat) (f : KSlot → KSlot) : (s.updKslot n f).nextToken = s.nextToken := rfl
@[simp] theorem State.updKslot_chans (s : State) (n : Nat) (f : KSlot → KSlot) : (s.updKslot n f).chans = s.chans := rfl
@[simp] theorem State.updKslot_grades (s : State) (n : Nat) (f : KSlot → KSlot) : (s.updKslot n f).grades = s.grades := rfl
@[simp] theorem State.updKslot_cool (s : State) (n : Nat) (f : KSlot → KSlot) : (s.updKslot n f).cool = s.cool := rfl
@[simp] theorem State.updKslot_far (s : State) (n : Nat) (f : KSlot → KSlot) : (s.updKslot n f).far = s.far := rfl
@[simp] theorem State.updKslot_xlt (s : State) (n : Nat) (f : KSlot → KSlot) : (s.updKslot n f).xlt = s.xlt := rfl
@[simp] theorem State.updKslot_ctxs (s : State) (n : Nat) (f : KSlot → KSlot) : (s.updKslot n f).ctxs = s.ctxs := rfl
@[simp] theorem State.updKslot_freedXids (s : State) (n : Nat) (f : KSlot → KSlot) : (s.updKslot n f).freedXids = s.freedXids := rfl
@[simp] theorem State.updKslot_nextXid (s : State) (n : Nat) (f : KSlot → KSlot) : (s.updKslot n f).nextXid = s.nextXid := rfl
@[simp] theorem State.updKslot_sch (s : State) (n : Nat) (f : KSlot → KSlot) : (s.updKslot n f).sch = s.sch := rfl
@[simp] theorem State.updKslot_fab (s : State) (n : Nat) (f : KSlot → KSlot) : (s.updKslot n f).fab = s.fab := rfl
@[simp] theorem State.updKslot_host (s : State) (n : Nat) (f : KSlot → KSlot) : (s.updKslot n f).host = s.host := rfl
@[simp] theorem State.updKslot_pail (s : State) (n : Nat) (f : KSlot → KSlot) : (s.updKslot n f).pail = s.pail := rfl
@[simp] theorem State.updKslot_pwr (s : State) (n : Nat) (f : KSlot → KSlot) : (s.updKslot n f).pwr = s.pwr := rfl
@[simp] theorem State.updKslot_flt (s : State) (n : Nat) (f : KSlot → KSlot) : (s.updKslot n f).flt = s.flt := rfl
@[simp] theorem State.updKslot_jrn (s : State) (n : Nat) (f : KSlot → KSlot) : (s.updKslot n f).jrn = s.jrn := rfl
@[simp] theorem State.updKslot_fw (s : State) (n : Nat) (f : KSlot → KSlot) : (s.updKslot n f).fw = s.fw := rfl
@[simp] theorem State.updKslot_boot (s : State) (n : Nat) (f : KSlot → KSlot) : (s.updKslot n f).boot = s.boot := rfl
@[simp] theorem State.updKslot_now (s : State) (n : Nat) (f : KSlot → KSlot) : (s.updKslot n f).now = s.now := rfl
@[simp] theorem State.updKslot_fresh (s : State) (n : Nat) (f : KSlot → KSlot) : (s.updKslot n f).fresh = s.fresh := rfl
@[simp] theorem State.updKslot_out (s : State) (n : Nat) (f : KSlot → KSlot) : (s.updKslot n f).out = s.out := rfl
@[simp] theorem State.updKslot_part (s : State) (n : Nat) (n' : Nat) (f : KSlot → KSlot) : (s.updKslot n f).part n' = s.part n' := rfl
@[simp] theorem State.updKslot_unit (s : State) (n : Nat) (n' : Nat) (f : KSlot → KSlot) : (s.updKslot n f).unit n' = s.unit n' := rfl
@[simp] theorem State.updKslot_engine (s : State) (n : Nat) (n' : Nat) (f : KSlot → KSlot) : (s.updKslot n f).engine n' = s.engine n' := rfl
@[simp] theorem State.updKslot_vt (s : State) (n : Nat) (n' : Nat) (f : KSlot → KSlot) : (s.updKslot n f).vt n' = s.vt n' := rfl
@[simp] theorem State.updKslot_tile (s : State) (n : Nat) (n' : Nat) (f : KSlot → KSlot) : (s.updKslot n f).tile n' = s.tile n' := rfl
@[simp] theorem State.updKslot_bar (s : State) (n : Nat) (c' b' : Nat) (f : KSlot → KSlot) : (s.updKslot n f).bar c' b' = s.bar c' b' := rfl
@[simp] theorem State.updKslot_comp (s : State) (n : Nat) (n' : Nat) (f : KSlot → KSlot) : (s.updKslot n f).comp n' = s.comp n' := rfl
@[simp] theorem State.updKslot_ctx (s : State) (n : Nat) (n' : Nat) (f : KSlot → KSlot) : (s.updKslot n f).ctx n' = s.ctx n' := rfl
@[simp] theorem State.updKslot_chan (s : State) (n : Nat) (n' : Nat) (f : KSlot → KSlot) : (s.updKslot n f).chan n' = s.chan n' := rfl
@[simp] theorem State.updKslot_farP (s : State) (n : Nat) (n' : Nat) (f : KSlot → KSlot) : (s.updKslot n f).farP n' = s.farP n' := rfl
@[simp] theorem State.updKslot_token (s : State) (n : Nat) (n' : Nat) (f : KSlot → KSlot) : (s.updKslot n f).token n' = s.token n' := rfl
@[simp] theorem State.updKslot_slot (s : State) (n : Nat) (x' i' : Nat) (f : KSlot → KSlot) : (s.updKslot n f).slot x' i' = s.slot x' i' := rfl
@[simp] theorem State.updKslot_fq (s : State) (n : Nat) (n' : Nat) (f : KSlot → KSlot) : (s.updKslot n f).fq n' = s.fq n' := rfl
@[simp] theorem State.updKslot_stage (s : State) (n : Nat) (c' g' : Nat) (f : KSlot → KSlot) : (s.updKslot n f).stage c' g' = s.stage c' g' := rfl
@[simp] theorem State.updKslot_router (s : State) (n : Nat) (n' : Nat) (f : KSlot → KSlot) : (s.updKslot n f).router n' = s.router n' := rfl
@[simp] theorem State.updKslot_hport (s : State) (n : Nat) (n' : Nat) (f : KSlot → KSlot) : (s.updKslot n f).hport n' = s.hport n' := rfl
@[simp] theorem State.updKslot_fn (s : State) (n : Nat) (n' : Nat) (f : KSlot → KSlot) : (s.updKslot n f).fn n' = s.fn n' := rfl
@[simp] theorem State.updKslot_fport (s : State) (n : Nat) (n' : Nat) (f : KSlot → KSlot) : (s.updKslot n f).fport n' = s.fport n' := rfl
@[simp] theorem State.updKslot_job (s : State) (n : Nat) (n' : Nat) (f : KSlot → KSlot) : (s.updKslot n f).job n' = s.job n' := rfl
@[simp] theorem State.updKslot_isl (s : State) (n : Nat) (n' : Nat) (f : KSlot → KSlot) : (s.updKslot n f).isl n' = s.isl n' := rfl
@[simp] theorem State.updKslot_rail (s : State) (n : Nat) (n' : Nat) (f : KSlot → KSlot) : (s.updKslot n f).rail n' = s.rail n' := rfl
@[simp] theorem State.updKslot_coreS (s : State) (n : Nat) (n' : Nat) (f : KSlot → KSlot) : (s.updKslot n f).coreS n' = s.coreS n' := rfl
@[simp] theorem State.updKslot_role (s : State) (n : Nat) (n' : Nat) (f : KSlot → KSlot) : (s.updKslot n f).role n' = s.role n' := rfl
@[simp] theorem State.updKslot_mslot (s : State) (n : Nat) (n' : Nat) (f : KSlot → KSlot) : (s.updKslot n f).mslot n' = s.mslot n' := rfl
@[simp] theorem State.updKslot_hmem (s : State) (n : Nat) (n' : Nat) (f : KSlot → KSlot) : (s.updKslot n f).hmem n' = s.hmem n' := rfl

/-! ## updFport -/

theorem State.fport_updFport_self {s : State} (h : s.canon = true) (n : Nat) (f : FabPort → FabPort) : (s.updFport n f).fport n = f (s.fport n) :=
  Map.get_upd_self _ _ f _ (State.fab_ports_wf h)
theorem State.fport_updFport_ne (s : State) (n : Nat) (n' : Nat) (f : FabPort → FabPort) (h : n' ≠ n) :
    (s.updFport n f).fport n' = s.fport n' := Map.get_upd_ne _ _ _ f _ h
theorem State.updFport_updFport {s : State} (h : s.canon = true) (n : Nat) (f f' : FabPort → FabPort) :
    (s.updFport n f).updFport n f' = s.updFport n (fun x => f' (f x)) := by
  simp only [State.updFport, Map.upd_upd _ _ f f' _ (State.fab_ports_wf h)]
theorem State.updFport_congr (s : State) (n : Nat) {f f' : FabPort → FabPort} (h : f (s.fport n) = f' (s.fport n)) :
    s.updFport n f = s.updFport n f' := by
  unfold State.updFport Map.upd
  unfold State.fport at h
  rw [h]
@[simp] theorem State.updFport_pending (s : State) (n : Nat) (f : FabPort → FabPort) : (s.updFport n f).pending = s.pending := rfl
@[simp] theorem State.updFport_parts (s : State) (n : Nat) (f : FabPort → FabPort) : (s.updFport n f).parts = s.parts := rfl
@[simp] theorem State.updFport_units (s : State) (n : Nat) (f : FabPort → FabPort) : (s.updFport n f).units = s.units := rfl
@[simp] theorem State.updFport_eng (s : State) (n : Nat) (f : FabPort → FabPort) : (s.updFport n f).eng = s.eng := rfl
@[simp] theorem State.updFport_vts (s : State) (n : Nat) (f : FabPort → FabPort) : (s.updFport n f).vts = s.vts := rfl
@[simp] theorem State.updFport_sts (s : State) (n : Nat) (f : FabPort → FabPort) : (s.updFport n f).sts = s.sts := rfl
@[simp] theorem State.updFport_bars (s : State) (n : Nat) (f : FabPort → FabPort) : (s.updFport n f).bars = s.bars := rfl
@[simp] theorem State.updFport_net (s : State) (n : Nat) (f : FabPort → FabPort) : (s.updFport n f).net = s.net := rfl
@[simp] theorem State.updFport_staged (s : State) (n : Nat) (f : FabPort → FabPort) : (s.updFport n f).staged = s.staged := rfl
@[simp] theorem State.updFport_nextHandle (s : State) (n : Nat) (f : FabPort → FabPort) : (s.updFport n f).nextHandle = s.nextHandle := rfl
@[simp] theorem State.updFport_comps (s : State) (n : Nat) (f : FabPort → FabPort) : (s.updFport n f).comps = s.comps := rfl
@[simp] theorem State.updFport_freeCids (s : State) (n : Nat) (f : FabPort → FabPort) : (s.updFport n f).freeCids = s.freeCids := rfl
@[simp] theorem State.updFport_tokens (s : State) (n : Nat) (f : FabPort → FabPort) : (s.updFport n f).tokens = s.tokens := rfl
@[simp] theorem State.updFport_nextToken (s : State) (n : Nat) (f : FabPort → FabPort) : (s.updFport n f).nextToken = s.nextToken := rfl
@[simp] theorem State.updFport_chans (s : State) (n : Nat) (f : FabPort → FabPort) : (s.updFport n f).chans = s.chans := rfl
@[simp] theorem State.updFport_grades (s : State) (n : Nat) (f : FabPort → FabPort) : (s.updFport n f).grades = s.grades := rfl
@[simp] theorem State.updFport_cool (s : State) (n : Nat) (f : FabPort → FabPort) : (s.updFport n f).cool = s.cool := rfl
@[simp] theorem State.updFport_far (s : State) (n : Nat) (f : FabPort → FabPort) : (s.updFport n f).far = s.far := rfl
@[simp] theorem State.updFport_xlt (s : State) (n : Nat) (f : FabPort → FabPort) : (s.updFport n f).xlt = s.xlt := rfl
@[simp] theorem State.updFport_ctxs (s : State) (n : Nat) (f : FabPort → FabPort) : (s.updFport n f).ctxs = s.ctxs := rfl
@[simp] theorem State.updFport_freedXids (s : State) (n : Nat) (f : FabPort → FabPort) : (s.updFport n f).freedXids = s.freedXids := rfl
@[simp] theorem State.updFport_nextXid (s : State) (n : Nat) (f : FabPort → FabPort) : (s.updFport n f).nextXid = s.nextXid := rfl
@[simp] theorem State.updFport_sch (s : State) (n : Nat) (f : FabPort → FabPort) : (s.updFport n f).sch = s.sch := rfl
@[simp] theorem State.updFport_host (s : State) (n : Nat) (f : FabPort → FabPort) : (s.updFport n f).host = s.host := rfl
@[simp] theorem State.updFport_sec (s : State) (n : Nat) (f : FabPort → FabPort) : (s.updFport n f).sec = s.sec := rfl
@[simp] theorem State.updFport_pail (s : State) (n : Nat) (f : FabPort → FabPort) : (s.updFport n f).pail = s.pail := rfl
@[simp] theorem State.updFport_pwr (s : State) (n : Nat) (f : FabPort → FabPort) : (s.updFport n f).pwr = s.pwr := rfl
@[simp] theorem State.updFport_flt (s : State) (n : Nat) (f : FabPort → FabPort) : (s.updFport n f).flt = s.flt := rfl
@[simp] theorem State.updFport_jrn (s : State) (n : Nat) (f : FabPort → FabPort) : (s.updFport n f).jrn = s.jrn := rfl
@[simp] theorem State.updFport_fw (s : State) (n : Nat) (f : FabPort → FabPort) : (s.updFport n f).fw = s.fw := rfl
@[simp] theorem State.updFport_boot (s : State) (n : Nat) (f : FabPort → FabPort) : (s.updFport n f).boot = s.boot := rfl
@[simp] theorem State.updFport_now (s : State) (n : Nat) (f : FabPort → FabPort) : (s.updFport n f).now = s.now := rfl
@[simp] theorem State.updFport_fresh (s : State) (n : Nat) (f : FabPort → FabPort) : (s.updFport n f).fresh = s.fresh := rfl
@[simp] theorem State.updFport_out (s : State) (n : Nat) (f : FabPort → FabPort) : (s.updFport n f).out = s.out := rfl
@[simp] theorem State.updFport_part (s : State) (n : Nat) (n' : Nat) (f : FabPort → FabPort) : (s.updFport n f).part n' = s.part n' := rfl
@[simp] theorem State.updFport_unit (s : State) (n : Nat) (n' : Nat) (f : FabPort → FabPort) : (s.updFport n f).unit n' = s.unit n' := rfl
@[simp] theorem State.updFport_engine (s : State) (n : Nat) (n' : Nat) (f : FabPort → FabPort) : (s.updFport n f).engine n' = s.engine n' := rfl
@[simp] theorem State.updFport_vt (s : State) (n : Nat) (n' : Nat) (f : FabPort → FabPort) : (s.updFport n f).vt n' = s.vt n' := rfl
@[simp] theorem State.updFport_tile (s : State) (n : Nat) (n' : Nat) (f : FabPort → FabPort) : (s.updFport n f).tile n' = s.tile n' := rfl
@[simp] theorem State.updFport_bar (s : State) (n : Nat) (c' b' : Nat) (f : FabPort → FabPort) : (s.updFport n f).bar c' b' = s.bar c' b' := rfl
@[simp] theorem State.updFport_comp (s : State) (n : Nat) (n' : Nat) (f : FabPort → FabPort) : (s.updFport n f).comp n' = s.comp n' := rfl
@[simp] theorem State.updFport_ctx (s : State) (n : Nat) (n' : Nat) (f : FabPort → FabPort) : (s.updFport n f).ctx n' = s.ctx n' := rfl
@[simp] theorem State.updFport_chan (s : State) (n : Nat) (n' : Nat) (f : FabPort → FabPort) : (s.updFport n f).chan n' = s.chan n' := rfl
@[simp] theorem State.updFport_farP (s : State) (n : Nat) (n' : Nat) (f : FabPort → FabPort) : (s.updFport n f).farP n' = s.farP n' := rfl
@[simp] theorem State.updFport_token (s : State) (n : Nat) (n' : Nat) (f : FabPort → FabPort) : (s.updFport n f).token n' = s.token n' := rfl
@[simp] theorem State.updFport_slot (s : State) (n : Nat) (x' i' : Nat) (f : FabPort → FabPort) : (s.updFport n f).slot x' i' = s.slot x' i' := rfl
@[simp] theorem State.updFport_fq (s : State) (n : Nat) (n' : Nat) (f : FabPort → FabPort) : (s.updFport n f).fq n' = s.fq n' := rfl
@[simp] theorem State.updFport_stage (s : State) (n : Nat) (c' g' : Nat) (f : FabPort → FabPort) : (s.updFport n f).stage c' g' = s.stage c' g' := rfl
@[simp] theorem State.updFport_router (s : State) (n : Nat) (n' : Nat) (f : FabPort → FabPort) : (s.updFport n f).router n' = s.router n' := rfl
@[simp] theorem State.updFport_hport (s : State) (n : Nat) (n' : Nat) (f : FabPort → FabPort) : (s.updFport n f).hport n' = s.hport n' := rfl
@[simp] theorem State.updFport_fn (s : State) (n : Nat) (n' : Nat) (f : FabPort → FabPort) : (s.updFport n f).fn n' = s.fn n' := rfl
@[simp] theorem State.updFport_kslot (s : State) (n : Nat) (n' : Nat) (f : FabPort → FabPort) : (s.updFport n f).kslot n' = s.kslot n' := rfl
@[simp] theorem State.updFport_job (s : State) (n : Nat) (n' : Nat) (f : FabPort → FabPort) : (s.updFport n f).job n' = s.job n' := rfl
@[simp] theorem State.updFport_isl (s : State) (n : Nat) (n' : Nat) (f : FabPort → FabPort) : (s.updFport n f).isl n' = s.isl n' := rfl
@[simp] theorem State.updFport_rail (s : State) (n : Nat) (n' : Nat) (f : FabPort → FabPort) : (s.updFport n f).rail n' = s.rail n' := rfl
@[simp] theorem State.updFport_coreS (s : State) (n : Nat) (n' : Nat) (f : FabPort → FabPort) : (s.updFport n f).coreS n' = s.coreS n' := rfl
@[simp] theorem State.updFport_role (s : State) (n : Nat) (n' : Nat) (f : FabPort → FabPort) : (s.updFport n f).role n' = s.role n' := rfl
@[simp] theorem State.updFport_mslot (s : State) (n : Nat) (n' : Nat) (f : FabPort → FabPort) : (s.updFport n f).mslot n' = s.mslot n' := rfl
@[simp] theorem State.updFport_hmem (s : State) (n : Nat) (n' : Nat) (f : FabPort → FabPort) : (s.updFport n f).hmem n' = s.hmem n' := rfl

/-! ## updJob -/

theorem State.job_updJob_self {s : State} (h : s.canon = true) (n : Nat) (f : Job → Job) : (s.updJob n f).job n = f (s.job n) :=
  Map.get_upd_self _ _ f _ (State.fab_jobs_wf h)
theorem State.job_updJob_ne (s : State) (n : Nat) (n' : Nat) (f : Job → Job) (h : n' ≠ n) :
    (s.updJob n f).job n' = s.job n' := Map.get_upd_ne _ _ _ f _ h
theorem State.updJob_updJob {s : State} (h : s.canon = true) (n : Nat) (f f' : Job → Job) :
    (s.updJob n f).updJob n f' = s.updJob n (fun x => f' (f x)) := by
  simp only [State.updJob, Map.upd_upd _ _ f f' _ (State.fab_jobs_wf h)]
theorem State.updJob_congr (s : State) (n : Nat) {f f' : Job → Job} (h : f (s.job n) = f' (s.job n)) :
    s.updJob n f = s.updJob n f' := by
  unfold State.updJob Map.upd
  unfold State.job at h
  rw [h]
@[simp] theorem State.updJob_pending (s : State) (n : Nat) (f : Job → Job) : (s.updJob n f).pending = s.pending := rfl
@[simp] theorem State.updJob_parts (s : State) (n : Nat) (f : Job → Job) : (s.updJob n f).parts = s.parts := rfl
@[simp] theorem State.updJob_units (s : State) (n : Nat) (f : Job → Job) : (s.updJob n f).units = s.units := rfl
@[simp] theorem State.updJob_eng (s : State) (n : Nat) (f : Job → Job) : (s.updJob n f).eng = s.eng := rfl
@[simp] theorem State.updJob_vts (s : State) (n : Nat) (f : Job → Job) : (s.updJob n f).vts = s.vts := rfl
@[simp] theorem State.updJob_sts (s : State) (n : Nat) (f : Job → Job) : (s.updJob n f).sts = s.sts := rfl
@[simp] theorem State.updJob_bars (s : State) (n : Nat) (f : Job → Job) : (s.updJob n f).bars = s.bars := rfl
@[simp] theorem State.updJob_net (s : State) (n : Nat) (f : Job → Job) : (s.updJob n f).net = s.net := rfl
@[simp] theorem State.updJob_staged (s : State) (n : Nat) (f : Job → Job) : (s.updJob n f).staged = s.staged := rfl
@[simp] theorem State.updJob_nextHandle (s : State) (n : Nat) (f : Job → Job) : (s.updJob n f).nextHandle = s.nextHandle := rfl
@[simp] theorem State.updJob_comps (s : State) (n : Nat) (f : Job → Job) : (s.updJob n f).comps = s.comps := rfl
@[simp] theorem State.updJob_freeCids (s : State) (n : Nat) (f : Job → Job) : (s.updJob n f).freeCids = s.freeCids := rfl
@[simp] theorem State.updJob_tokens (s : State) (n : Nat) (f : Job → Job) : (s.updJob n f).tokens = s.tokens := rfl
@[simp] theorem State.updJob_nextToken (s : State) (n : Nat) (f : Job → Job) : (s.updJob n f).nextToken = s.nextToken := rfl
@[simp] theorem State.updJob_chans (s : State) (n : Nat) (f : Job → Job) : (s.updJob n f).chans = s.chans := rfl
@[simp] theorem State.updJob_grades (s : State) (n : Nat) (f : Job → Job) : (s.updJob n f).grades = s.grades := rfl
@[simp] theorem State.updJob_cool (s : State) (n : Nat) (f : Job → Job) : (s.updJob n f).cool = s.cool := rfl
@[simp] theorem State.updJob_far (s : State) (n : Nat) (f : Job → Job) : (s.updJob n f).far = s.far := rfl
@[simp] theorem State.updJob_xlt (s : State) (n : Nat) (f : Job → Job) : (s.updJob n f).xlt = s.xlt := rfl
@[simp] theorem State.updJob_ctxs (s : State) (n : Nat) (f : Job → Job) : (s.updJob n f).ctxs = s.ctxs := rfl
@[simp] theorem State.updJob_freedXids (s : State) (n : Nat) (f : Job → Job) : (s.updJob n f).freedXids = s.freedXids := rfl
@[simp] theorem State.updJob_nextXid (s : State) (n : Nat) (f : Job → Job) : (s.updJob n f).nextXid = s.nextXid := rfl
@[simp] theorem State.updJob_sch (s : State) (n : Nat) (f : Job → Job) : (s.updJob n f).sch = s.sch := rfl
@[simp] theorem State.updJob_host (s : State) (n : Nat) (f : Job → Job) : (s.updJob n f).host = s.host := rfl
@[simp] theorem State.updJob_sec (s : State) (n : Nat) (f : Job → Job) : (s.updJob n f).sec = s.sec := rfl
@[simp] theorem State.updJob_pail (s : State) (n : Nat) (f : Job → Job) : (s.updJob n f).pail = s.pail := rfl
@[simp] theorem State.updJob_pwr (s : State) (n : Nat) (f : Job → Job) : (s.updJob n f).pwr = s.pwr := rfl
@[simp] theorem State.updJob_flt (s : State) (n : Nat) (f : Job → Job) : (s.updJob n f).flt = s.flt := rfl
@[simp] theorem State.updJob_jrn (s : State) (n : Nat) (f : Job → Job) : (s.updJob n f).jrn = s.jrn := rfl
@[simp] theorem State.updJob_fw (s : State) (n : Nat) (f : Job → Job) : (s.updJob n f).fw = s.fw := rfl
@[simp] theorem State.updJob_boot (s : State) (n : Nat) (f : Job → Job) : (s.updJob n f).boot = s.boot := rfl
@[simp] theorem State.updJob_now (s : State) (n : Nat) (f : Job → Job) : (s.updJob n f).now = s.now := rfl
@[simp] theorem State.updJob_fresh (s : State) (n : Nat) (f : Job → Job) : (s.updJob n f).fresh = s.fresh := rfl
@[simp] theorem State.updJob_out (s : State) (n : Nat) (f : Job → Job) : (s.updJob n f).out = s.out := rfl
@[simp] theorem State.updJob_part (s : State) (n : Nat) (n' : Nat) (f : Job → Job) : (s.updJob n f).part n' = s.part n' := rfl
@[simp] theorem State.updJob_unit (s : State) (n : Nat) (n' : Nat) (f : Job → Job) : (s.updJob n f).unit n' = s.unit n' := rfl
@[simp] theorem State.updJob_engine (s : State) (n : Nat) (n' : Nat) (f : Job → Job) : (s.updJob n f).engine n' = s.engine n' := rfl
@[simp] theorem State.updJob_vt (s : State) (n : Nat) (n' : Nat) (f : Job → Job) : (s.updJob n f).vt n' = s.vt n' := rfl
@[simp] theorem State.updJob_tile (s : State) (n : Nat) (n' : Nat) (f : Job → Job) : (s.updJob n f).tile n' = s.tile n' := rfl
@[simp] theorem State.updJob_bar (s : State) (n : Nat) (c' b' : Nat) (f : Job → Job) : (s.updJob n f).bar c' b' = s.bar c' b' := rfl
@[simp] theorem State.updJob_comp (s : State) (n : Nat) (n' : Nat) (f : Job → Job) : (s.updJob n f).comp n' = s.comp n' := rfl
@[simp] theorem State.updJob_ctx (s : State) (n : Nat) (n' : Nat) (f : Job → Job) : (s.updJob n f).ctx n' = s.ctx n' := rfl
@[simp] theorem State.updJob_chan (s : State) (n : Nat) (n' : Nat) (f : Job → Job) : (s.updJob n f).chan n' = s.chan n' := rfl
@[simp] theorem State.updJob_farP (s : State) (n : Nat) (n' : Nat) (f : Job → Job) : (s.updJob n f).farP n' = s.farP n' := rfl
@[simp] theorem State.updJob_token (s : State) (n : Nat) (n' : Nat) (f : Job → Job) : (s.updJob n f).token n' = s.token n' := rfl
@[simp] theorem State.updJob_slot (s : State) (n : Nat) (x' i' : Nat) (f : Job → Job) : (s.updJob n f).slot x' i' = s.slot x' i' := rfl
@[simp] theorem State.updJob_fq (s : State) (n : Nat) (n' : Nat) (f : Job → Job) : (s.updJob n f).fq n' = s.fq n' := rfl
@[simp] theorem State.updJob_stage (s : State) (n : Nat) (c' g' : Nat) (f : Job → Job) : (s.updJob n f).stage c' g' = s.stage c' g' := rfl
@[simp] theorem State.updJob_router (s : State) (n : Nat) (n' : Nat) (f : Job → Job) : (s.updJob n f).router n' = s.router n' := rfl
@[simp] theorem State.updJob_hport (s : State) (n : Nat) (n' : Nat) (f : Job → Job) : (s.updJob n f).hport n' = s.hport n' := rfl
@[simp] theorem State.updJob_fn (s : State) (n : Nat) (n' : Nat) (f : Job → Job) : (s.updJob n f).fn n' = s.fn n' := rfl
@[simp] theorem State.updJob_kslot (s : State) (n : Nat) (n' : Nat) (f : Job → Job) : (s.updJob n f).kslot n' = s.kslot n' := rfl
@[simp] theorem State.updJob_fport (s : State) (n : Nat) (n' : Nat) (f : Job → Job) : (s.updJob n f).fport n' = s.fport n' := rfl
@[simp] theorem State.updJob_isl (s : State) (n : Nat) (n' : Nat) (f : Job → Job) : (s.updJob n f).isl n' = s.isl n' := rfl
@[simp] theorem State.updJob_rail (s : State) (n : Nat) (n' : Nat) (f : Job → Job) : (s.updJob n f).rail n' = s.rail n' := rfl
@[simp] theorem State.updJob_coreS (s : State) (n : Nat) (n' : Nat) (f : Job → Job) : (s.updJob n f).coreS n' = s.coreS n' := rfl
@[simp] theorem State.updJob_role (s : State) (n : Nat) (n' : Nat) (f : Job → Job) : (s.updJob n f).role n' = s.role n' := rfl
@[simp] theorem State.updJob_mslot (s : State) (n : Nat) (n' : Nat) (f : Job → Job) : (s.updJob n f).mslot n' = s.mslot n' := rfl
@[simp] theorem State.updJob_hmem (s : State) (n : Nat) (n' : Nat) (f : Job → Job) : (s.updJob n f).hmem n' = s.hmem n' := rfl

/-! ## updIsl -/

theorem State.isl_updIsl_self {s : State} (h : s.canon = true) (n : Nat) (f : Isl → Isl) : (s.updIsl n f).isl n = f (s.isl n) :=
  Map.get_upd_self _ _ f _ (State.pwr_isls_wf h)
theorem State.isl_updIsl_ne (s : State) (n : Nat) (n' : Nat) (f : Isl → Isl) (h : n' ≠ n) :
    (s.updIsl n f).isl n' = s.isl n' := Map.get_upd_ne _ _ _ f _ h
theorem State.updIsl_updIsl {s : State} (h : s.canon = true) (n : Nat) (f f' : Isl → Isl) :
    (s.updIsl n f).updIsl n f' = s.updIsl n (fun x => f' (f x)) := by
  simp only [State.updIsl, Map.upd_upd _ _ f f' _ (State.pwr_isls_wf h)]
theorem State.updIsl_congr (s : State) (n : Nat) {f f' : Isl → Isl} (h : f (s.isl n) = f' (s.isl n)) :
    s.updIsl n f = s.updIsl n f' := by
  unfold State.updIsl Map.upd
  unfold State.isl at h
  rw [h]
@[simp] theorem State.updIsl_pending (s : State) (n : Nat) (f : Isl → Isl) : (s.updIsl n f).pending = s.pending := rfl
@[simp] theorem State.updIsl_parts (s : State) (n : Nat) (f : Isl → Isl) : (s.updIsl n f).parts = s.parts := rfl
@[simp] theorem State.updIsl_units (s : State) (n : Nat) (f : Isl → Isl) : (s.updIsl n f).units = s.units := rfl
@[simp] theorem State.updIsl_eng (s : State) (n : Nat) (f : Isl → Isl) : (s.updIsl n f).eng = s.eng := rfl
@[simp] theorem State.updIsl_vts (s : State) (n : Nat) (f : Isl → Isl) : (s.updIsl n f).vts = s.vts := rfl
@[simp] theorem State.updIsl_sts (s : State) (n : Nat) (f : Isl → Isl) : (s.updIsl n f).sts = s.sts := rfl
@[simp] theorem State.updIsl_bars (s : State) (n : Nat) (f : Isl → Isl) : (s.updIsl n f).bars = s.bars := rfl
@[simp] theorem State.updIsl_net (s : State) (n : Nat) (f : Isl → Isl) : (s.updIsl n f).net = s.net := rfl
@[simp] theorem State.updIsl_staged (s : State) (n : Nat) (f : Isl → Isl) : (s.updIsl n f).staged = s.staged := rfl
@[simp] theorem State.updIsl_nextHandle (s : State) (n : Nat) (f : Isl → Isl) : (s.updIsl n f).nextHandle = s.nextHandle := rfl
@[simp] theorem State.updIsl_comps (s : State) (n : Nat) (f : Isl → Isl) : (s.updIsl n f).comps = s.comps := rfl
@[simp] theorem State.updIsl_freeCids (s : State) (n : Nat) (f : Isl → Isl) : (s.updIsl n f).freeCids = s.freeCids := rfl
@[simp] theorem State.updIsl_tokens (s : State) (n : Nat) (f : Isl → Isl) : (s.updIsl n f).tokens = s.tokens := rfl
@[simp] theorem State.updIsl_nextToken (s : State) (n : Nat) (f : Isl → Isl) : (s.updIsl n f).nextToken = s.nextToken := rfl
@[simp] theorem State.updIsl_chans (s : State) (n : Nat) (f : Isl → Isl) : (s.updIsl n f).chans = s.chans := rfl
@[simp] theorem State.updIsl_grades (s : State) (n : Nat) (f : Isl → Isl) : (s.updIsl n f).grades = s.grades := rfl
@[simp] theorem State.updIsl_cool (s : State) (n : Nat) (f : Isl → Isl) : (s.updIsl n f).cool = s.cool := rfl
@[simp] theorem State.updIsl_far (s : State) (n : Nat) (f : Isl → Isl) : (s.updIsl n f).far = s.far := rfl
@[simp] theorem State.updIsl_xlt (s : State) (n : Nat) (f : Isl → Isl) : (s.updIsl n f).xlt = s.xlt := rfl
@[simp] theorem State.updIsl_ctxs (s : State) (n : Nat) (f : Isl → Isl) : (s.updIsl n f).ctxs = s.ctxs := rfl
@[simp] theorem State.updIsl_freedXids (s : State) (n : Nat) (f : Isl → Isl) : (s.updIsl n f).freedXids = s.freedXids := rfl
@[simp] theorem State.updIsl_nextXid (s : State) (n : Nat) (f : Isl → Isl) : (s.updIsl n f).nextXid = s.nextXid := rfl
@[simp] theorem State.updIsl_sch (s : State) (n : Nat) (f : Isl → Isl) : (s.updIsl n f).sch = s.sch := rfl
@[simp] theorem State.updIsl_fab (s : State) (n : Nat) (f : Isl → Isl) : (s.updIsl n f).fab = s.fab := rfl
@[simp] theorem State.updIsl_host (s : State) (n : Nat) (f : Isl → Isl) : (s.updIsl n f).host = s.host := rfl
@[simp] theorem State.updIsl_sec (s : State) (n : Nat) (f : Isl → Isl) : (s.updIsl n f).sec = s.sec := rfl
@[simp] theorem State.updIsl_pail (s : State) (n : Nat) (f : Isl → Isl) : (s.updIsl n f).pail = s.pail := rfl
@[simp] theorem State.updIsl_flt (s : State) (n : Nat) (f : Isl → Isl) : (s.updIsl n f).flt = s.flt := rfl
@[simp] theorem State.updIsl_jrn (s : State) (n : Nat) (f : Isl → Isl) : (s.updIsl n f).jrn = s.jrn := rfl
@[simp] theorem State.updIsl_fw (s : State) (n : Nat) (f : Isl → Isl) : (s.updIsl n f).fw = s.fw := rfl
@[simp] theorem State.updIsl_boot (s : State) (n : Nat) (f : Isl → Isl) : (s.updIsl n f).boot = s.boot := rfl
@[simp] theorem State.updIsl_now (s : State) (n : Nat) (f : Isl → Isl) : (s.updIsl n f).now = s.now := rfl
@[simp] theorem State.updIsl_fresh (s : State) (n : Nat) (f : Isl → Isl) : (s.updIsl n f).fresh = s.fresh := rfl
@[simp] theorem State.updIsl_out (s : State) (n : Nat) (f : Isl → Isl) : (s.updIsl n f).out = s.out := rfl
@[simp] theorem State.updIsl_part (s : State) (n : Nat) (n' : Nat) (f : Isl → Isl) : (s.updIsl n f).part n' = s.part n' := rfl
@[simp] theorem State.updIsl_unit (s : State) (n : Nat) (n' : Nat) (f : Isl → Isl) : (s.updIsl n f).unit n' = s.unit n' := rfl
@[simp] theorem State.updIsl_engine (s : State) (n : Nat) (n' : Nat) (f : Isl → Isl) : (s.updIsl n f).engine n' = s.engine n' := rfl
@[simp] theorem State.updIsl_vt (s : State) (n : Nat) (n' : Nat) (f : Isl → Isl) : (s.updIsl n f).vt n' = s.vt n' := rfl
@[simp] theorem State.updIsl_tile (s : State) (n : Nat) (n' : Nat) (f : Isl → Isl) : (s.updIsl n f).tile n' = s.tile n' := rfl
@[simp] theorem State.updIsl_bar (s : State) (n : Nat) (c' b' : Nat) (f : Isl → Isl) : (s.updIsl n f).bar c' b' = s.bar c' b' := rfl
@[simp] theorem State.updIsl_comp (s : State) (n : Nat) (n' : Nat) (f : Isl → Isl) : (s.updIsl n f).comp n' = s.comp n' := rfl
@[simp] theorem State.updIsl_ctx (s : State) (n : Nat) (n' : Nat) (f : Isl → Isl) : (s.updIsl n f).ctx n' = s.ctx n' := rfl
@[simp] theorem State.updIsl_chan (s : State) (n : Nat) (n' : Nat) (f : Isl → Isl) : (s.updIsl n f).chan n' = s.chan n' := rfl
@[simp] theorem State.updIsl_farP (s : State) (n : Nat) (n' : Nat) (f : Isl → Isl) : (s.updIsl n f).farP n' = s.farP n' := rfl
@[simp] theorem State.updIsl_token (s : State) (n : Nat) (n' : Nat) (f : Isl → Isl) : (s.updIsl n f).token n' = s.token n' := rfl
@[simp] theorem State.updIsl_slot (s : State) (n : Nat) (x' i' : Nat) (f : Isl → Isl) : (s.updIsl n f).slot x' i' = s.slot x' i' := rfl
@[simp] theorem State.updIsl_fq (s : State) (n : Nat) (n' : Nat) (f : Isl → Isl) : (s.updIsl n f).fq n' = s.fq n' := rfl
@[simp] theorem State.updIsl_stage (s : State) (n : Nat) (c' g' : Nat) (f : Isl → Isl) : (s.updIsl n f).stage c' g' = s.stage c' g' := rfl
@[simp] theorem State.updIsl_router (s : State) (n : Nat) (n' : Nat) (f : Isl → Isl) : (s.updIsl n f).router n' = s.router n' := rfl
@[simp] theorem State.updIsl_hport (s : State) (n : Nat) (n' : Nat) (f : Isl → Isl) : (s.updIsl n f).hport n' = s.hport n' := rfl
@[simp] theorem State.updIsl_fn (s : State) (n : Nat) (n' : Nat) (f : Isl → Isl) : (s.updIsl n f).fn n' = s.fn n' := rfl
@[simp] theorem State.updIsl_kslot (s : State) (n : Nat) (n' : Nat) (f : Isl → Isl) : (s.updIsl n f).kslot n' = s.kslot n' := rfl
@[simp] theorem State.updIsl_fport (s : State) (n : Nat) (n' : Nat) (f : Isl → Isl) : (s.updIsl n f).fport n' = s.fport n' := rfl
@[simp] theorem State.updIsl_job (s : State) (n : Nat) (n' : Nat) (f : Isl → Isl) : (s.updIsl n f).job n' = s.job n' := rfl
@[simp] theorem State.updIsl_rail (s : State) (n : Nat) (n' : Nat) (f : Isl → Isl) : (s.updIsl n f).rail n' = s.rail n' := rfl
@[simp] theorem State.updIsl_coreS (s : State) (n : Nat) (n' : Nat) (f : Isl → Isl) : (s.updIsl n f).coreS n' = s.coreS n' := rfl
@[simp] theorem State.updIsl_role (s : State) (n : Nat) (n' : Nat) (f : Isl → Isl) : (s.updIsl n f).role n' = s.role n' := rfl
@[simp] theorem State.updIsl_mslot (s : State) (n : Nat) (n' : Nat) (f : Isl → Isl) : (s.updIsl n f).mslot n' = s.mslot n' := rfl
@[simp] theorem State.updIsl_hmem (s : State) (n : Nat) (n' : Nat) (f : Isl → Isl) : (s.updIsl n f).hmem n' = s.hmem n' := rfl

/-! ## updRail -/

theorem State.rail_updRail_self {s : State} (h : s.canon = true) (n : Nat) (f : Rail → Rail) : (s.updRail n f).rail n = f (s.rail n) :=
  Map.get_upd_self _ _ f _ (State.pwr_rails_wf h)
theorem State.rail_updRail_ne (s : State) (n : Nat) (n' : Nat) (f : Rail → Rail) (h : n' ≠ n) :
    (s.updRail n f).rail n' = s.rail n' := Map.get_upd_ne _ _ _ f _ h
theorem State.updRail_updRail {s : State} (h : s.canon = true) (n : Nat) (f f' : Rail → Rail) :
    (s.updRail n f).updRail n f' = s.updRail n (fun x => f' (f x)) := by
  simp only [State.updRail, Map.upd_upd _ _ f f' _ (State.pwr_rails_wf h)]
theorem State.updRail_congr (s : State) (n : Nat) {f f' : Rail → Rail} (h : f (s.rail n) = f' (s.rail n)) :
    s.updRail n f = s.updRail n f' := by
  unfold State.updRail Map.upd
  unfold State.rail at h
  rw [h]
@[simp] theorem State.updRail_pending (s : State) (n : Nat) (f : Rail → Rail) : (s.updRail n f).pending = s.pending := rfl
@[simp] theorem State.updRail_parts (s : State) (n : Nat) (f : Rail → Rail) : (s.updRail n f).parts = s.parts := rfl
@[simp] theorem State.updRail_units (s : State) (n : Nat) (f : Rail → Rail) : (s.updRail n f).units = s.units := rfl
@[simp] theorem State.updRail_eng (s : State) (n : Nat) (f : Rail → Rail) : (s.updRail n f).eng = s.eng := rfl
@[simp] theorem State.updRail_vts (s : State) (n : Nat) (f : Rail → Rail) : (s.updRail n f).vts = s.vts := rfl
@[simp] theorem State.updRail_sts (s : State) (n : Nat) (f : Rail → Rail) : (s.updRail n f).sts = s.sts := rfl
@[simp] theorem State.updRail_bars (s : State) (n : Nat) (f : Rail → Rail) : (s.updRail n f).bars = s.bars := rfl
@[simp] theorem State.updRail_net (s : State) (n : Nat) (f : Rail → Rail) : (s.updRail n f).net = s.net := rfl
@[simp] theorem State.updRail_staged (s : State) (n : Nat) (f : Rail → Rail) : (s.updRail n f).staged = s.staged := rfl
@[simp] theorem State.updRail_nextHandle (s : State) (n : Nat) (f : Rail → Rail) : (s.updRail n f).nextHandle = s.nextHandle := rfl
@[simp] theorem State.updRail_comps (s : State) (n : Nat) (f : Rail → Rail) : (s.updRail n f).comps = s.comps := rfl
@[simp] theorem State.updRail_freeCids (s : State) (n : Nat) (f : Rail → Rail) : (s.updRail n f).freeCids = s.freeCids := rfl
@[simp] theorem State.updRail_tokens (s : State) (n : Nat) (f : Rail → Rail) : (s.updRail n f).tokens = s.tokens := rfl
@[simp] theorem State.updRail_nextToken (s : State) (n : Nat) (f : Rail → Rail) : (s.updRail n f).nextToken = s.nextToken := rfl
@[simp] theorem State.updRail_chans (s : State) (n : Nat) (f : Rail → Rail) : (s.updRail n f).chans = s.chans := rfl
@[simp] theorem State.updRail_grades (s : State) (n : Nat) (f : Rail → Rail) : (s.updRail n f).grades = s.grades := rfl
@[simp] theorem State.updRail_cool (s : State) (n : Nat) (f : Rail → Rail) : (s.updRail n f).cool = s.cool := rfl
@[simp] theorem State.updRail_far (s : State) (n : Nat) (f : Rail → Rail) : (s.updRail n f).far = s.far := rfl
@[simp] theorem State.updRail_xlt (s : State) (n : Nat) (f : Rail → Rail) : (s.updRail n f).xlt = s.xlt := rfl
@[simp] theorem State.updRail_ctxs (s : State) (n : Nat) (f : Rail → Rail) : (s.updRail n f).ctxs = s.ctxs := rfl
@[simp] theorem State.updRail_freedXids (s : State) (n : Nat) (f : Rail → Rail) : (s.updRail n f).freedXids = s.freedXids := rfl
@[simp] theorem State.updRail_nextXid (s : State) (n : Nat) (f : Rail → Rail) : (s.updRail n f).nextXid = s.nextXid := rfl
@[simp] theorem State.updRail_sch (s : State) (n : Nat) (f : Rail → Rail) : (s.updRail n f).sch = s.sch := rfl
@[simp] theorem State.updRail_fab (s : State) (n : Nat) (f : Rail → Rail) : (s.updRail n f).fab = s.fab := rfl
@[simp] theorem State.updRail_host (s : State) (n : Nat) (f : Rail → Rail) : (s.updRail n f).host = s.host := rfl
@[simp] theorem State.updRail_sec (s : State) (n : Nat) (f : Rail → Rail) : (s.updRail n f).sec = s.sec := rfl
@[simp] theorem State.updRail_pail (s : State) (n : Nat) (f : Rail → Rail) : (s.updRail n f).pail = s.pail := rfl
@[simp] theorem State.updRail_flt (s : State) (n : Nat) (f : Rail → Rail) : (s.updRail n f).flt = s.flt := rfl
@[simp] theorem State.updRail_jrn (s : State) (n : Nat) (f : Rail → Rail) : (s.updRail n f).jrn = s.jrn := rfl
@[simp] theorem State.updRail_fw (s : State) (n : Nat) (f : Rail → Rail) : (s.updRail n f).fw = s.fw := rfl
@[simp] theorem State.updRail_boot (s : State) (n : Nat) (f : Rail → Rail) : (s.updRail n f).boot = s.boot := rfl
@[simp] theorem State.updRail_now (s : State) (n : Nat) (f : Rail → Rail) : (s.updRail n f).now = s.now := rfl
@[simp] theorem State.updRail_fresh (s : State) (n : Nat) (f : Rail → Rail) : (s.updRail n f).fresh = s.fresh := rfl
@[simp] theorem State.updRail_out (s : State) (n : Nat) (f : Rail → Rail) : (s.updRail n f).out = s.out := rfl
@[simp] theorem State.updRail_part (s : State) (n : Nat) (n' : Nat) (f : Rail → Rail) : (s.updRail n f).part n' = s.part n' := rfl
@[simp] theorem State.updRail_unit (s : State) (n : Nat) (n' : Nat) (f : Rail → Rail) : (s.updRail n f).unit n' = s.unit n' := rfl
@[simp] theorem State.updRail_engine (s : State) (n : Nat) (n' : Nat) (f : Rail → Rail) : (s.updRail n f).engine n' = s.engine n' := rfl
@[simp] theorem State.updRail_vt (s : State) (n : Nat) (n' : Nat) (f : Rail → Rail) : (s.updRail n f).vt n' = s.vt n' := rfl
@[simp] theorem State.updRail_tile (s : State) (n : Nat) (n' : Nat) (f : Rail → Rail) : (s.updRail n f).tile n' = s.tile n' := rfl
@[simp] theorem State.updRail_bar (s : State) (n : Nat) (c' b' : Nat) (f : Rail → Rail) : (s.updRail n f).bar c' b' = s.bar c' b' := rfl
@[simp] theorem State.updRail_comp (s : State) (n : Nat) (n' : Nat) (f : Rail → Rail) : (s.updRail n f).comp n' = s.comp n' := rfl
@[simp] theorem State.updRail_ctx (s : State) (n : Nat) (n' : Nat) (f : Rail → Rail) : (s.updRail n f).ctx n' = s.ctx n' := rfl
@[simp] theorem State.updRail_chan (s : State) (n : Nat) (n' : Nat) (f : Rail → Rail) : (s.updRail n f).chan n' = s.chan n' := rfl
@[simp] theorem State.updRail_farP (s : State) (n : Nat) (n' : Nat) (f : Rail → Rail) : (s.updRail n f).farP n' = s.farP n' := rfl
@[simp] theorem State.updRail_token (s : State) (n : Nat) (n' : Nat) (f : Rail → Rail) : (s.updRail n f).token n' = s.token n' := rfl
@[simp] theorem State.updRail_slot (s : State) (n : Nat) (x' i' : Nat) (f : Rail → Rail) : (s.updRail n f).slot x' i' = s.slot x' i' := rfl
@[simp] theorem State.updRail_fq (s : State) (n : Nat) (n' : Nat) (f : Rail → Rail) : (s.updRail n f).fq n' = s.fq n' := rfl
@[simp] theorem State.updRail_stage (s : State) (n : Nat) (c' g' : Nat) (f : Rail → Rail) : (s.updRail n f).stage c' g' = s.stage c' g' := rfl
@[simp] theorem State.updRail_router (s : State) (n : Nat) (n' : Nat) (f : Rail → Rail) : (s.updRail n f).router n' = s.router n' := rfl
@[simp] theorem State.updRail_hport (s : State) (n : Nat) (n' : Nat) (f : Rail → Rail) : (s.updRail n f).hport n' = s.hport n' := rfl
@[simp] theorem State.updRail_fn (s : State) (n : Nat) (n' : Nat) (f : Rail → Rail) : (s.updRail n f).fn n' = s.fn n' := rfl
@[simp] theorem State.updRail_kslot (s : State) (n : Nat) (n' : Nat) (f : Rail → Rail) : (s.updRail n f).kslot n' = s.kslot n' := rfl
@[simp] theorem State.updRail_fport (s : State) (n : Nat) (n' : Nat) (f : Rail → Rail) : (s.updRail n f).fport n' = s.fport n' := rfl
@[simp] theorem State.updRail_job (s : State) (n : Nat) (n' : Nat) (f : Rail → Rail) : (s.updRail n f).job n' = s.job n' := rfl
@[simp] theorem State.updRail_isl (s : State) (n : Nat) (n' : Nat) (f : Rail → Rail) : (s.updRail n f).isl n' = s.isl n' := rfl
@[simp] theorem State.updRail_coreS (s : State) (n : Nat) (n' : Nat) (f : Rail → Rail) : (s.updRail n f).coreS n' = s.coreS n' := rfl
@[simp] theorem State.updRail_role (s : State) (n : Nat) (n' : Nat) (f : Rail → Rail) : (s.updRail n f).role n' = s.role n' := rfl
@[simp] theorem State.updRail_mslot (s : State) (n : Nat) (n' : Nat) (f : Rail → Rail) : (s.updRail n f).mslot n' = s.mslot n' := rfl
@[simp] theorem State.updRail_hmem (s : State) (n : Nat) (n' : Nat) (f : Rail → Rail) : (s.updRail n f).hmem n' = s.hmem n' := rfl

/-! ## updCore -/

theorem State.coreS_updCore_self {s : State} (h : s.canon = true) (n : Nat) (f : CoreS → CoreS) : (s.updCore n f).coreS n = f (s.coreS n) :=
  Map.get_upd_self _ _ f _ (State.fw_cores_wf h)
theorem State.coreS_updCore_ne (s : State) (n : Nat) (n' : Nat) (f : CoreS → CoreS) (h : n' ≠ n) :
    (s.updCore n f).coreS n' = s.coreS n' := Map.get_upd_ne _ _ _ f _ h
theorem State.updCore_updCore {s : State} (h : s.canon = true) (n : Nat) (f f' : CoreS → CoreS) :
    (s.updCore n f).updCore n f' = s.updCore n (fun x => f' (f x)) := by
  simp only [State.updCore, Map.upd_upd _ _ f f' _ (State.fw_cores_wf h)]
theorem State.updCore_congr (s : State) (n : Nat) {f f' : CoreS → CoreS} (h : f (s.coreS n) = f' (s.coreS n)) :
    s.updCore n f = s.updCore n f' := by
  unfold State.updCore Map.upd
  unfold State.coreS at h
  rw [h]
@[simp] theorem State.updCore_pending (s : State) (n : Nat) (f : CoreS → CoreS) : (s.updCore n f).pending = s.pending := rfl
@[simp] theorem State.updCore_parts (s : State) (n : Nat) (f : CoreS → CoreS) : (s.updCore n f).parts = s.parts := rfl
@[simp] theorem State.updCore_units (s : State) (n : Nat) (f : CoreS → CoreS) : (s.updCore n f).units = s.units := rfl
@[simp] theorem State.updCore_eng (s : State) (n : Nat) (f : CoreS → CoreS) : (s.updCore n f).eng = s.eng := rfl
@[simp] theorem State.updCore_vts (s : State) (n : Nat) (f : CoreS → CoreS) : (s.updCore n f).vts = s.vts := rfl
@[simp] theorem State.updCore_sts (s : State) (n : Nat) (f : CoreS → CoreS) : (s.updCore n f).sts = s.sts := rfl
@[simp] theorem State.updCore_bars (s : State) (n : Nat) (f : CoreS → CoreS) : (s.updCore n f).bars = s.bars := rfl
@[simp] theorem State.updCore_net (s : State) (n : Nat) (f : CoreS → CoreS) : (s.updCore n f).net = s.net := rfl
@[simp] theorem State.updCore_staged (s : State) (n : Nat) (f : CoreS → CoreS) : (s.updCore n f).staged = s.staged := rfl
@[simp] theorem State.updCore_nextHandle (s : State) (n : Nat) (f : CoreS → CoreS) : (s.updCore n f).nextHandle = s.nextHandle := rfl
@[simp] theorem State.updCore_comps (s : State) (n : Nat) (f : CoreS → CoreS) : (s.updCore n f).comps = s.comps := rfl
@[simp] theorem State.updCore_freeCids (s : State) (n : Nat) (f : CoreS → CoreS) : (s.updCore n f).freeCids = s.freeCids := rfl
@[simp] theorem State.updCore_tokens (s : State) (n : Nat) (f : CoreS → CoreS) : (s.updCore n f).tokens = s.tokens := rfl
@[simp] theorem State.updCore_nextToken (s : State) (n : Nat) (f : CoreS → CoreS) : (s.updCore n f).nextToken = s.nextToken := rfl
@[simp] theorem State.updCore_chans (s : State) (n : Nat) (f : CoreS → CoreS) : (s.updCore n f).chans = s.chans := rfl
@[simp] theorem State.updCore_grades (s : State) (n : Nat) (f : CoreS → CoreS) : (s.updCore n f).grades = s.grades := rfl
@[simp] theorem State.updCore_cool (s : State) (n : Nat) (f : CoreS → CoreS) : (s.updCore n f).cool = s.cool := rfl
@[simp] theorem State.updCore_far (s : State) (n : Nat) (f : CoreS → CoreS) : (s.updCore n f).far = s.far := rfl
@[simp] theorem State.updCore_xlt (s : State) (n : Nat) (f : CoreS → CoreS) : (s.updCore n f).xlt = s.xlt := rfl
@[simp] theorem State.updCore_ctxs (s : State) (n : Nat) (f : CoreS → CoreS) : (s.updCore n f).ctxs = s.ctxs := rfl
@[simp] theorem State.updCore_freedXids (s : State) (n : Nat) (f : CoreS → CoreS) : (s.updCore n f).freedXids = s.freedXids := rfl
@[simp] theorem State.updCore_nextXid (s : State) (n : Nat) (f : CoreS → CoreS) : (s.updCore n f).nextXid = s.nextXid := rfl
@[simp] theorem State.updCore_sch (s : State) (n : Nat) (f : CoreS → CoreS) : (s.updCore n f).sch = s.sch := rfl
@[simp] theorem State.updCore_fab (s : State) (n : Nat) (f : CoreS → CoreS) : (s.updCore n f).fab = s.fab := rfl
@[simp] theorem State.updCore_host (s : State) (n : Nat) (f : CoreS → CoreS) : (s.updCore n f).host = s.host := rfl
@[simp] theorem State.updCore_sec (s : State) (n : Nat) (f : CoreS → CoreS) : (s.updCore n f).sec = s.sec := rfl
@[simp] theorem State.updCore_pail (s : State) (n : Nat) (f : CoreS → CoreS) : (s.updCore n f).pail = s.pail := rfl
@[simp] theorem State.updCore_pwr (s : State) (n : Nat) (f : CoreS → CoreS) : (s.updCore n f).pwr = s.pwr := rfl
@[simp] theorem State.updCore_flt (s : State) (n : Nat) (f : CoreS → CoreS) : (s.updCore n f).flt = s.flt := rfl
@[simp] theorem State.updCore_jrn (s : State) (n : Nat) (f : CoreS → CoreS) : (s.updCore n f).jrn = s.jrn := rfl
@[simp] theorem State.updCore_boot (s : State) (n : Nat) (f : CoreS → CoreS) : (s.updCore n f).boot = s.boot := rfl
@[simp] theorem State.updCore_now (s : State) (n : Nat) (f : CoreS → CoreS) : (s.updCore n f).now = s.now := rfl
@[simp] theorem State.updCore_fresh (s : State) (n : Nat) (f : CoreS → CoreS) : (s.updCore n f).fresh = s.fresh := rfl
@[simp] theorem State.updCore_out (s : State) (n : Nat) (f : CoreS → CoreS) : (s.updCore n f).out = s.out := rfl
@[simp] theorem State.updCore_part (s : State) (n : Nat) (n' : Nat) (f : CoreS → CoreS) : (s.updCore n f).part n' = s.part n' := rfl
@[simp] theorem State.updCore_unit (s : State) (n : Nat) (n' : Nat) (f : CoreS → CoreS) : (s.updCore n f).unit n' = s.unit n' := rfl
@[simp] theorem State.updCore_engine (s : State) (n : Nat) (n' : Nat) (f : CoreS → CoreS) : (s.updCore n f).engine n' = s.engine n' := rfl
@[simp] theorem State.updCore_vt (s : State) (n : Nat) (n' : Nat) (f : CoreS → CoreS) : (s.updCore n f).vt n' = s.vt n' := rfl
@[simp] theorem State.updCore_tile (s : State) (n : Nat) (n' : Nat) (f : CoreS → CoreS) : (s.updCore n f).tile n' = s.tile n' := rfl
@[simp] theorem State.updCore_bar (s : State) (n : Nat) (c' b' : Nat) (f : CoreS → CoreS) : (s.updCore n f).bar c' b' = s.bar c' b' := rfl
@[simp] theorem State.updCore_comp (s : State) (n : Nat) (n' : Nat) (f : CoreS → CoreS) : (s.updCore n f).comp n' = s.comp n' := rfl
@[simp] theorem State.updCore_ctx (s : State) (n : Nat) (n' : Nat) (f : CoreS → CoreS) : (s.updCore n f).ctx n' = s.ctx n' := rfl
@[simp] theorem State.updCore_chan (s : State) (n : Nat) (n' : Nat) (f : CoreS → CoreS) : (s.updCore n f).chan n' = s.chan n' := rfl
@[simp] theorem State.updCore_farP (s : State) (n : Nat) (n' : Nat) (f : CoreS → CoreS) : (s.updCore n f).farP n' = s.farP n' := rfl
@[simp] theorem State.updCore_token (s : State) (n : Nat) (n' : Nat) (f : CoreS → CoreS) : (s.updCore n f).token n' = s.token n' := rfl
@[simp] theorem State.updCore_slot (s : State) (n : Nat) (x' i' : Nat) (f : CoreS → CoreS) : (s.updCore n f).slot x' i' = s.slot x' i' := rfl
@[simp] theorem State.updCore_fq (s : State) (n : Nat) (n' : Nat) (f : CoreS → CoreS) : (s.updCore n f).fq n' = s.fq n' := rfl
@[simp] theorem State.updCore_stage (s : State) (n : Nat) (c' g' : Nat) (f : CoreS → CoreS) : (s.updCore n f).stage c' g' = s.stage c' g' := rfl
@[simp] theorem State.updCore_router (s : State) (n : Nat) (n' : Nat) (f : CoreS → CoreS) : (s.updCore n f).router n' = s.router n' := rfl
@[simp] theorem State.updCore_hport (s : State) (n : Nat) (n' : Nat) (f : CoreS → CoreS) : (s.updCore n f).hport n' = s.hport n' := rfl
@[simp] theorem State.updCore_fn (s : State) (n : Nat) (n' : Nat) (f : CoreS → CoreS) : (s.updCore n f).fn n' = s.fn n' := rfl
@[simp] theorem State.updCore_kslot (s : State) (n : Nat) (n' : Nat) (f : CoreS → CoreS) : (s.updCore n f).kslot n' = s.kslot n' := rfl
@[simp] theorem State.updCore_fport (s : State) (n : Nat) (n' : Nat) (f : CoreS → CoreS) : (s.updCore n f).fport n' = s.fport n' := rfl
@[simp] theorem State.updCore_job (s : State) (n : Nat) (n' : Nat) (f : CoreS → CoreS) : (s.updCore n f).job n' = s.job n' := rfl
@[simp] theorem State.updCore_isl (s : State) (n : Nat) (n' : Nat) (f : CoreS → CoreS) : (s.updCore n f).isl n' = s.isl n' := rfl
@[simp] theorem State.updCore_rail (s : State) (n : Nat) (n' : Nat) (f : CoreS → CoreS) : (s.updCore n f).rail n' = s.rail n' := rfl
@[simp] theorem State.updCore_role (s : State) (n : Nat) (n' : Nat) (f : CoreS → CoreS) : (s.updCore n f).role n' = s.role n' := rfl
@[simp] theorem State.updCore_mslot (s : State) (n : Nat) (n' : Nat) (f : CoreS → CoreS) : (s.updCore n f).mslot n' = s.mslot n' := rfl
@[simp] theorem State.updCore_hmem (s : State) (n : Nat) (n' : Nat) (f : CoreS → CoreS) : (s.updCore n f).hmem n' = s.hmem n' := rfl

/-! ## updRole -/

theorem State.role_updRole_self {s : State} (h : s.canon = true) (n : Nat) (f : RoleS → RoleS) : (s.updRole n f).role n = f (s.role n) :=
  Map.get_upd_self _ _ f _ (State.fw_roles_wf h)
theorem State.role_updRole_ne (s : State) (n : Nat) (n' : Nat) (f : RoleS → RoleS) (h : n' ≠ n) :
    (s.updRole n f).role n' = s.role n' := Map.get_upd_ne _ _ _ f _ h
theorem State.updRole_updRole {s : State} (h : s.canon = true) (n : Nat) (f f' : RoleS → RoleS) :
    (s.updRole n f).updRole n f' = s.updRole n (fun x => f' (f x)) := by
  simp only [State.updRole, Map.upd_upd _ _ f f' _ (State.fw_roles_wf h)]
theorem State.updRole_congr (s : State) (n : Nat) {f f' : RoleS → RoleS} (h : f (s.role n) = f' (s.role n)) :
    s.updRole n f = s.updRole n f' := by
  unfold State.updRole Map.upd
  unfold State.role at h
  rw [h]
@[simp] theorem State.updRole_pending (s : State) (n : Nat) (f : RoleS → RoleS) : (s.updRole n f).pending = s.pending := rfl
@[simp] theorem State.updRole_parts (s : State) (n : Nat) (f : RoleS → RoleS) : (s.updRole n f).parts = s.parts := rfl
@[simp] theorem State.updRole_units (s : State) (n : Nat) (f : RoleS → RoleS) : (s.updRole n f).units = s.units := rfl
@[simp] theorem State.updRole_eng (s : State) (n : Nat) (f : RoleS → RoleS) : (s.updRole n f).eng = s.eng := rfl
@[simp] theorem State.updRole_vts (s : State) (n : Nat) (f : RoleS → RoleS) : (s.updRole n f).vts = s.vts := rfl
@[simp] theorem State.updRole_sts (s : State) (n : Nat) (f : RoleS → RoleS) : (s.updRole n f).sts = s.sts := rfl
@[simp] theorem State.updRole_bars (s : State) (n : Nat) (f : RoleS → RoleS) : (s.updRole n f).bars = s.bars := rfl
@[simp] theorem State.updRole_net (s : State) (n : Nat) (f : RoleS → RoleS) : (s.updRole n f).net = s.net := rfl
@[simp] theorem State.updRole_staged (s : State) (n : Nat) (f : RoleS → RoleS) : (s.updRole n f).staged = s.staged := rfl
@[simp] theorem State.updRole_nextHandle (s : State) (n : Nat) (f : RoleS → RoleS) : (s.updRole n f).nextHandle = s.nextHandle := rfl
@[simp] theorem State.updRole_comps (s : State) (n : Nat) (f : RoleS → RoleS) : (s.updRole n f).comps = s.comps := rfl
@[simp] theorem State.updRole_freeCids (s : State) (n : Nat) (f : RoleS → RoleS) : (s.updRole n f).freeCids = s.freeCids := rfl
@[simp] theorem State.updRole_tokens (s : State) (n : Nat) (f : RoleS → RoleS) : (s.updRole n f).tokens = s.tokens := rfl
@[simp] theorem State.updRole_nextToken (s : State) (n : Nat) (f : RoleS → RoleS) : (s.updRole n f).nextToken = s.nextToken := rfl
@[simp] theorem State.updRole_chans (s : State) (n : Nat) (f : RoleS → RoleS) : (s.updRole n f).chans = s.chans := rfl
@[simp] theorem State.updRole_grades (s : State) (n : Nat) (f : RoleS → RoleS) : (s.updRole n f).grades = s.grades := rfl
@[simp] theorem State.updRole_cool (s : State) (n : Nat) (f : RoleS → RoleS) : (s.updRole n f).cool = s.cool := rfl
@[simp] theorem State.updRole_far (s : State) (n : Nat) (f : RoleS → RoleS) : (s.updRole n f).far = s.far := rfl
@[simp] theorem State.updRole_xlt (s : State) (n : Nat) (f : RoleS → RoleS) : (s.updRole n f).xlt = s.xlt := rfl
@[simp] theorem State.updRole_ctxs (s : State) (n : Nat) (f : RoleS → RoleS) : (s.updRole n f).ctxs = s.ctxs := rfl
@[simp] theorem State.updRole_freedXids (s : State) (n : Nat) (f : RoleS → RoleS) : (s.updRole n f).freedXids = s.freedXids := rfl
@[simp] theorem State.updRole_nextXid (s : State) (n : Nat) (f : RoleS → RoleS) : (s.updRole n f).nextXid = s.nextXid := rfl
@[simp] theorem State.updRole_sch (s : State) (n : Nat) (f : RoleS → RoleS) : (s.updRole n f).sch = s.sch := rfl
@[simp] theorem State.updRole_fab (s : State) (n : Nat) (f : RoleS → RoleS) : (s.updRole n f).fab = s.fab := rfl
@[simp] theorem State.updRole_host (s : State) (n : Nat) (f : RoleS → RoleS) : (s.updRole n f).host = s.host := rfl
@[simp] theorem State.updRole_sec (s : State) (n : Nat) (f : RoleS → RoleS) : (s.updRole n f).sec = s.sec := rfl
@[simp] theorem State.updRole_pail (s : State) (n : Nat) (f : RoleS → RoleS) : (s.updRole n f).pail = s.pail := rfl
@[simp] theorem State.updRole_pwr (s : State) (n : Nat) (f : RoleS → RoleS) : (s.updRole n f).pwr = s.pwr := rfl
@[simp] theorem State.updRole_flt (s : State) (n : Nat) (f : RoleS → RoleS) : (s.updRole n f).flt = s.flt := rfl
@[simp] theorem State.updRole_jrn (s : State) (n : Nat) (f : RoleS → RoleS) : (s.updRole n f).jrn = s.jrn := rfl
@[simp] theorem State.updRole_boot (s : State) (n : Nat) (f : RoleS → RoleS) : (s.updRole n f).boot = s.boot := rfl
@[simp] theorem State.updRole_now (s : State) (n : Nat) (f : RoleS → RoleS) : (s.updRole n f).now = s.now := rfl
@[simp] theorem State.updRole_fresh (s : State) (n : Nat) (f : RoleS → RoleS) : (s.updRole n f).fresh = s.fresh := rfl
@[simp] theorem State.updRole_out (s : State) (n : Nat) (f : RoleS → RoleS) : (s.updRole n f).out = s.out := rfl
@[simp] theorem State.updRole_part (s : State) (n : Nat) (n' : Nat) (f : RoleS → RoleS) : (s.updRole n f).part n' = s.part n' := rfl
@[simp] theorem State.updRole_unit (s : State) (n : Nat) (n' : Nat) (f : RoleS → RoleS) : (s.updRole n f).unit n' = s.unit n' := rfl
@[simp] theorem State.updRole_engine (s : State) (n : Nat) (n' : Nat) (f : RoleS → RoleS) : (s.updRole n f).engine n' = s.engine n' := rfl
@[simp] theorem State.updRole_vt (s : State) (n : Nat) (n' : Nat) (f : RoleS → RoleS) : (s.updRole n f).vt n' = s.vt n' := rfl
@[simp] theorem State.updRole_tile (s : State) (n : Nat) (n' : Nat) (f : RoleS → RoleS) : (s.updRole n f).tile n' = s.tile n' := rfl
@[simp] theorem State.updRole_bar (s : State) (n : Nat) (c' b' : Nat) (f : RoleS → RoleS) : (s.updRole n f).bar c' b' = s.bar c' b' := rfl
@[simp] theorem State.updRole_comp (s : State) (n : Nat) (n' : Nat) (f : RoleS → RoleS) : (s.updRole n f).comp n' = s.comp n' := rfl
@[simp] theorem State.updRole_ctx (s : State) (n : Nat) (n' : Nat) (f : RoleS → RoleS) : (s.updRole n f).ctx n' = s.ctx n' := rfl
@[simp] theorem State.updRole_chan (s : State) (n : Nat) (n' : Nat) (f : RoleS → RoleS) : (s.updRole n f).chan n' = s.chan n' := rfl
@[simp] theorem State.updRole_farP (s : State) (n : Nat) (n' : Nat) (f : RoleS → RoleS) : (s.updRole n f).farP n' = s.farP n' := rfl
@[simp] theorem State.updRole_token (s : State) (n : Nat) (n' : Nat) (f : RoleS → RoleS) : (s.updRole n f).token n' = s.token n' := rfl
@[simp] theorem State.updRole_slot (s : State) (n : Nat) (x' i' : Nat) (f : RoleS → RoleS) : (s.updRole n f).slot x' i' = s.slot x' i' := rfl
@[simp] theorem State.updRole_fq (s : State) (n : Nat) (n' : Nat) (f : RoleS → RoleS) : (s.updRole n f).fq n' = s.fq n' := rfl
@[simp] theorem State.updRole_stage (s : State) (n : Nat) (c' g' : Nat) (f : RoleS → RoleS) : (s.updRole n f).stage c' g' = s.stage c' g' := rfl
@[simp] theorem State.updRole_router (s : State) (n : Nat) (n' : Nat) (f : RoleS → RoleS) : (s.updRole n f).router n' = s.router n' := rfl
@[simp] theorem State.updRole_hport (s : State) (n : Nat) (n' : Nat) (f : RoleS → RoleS) : (s.updRole n f).hport n' = s.hport n' := rfl
@[simp] theorem State.updRole_fn (s : State) (n : Nat) (n' : Nat) (f : RoleS → RoleS) : (s.updRole n f).fn n' = s.fn n' := rfl
@[simp] theorem State.updRole_kslot (s : State) (n : Nat) (n' : Nat) (f : RoleS → RoleS) : (s.updRole n f).kslot n' = s.kslot n' := rfl
@[simp] theorem State.updRole_fport (s : State) (n : Nat) (n' : Nat) (f : RoleS → RoleS) : (s.updRole n f).fport n' = s.fport n' := rfl
@[simp] theorem State.updRole_job (s : State) (n : Nat) (n' : Nat) (f : RoleS → RoleS) : (s.updRole n f).job n' = s.job n' := rfl
@[simp] theorem State.updRole_isl (s : State) (n : Nat) (n' : Nat) (f : RoleS → RoleS) : (s.updRole n f).isl n' = s.isl n' := rfl
@[simp] theorem State.updRole_rail (s : State) (n : Nat) (n' : Nat) (f : RoleS → RoleS) : (s.updRole n f).rail n' = s.rail n' := rfl
@[simp] theorem State.updRole_coreS (s : State) (n : Nat) (n' : Nat) (f : RoleS → RoleS) : (s.updRole n f).coreS n' = s.coreS n' := rfl
@[simp] theorem State.updRole_mslot (s : State) (n : Nat) (n' : Nat) (f : RoleS → RoleS) : (s.updRole n f).mslot n' = s.mslot n' := rfl
@[simp] theorem State.updRole_hmem (s : State) (n : Nat) (n' : Nat) (f : RoleS → RoleS) : (s.updRole n f).hmem n' = s.hmem n' := rfl

/-! ## updMslot -/

theorem State.mslot_updMslot_self {s : State} (h : s.canon = true) (n : Nat) (f : Slot → Slot) : (s.updMslot n f).mslot n = f (s.mslot n) :=
  Map.get_upd_self _ _ f _ (State.fw_slots_wf h)
theorem State.mslot_updMslot_ne (s : State) (n : Nat) (n' : Nat) (f : Slot → Slot) (h : n' ≠ n) :
    (s.updMslot n f).mslot n' = s.mslot n' := Map.get_upd_ne _ _ _ f _ h
theorem State.updMslot_updMslot {s : State} (h : s.canon = true) (n : Nat) (f f' : Slot → Slot) :
    (s.updMslot n f).updMslot n f' = s.updMslot n (fun x => f' (f x)) := by
  simp only [State.updMslot, Map.upd_upd _ _ f f' _ (State.fw_slots_wf h)]
theorem State.updMslot_congr (s : State) (n : Nat) {f f' : Slot → Slot} (h : f (s.mslot n) = f' (s.mslot n)) :
    s.updMslot n f = s.updMslot n f' := by
  unfold State.updMslot Map.upd
  unfold State.mslot at h
  rw [h]
@[simp] theorem State.updMslot_pending (s : State) (n : Nat) (f : Slot → Slot) : (s.updMslot n f).pending = s.pending := rfl
@[simp] theorem State.updMslot_parts (s : State) (n : Nat) (f : Slot → Slot) : (s.updMslot n f).parts = s.parts := rfl
@[simp] theorem State.updMslot_units (s : State) (n : Nat) (f : Slot → Slot) : (s.updMslot n f).units = s.units := rfl
@[simp] theorem State.updMslot_eng (s : State) (n : Nat) (f : Slot → Slot) : (s.updMslot n f).eng = s.eng := rfl
@[simp] theorem State.updMslot_vts (s : State) (n : Nat) (f : Slot → Slot) : (s.updMslot n f).vts = s.vts := rfl
@[simp] theorem State.updMslot_sts (s : State) (n : Nat) (f : Slot → Slot) : (s.updMslot n f).sts = s.sts := rfl
@[simp] theorem State.updMslot_bars (s : State) (n : Nat) (f : Slot → Slot) : (s.updMslot n f).bars = s.bars := rfl
@[simp] theorem State.updMslot_net (s : State) (n : Nat) (f : Slot → Slot) : (s.updMslot n f).net = s.net := rfl
@[simp] theorem State.updMslot_staged (s : State) (n : Nat) (f : Slot → Slot) : (s.updMslot n f).staged = s.staged := rfl
@[simp] theorem State.updMslot_nextHandle (s : State) (n : Nat) (f : Slot → Slot) : (s.updMslot n f).nextHandle = s.nextHandle := rfl
@[simp] theorem State.updMslot_comps (s : State) (n : Nat) (f : Slot → Slot) : (s.updMslot n f).comps = s.comps := rfl
@[simp] theorem State.updMslot_freeCids (s : State) (n : Nat) (f : Slot → Slot) : (s.updMslot n f).freeCids = s.freeCids := rfl
@[simp] theorem State.updMslot_tokens (s : State) (n : Nat) (f : Slot → Slot) : (s.updMslot n f).tokens = s.tokens := rfl
@[simp] theorem State.updMslot_nextToken (s : State) (n : Nat) (f : Slot → Slot) : (s.updMslot n f).nextToken = s.nextToken := rfl
@[simp] theorem State.updMslot_chans (s : State) (n : Nat) (f : Slot → Slot) : (s.updMslot n f).chans = s.chans := rfl
@[simp] theorem State.updMslot_grades (s : State) (n : Nat) (f : Slot → Slot) : (s.updMslot n f).grades = s.grades := rfl
@[simp] theorem State.updMslot_cool (s : State) (n : Nat) (f : Slot → Slot) : (s.updMslot n f).cool = s.cool := rfl
@[simp] theorem State.updMslot_far (s : State) (n : Nat) (f : Slot → Slot) : (s.updMslot n f).far = s.far := rfl
@[simp] theorem State.updMslot_xlt (s : State) (n : Nat) (f : Slot → Slot) : (s.updMslot n f).xlt = s.xlt := rfl
@[simp] theorem State.updMslot_ctxs (s : State) (n : Nat) (f : Slot → Slot) : (s.updMslot n f).ctxs = s.ctxs := rfl
@[simp] theorem State.updMslot_freedXids (s : State) (n : Nat) (f : Slot → Slot) : (s.updMslot n f).freedXids = s.freedXids := rfl
@[simp] theorem State.updMslot_nextXid (s : State) (n : Nat) (f : Slot → Slot) : (s.updMslot n f).nextXid = s.nextXid := rfl
@[simp] theorem State.updMslot_sch (s : State) (n : Nat) (f : Slot → Slot) : (s.updMslot n f).sch = s.sch := rfl
@[simp] theorem State.updMslot_fab (s : State) (n : Nat) (f : Slot → Slot) : (s.updMslot n f).fab = s.fab := rfl
@[simp] theorem State.updMslot_host (s : State) (n : Nat) (f : Slot → Slot) : (s.updMslot n f).host = s.host := rfl
@[simp] theorem State.updMslot_sec (s : State) (n : Nat) (f : Slot → Slot) : (s.updMslot n f).sec = s.sec := rfl
@[simp] theorem State.updMslot_pail (s : State) (n : Nat) (f : Slot → Slot) : (s.updMslot n f).pail = s.pail := rfl
@[simp] theorem State.updMslot_pwr (s : State) (n : Nat) (f : Slot → Slot) : (s.updMslot n f).pwr = s.pwr := rfl
@[simp] theorem State.updMslot_flt (s : State) (n : Nat) (f : Slot → Slot) : (s.updMslot n f).flt = s.flt := rfl
@[simp] theorem State.updMslot_jrn (s : State) (n : Nat) (f : Slot → Slot) : (s.updMslot n f).jrn = s.jrn := rfl
@[simp] theorem State.updMslot_boot (s : State) (n : Nat) (f : Slot → Slot) : (s.updMslot n f).boot = s.boot := rfl
@[simp] theorem State.updMslot_now (s : State) (n : Nat) (f : Slot → Slot) : (s.updMslot n f).now = s.now := rfl
@[simp] theorem State.updMslot_fresh (s : State) (n : Nat) (f : Slot → Slot) : (s.updMslot n f).fresh = s.fresh := rfl
@[simp] theorem State.updMslot_out (s : State) (n : Nat) (f : Slot → Slot) : (s.updMslot n f).out = s.out := rfl
@[simp] theorem State.updMslot_part (s : State) (n : Nat) (n' : Nat) (f : Slot → Slot) : (s.updMslot n f).part n' = s.part n' := rfl
@[simp] theorem State.updMslot_unit (s : State) (n : Nat) (n' : Nat) (f : Slot → Slot) : (s.updMslot n f).unit n' = s.unit n' := rfl
@[simp] theorem State.updMslot_engine (s : State) (n : Nat) (n' : Nat) (f : Slot → Slot) : (s.updMslot n f).engine n' = s.engine n' := rfl
@[simp] theorem State.updMslot_vt (s : State) (n : Nat) (n' : Nat) (f : Slot → Slot) : (s.updMslot n f).vt n' = s.vt n' := rfl
@[simp] theorem State.updMslot_tile (s : State) (n : Nat) (n' : Nat) (f : Slot → Slot) : (s.updMslot n f).tile n' = s.tile n' := rfl
@[simp] theorem State.updMslot_bar (s : State) (n : Nat) (c' b' : Nat) (f : Slot → Slot) : (s.updMslot n f).bar c' b' = s.bar c' b' := rfl
@[simp] theorem State.updMslot_comp (s : State) (n : Nat) (n' : Nat) (f : Slot → Slot) : (s.updMslot n f).comp n' = s.comp n' := rfl
@[simp] theorem State.updMslot_ctx (s : State) (n : Nat) (n' : Nat) (f : Slot → Slot) : (s.updMslot n f).ctx n' = s.ctx n' := rfl
@[simp] theorem State.updMslot_chan (s : State) (n : Nat) (n' : Nat) (f : Slot → Slot) : (s.updMslot n f).chan n' = s.chan n' := rfl
@[simp] theorem State.updMslot_farP (s : State) (n : Nat) (n' : Nat) (f : Slot → Slot) : (s.updMslot n f).farP n' = s.farP n' := rfl
@[simp] theorem State.updMslot_token (s : State) (n : Nat) (n' : Nat) (f : Slot → Slot) : (s.updMslot n f).token n' = s.token n' := rfl
@[simp] theorem State.updMslot_slot (s : State) (n : Nat) (x' i' : Nat) (f : Slot → Slot) : (s.updMslot n f).slot x' i' = s.slot x' i' := rfl
@[simp] theorem State.updMslot_fq (s : State) (n : Nat) (n' : Nat) (f : Slot → Slot) : (s.updMslot n f).fq n' = s.fq n' := rfl
@[simp] theorem State.updMslot_stage (s : State) (n : Nat) (c' g' : Nat) (f : Slot → Slot) : (s.updMslot n f).stage c' g' = s.stage c' g' := rfl
@[simp] theorem State.updMslot_router (s : State) (n : Nat) (n' : Nat) (f : Slot → Slot) : (s.updMslot n f).router n' = s.router n' := rfl
@[simp] theorem State.updMslot_hport (s : State) (n : Nat) (n' : Nat) (f : Slot → Slot) : (s.updMslot n f).hport n' = s.hport n' := rfl
@[simp] theorem State.updMslot_fn (s : State) (n : Nat) (n' : Nat) (f : Slot → Slot) : (s.updMslot n f).fn n' = s.fn n' := rfl
@[simp] theorem State.updMslot_kslot (s : State) (n : Nat) (n' : Nat) (f : Slot → Slot) : (s.updMslot n f).kslot n' = s.kslot n' := rfl
@[simp] theorem State.updMslot_fport (s : State) (n : Nat) (n' : Nat) (f : Slot → Slot) : (s.updMslot n f).fport n' = s.fport n' := rfl
@[simp] theorem State.updMslot_job (s : State) (n : Nat) (n' : Nat) (f : Slot → Slot) : (s.updMslot n f).job n' = s.job n' := rfl
@[simp] theorem State.updMslot_isl (s : State) (n : Nat) (n' : Nat) (f : Slot → Slot) : (s.updMslot n f).isl n' = s.isl n' := rfl
@[simp] theorem State.updMslot_rail (s : State) (n : Nat) (n' : Nat) (f : Slot → Slot) : (s.updMslot n f).rail n' = s.rail n' := rfl
@[simp] theorem State.updMslot_coreS (s : State) (n : Nat) (n' : Nat) (f : Slot → Slot) : (s.updMslot n f).coreS n' = s.coreS n' := rfl
@[simp] theorem State.updMslot_role (s : State) (n : Nat) (n' : Nat) (f : Slot → Slot) : (s.updMslot n f).role n' = s.role n' := rfl
@[simp] theorem State.updMslot_hmem (s : State) (n : Nat) (n' : Nat) (f : Slot → Slot) : (s.updMslot n f).hmem n' = s.hmem n' := rfl

/-! ## updHmem -/

theorem State.hmem_updHmem_self {s : State} (h : s.canon = true) (n : Nat) (f : Bytes → Bytes) : (s.updHmem n f).hmem n = f (s.hmem n) :=
  Map.get_upd_self _ _ f _ (State.host_mem_wf h)
theorem State.hmem_updHmem_ne (s : State) (n : Nat) (n' : Nat) (f : Bytes → Bytes) (h : n' ≠ n) :
    (s.updHmem n f).hmem n' = s.hmem n' := Map.get_upd_ne _ _ _ f _ h
theorem State.updHmem_updHmem {s : State} (h : s.canon = true) (n : Nat) (f f' : Bytes → Bytes) :
    (s.updHmem n f).updHmem n f' = s.updHmem n (fun x => f' (f x)) := by
  simp only [State.updHmem, Map.upd_upd _ _ f f' _ (State.host_mem_wf h)]
theorem State.updHmem_congr (s : State) (n : Nat) {f f' : Bytes → Bytes} (h : f (s.hmem n) = f' (s.hmem n)) :
    s.updHmem n f = s.updHmem n f' := by
  unfold State.updHmem Map.upd
  unfold State.hmem at h
  rw [h]
@[simp] theorem State.updHmem_pending (s : State) (n : Nat) (f : Bytes → Bytes) : (s.updHmem n f).pending = s.pending := rfl
@[simp] theorem State.updHmem_parts (s : State) (n : Nat) (f : Bytes → Bytes) : (s.updHmem n f).parts = s.parts := rfl
@[simp] theorem State.updHmem_units (s : State) (n : Nat) (f : Bytes → Bytes) : (s.updHmem n f).units = s.units := rfl
@[simp] theorem State.updHmem_eng (s : State) (n : Nat) (f : Bytes → Bytes) : (s.updHmem n f).eng = s.eng := rfl
@[simp] theorem State.updHmem_vts (s : State) (n : Nat) (f : Bytes → Bytes) : (s.updHmem n f).vts = s.vts := rfl
@[simp] theorem State.updHmem_sts (s : State) (n : Nat) (f : Bytes → Bytes) : (s.updHmem n f).sts = s.sts := rfl
@[simp] theorem State.updHmem_bars (s : State) (n : Nat) (f : Bytes → Bytes) : (s.updHmem n f).bars = s.bars := rfl
@[simp] theorem State.updHmem_net (s : State) (n : Nat) (f : Bytes → Bytes) : (s.updHmem n f).net = s.net := rfl
@[simp] theorem State.updHmem_staged (s : State) (n : Nat) (f : Bytes → Bytes) : (s.updHmem n f).staged = s.staged := rfl
@[simp] theorem State.updHmem_nextHandle (s : State) (n : Nat) (f : Bytes → Bytes) : (s.updHmem n f).nextHandle = s.nextHandle := rfl
@[simp] theorem State.updHmem_comps (s : State) (n : Nat) (f : Bytes → Bytes) : (s.updHmem n f).comps = s.comps := rfl
@[simp] theorem State.updHmem_freeCids (s : State) (n : Nat) (f : Bytes → Bytes) : (s.updHmem n f).freeCids = s.freeCids := rfl
@[simp] theorem State.updHmem_tokens (s : State) (n : Nat) (f : Bytes → Bytes) : (s.updHmem n f).tokens = s.tokens := rfl
@[simp] theorem State.updHmem_nextToken (s : State) (n : Nat) (f : Bytes → Bytes) : (s.updHmem n f).nextToken = s.nextToken := rfl
@[simp] theorem State.updHmem_chans (s : State) (n : Nat) (f : Bytes → Bytes) : (s.updHmem n f).chans = s.chans := rfl
@[simp] theorem State.updHmem_grades (s : State) (n : Nat) (f : Bytes → Bytes) : (s.updHmem n f).grades = s.grades := rfl
@[simp] theorem State.updHmem_cool (s : State) (n : Nat) (f : Bytes → Bytes) : (s.updHmem n f).cool = s.cool := rfl
@[simp] theorem State.updHmem_far (s : State) (n : Nat) (f : Bytes → Bytes) : (s.updHmem n f).far = s.far := rfl
@[simp] theorem State.updHmem_xlt (s : State) (n : Nat) (f : Bytes → Bytes) : (s.updHmem n f).xlt = s.xlt := rfl
@[simp] theorem State.updHmem_ctxs (s : State) (n : Nat) (f : Bytes → Bytes) : (s.updHmem n f).ctxs = s.ctxs := rfl
@[simp] theorem State.updHmem_freedXids (s : State) (n : Nat) (f : Bytes → Bytes) : (s.updHmem n f).freedXids = s.freedXids := rfl
@[simp] theorem State.updHmem_nextXid (s : State) (n : Nat) (f : Bytes → Bytes) : (s.updHmem n f).nextXid = s.nextXid := rfl
@[simp] theorem State.updHmem_sch (s : State) (n : Nat) (f : Bytes → Bytes) : (s.updHmem n f).sch = s.sch := rfl
@[simp] theorem State.updHmem_fab (s : State) (n : Nat) (f : Bytes → Bytes) : (s.updHmem n f).fab = s.fab := rfl
@[simp] theorem State.updHmem_sec (s : State) (n : Nat) (f : Bytes → Bytes) : (s.updHmem n f).sec = s.sec := rfl
@[simp] theorem State.updHmem_pail (s : State) (n : Nat) (f : Bytes → Bytes) : (s.updHmem n f).pail = s.pail := rfl
@[simp] theorem State.updHmem_pwr (s : State) (n : Nat) (f : Bytes → Bytes) : (s.updHmem n f).pwr = s.pwr := rfl
@[simp] theorem State.updHmem_flt (s : State) (n : Nat) (f : Bytes → Bytes) : (s.updHmem n f).flt = s.flt := rfl
@[simp] theorem State.updHmem_jrn (s : State) (n : Nat) (f : Bytes → Bytes) : (s.updHmem n f).jrn = s.jrn := rfl
@[simp] theorem State.updHmem_fw (s : State) (n : Nat) (f : Bytes → Bytes) : (s.updHmem n f).fw = s.fw := rfl
@[simp] theorem State.updHmem_boot (s : State) (n : Nat) (f : Bytes → Bytes) : (s.updHmem n f).boot = s.boot := rfl
@[simp] theorem State.updHmem_now (s : State) (n : Nat) (f : Bytes → Bytes) : (s.updHmem n f).now = s.now := rfl
@[simp] theorem State.updHmem_fresh (s : State) (n : Nat) (f : Bytes → Bytes) : (s.updHmem n f).fresh = s.fresh := rfl
@[simp] theorem State.updHmem_out (s : State) (n : Nat) (f : Bytes → Bytes) : (s.updHmem n f).out = s.out := rfl
@[simp] theorem State.updHmem_part (s : State) (n : Nat) (n' : Nat) (f : Bytes → Bytes) : (s.updHmem n f).part n' = s.part n' := rfl
@[simp] theorem State.updHmem_unit (s : State) (n : Nat) (n' : Nat) (f : Bytes → Bytes) : (s.updHmem n f).unit n' = s.unit n' := rfl
@[simp] theorem State.updHmem_engine (s : State) (n : Nat) (n' : Nat) (f : Bytes → Bytes) : (s.updHmem n f).engine n' = s.engine n' := rfl
@[simp] theorem State.updHmem_vt (s : State) (n : Nat) (n' : Nat) (f : Bytes → Bytes) : (s.updHmem n f).vt n' = s.vt n' := rfl
@[simp] theorem State.updHmem_tile (s : State) (n : Nat) (n' : Nat) (f : Bytes → Bytes) : (s.updHmem n f).tile n' = s.tile n' := rfl
@[simp] theorem State.updHmem_bar (s : State) (n : Nat) (c' b' : Nat) (f : Bytes → Bytes) : (s.updHmem n f).bar c' b' = s.bar c' b' := rfl
@[simp] theorem State.updHmem_comp (s : State) (n : Nat) (n' : Nat) (f : Bytes → Bytes) : (s.updHmem n f).comp n' = s.comp n' := rfl
@[simp] theorem State.updHmem_ctx (s : State) (n : Nat) (n' : Nat) (f : Bytes → Bytes) : (s.updHmem n f).ctx n' = s.ctx n' := rfl
@[simp] theorem State.updHmem_chan (s : State) (n : Nat) (n' : Nat) (f : Bytes → Bytes) : (s.updHmem n f).chan n' = s.chan n' := rfl
@[simp] theorem State.updHmem_farP (s : State) (n : Nat) (n' : Nat) (f : Bytes → Bytes) : (s.updHmem n f).farP n' = s.farP n' := rfl
@[simp] theorem State.updHmem_token (s : State) (n : Nat) (n' : Nat) (f : Bytes → Bytes) : (s.updHmem n f).token n' = s.token n' := rfl
@[simp] theorem State.updHmem_slot (s : State) (n : Nat) (x' i' : Nat) (f : Bytes → Bytes) : (s.updHmem n f).slot x' i' = s.slot x' i' := rfl
@[simp] theorem State.updHmem_fq (s : State) (n : Nat) (n' : Nat) (f : Bytes → Bytes) : (s.updHmem n f).fq n' = s.fq n' := rfl
@[simp] theorem State.updHmem_stage (s : State) (n : Nat) (c' g' : Nat) (f : Bytes → Bytes) : (s.updHmem n f).stage c' g' = s.stage c' g' := rfl
@[simp] theorem State.updHmem_router (s : State) (n : Nat) (n' : Nat) (f : Bytes → Bytes) : (s.updHmem n f).router n' = s.router n' := rfl
@[simp] theorem State.updHmem_hport (s : State) (n : Nat) (n' : Nat) (f : Bytes → Bytes) : (s.updHmem n f).hport n' = s.hport n' := rfl
@[simp] theorem State.updHmem_fn (s : State) (n : Nat) (n' : Nat) (f : Bytes → Bytes) : (s.updHmem n f).fn n' = s.fn n' := rfl
@[simp] theorem State.updHmem_kslot (s : State) (n : Nat) (n' : Nat) (f : Bytes → Bytes) : (s.updHmem n f).kslot n' = s.kslot n' := rfl
@[simp] theorem State.updHmem_fport (s : State) (n : Nat) (n' : Nat) (f : Bytes → Bytes) : (s.updHmem n f).fport n' = s.fport n' := rfl
@[simp] theorem State.updHmem_job (s : State) (n : Nat) (n' : Nat) (f : Bytes → Bytes) : (s.updHmem n f).job n' = s.job n' := rfl
@[simp] theorem State.updHmem_isl (s : State) (n : Nat) (n' : Nat) (f : Bytes → Bytes) : (s.updHmem n f).isl n' = s.isl n' := rfl
@[simp] theorem State.updHmem_rail (s : State) (n : Nat) (n' : Nat) (f : Bytes → Bytes) : (s.updHmem n f).rail n' = s.rail n' := rfl
@[simp] theorem State.updHmem_coreS (s : State) (n : Nat) (n' : Nat) (f : Bytes → Bytes) : (s.updHmem n f).coreS n' = s.coreS n' := rfl
@[simp] theorem State.updHmem_role (s : State) (n : Nat) (n' : Nat) (f : Bytes → Bytes) : (s.updHmem n f).role n' = s.role n' := rfl
@[simp] theorem State.updHmem_mslot (s : State) (n : Nat) (n' : Nat) (f : Bytes → Bytes) : (s.updHmem n f).mslot n' = s.mslot n' := rfl

/-! ## setWork -/

@[simp] theorem State.setWork_pending (s : State) (w : Nat) (v : Option Work) : (s.setWork w v).pending = s.pending := rfl
@[simp] theorem State.setWork_parts (s : State) (w : Nat) (v : Option Work) : (s.setWork w v).parts = s.parts := rfl
@[simp] theorem State.setWork_units (s : State) (w : Nat) (v : Option Work) : (s.setWork w v).units = s.units := rfl
@[simp] theorem State.setWork_eng (s : State) (w : Nat) (v : Option Work) : (s.setWork w v).eng = s.eng := rfl
@[simp] theorem State.setWork_vts (s : State) (w : Nat) (v : Option Work) : (s.setWork w v).vts = s.vts := rfl
@[simp] theorem State.setWork_sts (s : State) (w : Nat) (v : Option Work) : (s.setWork w v).sts = s.sts := rfl
@[simp] theorem State.setWork_bars (s : State) (w : Nat) (v : Option Work) : (s.setWork w v).bars = s.bars := rfl
@[simp] theorem State.setWork_net (s : State) (w : Nat) (v : Option Work) : (s.setWork w v).net = s.net := rfl
@[simp] theorem State.setWork_staged (s : State) (w : Nat) (v : Option Work) : (s.setWork w v).staged = s.staged := rfl
@[simp] theorem State.setWork_nextHandle (s : State) (w : Nat) (v : Option Work) : (s.setWork w v).nextHandle = s.nextHandle := rfl
@[simp] theorem State.setWork_comps (s : State) (w : Nat) (v : Option Work) : (s.setWork w v).comps = s.comps := rfl
@[simp] theorem State.setWork_freeCids (s : State) (w : Nat) (v : Option Work) : (s.setWork w v).freeCids = s.freeCids := rfl
@[simp] theorem State.setWork_tokens (s : State) (w : Nat) (v : Option Work) : (s.setWork w v).tokens = s.tokens := rfl
@[simp] theorem State.setWork_nextToken (s : State) (w : Nat) (v : Option Work) : (s.setWork w v).nextToken = s.nextToken := rfl
@[simp] theorem State.setWork_chans (s : State) (w : Nat) (v : Option Work) : (s.setWork w v).chans = s.chans := rfl
@[simp] theorem State.setWork_grades (s : State) (w : Nat) (v : Option Work) : (s.setWork w v).grades = s.grades := rfl
@[simp] theorem State.setWork_cool (s : State) (w : Nat) (v : Option Work) : (s.setWork w v).cool = s.cool := rfl
@[simp] theorem State.setWork_far (s : State) (w : Nat) (v : Option Work) : (s.setWork w v).far = s.far := rfl
@[simp] theorem State.setWork_xlt (s : State) (w : Nat) (v : Option Work) : (s.setWork w v).xlt = s.xlt := rfl
@[simp] theorem State.setWork_ctxs (s : State) (w : Nat) (v : Option Work) : (s.setWork w v).ctxs = s.ctxs := rfl
@[simp] theorem State.setWork_freedXids (s : State) (w : Nat) (v : Option Work) : (s.setWork w v).freedXids = s.freedXids := rfl
@[simp] theorem State.setWork_nextXid (s : State) (w : Nat) (v : Option Work) : (s.setWork w v).nextXid = s.nextXid := rfl
@[simp] theorem State.setWork_fab (s : State) (w : Nat) (v : Option Work) : (s.setWork w v).fab = s.fab := rfl
@[simp] theorem State.setWork_host (s : State) (w : Nat) (v : Option Work) : (s.setWork w v).host = s.host := rfl
@[simp] theorem State.setWork_sec (s : State) (w : Nat) (v : Option Work) : (s.setWork w v).sec = s.sec := rfl
@[simp] theorem State.setWork_pail (s : State) (w : Nat) (v : Option Work) : (s.setWork w v).pail = s.pail := rfl
@[simp] theorem State.setWork_pwr (s : State) (w : Nat) (v : Option Work) : (s.setWork w v).pwr = s.pwr := rfl
@[simp] theorem State.setWork_flt (s : State) (w : Nat) (v : Option Work) : (s.setWork w v).flt = s.flt := rfl
@[simp] theorem State.setWork_jrn (s : State) (w : Nat) (v : Option Work) : (s.setWork w v).jrn = s.jrn := rfl
@[simp] theorem State.setWork_fw (s : State) (w : Nat) (v : Option Work) : (s.setWork w v).fw = s.fw := rfl
@[simp] theorem State.setWork_boot (s : State) (w : Nat) (v : Option Work) : (s.setWork w v).boot = s.boot := rfl
@[simp] theorem State.setWork_now (s : State) (w : Nat) (v : Option Work) : (s.setWork w v).now = s.now := rfl
@[simp] theorem State.setWork_fresh (s : State) (w : Nat) (v : Option Work) : (s.setWork w v).fresh = s.fresh := rfl
@[simp] theorem State.setWork_out (s : State) (w : Nat) (v : Option Work) : (s.setWork w v).out = s.out := rfl

/-! ## updRing -/

@[simp] theorem State.updRing_pending (s : State) (c r : Nat) (f : Ring → Ring) : (s.updRing c r f).pending = s.pending := rfl
@[simp] theorem State.updRing_parts (s : State) (c r : Nat) (f : Ring → Ring) : (s.updRing c r f).parts = s.parts := rfl
@[simp] theorem State.updRing_units (s : State) (c r : Nat) (f : Ring → Ring) : (s.updRing c r f).units = s.units := rfl
@[simp] theorem State.updRing_eng (s : State) (c r : Nat) (f : Ring → Ring) : (s.updRing c r f).eng = s.eng := rfl
@[simp] theorem State.updRing_vts (s : State) (c r : Nat) (f : Ring → Ring) : (s.updRing c r f).vts = s.vts := rfl
@[simp] theorem State.updRing_sts (s : State) (c r : Nat) (f : Ring → Ring) : (s.updRing c r f).sts = s.sts := rfl
@[simp] theorem State.updRing_bars (s : State) (c r : Nat) (f : Ring → Ring) : (s.updRing c r f).bars = s.bars := rfl
@[simp] theorem State.updRing_net (s : State) (c r : Nat) (f : Ring → Ring) : (s.updRing c r f).net = s.net := rfl
@[simp] theorem State.updRing_staged (s : State) (c r : Nat) (f : Ring → Ring) : (s.updRing c r f).staged = s.staged := rfl
@[simp] theorem State.updRing_nextHandle (s : State) (c r : Nat) (f : Ring → Ring) : (s.updRing c r f).nextHandle = s.nextHandle := rfl
@[simp] theorem State.updRing_comps (s : State) (c r : Nat) (f : Ring → Ring) : (s.updRing c r f).comps = s.comps := rfl
@[simp] theorem State.updRing_freeCids (s : State) (c r : Nat) (f : Ring → Ring) : (s.updRing c r f).freeCids = s.freeCids := rfl
@[simp] theorem State.updRing_tokens (s : State) (c r : Nat) (f : Ring → Ring) : (s.updRing c r f).tokens = s.tokens := rfl
@[simp] theorem State.updRing_nextToken (s : State) (c r : Nat) (f : Ring → Ring) : (s.updRing c r f).nextToken = s.nextToken := rfl
@[simp] theorem State.updRing_chans (s : State) (c r : Nat) (f : Ring → Ring) : (s.updRing c r f).chans = s.chans := rfl
@[simp] theorem State.updRing_grades (s : State) (c r : Nat) (f : Ring → Ring) : (s.updRing c r f).grades = s.grades := rfl
@[simp] theorem State.updRing_cool (s : State) (c r : Nat) (f : Ring → Ring) : (s.updRing c r f).cool = s.cool := rfl
@[simp] theorem State.updRing_far (s : State) (c r : Nat) (f : Ring → Ring) : (s.updRing c r f).far = s.far := rfl
@[simp] theorem State.updRing_xlt (s : State) (c r : Nat) (f : Ring → Ring) : (s.updRing c r f).xlt = s.xlt := rfl
@[simp] theorem State.updRing_ctxs (s : State) (c r : Nat) (f : Ring → Ring) : (s.updRing c r f).ctxs = s.ctxs := rfl
@[simp] theorem State.updRing_freedXids (s : State) (c r : Nat) (f : Ring → Ring) : (s.updRing c r f).freedXids = s.freedXids := rfl
@[simp] theorem State.updRing_nextXid (s : State) (c r : Nat) (f : Ring → Ring) : (s.updRing c r f).nextXid = s.nextXid := rfl
@[simp] theorem State.updRing_sch (s : State) (c r : Nat) (f : Ring → Ring) : (s.updRing c r f).sch = s.sch := rfl
@[simp] theorem State.updRing_fab (s : State) (c r : Nat) (f : Ring → Ring) : (s.updRing c r f).fab = s.fab := rfl
@[simp] theorem State.updRing_sec (s : State) (c r : Nat) (f : Ring → Ring) : (s.updRing c r f).sec = s.sec := rfl
@[simp] theorem State.updRing_pail (s : State) (c r : Nat) (f : Ring → Ring) : (s.updRing c r f).pail = s.pail := rfl
@[simp] theorem State.updRing_pwr (s : State) (c r : Nat) (f : Ring → Ring) : (s.updRing c r f).pwr = s.pwr := rfl
@[simp] theorem State.updRing_flt (s : State) (c r : Nat) (f : Ring → Ring) : (s.updRing c r f).flt = s.flt := rfl
@[simp] theorem State.updRing_jrn (s : State) (c r : Nat) (f : Ring → Ring) : (s.updRing c r f).jrn = s.jrn := rfl
@[simp] theorem State.updRing_fw (s : State) (c r : Nat) (f : Ring → Ring) : (s.updRing c r f).fw = s.fw := rfl
@[simp] theorem State.updRing_boot (s : State) (c r : Nat) (f : Ring → Ring) : (s.updRing c r f).boot = s.boot := rfl
@[simp] theorem State.updRing_now (s : State) (c r : Nat) (f : Ring → Ring) : (s.updRing c r f).now = s.now := rfl
@[simp] theorem State.updRing_fresh (s : State) (c r : Nat) (f : Ring → Ring) : (s.updRing c r f).fresh = s.fresh := rfl
@[simp] theorem State.updRing_out (s : State) (c r : Nat) (f : Ring → Ring) : (s.updRing c r f).out = s.out := rfl

/-! ## emit -/

@[simp] theorem State.emit_out (s : State) (o : Out) : (s.emit o).out = s.out ++ [o] := rfl
@[simp] theorem State.emit_pending (s : State) (o : Out) : (s.emit o).pending = s.pending := rfl
@[simp] theorem State.emit_parts (s : State) (o : Out) : (s.emit o).parts = s.parts := rfl
@[simp] theorem State.emit_units (s : State) (o : Out) : (s.emit o).units = s.units := rfl
@[simp] theorem State.emit_eng (s : State) (o : Out) : (s.emit o).eng = s.eng := rfl
@[simp] theorem State.emit_vts (s : State) (o : Out) : (s.emit o).vts = s.vts := rfl
@[simp] theorem State.emit_sts (s : State) (o : Out) : (s.emit o).sts = s.sts := rfl
@[simp] theorem State.emit_bars (s : State) (o : Out) : (s.emit o).bars = s.bars := rfl
@[simp] theorem State.emit_net (s : State) (o : Out) : (s.emit o).net = s.net := rfl
@[simp] theorem State.emit_staged (s : State) (o : Out) : (s.emit o).staged = s.staged := rfl
@[simp] theorem State.emit_nextHandle (s : State) (o : Out) : (s.emit o).nextHandle = s.nextHandle := rfl
@[simp] theorem State.emit_comps (s : State) (o : Out) : (s.emit o).comps = s.comps := rfl
@[simp] theorem State.emit_freeCids (s : State) (o : Out) : (s.emit o).freeCids = s.freeCids := rfl
@[simp] theorem State.emit_tokens (s : State) (o : Out) : (s.emit o).tokens = s.tokens := rfl
@[simp] theorem State.emit_nextToken (s : State) (o : Out) : (s.emit o).nextToken = s.nextToken := rfl
@[simp] theorem State.emit_chans (s : State) (o : Out) : (s.emit o).chans = s.chans := rfl
@[simp] theorem State.emit_grades (s : State) (o : Out) : (s.emit o).grades = s.grades := rfl
@[simp] theorem State.emit_cool (s : State) (o : Out) : (s.emit o).cool = s.cool := rfl
@[simp] theorem State.emit_far (s : State) (o : Out) : (s.emit o).far = s.far := rfl
@[simp] theorem State.emit_xlt (s : State) (o : Out) : (s.emit o).xlt = s.xlt := rfl
@[simp] theorem State.emit_ctxs (s : State) (o : Out) : (s.emit o).ctxs = s.ctxs := rfl
@[simp] theorem State.emit_freedXids (s : State) (o : Out) : (s.emit o).freedXids = s.freedXids := rfl
@[simp] theorem State.emit_nextXid (s : State) (o : Out) : (s.emit o).nextXid = s.nextXid := rfl
@[simp] theorem State.emit_sch (s : State) (o : Out) : (s.emit o).sch = s.sch := rfl
@[simp] theorem State.emit_fab (s : State) (o : Out) : (s.emit o).fab = s.fab := rfl
@[simp] theorem State.emit_host (s : State) (o : Out) : (s.emit o).host = s.host := rfl
@[simp] theorem State.emit_sec (s : State) (o : Out) : (s.emit o).sec = s.sec := rfl
@[simp] theorem State.emit_pail (s : State) (o : Out) : (s.emit o).pail = s.pail := rfl
@[simp] theorem State.emit_pwr (s : State) (o : Out) : (s.emit o).pwr = s.pwr := rfl
@[simp] theorem State.emit_flt (s : State) (o : Out) : (s.emit o).flt = s.flt := rfl
@[simp] theorem State.emit_jrn (s : State) (o : Out) : (s.emit o).jrn = s.jrn := rfl
@[simp] theorem State.emit_fw (s : State) (o : Out) : (s.emit o).fw = s.fw := rfl
@[simp] theorem State.emit_boot (s : State) (o : Out) : (s.emit o).boot = s.boot := rfl
@[simp] theorem State.emit_now (s : State) (o : Out) : (s.emit o).now = s.now := rfl
@[simp] theorem State.emit_fresh (s : State) (o : Out) : (s.emit o).fresh = s.fresh := rfl

/-! ## jwaitRun -/

@[simp] theorem State.jwaitRun_waiting (s : State) (rs : List JRec) : (s.jwaitRun rs).jrn.waiting = s.jrn.waiting ++ runOf rs := rfl
@[simp] theorem State.jwaitRun_pending (s : State) (rs : List JRec) : (s.jwaitRun rs).pending = s.pending := rfl
@[simp] theorem State.jwaitRun_parts (s : State) (rs : List JRec) : (s.jwaitRun rs).parts = s.parts := rfl
@[simp] theorem State.jwaitRun_units (s : State) (rs : List JRec) : (s.jwaitRun rs).units = s.units := rfl
@[simp] theorem State.jwaitRun_eng (s : State) (rs : List JRec) : (s.jwaitRun rs).eng = s.eng := rfl
@[simp] theorem State.jwaitRun_vts (s : State) (rs : List JRec) : (s.jwaitRun rs).vts = s.vts := rfl
@[simp] theorem State.jwaitRun_sts (s : State) (rs : List JRec) : (s.jwaitRun rs).sts = s.sts := rfl
@[simp] theorem State.jwaitRun_bars (s : State) (rs : List JRec) : (s.jwaitRun rs).bars = s.bars := rfl
@[simp] theorem State.jwaitRun_net (s : State) (rs : List JRec) : (s.jwaitRun rs).net = s.net := rfl
@[simp] theorem State.jwaitRun_staged (s : State) (rs : List JRec) : (s.jwaitRun rs).staged = s.staged := rfl
@[simp] theorem State.jwaitRun_nextHandle (s : State) (rs : List JRec) : (s.jwaitRun rs).nextHandle = s.nextHandle := rfl
@[simp] theorem State.jwaitRun_comps (s : State) (rs : List JRec) : (s.jwaitRun rs).comps = s.comps := rfl
@[simp] theorem State.jwaitRun_freeCids (s : State) (rs : List JRec) : (s.jwaitRun rs).freeCids = s.freeCids := rfl
@[simp] theorem State.jwaitRun_tokens (s : State) (rs : List JRec) : (s.jwaitRun rs).tokens = s.tokens := rfl
@[simp] theorem State.jwaitRun_nextToken (s : State) (rs : List JRec) : (s.jwaitRun rs).nextToken = s.nextToken := rfl
@[simp] theorem State.jwaitRun_chans (s : State) (rs : List JRec) : (s.jwaitRun rs).chans = s.chans := rfl
@[simp] theorem State.jwaitRun_grades (s : State) (rs : List JRec) : (s.jwaitRun rs).grades = s.grades := rfl
@[simp] theorem State.jwaitRun_cool (s : State) (rs : List JRec) : (s.jwaitRun rs).cool = s.cool := rfl
@[simp] theorem State.jwaitRun_far (s : State) (rs : List JRec) : (s.jwaitRun rs).far = s.far := rfl
@[simp] theorem State.jwaitRun_xlt (s : State) (rs : List JRec) : (s.jwaitRun rs).xlt = s.xlt := rfl
@[simp] theorem State.jwaitRun_ctxs (s : State) (rs : List JRec) : (s.jwaitRun rs).ctxs = s.ctxs := rfl
@[simp] theorem State.jwaitRun_freedXids (s : State) (rs : List JRec) : (s.jwaitRun rs).freedXids = s.freedXids := rfl
@[simp] theorem State.jwaitRun_nextXid (s : State) (rs : List JRec) : (s.jwaitRun rs).nextXid = s.nextXid := rfl
@[simp] theorem State.jwaitRun_sch (s : State) (rs : List JRec) : (s.jwaitRun rs).sch = s.sch := rfl
@[simp] theorem State.jwaitRun_fab (s : State) (rs : List JRec) : (s.jwaitRun rs).fab = s.fab := rfl
@[simp] theorem State.jwaitRun_host (s : State) (rs : List JRec) : (s.jwaitRun rs).host = s.host := rfl
@[simp] theorem State.jwaitRun_sec (s : State) (rs : List JRec) : (s.jwaitRun rs).sec = s.sec := rfl
@[simp] theorem State.jwaitRun_pail (s : State) (rs : List JRec) : (s.jwaitRun rs).pail = s.pail := rfl
@[simp] theorem State.jwaitRun_pwr (s : State) (rs : List JRec) : (s.jwaitRun rs).pwr = s.pwr := rfl
@[simp] theorem State.jwaitRun_flt (s : State) (rs : List JRec) : (s.jwaitRun rs).flt = s.flt := rfl
@[simp] theorem State.jwaitRun_fw (s : State) (rs : List JRec) : (s.jwaitRun rs).fw = s.fw := rfl
@[simp] theorem State.jwaitRun_boot (s : State) (rs : List JRec) : (s.jwaitRun rs).boot = s.boot := rfl
@[simp] theorem State.jwaitRun_now (s : State) (rs : List JRec) : (s.jwaitRun rs).now = s.now := rfl
@[simp] theorem State.jwaitRun_fresh (s : State) (rs : List JRec) : (s.jwaitRun rs).fresh = s.fresh := rfl
@[simp] theorem State.jwaitRun_out (s : State) (rs : List JRec) : (s.jwaitRun rs).out = s.out := rfl

end Sys2Proof.Machine
end

