-- ==== Sys2Proof/Tests/Slice0.lean ====
section
/-!
SUPPORT. The model's own tests: what the well-formedness check refuses, a state and operands that meet the hypotheses of each statement
(test_hyp_…), and the spec's worked examples (test_example_…).
-/

open Sys2Proof Sys2Proof.Machine

namespace Sys2Proof.Tests

set_option Elab.async false

/-! ## Well-formedness: the check refuses an ill-formed command -/

theorem test_wf_access_width : (Instr.registerWrite (.bar0 0) 0 3 0 0).wf = false := by decide
theorem test_wf_access_alignment : (Instr.registerWrite (.bar0 0) 4 8 0 0).wf = false := by decide
theorem test_wf_access_good : (Instr.registerWrite (.bar0 0) 0x2304 4 0 0).wf = true := by decide +kernel
theorem test_wf_sector_offset : (Instr.memRead 0 0 32 0 ⟨0, false⟩ .clean).wf = false := by decide
theorem test_wf_sector_end : (Instr.memWrite 0 0 0x3C000000 0 ⟨0, false⟩ 0 .clean).wf = false := by decide
theorem test_wf_partial_offset : (Instr.memPartialWrite 0 0 1 0 ⟨0, false⟩ 0 0 .clean).wf = false := by decide
theorem test_wf_trap_cause : (Instr.userTrap 0 0 256 0).wf = false := by decide

/-! ## Engines -/

/-- Engine 0 of partition 0 as given, its unit running. -/
def engState (x : Engine) : State := { units := [(0, { st := .run, xid := 1, npUs := 1 })], eng := [(0, x)] }
/-- A queue whose head is c, under a record that allows everything, slot 0 live. -/
def withHead (c : Cmd) : State := engState { queue := [c], cfg := BitVec.allOnes 128, qSeen := 1, qLive := 1 }
/-- MMA, slot 0, both operands FP8 E4M3, K = 1, ZERO set; ACCLD and EPI of slot 0; a DMA of no bytes. -/
def mmaCmd : Cmd := 1 + (1 <<< 16) + (1 <<< 18) + (1 <<< 22) + (64 <<< 96) + (64 <<< 160)
def accldCmd : Cmd := 3 + (256 <<< 96)
def epiCmd : Cmd := 2 + (256 <<< 224)
def dmaCmd (op : Cmd) : Cmd := 4 + (op <<< 16)
/-- A DMA that names a counter and asks for an event. -/
def dmaCmd0 : Cmd := dmaCmd 0 + (1 <<< 8) + (1 <<< 12)

theorem test_hyp_nop : (withHead 0).canon = true ∧ (withHead 0).engReady 0 0 0 ∧ cOp 0 = 0 := by decide +kernel
theorem test_hyp_wait : (withHead 6).canon = true ∧ (withHead 6).engReady 0 0 6 ∧ cOp 6 = 6 := by decide +kernel
theorem test_hyp_live : (withHead 7).canon = true ∧ (withHead 7).engReady 0 0 7 ∧ cOp 7 = 7 := by decide +kernel
theorem test_hyp_mma : (withHead mmaCmd).canon = true ∧ (withHead mmaCmd).engReady 0 0 mmaCmd ∧ cOp mmaCmd = 1 ∧
    ((withHead mmaCmd).engine 0).soft ≠ .hold := by decide +kernel
theorem test_hyp_accld : (withHead accldCmd).canon = true ∧ (withHead accldCmd).engReady 0 0 accldCmd ∧ cOp accldCmd = 3 := by decide +kernel
theorem test_hyp_epi : (withHead epiCmd).canon = true ∧ (withHead epiCmd).engReady 0 0 epiCmd ∧ cOp epiCmd = 2 ∧
    (epiOf epiCmd).release = false := by decide +kernel
theorem test_hyp_epi_release : (withHead (epiCmd + (1 <<< 16))).engReady 0 0 (epiCmd + (1 <<< 16)) ∧
    (epiOf (epiCmd + (1 <<< 16))).release = true := by decide +kernel
theorem test_hyp_dma : ∀ op ∈ [0, 1, 2, 3, 4], (withHead (dmaCmd (BitVec.ofNat 512 op))).canon = true ∧
    (withHead (dmaCmd (BitVec.ofNat 512 op))).engReady 0 0 (dmaCmd (BitVec.ofNat 512 op)) ∧ (dmaDesc (dmaCmd (BitVec.ofNat 512 op))).op = op := by
  decide +kernel
/-- A composition whose frame 6 (a pour) of group 0 names the engine as its source. -/
def pourState : State :=
  { withHead 5 with
    parts := [(0, { st := .bound, cid := 1 })],
    comps := [(1, { st := .active, lparts := 1, place := [(0, 1)], frames := [⟨6, 0, [0, 0, 0, 0, 0, 0, 0, 0]⟩], groups := [⟨0, 0⟩] })] }
theorem test_hyp_nsend : pourState.canon = true ∧ pourState.engReady 0 0 5 ∧ cOp 5 = 5 := by decide +kernel

/-- An MMA stands executing in the array, and nothing overlaps it. -/
def running (c : Cmd) (fin : Bool) : State := engState { arr := { exe := some { cmd := c, seq := 0, fin := fin } } }
theorem test_hyp_array_mma : (running mmaCmd false).canon = true ∧ ((running mmaCmd false).engine 0).arr = { exe := some { cmd := mmaCmd, seq := 0 } } ∧
    ((running mmaCmd false).engine 0).epi = {} ∧ 0 < arrEnd mmaCmd := by decide +kernel
theorem test_hyp_array_accld : (running accldCmd false).canon = true ∧
    ((running accldCmd false).engine 0).arr = { exe := some { cmd := accldCmd, seq := 0 } } ∧ 0 < arrEnd accldCmd := by decide +kernel
theorem test_hyp_complete : (running mmaCmd true).canon = true ∧
    (((running mmaCmd true).engine 0).unitQ .arr).exe = some { cmd := mmaCmd, seq := 0, fin := true } := by decide +kernel
theorem test_hyp_stop : (withHead 0).canon = true ∧ ((withHead 0).unit (uEng 0 0)).st = .run ∧ (withHead 0).cmdsLanded 0 = true ∧
    ((withHead 0).unit (uSt ((withHead 0).issuer 0 / 4) ((withHead 0).issuer 0 % 4))).st ≠ .run := by decide +kernel
/-- The MMA that runs at a halt stands at a k-step its rule names. -/
theorem test_hyp_stop_point : ((running mmaCmd false).engine 0).arr.exe = some { cmd := mmaCmd, seq := 0 } ∧ cOp mmaCmd = 1 := by decide +kernel
def stoppingState : State := { units := [(0, { st := .stopping, xid := 1 })] }
theorem test_hyp_halted : stoppingState.canon = true ∧ (stoppingState.unit (uEng 0 0)).st = .stopping ∧ stoppingState.atStop 0 0 = true := by
  decide +kernel
def savedState : State := { ctxs := [(1, { st := .idle, saved := [(0, .eng (Engine.save {}))] })] }
theorem test_hyp_restore : savedState.canon = true ∧ (savedState.unit (uEng 0 0)).st = .idle ∧ savedState.savedOf 1 0 = .eng (Engine.save {}) := by
  decide +kernel
theorem test_hyp_resume : (engState { halted := true }).canon = true ∧ ((engState { halted := true }).engine 0).halted = true := by
  decide +kernel
theorem test_hyp_refusal : (withHead (mmaCmd + (1 <<< 64))).headCmd 0 = some (mmaCmd + (1 <<< 64)) ∧
    ((withHead (mmaCmd + (1 <<< 64))).engine 0).canLeave (mmaCmd + (1 <<< 64)) = true ∧
    (withHead (mmaCmd + (1 <<< 64))).engCode 0 0 (mmaCmd + (1 <<< 64)) = 5 := by decide +kernel
/-- The issuer of engine 0 has posting credits at first; here it has none. -/
theorem test_hyp_completion : cCntEn dmaCmd0 = true ∧ cEvent dmaCmd0 = true ∧ cEvent 0 = false ∧ 0 < ((engState {}).tile ((engState {}).issuer 0)).evCred ∧
    ((engState {}).pool (eventPool ((engState {}).issuer 0))).resolving = false ∧
    (({ engState {} with sts := [(0, { evCred := 0 })] } : State).tile (({ engState {} with sts := [(0, { evCred := 0 })] } : State).issuer 0)).evCred = 0 := by
  decide +kernel
/-! ## Vector tiles -/

/-- Vector tile 0 of partition 0, running a launch at PC 0 with instruction w there, waiting as given. -/
def vtState (w : Word64) (wait : VWait) (t : VTile) : State :=
  { units := [(38, { st := .run, xid := 1 })],
    vts := [(0, { t with
      lm := ((List.range 8).map (fun i => (i, w.extractLsb' (8 * i) 8))).filter (fun c => c.2 != 0), launch := some { cmd := 0x10 }, wait := wait })] }
/-- The instruction of class opc and function func with the rest of the word as given. -/
def vAt (opc func : Nat) (rest : Word64) : State := vtState (BitVec.ofNat 64 (opc + 256 * func) + rest) .none {}

theorem test_hyp_arithmetic : ∀ f ∈ [0, 1, 2, 3, 4, 5, 6, 7], (vAt 1 f 0).canon = true ∧ (vAt 1 f 0).vReady 0 0 1 f .none noChk := by
  decide +kernel
theorem test_hyp_multiply_add : ∀ f ∈ [0, 1, 2], (vAt 2 f 0).canon = true ∧ (vAt 2 f 0).vReady 0 0 2 f .none noChk := by decide +kernel
theorem test_hyp_lanes : (fun x : List Nat => (nth 0 x 0 % 256, (0 : Byte))) [300] = (44, 0) ∧ (0 : Nat) < 4096 / 8 := by decide +kernel
theorem test_hyp_special : ∀ f ∈ [0, 1, 2, 3, 4, 5], (vAt 3 f 0).vReady 0 0 3 f .none (tyIn [0, 1]) := by decide +kernel
theorem test_hyp_compare : ∀ f ∈ [0, 1, 2], (vAt 4 f 0).vReady 0 0 4 f .none noChk ∧ (vAt 5 f 0).vReady 0 0 5 f .none noChk := by decide +kernel
theorem test_hyp_moves : ∀ f ∈ [0, 1], (vAt 6 f 0).vReady 0 0 6 f .none noChk := by decide +kernel
theorem test_hyp_widen : ∀ f ∈ [0, 1, 2], (vAt 7 f (1 <<< 41)).vReady 0 0 7 f .none (tyIn [1, 2]) := by decide +kernel
theorem test_hyp_quantize : (vAt 7 3 (5 <<< 48)).vReady 0 0 7 3 .none (fun _ i => [(3, decide (i.imm % 16 < 5 ∨ 10 < i.imm % 16))]) := by
  decide +kernel
theorem test_hyp_load_store : (vAt 8 0 (1 <<< 48)).vReady 0 0 8 0 .none (fun t i => localChk t (vaddrOf t i) 512 false) ∧
    (vAt 8 1 (1 <<< 48)).vReady 0 0 8 1 .none (fun t i => localChk t (vaddrOf t i) 512 true) := by decide +kernel
/-- A tile whose channels 0 to 3 are bound to logical engine 0. -/
def bound0 (q : List (BitVec 512)) : VTile := { loaded := true, sc := if q = [] then [] else [(0, q)] }
theorem test_hyp_srd : (vtState 9 .none (bound0 (List.replicate 8 0))).vReady 0 0 9 0 .none srdChk ∧
    (vtState 9 .none (bound0 [])).vReady 0 0 9 0 .none srdChk ∧ (vtState 9 .srd (bound0 (List.replicate 8 0))).vReady 0 0 9 0 .srd srdChk ∧
    streamN ((vtState 9 .none (bound0 [])).vt 0).word ≤ 8 := by decide +kernel
theorem test_hyp_swr : (vtState 0x109 .none (bound0 [])).vReady 0 0 9 1 .none swrChk := by decide +kernel
/-- A descriptor of zeros passes its checks, whatever the fields the spec gives no place hold. -/
theorem zeroDesc_ok (m : Bytes) (a lim : Nat) (h : m.rdLE a 32 = 0) (l : a + 32 ≤ lim) : (xferChk lim 0 m a).all (fun c => !c.2) = true := by
  have b : ∀ x y : Nat, bits (0#256) x y = 0 := by simp [bits]
  simp [xferChk, xferDesc, h, b]; exact l
theorem test_hyp_xdma : (vtState 0x0400000A .none { a := [(1, 64)] }).vReady 0 0 10 0 .none
    (fun t i => xferChk 0x200000 (vtProg t.cfg) t.lm (t.areg i.vs1).toNat) := by
  refine ⟨by decide +kernel, by decide +kernel, by decide +kernel, by decide +kernel, by decide +kernel, by decide +kernel, ?_⟩
  have e : ((vtState 0x0400000A .none { a := [(1, 64)] }).vt (kVt 0 0)).areg
    ((vtState 0x0400000A .none { a := [(1, 64)] }).vt (kVt 0 0)).word.vs1 = 64 := by decide +kernel
  have z : vtProg ((vtState 0x0400000A .none { a := [(1, 64)] }).vt (kVt 0 0)).cfg = 0 := by decide +kernel
  show (xferChk _ _ _ _).all _ = true
  rw [e, z]; exact zeroDesc_ok _ _ _ (by decide +kernel) (by decide)
theorem test_hyp_address : ∀ f ∈ [0, 1, 2, 3, 4], (vAt 11 f 0).vReady 0 0 11 f .none (fun _ _ => []) ∧
    (((vAt 11 f 0).vt 0).areg ((vAt 11 f 0).vt 0).word.vs2).toNat < 64 := by decide +kernel
/-- A shift by 64, a broadcast of lane 128 of 32-bit lanes, and a launch on registers in canonical form. -/
theorem test_hyp_open_vector : (vtState 0x30B .none { a := [(0, 64)] }).canon = true ∧
    64 ≤ (({ a := [(1, 64)] } : VTile).areg 1).toNat ∧ (vAt 6 0 (128 <<< 48)).vReady 0 0 6 0 .none noChk ∧
    4096 / tyWidth ((vAt 6 0 (128 <<< 48)).vt 0).word.ty ≤ ((vAt 6 0 (128 <<< 48)).vt 0).word.imm ∧ Map.wf 0 ({ queue := [0x10], loaded := true } : VTile).a = true := by
  decide +kernel
theorem test_hyp_control : ∀ f ∈ [0, 1, 2, 3, 4], (vAt 12 f 0).vReady 0 0 12 f .none (fun _ _ => []) := by decide +kernel
theorem test_hyp_waits : (vtState 0x20C .waitc {}).vReady 0 0 12 2 .waitc (fun _ _ => []) ∧
    (vtState 0x30C .fence {}).vReady 0 0 12 3 .fence (fun _ _ => []) ∧
    reached (Map.get 0 ((vtState 0x20C .waitc {}).vt 0).cnt 0) 0 = true := by decide +kernel
/-- A branch on a1, which is not zero; a wait for a value of a1 that its counter has not reached. -/
theorem test_hyp_branch : (vtState 0x0400000C .none { a := [(1, 1)] }).vReady 0 0 12 0 .none (fun _ _ => []) ∧
    ((vtState 0x0400000C .none { a := [(1, 1)] }).vt 0).areg 1 = 1 ∧ reached 0 1 = false := by decide +kernel
def launchState : State := { units := [(38, { st := .run, xid := 1 })], vts := [(0, { queue := [0x10], loaded := true })] }
theorem test_hyp_launch : launchState.canon = true ∧ launchState.headCmd (uVt 0 0) = some 0x10 ∧ launchState.vtCode 0 0 0x10 = 0 := by
  decide +kernel
def endedState : State := { units := [(38, { st := .run })], vts := [(0, { launch := some { cmd := 0x10, ended := true } })] }
theorem test_hyp_launch_complete : endedState.canon = true ∧ (endedState.vt 0).launch = some { cmd := 0x10, ended := true } ∧
    (endedState.vt 0).xfers = [] ∧ (endedState.unit (uVt 0 0)).st = .run := by decide +kernel
theorem test_hyp_flit : Map.get [] (({ vts := [(0, { scFly := [(0, [7])] })] } : State).vt (kVt 0 0)).scFly 0 = [7] := by decide +kernel
/-! ## Scalar tiles -/

/-- Scalar tile 0 of partition 0, running, with instruction word w at PC 0 and registers x1 = 64 and x2 = b. -/
def stState (w : Nat) (wait : KWait) (b : Word64) (t : STile) : State :=
  { units := [(57, { st := .run, xid := 1 })], parts := [(0, { st := .bound, cid := 1 })],
    sts := [(0, { t with
      x := [(1, 64)] ++ (if b = 0 then [] else [(2, b)]), wait := wait,
      lm := ((List.range 4).map (fun i => (i, BitVec.ofNat 8 (w / 256 ^ i)))).filter (fun c => c.2 != 0) })] }
/-- The word of custom instruction f3, f7 with rd = x3, rs1 = x1 and rs2 = x2. -/
def kWordOf (f3 f7 : Nat) : Nat := 0x0B + 3 * 2 ^ 7 + f3 * 2 ^ 12 + 1 * 2 ^ 15 + 2 * 2 ^ 20 + f7 * 2 ^ 25

theorem test_hyp_kissue : let s := stState (kWordOf 0 0) .none 0 {}
    s.canon = true ∧ s.unitOperand 0 0 0 = some (uEng 0 0) ∧ (s.tile 0).rs1 = 64 ∧ (s.tile 0).rs2 = 0 ∧ (s.tile 0).userOk 64 64 false = true ∧
    (s.unit 0).portClosed = false ∧ (s.unit 0).fenced = false ∧ s.kat 0 0 0 0 .none = true ∧ s.creditOf 0 = 32 := by decide +kernel
theorem test_hyp_kissue_waits : (stState (kWordOf 0 0) .kissue 0 {}).kat 0 0 0 0 .kissue = true ∧
    ({ stState (kWordOf 0 1) .none 0 {} with eng := [(0, { cred := 0 })] } : State).creditOf 0 = 0 ∧
    (stState (kWordOf 0 1) .none 0 {}).kat 0 0 0 1 .none = true := by decide +kernel
theorem test_hyp_events : ((stState (kWordOf 1 0) .none 0 { evq := [5] }).tile 0).evq = [5] ∧
    ((stState (kWordOf 1 0) .none 0 { evq := [5] }).tile 0).userOk 64 16 true = true ∧
    (stState (kWordOf 1 0) .none 0 { evq := [5] }).kat 0 0 1 0 .none = true ∧ (stState (kWordOf 1 1) .none 0 {}).kat 0 0 1 1 .none = true ∧
    (stState (kWordOf 1 1) .kevwait 0 { evq := [5] }).kat 0 0 1 1 .kevwait = true := by decide +kernel
theorem test_hyp_kcwait : let s := stState (kWordOf 2 0) .none 0 {}
    s.unitOperand 0 0 (bits (s.tile 0).rs2 16 8) = some 0 ∧ s.kat 0 0 2 0 .none = true ∧
    reached (s.cntOf 0 (bits (s.tile 0).rs2 2 0)) 64 = false ∧ (stState (kWordOf 2 0) .kcwait 0 {}).kat 0 0 2 0 .kcwait = true := by
  decide +kernel
/-- A counter that stands at 64 has reached the value 64 of x1. -/
theorem test_hyp_kcwait_met : ({ stState (kWordOf 2 0) .none 0 {} with eng := [(0, { cnt := [(0, 64)] })] } : State).canon = true ∧
    reached (({ stState (kWordOf 2 0) .none 0 {} with eng := [(0, { cnt := [(0, 64)] })] } : State).cntOf 0 0) 64 = true := by decide +kernel
theorem test_hyp_kqctl : (stState (kWordOf 3 0) .none 0 {}).kat 0 0 3 0 .none = true ∧
    (stState (kWordOf 3 0) .none 0 {}).unitOperand 0 0 0 = some 0 := by decide +kernel
theorem test_hyp_kdrain : (stState (kWordOf 6 0) .none 0 {}).kat 0 0 6 0 .none = true ∧
    (stState (kWordOf 6 0) .kdrain 0 { issued := 1 }).kat 0 0 6 0 .kdrain = true := by decide +kernel
/-- A LOCAL range of 4096 bytes at address 0 and channel address 0, cached by the tile. -/
def rangeEnt : BitVec 256 := (4096 <<< 64) ||| (7 <<< 216)
theorem test_hyp_kpcvt : let s : State := { stState (kWordOf 4 0) .none 0 {} with
      units := [(57, { st := .run, xid := 1, cache := [{ idx := 0, epoch := 0, entry := rangeEnt }] })] }
    s.canon = true ∧ s.kat 0 0 4 0 .none = true ∧ s.cached 57 64 = some { idx := 0, epoch := 0, entry := rangeEnt } ∧ eKind rangeEnt = 0 := by
  decide +kernel
theorem test_hyp_kpcvt_miss : let s := stState (kWordOf 4 0) .none 0 {}
    s.kat 0 0 4 0 .none = true ∧ s.cached 57 64 = none := by decide +kernel
theorem test_hyp_kpcvt_host : let s := stState (kWordOf 4 1) .none 0 {}
    s.kat 0 0 4 1 .none = true ∧ (s.validSlots 1).findSome? (fun r => deviceView (s.hbOf 1) r.2.entry 64) = none ∧
    deviceView 0 ((4096 <<< 64) ||| (0x1000 <<< 128) ||| (2 <<< 208)) 0x1010 = some 16 := by decide +kernel
/-- A barrier 0 of composition 1 whose one member is the tile. -/
def barState (f7 arrived : Nat) : State :=
  { stState (kWordOf 5 f7) .none 0 { arrived := arrived } with bars := [(32, { defined := true, members := [mkLref 0 2 0] })] }
theorem test_hyp_barrier : (barState 0 0).canon = true ∧ (barState 0 0).kat 0 0 5 0 .none = true ∧ (barState 1 0).kat 0 0 5 1 .none = true ∧
    (barState 2 1).kat 0 0 5 2 .none = true := by decide +kernel
/-- x1 names barrier 64 mod 32 = 0, the tile is a member, the barrier is whole and the composition stays in the module. -/
theorem test_hyp_barrier_member : (barState 2 1).barMember 0 0 (((barState 2 1).tile 0).rs1.toNat % 32) = true ∧
    ((barState 2 1).bar 1 0).broken = false ∧ ((barState 2 1).comp 1).multi = false ∧ has ((barState 2 1).tile 0).arrived 0 = true := by decide +kernel
theorem test_hyp_kdma : (stState (kWordOf 7 0) .none 0 {}).kat 0 0 7 0 .none = true ∧
    (xferChk 0x80000 (stProg ((stState (kWordOf 7 0) .none 0 {}).tile 0).cfg) ((stState (kWordOf 7 0) .none 0 {}).tile 0).lm 64).any (fun c => c.2) = false := by
  refine ⟨by decide +kernel, ?_⟩
  have z : stProg ((stState (kWordOf 7 0) .none 0 {}).tile 0).cfg = 0 := by decide +kernel
  have h := zeroDesc_ok ((stState (kWordOf 7 0) .none 0 {}).tile 0).lm 64 0x80000 (by decide +kernel) (by decide)
  rw [z]; simpa [List.any_eq_false, List.all_eq_true] using h
theorem test_hyp_ecall : ((stState 0x73 .none 0 {}).unit (uSt 0 0)).st = .run ∧ ((stState 0x73 .none 0 {}).tile 0).kword = 0x73 ∧
    ((stState 0x73 .none 0 {}).tile 0).xreg 17 = 0 ∧ (stState 0x73 .none 0 {}).workOn (uSt 0 0) = none := by decide +kernel
/-- A custom word with funct7 3 is illegal: its trap reports cause 2. -/
theorem test_illegal : ((stState (kWordOf 0 3) .none 0 {}).tile 0).illegal = true ∧ ((stState (kWordOf 0 1) .none 0 {}).tile 0).illegal = false := by
  decide +kernel
theorem test_hyp_trap_stop : ((stState 0x73 .none 0 {}).tile 0).ended = none ∧ ((stState 0x73 .none 0 {}).ctx 1).st ≠ .resetting ∧
    ((stState 0x73 .none 0 {}).unit 57).ext = none := by decide +kernel
theorem test_hyp_arrive : let s : State := { bars := [(32, { defined := true, members := [0], arriving := 1, src := [0] })] }
    s.canon = true ∧ (s.bar 1 0).broken = false ∧ (s.bar 1 0).arriving = 1 ∧ (s.bar 1 0).n ≤ 1 ∧ (s.express 0 0 (barFlit 6 0 0 0)).isSome = true := by
  decide +kernel
theorem test_hyp_release : let s : State := { bars := [(32, { defined := true, members := [0], toRelease := [3] })] }
    s.canon = true ∧ (s.bar 1 0).toRelease.contains 3 = true ∧ (s.express 0 3 (barFlit 7 0 3 0)).isSome = true := by decide +kernel
theorem test_hyp_hold : ((engState { soft := .hold }).engine 0).soft = .hold := by decide +kernel
/-! ## Die network -/

/-- Flit f in flight to pool id, with every domain powered. -/
def netOn (id : Nat) (f : Flit) : State := { pwr := { doms := 2 ^ 165 - 1 }, net := { flights := [(id, f)] } }
/-- A command flit of VC0, to the endpoint of router d. -/
def cmdFlit (d : Nat) : Flit := { Flit.zero with dst := d, tail := true }

theorem test_hyp_flit_delivered : (netOn 0 (cmdFlit 0)).routerOn 0 = true ∧ (netOn 0 (cmdFlit 0)).landOpen 0 (RPort.num .loc) = true ∧ (netOn 0 (cmdFlit 0)).flightOf 0 (RPort.num .loc) (cmdFlit 0) = some 0 ∧
    kindVc 0 0 = some 0 ∧ (routeAt 0 (cmdFlit 0)).2 = 0 ∧
    ((((((netOn 0 (cmdFlit 0)).landOn 0 (cleanFlit (cmdFlit 0))).crossAll (landXings 0 0)).checkPool 0).router 0).linkFree 0 0 0) = true ∧
    ((((netOn 0 (cmdFlit 0)).landOn 0 (cleanFlit (cmdFlit 0))).crossAll (landXings 0 0)).checkPool 0).xingOpen (localXing 0) = true := by decide +kernel
theorem test_hyp_flit_goes_on : let s := (((netOn 0 (cmdFlit 1)).landOn 0 (cleanFlit (cmdFlit 1))).crossAll (landXings 0 0)).checkPool 0
    let t := routeAt 0 (cmdFlit 1)
    t.2 = 2 ∧ s.mayGo 0 t.2 0 (s.beyond 0 t.2 t.1) t.1 = true := by decide +kernel
theorem test_hyp_flit_dropped : kindVc 0 1 ≠ some 1 ∧
    (netOn 0 { cmdFlit 0 with eccBad := true }).flightOf 0 (RPort.num .loc) (cmdFlit 0) = none ∧
    (netOn 0 (cmdFlit 0)).flightOf 0 (RPort.num .loc) { cmdFlit 0 with eccBad := true } = some 0 := by decide +kernel
/-- The state of one dropped flit still runs; one whose entry is missing, and a pour flit whose group the router knows. -/
theorem test_hyp_flit_tree : let f : Flit := { Flit.zero with kind := 4, vc := 2 }
    let e : CEnt := { churn := false, cid := 0, group := 0, inMask := 1, outMask := 5 }
    ((netOn 0 { cmdFlit 0 with eccBad := true }).dropFlit 0 0).routerOn 0 = true ∧ kindVc 4 2 = some 2 ∧ kindVc 0 0 = some 0 ∧
    (netOn 0 f).entryOf 0 f = none ∧ ({ netOn 0 f with net := { routers := [(0, { ctab := [e] })] } } : State).entryOf 0 f = some e := by
  decide +kernel
/-- Router 0 with collective entry e and a flit of group 0 at its local input. -/
def treeOn (e : CEnt) (kind : Nat) : State :=
  { pwr := { doms := 2 ^ 165 - 1 }, net := { routers := [(0, { ctab := [e], inq := [⟨0, 0, { Flit.zero with kind := kind, vc := 2, tail := true, last := true }⟩] })] } }
theorem test_hyp_pour : let s := treeOn { churn := false, cid := 0, group := 0, inMask := 1, outMask := 5 } 4
    (s.router 0).inq.find? (fun y => y.port == 0 && y.flit.kind == 4) ≠ none ∧ (s.router 0).entry 0 0 false ≠ none ∧
    ((List.range 5).filter (has 5)).all (fun o => s.branchReady 0 o 0 { Flit.zero with kind := 4, vc := 2, tail := true, last := true }) = true ∧
    (s.comp 0).spanning 0 = false := by decide +kernel
theorem test_hyp_churn : let s := treeOn { churn := true, cid := 0, group := 0, inMask := 1, outMask := 1 } 5
    (s.router 0).entry 0 0 true ≠ none ∧ (((List.range 5).filter (has 1)).filterMap (fun i => s.presented 0 i 0 0)).length = 1 ∧
    s.xingOpen (localXing 0) = true := by decide +kernel
/-- A node that is not the root, and a group of one module, whose window is always ready. -/
theorem test_hyp_churn_node : let s := treeOn { churn := true, cid := 0, group := 0, inMask := 1, outMask := 4 } 5
    s.winReady 0 0 = true ∧ (List.range 5).find? (has 4) = some 2 ∧ s.branchReady 0 0 (nodeInput 0 0) Flit.zero = true ∧
    s.branchReady 0 2 (nodeInput 0 0) Flit.zero = true := by decide +kernel
/-- Two inputs that end unequally. -/
theorem test_hyp_churn_break : let x : Held := ⟨0, 0, Flit.zero⟩
    [({ x with flit := { Flit.zero with fidx := 1 } } : Held)].any (fun y => y.flit.fidx != x.flit.fidx) = true := by decide +kernel
theorem test_hyp_router_faulty : (State.reset.router 5).faulty = false ∧
    (({ net := { routers := [(5, { faulty := true })] } } : State).router 5).faulty = true := by decide +kernel
theorem test_hyp_link : (State.reset.dlink 39).failed = false ∧ (within 0 1000 (State.reset.dlink 39).replays).length < 16 ∧
    (16 ≤ (within 0 1000 (({ net := { links := [(3, { replays := List.replicate 15 0 })] } } : State).dlink 3).replays).length) := by decide +kernel
/-- Pool 0 of the local input of router 0, as given. -/
def poolOn (p : Pool) : State := { net := { pools := [(0, some p)] } }
theorem test_hyp_credit : 0 < ((poolOn { held := 7, fly := 1, ret := 1 }).pool 0).ret := by decide +kernel
theorem test_hyp_audit_inject : (State.reset.pool 0).ready = true ∧ (State.reset.pool 0).audit = none ∧ (State.reset.pool 0).answer = none := by
  decide +kernel
theorem test_hyp_audit_queue : State.reset.betweenPackets 0 = true ∧ ((poolOn { held := 7, ret := 1, cs := 1, answer := some 1 }).pool 0).answerFirst = false ∧
    (({ net := { pools := [(2 ^ 21, some { held := 0, resolving := true })] } } : State).pool (2 ^ 21)).resolving = true ∧
    Map.get 0 State.reset.net.qSent (2 ^ 21) = Map.get 0 State.reset.net.qBack (2 ^ 21) ∧ State.reset.queueHeld (2 ^ 21) = poolSize (2 ^ 21) ∧
    ({ eng := [(0, { cred := 31 })] } : State).queueHeld (2 ^ 21) ≠ poolSize (2 ^ 21) := by decide +kernel
theorem test_hyp_audit_arrive : (({ net := { pools := [(0, some { held := 7, fly := 1, s := 1, audit := some 1 })], flights := [(0, auditFlit 0)] } } : State).pool 0).audit = some 1 ∧
    (({ net := { pools := [(0, some { held := 7, fly := 1, s := 1, audit := some 1 })], flights := [(0, auditFlit 0)] } } : State).nextFlit 0) = some (auditFlit 0) := by
  decide +kernel
theorem test_hyp_audit_answer : ((poolOn { held := 8, cs := 3, answer := some 3 }).pool 0).answer = some 3 ∧
    BitVec.ofNat 32 ((poolOn { held := 8, cs := 3, answer := some 3 }).pool 0).ret ≤ (3 : Word32) - 3 := by decide +kernel
theorem test_hyp_audit_resolve : ((poolOn { held := poolSize 0, resolving := true }).pool 0).held = poolSize 0 ∧
    ((poolOn { held := 3, resolving := true }).pool 0).held ≠ poolSize 0 ∧ ((poolOn { held := 3, resolving := true }).pool 0).resolving = true := by decide +kernel
/-- Crossing 7 as given. -/
def xingOn (x : Xing) : State := { net := { xings := [(7, x)] } }
theorem test_hyp_crossing : Map.wf {} State.reset.net.xings = true ∧ (State.reset.xing 7).service = false ∧
    ((xingOn { service := true }).xing 7).service = true ∧ (xingOn { clockStopped := true }).xingData 7 = 0 := by decide +kernel
/-- A flit in flight to a pool of the local input of router 0 crosses its unit's crossing. -/
theorem test_hyp_crossing_data : let s := { netOn 0 (cmdFlit 0) with net := { flights := [(0, cmdFlit 0)], xings := [(0, { clockStopped := true })] } }
    (s.xing 0).service = false ∧ (s.xing 0).clockStopped = true ∧ 0 < s.xingData 0 := by decide +kernel
theorem test_hyp_rsync : ((xingOn {}).xing 7).rsync = 0 ∧ (∀ e ∈ xingFrom 7, (∀ z ∈ (xingOn {}).net.flights, poolSite z.1 = e → z.2.kind ≠ 8 →
      (xingOn {}).oldFlit z.2 = false) ∧ ∀ z ∈ ((xingOn {}).router e.1).inq, z.port = e.2 → (xingOn {}).oldFlit z.flit = false) ∧
    ((xingOn { rsync := 1 }).xing 7).rsync = 1 ∧ xingPools 7 = [] ∧
    ((xingOn { rsync := 1 }).xing 7).held + (((xingOn { rsync := 1 }).xing 7).sent - ((xingOn { rsync := 1 }).xing 7).credRcvd).toNat = 16 := by decide +kernel

/-! ## Cultures, compositions and state tokens -/

/-- Composition 1 as given, with a journal writer. -/
def compOn (x : Comp) : State := { comps := [(1, x)], jrn := { writer := 1 } }
/-- An operation of a composition. -/
def opOf (k : OpKind) : CompOp := { kind := k, req := Request.zero }
/-- A staged partial culture with no frames. -/
def partCulture : Culture :=
  { handle := 7, part := true, flags := 0, lparts := 0, signer := 5, base := 0, digest := 9, frames := [], kind := 0, addr := 0, len := 16, port := 0 }
def stagedState : State :=
  { comps := [(1, { st := .active })], staged := [partCulture], sec := { signers := [(0, some { id := 5, rsa := [], slh := [] })] },
    host := { ports := [(0, { st := .up })] } }
def req (p0 : Word64) : Request := { Request.zero with cid := 1, p0 := p0 }

/-- The frames of a culture of one partition: its scalar tile 0 runs an image of one instruction and issues to every engine. -/
def zeros (n : Nat) : List Byte := List.replicate n 0
def miniFrames : List Machine.Frm :=
  [⟨1, 0, [1, 1] ++ zeros 14⟩,
   ⟨2, 0, (List.replicate 36 ([0, 0, 2, 0, 2, 0, 1] ++ zeros 9)).flatten⟩,
   ⟨3, 0, (List.replicate 18 ([0, 0, 0xFF, 0xFF] ++ zeros 4 ++ List.replicate 4 0xFF ++ zeros 4)).flatten⟩,
   ⟨4, 0, [0, 0, 0, 0, 64] ++ zeros 11 ++ [128] ++ zeros 15 ++ (List.replicate 3 ([0xFF, 0xFF] ++ zeros 30)).flatten⟩,
   ⟨5, 0, [1] ++ zeros 7 ++ [2] ++ zeros 9⟩,
   ⟨9, 0, [8, 1, 0, 0, 32] ++ zeros 19⟩, ⟨11, 0, [1, 0, 1, 0, 1] ++ zeros 3⟩, ⟨12, 0, [0, 0, 0, 0, 0x90, 1, 1] ++ zeros 6 ++ [4] ++ zeros 2⟩, ⟨13, 0, [0, 0, 1] ++ zeros 5⟩]
theorem test_culture_stages : stage7 1 miniFrames = 0 ∧ stage8 1 false miniFrames = 0 := by decide +kernel
/-- The same culture with engine 5 issued by the idle tile 1. -/
theorem test_culture_issuer : stage8 1 false (miniFrames.map (fun f => if f.typ = 2 then { f with body := f.body.set 80 1 } else f)) = 0x0611 := by
  decide +kernel

theorem test_hyp_stage : stagedState.storeBytes 0 0 0 16 = some (List.replicate 16 0) ∧ stagedState.validate (List.replicate 16 0) ≠ 0 := by
  decide +kernel
theorem test_hyp_bind : stagedState.staged.find? (fun k => k.handle == (req 7).p0.toNat) = some partCulture ∧
    (stagedState.useStaged 7).stage2 partCulture.signer = 0 ∧ stagedState.freeCids = 0 :: (List.range 256).drop 1 := by decide +kernel
theorem test_hyp_cid : State.reset.canon = true ∧ State.reset.freeCids.Nodup := by decide +kernel
theorem test_hyp_apply : let x : Comp := { st := .active, lparts := 1, frames := miniFrames, groups := [⟨0, 0⟩], place := [(0, 3)] }
    let k : Culture := { partCulture with lparts := 1 }
    applyCheck x k = 0 ∧ (State.placeRebind { comps := [(1, x)] } 1 (x.opFor k (req 7))).1 = 0 ∧ wsetsOf (x.opFor k (req 7)).newFrames = [] ∧
    k.base = x.eff := by decide +kernel
theorem test_hyp_load : (compOn { op := some { opOf .bind with loads := [(3, 5, 0)] } }).comp 1 = { op := some { opOf .bind with loads := [(3, 5, 0)] } } ∧
    ({ opOf .bind with loads := [(3, 5, 0)] } : CompOp).loads.contains (3, 5, 0) = true := by decide +kernel
theorem test_hyp_bind_commit : let s := compOn { st := .binding, op := some (opOf .bind) }
    s.canon = true ∧ (s.comp 1).op = some (opOf .bind) ∧ s.bindReady 1 (opOf .bind) = true ∧
    (compOn { st := .binding, op := some (opOf .restore) }).bindReady 1 (opOf .restore) = true ∧
    (compOn { st := .binding, groups := [⟨0, 0⟩] }).bindReady 1 { opOf .bind with targets := [(0, 3)], loads := [(3, 5, 0)] } = false := by
  decide +kernel
theorem test_hyp_begin : (compOn { st := .active, op := some (opOf .fast) }).canCommit = true ∧ (opOf .fast).begun = false := by decide +kernel
theorem test_hyp_prepared : (compOn { st := .rebinding, op := some { opOf .fast with begun := true } }).comp 1 =
      { st := .rebinding, op := some { opOf .fast with begun := true } } ∧
    ({ st := .rebinding } : Comp).preparable { opOf .fast with begun := true } = true := by decide +kernel
theorem test_hyp_drained : let o : CompOp := { opOf .fast with begun := true, prepared := true }
    let s := compOn { st := .rebinding, groups := [⟨0, 0⟩], op := some o }
    (s.stage 1 0).work = none ∧ (s.comp 1).groups.any (fun y => y.first == 0) = true ∧ s.oldWorkOn 1 (some 0) = false := by decide +kernel
theorem test_hyp_moved : let s := compOn { st := .reshaping, groups := [⟨0, 0⟩], op := some { opOf .slow with moved := [0] } }
    s.canon = true ∧ (s.comp 1).st = .reshaping ∧ ({ opOf .slow with moved := [0] } : CompOp).moved.contains 0 = true := by decide +kernel
theorem test_hyp_moved_free : ((compOn { st := .reshaping, groups := [⟨0, 0⟩], op := some { opOf .slow with moved := [0] } }).stage 1 0).resident = none := by
  decide +kernel
theorem test_hyp_rebind_commit : let o : CompOp := { opOf .fast with begun := true, prepared := true }
    (compOn { st := .rebinding, op := some o }).rebindReady 1 o = true ∧ (compOn { st := .rebinding, op := some (opOf .fast) }).rebindReady 1 (opOf .fast) = false ∧
    (compOn { st := .impaired, op := some { opOf .repair with prepared := true } }).repairReady 1 { opOf .repair with prepared := true } = true ∧
    (compOn { st := .impaired, op := some (opOf .repair) }).repairReady 1 (opOf .repair) = false := by decide +kernel
theorem test_hyp_rebind_end : let s := compOn { ending := true, toRelease := [3] }
    s.canCommit = true ∧ (s.comp 1).ending = true := by decide +kernel
theorem test_hyp_tokens_hold : let o : CompOp := { opOf .fast with removed := [0], drainBy := some 0 }
    let s : State := { compOn { st := .rebinding, groups := [⟨0, 0⟩], place := [(0, 3)], op := some o } with
                       tokens := [(1, { st := .owned, cid := 1, pool := localPool 0 3 0 })] }
    (s.comp 1).op = some o ∧ o.drainBy.isSome = true ∧ s.tokensHold 1 o = true := by decide +kernel
theorem test_hyp_quiesced : let s := compOn { st := .quiescing, op := some (opOf .slow) }
    s.workOfComp 1 = [] ∧ (s.comp 1).st = .quiescing ∧ (compOn { st := .impaired, op := some (opOf .repair) }).repairBusy 1 = false := by decide +kernel
/-- Nothing is left to save, or a context is still resident on stage 0 of composition 1. -/
theorem test_hyp_still_saves : let s := compOn { st := .quiescing, op := some (opOf .slow) }
    (s.saveAll 1).stillSaves 1 = false ∧ ({ opOf .slow with removed := [0] } : CompOp).removed ≠ [] ∧
    (let t : State := { compOn { st := .quiescing, op := some (opOf .slow), lparts := 1, place := [(0, 0)], frames := miniFrames, groups := [⟨0, 0⟩] } with
        units := [(0, { st := .run, xid := 4 })], parts := [(0, { st := .bound, cid := 1 })],
        eng := [(0, { dma := { exe := some { cmd := dmaCmd 2, seq := 0 } } })], sch := { stages := [(64, { resident := some 4 })] } }
     (t.saveAll 1).stillSaves 1 = true) := by decide +kernel
/-- Ready work of the lost group of an impaired composition. -/
def zeroWork : Work :=
  { desc := [], cid := 1, xid := 4, skim := false, batch := 0, asBatch := 0, npUs := 0, stages := [0], tokens := [], port := 0, func := 0, ring := 0,
    slot := 0, readAt := 0, boundNs := 0, own := [] }
theorem test_hyp_repair_hold : let s : State := { comps := [(1, { st := .impaired, lostGroups := [0] })], sch := { works := [(2, some zeroWork)] } }
    s.work 2 = some zeroWork ∧ (s.comp 1).st = .impaired ∧
    zeroWork.stages.any (fun g => (s.comp 1).lostGroups.contains g && decide (zeroWork.on g = .ready)) = true := by decide +kernel
theorem test_hyp_unbind : ((compOn {}).comp 1).st = .free ∧ bit (0 : Word64) 0 = false ∧ ((compOn { st := .active }).comp 1).op = none := by decide +kernel
theorem test_hyp_unbind_end : let s := compOn { st := .unbinding }
    s.canon = true ∧ s.canCommit = true ∧ (s.comp 1).st = .unbinding ∧ s.ctxsOf 1 = [] ∧ s.fnsOf 1 = [] := by decide +kernel
theorem test_hyp_repair : let s := compOn { st := .impaired, storeLen := 16 }
    s.canCommit = true ∧ (s.comp 1).op = none ∧ s.storeGood 1 = false := by decide +kernel
theorem test_hyp_comp_restore : let s := compOn { st := .binding, restoring := true, storeLen := 16 }
    s.restoreFirst 1 = false ∧ s.storeReady 1 = false ∧ s.boot.storeWait.contains 1 = false ∧ s.boot.cold = false := by decide +kernel
/-- An empty store that a host port serves holds the cultures of an empty chain. -/
theorem test_hyp_store_good : let s : State := { compOn { st := .binding, restoring := true } with host := { ports := [(0, { st := .up })] } }
    s.storeReady 1 = true ∧ s.storeGood 1 = true ∧ (s.comp 1).weights = [] := by decide +kernel
/-- Context 4 of composition 1, of the client that asks; partition 3 is bound as its logical partition 0. -/
def tokenState (t : Map Token) : State :=
  { parts := [(3, { st := .bound, cid := 1 })], comps := [(1, { st := .active, place := [(0, 3)] })], ctxs := [(4, { st := .idle, cid := 1 })],
    tokens := t, jrn := { writer := 1 } }
def tokReq (p0 : Word64) : Request := { Request.zero with xid := 4, p0 := p0 }
theorem test_hyp_token_new : (tokenState []).ownsCtx (tokReq 0) = true ∧ (tokenState []).poolNamed 1 0 = some (localPool 0 3 0) := by decide +kernel
def ownedTok : Token := { st := .owned, cid := 1, xid := 4, pool := localPool 0 3 0 }
theorem test_hyp_token_move : let s := tokenState [(1, ownedTok)]
    s.canon = true ∧ s.ownsCtx (tokReq 1) = true ∧ s.token 1 = ownedTok ∧ s.poolNamed 1 0 = some (localPool 0 3 0) := by decide +kernel
theorem test_hyp_handoff : let s := tokenState [(1, { ownedTok with st := .sending, peer := localPool 0 3 0 })]
    s.canCommit = true ∧ (s.token 1).st = .sending ∧ s.poolFresh (s.token 1).peer = true ∧ s.poolFresh (localPool 0 3 1) = false ∧
    s.poolGen (localPool 0 3 0) = true ∧ s.poolGen (localPool 0 3 1) = false := by decide +kernel
theorem test_hyp_handoff_ack : ((tokenState [(1, { ownedTok with owed := [⟨0, 0, Request.zero⟩] })]).token 1).owed = [⟨0, 0, Request.zero⟩] ∧
    (tokenState []).ownsCtx Request.zero = false := by decide +kernel
theorem test_hyp_records_meet : ({ ownedTok with st := .sending } : Token).st ≠ .none ∧ ({ ownedTok with epoch := 1 } : Token).epoch = ({ ownedTok with st := .sending } : Token).epoch + 1 ∧
    ({ ownedTok with pool := 1 } : Token).pool ≠ ownedTok.pool := by decide +kernel
/-! ## Memory tiers, address ranges and faults -/

/-- Channel 0 of partition 0 as given. -/
def chanOn (c : Chan) : State := { chans := [(0, c)] }
/-- A request of the engine of router 0, and one of the management of I/O die 0. -/
def engSender : Sender := ⟨0, false⟩
theorem test_hyp_access : let s := chanOn { st := .ready }
    s.canon = true ∧ masterOf engSender = some .dma ∧ (s.chan 0).st = .ready ∧ s.tableCount 0 < 256 ∧
    (s.chan 0).inBudget 0 ((s.chan 0).outOf 0 + 1) = true ∧ s.inPoisonedSet 0 0 = false ∧ (Map.get {} (s.chan 0).secs 0).isPoison = false ∧
    ((0 : BitVec 13).toNat.testBit 12) = false := by decide +kernel
theorem test_hyp_access_key : let s := chanOn { st := .ready }
    ((0x1000 : BitVec 13).toNat.testBit 12) = true ∧ (Map.get [] s.sec.caches 0).contains 0 = false ∧ masterOf ⟨0, true⟩ = some .save ∧
    Sector.poison.isPoison = true := by decide +kernel
/-- A router that holds no unit sends nothing; the full table of 256 requests makes a router hold the next. -/
theorem test_hyp_access_held : let r : MemReq := { ch := 0, off := 0, keysel := 0x1000, cls := 0, op := 0, data := 0, mask := 0, err := .clean }
    256 ≤ (chanOn { st := .ready, waiting := List.replicate 256 r }).tableCount 0 ∧ masterOf ⟨0x1020, false⟩ = none := by decide +kernel
theorem test_hyp_upkeep : ((chanOn { st := .ready }).chan 0).st = .ready ∧ (({ parts := [(0, { st := .free })] } : State).partInReset 0) = false ∧
    (({ sec := { slots := [(0, { hold := .shared 1 })] } } : State).kslot 0).hold ≠ .free := by decide +kernel
theorem test_hyp_repair_reset : let s : State := { parts := [(0, { st := .free })], chans := [(0, { st := .ready, rows := [5] })] }
    (s.part 0).st = .free ∧ s.rowsQueued 0 = [0] := by decide +kernel
/-- A poisoned weight set of 16 bytes with its golden copy on host port 0, and a shared keyslot; and one whose copy is on a far port that is down. -/
def setState (kind : Nat) : State :=
  { comps := [(1, { st := .active, weights := [(0, { len := 16, golden := kind, poisoned := true })] })],
    sec := { slots := [(0, { hold := .shared 1 })] }, host := { ports := [(0, { st := .up })] } }
theorem test_hyp_reload : let x := Map.get {} ((setState 2).comp 1).weights 0
    x.poisoned = true ∧ (setState 2).golden 1 x = some (List.replicate 16 0) ∧ (setState 2).sharedSlot 1 = some 0 ∧ x.fails < 2 := by decide +kernel
theorem test_hyp_reload_fails : (setState 1).golden 1 (Map.get {} ((setState 1).comp 1).weights 0) = none := by decide +kernel
theorem test_hyp_thermal : let s : State := { parts := [(0, { holds := [.thermal] })], cool := [(0, 1), (1, 1)], now := 1000000000 }
    (s.part 0).holds.contains .thermal = true ∧ s.coolEnough 0 = true := by decide +kernel
/-- Far port 0 as given. -/
def farOn (f : Far) : State := { far := [(0, f)], pwr := { doms := 2 ^ 165 - 1 } }
theorem test_hyp_far_enable : (farOn { present := true }).canon = true ∧ ((farOn { present := true }).farP 0).st = .down ∧
    (farOn { present := true }).domOn (domFar 0) = true ∧ ((farOn { present := true }).farP 0).present = true := by decide +kernel
theorem test_hyp_far_train : ((farOn { st := .training }).farP 0).st = .training ∧ farLinkOk 8 64 = true ∧ ((farOn { st := .training }).farP 0).st ≠ .ready := by
  decide +kernel
theorem test_hyp_far_config : ((farOn { st := .config, enable := true }).farP 0).st = .config ∧ ((farOn { st := .config, enable := true }).farP 0).enable = true ∧
    ((farOn { st := .config, enable := true }).farP 0).ideReq = true := by decide +kernel
/-- A range of kind FAR at address 0 of far port 0. -/
theorem test_hyp_far_ready : let s : State := { farOn { st := .ready, enable := true } with
      xlt := { slots := [(0, { st := .valid, entry := (4096 <<< 64) ||| (1 <<< 208) ||| (1 <<< 216) })] } }
    s.canon = true ∧ (s.farP 0).st = .ready ∧ s.farTargeted 0 = true := by decide +kernel

/-- Context 4 of composition 1; index 0 of its range table as given. -/
def rangeState (k : RSlot) (units : Map UnitC) : State :=
  { ctxs := [(4, { st := .idle, cid := 1 })], units := units, xlt := { slots := if k = {} then [] else [(4096 * 4, k)] },
    comps := [(1, { st := .active, lparts := 1, place := [(0, 0)], frames := miniFrames, groups := [⟨0, 0⟩] })], parts := [(0, { st := .bound, cid := 1 })] }
def mapReq (e : BitVec 256) : Request := { Request.zero with xid := 4, entry := e }
/-- A LOCAL entry of 4096 bytes is accepted under the context's keyslot 0, and refused in the clear. -/
theorem test_hyp_map : (rangeState {} []).entryCheck 4 (rangeEnt ||| (0x1000 <<< 192)) = 0 ∧ (rangeState {} []).canon = true ∧ (rangeState {} []).ownsCtx (mapReq rangeEnt) = true ∧
    ((rangeState {} []).slot 4 0).st = .invalid ∧ (rangeState {} []).entryCheck 4 rangeEnt ≠ 0 := by decide +kernel
def validSlot : RSlot := { st := .valid, entry := rangeEnt }
theorem test_hyp_unmap : ((rangeState validSlot []).slot 4 0).st = .valid ∧ (rangeState validSlot []).ctxUnits 4 = [] ∧
    (rangeState validSlot [(0, { st := .run, xid := 4 })]).ctxUnits 4 = [0] ∧ (rangeState validSlot []).ownsCtx Request.zero = false := by decide +kernel
/-- XLT core n runs. -/
def coreOn (n : Nat) : State := { fw := { cores := [(3 + n, { st := .running, beat := true })] } }
theorem test_hyp_miss : (coreOn 0).roleHalted 2 = false ∧ ((coreOn 0).coreS 3).st = .running ∧ xltOf (dieOf 0) = 0 ∧
    (coreOn 1).roleHalted 2 = false ∧ ((coreOn 1).coreS 3).st ≠ .running ∧ ((coreOn 1).coreS 4).st = .running := by decide +kernel
/-- Engine 0 of partition 0 waits for an access of context 4 at address 0, gone to core 0. -/
def missState (k : RSlot) : State :=
  { rangeState k [(0, { st := .run, xid := 4, miss := some { xid := 4, va := 0, len := 64, acc := 0, core := some 0 } })] with
    fw := { cores := [(3, { st := .running, beat := true })] } }
theorem test_hyp_miss_reply : (missState {}).canon = true ∧ ((missState {}).unit 0).miss ≠ none ∧ (missState {}).xltFor 0 ≠ none ∧
    (missState {}).slotAt 4 0 = none ∧ (missState validSlot).slotAt 4 0 = some (0, validSlot) ∧ eHas rangeEnt 63 = true := by decide +kernel
def wdState (toSend waitFor : List Nat) : State := { xlt := { wds := [⟨4, 0, toSend, waitFor, Request.zero⟩] } }
theorem test_hyp_withdraw : (wdState [0] []).xlt.wds.any (fun w => w.xid == 4 && w.idx == 0 && w.toSend.contains 0) = true ∧
    (wdState [] [0]).xlt.wds.any (fun w => w.xid == 4 && w.idx == 0 && w.waitFor.contains 0) = true ∧
    (((wdState [] [0]).unit 0).cache.any (fun c => c.idx == 0 && decide (0 < c.out))) = false ∧
    (wdState [0] []).xlt.wds.find? (fun w => w.xid == 4 && w.idx == 0) ≠ none := by decide +kernel
/-- A fault of context 4 is detected; its queue as given. -/
def faultState (fatal : Bool) (q : FaultQ) : State :=
  { ctxs := [(4, { st := .idle, cid := 1 })],
    xlt := { faults := [⟨1, 0x0302, 0, fatal, false, false, 4, 0, 0xFFFF, 0, 0, 0⟩], fqs := [(1, q)] }, host := { ports := [(0, { st := .up, ide := true })] } }
theorem test_hyp_fault : ∀ b ∈ [true, false], (faultState b { base := 1 }).canon = true ∧ ((faultState b { base := 1 }).fq 1).base ≠ 0 ∧
    (faultState b { base := 1 }).hostUp ((faultState b { base := 1 }).comp 1).fqPort = true ∧
    ((faultState b { base := 1 }).fq 1).occ < 1023 ∧ ((faultState b { base := 1 }).fn ((faultState b { base := 1 }).ctx 4).client).lease = .none ∧
    ((faultState b { base := 1 }).ctx 4).st ≠ .teardown := by decide +kernel
theorem test_hyp_fault_full : 1023 ≤ ((faultState true { base := 1, tail := 1023 }).fq 1).occ ∧ ((faultState true { base := 1, tail := 1023 }).fq 1).ovf = false := by
  decide +kernel
theorem test_hyp_head : let q := (faultState true { base := 1, tail := 5, head := 2 }).fq 1
    (q.tail + 2048 - 4) % 2048 ≤ q.occ ∧ q.occ < (q.tail + 2048 - 1) % 2048 ∧ ((faultState true { base := 1 }).fq 1).occ = 0 := by decide +kernel
/-! ## Contexts and scheduling -/

/-- Composition 1 of one partition, whose class skim is open and cream closed, and which may hold one context. -/
def miniComp : Comp := { st := .active, lparts := 1, frames := miniFrames, groups := [⟨0, 0⟩], place := [(0, 3)] }
def ctxState (x : Map Ctx) (y : Stage) (w : Map (Option Work)) : State :=
  { comps := [(1, miniComp)], ctxs := x, jrn := { writer := 1 }, parts := [(3, { st := .bound, cid := 1 })],
    sch := { stages := if y = {} then [] else [(64, y)], works := w } }
def oneCtx (st : XState) : Map Ctx := [(4, { st := st, cid := 1 })]
theorem test_hyp_ctx_create : miniComp.classOpen false = false ∧ miniComp.classOpen true = true ∧ ((ctxState [] {} []).ctxsOf 1).length < miniComp.maxCtx ∧
    miniComp.maxCtx ≤ ((ctxState (oneCtx .idle) {} []).ctxsOf 1).length ∧ (ctxState [] {} []).freeXid = some 0 ∧ (ctxState [] {} []).freeSlot = some 0 ∧
    (ctxState [] {} []).sec.debugActive = false ∧ ((ctxState [] {} []).copyTemplate 0 0 (templateOf miniFrames).zipIdx).1 = 0 := by decide +kernel
/-- Skim work of a context on the composition's stage. -/
def workOf (x : Nat) (st : Map WState) : Work :=
  { desc := [], cid := 1, xid := x, skim := true, batch := 0, asBatch := 0, npUs := 0, stages := [0], tokens := [], port := 0, func := 0, ring := 0,
    slot := 0, readAt := 0, boundNs := 0, own := [], st := st }
theorem test_hyp_ctx_destroy : (ctxState (oneCtx .idle) {} []).ownsCtx { Request.zero with xid := 4 } = true ∧
    (ctxState (oneCtx .idle) {} []).workOfCtx 4 = [] ∧ (ctxState (oneCtx .waiting) {} [(0, some (workOf 4 []))]).workOfCtx 4 ≠ [] := by decide +kernel
theorem test_hyp_teardown : let s := ctxState (oneCtx .teardown) {} []
    s.canon = true ∧ s.canCommit = true ∧ (s.ctx 4).st = .teardown ∧
    (s.ctxUnits 4).all (fun u => !s.npRunning u && (s.stepOn .engine u).isNone && (s.unit u).ext.isNone) = true ∧
    ((ctxState (oneCtx .idle) {} []).ctx 4).st ≠ .teardown := by decide +kernel
/-- Ring 0 of client 0, its head slot holding a descriptor of type t, whose notice has come. -/
def ringState (t : Byte) : State :=
  { host := { fns := [(0, { valid := true, cid := 1, lease := .held, notices := [sqOffset 0 6 0 / 64], rings := [(0, { enable := true, on := true })],
                            region := if t = 0 then [] else [(sqOffset 0 6 0, t)] })] } }
theorem test_hyp_descriptor : ∀ t ∈ [0, 1, 2], (ringState t).readsRings 0 = true ∧ ((ringState t).ring 0 0).on = true ∧
    ((ringState t).fn 0).notices.contains (sqOffset 0 ((ringState t).ring 0 0).sqLog2 0 / 64) = true ∧ (ringState t).schAway t.toNat 0 = false ∧
    ((ringState t).fn 0).granted.contains (sqOffset 0 6 0 / 64 + 1) = false ∧
    fle (((ringState t).fn 0).region.rdN (sqOffset 0 6 0) 128) 0 1 = t.toNat ∧ 2 ≤ ((ringState t).ring 0 0).free ∧
    ((ringState t).comp 1).readable 0 = true ∧ ((ringState t).fn 0).ctlOut < 1024 := by decide +kernel
/-- The host holds the descriptor's second line. -/
theorem test_hyp_recall : (({ host := { fns := [(0, { granted := [sqOffset 0 6 0 / 64 + 1] })] } } : State).fn 0).granted.contains
    (sqOffset 0 6 0 / 64 + 1) = true := by decide +kernel
theorem test_hyp_work_start : let s := ctxState (oneCtx .waiting) { resident := some 4 } [(0, some (workOf 4 []))]
    s.work 0 = some (workOf 4 []) ∧ ((s.settleStage 1 0).stage 1 0).work = none ∧ ((s.settleStage 1 0).stage 1 0).phase = .quiet ∧
    (((s.settleStage 1 0).stageUnits 1 0).any (fun u => ((s.settleStage 1 0).unit u).retired)) = false ∧
    (s.settleStage 1 0).pick 1 0 = some (0, workOf 4 []) := by decide +kernel
theorem test_hyp_work_switch : ((ctxState (oneCtx .waiting) {} [(0, some (workOf 4 []))]).pick 1 0) = some (0, workOf 4 []) ∧
    ((ctxState (oneCtx .waiting) { resident := some 5 } [(0, some (workOf 4 []))]).pick 1 0) = some (0, workOf 4 []) := by decide +kernel
theorem test_hyp_work_complete : (workOf 4 [(0, .done)]).stages.all (fun g => decide ((workOf 4 [(0, .done)]).on g = .done)) = true ∧
    (workOf 4 []).stages.all (fun g => decide ((workOf 4 []).on g = .done)) = false := by decide +kernel
/-- A stage that is saving context 4 for context 5, its units halted. -/
theorem test_hyp_save_done : let s := ctxState [(4, { st := .switching, cid := 1 }), (5, { st := .waiting, cid := 1 })] { resident := some 4, phase := .saving 4 (some 5) } []
    (s.stage 1 0).phase = .saving 4 (some 5) ∧ (s.stopStage 1 0).stageHalted 1 0 = true ∧ s.canRestore 5 = true := by decide +kernel
theorem test_hyp_restore_done : let s := ctxState (oneCtx .waiting) { phase := .restoring 4 } []
    (s.stage 1 0).phase = .restoring 4 ∧ s.canRestore 4 = true ∧ s.underWay 1 0 4 = none := by decide +kernel
/-- A stage that saves context 4 for none while a unit is still in a non-pre-emptible command; a context that may no longer be restored; work
under way on the stage. -/
theorem test_hyp_switch_more : let s := ctxState (oneCtx .switching) { resident := some 4, phase := .saving 4 none } []
    let np : State := { s with units := [(183, { st := .run, xid := 4 })], eng := [(114, { dma := { exe := some { cmd := dmaCmd 2, seq := 0 } } })] }
    (s.stopStage 1 0).stageHalted 1 0 = true ∧ (np.stopStage 1 0).stageHalted 1 0 = false ∧
    (ctxState (oneCtx .teardown) { phase := .restoring 4 } []).canRestore 4 = false ∧
    ((ctxState (oneCtx .waiting) { phase := .restoring 4 } [(0, some (workOf 4 [(0, .started)]))]).underWay 1 0 4).isSome = true := by decide +kernel
/-- Skim work 0 of context 4 runs; work 1 of context 5 is ready, skim or cream. -/
def busyStage (skim : Bool) (b : Nat) : State :=
  ctxState [(4, { st := .running, cid := 1 }), (5, { st := .waiting, cid := 1 })] { work := some 0, resident := some 4, budget := b }
    [(0, some (workOf 4 [(0, .started)])), (1, some { workOf 5 [] with skim := skim })]
theorem test_hyp_slice : (busyStage true 0).settleStage 1 0 = busyStage true 0 ∧ (busyStage true 0).runsSkim 1 0 true = true ∧
    (busyStage true 0).pickSkim 1 0 (((busyStage true 0).eligible 1 0 true).filter (fun e => e.2.xid != 4)) = some (1, workOf 5 []) ∧
    (busyStage true 0).pickCream 1 0 = none ∧ ((busyStage false 9).pickCream 1 0).map (fun e => e.1) = some 1 ∧
    0 < ((busyStage false 9).stage 1 0).budget ∧ ((busyStage false 9).stage 1 0).empty = false := by decide +kernel
/-- The running context's own work is picked where it is urgent; with no ready skim work a new slice starts, or, while skim is parked, the stage
stops. A cream context waits while skim is saved or restored. -/
theorem test_hyp_slice_more : (({ busyStage true 0 with sch := { (busyStage true 0).sch with park := true } } : State).pickSkim 1 0 []) = none ∧
    ((busyStage true 0).ctx 4).skim = false ∧
    (let s := ctxState [(4, { st := .switching, cid := 1, skim := true }), (5, { st := .waiting, cid := 1 })]
        { resident := some 4, budget := 9, phase := .saving 4 none } [(1, some { workOf 5 [] with skim := false })]
     ((s.settleStage 1 0).pickCream 1 0).map (fun e => e.1) = some 1 ∧ ((s.settleStage 1 0).stage 1 0).phase = .saving 4 none ∧
     ((s.settleStage 1 0).ctx 4).skim = true ∧ ((s.settleStage 1 0).stage 1 0).empty = false ∧ 0 < ((s.settleStage 1 0).stage 1 0).budget) ∧
    (let s := ctxState [(4, { st := .waiting, cid := 1, skim := true }), (5, { st := .waiting, cid := 1 })]
        { budget := 9, phase := .restoring 4 } [(1, some { workOf 5 [] with skim := false })]
     ((s.settleStage 1 0).pickCream 1 0).map (fun e => e.1) = some 1 ∧ ((s.settleStage 1 0).stage 1 0).phase = .restoring 4 ∧
     ((s.settleStage 1 0).ctx 4).skim = true) := by decide +kernel
theorem test_hyp_budget : let s := (ctxState [(4, { st := .waiting, cid := 1 }), (5, { st := .running, cid := 1 })] { work := some 1, resident := some 5, empty := true }
      [(0, some (workOf 4 [])), (1, some { workOf 5 [(0, .started)] with skim := false })])
    (s.stage 1 0).empty = true ∧ s.runsSkim 1 0 false = true ∧ s.pickSkim 1 0 (s.eligible 1 0 true) = some (0, workOf 4 []) := by decide +kernel
/-- While the budget runs out on a stage that runs cream, skim work is ready, or none is. -/
theorem test_hyp_budget_empty : let x := (ctxState [(4, { st := .waiting, cid := 1 }), (5, { st := .running, cid := 1 })] { work := some 1, resident := some 5 }
      [(0, some (workOf 4 [])), (1, some { workOf 5 [(0, .started)] with skim := false })])
    let v := (x.settleStage 1 0).updStage 1 0 (fun y => { y with budget := 0, empty := true })
    (v.stage 1 0).phase = .quiet ∧ v.runsSkim 1 0 false = true ∧ (v.pickSkim 1 0 (v.eligible 1 0 true)).isSome = true ∧
    v.pickSkim 1 0 [] = none := by decide +kernel
/-! ## Fabric -/

/-- Fabric port 0 as given, node 0 of a torus of two nodes, with every domain powered. -/
def fabOn (x : FabPort) : State := { fab := { topo := 1, ports := [(0, x)] }, pwr := { doms := 2 ^ 165 - 1 } }
theorem test_hyp_fab_enable : (fabOn { cpres := true, role := 1 }).canon = true ∧ ((fabOn {}).fport 0).st = .down ∧ ((fabOn {}).fport 0).cpres = true ∧
    (fabOn {}).domOn (domPort 0) = true ∧ (fabOn {}).roleHalted 6 = false ∧ bit ((1 : Word32) &&& 0xFFF800F1) 0 = true ∧
    bit ((0 : Word32) &&& 0xFFF800F1) 0 = false ∧ bit ((fabOn { ctl := 1 }).fport 0).ctl 0 = true := by decide +kernel
theorem test_hyp_fab_train : ((fabOn { st := .detect }).fport 0).st = .detect ∧ ((fabOn { st := .equalize }).fport 0).st = .equalize ∧
    ((fabOn { st := .align }).fport 0).st = .align ∧ ((fabOn { st := .identify }).fport 0).st = .identify := by decide +kernel
/-- A peer of the same system, one of another system, one with this node's number, and one that is not the expected node. -/
def peer (sys : Word32) (n : Nat) : PeerId := ⟨sys, n, 1, 0, []⟩
theorem test_hyp_peer : let s := fabOn { st := .identify, ctl := 1 <<< 19 ||| 2 <<< 20 }
    (peer 0 2).system = s.fab.system ∧ (peer 0 2).node ≠ s.fab.node ∧ (peer 0 2).node = bits (s.fport 0).ctl 31 20 ∧
    (peer 9 2).system ≠ s.fab.system ∧ (peer 0 0).node = s.fab.node ∧ (peer 0 3).node ≠ bits (s.fport 0).ctl 31 20 ∧ bit (s.fport 0).ctl 19 = true := by
  decide +kernel
/-- Whether NODE_UP is owed. -/
theorem test_hyp_owed : (fabOn { st := .identify }).fab.upOwed = false ∧ ({ fab := { upOwed := true } } : State).fab.upOwed = true := by decide +kernel
theorem test_hyp_replay : ((fabOn { st := .active }).fport 0).st = .active ∧ (within 0 10000 ((fabOn { st := .active }).fport 0).replays).length < 16 ∧
    16 ≤ (within 0 10000 ((fabOn { st := .active, replays := List.replicate 15 0 }).fport 0).replays).length := by decide +kernel
theorem test_hyp_retrain : let s := fabOn { st := .retrain, peer := some (peer 0 2) }
    s.canon = true ∧ (s.fport 0).st = .retrain ∧ (s.fport 0).peer = some (peer 0 2) := by decide +kernel
/-- A WRITE of one unit to a node. -/
def wrFrame (n : Nat) : Frame := { Frame.zero with typ := 2, len := 1, dst := n, payload := [5] }
theorem test_hyp_frame : 0 < (wrFrame 0).typ ∧ (wrFrame 0).typ < 0x0A ∧ (wrFrame 0).hcrcOk = true ∧ (wrFrame 0).hops < 32 ∧
    (wrFrame 0).dst = (fabOn { st := .active }).fab.node ∧ flooded (wrFrame 1) = false ∧ (wrFrame 1).dst ≠ (fabOn { st := .active }).fab.node ∧
    ({ wrFrame 0 with hcrcOk := false } : Frame).hcrcOk = false ∧ 32 ≤ ({ wrFrame 0 with hops := 32 } : Frame).hops := by decide +kernel
/-- With one port the choice of a port of the bundle has one answer, whatever the hash. -/
theorem pick_one (p : Nat) (i : Option Nat) (h : Nat) : pickPort [p] i h = some p := by
  cases i with
  | none => simp [pickPort, Nat.mod_one]
  | some q => by_cases e : p / 8 = q / 8 <;> simp [pickPort, e, Nat.mod_one]
theorem test_hyp_frame_on : ∃ t, (fabOn { st := .active, role := 1 }).route (some 5) { wrFrame 1 with hops := 1 } = some t := by
  have h : (fabOn { st := .active, role := 1 }).route (some 5) { wrFrame 1 with hops := 1 } =
    (pickPort [0] (some 5) (frHash { wrFrame 1 with hops := 1 })).map (fun p => (p, { wrFrame 1 with hops := 1, level := 0 })) := by rfl
  rw [h, pick_one]; exact ⟨_, rfl⟩
/-- A frame in transit that came in by port 0 and leaves by port 8 of the next I/O die, which has n of its reserved units taken. -/
def transitOn (n : Nat) : State :=
  { fab := { topo := 1, ports := [(0, { st := .active, inq := [wrFrame 1] }), (8, { st := .active, role := 1, resv := if n = 0 then [] else [(0, n)] })] },
    pwr := { doms := 2 ^ 165 - 1 } }
theorem test_hyp_transit : ∀ n ∈ [0, 32], ((transitOn n).fport 0).inq.contains (wrFrame 1) = true ∧ (transitOn n).transits (wrFrame 1) = true ∧
    (((transitOn n).fport 0).inq.takeWhile (fun g => g != wrFrame 1)).any (fun g => (transitOn n).transits g && vcNum g == vcNum (wrFrame 1)) = false ∧
    (transitOn n).route (some 0) { wrFrame 1 with hops := 1 } = some (8, { wrFrame 1 with hops := 1, level := 0 }) := by
  intro n h
  refine ⟨by fin_cases h <;> decide +kernel, by fin_cases h <;> decide +kernel, by fin_cases h <;> decide +kernel, ?_⟩
  have e : (transitOn n).route (some 0) { wrFrame 1 with hops := 1 } =
    (pickPort [8] (some 0) (frHash { wrFrame 1 with hops := 1 })).map (fun p => (p, { wrFrame 1 with hops := 1, level := 0 })) := by fin_cases h <;> rfl
  rw [e, pick_one]; rfl
theorem test_hyp_transit_room : Map.get 0 ((transitOn 0).fport 8).resv (16 * (0 / 8) + vcNum (wrFrame 1)) + frUnits (wrFrame 1) ≤ 32 ∧
    32 < Map.get 0 ((transitOn 32).fport 8).resv (16 * (0 / 8) + vcNum (wrFrame 1)) + frUnits (wrFrame 1) := by decide +kernel
/-- Job 7 of composition 1, formed, with this module rank 0 of two. -/
def jobOf (st : JobSt) : Job := { st := st, fjob := 7, rank := 0, ranks := 2, nodes := [0, 1] }
def jobOn (j : Job) (x : FabPort) : State :=
  { comps := [(1, miniComp)], fab := { topo := 1, ports := if x = {} then [] else [(0, x)], jobs := [(1, j)] } }
theorem test_hyp_frame_end : let s := jobOn (jobOf .formed) { st := .active, inq := [{ wrFrame 0 with fjob := 7 }] }
    (s.fport 0).inq.contains { wrFrame 0 with fjob := 7 } = true ∧ s.compOfJob 7 = some 1 ∧ s.frameStale { wrFrame 0 with fjob := 7 } = false ∧
    s.frameStale { wrFrame 0 with fjob := 7, dstMgen := 1 } = true ∧ s.joinBy 7 = none := by decide +kernel
/-- The first of two WRITEs of one FJOB and SEL on a VC may end, and the second not before it. -/
theorem test_hyp_frame_order : let a : Frame := { wrFrame 0 with fjob := 7 }
    let b : Frame := { a with tag := 1 }
    let s := jobOn (jobOf .formed) { st := .active, inq := [a, b] }
    s.mayEnd 0 a = true ∧ s.mayEnd 0 b = false ∧ s.transits b = false ∧ (s.fport 0).inq.contains b = true := by decide +kernel
/-- A HELLO of a job that has been joined and has not begun forming. -/
theorem test_hyp_early_hello : let s : State := { fab := { joins := [(7, { st := .joined, fjob := 7 })] } }
    let f : Frame := { Frame.zero with typ := 9, fjob := 7, arg := 6 <<< 56, payload := [0] }
    s.compOfJob 7 = none ∧ (s.joinBy 7).isSome = true ∧ bits f.arg 63 56 = 6 ∧ flooded f = false := by decide +kernel
theorem test_hyp_vc : (((fabOn { st := .active, vcs := [(15, { freed := 1 })] }).fport 0).vc 15).freed ≠
    (((fabOn { st := .active, vcs := [(15, { freed := 1 })] }).fport 0).vc 15).freedSent := by decide +kernel
/-- A VC on which a count n of 1 or 2 units is freed, one of which is out; one whose audit has failed with nothing left in its buffer. -/
theorem test_hyp_vc_count : let v := ((fabOn { st := .active, vcs := [(15, { used := 1, failed := some 3 })] }).fport 0).vc 15
    ((1 : Word32) - v.retRcvd).toNat ≤ v.used ∧ v.used < ((2 : Word32) - v.retRcvd).toNat ∧ v.failed = some 3 ∧ v.rcvd ≠ 3 ∧
    ((fabOn { st := .active }).fport 0).inq.any (fun f => vcNum f == 15) = false ∧
    ((((fabOn { st := .active }).transmit 0 ((fabOn { st := .active }).vcFrame 0x0B 15 0)).fport 0).vc 15).rcvd = 0 ∧
    (fabOn {}).fab.seen.contains (noticeKey 3 2 1 7 0) = false := by decide +kernel
theorem test_hyp_notice : (fabOn { st := .active }).fab.seen.contains (noticeKey 1 3 0 0 0) = false ∧
    (({ fab := { seen := [noticeKey 1 3 0 0 0] } } : State).fab.seen.contains (noticeKey 1 3 0 0 0)) = true ∧
    ((fabOn { st := .active, peer := some (peer 0 2) }).fport 0).peer = some (peer 0 2) := by decide +kernel
theorem test_hyp_detour : (fabOn {}).reachable 0 = true ∧ (fabOn {}).reachable 1 = false ∧ (fabOn {}).roleHalted 6 = false := by decide +kernel
/-- FAB_JOIN of a staged culture of two ranks; the rank table in host memory names nodes 0 and 1. -/
def joinState : State :=
  { staged := [{ partCulture with frames := [⟨10, 0, [2, 0, 0, 0, 0, 0, 0, 0]⟩] }], host := { mem := [(0, [(2, 1)])] } }
def joinReq : Request := { Request.zero with p0 := 7, p1 := 9, bufLen := 4 }
theorem test_hyp_join : ((joinState.staged.find? (fun k => k.handle == 7)).bind (fun k => k.frames.find? (fun f => f.typ == 0x0A))).map
      (fun b => fle b.body 0 2) = some 2 ∧ rankTable (joinState.reqBuf joinReq) 2 = [0, 1] ∧ ([0, 1] : List Nat).eraseDups.length = 2 ∧
    nth 4096 [0, 1] joinReq.p2.toNat = joinState.fab.node ∧ joinState.jobs.any (fun c => (joinState.job c).fjob == 9) = false ∧
    joinState.fab.joins.any (fun e => e.2.fjob == 9 && e.1 != 7) = false ∧ State.reset.staged.find? (fun k => k.handle == 0) = none := by decide +kernel
theorem test_hyp_fctx : let s : State := { ctxs := [(4, { st := .idle, cid := 1 })] }
    (s.ctx 4).st ≠ .free ∧ (s.ctx 4).client = 0 ∧ (s.ctx 4).client ≠ 1 ∧ (s.ctxsOf 1).any (fun x => decide ((s.ctx x).fctx = 0 + 1)) = false := by decide +kernel
theorem test_hyp_hello : let s := jobOn (jobOf .forming) {}
    (s.job 1).st = .forming ∧ (s.updJob 1 (fun j => { j with hello := [1] })).job 1 = { jobOf .forming with hello := [1] } ∧
    ({ jobOf .forming with hello := [1] } : Job).allHere = false ∧ ({ jobOf .forming with hello := [0, 1] } : Job).allHere = true ∧
    (s.comp 1).op = none := by decide +kernel
theorem test_hyp_job : let s := jobOn (jobOf .formed) {}
    (s.job 1).st = .formed ∧ (s.fab.children (s.job 1) 0).contains 1 = true ∧ 0 < ({ jobOf .formed with rank := 1 } : Job).rank := by decide +kernel
/-- Both inputs of a combine window of churn group 3 are there. -/
def winOf (i : Nat) : CWin := { group := 3, step := 0, offset := 0, input := i, data := 1, last := true, poison := false }
theorem test_hyp_combine : let j : Job := { jobOf .formed with windows := [winOf 0, winOf 1] }
    let s : State := { comps := [(1, { st := .active, frames := [⟨7, 3, List.replicate 16 0⟩] })], fab := { topo := 1, jobs := [(1, j)] } }
    (findFrm (s.comp 1).frames 7 3).isSome = true ∧ (s.job 1).windows.filter (fun w => w.group == 3 && w.step == 0 && w.offset == 0) = [winOf 0, winOf 1] ∧
    ((s.job 1).rank :: s.fab.children (s.job 1) (s.job 1).rank).all (fun r => [winOf 0, winOf 1].any (fun v => v.input == r)) = true ∧
    [winOf 1].any (fun v => v.last != (winOf 0).last) = false ∧ [{ winOf 1 with last := false }].any (fun v => v.last != (winOf 0).last) = true := by decide +kernel
/-- A group that only pours, with the module's own input; a churn tree whose root is on this module. -/
theorem test_hyp_pour_window : let j : Job := { jobOf .formed with windows := [winOf 0] }
    let s : State := { comps := [(1, miniComp)], fab := { topo := 1, jobs := [(1, j)] } }
    (findFrm (s.comp 1).frames 7 3).isSome = false ∧ (s.job 1).windows.filter (fun w => w.group == 3 && w.step == 0 && w.offset == 0) = [winOf 0] ∧
    (winOf 0).input = (s.job 1).rank := by decide +kernel
theorem test_hyp_root_entry : let f : Machine.Frm := ⟨7, 3, List.replicate 16 0⟩
    let s : State := {
      comps := [(1, { miniComp with frames := [f], place := [(0, 0)] })],
      parts := [(0, { st := .bound, cid := 1 })],
      net := { routers := [(unitRouter 0, { ctab := [{ churn := true, cid := 1, group := 3, inMask := 1, outMask := 1 }] })] } }
    (s.rootEntry 1 3).isSome = true := by decide +kernel
/-! ## Host ports, sharing and migration -/

/-- Client 0, function 0 of host port 0, as given; composition 1 has one ring. -/
def fnOn (x : Fn) : State := { comps := [(1, miniComp)], host := { fns := [(0, x)] } }
/-- The same with client 1. -/
def fnOn1 (x : Fn) : State := { comps := [(1, miniComp)], host := { fns := [(1, x)] } }
theorem test_hyp_line : let s := fnOn { valid := true, cid := 1, granted := [0x4000, 64, 0] }
    (s.fn 0).valid = true ∧ (s.fn 0).granted.contains 5 = false ∧ (s.fn 0).granted.contains 0x4000 = true ∧ (s.fn 0).notices.contains 0x4000 = false ∧
    (fnOn { valid := true, cid := 1, notices := [0x4000] }).regionBacked 0 (64 * 0x4000) = true ∧ s.regionBacked 0 (64 * 64) = true ∧
    s.regionBacked 0 0x800000 = false := by decide +kernel
/-- The port is up, and the region is not being copied; while logical partition 0 moves it is. -/
def copyComp : Comp := { miniComp with st := .reshaping, op := some { opOf .slow with begun := true, prepared := true, moved := [0], targets := [(0, 5)] } }
theorem test_hyp_line_up : (fnOn { valid := true, cid := 1 }).hostUp 0 = false ∧
    ({ host := { ports := [(0, { st := .up, ide := true })] } } : State).hostUp 0 = true ∧ miniComp.copiesRegion = false ∧ copyComp.copiesRegion = true := by
  decide +kernel
theorem test_hyp_ring_on : let s := fnOn { valid := true, cid := 1 }
    (s.fn 0).valid = true ∧ 0 < (s.comp (s.fn 0).cid).rings ∧ (s.ring 0 0).enable = false ∧ s.ringCfgOk 0 0 0 = false := by decide +kernel
theorem test_hyp_ring : let s := fnOn { valid := true, cid := 1, rings := [(0, { enable := true, on := true, cqTail := 1, unsig := 1 })] }
    s.canon = true ∧ Map.wf {} (s.fn 0).rings = true ∧ (s.ring 0 0).enable = true ∧ (s.ring 0 0).reserved = 0 ∧ 0 < (s.ring 0 0).unsig ∧
    0 < (s.ring 0 0).occ ∧ (s.ring 0 0).retry = [] := by decide +kernel
/-- A ring whose records wait behind a write that is held up, and one whose records are all visible. -/
theorem test_hyp_stuck : let s := fnOn { valid := true, rings := [(0, { enable := true, on := true, stuck := true, retry := [(0, 7)] })] }
    (s.ring 0 0).stuck = true ∧ (s.ring 0 0).retry ≠ [] ∧ ((fnOn {}).ring 0 0).stuck = false ∧ ((fnOn {}).ring 0 0).retry = [] ∧
    ((fnOn {}).ring 0 0).unsig = 0 := by decide +kernel
theorem test_hyp_event : let s := fnOn { valid := true, cid := 1, lease := .held, rings := [(0, { enable := true, on := true })], events := [(1, 0x0601, 2)] }
    (s.fn 0).events.find? (fun e => s.eventReady 0 e.1) = some (1, 0x0601, 2) := by decide +kernel
theorem test_hyp_transfer : let s : State := { units := [(0, { st := .run, ext := some { port := 0 } })], eng := [(0, { dma := { exe := some { cmd := dmaCmd 1, seq := 0 } } })] }
    (s.unit 0).ext = some { port := 0 } ∧ ((s.heldRow 0).map (fun d => d.1.op)) = some 1 := by decide +kernel
theorem test_hyp_lease : (fnOn { valid := true, cid := 1, lease := .held }).canon = true ∧ ((fnOn { valid := true, lease := .held }).fn 0).lease = .held ∧
    ((fnOn { valid := true, lease := .held }).fn 0).rings = [] ∧ ((fnOn { valid := true }).fn 0).lease = .none ∧
    ((fnOn { lease := .lapsed }).fn 0).lease = .lapsed ∧ ((fnOn { lease := .quiesced }).fn 0).lease = .quiesced ∧
    ((fnOn { pause := .pausing }).fn 0).pause ≠ .serving ∧ (5 : Word64) ≠ ((fnOn { valid := true }).fn 0).seq := by decide +kernel
theorem test_hyp_host_link : let s : State := { host := { ports := [(0, { st := .training, perstRel := true })] }, boot := { pwrgd := true, refOk := true }, pwr := { doms := 2 ^ 165 - 1 } }
    s.canon = true ∧ (s.hport 0).st = .training ∧ s.boot.pwrgd = true ∧ s.domOn (domHost 0) = true ∧ (s.hport 0).perstRel = true ∧ s.boot.refOk = true := by
  decide +kernel
/-- A port that is up, one on which IDE is required, and one whose function is in a locked interface. -/
theorem test_hyp_host_up : (({ host := { ports := [(0, { st := .up })] } } : State).hport 0).st = .up ∧
    (({ host := { ports := [(0, { st := .training, ideReq := true })] } } : State).hport 0).ideReq = true ∧ has (1 : Nat) 0 = true := by decide +kernel
/-- Composition 1 is ACTIVE at generation 0 and lets port 0 serve it; function 1 of that port is free. -/
theorem test_hyp_assign : (fnOn1 {}).assignErr 1 1 0 = 0 ∧ ((fnOn1 {}).fn 1).valid = false ∧ (fnOn1 {}).assignErr 1 2 0 ≠ 0 ∧
    ((fnOn1 {}).fn 1).tdi = .unlocked := by decide +kernel
theorem test_hyp_unassign : (fnOn1 { valid := true, cid := 1 }).canon = true ∧ ((fnOn1 { valid := true, cid := 1 }).fn 1).lease = .none ∧
    (fnOn1 { valid := true, cid := 1 }).ctxsOfClient 1 = [] ∧ ((fnOn1 { valid := true, cid := 1, lease := .held }).fn 1).lease ≠ .none := by decide +kernel
/-- Client 2 is paused and serves composition 1; client 1 is free. -/
theorem test_hyp_hand_off : let s : State := { comps := [(1, miniComp)], host := { fns := [(2, { valid := true, cid := 1, pause := .paused })] } }
    s.canon = true ∧ s.assignErr 1 1 0 = 0 ∧ (s.fn 2).valid = true ∧ (s.fn 2).pause = .paused ∧ (s.fn 2).logging = false ∧ (2 : Nat) ≠ 1 ∧
    (s.fn 2).tdi = .unlocked ∧ (s.comp 1).copiesRegion = false ∧ (s.comp 1).st ≠ .unbinding ∧ (s.comp 1).op = none := by decide +kernel
/-- The other outcomes of a hand-off from client 2: an unbind in progress, a locked source, one that is not paused, and a copy in progress. -/
def handState (x : Comp) (y : Fn) : State := { comps := [(1, x)], host := { fns := [(2, y)] } }
theorem test_hyp_hand_off_more : let y : Fn := { valid := true, cid := 1, pause := .paused }
    (handState { miniComp with op := some (opOf .unbind) } y).assignErr 1 1 0 = 0 ∧
    (handState miniComp { y with tdi := .locked }).assignErr 1 1 0 = 0 ∧ (handState miniComp { y with pause := .serving }).assignErr 1 1 0 = 0 ∧
    (handState copyComp y).assignErr 1 1 0 = 0 := by decide +kernel
theorem test_hyp_interface : let s := fnOn1 { valid := true, cid := 1, logBase := 1 }
    (s.fn 1).tdi = .unlocked ∧ (s.fn 1).valid = true ∧ (s.fn 1).rings.any (fun e => e.2.on) = false ∧ s.holdsClear 1 = false ∧ (s.fn 1).logBase ≠ 0 ∧
    (s.fn 1).pause = .serving ∧ ((fnOn1 { tdi := .locked }).fn 1).tdi = .locked ∧ ((fnOn1 { tdi := .locked }).fn 1).tdi ≠ .unlocked := by decide +kernel
/-- Client 1 holds a clear range: a LOCAL entry of keyslot field 0. -/
theorem test_hyp_clear : ({ ctxs := [(4, { st := .idle, cid := 1, client := 1 })], xlt := { slots := [(4096 * 4, { st := .valid, entry := rangeEnt })] } } : State).holdsClear 1 = true := by
  decide +kernel
theorem test_hyp_log : let x := (fnOn1 { valid := true, logTail := 5, logHead := 2 }).fn 1
    sub32 4 x.logHead ≤ sub32 x.logTail x.logHead ∧ sub32 x.logTail x.logHead < sub32 6 x.logHead ∧
    (fnOn1 { pause := .pausing }).allWork.any (fun e => e.2.client == 1) = false ∧ ((fnOn1 { pause := .pausing }).fn 1).pause = .pausing ∧
    (fnOn1 { pause := .pausing }).ctxsOfClient 1 = [] ∧ ((fnOn1 { pause := .pausing }).fn 1).rings.all (fun e => e.2.retry.isEmpty) = true ∧
    ((fnOn1 { pause := .pausing, rings := [(0, { retry := [(0, 7)] })] }).fn 1).rings.all (fun e => e.2.retry.isEmpty) = false := by decide +kernel
/-! ## Trust and metering -/

/-- The bytes of an enrolment: an RSA key of four bytes, an SLH-DSA key and the two proofs of possession. -/
def enrolState (signers : Map (Option Signer)) : State := { host := { ports := [(0, { st := .up, ide := true })] }, sec := { signers := signers } }
def enrolReq : Request := { Request.zero with p0 := 4, bufLen := 4 + 48 + 384 + 16224 }
theorem test_hyp_rollback : ((List.range 7).flatMap (fun r => [(r, (State.reset.role r).imgA), (r, (State.reset.role r).imgB)])).all
    (fun e => match e.2 with | none => false | some i => decide (fwSigned e.1 i = 0)) = false := by decide +kernel
theorem test_hyp_enrol : (enrolState []).roleHalted 0 = false ∧ enrolReq.bufLen ≤ 2 ^ 24 ∧ (enrolState []).hostUp 0 = true ∧
    Map.firstFree (enrolState []).sec.signers < 16 ∧ bits enrolReq.p0 15 0 = 4 := by decide +kernel
theorem test_hyp_revoke : let s := enrolState [(2, some { id := 5, rsa := [], slh := [] })]
    s.sec.signers.find? (fun e => e.2.any (fun g => g.id == 5 && !g.revoked)) = some (2, some { id := 5, rsa := [], slh := [] }) ∧
    (enrolState [(2, some { id := 5, rsa := [], slh := [], revoked := true })]).signerSlot 5 = some 2 ∧ s.signerSlot 6 = none := by decide +kernel
/-- Core n alone runs; core 0 starts again. -/
def coreOnly (n : Nat) : State := { fw := { cores := [(n, { st := .running, beat := true })] } }
def secStarts : State := { fw := { cores := [(0, { st := .restarting })] } }
theorem test_hyp_keyslot : (State.reset.kslot 4095).hold = .free ∧ (({ sec := { slots := [(0, { hold := .ctx 3 })] } } : State).kslot 0).hold ≠ .free := by
  decide +kernel
theorem test_hyp_attest : (coreOnly 0).sec.recovery = false ∧ (coreOnly 0).secAway = false ∧ (coreOnly 0).canon = true ∧ secStarts.secAway = true ∧
    8 ≤ (List.replicate 8 0).length ∧ (nth 0 ([0x10, 0xE4] : List Byte) 1).toNat = 0xE4 ∧
    (Map.get [] (({ sec := { hashes := [(1, [7])] } } : State).sec.hashes) 1).contains 7 = true ∧ (Map.get [] State.reset.sec.hashes 1).contains 7 = false := by
  decide +kernel
/-- Client 1 of port 0 holds context 4, which maps 4096 bytes of interleave set 0 at address 0. -/
def viewState (k : RSlot) : State :=
  { comps := [(1, miniComp)], ctxs := [(4, { st := .idle, cid := 1, client := 1 })], xlt := { slots := if k = {} then [] else [(4096 * 4, k)] },
    host := { ports := [(0, { st := .up, ide := true })], fns := [(1, { valid := true, cid := 1 })] } }
theorem test_hyp_view : ((viewState validSlot).fn 1).valid = true ∧ (viewState validSlot).hostUp 0 = true ∧ ((viewState validSlot).fn 1).tdi ≠ .run ∧
    (((viewState validSlot).hostviewEntry 1 0 64 true).bind (fun e => (((viewState validSlot).comp ((viewState validSlot).ctx e.1).cid).chanAt (eAux e.2) 64))).isSome = true ∧
    (((viewState validSlot).hostviewEntry 1 0 64 false)).isSome = true ∧ (viewState {}).hostviewEntry 1 0 64 true = none := by decide +kernel
/-- An address of the submission region, and the last of an interleave-set slot; a mask that is not whole. -/
theorem test_hyp_view_region : 2 ^ 45 ≤ 2 ^ 45 + 64 * 5 ∧ 2 ^ 45 + 64 * 5 < 2 ^ 45 + 2 ^ 30 ∧ (2 ^ 39 - 1) % 2 ^ 39 / 64 * 64 = 2 ^ 39 - 64 ∧
    (1 : BitVec 512) ≠ BitVec.allOnes 512 := by decide +kernel
/-- The pail as given. -/
def pailOn (p : Pail) : State := { pail := p }
def recOf (k : Nat) : MRec := { kind := k, flags := 0, seq := 1, time := 0, entries := [], merged := 0, prev := 0, digest := 0 }
theorem test_hyp_pail_lines : (pailOn { st := .metered }).pail.st ≠ .absent := by decide +kernel
theorem test_hyp_pail_records : let s := pailOn { st := .metered, fifo := [.gap 1 2] }
    s.pail.st = .metered ∧ s.pail.signing = none ∧ s.pail.fifo ≠ [] ∧ s.pail.periodicDue = false ∧
    (pailOn { st := .metered, used := pailLimit }).pail.records.filter (fun r => decide (0 < r.seq)) = [] ∧ recsSize [] ≤ pailLimit := by decide +kernel
theorem test_hyp_pail_signing : (pailOn { st := .starting, signing := some (recOf 3) }).pail.signing = some (recOf 3) ∧ (recOf 3).kind = 3 ∧ (recOf 1).kind ≠ 3 := by
  decide +kernel
theorem test_hyp_label : let s : State := { comps := [(1, { st := .active })], pail := { st := .metered, accts := [(65536, { tracked := true })] } }
    (s.comp 1).st ≠ .free ∧ (s.pail.acct 1 0).tracked = true ∧ (s.pail.acct 1 0).labelled = false ∧ s.pail.genOf 1 = 0 := by decide +kernel
theorem test_hyp_ack : let s := pailOn { ack := 2, seq := 5 }
    s.pail.ack ≤ 5 ∧ 5 ≤ s.pail.seq ∧ 1 < s.pail.ack ∧ s.pail.seq < 6 := by decide +kernel
theorem test_hyp_pail_states : (pailOn { present := true }).pail.present = true ∧ (pailOn { st := .starting }).pail.st = .starting ∧
    (pailOn { st := .starting }).pail.signing = none ∧ (pailOn { st := .starting }).oscBand = (20, 100) ∧ (pailOn { st := .unsealed }).pail.st = .unsealed ∧
    (pailOn { st := .starting, sealOpen := true }).pail.sealOpen = true := by decide +kernel
/-! ## Power -/

/-- Partitions 0 to n − 1 are FREE and powered, or gated off; WARM is w. -/
def freeOnes (n w : Nat) (on : Bool) : State :=
  { parts := (List.range n).map (fun p => (p, { st := .free, logicOn := on, retOn := on })), pwr := { warm := w }, boot := { computeOn := true },
    fw := { cores := [(9, { st := .running })] } }
theorem test_hyp_gate : let s := freeOnes 2 1 true
    (s.part 1).st = .free ∧ (s.part 1).logicOn = true ∧ s.pwr.warm < s.warmCount ∧ s.warmOne 1 = false ∧ s.pwrRuns = true ∧
    State.reset.pwrRuns = false ∧ 64 < bits (65 : Word32) 6 0 ∧ bits (64 : Word32) 6 0 ≤ 64 := by decide +kernel
theorem test_hyp_warm : let s := freeOnes 1 4 false
    (s.part 0).st = .free ∧ (s.part 0).logicOn = false ∧ s.warmOne 0 = true ∧ s.gatesAll = false ∧ s.railsOk 0 = true ∧ s.pwrRuns = true := by decide +kernel
theorem test_hyp_input : let s : State := { pwr := { mainOn := true, standby := true }, boot := { phase := .ready } }
    s.pwr.inputLost = false ∧ s.boot.phase ≠ .standby ∧ s.canon = true ∧ ({ pwr := { inputLost := true } } : State).pwr.inputLost = true := by decide +kernel
theorem test_hyp_coolant : let s : State := { parts := [(3, { holds := [.coolant] })], pwr := { mainOn := true }, boot := { resetRel := true, replayed := true } }
    (s.part 3).holds.contains .coolant = true ∧ (s.part 4).holds.contains .coolant = false ∧ s.boot.replayed = true := by decide +kernel
theorem test_hyp_rail : let s : State := { pwr := { rails := [(20, { st := .on }), (21, { st := .shorted })] } }
    s.canon = true ∧ (s.rail 20).st ≠ .shorted ∧ (s.rail 21).st = .shorted := by decide +kernel
/-- Seven phases of a VCORE rail are out and an eighth fails, or the first fails on a die that holds no clock; a partition whose sensors have all
failed. -/
theorem test_hyp_phases : let t := ({ pwr := { rails := [(0, { phasesOut := 7 })] } } : State).updRail 0 (fun x => { x with phasesOut := x.phasesOut + 1, st := .derated })
    let u := State.reset.updRail 0 (fun x => { x with phasesOut := x.phasesOut + 1, st := .derated })
    7 < (t.rail 0).phasesOut ∧ (u.rail 0).phasesOut ≤ 7 ∧ u.dieHeld 0 ≤ u.dieLimit 0 := by decide +kernel
theorem test_hyp_sensors : let t : State := { pwr := { isls := (List.range 61).map (fun i => (i, { sensorFault := true })) } }
    t.sensorless 0 = true ∧ State.reset.sensorless 0 = false ∧ t.holdOf 0 = 0 := by decide +kernel
/-- An ageing monitor that reads 50 MHz and a step below FMAX, and one that reads far too low for a held partition. -/
theorem test_hyp_ageing : let s : State := { freeOnes 1 4 true with pwr := { warm := 4, isls := [(0, { fmax := some 2000 })] } }
    s.canon = true ∧ (1999 - 50) / 25 * 25 < s.fmaxOf 0 ∧ s.islHold 0 = 0 ∧ 1600 ≤ (1999 - 50) / 25 * 25 ∧ s.pwrRuns = true ∧
    (1500 - 50) / 25 * 25 < 1600 ∧ s.fmaxOf 0 ≤ (2099 - 50) / 25 * 25 := by decide +kernel
/-- A partition whose hold clock is 1250 MHz. -/
def heldOne : State :=
  { parts := [(0, { st := .bound, cid := 1 })], comps := [(1, { st := .active, lparts := 1, place := [(0, 0)], frames := [⟨12, 0, [0, 2, 0, 0, 0xB0, 4]⟩] })] }
theorem test_hyp_held : heldOne.islHold 0 = 1250 ∧ (1200 - 50) / 25 * 25 < heldOne.islHold 0 := by decide +kernel
theorem test_hyp_cap : ∀ s : State, s.capEff < s.capEff + 1 ∧ s.capEff ≤ s.capEff ∧ 95 * s.capEff ≤ 100 * s.capEff ∧ (State.reset.roleHalted 4 = false) := by
  intro s; exact ⟨Nat.lt_succ_self _, Nat.le_refl _, by omega, by decide⟩
/-- The clauses of a cap check by step: none applied, a step from 2 with an island above its hold clock, and the times they wait for. -/
theorem test_hyp_cap_steps : let s : State := { heldOne with pwr := { step := 2, stepAt := 0, lowSince := some 0, isls := [(0, { set := 2000 })] }, now := 100000000 }
    s.boundParts.any s.aboveHold = true ∧ State.reset.boundParts.any State.reset.aboveHold = false ∧ s.pwr.stepAt + 1000000 ≤ s.now ∧
    0 + 100000000 ≤ s.now ∧ State.reset.pwr.step = 0 ∧ State.reset.pwr.lowSince = none := by decide +kernel
theorem test_hyp_junction : (State.reset.isl 7).sensorFault = false ∧ (State.reset.isl 7).fellAt = none ∧ State.reset.pwr.crit = false ∧ State.reset.pwr.trip = [] := by
  decide +kernel
/-! ## Recovery, firmware, the journal, start-up and registers -/

theorem test_hyp_watchdog : let s : State := { units := [(0, { st := .run, xid := 1 })], eng := [(0, { dma := { exe := some { cmd := dmaCmd 2, seq := 0 } } })] }
    s.npRunning 0 = true ∧ State.reset.npRunning 0 = false ∧ (stoppingState.unit 0).st = .stopping ∧ State.reset.mustProgress 0 = false := by decide +kernel
theorem test_hyp_load_overrun : ({ opOf .bind with loads := [(3, 5, 0)] } : CompOp).loads.any (fun l => l.1 == 3) = true ∧ (opOf .bind).kind ≠ .restore := by
  decide +kernel
/-- The bind goes on through the step of the partition; a restore has no request to end. -/
theorem test_hyp_load_op : let s := compOn { st := .binding, op := some { opOf .bind with loads := [(3, 5, 0)] } }
    ((s.startStep .partition 3 3).comp 1).op.isSome = true ∧ (opOf .restore).kind = .restore ∧ (opOf .bind).kind ≠ .unbind := by decide +kernel
theorem test_hyp_step_timeout : let s : State := { flt := { steps := [⟨.engine, 5, 6, 0⟩] } }
    s.stepOn .engine 5 = some ⟨.engine, 5, 6, 0⟩ ∧ s.stepOn .module 0 = none := by decide +kernel
theorem test_hyp_ladder : let s : State := { ctxs := [(4, { st := .idle, cid := 1 })], parts := [(0, { st := .free })] }
    s.canon = true ∧ s.flt.steps = [] ∧ (s.ctx 4).st = .idle ∧ s.ctxUnits 4 = [] ∧ (s.unit 0).retired = false ∧ (s.part 0).st ≠ .offline ∧
    s.roleHalted 5 = false ∧ (within 0 3600000000000 s.flt.mod1h).length < 3 ∧ s.flt.pwrCycleReq = false := by decide +kernel
/-- A context step of a context at rest; an engine step that starts, and one of a retired unit, which does not; the third module step in an hour. -/
theorem test_hyp_ladder_steps : let s : State := { ctxs := [(4, { st := .idle, cid := 1 })], parts := [(0, { st := .bound, cid := 1 })], units := [(5, { retired := true })] }
    let r := (s.startStep .context 4 1).restUnits 4 1
    r.1 = true ∧ (r.2.ctx 4).st = .resetting ∧ ((s.startStep .engine 0 2).stepOn .engine 0).isSome = true ∧
    (s.startStep .engine 5 2).stepOn .engine 5 = none ∧ ((s.startStep .partition 0 3).stepOn .partition 0).isSome = true ∧
    3 ≤ (within 0 3600000000000 ([0, 0] : List Nat)).length ∧ 3 ≤ (within 0 86400000000000 ([0, 0] : List Nat)).length := by decide +kernel
/-- A context whose engine has a step in progress is not at rest; a step of another ladder level in progress keeps an engine step from starting. -/
theorem test_hyp_ladder_rest : let s : State := { ctxs := [(4, { st := .resetting, cid := 1 })], units := [(0, { st := .run, xid := 4 })], flt := { steps := [⟨.engine, 0, 2, 0⟩] } }
    ((s.startStep .context 4 1).restUnits 4 1).1 = false ∧
    (({ flt := { steps := [⟨.module, 0, 2, 0⟩] } } : State).startStep .partition 0 3).stepOn .partition 0 = none := by decide +kernel
theorem test_hyp_spare : let s : State := { units := [(5, { retired := true })], parts := [(0, { st := .bound, cid := 1 })], comps := [(1, { st := .active, lparts := 1, place := [(0, 0)] })] }
    s.canon = true ∧ (s.unit 5).retired = true ∧ (s.part 0).meMap.contains 5 = true ∧ (s.part 0).meSpare = [36, 37] ∧ (s.part 0).st = .bound ∧
    (s.comp 1).op = none ∧ s.roleHalted 1 = false ∧ s.treesCode 1 (s.treesOf 1 [] []) = 0 := by decide +kernel
theorem test_hyp_core : ((coreOn 0).coreS 3).st = .running ∧ (coreOn 0).fw.update = none ∧ (State.reset.coreS 3).st ≠ .running := by decide +kernel
/-- A core whose turn it is, at a cold start and beside a core that restarts. -/
theorem test_hyp_boot_turn : (({ fw := { cores := [(0, { st := .running }), (3, { st := .restarting })] } } : State).bootTurn 3) = true ∧
    (({ fw := { cores := [(0, { st := .loading })] } } : State).bootTurn 0) = true := by decide +kernel
theorem test_hyp_activate : (State.reset.role 2).valid (!(State.reset.role 2).active) = false ∧
    (({ fw := { roles := [(2, { validB := true })] } } : State).role 2).valid true = true := by decide +kernel
theorem test_hyp_journal : ({ jrn := { writer := 1 } } : State).canCommit = true ∧ State.reset.canCommit = false ∧
    (coresOf 1).find? (fun i => decide ((({ fw := { cores := [(2, { st := .running })] } } : State).coreS i).st = .running)) = some 2 := by decide +kernel
theorem test_hyp_compaction : let s : State := { jrn := { compacting := true, writer := 1 } }
    s.jrn.compacting = true ∧ s.jrn.erasing = false ∧ s.jrn.writer ≠ 0 ∧ s.boot.replayed = false := by decide +kernel
theorem test_hyp_rails_start : let s : State := { pwr := { mainOn := true }, boot := { resetRel := true, replayed := true }, fw := { cores := [(9, { st := .running }), (10, { st := .running })] } }
    s.boot.needReset = false ∧ s.flt.pwrCycleReq = false ∧ (s.coreS 10).st = .running ∧ (s.coreS 9).st = .running ∧ State.reset.pwr.standby = false := by decide +kernel
theorem test_hyp_bringup : let s : State := { jrn := { writer := 1 }, boot := { computeOn := true } }
    (s.part 0).st = .offline ∧ (s.part 0).holds = [] ∧ s.canCommit = true ∧ s.roleHalted 5 = false ∧ s.bringupTurn 0 = true ∧ s.bringupTurn 8 = false := by
  decide +kernel
theorem test_hyp_ready : let s : State := { boot := { announced := List.range 64, replayed := true } }
    s.boot.phase ≠ .ready ∧ s.boot.announced.length = 64 ∧ (List.range 12).all (fun i => decide ((s.coreS i).st = .running ∨ (s.coreS i).st = .halted)) = true := by
  decide +kernel
theorem test_hyp_sideband : (farOn { enable := true }).canon = true ∧ ((farOn { enable := true }).farP 0).st = .down ∧ ((farOn { enable := true }).farP 0).enable = true ∧
    ({ boot := { storeWait := [1] } } : State).boot.storeWait.contains 1 = true ∧ ({ comps := [(1, { storeLen := 16 })] } : State).storeGood 1 = false := by decide +kernel
/-- The phases in which MOD_RESET_N falls; a store that is good with no weights, at the end of its wait. -/
theorem test_hyp_reset_fall : State.reset.boot.phase ≠ .ready ∧ Phase.replay ≠ Phase.standby ∧ Phase.replay ≠ Phase.boot ∧ Phase.replay ≠ Phase.ready ∧
    (({ comps := [(1, {})], host := { ports := [(0, { st := .up })] } } : State).storeGood 1) = true ∧
    State.reset.roleHalted 1 = false := by decide +kernel
/-- Every core runs and has written its heartbeat: every window is open. -/
def openAll : State := { fw := { cores := (List.range 12).map (fun i => (i, { st := .running, beat := true })) }, parts := [(0, { st := .free })] }
theorem test_hyp_register : openAll.stepOn .module 0 = none ∧ accessOk (.bar0 0) 0x04000008 4 = true ∧ openAll.windowOpen 0x04000008 = true ∧
    openAll.windowOpen 0x04000028 = true ∧ openAll.windowOpen 0x07800010 = true ∧ openAll.windowOpen 0x01001018 = true ∧ openAll.windowOpen 0x02000000 = true ∧
    openAll.partInReset 0 = false ∧ State.reset.windowOpen 0x04000008 = false ∧ accessOk (.bar0 0) 0x04000008 3 = false := by decide +kernel
/-- The FLAGS registers of engine 0 and vector tile 0 of partition 0 take writes (R6). -/
theorem test_hyp_set_event : openAll.canon = true ∧ openAll.windowOpen 0x01001008 = true ∧ openAll.windowOpen 0x01028008 = true ∧
    openAll.inEngStep (uEng 0 0) = false ∧ openAll.inEngStep (uVt 0 0) = false := by decide +kernel
/-- A value above the largest finite INT8 saturates (R37): 2.0 is more than 127/64. -/
theorem test_hyp_int8 : aboveMax 10 1 (1 - ((127 : Int) - 127)) = true := by decide +kernel

/-! ## The bytes of a wire -/

/-- The checksums of nine ASCII digits: CRC-8 with polynomial 0x07, and CRC-32C. -/
def digits : List Byte := [0x31, 0x32, 0x33, 0x34, 0x35, 0x36, 0x37, 0x38, 0x39]
theorem test_crc8 : crc8 digits = 0xF4 := by decide +kernel
theorem test_crc32c : crc32c digits = 0xE3069283 := by decide +kernel
/-! ## The spec's worked examples -/

/-- 01_module_anatomy.md, locating partition P37: its die, its domains, its ME05 and its first channel. -/
theorem test_example_p37 : dieOf 37 = 9 ∧ ({ parts := [(37, { logicOn := true })] } : State).domOn 82 = true ∧
    ({ parts := [(37, { retOn := true })] } : State).domOn 86 = true ∧ domRouter 9 = 89 ∧ windowUnit 37 0x6000 = some (uEng 37 5, 0) ∧
    destRouter 0 0xA51 = unitRouter (uEng 37 9) := by decide +kernel
/-- 02_matrix_arithmetic.md, computed MXFP4 scales: a block with amax 15.0, and its values 15.0 and 1.3, in FLOOR and in FIT mode. -/
def mxVals : List Word32 := [0x41700000, 0x3FA66666]
theorem test_example_mxfp4 : mxBlock 9 { rz := false, ieee := false } false mxVals = (0x80, [7, 1], flSAT) ∧
    (mxBlock 9 { rz := false, ieee := false } true mxVals).1 = 0x81 ∧ (mxBlock 9 { rz := false, ieee := false } true mxVals).2.1 = [6, 1] := by decide +kernel
/-- 05_die_network_and_churn.md, a churn tree over 16 engines (Table 5.8): the root, its two neighbours in its row, and a forwarder. -/
def churnBody : List Byte :=
  let le (n : Nat) : List Byte := [BitVec.ofNat 8 n, BitVec.ofNat 8 (n / 256)]
  le (mkLref 0 0 9) ++ [0, 0, 0, 0, 0, 0] ++ le 16 ++ zeros 6 ++ [0, 1, 2, 3, 8, 9, 10, 11, 16, 17, 18, 19, 24, 25, 26, 27].flatMap (fun e => le (mkLref 0 0 e))
def churnTree : List (Nat × CEnt) := treeOf 1 (fun l => some (uEng 37 (lrefIdx l))) ⟨7, 0, churnBody⟩
def nodeAt (e : Nat) : Option (Nat × Nat) := (churnTree.find? (fun x => x.1 == unitRouter (uEng 37 e))).map (fun x => (x.2.inMask, x.2.outMask))
theorem test_example_tree : nodeAt 9 = some (31, 1) ∧ nodeAt 10 = some (15, 16) ∧ nodeAt 8 = some (11, 4) ∧ nodeAt 17 = some (9, 2) ∧ nodeAt 27 = some (1, 2) ∧
    nodeAt 0 = some (1, 8) := by decide +kernel
/-- 07_compositions_and_rebinding.md, a handoff caught by a supervisor restart: the two POOL fields. -/
theorem test_example_pools : localPool 0 12 0x31 = 0xC0031 ∧ farPool 0 (2 ^ 41 + 2 ^ 34) 3 = 0x4000204000000003 := by decide +kernel
/-- 08_memory_tiers.md, one byte from set space to the channel pins. -/
theorem test_example_byte : (ISet.mk 12 [0, 1, 2, 3]).locate 0x2468D567 = (1, 5, 0x1234567) ∧ secPhys (0x1234567 / 64) + 39 = 0x136B067 ∧
    entryPhys (0x1234567 / 64) = 0x136B3C4 ∧ tweakLocal 5 0x12 1 5 0x48D15 = (5 <<< 104) ||| (0x12 <<< 88) ||| (1 <<< 82) ||| (5 <<< 79) ||| 0x48D15 := by
  decide +kernel
/-- 09_address_ranges.md, a row from the device view to a channel, and its host pointer; XLT3 serves CD09. -/
def exampleRange : BitVec 256 := 0x00007F0000000000 ||| (0x400000000 <<< 64) ||| (0x20000000 <<< 128) ||| (0x10A7 <<< 192) ||| (3 <<< 216) ||| (1 <<< 224)
theorem test_example_range : eHas exampleRange 0x7F000468D540 = true ∧ eTarget exampleRange + (0x7F000468D540 - eBase exampleRange) = 0x2468D540 ∧
    hostView 0x40000000000 exampleRange 0x7F000468D540 = some 0x4802468D540 ∧ deviceView 0x40000000000 exampleRange 0x4802468D540 = some 0x7F000468D540 ∧
    xltOf 9 = 3 := by decide +kernel
/-- 10_contexts_scheduling_promises.md, a cream bound: the switch times of 32 MiB and 24 MiB at 1500 MHz, and the switch allowance. -/
theorem test_example_bound : tOut 1500 (32 * 2 ^ 20) = 329504 ∧ tIn (24 * 2 ^ 20) = 243539 ∧
    ({ frames := [⟨12, 0, [0, 2, 0, 0, 0xDC, 5, 16, 0, 0, 0x60, 0, 0, 0, 0x80, 0, 0]⟩] } : Comp).allowance false 2200000 = 773043 := by decide +kernel
/-- 11_fabric_links_collectives.md, a torus of 512 modules: the parent of rank 292 is (5, 4, 4). -/
theorem test_example_parent : ({ topo := 0x777 } : Fab).parent { ranks := 512, nodes := List.range 512 } 292 = some (5 + 8 * 4 + 64 * 4) := by decide +kernel
/-- 12_host_ports.md: slot 17 of ring 3 with SQ_LOG2 = 9, and its ring control line. -/
theorem test_example_ring : sqOffset 3 9 17 = 0x1C0880 ∧ rclOffset 3 = 0x10C0 := by decide
/-- 14_trust_and_attestation.md: a window boundary publishes 1 234 567 cycles as 1205 × 1024. -/
theorem test_example_tenant : ∃ t, exec (.tcWindowUpdate 9873) { ctxs := [(4, { st := .idle, raw := [(0, 1234567)] })] } = .next t ∧
    Map.get 0 (t.ctx 4).pub 0 = 1205 * 1024 ∧ t.sec.tcPower = 9850 := ⟨_, rfl, by decide +kernel, by decide +kernel⟩
/-- 16_power_and_thermal.md, a cap below the floor: 16 partitions on four dies with FLOOR_MHZ 1200 hold 1250 MHz, and P_floor is 2051 W. -/
theorem test_example_floor : holdClock 1200 = 1250 ∧
    inputWatts ((List.range 4).flatMap (fun q => [0, 4, 16, 20].map (fun d => (d + q, 1250)))) = 2051 := by decide +kernel

end Sys2Proof.Tests
end

section
/-!
SUPPORT. The RW1C rule of R6 bit by bit, and a write to a register of an engine or vector tile through its partition window
(R6, R10, R28, R29).
-/

namespace Sys2Proof.Machine

/-! ## RW1C fields (R6) -/

/-- A bit of an RW1C field is what the module sets in the cycle, or what was there and is not written with 1. -/
theorem testBit_rw1c (old w hwSet : Nat) {i : Nat} (hi : i < 64) :
    (rw1c old w hwSet).testBit i = (hwSet.testBit i || old.testBit i && !w.testBit i) := by
  rw [rw1c, BitVec.testBit_toNat]
  simp only [BitVec.getLsbD_or, BitVec.getLsbD_and, BitVec.getLsbD_not, BitVec.getLsbD_ofNat, hi, decide_true, Bool.true_and,
    Bool.or_comm]

/-- The same for FLAGS, of which the module can set the low n bits and whose register is 32 bits wide. -/
theorem getLsbD_flags_rw1c (old : Byte) (data hw : Word64) {n i : Nat} (hn : n ≤ 8) (hi : i < n) :
    (BitVec.ofNat 8 (rw1c old.toNat (data.toNat % 2 ^ 32) (hw.toNat % 2 ^ 32 % 2 ^ n))).getLsbD i =
      (hw.getLsbD i || old.getLsbD i && !data.getLsbD i) := by
  have h8 : i < 8 := by omega
  have h32 : i < 32 := by omega
  rw [BitVec.getLsbD_ofNat, testBit_rw1c _ _ _ (by omega)]
  simp only [Nat.testBit_mod_two_pow, BitVec.testBit_toNat, hi, h8, h32, decide_true, Bool.true_and]

/-! ## Partition windows (R28, R29) -/

theorem windowUnit_engine (p : Nat) (e : EngId) {o : Nat} (ho : o < 0x1000) :
    windowUnit p (0x1000 + 0x1000 * e.val + o) = some (uEng p e.val, o) := by
  have := e.isLt
  have hk : (0x1000 + 0x1000 * e.val + o - 0x1000) / 0x1000 = e.val := by omega
  have hr : (0x1000 + 0x1000 * e.val + o) % 0x1000 = o := by omega
  simp only [windowUnit, hk, hr]
  exact if_pos ⟨by omega, this⟩

theorem windowUnit_vt (p : Nat) (v : VtId) {o : Nat} (ho : o < 0x1000) :
    windowUnit p (0x28000 + 0x1000 * v.val + o) = some (uVt p v.val, o) := by
  have := v.isLt
  have hk : (0x28000 + 0x1000 * v.val + o - 0x28000) / 0x1000 = v.val := by omega
  have hr : (0x28000 + 0x1000 * v.val + o) % 0x1000 = o := by omega
  simp only [windowUnit, hk, hr]
  rw [if_neg (by omega)]
  exact if_pos ⟨by omega, this⟩

/-- A 32-bit write to a unit's register goes to that register, unless the partition is in reset. -/
theorem State.write32_unit (s : State) (p : PartId) {a r u o : Nat} (w hw : Nat) (ha : a = 0x01000000 + 0x40000 * p.val + r)
    (hr : r < 0x40000) (hu : windowUnit p.val r = some (u, o)) (hp : s.partInReset p.val = false) :
    s.write32 a w hw = s.unitWrite u o w hw := by
  have := p.isLt
  have hq : (a - 0x01000000) / 0x40000 = p.val := by omega
  have ho : a % 0x40000 = r := by omega
  unfold State.write32
  rw [if_neg (by omega), if_pos (by omega)]
  simp [hq, ho, hu, hp]

/-- No module step is in progress where a partition is not in reset. -/
theorem State.no_moduleStep_of_partInReset {s : State} {p : Nat} (hp : s.partInReset p = false) :
    (s.stepOn .module 0).isSome = false := by
  simp only [State.partInReset, Bool.or_eq_false_iff] at hp
  exact hp.2

/-- REGISTER_WRITE of 4 bytes to a unit's register, in an open partition window whose partition is not in reset. -/
theorem exec_registerWrite_unit (s : State) (h : HPort) (p : PartId) {a r u o : Nat} (data hw : Word64)
    (ha : a = 0x01000000 + 0x40000 * p.val + r) (hr : r < 0x40000) (h4 : r % 4 = 0) (hu : windowUnit p.val r = some (u, o))
    (hopen : s.windowOpen a = true) (hp : s.partInReset p.val = false) :
    exec (.registerWrite (.bar0 h) a 4 data hw) s = .next (s.unitWrite u o (data.toNat % 2 ^ 32) (hw.toNat % 2 ^ 32)) := by
  have := p.isLt
  have hok : accessOk (.bar0 h) a 4 = true := by
    have h1 : a % 4 = 0 := by omega
    have h2 : a < 0x08000000 := by omega
    simp [accessOk, h1, h2]
  have hwrite : s.bar0Write h.val a 4 data.toNat hw.toNat = s.write32 a (data.toNat % 2 ^ 32) (hw.toNat % 2 ^ 32) := by
    simp [State.bar0Write, hopen, State.no_moduleStep_of_partInReset hp]
  calc exec (.registerWrite (.bar0 h) a 4 data hw) s
      = .next (s.bar0Write h.val a 4 data.toNat hw.toNat) := if_pos hok
    _ = .next (s.unitWrite u o (data.toNat % 2 ^ 32) (hw.toNat % 2 ^ 32)) := by
      rw [hwrite, State.write32_unit s p _ _ ha hr hu hp]

/-! ## Writes to FLAGS (R6) -/

theorem State.unitWrite_flags_engine (s : State) (p : PartId) (e : EngId) (w hw : Nat)
    (hs : s.inEngStep (uEng p.val e.val) = false) :
    s.unitWrite (uEng p.val e.val) 8 w hw =
      s.updEng (kEng p.val e.val) (fun x => { x with flags := BitVec.ofNat 8 (rw1c x.flags.toNat w (hw % 64)) }) := by
  simp [State.unitWrite, hs]

theorem State.unitWrite_flags_vt (s : State) (p : PartId) (v : VtId) (w hw : Nat)
    (hs : s.inEngStep (uVt p.val v.val) = false) :
    s.unitWrite (uVt p.val v.val) 8 w hw =
      s.updVt (kVt p.val v.val) (fun x => { x with flags := BitVec.ofNat 8 (rw1c x.flags.toNat w (hw % 32)) }) := by
  simp [State.unitWrite, hs]

/-- R6 of ME_FLAGS. -/
theorem set_event_survives_clear_engine {s : State} (h : HPort) (p : PartId) (e : EngId) (data hw : Word64) {i : Nat} (hi : i < 6)
    (hc : s.canon = true) (hp : s.partInReset p.val = false)
    (hopen : s.windowOpen (0x01001008 + 0x40000 * p.val + 0x1000 * e.val) = true) (hs : s.inEngStep (uEng p.val e.val) = false) :
    ∃ t, exec (.registerWrite (.bar0 h) (0x01001008 + 0x40000 * p.val + 0x1000 * e.val) 4 data hw) s = .next t ∧
      (t.engine (kEng p.val e.val)).flags.getLsbD i =
        (hw.getLsbD i || (s.engine (kEng p.val e.val)).flags.getLsbD i && !data.getLsbD i) := by
  have := e.isLt
  refine ⟨_, exec_registerWrite_unit s h p data hw (r := 0x1000 + 0x1000 * e.val + 8) (by omega) (by omega) (by omega)
    (windowUnit_engine p.val e (by decide)) hopen hp, ?_⟩
  rw [State.unitWrite_flags_engine s p e _ _ hs, State.engine_updEng_self hc]
  exact getLsbD_flags_rw1c _ data hw (n := 6) (by decide) hi

/-- R6 of VT_FLAGS. -/
theorem set_event_survives_clear_vt {s : State} (h : HPort) (p : PartId) (v : VtId) (data hw : Word64) {i : Nat} (hi : i < 5)
    (hc : s.canon = true) (hp : s.partInReset p.val = false)
    (hopen : s.windowOpen (0x01028008 + 0x40000 * p.val + 0x1000 * v.val) = true) (hs : s.inEngStep (uVt p.val v.val) = false) :
    ∃ t, exec (.registerWrite (.bar0 h) (0x01028008 + 0x40000 * p.val + 0x1000 * v.val) 4 data hw) s = .next t ∧
      (t.vt (kVt p.val v.val)).flags.getLsbD i =
        (hw.getLsbD i || (s.vt (kVt p.val v.val)).flags.getLsbD i && !data.getLsbD i) := by
  have := v.isLt
  refine ⟨_, exec_registerWrite_unit s h p data hw (r := 0x28000 + 0x1000 * v.val + 8) (by omega) (by omega) (by omega)
    (windowUnit_vt p.val v (by decide)) hopen hp, ?_⟩
  rw [State.unitWrite_flags_vt s p v _ _ hs, State.vt_updVt_self hc]
  exact getLsbD_flags_rw1c _ data hw (n := 5) (by decide) hi

/-- Settles O9: the write reaches FLAGS of its unit, and there each bit follows the RW1C rule. -/
theorem setEventSurvivesClear : Obligations.SetEventSurvivesClear := by
  unfold Obligations.SetEventSurvivesClear
  intro s h p data hw i hc hp
  exact ⟨fun e hi hopen hs => set_event_survives_clear_engine h p e data hw hi hc hp hopen hs,
    fun v hi hopen hs => set_event_survives_clear_vt h p v data hw hi hc hp hopen hs⟩

end Sys2Proof.Machine
end

section
/-!
SUPPORT. INT8 elements (R37): the integer that a byte's bits denote, rounding of a value above an integer bound, and the conversion
of a binary32 value to an INT8 element.
-/

namespace Sys2Proof.Machine

/-! ## Bytes in two's complement -/

theorem signed_toNat_ofInt {n : Int} (hlo : -128 ≤ n) (hhi : n ≤ 127) : signed 8 (BitVec.ofInt 8 n).toNat = n := by
  rw [signed, BitVec.ofNat_toNat, BitVec.setWidth_eq, BitVec.toInt_ofInt]
  exact Int.bmod_eq_of_le (by omega) (by omega)

/-- An element decodes to the integer it was made of, and the byte 0x80 decodes to −128. -/
theorem toNat_ofInt_sgn_ne_0x80 (neg : Bool) {k : Nat} (hk : k ≤ 127) : (BitVec.ofInt 8 (sgn neg k)).toNat ≠ 0x80 := by
  intro h
  have hlo : -127 ≤ sgn neg k := by unfold sgn; split <;> omega
  have hhi : sgn neg k ≤ 127 := by unfold sgn; split <;> omega
  have hs : signed 8 0x80 = sgn neg k := by rw [← h]; exact signed_toNat_ofInt (by omega) hhi
  have h80 : signed 8 0x80 = -128 := by decide
  omega

/-! ## Order and rounding of magnitudes -/

/-- Magnitudes compare as integers at the lower of the two exponents. -/
theorem Val.lt_num_false_iff (k m : Nat) (q e : Int) :
    (Val.num false k q).lt (.num false m e) = true ↔ k <<< (q - min q e).toNat < m <<< (e - min q e).toNat := by
  simp only [Val.lt, sgn, Bool.false_eq_true, if_false, decide_eq_true_eq, Nat.cast_lt]

/-- Where the exponent is raised, no mode rounds below the integer part. -/
theorem shiftRight_le_roundShift (rz : Bool) (m : Nat) {e q : Int} (h : e < q) : m >>> (q - e).toNat ≤ roundShift rz m e q := by
  simp only [roundShift, if_neg (Int.not_le.mpr h)]
  split
  · exact Nat.le_refl _
  · split
    · exact Nat.le_succ _
    · exact Nat.le_refl _

/-- A value above k × 2^q is not rounded below k at exponent q, in either mode. -/
theorem le_roundShift_of_lt (rz : Bool) {k m : Nat} {q e : Int} (h : (Val.num false k q).lt (.num false m e) = true) :
    k ≤ roundShift rz m e q := by
  rw [Val.lt_num_false_iff] at h
  rcases lt_or_ge e q with he | he
  · have hlt : k <<< (q - e).toNat < m := by simpa [Int.min_eq_right he.le] using h
    have hk : k ≤ m >>> (q - e).toNat := by
      rw [Nat.shiftRight_eq_div_pow, Nat.le_div_iff_mul_le (Nat.two_pow_pos _), ← Nat.shiftLeft_eq]
      exact hlt.le
    exact hk.trans (shiftRight_le_roundShift rz m he)
  · have hlt : k < m <<< (e - q).toNat := by simpa [Int.min_eq_left he] using h
    simpa [roundShift, he] using hlt.le

/-! ## INT8 elements (R37) -/

theorem elemVal_int8 {n : Int} (hlo : -128 ≤ n) (hhi : n ≤ 127) :
    elemVal 10 (BitVec.ofInt 8 n).toNat = .num (decide (n < 0)) n.natAbs (-6) := by
  simp only [elemVal, if_true, signed_toNat_ofInt hlo hhi]

/-- The INT8 element of a finite value: its rounded magnitude in units of 2^−6, at most 127, with its sign. -/
theorem mxElem_int8_of_num (md : OutMode) (s : Nat) {v : Word32} {neg : Bool} {m : Nat} {e : Int} (hv : f32 v = .num neg m e) :
    (mxElem 10 md s v).1 = (BitVec.ofInt 8 (sgn neg (min (roundShift md.rz m (e - ((s : Int) - 127)) (-6)) 127))).toNat := by
  simp only [mxElem, hv, if_true]

theorem mxElem_int8_ne_0x80 (md : OutMode) (s : Nat) (v : Word32) : (mxElem 10 md s v).1 ≠ 0x80 := by
  cases hv : f32 v with
  | nan => simp [mxElem, hv]
  | inf neg => simp [mxElem, hv]
  | num neg m e =>
    rw [mxElem_int8_of_num md s hv]
    exact toNat_ofInt_sgn_ne_0x80 neg (Nat.min_le_right _ _)

theorem mxElem_int8_saturates (md : OutMode) (s : Nat) {v : Word32} {neg : Bool} {m : Nat} {e : Int} (hv : f32 v = .num neg m e)
    (habove : aboveMax 10 m (e - ((s : Int) - 127)) = true) :
    (mxElem 10 md s v).1 = (BitVec.ofInt 8 (if neg then -127 else 127)).toNat := by
  have hle : 127 ≤ roundShift md.rz m (e - ((s : Int) - 127)) (-6) := le_roundShift_of_lt md.rz habove
  rw [mxElem_int8_of_num md s hv, Nat.min_eq_right hle]
  rfl

/-- Settles O8: the byte of an element gives its integer back; a conversion clamps the rounded magnitude to 127, and a value above
127 × 2^−6 rounds to 127 or more. -/
theorem int8ElementsAndConversion : Obligations.Int8ElementsAndConversion := by
  unfold Obligations.Int8ElementsAndConversion
  exact ⟨fun _ hlo hhi => elemVal_int8 hlo hhi,
    fun md s v => ⟨mxElem_int8_ne_0x80 md s v, fun _ _ _ hv habove => mxElem_int8_saturates md s hv habove⟩⟩

end Sys2Proof.Machine
end

section
/-!
SUPPORT. What every command keeps, as one relation of two states: the canonical form, the queue, and the history (what was sent, the
clock, the count of free values, the fuses). Here the relation, and one rule per field of the state and per update of a table.
-/

namespace Sys2Proof.Machine

set_option Elab.async false

/-! ## The canonical form, table by table -/

/-- A table is in canonical form and every listed entry meets P. -/
def Map.Good {β : Type} [DecidableEq β] (d : β) (P : β → Prop) (m : Map β) : Prop := Map.wf d m = true ∧ ∀ e ∈ m, P e.2

section
variable {β : Type} [DecidableEq β] {d : β} {P : β → Prop}

theorem Map.Good.nil : Map.Good d P [] := ⟨rfl, by simp⟩

theorem Map.Good.get {m : Map β} (h : Map.Good d P m) (hd : P d) (k : Nat) : P (Map.get d m k) := by
  obtain ⟨-, hm⟩ := h
  induction m with
  | nil => exact hd
  | cons e r ih =>
    unfold Map.get
    split
    · exact hm _ List.mem_cons_self
    · exact ih fun x hx => hm x (List.mem_cons_of_mem _ hx)

/-- An entry of a table after a write is the value written or an entry from before. -/
theorem Map.mem_set_val (v : β) (k : Nat) (m : Map β) (x : Nat × β) (h : x ∈ Map.set d k v m) : x.2 = v ∨ x ∈ m := by
  induction m with
  | nil =>
    unfold Map.set at h
    split at h
    · exact .inr h
    · exact .inl (by rw [List.mem_singleton.1 h])
  | cons e r ih =>
    unfold Map.set at h
    split at h
    · split at h
      · exact .inr h
      · exact (List.mem_cons.1 h).imp (fun h => by rw [h]) id
    · split at h
      · split at h
        · exact .inr (List.mem_cons_of_mem _ h)
        · exact (List.mem_cons.1 h).imp (fun h => by rw [h]) (List.mem_cons_of_mem _)
      · rcases List.mem_cons.1 h with h | h
        · exact .inr (List.mem_cons.2 (.inl h))
        · exact (ih h).imp id (List.mem_cons_of_mem _)

theorem Map.Good.set {m : Map β} {k : Nat} {v : β} (hv : P v) (h : Map.Good d P m) : Map.Good d P (Map.set d k v m) :=
  ⟨Map.set_wf d v k m h.1, fun x hx => (Map.mem_set_val v k m x hx).elim (fun e => e ▸ hv) (h.2 x)⟩

/-- A table stays in canonical form over any number of writes. -/
theorem Map.foldl_set_wf {α : Type} (l : List α) (k : α → Nat) (v : α → β) (m : Map β) (h : Map.wf d m = true) :
    Map.wf d (l.foldl (fun n a => Map.set d (k a) (v a) n) m) = true := by
  induction l generalizing m with
  | nil => exact h
  | cons a l ih => exact ih _ (Map.set_wf d _ _ _ h)

theorem Map.Good.mapV {m : Map β} {f : Nat → β → β} (hf : ∀ k x, P x → P (f k x)) (h : Map.Good d P m) :
    Map.Good d P (Map.mapV d f m) := by
  refine ⟨Map.mapV_wf d f m h.1, fun x hx => ?_⟩
  obtain ⟨y, hy, rfl⟩ := List.mem_map.1 (List.mem_of_mem_filter hx)
  exact hf _ _ (h.2 y hy)

end

/-- The listed entries of a table that meet a Boolean condition. -/
theorem Map.good_iff {β : Type} [DecidableEq β] (d : β) (p : β → Bool) (m : Map β) :
    Map.Good d (fun x => p x = true) m ↔ Map.wf d m = true ∧ m.all (fun e => p e.2) = true := by
  simp only [Map.Good, List.all_eq_true]

/-- The canonical form of a state, with each table that holds addressed memories beside them. -/
structure Canon (s : State) : Prop where
  parts : Map.wf {} s.parts = true
  units : Map.wf {} s.units = true
  bars : Map.wf {} s.bars = true
  comps : Map.wf {} s.comps = true
  tokens : Map.wf {} s.tokens = true
  grades : Map.wf 0 s.grades = true
  cool : Map.wf 0 s.cool = true
  ctxs : Map.wf {} s.ctxs = true
  eng : Map.Good {} (fun (x : Engine) => Bytes.wf x.sp = true) s.eng
  vts : Map.Good {} (fun (x : VTile) => Bytes.wf x.lm = true) s.vts
  sts : Map.Good {} (fun (x : STile) => Bytes.wf x.lm = true) s.sts
  chans : Map.Good {} (fun (x : Chan) => Map.wf {} x.secs = true) s.chans
  far : Map.Good {} (fun (x : Far) => Map.wf {} x.secs = true) s.far
  xlt_slots : Map.wf {} s.xlt.slots = true
  xlt_fqs : Map.wf {} s.xlt.fqs = true
  sch_stages : Map.wf {} s.sch.stages = true
  sch_works : Map.wf none s.sch.works = true
  net_routers : Map.wf {} s.net.routers = true
  fab_ports : Map.wf {} s.fab.ports = true
  fab_jobs : Map.wf {} s.fab.jobs = true
  pwr_isls : Map.wf {} s.pwr.isls = true
  pwr_rails : Map.wf {} s.pwr.rails = true
  fw_cores : Map.wf {} s.fw.cores = true
  fw_roles : Map.wf {} s.fw.roles = true
  fw_slots : Map.wf {} s.fw.slots = true
  host_ports : Map.wf {} s.host.ports = true
  host_fns : Map.Good {} (fun (x : Fn) => Bytes.wf x.region = true) s.host.fns
  host_mem : Map.Good [] (fun (x : Bytes) => Bytes.wf x = true) s.host.mem
  sec_slots : Map.wf {} s.sec.slots = true

/-- The canonical form as State.canon decides it, and as Canon states it. -/
theorem canon_iff (s : State) : s.canon = true ↔ Canon s := by
  constructor
  · intro h
    have hm : s.memsOk = true := (Bool.and_eq_true_iff.1 h).2
    simp only [State.memsOk, Bool.and_eq_true] at hm
    obtain ⟨⟨⟨⟨⟨⟨sp, vlm⟩, slm⟩, hmem⟩, secs⟩, fsecs⟩, region⟩ := hm
    exact {
      parts := State.parts_wf h, units := State.units_wf h, bars := State.bars_wf h, comps := State.comps_wf h, tokens := State.tokens_wf h
      grades := State.grades_wf h, cool := State.cool_wf h, ctxs := State.ctxs_wf h, xlt_slots := State.xlt_slots_wf h, xlt_fqs := State.xlt_fqs_wf h
      sch_stages := State.sch_stages_wf h, sch_works := State.sch_works_wf h, net_routers := State.net_routers_wf h,
        fab_ports := State.fab_ports_wf h, fab_jobs := State.fab_jobs_wf h
      pwr_isls := State.pwr_isls_wf h, pwr_rails := State.pwr_rails_wf h, fw_cores := State.fw_cores_wf h, fw_roles := State.fw_roles_wf h,
        fw_slots := State.fw_slots_wf h
      host_ports := State.host_ports_wf h, sec_slots := State.sec_slots_wf h
      eng := (Map.good_iff _ _ _).2 ⟨State.eng_wf h, sp⟩, vts := (Map.good_iff _ _ _).2 ⟨State.vts_wf h, vlm⟩
      sts := (Map.good_iff _ _ _).2 ⟨State.sts_wf h, slm⟩, chans := (Map.good_iff _ _ _).2 ⟨State.chans_wf h, secs⟩
      far := (Map.good_iff _ _ _).2 ⟨State.far_wf h, fsecs⟩, host_fns := (Map.good_iff _ _ _).2 ⟨State.host_fns_wf h, region⟩
      host_mem := (Map.good_iff _ _ _).2 ⟨State.host_mem_wf h, hmem⟩ }
  · intro c
    obtain ⟨eng, sp⟩ := (Map.good_iff _ _ _).1 c.eng
    obtain ⟨vts, vlm⟩ := (Map.good_iff _ _ _).1 c.vts
    obtain ⟨sts, slm⟩ := (Map.good_iff _ _ _).1 c.sts
    obtain ⟨chans, secs⟩ := (Map.good_iff _ _ _).1 c.chans
    obtain ⟨far, fsecs⟩ := (Map.good_iff _ _ _).1 c.far
    obtain ⟨fns, region⟩ := (Map.good_iff _ _ _).1 c.host_fns
    obtain ⟨mem, hmem⟩ := (Map.good_iff _ _ _).1 c.host_mem
    simp only [State.canon, State.tablesOk, State.memsOk, Bool.and_eq_true]
    simp only [eng, vts, sts, chans, far, fns, mem, sp, vlm, slm, hmem, secs, fsecs, region,
      c.parts, c.units, c.bars, c.comps, c.tokens, c.grades, c.cool, c.ctxs, c.xlt_slots, c.xlt_fqs, c.sch_stages, c.sch_works, c.net_routers,
        c.fab_ports, c.fab_jobs, c.pwr_isls, c.pwr_rails, c.fw_cores, c.fw_roles, c.fw_slots, c.host_ports, c.sec_slots, and_self]

/-! ## The relation -/

/-- State t comes of state s by what commands do: in canonical form if s is, with the same queue at the same time, and with a history that goes on. -/
structure Evolves (s t : State) : Prop where
  keepsCanon : Canon s → Canon t
  keepsPending : t.pending = s.pending
  keepsOut : s.out <+: t.out
  keepsNow : t.now = s.now
  keepsFresh : s.fresh ≤ t.fresh
  keepsSvn : s.sec.svnBlown ≤ t.sec.svnBlown
  keepsDebug : s.sec.debugUsedBlown = true → t.sec.debugUsedBlown = true

theorem Evolves.refl (s : State) : Evolves s s := ⟨id, rfl, List.prefix_rfl, rfl, le_rfl, le_rfl, id⟩

theorem Evolves.trans {r s t : State} (h : Evolves r s) (g : Evolves s t) : Evolves r t :=
  ⟨g.keepsCanon ∘ h.keepsCanon, g.keepsPending.trans h.keepsPending, h.keepsOut.trans g.keepsOut, g.keepsNow.trans h.keepsNow,
    h.keepsFresh.trans g.keepsFresh, h.keepsSvn.trans g.keepsSvn, g.keepsDebug ∘ h.keepsDebug⟩

section
variable {s t : State}

/-- What a state reads as in canonical form may be used of a state that comes of one in canonical form. -/
theorem Evolves.canonOf (h : Evolves s t) (hs : Canon s) : t.canon = true := (canon_iff t).2 (h.keepsCanon hs)

theorem Evolves.ite {c : Prop} [Decidable c] {a b : State} (ha : Evolves s a) (hb : Evolves s b) : Evolves s (if c then a else b) := by
  split
  · exact ha
  · exact hb

theorem Evolves.each {α : Type} {l : List α} {f : State → α → State} (h : Evolves s t)
    (hf : ∀ (t : State) (a : α), Evolves s t → Evolves s (f t a)) : Evolves s (t.each l f) := by
  unfold State.each
  induction l generalizing t with
  | nil => exact h
  | cons a l ih => exact ih (hf t a h)

theorem Evolves.foldl {α : Type} {l : List α} {f : State → α → State} (h : Evolves s t)
    (hf : ∀ (t : State) (a : α), Evolves s t → Evolves s (f t a)) : Evolves s (l.foldl f t) := h.each hf

/-- A fold that carries a state along: π reads it off what is carried. -/
theorem Evolves.foldlOf {α γ : Type} {l : List α} {f : γ → α → γ} (π : γ → State) {b : γ} (h : Evolves s (π b))
    (hf : ∀ (b : γ) (a : α), Evolves s (π b) → Evolves s (π (f b a))) : Evolves s (π (l.foldl f b)) := by
  induction l generalizing b with
  | nil => exact h
  | cons a l ih => exact ih (hf b a h)

/-! ## Fields of the state are set -/

/-- Several fields are set at once: what a condition does not name stays as it was. -/
theorem Evolves.record {u} (h : Evolves s t)
    (hparts : Map.wf {} t.parts = true → Map.wf {} u.parts = true := by exact fun w => w)
    (hunits : Map.wf {} t.units = true → Map.wf {} u.units = true := by exact fun w => w)
    (hbars : Map.wf {} t.bars = true → Map.wf {} u.bars = true := by exact fun w => w)
    (hcomps : Map.wf {} t.comps = true → Map.wf {} u.comps = true := by exact fun w => w)
    (htokens : Map.wf {} t.tokens = true → Map.wf {} u.tokens = true := by exact fun w => w)
    (hgrades : Map.wf 0 t.grades = true → Map.wf 0 u.grades = true := by exact fun w => w)
    (hcool : Map.wf 0 t.cool = true → Map.wf 0 u.cool = true := by exact fun w => w)
    (hctxs : Map.wf {} t.ctxs = true → Map.wf {} u.ctxs = true := by exact fun w => w)
    (heng : Map.Good {} (fun (x : Engine) => Bytes.wf x.sp = true) t.eng → Map.Good {}
      (fun (x : Engine) => Bytes.wf x.sp = true) u.eng := by exact fun w => w)
    (hvts : Map.Good {} (fun (x : VTile) => Bytes.wf x.lm = true) t.vts → Map.Good {}
      (fun (x : VTile) => Bytes.wf x.lm = true) u.vts := by exact fun w => w)
    (hsts : Map.Good {} (fun (x : STile) => Bytes.wf x.lm = true) t.sts → Map.Good {}
      (fun (x : STile) => Bytes.wf x.lm = true) u.sts := by exact fun w => w)
    (hchans : Map.Good {} (fun (x : Chan) => Map.wf {} x.secs = true) t.chans → Map.Good {}
      (fun (x : Chan) => Map.wf {} x.secs = true) u.chans := by exact fun w => w)
    (hfar : Map.Good {} (fun (x : Far) => Map.wf {} x.secs = true) t.far → Map.Good {}
      (fun (x : Far) => Map.wf {} x.secs = true) u.far := by exact fun w => w)
    (hxlt_slots : Map.wf {} t.xlt.slots = true → Map.wf {} u.xlt.slots = true := by exact fun w => w)
    (hxlt_fqs : Map.wf {} t.xlt.fqs = true → Map.wf {} u.xlt.fqs = true := by exact fun w => w)
    (hsch_stages : Map.wf {} t.sch.stages = true → Map.wf {} u.sch.stages = true := by exact fun w => w)
    (hsch_works : Map.wf none t.sch.works = true → Map.wf none u.sch.works = true := by exact fun w => w)
    (hnet_routers : Map.wf {} t.net.routers = true → Map.wf {} u.net.routers = true := by exact fun w => w)
    (hfab_ports : Map.wf {} t.fab.ports = true → Map.wf {} u.fab.ports = true := by exact fun w => w)
    (hfab_jobs : Map.wf {} t.fab.jobs = true → Map.wf {} u.fab.jobs = true := by exact fun w => w)
    (hpwr_isls : Map.wf {} t.pwr.isls = true → Map.wf {} u.pwr.isls = true := by exact fun w => w)
    (hpwr_rails : Map.wf {} t.pwr.rails = true → Map.wf {} u.pwr.rails = true := by exact fun w => w)
    (hfw_cores : Map.wf {} t.fw.cores = true → Map.wf {} u.fw.cores = true := by exact fun w => w)
    (hfw_roles : Map.wf {} t.fw.roles = true → Map.wf {} u.fw.roles = true := by exact fun w => w)
    (hfw_slots : Map.wf {} t.fw.slots = true → Map.wf {} u.fw.slots = true := by exact fun w => w)
    (hhost_ports : Map.wf {} t.host.ports = true → Map.wf {} u.host.ports = true := by exact fun w => w)
    (hhost_fns : Map.Good {} (fun (x : Fn) => Bytes.wf x.region = true) t.host.fns → Map.Good {}
      (fun (x : Fn) => Bytes.wf x.region = true) u.host.fns := by exact fun w => w)
    (hhost_mem : Map.Good [] (fun (x : Bytes) => Bytes.wf x = true) t.host.mem → Map.Good []
      (fun (x : Bytes) => Bytes.wf x = true) u.host.mem := by exact fun w => w)
    (hsec_slots : Map.wf {} t.sec.slots = true → Map.wf {} u.sec.slots = true := by exact fun w => w)
    (hpending : u.pending = t.pending := by exact rfl) (hout : t.out <+: u.out := by exact List.prefix_rfl)
    (hnow : u.now = t.now := by exact rfl) (hfresh : t.fresh ≤ u.fresh := by exact le_rfl)
    (hsvn : t.sec.svnBlown ≤ u.sec.svnBlown := by exact le_rfl)
    (hdebug : t.sec.debugUsedBlown = true → u.sec.debugUsedBlown = true := by exact fun w => w) : Evolves s u :=
  ⟨fun c => {
      parts := hparts (h.keepsCanon c).parts, units := hunits (h.keepsCanon c).units, bars := hbars (h.keepsCanon c).bars,
      comps := hcomps (h.keepsCanon c).comps, tokens := htokens (h.keepsCanon c).tokens, grades := hgrades (h.keepsCanon c).grades,
      cool := hcool (h.keepsCanon c).cool, ctxs := hctxs (h.keepsCanon c).ctxs, eng := heng (h.keepsCanon c).eng,
      vts := hvts (h.keepsCanon c).vts, sts := hsts (h.keepsCanon c).sts, chans := hchans (h.keepsCanon c).chans,
      far := hfar (h.keepsCanon c).far, xlt_slots := hxlt_slots (h.keepsCanon c).xlt_slots, xlt_fqs := hxlt_fqs (h.keepsCanon c).xlt_fqs,
      sch_stages := hsch_stages (h.keepsCanon c).sch_stages, sch_works := hsch_works (h.keepsCanon c).sch_works, net_routers := hnet_routers
        (h.keepsCanon c).net_routers,
      fab_ports := hfab_ports (h.keepsCanon c).fab_ports, fab_jobs := hfab_jobs (h.keepsCanon c).fab_jobs, pwr_isls := hpwr_isls
        (h.keepsCanon c).pwr_isls,
      pwr_rails := hpwr_rails (h.keepsCanon c).pwr_rails, fw_cores := hfw_cores (h.keepsCanon c).fw_cores, fw_roles := hfw_roles
        (h.keepsCanon c).fw_roles,
      fw_slots := hfw_slots (h.keepsCanon c).fw_slots, host_ports := hhost_ports (h.keepsCanon c).host_ports, host_fns := hhost_fns
        (h.keepsCanon c).host_fns,
      host_mem := hhost_mem (h.keepsCanon c).host_mem, sec_slots := hsec_slots (h.keepsCanon c).sec_slots
    }, hpending.trans h.keepsPending, h.keepsOut.trans hout, hnow.trans h.keepsNow, h.keepsFresh.trans hfresh, h.keepsSvn.trans hsvn,
    fun d => hdebug (h.keepsDebug d)⟩

/-! One field. -/

theorem Evolves.setParts {m} (h : Evolves s t) (hm : Map.wf {} t.parts = true → Map.wf {} m = true) :
    Evolves s { t with parts := m } :=
  h.record (hparts := hm)

theorem Evolves.setUnits {m} (h : Evolves s t) (hm : Map.wf {} t.units = true → Map.wf {} m = true) :
    Evolves s { t with units := m } :=
  h.record (hunits := hm)

theorem Evolves.setBars {m} (h : Evolves s t) (hm : Map.wf {} t.bars = true → Map.wf {} m = true) :
    Evolves s { t with bars := m } :=
  h.record (hbars := hm)

theorem Evolves.setComps {m} (h : Evolves s t) (hm : Map.wf {} t.comps = true → Map.wf {} m = true) :
    Evolves s { t with comps := m } :=
  h.record (hcomps := hm)

theorem Evolves.setTokens {m} (h : Evolves s t) (hm : Map.wf {} t.tokens = true → Map.wf {} m = true) :
    Evolves s { t with tokens := m } :=
  h.record (htokens := hm)

theorem Evolves.setCtxs {m} (h : Evolves s t) (hm : Map.wf {} t.ctxs = true → Map.wf {} m = true) :
    Evolves s { t with ctxs := m } :=
  h.record (hctxs := hm)

theorem Evolves.setXlt {x} (h : Evolves s t) (hslots : Map.wf {} t.xlt.slots = true → Map.wf {} x.slots = true := by exact fun w => w)
  (hfqs : Map.wf {} t.xlt.fqs = true → Map.wf {} x.fqs = true := by exact fun w => w) :
    Evolves s { t with xlt := x } :=
  h.record (hxlt_slots := hslots) (hxlt_fqs := hfqs)

theorem Evolves.setSch {x} (h : Evolves s t) (hstages : Map.wf {} t.sch.stages = true → Map.wf {} x.stages = true := by exact fun w => w)
  (hworks : Map.wf none t.sch.works = true → Map.wf none x.works = true := by exact fun w => w) :
    Evolves s { t with sch := x } :=
  h.record (hsch_stages := hstages) (hsch_works := hworks)

theorem Evolves.setNet {x} (h : Evolves s t) (hrouters : Map.wf {} t.net.routers = true → Map.wf {} x.routers = true := by exact fun w => w) :
    Evolves s { t with net := x } :=
  h.record (hnet_routers := hrouters)

theorem Evolves.setFab {x} (h : Evolves s t) (hports : Map.wf {} t.fab.ports = true → Map.wf {} x.ports = true := by exact fun w => w)
  (hjobs : Map.wf {} t.fab.jobs = true → Map.wf {} x.jobs = true := by exact fun w => w) :
    Evolves s { t with fab := x } :=
  h.record (hfab_ports := hports) (hfab_jobs := hjobs)

theorem Evolves.setPwr {x} (h : Evolves s t) (hisls : Map.wf {} t.pwr.isls = true → Map.wf {} x.isls = true := by exact fun w => w)
  (hrails : Map.wf {} t.pwr.rails = true → Map.wf {} x.rails = true := by exact fun w => w) :
    Evolves s { t with pwr := x } :=
  h.record (hpwr_isls := hisls) (hpwr_rails := hrails)

theorem Evolves.setFw {x} (h : Evolves s t) (hcores : Map.wf {} t.fw.cores = true → Map.wf {} x.cores = true := by exact fun w => w)
  (hroles : Map.wf {} t.fw.roles = true → Map.wf {} x.roles = true := by exact fun w => w)
    (hslots : Map.wf {} t.fw.slots = true → Map.wf {} x.slots = true := by exact fun w => w) :
    Evolves s { t with fw := x } :=
  h.record (hfw_cores := hcores) (hfw_roles := hroles) (hfw_slots := hslots)

theorem Evolves.setHost {x} (h : Evolves s t) (hports : Map.wf {} t.host.ports = true → Map.wf {} x.ports = true := by exact fun w => w)
    (hfns : Map.Good {} (fun (x : Fn) => Bytes.wf x.region = true) t.host.fns →
      Map.Good {} (fun (x : Fn) => Bytes.wf x.region = true) x.fns := by exact fun w => w)
    (hmem : Map.Good [] (fun (x : Bytes) => Bytes.wf x = true) t.host.mem → Map.Good []
      (fun (x : Bytes) => Bytes.wf x = true) x.mem := by exact fun w => w) :
    Evolves s { t with host := x } :=
  h.record (hhost_ports := hports) (hhost_fns := hfns) (hhost_mem := hmem)

theorem Evolves.setSec {x} (h : Evolves s t) (hslots : Map.wf {} t.sec.slots = true → Map.wf {} x.slots = true := by exact fun w => w)
    (hsvn : t.sec.svnBlown ≤ x.svnBlown := by exact le_rfl)
    (hdebug : t.sec.debugUsedBlown = true → x.debugUsedBlown = true := by exact fun w => w) : Evolves s { t with sec := x } :=
  h.record (hsec_slots := hslots) (hsvn := hsvn) (hdebug := hdebug)

theorem Evolves.setFresh {n} (h : Evolves s t) (hn : t.fresh ≤ n := by exact Nat.le_add_right _ _) : Evolves s { t with fresh := n } :=
  h.record (hfresh := hn)

theorem Evolves.emit {o} (h : Evolves s t) : Evolves s (t.emit o) :=
  h.record (hout := List.prefix_append _ _)

theorem Evolves.setStaged {x} (h : Evolves s t) : Evolves s { t with staged := x } := h.record

theorem Evolves.setFreeCids {x} (h : Evolves s t) : Evolves s { t with freeCids := x } := h.record

theorem Evolves.setNextToken {x} (h : Evolves s t) : Evolves s { t with nextToken := x } := h.record

theorem Evolves.setFreedXids {x} (h : Evolves s t) : Evolves s { t with freedXids := x } := h.record

theorem Evolves.setNextXid {x} (h : Evolves s t) : Evolves s { t with nextXid := x } := h.record

theorem Evolves.setPail {x} (h : Evolves s t) : Evolves s { t with pail := x } := h.record

theorem Evolves.setFlt {x} (h : Evolves s t) : Evolves s { t with flt := x } := h.record

theorem Evolves.setJrn {x} (h : Evolves s t) : Evolves s { t with jrn := x } := h.record

theorem Evolves.setBoot {x} (h : Evolves s t) : Evolves s { t with boot := x } := h.record

/-! ## One entry of a table is set -/

theorem Evolves.updPart {n f} (h : Evolves s t) : Evolves s (t.updPart n f) := h.setParts (Map.upd_wf _ _ _ _)

theorem Evolves.updUnit {n f} (h : Evolves s t) : Evolves s (t.updUnit n f) := h.setUnits (Map.upd_wf _ _ _ _)

theorem Evolves.updBar {c b f} (h : Evolves s t) : Evolves s (t.updBar c b f) := h.setBars (Map.upd_wf _ _ _ _)

theorem Evolves.updComp {n f} (h : Evolves s t) : Evolves s (t.updComp n f) := h.setComps (Map.upd_wf _ _ _ _)

theorem Evolves.updCtx {n f} (h : Evolves s t) : Evolves s (t.updCtx n f) := h.setCtxs (Map.upd_wf _ _ _ _)

theorem Evolves.updTok {n f} (h : Evolves s t) : Evolves s (t.updTok n f) := h.setTokens (Map.upd_wf _ _ _ _)

theorem Evolves.updSlot {x i f} (h : Evolves s t) : Evolves s (t.updSlot x i f) := h.setXlt (hslots := Map.upd_wf _ _ _ _)

theorem Evolves.updFq {c f} (h : Evolves s t) : Evolves s (t.updFq c f) := h.setXlt (hfqs := Map.upd_wf _ _ _ _)

theorem Evolves.updStage {c g f} (h : Evolves s t) : Evolves s (t.updStage c g f) := h.setSch (hstages := Map.upd_wf _ _ _ _)

theorem Evolves.updRouter {r f} (h : Evolves s t) : Evolves s (t.updRouter r f) := h.setNet (hrouters := Map.upd_wf _ _ _ _)

theorem Evolves.updHport {n f} (h : Evolves s t) : Evolves s (t.updHport n f) := h.setHost (hports := Map.upd_wf _ _ _ _)

theorem Evolves.updFport {n f} (h : Evolves s t) : Evolves s (t.updFport n f) := h.setFab (hports := Map.upd_wf _ _ _ _)

theorem Evolves.updJob {c f} (h : Evolves s t) : Evolves s (t.updJob c f) := h.setFab (hjobs := Map.upd_wf _ _ _ _)

theorem Evolves.updIsl {i f} (h : Evolves s t) : Evolves s (t.updIsl i f) := h.setPwr (hisls := Map.upd_wf _ _ _ _)

theorem Evolves.updRail {r f} (h : Evolves s t) : Evolves s (t.updRail r f) := h.setPwr (hrails := Map.upd_wf _ _ _ _)

theorem Evolves.updCore {c f} (h : Evolves s t) : Evolves s (t.updCore c f) := h.setFw (hcores := Map.upd_wf _ _ _ _)

theorem Evolves.updRole {r f} (h : Evolves s t) : Evolves s (t.updRole r f) := h.setFw (hroles := Map.upd_wf _ _ _ _)

theorem Evolves.updMslot {i f} (h : Evolves s t) : Evolves s (t.updMslot i f) := h.setFw (hslots := Map.upd_wf _ _ _ _)

theorem Evolves.setWork {n w} (h : Evolves s t) : Evolves s (t.setWork n w) := h.setSch (hworks := Map.set_wf _ _ _ _)

/-! Of the tables whose entries hold addressed memories: a change that keeps the canonical form of the memory, and (`…Of`) one that need
do so only of the entry it finds, in a canonical state. -/

theorem Evolves.updEngOf {k f} (h : Evolves s t) (hf : Canon s → Bytes.wf (f (t.engine k)).sp = true) : Evolves s (t.updEng k f) :=
  ⟨fun c => { h.keepsCanon c with eng := .set (hf c) (h.keepsCanon c).eng }, h.keepsPending, h.keepsOut, h.keepsNow, h.keepsFresh, h.keepsSvn,
    h.keepsDebug⟩

theorem Evolves.updEng {k f} (h : Evolves s t) (hf : ∀ x : Engine, Bytes.wf x.sp = true → Bytes.wf (f x).sp = true := by exact fun _ hx => hx) :
    Evolves s (t.updEng k f) :=
  h.updEngOf fun c => hf _ ((h.keepsCanon c).eng.get rfl k)

theorem Evolves.updVtOf {k f} (h : Evolves s t) (hf : Canon s → Bytes.wf (f (t.vt k)).lm = true) : Evolves s (t.updVt k f) :=
  ⟨fun c => { h.keepsCanon c with vts := .set (hf c) (h.keepsCanon c).vts }, h.keepsPending, h.keepsOut, h.keepsNow, h.keepsFresh, h.keepsSvn,
    h.keepsDebug⟩

theorem Evolves.updVt {k f} (h : Evolves s t) (hf : ∀ x : VTile, Bytes.wf x.lm = true → Bytes.wf (f x).lm = true := by exact fun _ hx => hx) :
    Evolves s (t.updVt k f) :=
  h.updVtOf fun c => hf _ ((h.keepsCanon c).vts.get rfl k)

theorem Evolves.updStOf {k f} (h : Evolves s t) (hf : Canon s → Bytes.wf (f (t.tile k)).lm = true) : Evolves s (t.updSt k f) :=
  ⟨fun c => { h.keepsCanon c with sts := .set (hf c) (h.keepsCanon c).sts }, h.keepsPending, h.keepsOut, h.keepsNow, h.keepsFresh, h.keepsSvn,
    h.keepsDebug⟩

theorem Evolves.updSt {k f} (h : Evolves s t) (hf : ∀ x : STile, Bytes.wf x.lm = true → Bytes.wf (f x).lm = true := by exact fun _ hx => hx) :
    Evolves s (t.updSt k f) :=
  h.updStOf fun c => hf _ ((h.keepsCanon c).sts.get rfl k)

theorem Evolves.updChanOf {k f} (h : Evolves s t) (hf : Canon s → Map.wf {} (f (t.chan k)).secs = true) : Evolves s (t.updChan k f) :=
  ⟨fun c => { h.keepsCanon c with chans := .set (hf c) (h.keepsCanon c).chans }, h.keepsPending, h.keepsOut, h.keepsNow, h.keepsFresh, h.keepsSvn,
    h.keepsDebug⟩

theorem Evolves.updChan {k f} (h : Evolves s t) (hf : ∀ x : Chan, Map.wf {} x.secs = true → Map.wf {} (f x).secs = true := by exact fun _ hx => hx) :
    Evolves s (t.updChan k f) :=
  h.updChanOf fun c => hf _ ((h.keepsCanon c).chans.get rfl k)

theorem Evolves.updFarOf {k f} (h : Evolves s t) (hf : Canon s → Map.wf {} (f (t.farP k)).secs = true) : Evolves s (t.updFar k f) :=
  ⟨fun c => { h.keepsCanon c with far := .set (hf c) (h.keepsCanon c).far }, h.keepsPending, h.keepsOut, h.keepsNow, h.keepsFresh, h.keepsSvn,
    h.keepsDebug⟩

theorem Evolves.updFar {k f} (h : Evolves s t) (hf : ∀ x : Far, Map.wf {} x.secs = true → Map.wf {} (f x).secs = true := by exact fun _ hx => hx) :
    Evolves s (t.updFar k f) :=
  h.updFarOf fun c => hf _ ((h.keepsCanon c).far.get rfl k)

theorem Evolves.updFnOf {k f} (h : Evolves s t) (hf : Canon s → Bytes.wf (f (t.fn k)).region = true) : Evolves s (t.updFn k f) :=
  ⟨fun c => { h.keepsCanon c with host_fns := .set (hf c) (h.keepsCanon c).host_fns }, h.keepsPending, h.keepsOut, h.keepsNow, h.keepsFresh,
    h.keepsSvn, h.keepsDebug⟩

theorem Evolves.updFn {k f} (h : Evolves s t) (hf : ∀ x : Fn, Bytes.wf x.region = true → Bytes.wf (f x).region = true := by exact fun _ hx => hx) :
    Evolves s (t.updFn k f) :=
  h.updFnOf fun c => hf _ ((h.keepsCanon c).host_fns.get rfl k)

theorem Evolves.updHmemOf {k f} (h : Evolves s t) (hf : Canon s → Bytes.wf (f (t.hmem k)) = true) : Evolves s (t.updHmem k f) :=
  ⟨fun c => { h.keepsCanon c with host_mem := .set (hf c) (h.keepsCanon c).host_mem }, h.keepsPending, h.keepsOut, h.keepsNow, h.keepsFresh,
    h.keepsSvn, h.keepsDebug⟩

theorem Evolves.updHmem {k f} (h : Evolves s t) (hf : ∀ x : Bytes, Bytes.wf x = true → Bytes.wf
  (f x) = true := by exact fun _ hx => Bytes.wrL_wf _ _ _ hx) :
    Evolves s (t.updHmem k f) :=
  h.updHmemOf fun c => hf _ ((h.keepsCanon c).host_mem.get rfl k)

end

/-! ## Changes of an engine or a tile that leave its addressed memory alone -/

@[simp] theorem STile.setX_lm (x : STile) (r : Nat) (v : Word64) : (x.setX r v).lm = x.lm := by
  unfold STile.setX
  split <;> rfl

@[simp] theorem STile.retire_lm (x : STile) (v : Word64) : (x.retire v).lm = x.lm := STile.setX_lm x _ v

@[simp] theorem VTile.setA_lm (x : VTile) (i : Nat) (v : Word64) : (x.setA i v).lm = x.lm := by
  unfold VTile.setA
  split <;> rfl

@[simp] theorem Engine.left_sp (x : Engine) (c : Cmd) : (x.left c).sp = x.sp := by
  unfold Engine.left
  split
  · rfl
  · rfl
  · split <;> rfl
  · rfl

@[simp] theorem Engine.updUnitQ_sp (x : Engine) (w : EUnit) (f : UnitQ → UnitQ) : (x.updUnitQ w f).sp = x.sp := by
  cases w <;> rfl

theorem Engine.lefts_sp (runs : List Run) (x : Engine) : (runs.foldl (fun y v => y.left v.cmd) x).sp = x.sp := by
  induction runs generalizing x with
  | nil => rfl
  | cons r l ih => exact (ih _).trans (x.left_sp r.cmd)

/-- A compare takes free values and gives none back. -/
theorem VTile.compare_fresh (x : VTile) (i : VI) (n : Nat) (g : Val → Val → Bool) (h : Int → Int → Bool) :
    n ≤ (x.compare i n g h).2.2 := by
  unfold VTile.compare
  refine List.foldlRecOn (motive := fun (r : BitVec 128 × Byte × Nat) => n ≤ r.2.2) _ _ le_rfl fun r hr l _ => ?_
  dsimp only
  split
  · exact hr
  · dsimp only
    split
    · exact Nat.le_succ_of_le hr
    · exact hr

/-! ## Answers -/

/-- Of an answer that may be missing: the state there is comes of s. -/
def EvolvesIn (s : State) (o : Option State) : Prop := ∀ u, o = some u → Evolves s u

theorem EvolvesIn.none {s : State} : EvolvesIn s none := fun _ e => nomatch e

theorem EvolvesIn.some {s t : State} (h : Evolves s t) : EvolvesIn s (some t) := fun _ e => Option.some.inj e ▸ h

theorem EvolvesIn.ite {s : State} {c : Prop} [Decidable c] {a b : Option State} (ha : EvolvesIn s a) (hb : EvolvesIn s b) :
    EvolvesIn s (if c then a else b) := by
  split
  · exact ha
  · exact hb

/-- A command answers a next state, which comes of s. -/
def Answers (s : State) (o : Host.Outcome State Fault Refusal) : Prop := ∃ t, o = .next t ∧ Evolves s t

theorem Answers.next {s t : State} (h : Evolves s t) : Answers s (.next t) := ⟨t, rfl, h⟩

end Sys2Proof.Machine
end

section
/-!
SUPPORT. The definitions of Machine/Ops: each answers a state that comes of the one before.
-/

namespace Sys2Proof.Machine

set_option Elab.async false

variable {s t : State}

theorem Evolves.updRing {c r f} (h : Evolves s t) : Evolves s (t.updRing c r f) := h.updFn

theorem Evolves.qUse {id n} (h : Evolves s t) : Evolves s (t.qUse id n) := h.setNet

theorem Evolves.qFree {id n} (h : Evolves s t) : Evolves s (t.qFree id n) := h.setNet

theorem Evolves.tray {code arg} (h : Evolves s t) : Evolves s (t.tray code arg) := h.emit

theorem Evolves.draw (h : Evolves s t) : Evolves s (t.draw).2 := h.setFresh

theorem Evolves.drawBytes {n} (h : Evolves s t) : Evolves s (t.drawBytes n).2 := h.setFresh

theorem Evolves.setDom {n on} (h : Evolves s t) : Evolves s (t.setDom n on) := h.setPwr

theorem Evolves.setPhys {i on} (h : Evolves s t) : Evolves s (t.setPhys i on) := h.each fun _ _ h' => h'.setDom

theorem Evolves.routersOff {d} (h : Evolves s t) : Evolves s (t.routersOff d) :=
  ((h.setNet (hrouters := by dsimp only; exact Map.mapV_wf _ _ _)).each fun _ _ h' => h'.updIsl).setDom

theorem Evolves.routersUp {d} (h : Evolves s t) : Evolves s (t.routersUp d) := (h.each fun _ _ h' => h'.updIsl).setDom

theorem Evolves.append {e} (h : Evolves s t) : Evolves s (t.append e) := h.setJrn

theorem Evolves.durableRun {rs} (h : Evolves s t) : Evolves s (t.durableRun rs) := h.setJrn.each fun _ _ h' => h'.append

theorem Evolves.durable {r} (h : Evolves s t) : Evolves s (t.durable r) := h.durableRun

theorem Evolves.jwaitRun {rs} (h : Evolves s t) : Evolves s (t.jwaitRun rs) := h.setJrn

theorem Evolves.jwait {r} (h : Evolves s t) : Evolves s (t.jwait r) := h.jwaitRun

theorem Evolves.journalRun {rs} (h : Evolves s t) : Evolves s (t.journalRun rs) := .ite h.durableRun h.jwaitRun

theorem Evolves.journal {r} (h : Evolves s t) : Evolves s (t.journal r) := h.journalRun

theorem Evolves.measure {i d} (h : Evolves s t) : Evolves s (t.measure i d) := .ite h h.setSec

theorem Evolves.secCode {c} (h : Evolves s t) : Evolves s (t.secCode c) := h.setSec

theorem Evolves.pwrCode {c arg} (h : Evolves s t) : Evolves s (t.pwrCode c arg) := h.setPwr.tray

theorem Evolves.mtrCode {c} (h : Evolves s t) : Evolves s (t.mtrCode c) := h.setPail.tray

theorem Evolves.hostCode {h₁ c} (h : Evolves s t) : Evolves s (t.hostCode h₁ c) := h.updHport.tray

theorem Evolves.fabCode {f c} (h : Evolves s t) : Evolves s (t.fabCode f c) := h.updFport.tray

theorem Evolves.updPool {id f} (h : Evolves s t) : Evolves s (t.updPool id f) := h.setNet

theorem Evolves.freeOn {id} (h : Evolves s t) : Evolves s (t.freeOn id) := h.updPool

theorem Evolves.countDrop {r} (h : Evolves s t) : Evolves s (t.countDrop r) := h.updRouter.emit

theorem Evolves.dropFlit {r id} (h : Evolves s t) : Evolves s (t.dropFlit r id) := h.freeOn.countDrop

theorem Evolves.updXing {x f} (h : Evolves s t) : Evolves s (t.updXing x f) := h.setNet

end Sys2Proof.Machine
end

section
/-!
SUPPORT. The definitions of Machine/FabRoute: each answers a state that comes of the one before.
-/

namespace Sys2Proof.Machine

set_option Elab.async false

variable {s t : State}

theorem Evolves.transmit {p f} (h : Evolves s t) : Evolves s (t.transmit p f) := (h.each fun _ _ h' => h'.emit).updFport.emit

theorem Evolves.sendLink {p o} (h : Evolves s t) : Evolves s (t.sendLink p o) := h.updFport.emit

theorem Evolves.replayOut {p l} (h : Evolves s t) : Evolves s (t.replayOut p l) := h.updFport.each fun _ _ h' => h'.emit

theorem Evolves.portDrain {p fuel} (h : Evolves s t) : Evolves s (t.portDrain p fuel) := by
  induction fuel generalizing t with
  | zero => exact h
  | succ n ih =>
    unfold State.portDrain
    refine .ite h ?_
    split
    · exact h
    · exact ih h.updFport.transmit

theorem Evolves.portSend {p f} (h : Evolves s t) : Evolves s (t.portSend p f) := .ite h.transmit h.updFport.portDrain

theorem Evolves.freeFrame {p f} (h : Evolves s t) : Evolves s (t.freeFrame p f) := h.updFport

theorem Evolves.dropFrame {p f} (h : Evolves s t) : Evolves s (t.dropFrame p f) := h.freeFrame.updFport

theorem Evolves.noRoute {n} (h : Evolves s t) : Evolves s (t.noRoute n) := h.tray.emit

theorem Evolves.sendFrame {f} (h : Evolves s t) : Evolves s (t.sendFrame f) := by
  unfold State.sendFrame
  split
  · exact .ite h h.noRoute
  · exact h.portSend

theorem Evolves.forward {p f} (h : Evolves s t) : Evolves s (t.forward p f) := by
  unfold State.forward
  extract_lets -underBinder
  exact .ite h (by split; exacts [h.updFport.freeFrame.updFport.noRoute, .ite h.updFport.freeFrame.portSend (.ite h.updFport.freeFrame.updFport.portSend h)])

theorem Evolves.forwardAll (h : Evolves s t) : Evolves s (t.forwardAll) := h.each fun _ _ h' => (h'.each fun _ _ h1' => h1'.forward)

theorem Evolves.detourLost {before} (h : Evolves s t) : Evolves s (t.detourLost before) := by
  unfold State.detourLost
  extract_lets -underBinder
  refine h.each fun t1 _ h1 => ?_
  extract_lets -underBinder w t2
  have h2 : Evolves s t2 := by
    unfold t2
    clear_value w
    split
    · exact h1
    · exact h1.setFab
  exact .ite h2 h2.noRoute

end Sys2Proof.Machine
end

section
/-!
SUPPORT. The definitions of Machine/Memory: each answers a state that comes of the one before.
-/

namespace Sys2Proof.Machine

set_option Elab.async false

variable {s t : State}

theorem Evolves.queueRow {ch row} (h : Evolves s t) : Evolves s (t.queueRow ch row) := .ite h h.updChan.jwait

theorem Evolves.poisonSet {ch off} (h : Evolves s t) : Evolves s (t.poisonSet ch off) := by
  unfold State.poisonSet
  split
  · exact h
  · exact h.updComp

theorem Evolves.poisonBlock {ch b} (h : Evolves s t) : Evolves s (t.poisonBlock ch b) :=
  (h.updChan fun _ hx => Map.foldl_set_wf _ _ _ _ hx).queueRow.each fun _ _ h' => h'.poisonSet

theorem Evolves.decodeSector {ch i err} (h : Evolves s t) : Evolves s (t.decodeSector ch i err).2 := by
  unfold State.decodeSector
  extract_lets -underBinder
  split
  · exact h
  · split
    · exact h
    · extract_lets -underBinder _ _ t1
      have h1 : Evolves s t1 := h.updChan
      exact .ite h1.queueRow h1
    · dsimp only
      exact (h.updChan fun _ hx => by dsimp only; exact Map.set_wf _ _ _ _ hx).queueRow.poisonSet
    · dsimp only
      exact h.poisonBlock

theorem Evolves.drawErr (h : Evolves s t) : Evolves s (t.drawErr).2 := h.setFresh

theorem Evolves.rdSector {ch i keysel cls err} (h : Evolves s t) : Evolves s (t.rdSector ch i keysel cls err).2.2 := by
  unfold State.rdSector
  dsimp only
  split
  · exact h.decodeSector.updChan
  · exact h.decodeSector.updChan

theorem Evolves.wrSector {ch i keysel cls d} (h : Evolves s t) : Evolves s (t.wrSector ch i keysel cls d) :=
  h.updChan (fun _ hx => Map.set_wf _ _ _ _ hx)

theorem Evolves.wrSectorErr {ch i keysel cls d err} (h : Evolves s t) : Evolves s (t.wrSectorErr ch i keysel cls d err) := by
  unfold State.wrSectorErr
  split
  · exact h.poisonBlock.wrSector
  · exact h.wrSector

theorem Evolves.wrPartial {ch i keysel cls d mask err} (h : Evolves s t) : Evolves s (t.wrPartial ch i keysel cls d mask err).2 := by
  unfold State.wrPartial
  dsimp only
  split
  · exact h.rdSector
  · exact h.rdSector.wrSector

theorem Evolves.drawFar (h : Evolves s t) : Evolves s (t.drawFar).2 := h.setFresh

theorem Evolves.rdFar {d i keysel cid} (h : Evolves s t) : Evolves s (t.rdFar d i keysel cid).2.2 := by
  unfold State.rdFar
  dsimp only
  split
  · exact h.drawFar.updFar.updFar
  · exact h.drawFar.updFar

theorem Evolves.wrFar {d i keysel cid v} (h : Evolves s t) : Evolves s (t.wrFar d i keysel cid v) := h.updFar (fun _ hx => Map.set_wf _ _ _ _ hx)

theorem Evolves.countRead {kind port a n} (h : Evolves s t) : Evolves s (t.countRead kind port a n) := .ite h.updHport h.updFar

theorem Evolves.writeSet {c w slot bs} (h : Evolves s t) : Evolves s (t.writeSet c w slot bs) := by
  unfold State.writeSet
  split
  · exact h
  · exact (by split; exacts [h, (h.foldl fun _ _ h' => (by dsimp only; split; exacts [h', h'.wrSector]))])

theorem Evolves.serve {r ovr} (h : Evolves s t) : Evolves s (t.serve r ovr) := by
  unfold State.serve
  extract_lets -underBinder t1
  have h1 : Evolves s t1 := .ite h.updChan h
  split
  exacts [h1.rdSector.emit, h1.wrSectorErr.emit, .ite h1.wrPartial.emit h1.wrPartial.emit]

theorem Evolves.serveKey {ch slot fuel} (h : Evolves s t) : Evolves s (t.serveKey ch slot fuel) := by
  induction fuel generalizing t with
  | zero => exact h
  | succ n ih =>
    unfold State.serveKey
    dsimp only
    split
    · exact h
    · exact ih h.updChan.serve

theorem Evolves.enter {r} (h : Evolves s t) : Evolves s (t.enter r) := .ite h.updChan h.serve

theorem Evolves.holdReq {r} (h : Evolves s t) : Evolves s (t.holdReq r) := .ite h.updChan.updXing h.updChan

theorem Evolves.freeHeld {pkg} (h : Evolves s t) : Evolves s (t.freeHeld pkg) := h.updXing

theorem Evolves.letIn {ch fuel} (h : Evolves s t) : Evolves s (t.letIn ch fuel) := by
  induction fuel generalizing t with
  | zero => exact h
  | succ n ih =>
    unfold State.letIn
    split
    · exact h
    · exact .ite (ih h.updChan.freeHeld.enter) h

theorem Evolves.letInAll {pkg} (h : Evolves s t) : Evolves s (t.letInAll pkg) := h.each fun _ _ h' => h'.letIn

theorem Evolves.serveWaiting {ch slot} (h : Evolves s t) : Evolves s (t.serveWaiting ch slot) := h.serveKey.letInAll

theorem Evolves.serveSlot {slot} (h : Evolves s t) : Evolves s (t.serveSlot slot) :=
  h.each fun _ _ h' => .ite ((h'.serveKey.updChan.each fun _ _ h1' => h1'.freeHeld.serve).letInAll) h'

end Sys2Proof.Machine
end

section
/-!
SUPPORT. The definitions of Machine/Records: each answers a state that comes of the one before.
-/

namespace Sys2Proof.Machine

set_option Elab.async false

variable {s t : State}

theorem Evolves.hostTx {h₁ n} (h : Evolves s t) : Evolves s (t.hostTx h₁ n) := h.updHport

theorem Evolves.hostRx {h₁ n} (h : Evolves s t) : Evolves s (t.hostRx h₁ n) := h.updHport

theorem Evolves.logPage {c page kind} (h : Evolves s t) : Evolves s (t.logPage c page kind) :=
  .ite h (.ite h.updFn (.ite h.updFn (h.updHmem.hostTx.updFn)))

theorem Evolves.signal {c r} (h : Evolves s t) : Evolves s (t.signal c r) := .ite h.emit.updRing h

theorem Evolves.cqVisible {c r slot rec_} (h : Evolves s t) : Evolves s (t.cqVisible c r slot rec_) := h.updHmem.updRing.hostTx.logPage

theorem Evolves.cqWrite {c r rec_} (h : Evolves s t) : Evolves s (t.cqWrite c r rec_) := .ite h.updRing.updRing h.updRing.cqVisible.signal

theorem Evolves.ringSettle {c r} (h : Evolves s t) : Evolves s (t.ringSettle c r) := h.updRing

theorem Evolves.recall {c line} (h : Evolves s t) : Evolves s (t.recall c line) := .ite h.updFn.emit h

theorem Evolves.wrRegion {f o bs} (h : Evolves s t) : Evolves s (t.wrRegion f o bs) :=
  ((h.each fun _ _ h' => h'.recall).updFn (fun _ hx => Bytes.wrL_wf _ _ _ hx)).logPage

theorem Evolves.toJournal {c r rec_} (h : Evolves s t) : Evolves s (t.toJournal c r rec_) := h.updFn.wrRegion

theorem Evolves.putRecord {c r era rec_} (h : Evolves s t) : Evolves s (t.putRecord c r era rec_) :=
  .ite (.ringSettle (.ite h.updRing.cqWrite h.updRing.toJournal)) h.toJournal

theorem Evolves.flushEvent {c} (h : Evolves s t) : Evolves s (t.flushEvent c) := by
  unfold State.flushEvent
  split
  · exact h
  · exact h.updFn.cqWrite

theorem Evolves.event {c code arg} (h : Evolves s t) : Evolves s (t.event c code arg) := h.updFn.flushEvent

theorem Evolves.eventAll {cid code arg} (h : Evolves s t) : Evolves s (t.eventAll cid code arg) := h.each fun _ _ h' => h'.event

theorem Evolves.mbxRespond {i status err tag ws} (h : Evolves s t) : Evolves s (t.mbxRespond i status err tag ws) := h.updMslot

theorem Evolves.answer {r status ws} (h : Evolves s t) : Evolves s (t.answer r status ws) := by
  unfold State.answer
  split
  · exact h.emit
  · exact h.mbxRespond
  · exact h.updFn.putRecord

theorem Evolves.sendAnswers (h : Evolves s t) : Evolves s (t.sendAnswers) := h.setJrn.each fun _ _ h' => h'.answer

theorem Evolves.answerDurable {r ws} (h : Evolves s t) : Evolves s (t.answerDurable r ws) := by
  unfold State.answerDurable
  split
  · exact h.sendAnswers.answer
  · exact h.setJrn

theorem Evolves.reply {r status ws} (h : Evolves s t) : Evolves s (t.reply r status ws) := by
  unfold State.reply
  split
  · exact h
  · exact h.answer

theorem Evolves.mbxError {r err} (h : Evolves s t) : Evolves s (t.mbxError r err) := by
  unfold State.mbxError
  split
  · exact h.mbxRespond
  · exact h

end Sys2Proof.Machine
end

section
/-!
SUPPORT. The definitions of Machine/Xlate: each answers a state that comes of the one before.
-/

namespace Sys2Proof.Machine

set_option Elab.async false

variable {s t : State}

theorem Evolves.touch {u va} (h : Evolves s t) : Evolves s (t.touch u va) := by
  unfold State.touch
  split
  · exact h
  · exact h.updUnit

theorem Evolves.fillCache {u idx r} (h : Evolves s t) : Evolves s (t.fillCache u idx r) := h.updUnit

theorem Evolves.fault {f} (h : Evolves s t) : Evolves s (t.fault f) := .ite h h.setXlt

theorem Evolves.xlFault {u status idx epoch va len acc} (h : Evolves s t) : Evolves s (t.xlFault u status idx epoch va len acc) := h.fault

theorem Evolves.cacheKey {cache keysel} (h : Evolves s t) : Evolves s (t.cacheKey cache keysel) := .ite h.setSec h

theorem Evolves.tcAdd {x i n} (h : Evolves s t) : Evolves s (t.tcAdd x i n) := h.updCtx

theorem Evolves.direct {ch cls} (h : Evolves s t) : Evolves s (t.direct ch cls) := .ite h h.updChan

theorem Evolves.rdTarget {cid e o cls} (h : Evolves s t) : Evolves s (t.rdTarget cid e o cls).2.2 := by
  unfold State.rdTarget
  split
  · exact (by split; exacts [h, h.cacheKey.direct.drawErr.rdSector])
  · exact h.cacheKey.rdFar
  · exact h.updHport

theorem Evolves.wrTarget {cid e o cls d} (h : Evolves s t) : Evolves s (t.wrTarget cid e o cls d) := by
  unfold State.wrTarget
  split
  · exact (by split; exacts [h, h.cacheKey.direct.drawErr.wrSectorErr])
  · exact h.cacheKey.wrFar
  · exact h.updHmem.updHport

theorem Evolves.rdRow {cid e o n cls} (h : Evolves s t) : Evolves s (t.rdRow cid e o n cls).2.2 := by
  unfold State.rdRow
  exact .foldlOf (fun r : List Byte × Bool × State => r.2.2) h fun _ _ h' => h'.rdTarget

theorem Evolves.wrRow {cid e o cls bs} (h : Evolves s t) : Evolves s (t.wrRow cid e o cls bs) := h.foldl fun _ _ h' => h'.wrTarget

theorem Evolves.dlog {x e o n} (h : Evolves s t) : Evolves s (t.dlog x e o n) := .ite ((h.each fun _ _ h' => h'.logPage)) h

theorem Evolves.ackWithdraw {x idx u} (h : Evolves s t) : Evolves s (t.ackWithdraw x idx u) := by
  unfold State.ackWithdraw
  split
  · exact h
  · exact .ite h.setXlt.updSlot.answer h.setXlt

theorem Evolves.ackAll {u} (h : Evolves s t) : Evolves s (t.ackAll u) := h.each fun _ _ h' => h'.ackWithdraw

end Sys2Proof.Machine
end

section
/-!
SUPPORT. The definitions of Machine/Work: each answers a state that comes of the one before.
-/

namespace Sys2Proof.Machine

set_option Elab.async false

variable {s t : State}

theorem Evolves.updLmem {u f} (h : Evolves s t)
    (hf : ∀ m : Bytes, Bytes.wf m = true → Bytes.wf (f m) = true := by exact fun _ hm => Bytes.wrL_wf _ _ _ hm) : Evolves s (t.updLmem u f) := by
  unfold State.updLmem
  split
  · exact h.updEng fun _ hx => hf _ hx
  · exact h.updVt fun _ hx => hf _ hx
  · exact h.updSt fun _ hx => hf _ hx

theorem Evolves.handBack {u} (h : Evolves s t) : Evolves s (t.handBack u) := by
  unfold State.handBack
  split
  · exact h.qFree
  · exact h.qFree.each fun _ _ h' => h'.qFree
  · exact h.qFree

theorem Evolves.resetUnit {u} (h : Evolves s t) : Evolves s (t.resetUnit u) := by
  unfold State.resetUnit
  dsimp only
  split
  · exact h.handBack.updEng (fun _ _ => rfl)
  · exact h.handBack.updVt (fun _ _ => rfl)
  · exact h.handBack.updSt (fun _ _ => rfl)

theorem Evolves.clearUnit {u} (h : Evolves s t) : Evolves s (t.clearUnit u) := by
  unfold State.clearUnit
  dsimp only
  split
  · exact h.handBack.updEng (fun _ _ => rfl)
  · exact h.handBack.updVt (fun _ _ => rfl)
  · exact h.handBack.updSt (fun _ _ => rfl)

theorem Evolves.leaveUnit {u} (h : Evolves s t) : Evolves s (t.leaveUnit u) := h.updUnit.ackAll

theorem Evolves.evict {c g} (h : Evolves s t) : Evolves s (t.evict c g) := (h.each fun _ _ h' => h'.clearUnit.leaveUnit).updStage

theorem Evolves.loadProg {u} (h : Evolves s t) : Evolves s (t.loadProg u) := by
  unfold State.loadProg
  extract_lets -underBinder
  split
  · exact h
  · exact h.updVt (fun _ hx => by split; exacts [Bytes.wrL_wf _ _ _ hx, hx])
  · exact h.updSt (fun _ hx => by split; exacts [Bytes.wrL_wf _ _ _ hx, hx])

theorem Evolves.settleBatch {c} (h : Evolves s t) : Evolves s (t.settleBatch c) := by
  unfold State.settleBatch
  dsimp only
  split
  · exact h
  · exact .ite h.updComp (.ite h h.updComp)

theorem Evolves.leaveAll {x} (h : Evolves s t) : Evolves s (t.leaveAll x) := (h.each fun _ _ h' => h'.evict).each fun _ _ h' => h'.clearUnit.leaveUnit

theorem Evolves.journalCtx {x} (h : Evolves s t) : Evolves s (t.journalCtx x) := h.journal

theorem Evolves.ctxIdle {x} (h : Evolves s t) : Evolves s (t.ctxIdle x) := .ite h.updCtx.journalCtx h.updCtx

theorem Evolves.settleCtx {x} (h : Evolves s t) : Evolves s (t.settleCtx x) :=
  .ite h (by dsimp only; split; exacts [.ite h.ctxIdle h, .ite h ((h.each fun _ _ h' => h'.evict).ctxIdle), h])

theorem Evolves.finishWork {w status} (h : Evolves s t) : Evolves s (t.finishWork w status) := by
  unfold State.finishWork
  split
  · exact h
  · exact .settleCtx (.settleBatch (.putRecord (.each (.ite h.setWork.setSch h.setWork) fun _ _ h' => h'.updStage)))

theorem Evolves.discardIf {p code} (h : Evolves s t) : Evolves s (t.discardIf p code) := h.each fun _ _ h' => h'.finishWork

theorem Evolves.settleStage {c g} (h : Evolves s t) : Evolves s (t.settleStage c g) := by
  unfold State.settleStage
  split
  · exact h
  · exact .ite h.setWork.updStage h

theorem Evolves.poisonWork {u} (h : Evolves s t) : Evolves s (t.poisonWork u) := by
  unfold State.poisonWork
  split
  · exact h
  · exact h.finishWork

theorem Evolves.workFlags {u f} (h : Evolves s t) : Evolves s (t.workFlags u f) := by
  unfold State.workFlags
  split
  · exact h
  · exact h.setWork

end Sys2Proof.Machine
end

section
/-!
SUPPORT. The definitions of Machine/Notices: each answers a state that comes of the one before.
-/

namespace Sys2Proof.Machine

set_option Elab.async false

variable {s t : State}

theorem Evolves.flood {f but} (h : Evolves s t) : Evolves s (t.flood f but) := h.each fun _ _ h' => h'.portSend

theorem Evolves.noticeNew {p f code node mgen fgen} (h : Evolves s t) : Evolves s (t.noticeNew p f code node mgen fgen).2 := by
  unfold State.noticeNew
  dsimp only
  split
  · exact h
  · exact h.setFab.flood

theorem Evolves.originate {code fjob fgen} (h : Evolves s t) : Evolves s (t.originate code fjob fgen) := h.noticeNew

theorem Evolves.dropJobFrames {fjob fgen} (h : Evolves s t) : Evolves s (t.dropJobFrames fjob fgen) :=
  h.each fun _ _ h' => ((h'.each fun _ _ h1' => h1'.updFport.dropFrame).each fun _ _ h1' => h1'.updFport)

theorem Evolves.abandonJob {c code} (h : Evolves s t) : Evolves s (t.abandonJob c code) :=
  .ite ((h.updJob.dropJobFrames.each fun _ _ h' => h'.finishWork).eventAll.tray.emit) h

theorem Evolves.sendAbandon {c} (h : Evolves s t) : Evolves s (t.sendAbandon c) := .ite h.originate.setFab.abandonJob h

theorem Evolves.touchJob {c w keep} (h : Evolves s t) : Evolves s (t.touchJob c w keep).2 := by
  unfold State.touchJob
  split
  · exact h
  · exact (by split; exacts [.ite h.updJob h, h.finishWork])

end Sys2Proof.Machine
end

section
/-!
SUPPORT. The definitions of Machine/Store: each answers a state that comes of the one before.
-/

namespace Sys2Proof.Machine

set_option Elab.async false

variable {s t : State}

theorem Evolves.readStore {c} (h : Evolves s t) : Evolves s (t.readStore c) := .ite h.countRead h

end Sys2Proof.Machine
end

section
/-!
SUPPORT. The definitions of Machine/Watts: each answers a state that comes of the one before.
-/

namespace Sys2Proof.Machine

set_option Elab.async false

variable {s t : State}

theorem Evolves.setClock {p set pulse} (h : Evolves s t) : Evolves s (t.setClock p set pulse) := h.each fun _ _ h' => h'.updIsl

theorem Evolves.runClock {p} (h : Evolves s t) : Evolves s (t.runClock p) := h.each fun _ _ h' => h'.updIsl

theorem Evolves.runAgreed {c} (h : Evolves s t) : Evolves s (t.runAgreed c) :=
  .ite h ((h.each fun _ _ h' => .ite ((h'.each fun _ _ h1' => h1'.updIsl)) h'))

theorem Evolves.followMhz {c old} (h : Evolves s t) : Evolves s (t.followMhz c old) := .ite h h.runAgreed

end Sys2Proof.Machine
end

section
/-!
SUPPORT. The definitions of Machine/CompOps: each answers a state that comes of the one before.
-/

namespace Sys2Proof.Machine

set_option Elab.async false

variable {s t : State}

theorem Evolves.grantSlot {k h₁} (h : Evolves s t) : Evolves s (t.grantSlot k h₁) := h.setSec (hslots := Map.set_wf _ _ _ _)

theorem Evolves.withdrawSlot {k} (h : Evolves s t) : Evolves s (t.withdrawSlot k) := h.serveSlot.setSec (hslots := Map.set_wf _ _ _ _)

theorem Evolves.loadFrame {frames p typ key} (h : Evolves s t) : Evolves s (t.loadFrame frames p typ key) := by
  unfold State.loadFrame
  extract_lets -underBinder
  split
  · exact h.each fun _ _ h' => h'.updEng
  · exact h.each fun _ _ h' => h'.updVt
  · exact h.each fun _ _ h' => h'.updSt
  · extract_lets -underBinder _ _ _ t1
    have h1 : Evolves s t1 := h.each fun _ _ h' => .ite ((h'.updVt (fun _ hx => Bytes.wrL_wf _ _ _ hx))) h'
    exact h1.each fun _ _ h' => .ite ((h'.updSt (fun _ hx => Bytes.wrL_wf _ _ _ hx))) h'
  · exact h

theorem Evolves.loadAll {frames p lp} (h : Evolves s t) : Evolves s (t.loadAll frames p lp) := h.each fun _ _ h' => h'.loadFrame

theorem Evolves.wipe {p} (h : Evolves s t) : Evolves s (t.wipe p) := by
  unfold State.wipe
  extract_lets -underBinder t1 t2 t3
  have h1 : Evolves s t1 := h.each fun _ _ h' => (h'.updEng (fun _ _ => rfl))
  have h2 : Evolves s t2 := h1.each fun _ _ h' => (h'.updVt (fun _ _ => rfl))
  have h3 : Evolves s t3 := h2.each fun _ _ h' => (h'.updSt (fun _ _ => rfl))
  exact h3.each fun _ _ h' => h'.leaveUnit

theorem Evolves.journalSpares {p} (h : Evolves s t) : Evolves s (t.journalSpares p) := h.journal

theorem Evolves.useSpares {p} (h : Evolves s t) : Evolves s (t.useSpares p) := h.updPart

theorem Evolves.settleSpares {p} (h : Evolves s t) : Evolves s (t.settleSpares p) := .ite h h.useSpares.journalSpares

theorem Evolves.freePart {p} (h : Evolves s t) : Evolves s (t.freePart p) := by
  unfold State.freePart
  split
  · exact h.wipe.updPart.settleSpares.setClock
  · exact h.wipe.updPart.settleSpares.setClock
  · exact h

theorem Evolves.powerUp {p} (h : Evolves s t) : Evolves s (t.powerUp p) :=
  .ite h ((h.each fun _ _ h' => (h'.updChan (fun _ hx => by split; exacts [hx, rfl]))).updPart.setClock)

theorem Evolves.gateOff {p} (h : Evolves s t) : Evolves s (t.gateOff p) :=
  .ite ((h.each fun _ _ h' => (h'.updChan (fun _ hx => by split; exacts [hx, rfl]))).updPart.setClock) h

theorem Evolves.claim {p c lp} (h : Evolves s t) : Evolves s (t.claim p c lp) := h.powerUp.updPart

theorem Evolves.bindPart {p} (h : Evolves s t) : Evolves s (t.bindPart p) := .ite (.ite h.updPart.runClock.pwrCode h.updPart.runClock) h

theorem Evolves.compRun {c st pre} (h : Evolves s t) : Evolves s (t.compRun c st pre) := h.updComp.journalRun

theorem Evolves.compState {c st} (h : Evolves s t) : Evolves s (t.compState c st) := h.compRun

theorem Evolves.dropEntries {c} (h : Evolves s t) : Evolves s (t.dropEntries c) := (h.setNet (hrouters := by dsimp only; exact Map.mapV_wf _ _ _))

theorem Evolves.unassign {f} (h : Evolves s t) : Evolves s (t.unassign f) := .ite ((h.updFn (fun _ _ => rfl)).journal) h

theorem Evolves.freeCid {c} (h : Evolves s t) : Evolves s (t.freeCid c) := by
  unfold State.freeCid
  extract_lets -underBinder t1 t2 t3 t4 _ t5 t6 t7
  have h1 : Evolves s t1 := h.each fun _ _ h' => h'.unassign
  have h2 : Evolves s t2 := by
    unfold t2
    split
    · exact h1
    · exact h1.withdrawSlot
  have h3 : Evolves s t3 := h2.dropEntries
  have h4 : Evolves s t4 := h3.setBars (Map.filter_wf _ _ _)
  have h5 : Evolves s t5 := h4.setSch (hstages := Map.filter_wf _ _ _)
  have h6 : Evolves s t6 := .ite h5 h5.updJob.journal
  have h7 : Evolves s t7 := h6.updComp
  exact h7.setFreeCids

theorem Evolves.resumeTile {k kpst} (h : Evolves s t) : Evolves s (t.resumeTile k kpst) :=
  h.draw.updSt fun x hx => (STile.setX_lm x _ _).symm ▸ hx

theorem Evolves.resetBarriers {c} (h : Evolves s t) : Evolves s (t.resetBarriers c) := h.setBars (Map.mapV_wf _ _ _)

theorem Evolves.breakBarriers {c lps} (h : Evolves s t) : Evolves s (t.breakBarriers c lps) := by
  unfold State.breakBarriers
  refine h.each fun t1 _ h1 => ?_
  extract_lets -underBinder _ _ _ t2 t3 t4 t5 _ t6
  have h2 : Evolves s t2 := h1.updBar
  have h3 : Evolves s t3 := h2.each fun _ _ h1' => h1'.resumeTile
  have h4 : Evolves s t4 := h3.each fun _ _ h1' => (by split; exacts [h1', h1'.updSt])
  have h5 : Evolves s t5 := h4.each fun _ _ h1' => h1'.updCtx
  have h6 : Evolves s t6 := h5.each fun _ _ h1' => h1'.finishWork
  exact .ite h6.sendAbandon h6

theorem Evolves.breakTrees {c lps code} (h : Evolves s t) : Evolves s (t.breakTrees c lps code) := by
  unfold State.breakTrees
  extract_lets -underBinder _ _ _ _ _ t1 _ _ t2
  have h1 : Evolves s t1 := (h.setNet (hrouters := by dsimp only; exact Map.mapV_wf _ _ _))
  have h2 : Evolves s t2 := h1.each fun _ _ h' => (h'.each fun _ _ h1' => h1'.dropFlit.updRouter)
  exact h2.each fun _ _ h' => (h'.each fun _ _ h1' => h1'.finishWork)

end Sys2Proof.Machine
end

section
/-!
SUPPORT. The definitions of Machine/Reset: each answers a state that comes of the one before.
-/

namespace Sys2Proof.Machine

set_option Elab.async false

variable {s t : State}

theorem Evolves.health (h : Evolves s t) : Evolves s (t.health) := h.jwait

theorem Evolves.fltLast {cause step outcome target started} (h : Evolves s t) : Evolves s (t.fltLast cause step outcome target started) := h.setFlt

theorem Evolves.askStep {l target cause} (h : Evolves s t) : Evolves s (t.askStep l target cause) := .ite h h.setFlt

theorem Evolves.stepDone {l target} (h : Evolves s t) : Evolves s (t.stepDone l target) := h.setFlt

theorem Evolves.dropTrees {u} (h : Evolves s t) : Evolves s (t.dropTrees u) := h.updRouter

theorem Evolves.bumpUnit {u} (h : Evolves s t) : Evolves s (t.bumpUnit u) := h.dropTrees.updUnit.journal

theorem Evolves.ctxStepStart {x code} (h : Evolves s t) : Evolves s (t.ctxStepStart x code) := by
  unfold State.ctxStepStart
  split
  · exact h
  · exact h
  · exact h.discardIf.updCtx

theorem Evolves.ctxStepEnd {x cause started} (h : Evolves s t) : Evolves s (t.ctxStepEnd x cause started) := by
  unfold State.ctxStepEnd
  split
  · exact (h.leaveAll.setBars (Map.mapV_wf _ _ _)).updCtx.ctxIdle.setFlt.stepDone.fltLast.health
  · exact h

theorem Evolves.ctxStep {x code cause} (h : Evolves s t) : Evolves s (t.ctxStep x code cause) := h.ctxStepStart.ctxStepEnd

theorem Evolves.ctxResetKeep {x cause} (h : Evolves s t) : Evolves s (t.ctxResetKeep x cause) := by
  unfold State.ctxResetKeep
  split
  · exact h
  · exact h
  · exact .ite h.updCtx.ctxStepEnd h.updCtx.ctxStepEnd.updCtx

theorem Evolves.setToken {t₁ f} (h : Evolves s t) : Evolves s (t.setToken t₁ f) := h.updTok.journal

theorem Evolves.failHandoff {t₁} (h : Evolves s t) : Evolves s (t.failHandoff t₁) := h.setToken.reply

theorem Evolves.loseToken {t₁} (h : Evolves s t) : Evolves s (t.loseToken t₁) := .ite h.setToken.reply h.setToken

theorem Evolves.ackHandoff {t₁ o} (h : Evolves s t) : Evolves s (t.ackHandoff t₁ o) := by
  unfold State.ackHandoff
  dsimp only
  split
  · exact h.journal.updTok
  · exact h.journal.updTok.answerDurable

theorem Evolves.startTeardown {x code req} (h : Evolves s t) : Evolves s (t.startTeardown x code req) := by
  unfold State.startTeardown
  split
  · exact h
  · exact h
  · exact h.discardIf.updCtx

theorem Evolves.releaseToken {t₁} (h : Evolves s t) : Evolves s (t.releaseToken t₁) :=
  .ite ((h.each fun _ _ h' => h'.ackHandoff).setToken.reply) ((h.each fun _ _ h' => h'.ackHandoff).setToken)

theorem Evolves.finishTeardown {x} (h : Evolves s t) : Evolves s (t.finishTeardown x) := by
  unfold State.finishTeardown
  extract_lets -underBinder
  split
  · extract_lets -underBinder t1 t2 t3 _ t4 t5 t6
    have h1 : Evolves s t1 := h.leaveAll
    have h2 : Evolves s t2 := h1.each fun _ _ h' => h'.releaseToken
    have h3 : Evolves s t3 := h2.withdrawSlot
    have h4 : Evolves s t4 := h3.setXlt (hslots := Map.filter_wf _ _ _)
    have h5 : Evolves s t5 := h4.updCtx.journal
    have h6 : Evolves s t6 := h5.setFreedXids
    split
    exacts [h6, h6.answer]
  · exact h

theorem Evolves.takeLadle {p e cause step read} (h : Evolves s t) : Evolves s (t.takeLadle p e cause step read) := h.setFlt

theorem Evolves.loseTokens {hit} (h : Evolves s t) : Evolves s (t.loseTokens hit) :=
  (h.each fun _ _ h' => h'.loseToken).each fun _ _ h' => h'.failHandoff

theorem Evolves.resolveTokens (h : Evolves s t) : Evolves s (t.resolveTokens) :=
  h.each fun _ _ h' => .ite ((h'.each fun _ _ h1' => h1'.ackHandoff).failHandoff) ((h'.each fun _ _ h1' => h1'.ackHandoff))

theorem Evolves.discardNew {c code} (h : Evolves s t) : Evolves s (t.discardNew c code) := h.discardIf

theorem Evolves.startUnbind {c req force more} (h : Evolves s t) : Evolves s (t.startUnbind c req force more) := h.updComp.compState

theorem Evolves.tearComp {c} (h : Evolves s t) : Evolves s (t.tearComp c) :=
  (h.each fun _ _ h' => .ite h'.emit h').each fun _ _ h' => h'.startTeardown

theorem Evolves.unwind {c cause} (h : Evolves s t) : Evolves s (t.unwind c cause) := by
  unfold State.unwind
  split
  · exact h
  · extract_lets -underBinder t1 t2 t3 t4
    have h1 : Evolves s t1 := .ite h.discardNew h
    have h2 : Evolves s t2 := h1.each fun _ _ h' => h'.evict
    have h3 : Evolves s t3 := h2.each fun _ _ h' => h'.freePart
    have h4 : Evolves s t4 := .ite h3.journal h3
    exact .ite h h4.updComp

theorem Evolves.rollback {c cause ans} (h : Evolves s t) : Evolves s (t.rollback c cause ans) := by
  unfold State.rollback
  split
  · exact h
  · split
    · exact h
    · exact h.unwind.updComp.freeCid.answer
    · exact h.unwind.updComp
    · exact h.unwind.updComp
    · extract_lets -underBinder t1 _ t2 _ t3
      have h1 : Evolves s t1 := h.unwind.updComp
      have h2 : Evolves s t2 := .ite h1.setFab h1
      have h3 : Evolves s t3 := .ite h2 h2.readStore
      exact .ite h3.answer.startUnbind.tearComp ((h3.each fun _ _ h' => h'.loadAll).compState.answer)

theorem Evolves.memberLost {c p code cause} (h : Evolves s t) : Evolves s (t.memberLost c p code cause) := by
  unfold State.memberLost
  extract_lets -underBinder
  split
  · exact .ite h.updComp h.rollback
  · extract_lets -underBinder _ _ t1 t2 _ t3 t4 t5 t6 t7 t8 t9
    have h1 : Evolves s t1 := .ite h.discardIf.discardIf h
    have h2 : Evolves s t2 := by unfold t2; split; exacts [.ite h1 (.ite h1.unwind h1.rollback), h1]
    have h3 : Evolves s t3 := h2.breakBarriers
    have h4 : Evolves s t4 := h3.breakTrees
    have h5 : Evolves s t5 := h4.each fun _ _ h' => h'.ctxResetKeep
    have h6 : Evolves s t6 := h5.loseTokens
    have h7 : Evolves s t7 := h6.sendAbandon
    have h8 : Evolves s t8 := h7.updComp
    have h9 : Evolves s t9 := h8.compState
    exact .ite h2 (by split; exacts [h9.startUnbind.tearComp, h9])

theorem Evolves.marked {p} (h : Evolves s t) : Evolves s (t.marked p) := .ite ((h.setBoot.each fun _ _ h' => h'.emit)) h.setBoot

theorem Evolves.announce {p} (h : Evolves s t) : Evolves s (t.announce p) := h.setBoot.marked.tray

theorem Evolves.resetChan {p k} (h : Evolves s t) : Evolves s (t.resetChan p k) :=
  ((h.each fun _ _ h' => h'.countDrop).each fun _ _ h' => h'.updChan.freeHeld).updChan (fun _ _ => rfl)

/-- The grades of a partition's packages are those of another state of the same run, with two of them zeroed. -/
theorem Evolves.setGradesFrom {u m} (h : Evolves s t) (hu : Evolves s u) (hm : Map.wf 0 u.grades = true → Map.wf 0 m = true) :
    Evolves s { t with grades := m } :=
  ⟨fun c => { h.keepsCanon c with grades := hm (hu.keepsCanon c).grades }, h.keepsPending, h.keepsOut, h.keepsNow, h.keepsFresh, h.keepsSvn,
    h.keepsDebug⟩

theorem Evolves.resetPart {p} (h : Evolves s t) : Evolves s (t.resetPart p) := by
  unfold State.resetPart
  extract_lets -underBinder t1 t2
  have h1 : Evolves s t1 := h.each fun _ _ h' => h'.resetUnit.leaveUnit.bumpUnit
  have h2 : Evolves s t2 := h1.wipe
  clear_value t2
  have h3 : Evolves s (t2.each (List.range 8) (fun s k => s.resetChan p k)) := h2.each fun _ _ h' => h'.resetChan
  exact h3.setGradesFrom h2 fun w => Map.set_wf _ _ _ _ (Map.set_wf _ _ _ _ w)

theorem Evolves.loseRegions {c} (h : Evolves s t) : Evolves s (t.loseRegions c) := h.each fun _ _ h' => .ite ((h'.updFn (fun _ _ => rfl))) h'

theorem Evolves.takeOffline {p code cause ladle} (h : Evolves s t) : Evolves s (t.takeOffline p code cause ladle) := by
  unfold State.takeOffline
  extract_lets -underBinder _ t1 t2 t3
  have h1 : Evolves s t1 := .ite ((h.each fun _ _ h' => h'.takeLadle)) h
  have h2 : Evolves s t2 := .ite h1.loseRegions h1
  have h3 : Evolves s t3 := by unfold t3; split; exacts [h2.memberLost, h2.memberLost, h2]
  exact h3.resetPart.updPart.marked

theorem Evolves.returnSpares {p} (h : Evolves s t) : Evolves s (t.returnSpares p) :=
  h.each fun _ _ h' => (by dsimp only; split; exacts [h'.updUnit.bumpUnit.updPart, h'.updUnit.bumpUnit.updPart, h'])

theorem Evolves.openUnits {p} (h : Evolves s t) : Evolves s (t.openUnits p) := h.each fun _ _ h' => h'.updUnit

theorem Evolves.trainChans {p} (h : Evolves s t) : Evolves s (t.trainChans p) := .ite ((h.each fun _ _ h' => h'.updChan)) h

theorem Evolves.bringBack {p bad retest} (h : Evolves s t) : Evolves s (t.bringBack p bad retest) := by
  unfold State.bringBack
  extract_lets -underBinder _ _ t1 t2 t3 _ t4 t5 t6
  have h1 : Evolves s t1 := .ite h.returnSpares h
  have h2 : Evolves s t2 := h1.useSpares
  have h3 : Evolves s t3 := h2.each fun _ _ h' => (h'.updChan (fun _ _ => rfl))
  have h4 : Evolves s t4 := h3.openUnits
  have h5 : Evolves s t5 := h4.updPart
  have h6 : Evolves s t6 := h5.setClock
  exact .ite h h6.journal.journalSpares.loseTokens.announce

theorem Evolves.startStep {l target cause} (h : Evolves s t) : Evolves s (t.startStep l target cause) := by
  unfold State.startStep
  split
  · exact h
  · split
    · split
      exacts [h, h, h.ctxStepStart.askStep]
    · exact .ite h (.askStep (.updUnit (by split; exacts [h, h.finishWork])))
    · exact .ite h.askStep (.askStep (.trainChans (.ite h.setFlt h.setFlt.takeOffline)))
    · exact h.askStep
    · exact h.askStep

theorem Evolves.restUnits {x cause} (h : Evolves s t) : Evolves s (t.restUnits x cause).2 := h.each fun _ _ h' => h'.startStep

theorem Evolves.endTeardown {x} (h : Evolves s t) : Evolves s (t.endTeardown x) := by
  unfold State.endTeardown
  split
  · exact .ite h.restUnits.finishTeardown h.restUnits
  · exact h

theorem Evolves.losePart {p cause} (h : Evolves s t) : Evolves s (t.losePart p cause) := .ite h h.takeOffline.startStep

theorem Evolves.retireUnit {u final cause} (h : Evolves s t) : Evolves s (t.retireUnit u final cause) := by
  unfold State.retireUnit
  extract_lets -underBinder _ t1 t2 _ _ t3
  have h1 : Evolves s t1 := h.dropTrees.updUnit
  have h2 : Evolves s t2 := by unfold t2; split; exacts [h1.updPart.setFlt, h1.updPart.setFlt, h1.updPart.setFlt]
  have h3 : Evolves s t3 := by
    unfold t3
    split
    · extract_lets -underBinder t4
      have h4 : Evolves s t4 := by unfold t4; split; exacts [h2, h2.finishWork]
      exact .ite (by split; exacts [h4, (by split; exacts [h4, h4.ctxStep])]) h2.losePart
    · exact h2.useSpares
    · exact h2.useSpares
    · exact .ite h2.useSpares h2.losePart
  exact .ite h h3.journalSpares.health

theorem Evolves.stageLost {u cause} (h : Evolves s t) : Evolves s (t.stageLost u cause) := by
  unfold State.stageLost
  extract_lets -underBinder t1
  have h1 : Evolves s t1 := by unfold t1; split; exacts [h, h.finishWork]
  split
  · exact h1
  · exact (by split; exacts [h1, h1.ctxStep])

theorem Evolves.resetOne {u} (h : Evolves s t) : Evolves s (t.resetOne u) := h.resetUnit.leaveUnit.bumpUnit.updUnit

theorem Evolves.engStep {u cause started passed ladleRead} (h : Evolves s t) : Evolves s (t.engStep u cause started passed ladleRead) := by
  unfold State.engStep
  extract_lets -underBinder t1 t2 t3 t4 t5 t6 _ t7 _ t8
  have h1 : Evolves s t1 := by
    unfold t1
    split
    · exact .ite h h.takeLadle
    · exact h
  have h2 : Evolves s t2 := h1.stageLost
  have h3 : Evolves s t3 := by
    unfold t3
    split
    · exact h2.each fun _ _ h' => h'.resetOne
    · exact h2
  have h4 : Evolves s t4 := h3.resetOne
  have h5 : Evolves s t5 := h4.loadProg
  have h6 : Evolves s t6 := h5.updUnit
  have h7 : Evolves s t7 := h6.setFlt
  have h8 : Evolves s t8 := .ite h7.retireUnit h7
  exact h8.stepDone.fltLast.health

theorem Evolves.testDegraded {p bad} (h : Evolves s t) : Evolves s (t.testDegraded p bad) :=
  (h.each fun _ _ h' => (h'.updChan (fun _ _ => rfl))).openUnits

theorem Evolves.failUnits {p bad cause} (h : Evolves s t) : Evolves s (t.failUnits p bad cause) := h.each fun _ _ h' => h'.retireUnit

theorem Evolves.partStep {p code cause started bad retest} (h : Evolves s t) : Evolves s (t.partStep p code cause started bad retest) :=
  .health (.fltLast (.stepDone (.bringBack (.setFlt (by split; exacts [h.failUnits, h.resetPart.testDegraded.failUnits, h.takeOffline.failUnits])))))

end Sys2Proof.Machine
end

section
/-!
SUPPORT. The definitions of Machine/MemoryRows: each answers a state that comes of the one before.
-/

namespace Sys2Proof.Machine

set_option Elab.async false

variable {s t : State}

theorem Evolves.request {r} (h : Evolves s t) : Evolves s (t.request r) := .ite h (.ite h.enter h.holdReq)

theorem Evolves.memAccess {p ch off keysel m op data mask err} (h : Evolves s t) : Evolves s (t.memAccess p ch off keysel m op data mask err) := by
  unfold State.memAccess
  split
  · exact h
  · exact h.request

theorem Answers.memRead {p ch off keysel sender err} (h : Evolves s t) : Answers s (execMemRead p ch off keysel sender err t) := .next h.memAccess

theorem Answers.memWrite {p ch off keysel sender data err} (h : Evolves s t) : Answers s (execMemWrite p ch off keysel sender data err t) :=
  .next h.memAccess

theorem Answers.memPartialWrite {p ch off keysel sender data mask err} (h : Evolves s t) : Answers s (execMemPartialWrite p ch off keysel sender data mask err t) :=
  .next h.memAccess

theorem Evolves.correctedCheck {ch b} (h : Evolves s t) : Evolves s (t.correctedCheck ch b) := .ite h.updChan.queueRow h.updChan

theorem Evolves.patrolStep {ch err} (h : Evolves s t) : Evolves s (t.patrolStep ch err) :=
  .ite h.updChan.decodeSector (by split; exacts [h.updChan, h.updChan.correctedCheck, h.updChan.poisonBlock])

theorem Answers.patrolRead {p ch err} (h : Evolves s t) : Answers s (execPatrolRead p ch err t) := .next (.ite h.patrolStep h)

theorem Evolves.repairChan {ch unrepaired} (h : Evolves s t) : Evolves s (t.repairChan ch unrepaired) := .ite h.updChan.journal h.updChan

theorem Evolves.repairReset {p f retest} (h : Evolves s t) : Evolves s (t.repairReset p f retest) :=
  .ite h ((h.takeOffline.each fun _ _ h' => h'.repairChan).bringBack)

theorem Answers.repairReset {p finds retest} (h : Evolves s t) : Answers s (execRepairReset p finds retest t) := .next h.repairReset

theorem Evolves.readGolden {c w} (h : Evolves s t) : Evolves s (t.readGolden c w) := h.countRead

theorem Evolves.reload {c w} (h : Evolves s t) : Evolves s (t.reload c w) := by
  unfold State.reload
  extract_lets -underBinder _ t1 t2 t3
  have h1 : Evolves s t1.2 := by unfold t1; split; exacts [h.readGolden.writeSet, h]
  have h2 : Evolves s t2 := h1
  have h3 : Evolves s t3 := h2.updComp
  exact .ite h2.updComp.eventAll (.ite h3.emit.eventAll h3)

theorem Answers.weightReloadDone {c w} (h : Evolves s t) : Answers s (execWeightReloadDone c w t) := .next (.ite h.reload h)

theorem Answers.weightReloadRetry {c w} (h : Evolves s t) : Answers s (execWeightReloadRetry c w t) := .next (.ite h.reload h)

theorem Evolves.fenceHot {p} (h : Evolves s t) : Evolves s (t.fenceHot p) :=
  .ite h ((h.updPart.partStep.each fun _ _ h' => (h'.updChan (fun _ hx => by split; exacts [hx, hx]))))

theorem Answers.mr4Poll {pkg grade} (h : Evolves s t) : Answers s (execMr4Poll pkg grade t) := by
  unfold execMr4Poll
  extract_lets -underBinder t1
  have h1 : Evolves s t1 := h.record (hgrades := Map.set_wf _ _ _ _) (hcool := Map.set_wf _ _ _ _)
  refine .next ?_
  exact .ite h1.fenceHot h1

theorem Answers.thermalRejoin {p bad} (h : Evolves s t) : Answers s (execThermalRejoin p bad t) := .next (.ite h.updPart.bringBack h)

theorem Answers.requestAgePromote {p ch} (h : Evolves s t) : Answers s (execRequestAgePromote p ch t) := .next h.updChan

theorem Answers.keyCacheFill {cache slot} (h : Evolves s t) : Answers s (execKeyCacheFill cache slot t) :=
  .next (.ite h (.ite ((h.cacheKey.each fun _ _ h' => h'.serveWaiting)) h.cacheKey))

theorem Evolves.budgetWrite {p ch value} (h : Evolves s t) : Evolves s (t.budgetWrite p ch value) := .ite h h.updChan

theorem Answers.memcBudgetWrite {p ch value} (h : Evolves s t) : Answers s (execMemcBudgetWrite p ch value t) := .next h.budgetWrite

end Sys2Proof.Machine
end

section
/-!
SUPPORT. The definitions of Machine/Xfer: each answers a state that comes of the one before.
-/

namespace Sys2Proof.Machine

set_option Elab.async false

variable {s t : State}

theorem Evolves.atomRow {u cid e o n op sp cls} (h : Evolves s t) : Evolves s (t.atomRow u cid e o n op sp cls).1 := by
  unfold State.atomRow
  refine .foldlOf (fun r : State × Bool × Byte => r.1) h fun _ _ h' => ?_
  dsimp only at h' ⊢
  split
  · dsimp only
    exact h'.rdTarget.updLmem
  · exact h'.rdTarget.updLmem.wrTarget

theorem Evolves.rowDo {u d r e} (h : Evolves s t) : Evolves s (t.rowDo u d r e).2 := by
  unfold State.rowDo
  extract_lets -underBinder _ _ _ _ _ _ t1
  have h1 : Evolves s t1 := .ite h.tcAdd h
  clear_value t1
  split
  · exact .ite h1.rdRow.updLmem.poisonWork h1.rdRow.updLmem
  · exact .ite h1 h1.wrRow.dlog
  · extract_lets -underBinder _ t2 t3
    have h3 : Evolves s t3 := .ite (h1.atomRow.updHmemOf fun c => (h1.keepsCanon c).host_mem.get rfl _) h1.atomRow.dlog
    exact .ite h3.poisonWork h3

theorem Evolves.holdExt {u w} (h : Evolves s t) : Evolves s (t.holdExt u w) := h.updUnit

theorem Evolves.xferRow {u d r} (h : Evolves s t) : Evolves s (t.xferRow u d r).2.2 := by
  unfold State.xferRow
  extract_lets -underBinder
  split
  · split
    exacts [h.xlFault, h]
  · split
    · exact h.xlFault
    · exact h.updUnit
    · extract_lets -underBinder t1 _ _ _ _ t3
      have h1 : Evolves s t1 := h.touch
      have h3 : Evolves s t3 := h1.each fun _ _ h' => h'.sendFrame
      split
      · split; exacts [h1.xlFault, (by split; exacts [h3.holdExt, h1.touchJob])]
      · split; exacts [h1.holdExt, (by split; exacts [h1.updFar.holdExt, h1.rowDo])]

theorem Evolves.xferRun {u d done fuel fl} (h : Evolves s t) : Evolves s (t.xferRun u d done fuel fl).2.2.2 := by
  induction fuel generalizing t done fl with
  | zero => exact h
  | succ n ih =>
    unfold State.xferRun
    dsimp only
    split
    · exact ih h.xferRow
    · exact h.xferRow

end Sys2Proof.Machine
end

section
/-!
SUPPORT. The definitions of Machine/Cmds: each answers a state that comes of the one before.
-/

namespace Sys2Proof.Machine

set_option Elab.async false

variable {s t : State}

theorem Evolves.havoc {k l} (h : Evolves s t) : Evolves s (t.havoc k l) :=
  h.each fun _ _ h' => (h'.setFresh.updEng (fun _ hx => Bytes.wr_wf _ _ _ hx))

theorem Evolves.blurAll {k r} (h : Evolves s t) : Evolves s (t.blurAll k r) := h.havoc

theorem Evolves.blurOut {k r} (h : Evolves s t) : Evolves s (t.blurOut k r) := h.havoc

theorem Evolves.landSp {k a bs} (h : Evolves s t) : Evolves s (t.landSp k a bs) := (h.updEng (fun _ hx => Bytes.wrL_wf _ _ _ hx)).havoc

end Sys2Proof.Machine
end

section
/-!
SUPPORT. The definitions of Machine/Transfers: each answers a state that comes of the one before.
-/

namespace Sys2Proof.Machine

set_option Elab.async false

variable {s t : State}

theorem Evolves.dmaGo {p e} (h : Evolves s t) : Evolves s (t.dmaGo p e) := by
  unfold State.dmaGo
  dsimp only
  split
  · exact h
  · exact .ite h h.blurAll.xferRun.blurOut.updEng

theorem Evolves.xfersGo {u fuel l} (h : Evolves s t) : Evolves s (t.xfersGo u fuel l).1 := by
  induction fuel generalizing t l with
  | zero => unfold State.xfersGo; exact h
  | succ n ih =>
    cases l with
    | nil => unfold State.xfersGo; exact h
    | cons x r =>
      unfold State.xfersGo
      dsimp only
      split
      · exact ih h.xferRun
      · exact h.xferRun
      · exact h.xferRun

theorem Evolves.xferGo {u} (h : Evolves s t) : Evolves s (t.xferGo u) := by
  unfold State.xferGo
  split
  · exact h.dmaGo
  · exact h.xfersGo.updVt
  · exact h.xfersGo.updSt

theorem Evolves.extEnd {u data} (h : Evolves s t) : Evolves s (t.extEnd u data) := by
  unfold State.extEnd
  extract_lets -underBinder put t1
  have hput {u d done} (h : Evolves s u) : Evolves s (put u d done) := by
    unfold put
    split
    · exact h
    · exact h.updLmem
  have h1 : Evolves s t1 := h.updUnit
  clear_value put t1
  split
  · extract_lets -underBinder
    split
    · exact h1
    · exact (hput h1).blurOut.updEng.xferGo
  · extract_lets -underBinder
    split
    · exact h1
    · exact (hput h1).updVt.xferGo
  · extract_lets -underBinder
    split
    · exact h1
    · exact (hput h1).updSt.xferGo

theorem Evolves.farRow {u} (h : Evolves s t) : Evolves s (t.farRow u) := by
  unfold State.farRow
  split
  · exact h
  · split
    · exact h
    · extract_lets -underBinder _ _ t2 t3
      have h2 : Evolves s t2 := by unfold t2; split; exacts [h.rowDo.updEng, h.rowDo]
      have h3 : Evolves s t3 := by unfold t3; split; exacts [h2, h2.updFar]
      exact h3.extEnd

theorem Evolves.farTick (h : Evolves s t) : Evolves s (t.farTick) := h.each fun _ _ h' => h'.farRow

end Sys2Proof.Machine
end

section
/-!
SUPPORT. The definitions of Machine/FarRows: each answers a state that comes of the one before.
-/

namespace Sys2Proof.Machine

set_option Elab.async false

variable {s t : State}

theorem Evolves.farCut {d} (h : Evolves s t) : Evolves s (t.farCut d) := by
  unfold State.farCut
  refine h.each fun t1 _ h1 => ?_
  extract_lets -underBinder _ _ t2 _ t3
  have h2 : Evolves s t2 := by unfold t2; split; exacts [h1, h1.finishWork]
  have h3 : Evolves s t3 := .ite h2 h2.updFar
  exact h3.extEnd

theorem Evolves.farLeave {d} (h : Evolves s t) : Evolves s (t.farLeave d) :=
  .ite (.loseTokens (.farCut (.journal (.updFar (.ite h h.emit))))) (.updFar (.ite h h.emit))

theorem Evolves.farTryDisable {d} (h : Evolves s t) : Evolves s (t.farTryDisable d) := .ite (.ite h.updFar h.farLeave) h

theorem Evolves.farSettle (h : Evolves s t) : Evolves s (t.farSettle) := h.each fun _ _ h' => .ite h'.farLeave h'

theorem Evolves.farStart {d} (h : Evolves s t) : Evolves s (t.farStart d) := .ite h.updFar.emit.emit h

theorem Evolves.farCtl {d enable} (h : Evolves s t) : Evolves s (t.farCtl d enable) := .ite h.updFar.farStart h.updFar.farTryDisable

theorem Answers.farEnable {d} (h : Evolves s t) : Answers s (execFarEnable d t) := .next h.farCtl

theorem Answers.farDisable {d} (h : Evolves s t) : Answers s (execFarDisable d t) := .next h.farCtl

theorem Answers.farLinkUp {d width rate trained} (h : Evolves s t) : Answers s (execFarLinkUp d width rate trained t) := by
  unfold execFarLinkUp
  refine .next ?_
  split
  exacts [.ite h.updFar h.farLeave, .ite h.updFar h.farLeave, h]

theorem Answers.farConfigDone {d ok ide capGib poisonList} (h : Evolves s t) : Answers s (execFarConfigDone d ok ide capGib poisonList t) :=
  .next (.ite (.ite h.updFar.farTryDisable h.farLeave) h)

theorem Answers.farConfigTimeout {d} (h : Evolves s t) : Answers s (execFarConfigTimeout d t) := .next (.ite h.farLeave h)

theorem Answers.farPortDown {d} (h : Evolves s t) : Answers s (execFarPortDown d t) := .next (.ite h h.farLeave)

theorem Answers.farEventPoll {d events} (h : Evolves s t) : Answers s (execFarEventPoll d events t) := .next (.ite ((h.each fun _ _ h' => h'.emit)) h)

end Sys2Proof.Machine
end

section
/-!
SUPPORT. The definitions of Machine/Ranges: each answers a state that comes of the one before.
-/

namespace Sys2Proof.Machine

set_option Elab.async false

variable {s t : State}

theorem Evolves.countClear {code} (h : Evolves s t) : Evolves s (t.countClear code) := .ite h.setSec h

theorem Evolves.runMap {r} (h : Evolves s t) : Evolves s (t.runMap r) :=
  .ite h.answer (.ite h.answer (.ite h.answer (.ite h.countClear.answer h.updSlot.answer)))

theorem Evolves.runUnmap {r} (h : Evolves s t) : Evolves s (t.runUnmap r) :=
  .ite h.answer (.ite h.answer (by split; exacts [h.answer, h.answer, .ite h.updSlot.updSlot.answer.farSettle h.updSlot.setXlt]))

theorem Evolves.runRangeQuery {r} (h : Evolves s t) : Evolves s (t.runRangeQuery r) := .ite h.answer (.ite h.answer h.answer)

theorem Answers.map {r} (h : Evolves s t) : Answers s (execMap r t) := .next h.runMap

theorem Answers.unmap {r} (h : Evolves s t) : Answers s (execUnmap r t) := .next h.runUnmap

theorem Answers.rangeQuery {r} (h : Evolves s t) : Answers s (execRangeQuery r t) := .next h.runRangeQuery

theorem Answers.rangeMiss {u} (h : Evolves s t) : Answers s (execRangeMiss u t) := by
  unfold execRangeMiss
  refine .next ?_
  split
  exacts [h, h.updUnit]

theorem Evolves.pcvtEnd {k v st} (h : Evolves s t) : Evolves s (t.pcvtEnd k v st) :=
  h.updSt fun x hx => (STile.setX_lm x _ _).symm ▸ hx

theorem Evolves.missReply {u} (h : Evolves s t) : Evolves s (t.missReply u) := by
  unfold State.missReply
  split
  · exact h
  · extract_lets -underBinder _ t1 t2
    have h1 : Evolves s t1 := h.setXlt
    have h2 : Evolves s t2 := h1.updUnit
    split
    · exact h
    · split
      · exact .ite h2.pcvtEnd h2.xlFault
      · exact h2.xlFault
      · exact .ite h2.xlFault (by dsimp only; split; exacts [.ite h2.fillCache.updSt h2.fillCache.xferGo, h2.fillCache.xferGo])

theorem Answers.missReply {u} (h : Evolves s t) : Answers s (execMissReply u t) := .next h.missReply

theorem Answers.invalidationReceive {u x index} (h : Evolves s t) : Answers s (execInvalidationReceive u x index t) := .next (.ite h.setXlt.updUnit h)

theorem Answers.withdrawAck {u x index} (h : Evolves s t) : Answers s (execWithdrawAck u x index t) := .next (.ite h.updUnit.ackWithdraw.farSettle h)

theorem Answers.withdrawTimeout {x index} (h : Evolves s t) : Answers s (execWithdrawTimeout x index t) := by
  unfold execWithdrawTimeout
  refine .next ?_
  split
  exacts [h, (h.each fun _ _ h' => h'.startStep)]

theorem Evolves.fqPut {c r} (h : Evolves s t) : Evolves s (t.fqPut c r) := h.updHmem.hostTx.updFq

theorem Evolves.faultLost {f} (h : Evolves s t) : Evolves s (t.faultLost f) := h.updFq.setXlt.journal.startTeardown

theorem Evolves.faultWrite (h : Evolves s t) : Evolves s (t.faultWrite) := by
  unfold State.faultWrite
  split
  · exact h
  · exact .ite h.setXlt.faultLost (.ite (.ite h.setXlt.fqPut.updFq.ctxStepStart.startStep h.setXlt.fqPut.updFq) h.setXlt.fqPut.updFq.faultLost)

theorem Answers.faultRecordWrite (h : Evolves s t) : Answers s (execFaultRecordWrite t) := .next h.faultWrite

theorem Evolves.fqHead {c h₁} (h : Evolves s t) : Evolves s (t.fqHead c h₁) := h.updFq

theorem Evolves.fqBase {c b} (h : Evolves s t) : Evolves s (t.fqBase c b) := h.updFq

theorem Answers.fqHeadWrite {c value} (h : Evolves s t) : Answers s (execFqHeadWrite c value t) := .next h.fqHead

theorem Answers.fqBaseWrite {c value} (h : Evolves s t) : Answers s (execFqBaseWrite c value t) := .next h.fqBase

end Sys2Proof.Machine
end

section
/-!
SUPPORT. The definitions of Machine/Route: each answers a state that comes of the one before.
-/

namespace Sys2Proof.Machine

set_option Elab.async false

variable {s t : State}

theorem Evolves.checkPool {id} (h : Evolves s t) : Evolves s (t.checkPool id) := .ite h h.updPool

theorem Evolves.sendOn {id f} (h : Evolves s t) : Evolves s (t.sendOn id f) := h.updPool.setNet

theorem Evolves.landOn {id f} (h : Evolves s t) : Evolves s (t.landOn id f) := h.updPool.setNet

theorem Evolves.restart {x} (h : Evolves s t) : Evolves s (t.restart x) := h.updXing.emit

theorem Evolves.cross {x} (h : Evolves s t) : Evolves s (t.cross x) := by
  unfold State.cross
  split
  · exact h
  · exact .updXing (.ite h.restart h)

theorem Evolves.crossAll {l} (h : Evolves s t) : Evolves s (t.crossAll l) := h.each fun _ _ h' => h'.cross

theorem Evolves.usedLink {r o id f} (h : Evolves s t) : Evolves s (t.usedLink r o id f) := h.updRouter

theorem Evolves.inject {r f} (h : Evolves s t) : Evolves s (t.inject r f) := .ite h (.ite h.sendOn h.updRouter)

theorem Evolves.updEntry {r cid g f} (h : Evolves s t) : Evolves s (t.updEntry r cid g f) := h.updRouter

theorem Evolves.advCnt {u i} (h : Evolves s t) : Evolves s (t.advCnt u i) := by
  unfold State.advCnt
  split
  · exact h.updEng
  · exact h.updVt
  · exact h

theorem Evolves.stray {u src} (h : Evolves s t) : Evolves s (t.stray u src) := by
  unfold State.stray
  split
  · exact h
  · exact h
  · exact h
  · exact h.fault

theorem Evolves.landCollective {r e f} (h : Evolves s t) : Evolves s (t.landCollective r e f).2 := by
  unfold State.landCollective
  split
  · exact h
  · extract_lets -underBinder _ t1 _ t2 t3
    have h1 : Evolves s t1 := by unfold t1; split; exacts [h.landSp, h.updLmem]
    have h2 : Evolves s t2 := h1.updEntry
    have h3 : Evolves s t3 := .ite h2.poisonWork h2
    split
    · exact h.countDrop
    · exact (by split; exacts [h.countDrop.stray, .ite h3.advCnt h3])

theorem Evolves.toWindow {cid g got f} (h : Evolves s t) : Evolves s (t.toWindow cid g got f) := h.updJob.followMhz

theorem Evolves.churnRoot {r e f} (h : Evolves s t) : Evolves s (t.churnRoot r e f) := by
  unfold State.churnRoot
  extract_lets -underBinder _ t1 t2
  have h1 : Evolves s t1 := .ite h.toWindow.updEntry h
  have h2 : Evolves s t2.2 := by unfold t2; split; exacts [h1, h1.landCollective]
  exact .ite ((h2.each fun _ _ h' => h'.inject)) h2

theorem Evolves.pushEvent {k rec_} (h : Evolves s t) : Evolves s (t.pushEvent k rec_) := .ite h.qUse.updSt h

theorem EvolvesIn.takeQueue {f} (h : Evolves s t) : EvolvesIn s (t.takeQueue f) := by
  unfold State.takeQueue
  split
  · refine .ite .none ?_
    split
    · exact .ite (.some h.qUse.updEng) .none
    · exact .ite (.some h.qUse.updVt) .none
    · exact .none
  · split
    · exact .ite (.some h.qUse.updSt) .none
    · exact .none
  · split
    · exact .ite (.some h.qUse.updVt) .none
    · exact .some h
  · exact .some h

theorem Evolves.returnQueue {f} (h : Evolves s t) : Evolves s (t.returnQueue f) := by
  unfold State.returnQueue
  split
  · split
    exacts [h.qFree.updEng, h.qFree.updVt, h]
  · split
    exacts [h.qFree.updSt, h]
  · split
    exacts [h.qFree.updVt, h]
  · exact h

theorem Evolves.dropAt {r f} (h : Evolves s t) : Evolves s (t.dropAt r f) := h.countDrop.returnQueue

theorem Evolves.streamCnt {u f} (h : Evolves s t) : Evolves s (t.streamCnt u f) := .ite h.advCnt h

theorem Evolves.fencedAnswer {r f} (h : Evolves s t) : Evolves s (t.fencedAnswer r f) := .ite h.sendOn h.updRouter

theorem Evolves.deliver {r f} (h : Evolves s t) : Evolves s (t.deliver r f) := by
  unfold State.deliver
  split
  · exact h
  · extract_lets -underBinder t1
    have h1 : Evolves s t1 := .ite (by split; exacts [h, h.finishWork]) (.ite h.poisonWork h)
    split
    · exact .ite h.fencedAnswer h.dropAt
    · exact .ite h.dropAt (.ite h.dropAt.stray (by split; exacts [h1.updEng, h1.updEng, h1.updVt, h1.updSt, h1.updVt.streamCnt, h1.streamCnt, h1]))

theorem Evolves.ioDeliver {r f} (h : Evolves s t) : Evolves s (t.ioDeliver r f) := by
  unfold State.ioDeliver
  split
  · exact h.countDrop
  · exact h.emit

theorem Evolves.goOut {r o id f} (h : Evolves s t) : Evolves s (t.goOut r o id f) := by
  unfold State.goOut
  dsimp only
  split
  · exact h.usedLink.sendOn
  · exact h.usedLink.cross.sendOn.landOn.freeOn.ioDeliver

theorem Evolves.moveOn {r id f} (h : Evolves s t) : Evolves s (t.moveOn r id f).2 := by
  unfold State.moveOn
  dsimp only
  split
  · exact (by split; exacts [h.freeOn.cross.usedLink.deliver, h])
  · exact (by split; exacts [h.freeOn.goOut, h])

theorem Evolves.moveChurn {r id e f} (h : Evolves s t) : Evolves s (t.moveChurn r id e f).2 := by
  unfold State.moveChurn
  split
  · exact h.dropFlit
  · split
    exacts [h.freeOn.cross.usedLink.churnRoot, h]
  · split; exacts [h.dropFlit, (by split; exacts [h.freeOn.goOut, h])]

theorem Evolves.auditLand {id} (h : Evolves s t) : Evolves s (t.auditLand id) := h.freeOn.updPool

theorem Evolves.takeFlit {r port id f} (h : Evolves s t) : Evolves s (t.takeFlit r port id f) := by
  unfold State.takeFlit
  extract_lets -underBinder
  split
  · exact h.dropFlit.returnQueue
  · split
    · exact h.auditLand
    · split
      · split
        exacts [h.dropFlit, h.updRouter]
      · exact .ite (by split; exacts [h.dropFlit, .ite (.ite h.moveChurn h.updRouter) h.updRouter]) (.ite h.updRouter (.ite h.moveOn h.updRouter))

theorem Evolves.moveHeld {r x} (h : Evolves s t) : Evolves s (t.moveHeld r x).2 := by
  unfold State.moveHeld
  split
  · exact h
  · exact (by split; exacts [(by split; exacts [h.dropFlit, (by split; exacts [h.moveChurn, h])]), h.moveOn])

theorem Evolves.drainRouter {r fuel} (h : Evolves s t) : Evolves s (t.drainRouter r fuel) := by
  induction fuel generalizing t with
  | zero => exact h
  | succ n ih =>
    unfold State.drainRouter
    dsimp only
    split
    · exact h
    · exact ih h.moveHeld.updRouter

theorem Evolves.drainOut {r fuel seen l} (h : Evolves s t) : Evolves s (t.drainOut r fuel seen l) := by
  induction fuel generalizing t seen l with
  | zero => unfold State.drainOut; exact h
  | succ n ih =>
    cases l with
    | nil => unfold State.drainOut; exact h
    | cons f rest => unfold State.drainOut; exact .ite (ih h.sendOn.updRouter) (ih h)

end Sys2Proof.Machine
end

section
/-!
SUPPORT. The definitions of Machine/Queues: each answers a state that comes of the one before.
-/

namespace Sys2Proof.Machine

set_option Elab.async false

variable {s t : State}

theorem Evolves.creditBack {u} (h : Evolves s t) : Evolves s (t.creditBack u) := by
  unfold State.creditBack
  dsimp only
  split
  · exact h.qFree.updEng
  · exact h.qFree.updVt
  · exact h.qFree

theorem Evolves.post {u r} (h : Evolves s t) : Evolves s (t.post u r) := .ite h.pushEvent.creditBack (by split; exacts [h.updEng, h.updVt, h])

theorem Evolves.complete {u c code fl amax} (h : Evolves s t) : Evolves s (t.complete u c code fl amax) :=
  .ite (.post (.ite h.updSt.advCnt h.updSt)) (.creditBack (.ite h.updSt.advCnt h.updSt))

theorem Evolves.repost {k} (h : Evolves s t) : Evolves s (t.repost k) := by
  unfold State.repost
  dsimp only
  split
  · exact h
  · exact (by split; exacts [h.updEng.post, h.updVt.post, h])

theorem Evolves.popHead {u} (h : Evolves s t) : Evolves s (t.popHead u) := by
  unfold State.popHead
  split
  · exact h.updEng
  · exact h.updVt
  · exact h

theorem Evolves.capture {u c code pc} (h : Evolves s t) : Evolves s (t.capture u c code pc) := by
  unfold State.capture
  dsimp only
  split
  · exact h.updEng
  · exact h.updVt
  · exact h

theorem Evolves.refuse {u c code pc} (h : Evolves s t) : Evolves s (t.refuse u c code pc) := h.capture.complete

theorem Evolves.setLive {u c} (h : Evolves s t) : Evolves s (t.setLive u c) := by
  unfold State.setLive
  split
  · exact h.updEng
  · exact h.updVt
  · exact h

end Sys2Proof.Machine
end

section
/-!
SUPPORT. The definitions of Machine/SaveBytes: each answers a state that comes of the one before.
-/

namespace Sys2Proof.Machine

set_option Elab.async false

variable {s t : State}

theorem Evolves.saveTraffic {p n wr} (h : Evolves s t) : Evolves s (t.saveTraffic p n wr) :=
  h.each fun _ _ h' => (h'.updChan (fun _ hx => by dsimp only; split; exacts [hx, hx]))

end Sys2Proof.Machine
end

section
/-!
SUPPORT. The definitions of Machine/Engine: each answers a state that comes of the one before.
-/

namespace Sys2Proof.Machine

set_option Elab.async false

variable {s t : State}

theorem Evolves.runArr {p e r} (h : Evolves s t) : Evolves s (t.runArr p e r) := h.updEng

theorem Evolves.arrGo {p e n} (h : Evolves s t) : Evolves s (t.arrGo p e n) := by
  unfold State.arrGo
  dsimp only
  split
  · exact h
  · exact .ite h (.ite h.blurAll.tcAdd.tcAdd.updEng h.blurAll.tcAdd.updEng)

theorem Evolves.epiRows {p e fuel r} (h : Evolves s t) : Evolves s (t.epiRows p e fuel r).2 := by
  induction fuel generalizing t r with
  | zero => exact h
  | succ n ih =>
    unfold State.epiRows
    split
    · exact h
    · extract_lets -underBinder
      split
      · split
        · exact h
        · extract_lets -underBinder
          split
          · exact h
          · exact ih h.qUse.updVt
      · exact ih (h.updEng fun _ hx => Bytes.wrL_wf _ _ _ (Bytes.wrL_wf _ _ _ hx))

theorem Evolves.epiGo {p e n} (h : Evolves s t) : Evolves s (t.epiGo p e n) := by
  unfold State.epiGo
  dsimp only
  split
  · exact h
  · exact .ite h h.blurAll.epiRows.blurOut.updEng

theorem Evolves.epiFeed {p e} (h : Evolves s t) : Evolves s (t.epiFeed p e) := by
  unfold State.epiFeed
  split
  · exact h
  · exact .ite h.epiGo h

theorem Evolves.runEpi {p e r} (h : Evolves s t) : Evolves s (t.runEpi p e r) := h.updEng.epiFeed

theorem Evolves.runSend {p e r} (h : Evolves s t) : Evolves s (t.runSend p e r) := by
  unfold State.runSend
  extract_lets -underBinder _ _ _ _ _ _ t1 t2 _ _ _ _ _ _ t3 _ t4
  have h1 : Evolves s t1.2 := by unfold t1; split; exacts [h.touchJob, h]
  have h2 : Evolves s t2 := h1
  have h3 : Evolves s t3 := h2.updEng
  have h4 : Evolves s t4 := .ite h3.setNet h3
  exact .ite h2.updEng ((h4.each fun _ _ h' => h'.inject))

theorem Evolves.runDma {p e r} (h : Evolves s t) : Evolves s (t.runDma p e r) := .ite h.blurAll.runSend h.updEng.dmaGo

theorem Evolves.startUnits {p e} (h : Evolves s t) : Evolves s (t.startUnits p e) := by
  unfold State.startUnits
  extract_lets -underBinder _ _ t1 _ t2
  have h1 : Evolves s t1 := by unfold t1; split; exacts [.ite h.updEng.runArr h, h]
  have h2 : Evolves s t2 := by unfold t2; split; exacts [.ite h1.updEng.runEpi h1, h1]
  exact .ite h (by split; exacts [h2.updEng.runDma, h2])

theorem Evolves.accept {p e c} (h : Evolves s t) : Evolves s (t.accept p e c) := by
  unfold State.accept
  extract_lets -underBinder k u d r t1
  have h1 : Evolves s t1 := h.updEngOf fun w => by
    dsimp only
    split
    · exact (h.keepsCanon w).eng.get rfl k
    · exact (h.keepsCanon w).eng.get rfl k
  clear_value r t1
  have hl {f : Engine → Engine} (hf : ∀ x, (f x).sp = x.sp) : Evolves s ((t1.updEng k fun x => (f x).left c).startUnits p e) :=
    (h1.updEng fun x hx => by rwa [Engine.left_sp, hf]).startUnits
  split
  · exact hl (f := fun x => { x with arr := { x.arr with pend := some r } }) fun _ => rfl
  · exact hl (f := fun x => { x with arr := { x.arr with pend := some r } }) fun _ => rfl
  · exact hl (f := fun x => { x with epi := { x.epi with pend := some r } }) fun _ => rfl
  · exact h1.updEng.startUnits
  · exact h1.updEng.startUnits
  · exact h1.setLive.complete
  · exact h1.complete

theorem Evolves.leave {p e want} (h : Evolves s t) : Evolves s (t.leave p e want) := by
  unfold State.leave
  dsimp only
  split
  · exact h
  · exact .ite (.ite h.popHead.accept h.popHead.refuse) h

theorem Evolves.leaveVt {p v want} (h : Evolves s t) : Evolves s (t.leaveVt p v want) := by
  unfold State.leaveVt
  dsimp only
  split
  · exact h
  · exact .ite (.ite h.popHead.refuse (.ite h.popHead.setLive.complete h.popHead.complete)) h

theorem Evolves.leaveHead {u want} (h : Evolves s t) : Evolves s (t.leaveHead u want) := by
  unfold State.leaveHead
  split
  · exact h.leave
  · exact h.leaveVt
  · exact h

theorem Evolves.runOut {p e w} (h : Evolves s t) : Evolves s (t.runOut p e w) := by
  unfold State.runOut
  split
  · exact h.arrGo
  · exact h.epiGo
  · exact h

theorem Evolves.finish {p e w} (h : Evolves s t) : Evolves s (t.finish p e w) := by
  unfold State.finish
  dsimp only
  split
  · exact h
  · exact .ite h (h.updEng fun x hx => (Engine.updUnitQ_sp x w _).symm ▸ hx).workFlags.complete.startUnits

theorem Evolves.flush {u} (h : Evolves s t) : Evolves s (t.flush u) := by
  unfold State.flush
  split
  · exact (h.each fun _ _ h' => h'.complete).updEng
  · exact (h.each fun _ _ h' => h'.complete).updVt
  · exact h

theorem Evolves.resume {u} (h : Evolves s t) : Evolves s (t.resume u) := by
  unfold State.resume
  split
  · exact h.updEng (fun _ hx => by split; exacts [hx, hx])
  · exact h.updVt (fun _ hx => by split; exacts [hx, hx])
  · exact h

theorem Evolves.stopEng {p e} (h : Evolves s t) : Evolves s (t.stopEng p e) := .ite h.updUnit.updEng h

theorem Evolves.putSave {x u r} (h : Evolves s t) : Evolves s (t.putSave x u r) := by
  unfold State.putSave
  split
  · exact h
  · exact h.updCtx.saveTraffic

theorem Evolves.readSave {x u r} (h : Evolves s t) : Evolves s (t.readSave x u r) := h.saveTraffic

theorem Evolves.haltUnits {p e} (h : Evolves s t) : Evolves s (t.haltUnits p e) := by
  unfold State.haltUnits
  extract_lets -underBinder _ _ t2
  have h2 : Evolves s t2 := by unfold t2; split; exacts [h, h.draw.arrGo]
  split
  exacts [h2, .ite h2 h2.draw.epiGo]

theorem Evolves.saveEng {p e} (h : Evolves s t) : Evolves s (t.saveEng p e) := .ite h.haltUnits.putSave.clearUnit.updUnit.ackAll h

theorem Evolves.loadEng {p e x r} (h : Evolves s t) : Evolves s (t.loadEng p e x r) := by
  unfold State.loadEng
  extract_lets -underBinder runs t1 t2 t3 t4 t5
  have h1 : Evolves s t1 := h.readSave
  have h2 : Evolves s t2 := h1.updEng fun _ _ => Bytes.ofCells_wf _
  have h3 : Evolves s t3 := h2.updEng fun x hx => (Engine.lefts_sp runs x).symm ▸ hx
  clear_value t3
  exact h3.qUse.updUnit.dmaGo.epiFeed

theorem Answers.nop {u} (h : Evolves s t) : Answers s (execNop u t) := .next h.leaveHead

theorem Answers.mma {p e} (h : Evolves s t) : Answers s (execMma p e t) := .next h.leave

theorem Answers.epi {p e} (h : Evolves s t) : Answers s (execEpi p e t) := .next h.leave

theorem Answers.accld {p e} (h : Evolves s t) : Answers s (execAccld p e t) := .next h.leave

theorem Answers.dmaRead {p e} (h : Evolves s t) : Answers s (execDmaRead p e t) := .next h.leave

theorem Answers.dmaWrite {p e} (h : Evolves s t) : Answers s (execDmaWrite p e t) := .next h.leave

theorem Answers.aaddF32 {p e} (h : Evolves s t) : Answers s (execAaddF32 p e t) := .next h.leave

theorem Answers.aaddI64 {p e} (h : Evolves s t) : Answers s (execAaddI64 p e t) := .next h.leave

theorem Answers.aswap64 {p e} (h : Evolves s t) : Answers s (execAswap64 p e t) := .next h.leave

theorem Answers.nsend {p e} (h : Evolves s t) : Answers s (execNsend p e t) := .next h.leave

theorem Answers.wait {u} (h : Evolves s t) : Answers s (execWait u t) := .next h.leaveHead

theorem Answers.live {u} (h : Evolves s t) : Answers s (execLive u t) := .next h.leaveHead

theorem Answers.commandComplete {p e w} (h : Evolves s t) : Answers s (execCommandComplete p e w t) := .next h.runOut.finish

theorem Answers.waitWake {u} (h : Evolves s t) : Answers s (execWaitWake u t) := .next h.leaveHead

theorem Answers.qctlFlush {u} (h : Evolves s t) : Answers s (execQctlFlush u t) := .next h.flush

theorem Answers.qctlResume {u} (h : Evolves s t) : Answers s (execQctlResume u t) := .next h.resume

theorem Answers.engineStopRequest {p e} (h : Evolves s t) : Answers s (execEngineStopRequest p e t) := .next h.stopEng

theorem Answers.engineUnitsHalted {p e} (h : Evolves s t) : Answers s (execEngineUnitsHalted p e t) := .next h.saveEng

theorem Answers.engineRestore {p e x} (h : Evolves s t) : Answers s (execEngineRestore p e x t) := .next (.ite (by split; exacts [h.loadEng, h]) h)

end Sys2Proof.Machine
end

section
/-!
SUPPORT. The definitions of Machine/Vector: each answers a state that comes of the one before.
-/

namespace Sys2Proof.Machine

set_option Elab.async false

variable {s t : State}

theorem Evolves.endLaunch {p v} (h : Evolves s t) : Evolves s (t.endLaunch p v) := by
  unfold State.endLaunch
  dsimp only
  split
  · exact h
  · exact .ite h.updVt.workFlags.complete h

theorem Evolves.refuseLaunch {p v code} (h : Evolves s t) : Evolves s (t.refuseLaunch p v code) := by
  unfold State.refuseLaunch
  dsimp only
  split
  · exact h
  · exact h.capture.updVt.endLaunch

theorem Evolves.vnext {p v n fl} (h : Evolves s t) : Evolves s (t.vnext p v n fl) := h.updVt

theorem Evolves.vstep {p v opc func w chk go} (h : Evolves s t) (hgo : ∀ t a1 a2, Evolves s t → Evolves s (go t a1 a2)) : Evolves s (t.vstep p v opc func w chk go) :=
  .ite (by split; exacts [(hgo _ _ _ h), h.refuseLaunch]) h

theorem Evolves.vdest {p v n i r} (h : Evolves s t) : Evolves s (t.vdest p v n i r) := h.updVt.vnext

theorem Evolves.vbin {p v func f} (h : Evolves s t) : Evolves s (t.vbin p v func f) := h.vstep (fun _ _ _ h' => h'.vdest)

theorem Evolves.vfm {p v func g h₁} (h : Evolves s t) : Evolves s (t.vfm p v func g h₁) := h.vstep (fun _ _ _ h' => h'.updVt.vdest)

theorem Evolves.vsfu {p v func} (h : Evolves s t) : Evolves s (t.vsfu p v func) := h.vstep (fun _ _ _ h' => h'.vdest)

theorem Evolves.vcmp {p v func g h₁} (h : Evolves s t) : Evolves s (t.vcmp p v func g h₁) :=
  h.vstep fun _ _ _ h' => (h'.setFresh (VTile.compare_fresh _ _ _ _ _)).updVt.vnext

theorem Evolves.vred {p v func g h₁} (h : Evolves s t) : Evolves s (t.vred p v func g h₁) := h.vstep (fun _ _ _ h' => h'.vdest)

theorem Evolves.vaddr {p v func f} (h : Evolves s t) : Evolves s (t.vaddr p v func f) :=
  h.vstep fun _ _ _ h' => (h'.updVt fun x hx => (VTile.setA_lm x _ _).symm ▸ hx).vnext

theorem Evolves.vsrd {p v t₁ i} (h : Evolves s t) : Evolves s (t.vsrd p v t₁ i) := by
  unfold State.vsrd
  extract_lets -underBinder k n ch q val t1 t2
  refine .ite h.updVt ?_
  have h2 : Evolves s t2 := h.qFree.updVt.vnext
  clear_value t2
  split
  · exact h2
  · exact h2.epiFeed

theorem Evolves.vswr {p v t₁ i} (h : Evolves s t) : Evolves s (t.vswr p v t₁ i) := by
  unfold State.vswr
  split
  · exact h
  · exact .vnext (.ite h.drawBytes.landSp.advCnt h.drawBytes.landSp)

theorem Evolves.vxdma {p v t₁ i} (h : Evolves s t) : Evolves s (t.vxdma p v t₁ i) := .ite h.vnext.updVt.xferGo h.vnext.updVt

theorem Evolves.vbranch {p v i} (h : Evolves s t) : Evolves s (t.vbranch p v i) := h.updVt

theorem Evolves.vwaitc {p v t₁ i} (h : Evolves s t) : Evolves s (t.vwaitc p v t₁ i) := .ite h.vnext h.updVt

theorem Evolves.vfence {p v t₁} (h : Evolves s t) : Evolves s (t.vfence p v t₁) := .ite h.vnext h.updVt

theorem Answers.vadd {p v} (h : Evolves s t) : Answers s (execVadd p v t) := .next h.vbin

theorem Answers.vsub {p v} (h : Evolves s t) : Answers s (execVsub p v t) := .next h.vbin

theorem Answers.vmul {p v} (h : Evolves s t) : Answers s (execVmul p v t) := .next h.vbin

theorem Answers.vmax {p v} (h : Evolves s t) : Answers s (execVmax p v t) := .next h.vbin

theorem Answers.vmin {p v} (h : Evolves s t) : Answers s (execVmin p v t) := .next h.vbin

theorem Answers.vand {p v} (h : Evolves s t) : Answers s (execVand p v t) := .next h.vbin

theorem Answers.vor {p v} (h : Evolves s t) : Answers s (execVor p v t) := .next h.vbin

theorem Answers.vxor {p v} (h : Evolves s t) : Answers s (execVxor p v t) := .next h.vbin

theorem Answers.vfma {p v} (h : Evolves s t) : Answers s (execVfma p v t) := .next h.vfm

theorem Answers.vfms {p v} (h : Evolves s t) : Answers s (execVfms p v t) := .next h.vfm

theorem Answers.vdotw {p v} (h : Evolves s t) : Answers s (execVdotw p v t) := .next ((h.vstep (fun _ _ _ h' => h'.updVt.vdest)))

theorem Answers.vexp2 {p v} (h : Evolves s t) : Answers s (execVexp2 p v t) := .next h.vsfu

theorem Answers.vlog2 {p v} (h : Evolves s t) : Answers s (execVlog2 p v t) := .next h.vsfu

theorem Answers.vrcp {p v} (h : Evolves s t) : Answers s (execVrcp p v t) := .next h.vsfu

theorem Answers.vrsq {p v} (h : Evolves s t) : Answers s (execVrsq p v t) := .next h.vsfu

theorem Answers.vtanh {p v} (h : Evolves s t) : Answers s (execVtanh p v t) := .next h.vsfu

theorem Answers.vsig {p v} (h : Evolves s t) : Answers s (execVsig p v t) := .next h.vsfu

theorem Answers.vceq {p v} (h : Evolves s t) : Answers s (execVceq p v t) := .next h.vcmp

theorem Answers.vclt {p v} (h : Evolves s t) : Answers s (execVclt p v t) := .next h.vcmp

theorem Answers.vcle {p v} (h : Evolves s t) : Answers s (execVcle p v t) := .next h.vcmp

theorem Answers.vrsum {p v} (h : Evolves s t) : Answers s (execVrsum p v t) := .next h.vred

theorem Answers.vrmax {p v} (h : Evolves s t) : Answers s (execVrmax p v t) := .next h.vred

theorem Answers.vrmin {p v} (h : Evolves s t) : Answers s (execVrmin p v t) := .next h.vred

theorem Answers.vbcast {p v} (h : Evolves s t) : Answers s (execVbcast p v t) :=
  .next ((h.vstep (fun _ _ _ h' => .vdest (by split; exacts [h', h'.draw]))))

theorem Answers.vshuf {p v} (h : Evolves s t) : Answers s (execVshuf p v t) := .next ((h.vstep (fun _ _ _ h' => h'.vdest)))

theorem Answers.vwlo {p v} (h : Evolves s t) : Answers s (execVwlo p v t) := .next ((h.vstep (fun _ _ _ h' => h'.vdest)))

theorem Answers.vwhi {p v} (h : Evolves s t) : Answers s (execVwhi p v t) := .next ((h.vstep (fun _ _ _ h' => h'.vdest)))

theorem Answers.vnrw {p v} (h : Evolves s t) : Answers s (execVnrw p v t) := .next ((h.vstep (fun _ _ _ h' => h'.vdest)))

theorem Answers.vqmx {p v} (h : Evolves s t) : Answers s (execVqmx p v t) := .next ((h.vstep (fun _ _ _ h' => h'.vdest)))

theorem Answers.vld {p v} (h : Evolves s t) : Answers s (execVld p v t) := .next ((h.vstep (fun _ _ _ h' => h'.vdest)))

theorem Answers.vst {p v} (h : Evolves s t) : Answers s (execVst p v t) :=
  .next ((h.vstep (fun _ _ _ h' => (h'.each fun _ _ h1' => (h1'.updVt (fun _ hx => Bytes.wrL_wf _ _ _ hx))).vnext)))

theorem Answers.srd {p v} (h : Evolves s t) : Answers s (execSrd p v t) := .next ((h.vstep (fun _ _ _ h' => h'.vsrd)))

theorem Answers.srdWake {p v} (h : Evolves s t) : Answers s (execSrdWake p v t) := .next ((h.vstep (fun _ _ _ h' => h'.vsrd)))

theorem Answers.swr {p v} (h : Evolves s t) : Answers s (execSwr p v t) := .next ((h.vstep (fun _ _ _ h' => h'.vswr)))

theorem Answers.xdma {p v} (h : Evolves s t) : Answers s (execXdma p v t) := .next ((h.vstep (fun _ _ _ h' => h'.vxdma)))

theorem Answers.aaddi {p v} (h : Evolves s t) : Answers s (execAaddi p v t) := .next h.vaddr

theorem Answers.aadd {p v} (h : Evolves s t) : Answers s (execAadd p v t) := .next h.vaddr

theorem Answers.amul {p v} (h : Evolves s t) : Answers s (execAmul p v t) := .next h.vaddr

theorem Answers.ashl {p v} (h : Evolves s t) : Answers s (execAshl p v t) := by
  refine .next (h.vstep fun u _ _ h' => ?_)
  extract_lets -underBinder _ x
  have hx : Evolves s x.2 := by unfold x; split; exacts [h', h'.draw]
  exact (hx.updVt fun _ hy => by rwa [VTile.setA_lm]).vnext

theorem Answers.amovv {p v} (h : Evolves s t) : Answers s (execAmovv p v t) := .next h.vaddr

theorem Answers.bnez {p v} (h : Evolves s t) : Answers s (execBnez p v t) := .next ((h.vstep (fun _ _ _ h' => .ite h'.vnext h'.vbranch)))

theorem Answers.jmp {p v} (h : Evolves s t) : Answers s (execJmp p v t) := .next ((h.vstep (fun _ _ _ h' => h'.vbranch)))

theorem Answers.waitc {p v} (h : Evolves s t) : Answers s (execWaitc p v t) := .next ((h.vstep (fun _ _ _ h' => h'.vwaitc)))

theorem Answers.waitcWake {p v} (h : Evolves s t) : Answers s (execWaitcWake p v t) := .next ((h.vstep (fun _ _ _ h' => h'.vwaitc)))

theorem Answers.fence {p v} (h : Evolves s t) : Answers s (execFence p v t) := .next ((h.vstep (fun _ _ _ h' => h'.vfence)))

theorem Answers.fenceWake {p v} (h : Evolves s t) : Answers s (execFenceWake p v t) := .next ((h.vstep (fun _ _ _ h' => h'.vfence)))

theorem Answers.vend {p v} (h : Evolves s t) : Answers s (execVend p v t) :=
  .next (.ite ((h.vstep (fun _ _ _ h' => h'.updVt))) (.ite h.refuseLaunch h))

theorem Answers.vlaunch {p v} (h : Evolves s t) : Answers s (execVlaunch p v t) := by
  unfold execVlaunch
  extract_lets -underBinder
  refine .next ?_
  split
  exacts [h, .ite h (.ite h.popHead.refuse (h.popHead.updVt))]

theorem Answers.launchComplete {p v} (h : Evolves s t) : Answers s (execLaunchComplete p v t) := .next h.endLaunch

theorem Answers.streamFlitDeliver {p v ch} (h : Evolves s t) : Answers s (execStreamFlitDeliver p v ch t) :=
  .next ((h.updVt (fun _ hx => by split; exacts [hx, hx])))

end Sys2Proof.Machine
end

section
/-!
SUPPORT. The definitions of Machine/Tiles: each answers a state that comes of the one before.
-/

namespace Sys2Proof.Machine

set_option Elab.async false

variable {s t : State}

theorem Evolves.trap {p t₁ cause tval} (h : Evolves s t) : Evolves s (t.trap p t₁ cause tval) := h.updSt.updUnit.fault

theorem Evolves.krun {p t₁ f3 f7 w go} (h : Evolves s t) (hgo : ∀ t, Evolves s t → Evolves s (go t)) : Evolves s (t.krun p t₁ f3 f7 w go) :=
  .ite ((hgo _ h)) (.ite h.trap h)

theorem Evolves.enqueue {k u c} (h : Evolves s t) : Evolves s (t.enqueue k u c) :=
  .ite h.updSt.countDrop (by dsimp only; split; exacts [h.updSt.qUse.updEng, h.updSt.qUse.updVt, h.updSt.qUse])

theorem Evolves.retireSt {k} {v : STile → Word64} (h : Evolves s t) : Evolves s (t.updSt k fun x => x.retire (v x)) :=
  h.updSt fun x hx => (STile.retire_lm x _).symm ▸ hx

theorem Evolves.kissue {p t₁ try_} (h : Evolves s t) : Evolves s (t.kissue p t₁ try_) := by
  unfold State.kissue
  extract_lets -underBinder
  split
  · exact h.draw.trap
  · exact .ite h.trap (.ite (.ite h.retireSt h.updSt) h.enqueue.retireSt)

theorem Evolves.kevpop {p t₁ wait} (h : Evolves s t) : Evolves s (t.kevpop p t₁ wait) := by
  unfold State.kevpop
  extract_lets -underBinder
  split
  · exact .ite h.updSt h.retireSt
  · exact .ite h.trap (h.qFree.updSt fun x hx => Bytes.wrL_wf _ _ _ ((STile.retire_lm _ _).symm ▸ hx)).repost

theorem EvolvesIn.express {p q f} (h : Evolves s t) : EvolvesIn s (t.express p q f) :=
  .ite (.some (h.each fun _ _ h' => h'.sendOn.crossAll.landOn.freeOn)) .none

theorem Evolves.barWait {p t₁ b} (h : Evolves s t) : Evolves s (t.barWait p t₁ b) := h.updSt.updBar

theorem Evolves.barSend {p t₁ b} (h : Evolves s t) : Evolves s (t.barSend p t₁ b) := .ite h h.updSt.updBar

theorem Evolves.kbar {p t₁ mode} (h : Evolves s t) : Evolves s (t.kbar p t₁ mode) := by
  unfold State.kbar
  extract_lets -underBinder k b d leave multi j
  have hleave {u v st} (h : Evolves s u) : Evolves s (leave u v st) := h.updSt fun x hx => (STile.retire_lm x _).symm ▸ hx
  have hj : Evolves s j.2 := by
    unfold j
    split
    · exact h.touchJob
    · exact h
  clear_value leave j
  split
  · exact hleave h.draw.draw
  · refine .ite (hleave h.draw) (.ite hj ?_)
    split
    · exact hj.barSend.barWait
    · exact hleave hj.barSend.draw
    · exact .ite h.barWait (hleave h.draw)

theorem Evolves.barFlip {c b} (h : Evolves s t) : Evolves s (t.barFlip c b) := h.updBar

theorem Evolves.barFree {b k} (h : Evolves s t) : Evolves s (t.barFree b k) :=
  .ite (h.updSt.draw.updSt fun x hx => (STile.retire_lm x _).symm ▸ hx) h.updSt

theorem Evolves.barEngine {p i cnt} (h : Evolves s t) : Evolves s (t.barEngine p i cnt) := by
  unfold State.barEngine
  split
  · exact h
  · exact h.advCnt.updEng (fun _ hx => by split; exacts [hx, hx])

theorem Evolves.barReach {c b p} (h : Evolves s t) : Evolves s (t.barReach c b p) :=
  .ite h ((((h.updBar.each fun _ _ h' => h'.barFree).each fun _ _ h' => h'.updCtx).each fun _ _ h' => h'.barEngine))

theorem Evolves.stopTile {u} (h : Evolves s t) : Evolves s (t.stopTile u) := by
  unfold State.stopTile
  extract_lets -underBinder
  split
  · exact h
  · exact .ite h.putSave.clearUnit.updUnit.ackAll h
  · exact .ite ((h.setBars (Map.mapV_wf _ _ _)).putSave.clearUnit.updUnit.ackAll) h

theorem Evolves.loadVt {p v x r} (h : Evolves s t) : Evolves s (t.loadVt p v x r) :=
  ((h.readSave.updVt (fun _ _ => Bytes.ofCells_wf _)).qUse.each fun _ _ h' => h'.qUse).loadProg.updUnit.xferGo

theorem Evolves.loadSt {p t₁ x r} (h : Evolves s t) : Evolves s (t.loadSt p t₁ x r) :=
  (h.readSave.updSt (fun _ _ => Bytes.ofCells_wf _)).qUse.loadProg.updUnit.xferGo

theorem Evolves.loadUnit {u x} (h : Evolves s t) : Evolves s (t.loadUnit u x) := by
  unfold State.loadUnit
  extract_lets -underBinder t1
  have h1 : Evolves s t1 := h.clearUnit
  exact .ite h (by split; exacts [h1.loadEng, h1.loadVt, h1.loadSt, .ite h1 h1.loadProg.updUnit, h1.loadProg.updUnit])

theorem Evolves.saveUnit {u} (h : Evolves s t) : Evolves s (t.saveUnit u) := by
  unfold State.saveUnit
  split
  · exact h.stopEng.saveEng
  · exact h.stopTile

end Sys2Proof.Machine
end

section
/-!
SUPPORT. The definitions of Machine/FabOps: each answers a state that comes of the one before.
-/

namespace Sys2Proof.Machine

set_option Elab.async false

variable {s t : State}

theorem Evolves.toRank {c rank f} (h : Evolves s t) : Evolves s (t.toRank c rank f) := h.sendFrame

theorem Evolves.toParent {c f} (h : Evolves s t) : Evolves s (t.toParent c f) := by
  unfold State.toParent
  split
  · exact h
  · exact h.toRank

theorem Evolves.toChildren {c f} (h : Evolves s t) : Evolves s (t.toChildren c f) := h.each fun _ _ h' => h'.toRank

theorem Evolves.barSpread {c b} (h : Evolves s t) : Evolves s (t.barSpread c b) := h.toChildren.barFlip

theorem Evolves.barRank {c b rank} (h : Evolves s t) : Evolves s (t.barRank c b rank) := .ite h.updJob.updJob.barSpread h.updJob

theorem Evolves.barLocal {c b} (h : Evolves s t) : Evolves s (t.barLocal c b) := .ite h (.ite h.barRank h.toRank)

theorem Evolves.freqApply {c} (h : Evolves s t) : Evolves s (t.freqApply c) := h.updJob.followMhz

theorem Evolves.freqSet {c mhz step} (h : Evolves s t) : Evolves s (t.freqSet c mhz step) := .ite h h.toChildren.updJob.freqApply

theorem Evolves.freqGather {c} (h : Evolves s t) : Evolves s (t.freqGather c) := .ite (.ite h.freqSet h.toParent) h

theorem Evolves.freqRound {c} (h : Evolves s t) : Evolves s (t.freqRound c) := .ite h h.updJob.freqGather

theorem Evolves.freqChange {c} (h : Evolves s t) : Evolves s (t.freqChange c) := .ite h (.ite h.freqRound h)

theorem Evolves.jobFormed {c} (h : Evolves s t) : Evolves s (t.jobFormed c) := h.updJob.freqRound

theorem Evolves.answerHello {c j rank} (h : Evolves s t) : Evolves s (t.answerHello c j rank) := h.sendFrame

theorem Evolves.earlyHello {fjob rank digest ranks mgen} (h : Evolves s t) : Evolves s (t.earlyHello fjob rank digest ranks mgen) := by
  unfold State.earlyHello
  split
  · exact h
  · exact (by split; exacts [h.answerHello, h.setFab])

theorem Evolves.settleHellos (h : Evolves s t) : Evolves s (t.settleHellos) :=
  h.each fun _ _ h' => (by split; exacts [h', (h'.each fun _ _ h1' => h1'.answerHello).setFab])

theorem Evolves.takeHello {c rank digest ranks mgen} (h : Evolves s t) : Evolves s (t.takeHello c rank digest ranks mgen) :=
  .ite (.ite h.updJob.jobFormed h.updJob) h

theorem EvolvesIn.takeDies {c} (h : Evolves s t) : EvolvesIn s (t.takeDies c) := by
  unfold State.takeDies
  refine List.foldlRecOn (motive := EvolvesIn s) _ _ (.some h.updJob) ?_
  intro o ho g _ u e
  obtain ⟨v, hv, e⟩ := Option.bind_eq_some_iff.1 e
  obtain ⟨d, -, rfl⟩ := Option.map_eq_some_iff.1 e
  exact (ho v hv).updJob

theorem Evolves.endJob {c} (h : Evolves s t) : Evolves s (t.endJob c) := .ite h h.updJob.journal

theorem Evolves.formFail {c} (h : Evolves s t) : Evolves s (t.formFail c) := .ite h (by split; exacts [.ite h.rollback h.endJob.emit, h.endJob.emit])

theorem Evolves.startForming {c} (h : Evolves s t) : Evolves s (t.startForming c) := by
  unfold State.startForming
  extract_lets -underBinder _ t1
  have h1 : Evolves s t1 := h.updJob
  split
  · exact h1.formFail
  next u heq =>
    have hu : Evolves s u := EvolvesIn.takeDies h1 u heq
    extract_lets -underBinder _ t2
    have h2 : Evolves s t2 := hu.each fun _ _ h' => h'.toRank
    exact .ite h2.jobFormed (h2.each fun _ _ h' => h'.takeHello)

theorem Evolves.jobReturn {c} (h : Evolves s t) : Evolves s (t.jobReturn c) := .ite h.jobFormed h

theorem Evolves.nodeDown {node mgen} (h : Evolves s t) : Evolves s (t.nodeDown node mgen) :=
  .each (.ite h h.setFab) fun _ _ h' => .ite h'.formFail h'.updJob.abandonJob

theorem Evolves.nodeUp {node mgen} (h : Evolves s t) : Evolves s (t.nodeUp node mgen) := .each (.ite h h.setFab) fun _ _ h' => h'.updJob.jobReturn

theorem Evolves.takeAbandon {fjob fgen} (h : Evolves s t) : Evolves s (t.takeAbandon fjob fgen) := by
  unfold State.takeAbandon
  split
  · exact h
  · exact .ite h.setFab.abandonJob h

theorem Evolves.lostFrame {f} (h : Evolves s t) : Evolves s (t.lostFrame f) := by
  unfold State.lostFrame
  refine .ite h ?_
  extract_lets -underBinder _ _ u
  have hu : Evolves s u.2 := h.noticeNew
  exact .ite hu.setFab.takeAbandon h

theorem Evolves.sendNodeDown (h : Evolves s t) : Evolves s (t.sendNodeDown) := h.originate

theorem Evolves.sendNodeUp (h : Evolves s t) : Evolves s (t.sendNodeUp) := h.setFab.originate

theorem Evolves.landUnit {c g step off d last poison} (h : Evolves s t) : Evolves s (t.landUnit c g step off d last poison) := by
  unfold State.landUnit
  split
  · exact h
  · extract_lets -underBinder t1 t2 t3 t4
    have h1 : Evolves s t1 := by unfold t1; split; exacts [h.landSp, h]
    have h2 : Evolves s t2 := .ite h1.poisonWork h1
    have h3 : Evolves s t3 := h2.updJob
    have h4 : Evolves s t4 := h3.updJob
    exact .ite (.ite h4.advCnt h4) h3

theorem Evolves.pourDown {c g step off d last poison own} (h : Evolves s t) : Evolves s (t.pourDown c g step off d last poison own) :=
  .ite h.toChildren.landUnit (.ite h.toChildren (by split; exacts [h.toChildren, h.toChildren.inject]))

theorem Evolves.churnBreak {c g xid} (h : Evolves s t) : Evolves s (t.churnBreak c g xid) :=
  (h.each fun _ _ h' => (h'.each fun _ _ h1' => h1'.dropFlit).updRouter).fault

theorem Evolves.combine {c g step off} (h : Evolves s t) : Evolves s (t.combine c g step off) :=
  .ite (by split; exacts [h, .ite h.churnBreak.sendAbandon (.ite h.updJob.pourDown h.updJob.toParent)]) h

theorem Evolves.atomFab {cid e o n op bs} (h : Evolves s t) : Evolves s (t.atomFab cid e o n op bs).2.2 := by
  unfold State.atomFab
  refine .foldlOf (fun r : List Byte × Bool × State => r.2.2) h fun _ _ h' => ?_
  dsimp only
  split
  · exact h'.rdTarget
  · exact h'.rdTarget.wrTarget

theorem Evolves.serveFab {c f} (h : Evolves s t) : Evolves s (t.serveFab c f).2.2.2 := by
  unfold State.serveFab
  extract_lets -underBinder _ _ _ acc
  clear_value acc
  split
  · exact h
  split
  · exact h
  dsimp only
  split
  · exact h
  split
  · exact h
  split
  · exact Evolves.rdRow (.ite h.tcAdd h)
  · split
    · exact .ite h.tcAdd h
    split
    · split
      · exact h.tcAdd
      · exact h.tcAdd.wrRow.dlog
    · split
      · exact h
      · exact h.wrRow.dlog
  · split
    · exact .ite h.tcAdd h
    have h1 (c : Prop) [Decidable c] (x n : Nat) : Evolves s (if c then t.tcAdd x 2 n else t) := .ite h.tcAdd h
    exact .ite ((h1 _ _ _).atomFab.updHmemOf fun c => ((h1 _ _ _).keepsCanon c).host_mem.get rfl _) (h1 _ _ _).atomFab.dlog

theorem Evolves.answerFab {c f} (h : Evolves s t) : Evolves s (t.answerFab c f) := h.serveFab.sendFrame

theorem Evolves.peerAnswer {f} (h : Evolves s t) : Evolves s (t.peerAnswer f) := by
  unfold State.peerAnswer
  dsimp only
  split
  · exact .ite h (.ite h.updUnit.xlFault (.ite (.extEnd (.ite h.poisonWork h)) (.updUnit (.ite h.poisonWork h))))
  · exact h

end Sys2Proof.Machine
end

section
/-!
SUPPORT. The definitions of Machine/Fabric: each answers a state that comes of the one before.
-/

namespace Sys2Proof.Machine

set_option Elab.async false

variable {s t : State}

theorem Evolves.consume {c f} (h : Evolves s t) : Evolves s (t.consume c f) := by
  unfold State.consume
  extract_lets -underBinder
  split
  · exact h.answerFab
  · exact h.answerFab
  · exact h.answerFab
  · exact h.peerAnswer
  · exact h.peerAnswer
  · exact h.updJob
  · exact .ite ((h.updJob.each fun _ _ h' => h'.pourDown)) h
  · exact .ite h (.ite h.barSpread h.barRank)
  · split
    exacts [h.updJob.freqGather, h.freqSet, .ite h h.takeHello, h]

theorem Evolves.takeNotice {p f} (h : Evolves s t) : Evolves s (t.takeNotice p f) :=
  .ite h.noticeNew (by split; exacts [h.noticeNew.nodeDown, h.noticeNew.nodeUp, h.noticeNew.takeAbandon, h.noticeNew])

theorem Evolves.endFrame {p f} (h : Evolves s t) : Evolves s (t.endFrame p f) :=
  .ite h.takeNotice (.ite h.earlyHello (.ite h.updFport (by split; exacts [h, h.consume])))

theorem Evolves.frameOut {p f} (h : Evolves s t) : Evolves s (t.frameOut p f) := h.updFport.freeFrame.endFrame

theorem Evolves.fabLeave {p} (h : Evolves s t) : Evolves s (t.fabLeave p) := by
  unfold State.fabLeave
  extract_lets -underBinder _ t1 t2 t3 _ t4 t5 t6
  have h1 : Evolves s t1 := h
  have h2 : Evolves s t2 := h.updFport
  have h3 : Evolves s t3 := h2.journal
  have h4 : Evolves s t4 := .ite h3 ((h3.each fun _ _ h' => h'.lostFrame))
  have h5 : Evolves s t5 := h4.detourLost
  have h6 : Evolves s t6 := h5.each fun _ _ h' => .ite h'.sendFrame h'.endFrame
  exact .ite ((h6.each fun _ _ h' => .ite h' h'.sendFrame)) h

theorem Evolves.fabStop {p st code} (h : Evolves s t) : Evolves s (t.fabStop p st code) := h.fabLeave.updFport.fabCode

theorem Evolves.fabStart {p} (h : Evolves s t) : Evolves s (t.fabStart p) := h.updFport

theorem Evolves.fabCtl {p v} (h : Evolves s t) : Evolves s (t.fabCtl p v) :=
  .ite h.updFport.journal.journal.fabStart h.updFport.journal.journal.fabLeave.updFport

theorem Answers.fabPortEnable {f value} (h : Evolves s t) : Answers s (execFabPortEnable f value t) := .next h.fabCtl

theorem Evolves.fabMove {p a b} (h : Evolves s t) : Evolves s (t.fabMove p a b) := h.updFport

theorem Answers.signalDetect {f} (h : Evolves s t) : Answers s (execSignalDetect f t) := .next h.fabMove

theorem Answers.detectTimeout {f} (h : Evolves s t) : Answers s (execDetectTimeout f t) := .next (.ite h.fabStop h)

theorem Answers.detectRetry {f} (h : Evolves s t) : Answers s (execDetectRetry f t) := .next h.fabStart

theorem Answers.equalizeDone {f} (h : Evolves s t) : Answers s (execEqualizeDone f t) := .next h.fabMove

theorem Answers.equalizeTimeout {f} (h : Evolves s t) : Answers s (execEqualizeTimeout f t) := .next (.ite h.fabStop h)

theorem Answers.alignDone {f laneMap polInv} (h : Evolves s t) : Answers s (execAlignDone f laneMap polInv t) :=
  .next (.ite (.sendLink (.ite (.ite h.updFport h.updFport.fabCode) (.fabCode (.ite h.updFport h.updFport.fabCode)))) h)

theorem Answers.identify {f peer} (h : Evolves s t) : Answers s (execIdentify f peer t) :=
  .next (.ite (.ite (.ite h.updFport.portSend h.updFport) h.fabStop) h)

theorem Answers.identifyTimeout {f} (h : Evolves s t) : Answers s (execIdentifyTimeout f t) := .next (.ite h.fabStop h)

theorem Answers.codewordReceive {f seq ack corrected correctable} (h : Evolves s t) : Answers s (execCodewordReceive f seq ack corrected correctable t) :=
  .next (.ite h (.ite h.sendLink h.updFport))

theorem Answers.replayRequest {f seq} (h : Evolves s t) : Answers s (execReplayRequest f seq t) :=
  .next (.ite h (.ite h.updFport.updFport h.updFport.replayOut))

theorem Answers.retrainDone {f peer} (h : Evolves s t) : Answers s (execRetrainDone f peer t) := .next (.ite h.updFport.replayOut.portDrain h)

theorem Answers.linkFailed {f} (h : Evolves s t) : Answers s (execLinkFailed f t) := .next (.ite h.fabStop h)

theorem Evolves.sendCredit {p vc} (h : Evolves s t) : Evolves s (t.sendCredit p vc) := h.updFport.transmit

theorem Answers.creditFrameSend {f vc} (h : Evolves s t) : Answers s (execCreditFrameSend f vc t) := .next (.ite h.sendCredit h)

theorem Evolves.creditBackFab {p vc count} (h : Evolves s t) : Evolves s (t.creditBackFab p vc count) := .ite h.fabStop h.updFport.portDrain

theorem Answers.creditFrameReceive {f vc count} (h : Evolves s t) : Answers s (execCreditFrameReceive f vc count t) := .next (.ite h.creditBackFab h)

theorem Evolves.auditSettle {p vc} (h : Evolves s t) : Evolves s (t.auditSettle p vc) := by
  unfold State.auditSettle
  dsimp only
  split
  · exact h
  · exact .ite h (.ite h.updFport h.fabStop)

theorem Evolves.auditCheck {p vc sent} (h : Evolves s t) : Evolves s (t.auditCheck p vc sent) := .ite h.sendCredit h.updFport.auditSettle

theorem Evolves.sendAudit {p vc} (h : Evolves s t) : Evolves s (t.sendAudit p vc) := h.transmit

theorem Answers.auditFrame {f vc sent} (h : Evolves s t) : Answers s (execAuditFrame f vc sent t) := .next (.ite h.sendAudit.auditCheck h)

theorem Evolves.auditTick (h : Evolves s t) : Evolves s (t.auditTick) := h.each fun _ _ h' => (h'.each fun _ _ h1' => h1'.sendAudit).updFport

theorem Evolves.frameIn {p f} (h : Evolves s t) : Evolves s (t.frameIn p f) := by
  unfold State.frameIn
  extract_lets -underBinder t1 t2 t3
  have h1 : Evolves s t1 := .ite h h.updFport
  have h2 : Evolves s t2 := h1.updFport
  have h3 : Evolves s t3 := h2.updFport
  exact .ite h1 (.ite h1.updFport (.ite h1.creditBackFab (.ite h1.auditCheck
    (.ite h2.dropFrame (.ite h2.dropFrame.fabCode.lostFrame (.ite h3.forward h3))))))

theorem Answers.frameReceive {f fr} (h : Evolves s t) : Answers s (execFrameReceive f fr t) := .next (.ite h.frameIn h)

theorem Answers.frameEnd {f fr} (h : Evolves s t) : Answers s (execFrameEnd f fr t) := .next (.ite h (.ite h.forward (.ite h.frameOut.auditSettle h)))

theorem Evolves.countBuf {r} (h : Evolves s t) : Evolves s (t.countBuf r) := by
  unfold State.countBuf
  split
  · exact h.hostRx
  · exact h

theorem Evolves.runFabJoin {r} (h : Evolves s t) : Evolves s (t.runFabJoin r) := by
  unfold State.runFabJoin
  dsimp only
  split
  · exact h.answer
  · exact .ite h.countBuf.answer h.countBuf.setFab.journal.answer

theorem Answers.fabJoin {r} (h : Evolves s t) : Answers s (execFabJoin r t) := .next h.runFabJoin

theorem Evolves.runFabFctx {r} (h : Evolves s t) : Evolves s (t.runFabFctx r) := .ite h.answer (.ite h.answer h.updCtx.journalCtx.answer)

theorem Answers.fabFctx {r} (h : Evolves s t) : Answers s (execFabFctx r t) := .next h.runFabFctx

theorem Answers.hello {c rank digest ranks mgen} (h : Evolves s t) : Answers s (execHello c rank digest ranks mgen t) :=
  .next (.ite h (.ite h.takeHello (by split; exacts [h, h.earlyHello])))

theorem Answers.formationTimeout {c} (h : Evolves s t) : Answers s (execFormationTimeout c t) := .next h.formFail

theorem Evolves.noticeBy {p code node mgen fjob fgen} (h : Evolves s t) : Evolves s (t.noticeBy p code node mgen fjob fgen) := .ite h.takeNotice h

theorem Answers.nodeDown {f node mgen} (h : Evolves s t) : Answers s (execNodeDown f node mgen t) := .next h.noticeBy

theorem Answers.nodeUp {f node mgen} (h : Evolves s t) : Answers s (execNodeUp f node mgen t) := .next h.noticeBy

theorem Answers.abandon {f fjob fgen} (h : Evolves s t) : Answers s (execAbandon f fjob fgen t) := by
  unfold execAbandon
  refine .next ?_
  split
  exacts [h, h.noticeBy]

theorem Answers.freqOffer {c rank mhz} (h : Evolves s t) : Answers s (execFreqOffer c rank mhz t) := .next (.ite h.updJob.freqGather h)

theorem Answers.freqSet {c mhz step} (h : Evolves s t) : Answers s (execFreqSet c mhz step t) := .next (.ite h.freqSet h)

theorem Answers.freqRoundTimer {c} (h : Evolves s t) : Answers s (execFreqRoundTimer c t) := .next h.freqRound

theorem Answers.combine {c group step offset} (h : Evolves s t) : Answers s (execCombine c group step offset t) := .next h.combine

theorem Answers.barFrame {c b rank release fgen} (h : Evolves s t) : Answers s (execBarFrame c b rank release fgen t) :=
  .next (.ite h (.ite (.ite h.barSpread h) (.ite h.barRank h)))

theorem Answers.lnkDetour {node waypoint} (h : Evolves s t) : Answers s (execLnkDetour node waypoint t) :=
  .next (.ite h (.ite h.setFab h.setFab.noRoute))

theorem Answers.cpresNFall {f} (h : Evolves s t) : Answers s (execCpresNFall f t) := .next h.updFport.fabStart

end Sys2Proof.Machine
end

section
/-!
SUPPORT. The definitions of Machine/Compose: each answers a state that comes of the one before.
-/

namespace Sys2Proof.Machine

set_option Elab.async false

variable {s t : State}

theorem Evolves.installTrees {cid ents} (h : Evolves s t) : Evolves s (t.installTrees cid ents) := h.dropEntries.each fun _ _ h' => h'.updRouter

theorem Evolves.stepTrees {cid ents} (h : Evolves s t) : Evolves s (t.stepTrees cid ents) := h.installTrees.jwait

theorem Evolves.zeroAreas {c lp p} (h : Evolves s t) : Evolves s (t.zeroAreas c lp p) := h.saveTraffic

theorem Evolves.claimAll {cid l} (h : Evolves s t) : Evolves s (t.claimAll cid l) := h.each fun _ _ h' => h'.claim.zeroAreas.jwait

theorem Evolves.shareWeights {x} (h : Evolves s t) : Evolves s (t.shareWeights x) := by
  unfold State.shareWeights
  dsimp only
  split
  · exact h
  · exact h.each fun _ _ h' => (by split; exacts [.ite h' h'.updSlot, h'])

theorem Evolves.fillSet {c k e} (h : Evolves s t) : Evolves s (t.fillSet c k e) := by
  unfold State.fillSet
  split
  · exact h
  · exact .ite h.countRead.writeSet.updComp.eventAll h.countRead.writeSet

theorem Evolves.fillWeights {c} (h : Evolves s t) : Evolves s (t.fillWeights c) := by
  unfold State.fillWeights
  extract_lets -underBinder t1
  have h1 : Evolves s t1 := by unfold t1; split; exacts [h, (by split; exacts [h, h.grantSlot])]
  exact .ite h (by split; exacts [h1, ((h1.each fun _ _ h' => h'.fillSet).each fun _ _ h' => h'.shareWeights)])

theorem Evolves.defineBars {c} (h : Evolves s t) : Evolves s (t.defineBars c) :=
  h.resetBarriers.each fun _ _ h' => (by split; exacts [h'.updBar, h'.updBar])

theorem Evolves.settleSaved {x} (h : Evolves s t) : Evolves s (t.settleSaved x) := by
  unfold State.settleSaved
  dsimp only
  split
  · exact .ite h.updCtx (.ite h.updCtx (.ite h.ctxIdle h.updCtx))
  · exact .ite h.updCtx (.ite h.updCtx (.ite h.ctxIdle h.updCtx))
  · exact h

theorem Evolves.stopStage {c g} (h : Evolves s t) : Evolves s (t.stopStage c g) := (h.each fun _ _ h' => h'.saveUnit).each fun _ _ h' => h'.saveUnit

theorem Evolves.saveOut {c g} (h : Evolves s t) : Evolves s (t.saveOut c g) := by
  unfold State.saveOut
  split
  · exact h
  · exact .ite h.stopStage.evict.settleSaved h.stopStage.updStage.updCtx

theorem Evolves.moveFinds {ch under} (h : Evolves s t) : Evolves s (t.moveFinds ch under) := h.setFresh.each fun _ _ h' => h'.decodeSector

theorem Evolves.copyExtent {c lp p q} (h : Evolves s t) : Evolves s (t.copyExtent c lp p q) := by
  refine h.each fun u k h' => ?_
  extract_lets -underBinder under t1 secs n t2
  have h1 : Evolves s t1 := h'.moveFinds
  have h2 : Evolves s t2 := h1.updChan
  clear_value t2
  exact Evolves.jwait (h2.updChan fun _ hx => Map.foldl_set_wf secs (fun e => e.1) (fun e => e.2) _ (Map.filter_wf _ _ _ hx))

theorem Evolves.repoint {c moves} (h : Evolves s t) : Evolves s (t.repoint c moves).2 := h.each fun _ _ h' => h'.updTok

theorem Evolves.restoreStage {c g x} (h : Evolves s t) : Evolves s (t.restoreStage c g x) :=
  (h.each fun _ _ h' => h'.loadUnit).updStage.updCtx.settleSaved

theorem Evolves.dropSaved {x lps} (h : Evolves s t) : Evolves s (t.dropSaved x lps) := h.updCtx

theorem Evolves.stepSaves {c g x kind} (h : Evolves s t) : Evolves s (t.stepSaves c g x kind) :=
  h.each fun _ _ h' => (by split; exacts [h', h'.jwait])

theorem Evolves.saveForOp {c g} (h : Evolves s t) : Evolves s (t.saveForOp c g) := by
  unfold State.saveForOp
  split
  · exact h
  · exact .ite h.saveOut.updComp.stepSaves h.saveOut.updComp

theorem Evolves.restoreForOp {c g x} (h : Evolves s t) : Evolves s (t.restoreForOp c g x) := by
  unfold State.restoreForOp
  split
  · exact h.updStage
  · exact h.stepSaves.restoreStage

theorem Evolves.returnForOp {c g x} (h : Evolves s t) : Evolves s (t.returnForOp c g x) := .ite h.restoreForOp.dropSaved h.restoreForOp

theorem Evolves.undo {c cause ans} (h : Evolves s t) : Evolves s (t.undo c cause ans) := by
  unfold State.undo
  split
  · exact h
  · exact .ite ((h.rollback.each fun _ _ h' => h'.settleSaved.returnForOp).settleHellos) h.rollback

theorem Evolves.fullBudget {c g} (h : Evolves s t) : Evolves s (t.fullBudget c g) := h.updStage

theorem Evolves.forceOut {c} (h : Evolves s t) : Evolves s (t.forceOut c) := h.each fun _ _ h' => h'.startStep

theorem Evolves.enterUnbinding {c req force more} (h : Evolves s t) : Evolves s (t.enterUnbinding c req force more) :=
  .ite h.startUnbind.tearComp.forceOut h.startUnbind.tearComp

end Sys2Proof.Machine
end

section
/-!
SUPPORT. The definitions of Machine/Bind: each answers a state that comes of the one before.
-/

namespace Sys2Proof.Machine

set_option Elab.async false

variable {s t : State}

theorem Evolves.useStaged {h₁} (h : Evolves s t) : Evolves s (t.useStaged h₁) := h.setStaged

theorem Evolves.runStage {r} (h : Evolves s t) : Evolves s (t.runStage r) := by
  unfold State.runStage
  dsimp only
  split
  · exact h.answer
  · exact .ite h.countRead.answer h.countRead.record.answer

theorem Answers.stage {r} (h : Evolves s t) : Answers s (execStage r t) := .next h.runStage

theorem Evolves.placeBind {c} (h : Evolves s t) : Evolves s (t.placeBind c) := by
  unfold State.placeBind
  extract_lets -underBinder r frames join t1 t2
  refine .ite h.rollback ?_
  have h1 : Evolves s t1 := h.claimAll.updComp
  have h2 : Evolves s t2 := h1.stepTrees.fillWeights
  clear_value t2 join
  split
  · exact h2
  · exact h2.updJob.setFab.journal.startForming

theorem Evolves.beginBinds (h : Evolves s t) : Evolves s (t.beginBinds) := h.each fun _ _ h' => h'.placeBind

theorem Evolves.assignCid {c k r} (h : Evolves s t) : Evolves s (t.assignCid c k r) := h.setFreeCids.updComp.setSch.updFq.compRun

theorem Evolves.runBind {r} (h : Evolves s t) : Evolves s (t.runBind r) := by
  unfold State.runBind
  split
  · exact h.answer
  · exact .ite h.useStaged.answer (by split; exacts [h.useStaged.answer, .ite h.useStaged.assignCid.rollback h.useStaged.assignCid.journal.beginBinds])

theorem Answers.bind {r} (h : Evolves s t) : Answers s (execBind r t) := .next h.runBind

theorem Evolves.doLoad {c p typ key} (h : Evolves s t) : Evolves s (t.doLoad c p typ key) := by
  unfold State.doLoad
  split
  · exact h
  · exact .ite h.loadFrame.updComp.jwait h

theorem Answers.frameLoad {c p typ key} (h : Evolves s t) : Answers s (execFrameLoad c p typ key t) := .next h.doLoad

theorem Evolves.commitBind {c o} (h : Evolves s t) : Evolves s (t.commitBind c o) :=
  ((h.updComp.compRun.each fun _ _ h' => h'.bindPart).defineBars.each fun _ _ h' => h'.fullBudget).answer

theorem Evolves.commitRestore {c o} (h : Evolves s t) : Evolves s (t.commitRestore c o) :=
  ((h.each fun _ _ h' => h'.freePart).updComp.installTrees.compRun.each fun _ _ h' => h'.bindPart).defineBars.each fun _ _ h' => h'.fullBudget

theorem Answers.bindCommit {c} (h : Evolves s t) : Answers s (execBindCommit c t) := by
  unfold execBindCommit
  refine .next ?_
  split
  exacts [.ite (.ite h.commitRestore h.commitBind) h, h]

theorem Evolves.alsoUnbind {c r} (h : Evolves s t) : Evolves s (t.alsoUnbind c r) := h.updComp

theorem Evolves.quiesceFor {c r} (h : Evolves s t) : Evolves s (t.quiesceFor c r) := h.updComp.compState

theorem Evolves.cancelBinding {c} (h : Evolves s t) : Evolves s (t.cancelBinding c) :=
  .ite (.freeCid (.setBoot (.each (.ite h.unwind h.journal) fun _ _ h' => h'.startTeardown.finishTeardown))) h.rollback

theorem Evolves.runUnbind {r} (h : Evolves s t) : Evolves s (t.runUnbind r) := by
  unfold State.runUnbind
  extract_lets -underBinder c force t1 back also leave
  have h1 : Evolves s t1 := .ite h.discardIf h
  have hback {u} (h : Evolves s u) : Evolves s (back u) := by
    unfold back
    split
    · exact .ite h h.undo
    · exact h
  have halso {u} (h : Evolves s u) : Evolves s (also u) := .ite h.alsoUnbind.forceOut h.alsoUnbind
  have hleave {u} (h : Evolves s u) : Evolves s (leave u) := .ite (halso h) h.enterUnbinding
  clear_value back also leave t1
  split
  · exact h1.answer
  · exact h1.cancelBinding.answer
  · exact .ite (halso (hback h1)) (.ite (hback h1).quiesceFor.enterUnbinding (hback h1).quiesceFor)
  · exact hleave (hback h1)
  · exact hleave (hback h1)
  · exact hleave (hback h1)
  · split
    · exact h1.enterUnbinding
    · exact .ite (.ite h1.enterUnbinding h1.alsoUnbind)
        (.ite (halso (hback h1)) (.ite (hback h1).quiesceFor.enterUnbinding (hback h1).quiesceFor))
  · exact .ite (halso h1) h1.enterUnbinding

theorem Answers.unbind {r} (h : Evolves s t) : Answers s (execUnbind r t) := .next h.runUnbind

theorem Evolves.unbindEnd {c} (h : Evolves s t) : Evolves s (t.unbindEnd c) := by
  unfold State.unbindEnd
  split
  · extract_lets -underBinder o t1 t2 t3
    have h1 : Evolves s t1 := h.each fun _ _ h' => h'.startTeardown.endTeardown
    have h2 : Evolves s t2 := h1.each fun _ _ h' => .ite h'.freePart h'
    have h3 : Evolves s t3 := h2.journal.freeCid
    clear_value o t3
    refine .ite h1 ?_
    split
    · exact h3
    · exact h3.each fun _ _ h' => h'.reply
  · exact h

theorem Answers.unbindEnd {c} (h : Evolves s t) : Answers s (execUnbindEnd c t) := .next (.ite h.unbindEnd h)

theorem Evolves.runQuery {r} (h : Evolves s t) : Evolves s (t.runQuery r) := h.updHmem.hostTx.answer

theorem Answers.query {r} (h : Evolves s t) : Answers s (execQuery r t) := .next h.runQuery

theorem Evolves.claimRepair {c} (h : Evolves s t) : Evolves s (t.claimRepair c) := .ite h.undo h.claimAll.updComp

theorem Evolves.repair {c} (h : Evolves s t) : Evolves s (t.repair c) := .ite h (.ite h.updComp.compRun.claimRepair h.updComp.compRun)

theorem Answers.repair {c} (h : Evolves s t) : Answers s (execRepair c t) := by
  unfold execRepair
  refine .next ?_
  split
  exacts [.ite h (.ite h.readStore.repair h.readStore.enterUnbinding), h]

theorem Evolves.repairCommit {c o} (h : Evolves s t) : Evolves s (t.repairCommit c o) :=
  (h.loseTokens.stepTrees.updComp.compRun.defineBars.fillWeights.each fun _ _ h' => h'.fullBudget).each fun _ _ h' => h'.returnForOp

theorem Answers.repairHoldExpiry {work} (h : Evolves s t) : Answers s (execRepairHoldExpiry work t) := by
  unfold execRepairHoldExpiry
  refine .next ?_
  split
  exacts [h, .ite h.finishWork h]

theorem Evolves.restoreComp {c} (h : Evolves s t) : Evolves s (t.restoreComp c) := h.claimAll.updComp.stepTrees.fillWeights

theorem Answers.compositionRestore {c} (h : Evolves s t) : Answers s (execCompositionRestore c t) := by
  unfold execCompositionRestore
  extract_lets -underBinder
  refine .next ?_
  split
  · exact .ite h (.ite (.ite h h.setBoot) (.ite h.setBoot.readStore.restoreComp h.setBoot.readStore.updComp.enterUnbinding))
  · exact h

end Sys2Proof.Machine
end

section
/-!
SUPPORT. The definitions of Machine/Rebind: each answers a state that comes of the one before.
-/

namespace Sys2Proof.Machine

set_option Elab.async false

variable {s t : State}

theorem Evolves.runApply {r} (h : Evolves s t) : Evolves s (t.runApply r) :=
  .ite h.mbxError (.ite h.answer (by split; exacts [h.answer, .ite h.useStaged.answer h.useStaged.updComp]))

theorem Answers.apply {r} (h : Evolves s t) : Answers s (execApply r t) := .next h.runApply

theorem Evolves.claimTargets {c} (h : Evolves s t) : Evolves s (t.claimTargets c) := by
  unfold State.claimTargets
  split
  · exact h
  · exact .ite (.enterUnbinding (.undo (.ite h h.readStore))) (.ite (.undo (.ite h h.readStore)) (.updComp (.claimAll (.ite h h.readStore))))

theorem Answers.rebindBegin {c} (h : Evolves s t) : Answers s (execRebindBegin c t) := by
  unfold execRebindBegin
  extract_lets -underBinder
  refine .next ?_
  split
  exacts [.ite (.ite h.updComp.compRun.endJob.claimTargets h.updComp.compRun.endJob) h, h]

theorem Answers.prepared {c} (h : Evolves s t) : Answers s (execPrepared c t) := by
  unfold execPrepared
  extract_lets -underBinder
  refine .next ?_
  split
  exacts [.ite ((h.updComp.durable.each fun _ _ h' => h'.bindPart)) h, h]

theorem Evolves.stageDrained {c g} (h : Evolves s t) : Evolves s (t.stageDrained c g) := by
  unfold State.stageDrained
  split
  · exact h
  · exact .ite (.ite h.updComp.saveForOp h.updComp) h

theorem Answers.stageDrained {c g} (h : Evolves s t) : Answers s (execStageDrained c g t) := .next h.settleStage.stageDrained

theorem Evolves.moveCopied {c g} (h : Evolves s t) : Evolves s (t.moveCopied c g) := by
  unfold State.moveCopied
  split
  · exact h
  · extract_lets -underBinder _ t1 t2
    have h1 : Evolves s t1 := h.each fun _ _ h' => (by split; exacts [h', h'.copyExtent])
    have h2 : Evolves s t2 := h1.updComp
    exact .ite (.ite ((h2.each fun _ _ h' => h'.restoreForOp)) h2) h

theorem Answers.moveCopyDone {c g} (h : Evolves s t) : Answers s (execMoveCopyDone c g t) := .next h.moveCopied

theorem Evolves.rebindCommit {c o} (h : Evolves s t) : Evolves s (t.rebindCommit c o) := by
  unfold State.rebindCommit
  extract_lets -underBinder _ _ _ t1 t2 t3 _ t5 t6 _ t7 t8 t9 t10 t11 t12 _ _ t13 t14
  have h1 : Evolves s t1 := h.breakBarriers.breakTrees
  have h2 : Evolves s t2 := h1.each fun _ _ h' => (by split; exacts [h', h'.evict.settleSaved])
  have h3 : Evolves s t3 := h2.each fun _ _ h' => h'.dropSaved
  have h5 : Evolves s t5 := h3.repoint
  have h6 : Evolves s t6 := h5.each fun _ _ h' => h'.updStage
  have h7 : Evolves s t7 := h6.stepTrees
  have h8 : Evolves s t8 := h7.updComp
  have h9 : Evolves s t9 := h8.compRun
  have h10 : Evolves s t10 := h9.defineBars.fillWeights
  have h11 : Evolves s t11 := h10.each fun _ _ h' => h'.fullBudget
  have h12 : Evolves s t12 := h11.each fun _ _ h' => .ite h'.returnForOp h'.dropSaved
  have h13 : Evolves s t13 := h12.setFab
  have h14 : Evolves s t14 := .ite h13.updJob.journal.startForming h12
  exact h14.answer

theorem Answers.rebindCommit {c} (h : Evolves s t) : Answers s (execRebindCommit c t) := by
  unfold execRebindCommit
  refine .next ?_
  split
  exacts [.ite (.ite h.repairCommit h) (.ite h.rebindCommit h), h]

theorem Evolves.rebindEnd {c} (h : Evolves s t) : Evolves s (t.rebindEnd c) := .ite ((h.each fun _ _ h' => .ite h'.freePart h').updComp.durable) h

theorem Answers.rebindEnd {c} (h : Evolves s t) : Answers s (execRebindEnd c t) := .next (.ite h.rebindEnd h)

theorem Evolves.rebindBack {c} (h : Evolves s t) : Evolves s (t.rebindBack c) := by
  unfold State.rebindBack
  split
  · exact .ite h.undo h
  · exact h

theorem Answers.rebindRollback {c} (h : Evolves s t) : Answers s (execRebindRollback c t) := .next h.rebindBack

theorem Answers.drainLimitExpired {c} (h : Evolves s t) : Answers s (execDrainLimitExpired c t) := by
  unfold execDrainLimitExpired
  refine .next ?_
  split
  exacts [.ite h.rebindBack h, h]

theorem Evolves.saveAll {c} (h : Evolves s t) : Evolves s (t.saveAll c) := h.each fun _ _ h' => h'.saveForOp

theorem Evolves.quiesceDone {c} (h : Evolves s t) : Evolves s (t.quiesceDone c) := by
  unfold State.quiesceDone
  split
  · exact .ite h (.ite h.enterUnbinding (.ite h.saveAll (.claimTargets (.ite h.saveAll.compState h.saveAll.compState.updComp))))
  · exact .ite (.ite h.saveAll h.saveAll.claimRepair) h
  · exact h

theorem Answers.quiesceDone {c} (h : Evolves s t) : Answers s (execQuiesceDone c t) := .next h.quiesceDone

end Sys2Proof.Machine
end

section
/-!
SUPPORT. The definitions of Machine/TokenRows: each answers a state that comes of the one before.
-/

namespace Sys2Proof.Machine

set_option Elab.async false

variable {s t : State}

theorem Evolves.poolRead {a} (h : Evolves s t) : Evolves s (t.poolRead a).2 := by
  unfold State.poolRead
  split
  · exact h.rdFar
  · exact h.drawErr.rdSector

theorem Evolves.poolWrite {b y} (h : Evolves s t) : Evolves s (t.poolWrite b y) :=
  .ite ((h.updFar (fun _ hx => Map.set_wf _ _ _ _ hx))) ((h.updChan (fun _ hx => Map.set_wf _ _ _ _ hx)))

theorem Evolves.copyPool {c src dst off len} (h : Evolves s t) : Evolves s (t.copyPool c src dst off len) :=
  h.each fun _ _ h' => h'.poolRead.poolWrite

theorem Evolves.runTokenNew {r} (h : Evolves s t) : Evolves s (t.runTokenNew r) :=
  .ite h.answer (.ite h.answer (.ite h.answer (by split; exacts [h.answer, h.setNextToken.updTok.journal.answerDurable])))

theorem Answers.tokenNew {r} (h : Evolves s t) : Answers s (execTokenNew r t) := .next h.runTokenNew

theorem Evolves.runTokenMove {r} (h : Evolves s t) : Evolves s (t.runTokenMove r) :=
  .ite h.answer (.ite h.answer (by split; exacts [h.answer, h.setToken]))

theorem Answers.tokenMove {r} (h : Evolves s t) : Answers s (execTokenMove r t) := .next h.runTokenMove

theorem Answers.handoffCopyDone {token} (h : Evolves s t) : Answers s (execHandoffCopyDone token t) :=
  .next (.ite (.ite h.loseToken (.ite h.copyPool.setToken h.failHandoff)) h)

theorem Answers.handoffAck {token} (h : Evolves s t) : Answers s (execHandoffAck token t) := by
  unfold execHandoffAck
  refine .next ?_
  split
  exacts [h, .ite h.ackHandoff h]

theorem Evolves.runTokenRelease {r} (h : Evolves s t) : Evolves s (t.runTokenRelease r) := .ite h.answer (.ite h.releaseToken.answerDurable h.answer)

theorem Answers.tokenRelease {r} (h : Evolves s t) : Answers s (execTokenRelease r t) := .next h.runTokenRelease

end Sys2Proof.Machine
end

section
/-!
SUPPORT. The definitions of Machine/Context: each answers a state that comes of the one before.
-/

namespace Sys2Proof.Machine

set_option Elab.async false

variable {s t : State}

theorem Evolves.takeXid (h : Evolves s t) : Evolves s (t.takeXid) := .ite h.setNextXid h.setFreedXids

theorem Evolves.copyTemplate {x slot es} (h : Evolves s t) : Evolves s (t.copyTemplate x slot es).2 := by
  unfold State.copyTemplate
  refine .foldlOf (fun r : Nat × State => r.2) h fun _ e h' => ?_
  extract_lets -underBinder v st
  split
  · exact h'
  · clear_value v
    split
    · exact h'
    · exact Evolves.updSlot h'

theorem Evolves.runCtxCreate {r} (h : Evolves s t) : Evolves s (t.runCtxCreate r) := by
  unfold State.runCtxCreate
  extract_lets -underBinder
  split
  · exact h.answer
  · split
    · exact h.answer
    · exact .ite h.answer (by split; exacts [.ite h.countClear.answer h.takeXid.grantSlot.updCtx.copyTemplate.shareWeights.journalCtx.answer, h.answer])

theorem Answers.ctxCreate {r} (h : Evolves s t) : Answers s (execCtxCreate r t) := .next h.runCtxCreate

theorem Evolves.runCtxDestroy {r} (h : Evolves s t) : Evolves s (t.runCtxDestroy r) := .ite h.answer (.ite h.answer h.startTeardown)

theorem Answers.ctxDestroy {r} (h : Evolves s t) : Answers s (execCtxDestroy r t) := .next h.runCtxDestroy

theorem Answers.teardown {x} (h : Evolves s t) : Answers s (execTeardown x t) := .next (.ite h.endTeardown h)

theorem Evolves.consumeSlot {f r} (h : Evolves s t) : Evolves s (t.consumeSlot f r) := h.wrRegion.updFn.updRing

theorem Evolves.refuseWork {f r w cls status b} (h : Evolves s t) : Evolves s (t.refuseWork f r w cls status b) :=
  h.setSch.putRecord.updRing.ringSettle

theorem Evolves.acceptWork {f r w b} (h : Evolves s t) : Evolves s (t.acceptWork f r w b) :=
  .ite h.setSch.setWork.updCtx.putRecord.finishWork h.setSch.setWork.updCtx.putRecord

theorem Evolves.takeWork {f r d slot} (h : Evolves s t) : Evolves s (t.takeWork f r d slot) :=
  .settleBatch (.ite h.updComp.refuseWork (.ite h.updComp.refuseWork h.updComp.acceptWork))

theorem Evolves.takeControl {f r d} (h : Evolves s t) : Evolves s (t.takeControl f r d) := by
  unfold State.takeControl
  extract_lets -underBinder _ _ t1
  have h1 : Evolves s t1 := h.updFn
  split
  · exact h1.answer
  · split
    · exact h1.answer
    · split
      · exact h1.answer
      · split
        · exact h1.runCtxCreate
        · exact h1.runCtxDestroy
        · exact h1.runTokenNew
        · exact h1.runTokenMove
        · exact h1.runTokenRelease
        · exact h1.runMap
        · exact h1.runUnmap
        · exact h1.runRangeQuery

theorem Evolves.readDescriptor {f r} (h : Evolves s t) : Evolves s (t.readDescriptor f r) :=
  .ite h (.ite h.updFn (.ite h.emit (.ite (.ite h h.updRing.consumeSlot.takeWork) (.ite h h.updRing.consumeSlot.takeControl))))

theorem Answers.descriptorRead {h₁ f ring} (h : Evolves s t) : Answers s (execDescriptorRead h₁ f ring t) := .next h.readDescriptor

end Sys2Proof.Machine
end

section
/-!
SUPPORT. The definitions of Machine/Sched: each answers a state that comes of the one before.
-/

namespace Sys2Proof.Machine

set_option Elab.async false

variable {s t : State}

theorem Evolves.startRestore {c g x} (h : Evolves s t) : Evolves s (t.startRestore c g x) := h.updStage.updCtx

theorem Evolves.stopFor {c g next} (h : Evolves s t) : Evolves s (t.stopFor c g next) := by
  unfold State.stopFor
  split
  · exact (by split; exacts [h, h.startRestore])
  · exact h.updStage.updCtx

theorem Evolves.chargeStop {c g x} (h : Evolves s t) : Evolves s (t.chargeStop c g x) := by
  unfold State.chargeStop
  split
  · exact h
  · exact .updStage (.ite h.updCtx h.updStage)

theorem Evolves.newSlice {c g x} (h : Evolves s t) : Evolves s (t.newSlice c g x) := (h.each fun _ _ h' => h'.updCtx).updStage.updCtx

theorem Evolves.saveDone {c g} (h : Evolves s t) : Evolves s (t.saveDone c g) := by
  unfold State.saveDone
  split
  · extract_lets -underBinder t1 t2 t3
    have h1 : Evolves s t1 := h.stopStage
    have h2 : Evolves s t2 := h1.chargeStop.evict.settleSaved.updStage
    have h3 : Evolves s t3 := .ite h2.stepSaves h2
    exact .ite h1 (by split; exacts [h3, .ite h3.startRestore h3])
  · exact h

theorem Answers.switchSaveDone {c g} (h : Evolves s t) : Answers s (execSwitchSaveDone c g t) := .next h.saveDone

theorem Evolves.runOn {c g n w} (h : Evolves s t) : Evolves s (t.runOn c g n w) := (h.each fun _ _ h' => h'.updUnit).updStage

theorem Evolves.restoreDone {c g} (h : Evolves s t) : Evolves s (t.restoreDone c g) := by
  unfold State.restoreDone
  split
  · extract_lets -underBinder t1 t2
    have h1 : Evolves s t1 := h.restoreStage.dropSaved
    have h2 : Evolves s t2 := .ite h1.newSlice h1
    exact .ite (by split; exacts [h2, h2.runOn]) h.evict
  · exact h

theorem Answers.switchRestoreDone {c g} (h : Evolves s t) : Answers s (execSwitchRestoreDone c g t) := .next h.restoreDone

theorem Evolves.startWork {c g n w} (h : Evolves s t) : Evolves s (t.startWork c g n w) := by
  unfold State.startWork
  extract_lets -underBinder t1 t2 _ t3 _ _ t4
  have h1 : Evolves s t1 := .ite h.newSlice h
  have h2 : Evolves s t2 := .ite h1 h1.updStage
  have h3 : Evolves s t3 := .ite h2.setSch h2
  have h4 : Evolves s t4 := h3.each fun _ _ h' => (by split; exacts [.ite h' h'.updSt, h'])
  exact .ite h2.runOn h4.setWork.runOn

theorem Evolves.workStart {n g} (h : Evolves s t) : Evolves s (t.workStart n g) := by
  unfold State.workStart
  split
  · exact h
  · exact .ite h.settleStage (by split; exacts [h.settleStage, .ite h.settleStage (.ite h.settleStage.startWork h.settleStage.stopFor)])

theorem Answers.workStart {work g} (h : Evolves s t) : Answers s (execWorkStart work g t) := .next h.workStart

theorem Evolves.workComplete {n} (h : Evolves s t) : Evolves s (t.workComplete n) := by
  unfold State.workComplete
  split
  · exact h
  · extract_lets -underBinder t1
    have h1 : Evolves s t1 := h.each fun _ _ h' => .ite h'.settleStage h'
    split
    exacts [h1, .ite h1.finishWork h1]

theorem Answers.workComplete {work} (h : Evolves s t) : Answers s (execWorkComplete work t) := .next h.workComplete

theorem Evolves.deadline {n} (h : Evolves s t) : Evolves s (t.deadline n) := by
  unfold State.deadline
  split
  · exact h
  · exact .ite ((h.setSch.finishWork.each fun _ _ h' => h'.startStep).sendAbandon) ((h.setSch.finishWork.each fun _ _ h' => h'.startStep))

theorem Answers.deadlineFire {work} (h : Evolves s t) : Answers s (execDeadlineFire work t) := .next h.deadline

theorem Evolves.sliceEnd {c g} (h : Evolves s t) : Evolves s (t.sliceEnd c g) := by
  unfold State.sliceEnd
  extract_lets -underBinder t1
  have h1 : Evolves s t1 := h.settleStage
  split
  · exact h1
  · extract_lets -underBinder t2
    have h2 : Evolves s t2 := h1.updStage
    exact .ite h1 (by split; exacts [h2.updStage.stopFor, (by split; exacts [.ite h2.newSlice h2.stopFor, .ite h2.stopFor h2.newSlice])])

theorem Answers.sliceEnd {c g} (h : Evolves s t) : Answers s (execSliceEnd c g t) := .next h.sliceEnd

theorem Evolves.creamPreempt {c g} (h : Evolves s t) : Evolves s (t.creamPreempt c g) := by
  unfold State.creamPreempt
  extract_lets -underBinder t1
  have h1 : Evolves s t1 := h.settleStage
  split
  · exact h1
  · exact .ite h1 (by split; exacts [.ite h1.stopFor h1, .ite h1.updStage h1, .ite h1.evict.settleSaved.startRestore h1])

theorem Answers.creamPreempt {c g} (h : Evolves s t) : Answers s (execCreamPreempt c g t) := .next h.creamPreempt

theorem Evolves.creamEmpty {c g} (h : Evolves s t) : Evolves s (t.creamEmpty c g) :=
  .ite (by split; exacts [h.settleStage.updStage, h.settleStage.updStage.stopFor]) h.settleStage.updStage

theorem Answers.creamBudgetEmpty {c g} (h : Evolves s t) : Answers s (execCreamBudgetEmpty c g t) := .next h.creamEmpty

theorem Answers.creamBudgetRefill {c g} (h : Evolves s t) : Answers s (execCreamBudgetRefill c g t) := .next (.ite h.updStage.creamPreempt h)

end Sys2Proof.Machine
end

section
/-!
SUPPORT. The definitions of Machine/HostRows: each answers a state that comes of the one before.
-/

namespace Sys2Proof.Machine

set_option Elab.async false

variable {s t : State}

theorem Evolves.retryToJournal {f r} (h : Evolves s t) : Evolves s (t.retryToJournal f r) := (h.each fun _ _ h' => h'.toJournal).updRing

theorem Evolves.lapse {f} (h : Evolves s t) : Evolves s (t.lapse f) := .ite ((h.updFn.each fun _ _ h' => h'.retryToJournal).hostCode) h

theorem Evolves.flushEvents {f} (h : Evolves s t) : Evolves s (t.flushEvents f) := h.each fun _ _ h' => h'.flushEvent

theorem Evolves.renew {f seq reclaim} (h : Evolves s t) : Evolves s (t.renew f seq reclaim) := by
  unfold State.renew
  extract_lets -underBinder
  exact .ite h (by split; exacts [h.updFn, h.updFn.flushEvents, .ite h.updFn ((h.updFn.each fun _ _ h' => h'.ctxIdle.journalCtx).hostCode.event.flushEvents)])

theorem Answers.leaseRenewal {h₁ f seq reclaim} (h : Evolves s t) : Answers s (execLeaseRenewal h₁ f seq reclaim t) := .next h.renew

theorem Answers.leaseRelease {h₁ f} (h : Evolves s t) : Answers s (execLeaseRelease h₁ f t) := .next h.lapse

theorem Answers.leaseTimeout {h₁ f} (h : Evolves s t) : Answers s (execLeaseTimeout h₁ f t) := .next (.ite h.lapse h)

theorem Evolves.saveCtx {x} (h : Evolves s t) : Evolves s (t.saveCtx x) :=
  h.each fun _ _ h' => (by dsimp only; split; exacts [h'.evict.settleSaved, h'.saveOut])

theorem Evolves.quiesceLease {f} (h : Evolves s t) : Evolves s (t.quiesceLease f) := by
  unfold State.quiesceLease
  extract_lets -underBinder t1 t2
  have h1 : Evolves s t1 := h.updFn.discardIf
  have h2 : Evolves s t2 := h1.each fun _ _ h' => (by dsimp only; split; exacts [h'.saveCtx.ctxIdle, h'.saveCtx.ctxIdle, h'.saveCtx.ctxIdle, h'.saveCtx])
  exact .ite h2.hostCode h

theorem Answers.leaseQuiesce {h₁ f} (h : Evolves s t) : Answers s (execLeaseQuiesce h₁ f t) := .next h.quiesceLease

theorem Evolves.expireLease {f} (h : Evolves s t) : Evolves s (t.expireLease f) := .ite ((h.updFn.each fun _ _ h' => h'.startTeardown.emit)) h

theorem Answers.leaseExpire {h₁ f} (h : Evolves s t) : Answers s (execLeaseExpire h₁ f t) := .next h.expireLease

theorem Evolves.ackJournal {f} (h : Evolves s t) : Evolves s (t.ackJournal f) := .ite h.updFn.flushEvents h

theorem Answers.journalAck {h₁ f} (h : Evolves s t) : Answers s (execJournalAck h₁ f t) := .next h.ackJournal

theorem Evolves.ringsOff {f} (h : Evolves s t) : Evolves s (t.ringsOff f) := (h.each fun _ _ h' => h'.retryToJournal).updFn

theorem Evolves.fnReset {f} (h : Evolves s t) : Evolves s (t.fnReset f) := h.lapse.ringsOff.updFn

theorem Answers.flr {h₁ f} (h : Evolves s t) : Answers s (execFlr h₁ f t) := .next (.fnReset (.ite h.updHport.hostCode h))

theorem Evolves.linkDown {h₁} (h : Evolves s t) : Evolves s (t.linkDown h₁) := .ite h.updHport ((h.updHport.each fun _ _ h' => h'.fnReset).hostCode)

theorem Answers.hostLinkDown {h₁} (h : Evolves s t) : Answers s (execHostLinkDown h₁ t) := .next h.linkDown

theorem Answers.ideFailure {h₁} (h : Evolves s t) : Answers s (execIdeFailure h₁ t) := .next ((h.updHport.each fun _ _ h' => h'.fnReset).hostCode)

theorem Evolves.ringEnable {f r v} (h : Evolves s t) : Evolves s (t.ringEnable f r v) :=
  .ite h (.ite h (.ite h.updRing.flushEvents h.updRing.hostCode))

theorem Answers.ringEnable {h₁ f ring cfg} (h : Evolves s t) : Answers s (execRingEnable h₁ f ring cfg t) := .next h.ringEnable

theorem Evolves.ringDisable {f r} (h : Evolves s t) : Evolves s (t.ringDisable f r) := h.updRing.ringSettle

theorem Answers.ringDisable {h₁ f ring} (h : Evolves s t) : Answers s (execRingDisable h₁ f ring t) := .next h.ringDisable

theorem Answers.msixCoalesceTimer {h₁ f ring} (h : Evolves s t) : Answers s (execMsixCoalesceTimer h₁ f ring t) := .next (.ite h.emit.updRing h)

theorem Answers.eventRecordWrite {h₁ f} (h : Evolves s t) : Answers s (execEventRecordWrite h₁ f t) := .next h.flushEvent

theorem Evolves.cqRetry {f r done} (h : Evolves s t) : Evolves s (t.cqRetry f r done) :=
  .ite (.ite ((h.updRing.each fun _ _ h' => h'.cqVisible).signal) h) (.ite h.updRing h.updHport.updRing.hostCode)

theorem Answers.cqWriteRetry {h₁ f ring done} (h : Evolves s t) : Answers s (execCqWriteRetry h₁ f ring done t) := .next h.cqRetry

theorem Evolves.hostTimeout {h₁ u} (h : Evolves s t) : Evolves s (t.hostTimeout h₁ u) := by
  unfold State.hostTimeout
  split
  · exact h
  · exact .ite h h.updHport.extEnd.poisonWork.hostCode

theorem Answers.hostTransferTimeout {h₁ u} (h : Evolves s t) : Answers s (execHostTransferTimeout h₁ u t) := .next h.hostTimeout

theorem Evolves.cqHeadWrite {f r v} (h : Evolves s t) : Evolves s (t.cqHeadWrite f r v) := .ite h.updRing.flushEvents h

theorem Evolves.lineOwned {f line} (h : Evolves s t) : Evolves s (t.lineOwned f line) := .ite h.updFn.emit h

theorem Answers.watchedLineOwnership {h₁ f line} (h : Evolves s t) : Answers s (execWatchedLineOwnership h₁ f line t) := .next h.lineOwned

theorem Evolves.takeLine {f line d} (h : Evolves s t) : Evolves s (t.takeLine f line d) := by
  unfold State.takeLine
  extract_lets -underBinder o t1 t2 t3
  have h1 : Evolves s t1 := h.updFn
  clear_value t1
  have h2 : Evolves s t2 := h1.updFn fun x hx => by dsimp only; exact Bytes.wrL_wf x.region o (lineBytes d) hx
  clear_value t2
  have h3 : Evolves s t3 := h2.updFn
  clear_value t3
  exact .ite h1 (.ite (.ite h3.updFn.lapse h3.renew) (.ite h2.updFn.cqHeadWrite h2))

theorem Evolves.lineNotice {f line d} (h : Evolves s t) : Evolves s (t.lineNotice f line d) :=
  .ite (.ite h.updFn.hostRx.updFn h.updFn.hostRx.takeLine) h

theorem Evolves.lateNotices {f} (h : Evolves s t) : Evolves s (t.lateNotices f) := .ite h ((h.updFn.each fun _ _ h' => h'.takeLine))

theorem Answers.watchedLineNotice {h₁ f line data} (h : Evolves s t) : Answers s (execWatchedLineNotice h₁ f line data t) := .next h.lineNotice

end Sys2Proof.Machine
end

section
/-!
SUPPORT. The definitions of Machine/Sharing: each answers a state that comes of the one before.
-/

namespace Sys2Proof.Machine

set_option Elab.async false

variable {s t : State}

theorem Evolves.tdiBreach {f} (h : Evolves s t) : Evolves s (t.tdiBreach f) := .ite h.fnReset h

theorem Evolves.setErr {f e} (h : Evolves s t) : Evolves s (t.setErr f e) := h.updFn

theorem Evolves.vfFrom {f en port func} (h : Evolves s t) : Evolves s (t.vfFrom f en port func) := .ite h h.updFn

theorem Evolves.regionWritten {f} (h : Evolves s t) : Evolves s (t.regionWritten f) :=
  .ite (((h.each fun _ _ h' => h'.recall).each fun _ _ h' => h'.logPage)) ((h.each fun _ _ h' => h'.recall))

theorem Evolves.vfAssign {f c gen} (h : Evolves s t) : Evolves s (t.vfAssign f c gen) := by
  unfold State.vfAssign
  extract_lets -underBinder e t1 t2
  refine .ite h.tdiBreach.setErr ?_
  have h1 : Evolves s t1 := h.updFn fun x hx => by
    dsimp only
    split
    · exact hx
    · rfl
  have h2 : Evolves s t2 := h1.regionWritten.updFn fun _ _ => rfl
  exact h2.journal

theorem Answers.vfAssign {h₁ f c gen} (h : Evolves s t) : Answers s (execVfAssign h₁ f c gen t) := .next (.ite h h.vfFrom.vfAssign)

theorem Evolves.vfUnassign {f} (h : Evolves s t) : Evolves s (t.vfUnassign f) := .ite h.tdiBreach.setErr (.ite h.setErr h.unassign.setErr)

theorem Answers.vfUnassign {h₁ f} (h : Evolves s t) : Answers s (execVfUnassign h₁ f t) := .next (.ite h h.vfFrom.vfUnassign)

theorem Evolves.moveRequests {src f} (h : Evolves s t) : Evolves s (t.moveRequests src f) := by
  unfold State.moveRequests
  extract_lets -underBinder m a
  exact h.record (htokens := by dsimp only; exact Map.mapV_wf _ _ _) (hctxs := by dsimp only; exact Map.mapV_wf _ _ _)

theorem Evolves.handOff {f c gen src} (h : Evolves s t) : Evolves s (t.handOff f c gen src) := by
  unfold State.handOff
  extract_lets -underBinder y _ _ _ t1 t2 _ t3 t4
  refine .ite h.tdiBreach.setErr (.ite h.updFn ?_)
  have h1 : Evolves s t1 := h.updFnOf fun w => (h.keepsCanon w).host_fns.get rfl src
  clear_value t1
  have h2 : Evolves s t2 := h1.regionWritten.updFn.moveRequests
  have h3 : Evolves s t3 := h2.setSch
  have h4 : Evolves s t4 := h3.each fun _ _ h' => h'.updCtx.journalCtx
  exact h4.journal.unassign

theorem Answers.handOff {h₁ f c gen fromPort fromFunc} (h : Evolves s t) : Answers s (execHandOff h₁ f c gen fromPort fromFunc t) :=
  .next (.ite h h.handOff)

theorem Evolves.handTick (h : Evolves s t) : Evolves s (t.handTick) := h.each fun _ _ h' => (by split; exacts [h', .ite h' h'.updFn.handOff])

theorem Evolves.lockInterface {f} (h : Evolves s t) : Evolves s (t.lockInterface f) := .ite h.emit (.ite h.emit.secCode h.updFn.emit)

theorem Answers.lockInterface {h₁ f} (h : Evolves s t) : Answers s (execLockInterface h₁ f t) := .next h.lockInterface

theorem Answers.startInterface {h₁ f} (h : Evolves s t) : Answers s (execStartInterface h₁ f t) := .next (.ite h.updFn h.emit)

theorem Evolves.stopInterface {f} (h : Evolves s t) : Evolves s (t.stopInterface f) :=
  .ite h ((h.lapse.each fun _ _ h' => h'.startTeardown.finishTeardown).updFn)

theorem Answers.stopInterface {h₁ f} (h : Evolves s t) : Answers s (execStopInterface h₁ f t) := .next h.stopInterface

theorem Evolves.migCtl {f act} (h : Evolves s t) (hact : ∀ t, Evolves s t → Evolves s (act t)) : Evolves s (t.migCtl f act) :=
  .ite ((hact _ h)) h.tdiBreach

theorem Evolves.logStart {f} (h : Evolves s t) : Evolves s (t.logStart f) := h.updFn (fun _ hx => by split; exacts [hx, hx])

theorem Answers.logStart {h₁ f} (h : Evolves s t) : Answers s (execLogStart h₁ f t) := .next ((h.migCtl (fun _ h' => h'.logStart)))

theorem Answers.logStop {h₁ f} (h : Evolves s t) : Answers s (execLogStop h₁ f t) := .next ((h.migCtl (fun _ h' => h'.updFn)))

/-- What a write of a dirty log's head does to its function. -/
def Fn.logHeadTo (v : Nat) (x : Fn) : Fn := if sub32 v x.logHead ≤ sub32 x.logTail x.logHead then { x with logHead := v } else x

theorem Fn.logHeadTo_region (v : Nat) (x : Fn) : (x.logHeadTo v).region = x.region := by
  unfold Fn.logHeadTo
  split <;> rfl

theorem Evolves.logHeadWrite {f v} (h : Evolves s t) : Evolves s (t.logHeadWrite f v) := by
  change Evolves s (t.updFn f (Fn.logHeadTo v))
  exact h.updFn fun x hx => (Fn.logHeadTo_region v x).symm ▸ hx

theorem Answers.logheadWrite {h₁ f value} (h : Evolves s t) : Answers s (execLogheadWrite h₁ f value t) := .next h.logHeadWrite

theorem Evolves.pauseFn {f} (h : Evolves s t) : Evolves s (t.pauseFn f) := h.updFn (fun _ hx => by split; exacts [hx, hx])

theorem Answers.pause {h₁ f} (h : Evolves s t) : Answers s (execPause h₁ f t) := .next ((h.migCtl (fun _ h' => h'.pauseFn)))

theorem Evolves.pauseDone {f} (h : Evolves s t) : Evolves s (t.pauseDone f) :=
  .ite (.ite ((h.each fun _ _ h' => h'.saveCtx)) ((h.each fun _ _ h' => h'.saveCtx).updFn)) h

theorem Answers.pauseComplete {h₁ f} (h : Evolves s t) : Answers s (execPauseComplete h₁ f t) := .next h.pauseDone

theorem Evolves.resumeFn {f} (h : Evolves s t) : Evolves s (t.resumeFn f) := h.updFn (fun _ hx => by split; exacts [hx, hx])

theorem Answers.migResume {h₁ f} (h : Evolves s t) : Answers s (execMigResume h₁ f t) := .next ((h.migCtl (fun _ h' => h'.resumeFn)))

end Sys2Proof.Machine
end

section
/-!
SUPPORT. The definitions of Machine/Trust: each answers a state that comes of the one before.
-/

namespace Sys2Proof.Machine

set_option Elab.async false

variable {s t : State}

theorem Evolves.measureFuse (h : Evolves s t) : Evolves s (t.measureFuse) := h.measure

theorem Evolves.measurePolicy (h : Evolves s t) : Evolves s (t.measurePolicy) := h.measure

theorem Evolves.measureMeter (h : Evolves s t) : Evolves s (t.measureMeter) := h.measure

theorem Evolves.rollbackCommit (h : Evolves s t) : Evolves s (t.rollbackCommit) :=
  .ite (h.setSec (hsvn := le_max_left _ _)).measureFuse h.secCode

theorem Answers.rollbackCommit (h : Evolves s t) : Answers s (execRollbackCommit t) := .next h.rollbackCommit

theorem Evolves.setSigner {i g} (h : Evolves s t) : Evolves s (t.setSigner i g) := h.setSec.journal.measurePolicy

theorem Evolves.signerEnroll {r} (h : Evolves s t) : Evolves s (t.signerEnroll r) :=
  .ite h.mbxError (by split; exacts [h.mbxError, .ite h.mbxError (.ite h.secCode.answer (.ite h.answer (.ite h.secCode.answer h.setSigner.answer)))])

theorem Answers.signerEnroll {r} (h : Evolves s t) : Answers s (execSignerEnroll r t) := .next h.signerEnroll

theorem Evolves.signerRevoke {r} (h : Evolves s t) : Evolves s (t.signerRevoke r) :=
  .ite h.mbxError (by split; exacts [h.setSigner.answer, .ite h.answer h.setSigner.answer, h.secCode.answer])

theorem Answers.signerRevoke {r} (h : Evolves s t) : Answers s (execSignerRevoke r t) := .next h.signerRevoke

theorem Answers.keyslotChange {slot install holder shared} (h : Evolves s t) : Answers s (execKeyslotChange slot install holder shared t) :=
  .next (.ite (.ite h.grantSlot h) (.ite h h.withdrawSlot))

theorem Evolves.spdmServe {q} (h : Evolves s t) : Evolves s (t.spdmServe q) := by
  unfold State.spdmServe
  split
  · exact .ite h.emit (.ite h.emit (.ite h.emit h.emit))
  · exact .ite h.emit h.secCode.emit
  · exact h.emit
  · exact h.emit
  · exact .ite h.emit (.emit (.ite h.setSec.setSec h.setSec))

theorem Evolves.spdm {q} (h : Evolves s t) : Evolves s (t.spdm q) := .ite h (.ite h.setSec h.spdmServe)

theorem Evolves.spdmLate (h : Evolves s t) : Evolves s (t.spdmLate) := h.setSec.each fun _ _ h' => h'.spdm

theorem Answers.getMeasurements {index} (h : Evolves s t) : Answers s (execGetMeasurements index t) := .next h.spdm

theorem Answers.cosign {conn transcript} (h : Evolves s t) : Answers s (execCosign conn transcript t) := .next h.spdm

theorem Answers.getCocert (h : Evolves s t) : Answers s (execGetCocert t) := .next h.spdm

theorem Answers.compReport {c nonce} (h : Evolves s t) : Answers s (execCompReport c nonce t) := .next h.spdm

theorem Answers.spdmRequest {conn bytes signed} (h : Evolves s t) : Answers s (execSpdmRequest conn bytes signed t) := .next h.spdm

theorem Evolves.hostview {h₁ f addr write data mask tee err} (h : Evolves s t) : Evolves s (t.hostview h₁ f addr write data mask tee err) := by
  unfold State.hostview
  extract_lets -underBinder
  split
  · exact h
  · split
    · exact .ite h.lineNotice.emit h.hostTx.emit
    · split
      · exact .ite (.ite h.cacheKey.direct.updHport.wrSectorErr.emit h.cacheKey.direct.updHport.wrPartial.emit) h.cacheKey.direct.rdSector.updHport.emit
      · exact .ite h.setSec.secCode.emit h.setSec.secCode.emit

theorem Answers.hostviewAccess {h₁ f addr write data mask ideTee err} (h : Evolves s t) : Answers s (execHostviewAccess h₁ f addr write data mask ideTee err t) :=
  .next h.hostview

theorem Evolves.debugToken {valid n} (h : Evolves s t) : Evolves s (t.debugToken valid n) := by
  unfold State.debugToken
  refine .ite h.secCode ?_
  extract_lets -underBinder t1 _ t2
  have h1 : Evolves s t1 := h.each fun _ _ h' => h'.startTeardown.finishTeardown
  have h2 : Evolves s t2 := h1.setSec (hdebug := fun _ => rfl)
  exact h2.journal.measureFuse

theorem Answers.debugToken {valid powerOns} (h : Evolves s t) : Answers s (execDebugToken valid powerOns t) := .next h.debugToken

theorem Evolves.tcPublish (h : Evolves s t) : Evolves s (t.tcPublish) := h.setCtxs (Map.mapV_wf _ _ _)

theorem Answers.tcWindowUpdate {meanWatts} (h : Evolves s t) : Answers s (execTcWindowUpdate meanWatts t) := .next h.tcPublish.record

end Sys2Proof.Machine
end

section
/-!
SUPPORT. The definitions of Machine/Meter: each answers a state that comes of the one before.
-/

namespace Sys2Proof.Machine

set_option Elab.async false

variable {s t : State}

theorem Evolves.updPail {f} (h : Evolves s t) : Evolves s (t.updPail f) := h.setPail

theorem Evolves.pailEvent {c g source event gran} (h : Evolves s t) : Evolves s (t.pailEvent c g source event gran) :=
  .ite h (.ite h.updPail.updPail (.ite h.updPail.updPail.mtrCode h.updPail.updPail))

theorem Evolves.pailPart {n v} (h : Evolves s t) : Evolves s (t.pailPart n v) := by
  unfold State.pailPart
  extract_lets -underBinder _ t1 _ t2 t3
  have h1 : Evolves s t1 := h.updPail
  have h2 : Evolves s t2 := .ite h1.pailEvent h1
  have h3 : Evolves s t3 := .ite h2.pailEvent h2
  exact .ite h3.pailEvent (.ite h3.pailEvent h3)

theorem Evolves.dieFrame {d down crcOk} (h : Evolves s t) : Evolves s (t.dieFrame d down crcOk) := .ite h ((h.updPail.each fun _ _ h' => h'.pailPart))

theorem Answers.dieLineFrame {d down crcOk} (h : Evolves s t) : Answers s (execDieLineFrame d down crcOk t) := .next h.dieFrame

theorem Evolves.pailBit {host key c source gran v} (h : Evolves s t) : Evolves s (t.pailBit host key c source gran v) := .ite h h.updPail.pailEvent

theorem Evolves.portFrame {i row crcOk} (h : Evolves s t) : Evolves s (t.portFrame i row crcOk) :=
  .ite h (.ite ((h.each fun _ _ h' => h'.pailBit)) (.ite (.ite ((h.each fun _ _ h' => h'.pailBit).updPail) ((h.each fun _ _ h' => h'.pailBit))) h))

theorem Answers.portLineFrame {i row crcOk} (h : Evolves s t) : Answers s (execPortLineFrame i row crcOk t) := .next h.portFrame

theorem Answers.lineLost {line} (h : Evolves s t) : Answers s (execLineLost line t) := .next (.ite h h.updPail.mtrCode)

theorem Answers.periodicClose (h : Evolves s t) : Answers s (execPeriodicClose t) := .next (.ite h (by split; exacts [h.updPail, h.updPail]))

theorem Answers.eventClose (h : Evolves s t) : Answers s (execEventClose t) := .next (.ite h (by split; exacts [h, h.updPail]))

theorem Evolves.pailDurable (h : Evolves s t) : Evolves s (t.pailDurable) := by
  unfold State.pailDurable
  split
  · exact h
  · exact .ite (.updPail (.ite h.updPail.updPail.mtrCode.measureMeter h.updPail)) (.ite h.updPail.updPail.mtrCode.measureMeter h.updPail)

theorem Answers.recordDurable (h : Evolves s t) : Answers s (execRecordDurable t) := .next h.pailDurable

theorem Answers.labelReceive {c} (h : Evolves s t) : Answers s (execLabelReceive c t) := .next (.ite h h.updPail)

theorem Answers.labelTimeout {c} (h : Evolves s t) : Answers s (execLabelTimeout c t) := .next (.ite h h.updPail.mtrCode)

theorem Evolves.pailCompact (h : Evolves s t) : Evolves s (t.pailCompact) := .ite h (.ite h.updPail h.updPail.updPail.mtrCode)

theorem Answers.pailCompaction (h : Evolves s t) : Answers s (execPailCompaction t) := .next h.pailCompact

theorem Answers.mtrAck {value} (h : Evolves s t) : Answers s (execMtrAck value t) := .next (.ite h.updPail h)

theorem Evolves.pailTo {st code} (h : Evolves s t) : Evolves s (t.pailTo st code) := h.updPail.mtrCode.measureMeter

theorem Answers.mdPresentFall (h : Evolves s t) : Answers s (execMdPresentFall t) := .next (.ite h h.updPail.pailTo.setDom)

theorem Answers.mdPresentRise (h : Evolves s t) : Answers s (execMdPresentRise t) := .next (.ite h h.draw.setDom.updPail)

theorem Answers.pailSelfTestDone {passed oscPpm} (h : Evolves s t) : Answers s (execPailSelfTestDone passed oscPpm t) :=
  .next (.ite h (.ite h.pailTo (.ite h.pailTo h.updPail)))

theorem Answers.sealOpen (h : Evolves s t) : Answers s (execSealOpen t) := .next (.ite h h.updPail.pailTo)

theorem Answers.sealToken {valid} (h : Evolves s t) : Answers s (execSealToken valid t) := .next (.ite h (.ite h.mtrCode (.ite h.updPail h)))

theorem Answers.oscCheck {ppm} (h : Evolves s t) : Answers s (execOscCheck ppm t) := .next (.ite h (.ite h.pailTo (.ite h.updPail.mtrCode h.updPail)))

end Sys2Proof.Machine
end

section
/-!
SUPPORT. The definitions of Machine/Power: each answers a state that comes of the one before.
-/

namespace Sys2Proof.Machine

set_option Elab.async false

variable {s t : State}

theorem Answers.gateFreePartition {p} (h : Evolves s t) : Answers s (execGateFreePartition p t) := .next (.ite h.gateOff h)

theorem Answers.warmPowerUp {p} (h : Evolves s t) : Answers s (execWarmPowerUp p t) := .next (.ite h.powerUp h)

theorem Evolves.warmWrite {v} (h : Evolves s t) : Evolves s (t.warmWrite v) := .ite h.setPwr.journal h

theorem Answers.pwrGateCtlWrite {value} (h : Evolves s t) : Answers s (execPwrGateCtlWrite value t) := .next h.warmWrite

theorem Evolves.parkSkim (h : Evolves s t) : Evolves s (t.parkSkim) :=
  h.setSch.each fun _ _ h' => (by dsimp only; split; exacts [h'.saveCtx.ctxIdle, h'.saveCtx.ctxIdle, h'.saveCtx])

theorem Evolves.unpark (h : Evolves s t) : Evolves s (t.unpark) := by
  unfold State.unpark
  exact h.record (hctxs := by dsimp only; exact Map.mapV_wf _ _ _)

theorem Evolves.lowerPart {p floor} (h : Evolves s t) : Evolves s (t.lowerPart p floor) := h.each fun _ _ h' => h'.updIsl

theorem Evolves.lowerNotch (h : Evolves s t) : Evolves s (t.lowerNotch) := by
  unfold State.lowerNotch
  dsimp only
  split
  · exact h
  · exact (h.each fun _ _ h' => h'.lowerPart).each fun _ _ h' => .ite h'.freqRound h'

theorem Evolves.applyStep {n} (h : Evolves s t) : Evolves s (t.applyStep n) := by
  unfold State.applyStep
  extract_lets -underBinder _ t1
  have h1 : Evolves s t1 := h.setPwr
  split
  · exact h1.each fun _ _ h' => h'.setClock
  · exact h1.lowerNotch
  · exact h1.parkSkim
  · exact h1.each fun _ _ h' => h'.gateOff
  · exact h1.setSch
  · exact h1

theorem Evolves.dropStep {n} (h : Evolves s t) : Evolves s (t.dropStep n) := by
  unfold State.dropStep
  extract_lets -underBinder _ t1
  have h1 : Evolves s t1 := h.setPwr
  split
  exacts [(h1.each fun _ _ h' => h'.runClock.runAgreed), .ite h1 h1.unpark, .ite h1 h1.setSch, h1]

theorem Evolves.capCheck {watts} (h : Evolves s t) : Evolves s (t.capCheck watts) := by
  unfold State.capCheck
  extract_lets -underBinder _ t1 _ _ t2
  have h1 : Evolves s t1 := h.setPwr
  have h2 : Evolves s t2 := h1.setPwr
  exact .ite h1 (.ite (.ite h2.setPwr.lowerNotch (.ite h2.applyStep h2)) (.ite (by split; exacts [h1.setPwr, .ite h1.setPwr.dropStep h1]) h1.setPwr))

theorem Answers.capCheck {watts} (h : Evolves s t) : Answers s (execCapCheck watts t) := .next h.capCheck

theorem Evolves.capWrite {v} (h : Evolves s t) : Evolves s (t.capWrite v) := .ite h.setPwr.journal.pwrCode h.setPwr.journal

theorem Answers.pwrCapWrite {value} (h : Evolves s t) : Answers s (execPwrCapWrite value t) := .next h.capWrite

theorem Evolves.phyOff (h : Evolves s t) : Evolves s (t.phyOff) := by
  unfold State.phyOff
  extract_lets -underBinder t1 t2 t3
  have h1 : Evolves s t1 := h.each fun _ _ h' => h'.linkDown
  have h2 : Evolves s t2 := h1.each fun _ _ h' => .ite h' h'.farLeave
  have h3 : Evolves s t3 := h2.each fun _ _ h' => .ite h' h'.fabLeave.updFport
  exact h3.each fun _ _ h' => h'.setPhys

theorem Evolves.railsOff {n} (h : Evolves s t) : Evolves s (t.railsOff n) := h.each fun _ _ h' => h'.updRail

theorem Evolves.linesDown (h : Evolves s t) : Evolves s (t.linesDown) := h.each fun _ _ h' => h'.dieFrame

theorem Evolves.domainsOff (h : Evolves s t) : Evolves s (t.domainsOff) := by
  unfold State.domainsOff
  extract_lets -underBinder t1 t2
  have h1 : Evolves s t1 := h.linesDown.each fun _ _ h' => (h'.each fun _ _ h1' => (h1'.updChan (fun _ _ => rfl))).updPart.setClock
  have h2 : Evolves s t2 := h1.each fun _ _ h' => h'.routersOff
  exact h2.setBoot.railsOff

theorem Evolves.computeOff {hold degraded ladle cause} (h : Evolves s t) : Evolves s (t.computeOff hold degraded ladle cause) :=
  .domainsOff (by split; exacts [(h.each fun _ _ h' => h'.takeOffline), ((h.each fun _ _ h' => h'.takeOffline).each fun _ _ h' => h'.updPart)])

theorem Evolves.inputLoss {cond code} (h : Evolves s t) : Evolves s (t.inputLoss cond code) := by
  unfold State.inputLoss
  refine .ite h ?_
  extract_lets -underBinder t1 t2 t3 t4 t5 _ _ t6
  have h5 : Evolves s t5 := h.pwrCode.sendNodeDown.computeOff.phyOff.railsOff.journal
  clear_value t5
  have h6 : Evolves s t6 := h5.record
  exact h6.emit

theorem Answers.inputUndervolt (h : Evolves s t) : Answers s (execInputUndervolt t) := .next h.inputLoss

theorem Answers.inputOvervolt (h : Evolves s t) : Answers s (execInputOvervolt t) := .next h.inputLoss

theorem Answers.inputHigh (h : Evolves s t) : Answers s (execInputHigh t) := .next h.pwrCode

theorem Answers.inputOvercurrent (h : Evolves s t) : Answers s (execInputOvercurrent t) :=
  .next ((h.each fun _ _ h' => .ite h'.setClock h'.setClock).pwrCode)

theorem Evolves.standbyHalted (h : Evolves s t) : Evolves s { t with
    pwr := { t.pwr with standby := false }, boot := { t.boot with phase := .standby }
    jrn := { t.jrn with writer := 0, waiting := [], compacting := false }
    fw := { t.fw with cores := Map.mapV {} (fun i x => if t.domOn (domMgmt (coreDie i)) then x else { x with st := .halted }) t.fw.cores } } :=
  h.record (hfw_cores := by dsimp only; exact Map.mapV_wf _ _ _)

theorem Evolves.standbyStop (h : Evolves s t) : Evolves s (t.standbyStop) := by
  unfold State.standbyStop
  refine .ite h ?_
  have h1 : Evolves s (t.each (List.range 4) fun s i => s.setDom (domMgmt i) false) := h.each fun _ _ h' => h'.setDom
  exact h1.standbyHalted

theorem Answers.standbyStop (h : Evolves s t) : Answers s (execStandbyStop t) := .next h.standbyStop

theorem Evolves.railShort {r} (h : Evolves s t) : Evolves s (t.railShort r) := by
  unfold State.railShort
  extract_lets -underBinder t1 t2 t3 _ t4 t5 t6 t7
  have h1 : Evolves s t1 := h.updRail.pwrCode
  have h2 : Evolves s t2 := h1.each fun _ _ h' => .setClock (.updPart (.ite h' h'.partStep))
  have h3 : Evolves s t3 := .ite h2.routersOff h2
  have h4 : Evolves s t4 := h3.linkDown
  have h5 : Evolves s t5 := .ite h4 h4.farLeave
  have h6 : Evolves s t6 := h5.each fun _ _ h' => .ite h' h'.fabLeave.updFport
  have h7 : Evolves s t7 := h6.setPhys
  exact .ite h (.ite h3 (.ite h7.setBoot.emit h3.inputLoss.standbyStop))

theorem Answers.railShort {rail} (h : Evolves s t) : Answers s (execRailShort rail t) := .next h.railShort

theorem Evolves.phaseShort {r} (h : Evolves s t) : Evolves s (t.phaseShort r) := .ite h.updRail.pwrCode.railShort h.updRail.pwrCode

theorem Answers.phaseShort {rail} (h : Evolves s t) : Answers s (execPhaseShort rail t) := .next h.phaseShort

theorem Answers.senseOpen {rail} (h : Evolves s t) : Answers s (execSenseOpen rail t) := .next ((h.updRail.pwrCode.each fun _ _ h' => h'.updIsl))

theorem Evolves.sensorTest {i t₁} (h : Evolves s t) : Evolves s (t.sensorTest i t₁) := by
  unfold State.sensorTest
  split
  · exact h.updIsl
  · exact .ite h.updIsl.pwrCode.setClock h.updIsl.pwrCode

theorem Answers.tsensorTest {isl result} (h : Evolves s t) : Answers s (execTsensorTest isl result t) := .next h.sensorTest

theorem Answers.inletHot (h : Evolves s t) : Answers s (execInletHot t) := .next h.pwrCode

theorem Evolves.lowerFmax {i v} (h : Evolves s t) : Evolves s (t.lowerFmax i v) := .ite h.updIsl.journal.pwrCode.retireUnit h.updIsl.journal.pwrCode

theorem Evolves.ageing {i mhz} (h : Evolves s t) : Evolves s (t.ageing i mhz) := .ite h (.ite h.updIsl h.lowerFmax)

theorem Answers.ageingRead {isl mhz} (h : Evolves s t) : Answers s (execAgeingRead isl mhz t) := .next h.ageing

theorem Evolves.ageSettle (h : Evolves s t) : Evolves s (t.ageSettle) := h.each fun _ _ h' => (by split; exacts [.ite h'.lowerFmax h', h'])

theorem Evolves.droop {i overLimit} (h : Evolves s t) : Evolves s (t.droop i overLimit) := .ite h (.ite h.updIsl.updRail.pwrCode h.updIsl)

theorem Answers.droop {isl overLimit} (h : Evolves s t) : Answers s (execDroop isl overLimit t) := .next h.droop

theorem Answers.droopSetpointReturn {rail} (h : Evolves s t) : Answers s (execDroopSetpointReturn rail t) := .next h.updRail

theorem Evolves.tripSettle {d} (h : Evolves s t) : Evolves s (t.tripSettle d) := h.setPwr.each fun _ _ h' => h'.draw.updPart.bringBack

theorem Evolves.tripPart {p} (h : Evolves s t) : Evolves s (t.tripPart p) := .ite h h.updPart.partStep.setPwr.pwrCode

theorem Evolves.critOn (h : Evolves s t) : Evolves s (t.critOn) := .ite h ((h.setPwr.parkSkim.each fun _ _ h' => h'.gateOff).setSch)

theorem Evolves.critOff (h : Evolves s t) : Evolves s (t.critOff) := .ite (.ite h.record h.record.unpark) h

theorem Evolves.junction {i read} (h : Evolves s t) : Evolves s (t.junction i read) := by
  unfold State.junction
  extract_lets -underBinder t1
  have h1 : Evolves s t1 := h.updIsl
  split
  · exact .ite h1.sendNodeDown.phyOff h1
  · extract_lets -underBinder _ _ _ t2 t3 t4
    have h2 : Evolves s t2 := .ite (.ite h1.updIsl h1.updIsl) (.ite h1.updIsl h1)
    have h3 : Evolves s t3 := .ite h2.critOn h2
    have h4 : Evolves s t4 := .ite h3.tripPart h3
    exact h4.critOff.tripSettle

theorem Answers.junctionRead {isl celsius} (h : Evolves s t) : Answers s (execJunctionRead isl celsius t) := .next h.junction

theorem Evolves.flowLost (h : Evolves s t) : Evolves s (t.flowLost) := by
  unfold State.flowLost
  extract_lets -underBinder _ t1 t2 t3 t4
  have h1 : Evolves s t1 := h.setPwr
  have h2 : Evolves s t2 := h1.pwrCode
  have h3 : Evolves s t3 := h2.each fun _ _ h' => h'.sendAbandon
  have h4 : Evolves s t4 := h3.computeOff
  split
  exacts [h4.setBoot, h4]

theorem Answers.flowOkLow (h : Evolves s t) : Answers s (execFlowOkLow t) := .next h.flowLost

theorem Evolves.railsOn (h : Evolves s t) : Evolves s (t.railsOn) :=
  ((h.each fun _ _ h' => h'.updRail).each fun _ _ h' => .ite h' h'.routersUp).setBoot

theorem Evolves.flowBack {p bad} (h : Evolves s t) : Evolves s (t.flowBack p bad) :=
  .ite h.setPwr (.ite (.bringBack (.updPart (.failUnits (.ite h.setPwr h.setPwr.railsOn)))) (.ite h.setPwr h.setPwr.railsOn))

theorem Answers.flowOkRestore {p bad} (h : Evolves s t) : Answers s (execFlowOkRestore p bad t) := .next h.flowBack

end Sys2Proof.Machine
end

section
/-!
SUPPORT. The definitions of Machine/Firmware: each answers a state that comes of the one before.
-/

namespace Sys2Proof.Machine

set_option Elab.async false

variable {s t : State}

theorem Evolves.haltRole {r} (h : Evolves s t) : Evolves s (t.haltRole r) := by
  unfold State.haltRole
  extract_lets -underBinder _ t1
  have h1 : Evolves s t1 := h.setSec
  split
  · exact h1.setJrn
  · exact h1.setSch
  · exact h1

theorem Evolves.loadCore {i} (h : Evolves s t) : Evolves s (t.loadCore i) := by
  unfold State.loadCore
  extract_lets -underBinder _ _ _ t1
  have h1 : Evolves s t1 := .ite h h.secCode
  split
  · exact h1.updCore.haltRole
  · exact .ite h1.updCore.haltRole (.ite h1.updCore.measure.setSec h1.updCore.measure)

theorem Evolves.restartCore {i} (h : Evolves s t) : Evolves s (t.restartCore i) := by
  unfold State.restartCore
  split
  · exact h
  · exact h
  · extract_lets -underBinder _ t1 _ t2 _ t3 t4 t5 t6
    have h1 : Evolves s t1 := h.updCore
    have h2 : Evolves s t2 := .ite h1.setJrn h1
    have h3 : Evolves s t3 := .ite h2.setSec h2
    have h4 : Evolves s t4 := h3.health
    have h5 : Evolves s t5 := h4.updCore
    have h6 : Evolves s t6 := h5.haltRole
    exact .ite (.ite (.ite h6.startStep h6) h5) h4

theorem Evolves.updateEnd {u} (h : Evolves s t) : Evolves s (t.updateEnd u) := h.setFw.journal.answer

theorem Evolves.updateRun {u cores} (h : Evolves s t) : Evolves s (t.updateRun u cores) := by
  induction cores generalizing t with
  | nil => exact h.updateEnd
  | cons i r ih => exact .ite (ih h.restartCore) h.restartCore.setFw

theorem Evolves.dirWrite (h : Evolves s t) : Evolves s (t.dirWrite) := h.setFw

theorem Evolves.flipActive {r} (h : Evolves s t) : Evolves s (t.flipActive r) := h.updRole.dirWrite

theorem Evolves.updateBack {u code} (h : Evolves s t) : Evolves s (t.updateBack u code) := h.flipActive.updateRun

theorem Evolves.updateAgain {i} (h : Evolves s t) : Evolves s (t.updateAgain i) := by
  unfold State.updateAgain
  split
  · exact h
  · exact .ite h.flipActive.setFw h

theorem Answers.heartbeatMiss {core} (h : Evolves s t) : Answers s (execHeartbeatMiss core t) := .next (.ite h.restartCore.updateAgain h)

theorem Evolves.coreRestart {r} (h : Evolves s t) : Evolves s (t.coreRestart r) := .ite h.mbxError (.answer (.ite h.restartCore.updateAgain h))

theorem Answers.coreRestart {r} (h : Evolves s t) : Answers s (execCoreRestart r t) := .next h.coreRestart

theorem Evolves.firstHeartbeat {i} (h : Evolves s t) : Evolves s (t.firstHeartbeat i) := by
  unfold State.firstHeartbeat
  extract_lets -underBinder _ _ _ t1 _ _ _ t2 t3 t4
  have h1 : Evolves s t1 := h.loadCore
  have h2 : Evolves s t2 := .ite h1.record h1
  have h3 : Evolves s t3 := .ite h2.resolveTokens h2
  have h4 : Evolves s t4 := .ite h3.spdmLate h3
  exact .ite h (by split; exacts [h4, .ite (.ite h4.updateBack h4.updateRun) h4])

theorem Evolves.fwWrite {r img} (h : Evolves s t) : Evolves s (t.fwWrite r img) :=
  .ite h.mbxError (.ite h.mbxError (.ite h.mbxError (.ite h.answer (.answer (.dirWrite (.ite h.updRole h.updRole.secCode))))))

theorem Answers.fwWrite {r img} (h : Evolves s t) : Answers s (execFwWrite r img t) := .next h.fwWrite

theorem Evolves.fwActivate {r} (h : Evolves s t) : Evolves s (t.fwActivate r) :=
  .ite h.mbxError (.ite h.mbxError (.ite h.answer h.flipActive.updateRun))

theorem Answers.fwActivate {r} (h : Evolves s t) : Answers s (execFwActivate r t) := .next h.fwActivate

theorem Evolves.commit (h : Evolves s t) : Evolves s (t.commit) := .ite ((h.setJrn.each fun _ _ h' => h'.append).beginBinds.sendAnswers) h

theorem Answers.journalCommit (h : Evolves s t) : Answers s (execJournalCommit t) := .next h.commit

theorem Evolves.takeover (h : Evolves s t) : Evolves s (t.takeover) :=
  .ite h (by split; exacts [h, .resolveTokens (.ite h.setJrn h.setJrn.setJrn.append)])

theorem Answers.writerTakeover (h : Evolves s t) : Answers s (execWriterTakeover t) := .next h.takeover

theorem Evolves.forget (h : Evolves s t) : Evolves s (t.forget) := by
  unfold State.forget
  exact h.record (hcomps := fun _ => rfl) (htokens := fun _ => rfl) (hctxs := fun _ => rfl) (hfab_jobs := by dsimp only; exact Map.mapV_wf _ _ _)
    (hhost_fns := by dsimp only; exact Map.Good.mapV fun _ _ hx => hx)

theorem Evolves.freedAgain {c} (h : Evolves s t) : Evolves s (t.freedAgain c) := .ite h.setFreeCids h

theorem Evolves.replayFree {c} (h : Evolves s t) : Evolves s (t.replayFree c) := h.updComp.setFreeCids

theorem Evolves.applySetting {k v} (h : Evolves s t) : Evolves s (t.applySetting k v) := by
  unfold State.applySetting
  split
  · exact h.setPwr
  · exact h.setPwr
  · exact h.setSec
  · exact h.setFab
  · exact h.setFab
  · exact h.updFport
  · exact h.updFport
  · exact h.setSec

theorem Evolves.applyGen {k i v} (h : Evolves s t) : Evolves s (t.applyGen k i v) := by
  unfold State.applyGen
  split
  · exact h.updPart
  · exact h.updUnit
  · exact h.updFar
  · exact h.updFport
  · exact h.setFab
  · exact h.updComp

theorem Evolves.applyToken {t₁ k} (h : Evolves s t) : Evolves s (t.applyToken t₁ k) := h.updTok.setNextToken

theorem Evolves.applyRec {cold r} (h : Evolves s t) : Evolves s (t.applyRec cold r) := by
  unfold State.applyRec
  split
  case h_1 => exact h.updComp.setFreeCids
  case h_2 => exact h.updComp.setTokens (Map.mapV_wf _ _ _)
  case h_3 =>
    split
    · exact h.replayFree
    · exact h.updComp
  case h_4 => exact .ite h.replayFree h.updComp
  case h_5 => exact h.applyToken
  case h_6 => exact h.each fun _ _ h' => h'.applyToken
  case h_7 => exact .ite (h.updPart.each fun _ _ h' => h'.updUnit) h
  case h_8 => exact .ite h.applyGen.freedAgain (.ite h.applyGen h)
  case h_9 => exact .ite h.updIsl h
  case h_10 => exact .ite h.updChan h
  case h_11 => exact .ite h.setXlt h
  case h_12 => exact .ite (h.setFlt.each fun _ _ h' => h'.updCore) h
  case h_13 =>
    extract_lets -underBinder t1
    have h1 : Evolves s t1 := h.updCtx
    exact h1.record
  case h_14 =>
    extract_lets -underBinder _ t1
    have h1 : Evolves s t1 := h.updCtx.setTokens (Map.mapV_wf _ _ _)
    exact h1.setFreedXids
  case h_15 => exact h.updFn
  case h_16 => exact .ite h.updJob h
  case h_17 => exact h.updJob
  case h_18 => exact h.setSec
  case h_19 => exact h.applySetting
  case h_20 => exact h

theorem Evolves.cutGens (h : Evolves s t) : Evolves s (t.cutGens) := by
  unfold State.cutGens
  exact h.record (hparts := by dsimp only; exact Map.mapV_wf _ _ _) (hunits := by dsimp only; exact Map.mapV_wf _ _ _)
    (hfar := by dsimp only; exact Map.Good.mapV fun _ _ hx => hx) (hcomps := by dsimp only; exact Map.mapV_wf _ _ _)
    (hfab_ports := by dsimp only; exact Map.mapV_wf _ _ _)

theorem Evolves.advanceGens (h : Evolves s t) : Evolves s (t.advanceGens) := by
  unfold State.advanceGens
  extract_lets -underBinder t1 t2 t3
  have h1 : Evolves s t1 := h.each fun _ _ h' => h'.updPart
  have h2 : Evolves s t2 := h1.each fun _ _ h' => h'.updFar
  have h3 : Evolves s t3 := h2.each fun _ _ h' => h'.updFport
  clear_value t3
  exact h3.setFab

theorem Evolves.endComp {c} (h : Evolves s t) : Evolves s (t.endComp c) :=
  (h.each fun _ _ h' => h'.startTeardown.finishTeardown).updComp.journalRun.freeCid

theorem Evolves.toRestore {c} (h : Evolves s t) : Evolves s (t.toRestore c) := h.updComp.compState

theorem Evolves.settleComp {c} (h : Evolves s t) : Evolves s (t.settleComp c) := by
  unfold State.settleComp
  extract_lets -underBinder _ t1
  have h1 : Evolves s t1 := h.journal.toRestore
  split
  · exact h
  · exact .ite h.journal.freeCid h.toRestore
  · exact h1
  · exact h1
  · exact .ite h1 h.endComp
  · exact h.endComp
  · exact .ite h1 (.toRestore (.ite h.journal h))

theorem Evolves.refillTable {x} (h : Evolves s t) : Evolves s (t.refillTable x) := (h.each fun _ _ h' => .ite h'.copyTemplate h').shareWeights

theorem Evolves.returnCtxs {cold} (h : Evolves s t) : Evolves s (t.returnCtxs cold) := by
  unfold State.returnCtxs
  extract_lets -underBinder _ t1 t2 t3 t4 t5
  have h1 : Evolves s t1 := h.each fun _ _ h' => h'.grantSlot
  have h2 : Evolves s t2 := .ite ((h1.each fun _ _ h' => h'.updFn)) h
  have h3 : Evolves s t3 := h2.each fun _ _ h' => h'.refillTable
  have h4 : Evolves s t4 := h3.resolveTokens
  have h5 : Evolves s t5 := h4.loseTokens
  exact h5.each fun _ _ h' => h'.updJob

theorem Evolves.coldDebug (h : Evolves s t) : Evolves s (t.coldDebug) := .ite h h.setSec.journal.measureFuse

theorem Evolves.coldCap (h : Evolves s t) : Evolves s (t.coldCap) := .ite h h.setPwr.journal

theorem Evolves.jrnStatus (h : Evolves s t) : Evolves s (t.jrnStatus) := h.setJrn

theorem Evolves.replay {cold corruptAt} (h : Evolves s t) : Evolves s (t.replay cold corruptAt) := by
  unfold State.replay
  extract_lets -underBinder _ _ _ _ _ t1 t2 t3 t4 t5 t6 t7 t8
  have h1 : Evolves s t1 := h.forget.setJrn.jrnStatus
  have h2 : Evolves s t2 := h1.each fun _ _ h' => h'.applyRec
  have h3 : Evolves s t3 := .ite h2.cutGens h2
  have h4 : Evolves s t4 := .ite h3.advanceGens h3
  have h5 : Evolves s t5 := .ite ((h4.each fun _ _ h' => h'.journal)) h4
  have h6 : Evolves s t6 := h5.each fun _ _ h' => h'.settleComp
  have h7 : Evolves s t7 := h6.returnCtxs
  have h8 : Evolves s t8 := .ite h7.coldDebug.coldCap h7
  exact h8.measurePolicy.setBoot

theorem Answers.journalReplay {corruptAt} (h : Evolves s t) : Answers s (execJournalReplay corruptAt t) := .next (.ite h h.replay.setBoot)

theorem Evolves.compact (h : Evolves s t) : Evolves s (t.compact) := .ite h.setJrn h

theorem Answers.journalCompaction (h : Evolves s t) : Answers s (execJournalCompaction t) := .next h.compact

theorem Answers.backgroundEraseDone (h : Evolves s t) : Answers s (execBackgroundEraseDone t) := .next h.setJrn

end Sys2Proof.Machine
end

section
/-!
SUPPORT. The definitions of Machine/Recovery: each answers a state that comes of the one before.
-/

namespace Sys2Proof.Machine

set_option Elab.async false

variable {s t : State}

theorem Answers.npOverrun {u} (h : Evolves s t) : Answers s (execNpOverrun u t) := .next (.ite h.startStep h)

theorem Answers.loadOverrun {c p} (h : Evolves s t) : Answers s (execLoadOverrun c p t) := by
  unfold execLoadOverrun
  refine .next ?_
  split
  exacts [h, .ite h (.ite h.startStep.undo h.startStep)]

theorem Answers.stopTimeout {u} (h : Evolves s t) : Answers s (execStopTimeout u t) := .next (.ite h.startStep h)

theorem Answers.noProgress {u} (h : Evolves s t) : Answers s (execNoProgress u t) := .next (.ite h.startStep h)

theorem Evolves.contextStep {x cause} (h : Evolves s t) : Evolves s (t.contextStep x cause) :=
  .ite h.startStep.restUnits (by split; exacts [h.startStep.restUnits.ctxStepEnd, h.startStep.restUnits.stepDone])

theorem Answers.contextStep {x cause} (h : Evolves s t) : Answers s (execContextStep x cause t) := .next h.contextStep

theorem Evolves.engineStep {u cause passed ladleRead} (h : Evolves s t) : Evolves s (t.engineStep u cause passed ladleRead) :=
  .ite h.startStep.engStep h.startStep

theorem Answers.engineStep {u cause passed ladleRead} (h : Evolves s t) : Answers s (execEngineStep u cause passed ladleRead t) := .next h.engineStep

theorem Evolves.partitionStep {p cause bad retest} (h : Evolves s t) : Evolves s (t.partitionStep p cause bad retest) :=
  .ite h.startStep.partStep h.startStep

theorem Answers.partitionStep {p cause bad retest} (h : Evolves s t) : Answers s (execPartitionStep p cause bad retest t) := .next h.partitionStep

theorem Evolves.stepTimeout {l target} (h : Evolves s t) : Evolves s (t.stepTimeout l target) := by
  unfold State.stepTimeout
  split
  · exact h
  · extract_lets -underBinder _ t1
    have h1 : Evolves s t1 := h.stepDone.fltLast
    split
    exacts [(h1.each fun _ _ h' => h'.startStep), h1.startStep, h1.startStep, h1.startStep]

theorem Answers.stepTimeout {step target} (h : Evolves s t) : Answers s (execStepTimeout step target t) := .next h.stepTimeout

theorem Evolves.powerCycle {cause} (h : Evolves s t) : Evolves s (t.powerCycle cause) := .ite h h.journal.sendNodeDown.computeOff.setFlt.fltLast.emit

theorem Answers.powerCycle {cause} (h : Evolves s t) : Answers s (execPowerCycle cause t) := .next h.powerCycle

theorem Evolves.offlineInModule {p} (h : Evolves s t) : Evolves s (t.offlineInModule p) := .ite h h.updPart.takeOffline

theorem Fn.afterModule_region (x : Fn) : x.afterModule.region = [] := rfl

theorem Evolves.moduleReset (h : Evolves s t) : Evolves s (t.moduleReset) := by
  unfold State.moduleReset
  exact h.record (hparts := by dsimp only; exact Map.mapV_wf _ _ _) (hbars := fun _ => rfl) (hnet_routers := by dsimp only; exact Map.mapV_wf _ _ _)
    (hgrades := fun _ => rfl) (hchans := by dsimp only; exact Map.Good.mapV fun _ _ _ => rfl)
    (hfar := by dsimp only; exact Map.Good.mapV fun _ _ hx => hx) (hxlt_slots := fun _ => rfl) (hxlt_fqs := fun _ => rfl)
    (hsch_stages := fun _ => rfl) (hsch_works := fun _ => rfl) (hfab_ports := by dsimp only; exact Map.mapV_wf _ _ _)
    (hhost_ports := by dsimp only; exact Map.mapV_wf _ _ _) (hhost_fns := by dsimp only; exact Map.Good.mapV fun _ x _ =>
      (Fn.afterModule_region x).symm ▸ rfl)
    (hpwr_isls := by dsimp only; exact Map.mapV_wf _ _ _) (hfw_slots := fun _ => rfl)

theorem Evolves.reloadCores (h : Evolves s t) : Evolves s (t.reloadCores) := (h.each fun _ _ h' => h'.loadCore).setJrn

theorem Evolves.moduleDown {cause} (h : Evolves s t) : Evolves s (t.moduleDown cause) := by
  unfold State.moduleDown
  extract_lets -underBinder t1 t2 t3 t4
  have h1 : Evolves s t1 := h.sendNodeDown.discardIf
  have h2 : Evolves s t2 := h1.each fun _ _ h' => (h'.each fun _ _ h1' => h1'.takeLadle)
  have h3 : Evolves s t3 := h2.each fun _ _ h' => h'.offlineInModule
  have h4 : Evolves s t4 := h3.each fun _ _ h' => h'.fabLeave.updFport
  exact (h4.linesDown.each fun _ _ h' => h'.farLeave).ageSettle

theorem Evolves.domainsOn (h : Evolves s t) : Evolves s (t.domainsOn) :=
  .ite (((h.each fun _ _ h' => h'.setPhys).each fun _ _ h' => h'.setDom)) ((h.each fun _ _ h' => h'.setPhys))

theorem Evolves.moduleBoot (h : Evolves s t) : Evolves s (t.moduleBoot) := by
  unfold State.moduleBoot
  extract_lets -underBinder _ t1 t2 _ t3
  have h1 : Evolves s t1 := h.moduleReset.reloadCores
  have h2 : Evolves s t2 := h1.each fun _ _ h' => h'.mbxRespond
  have h3 : Evolves s t3 := h2.setFlt
  exact .ite h3 h3.replay

theorem Evolves.moduleUp {failed} (h : Evolves s t) : Evolves s (t.moduleUp failed) := by
  unfold State.moduleUp
  extract_lets -underBinder _ t1 t2 t3 _ t4
  have h1 : Evolves s t1 := h.setBoot.domainsOn
  have h2 : Evolves s t2 := h1.each fun _ _ h' => h'.retireUnit
  have h3 : Evolves s t3 := h2.each fun _ _ h' => h'.bringBack
  clear_value t3
  have h4 : Evolves s t4 := h3.setFab
  exact h4.journal.sendNodeUp

theorem Evolves.moduleStep {cause failed} (h : Evolves s t) : Evolves s (t.moduleStep cause failed) :=
  .ite h.powerCycle (.ite h.fltLast.powerCycle h.setFlt.moduleDown.moduleBoot.moduleUp.fltLast.health)

theorem Answers.moduleStep {cause failed} (h : Evolves s t) : Answers s (execModuleStep cause failed t) := .next h.moduleStep

theorem Evolves.moveRecord {u v} (h : Evolves s t) : Evolves s (t.moveRecord u v) := by
  unfold State.moveRecord
  split
  · exact h.updEng
  · exact h.updVt.loadProg
  · exact h

theorem Evolves.substitute {u} (h : Evolves s t) : Evolves s (t.substitute u) := by
  unfold State.substitute
  dsimp only
  split
  · exact h
  · exact .ite h (.ite h.updPart.moveRecord.journalSpares.installTrees h.updPart.moveRecord.journalSpares.losePart)

theorem Answers.spareSubstitute {u} (h : Evolves s t) : Answers s (execSpareSubstitute u t) := .next h.substitute

end Sys2Proof.Machine
end

section
/-!
SUPPORT. The definitions of Machine/Startup: each answers a state that comes of the one before.
-/

namespace Sys2Proof.Machine

set_option Elab.async false

variable {s t : State}

theorem Evolves.coldBase (h : Evolves s t) : Evolves s (t.coldBase) := by
  unfold State.coldBase
  exact h.record (hparts := fun _ => rfl) (hunits := fun _ => rfl) (hbars := fun _ => rfl) (hcomps := fun _ => rfl) (htokens := fun _ => rfl)
    (hgrades := fun _ => rfl) (hcool := fun _ => rfl) (hctxs := fun _ => rfl) (heng := fun _ => .nil) (hvts := fun _ => .nil) (hsts := fun _ => .nil)
    (hchans := by dsimp only; exact Map.Good.mapV fun _ _ _ => rfl) (hfar := by dsimp only; exact Map.Good.mapV fun _ _ hx => hx)
    (hxlt_slots := fun _ => rfl) (hxlt_fqs := fun _ => rfl) (hsch_stages := fun _ => rfl) (hsch_works := fun _ => rfl)
    (hnet_routers := by dsimp only; exact Map.mapV_wf _ _ _) (hfab_ports := fun _ => rfl) (hfab_jobs := fun _ => rfl) (hpwr_isls := fun _ => rfl)
    (hpwr_rails := by dsimp only; exact Map.mapV_wf _ _ _) (hfw_cores := fun _ => rfl) (hfw_slots := fun _ => rfl)
    (hhost_ports := fun _ => rfl) (hhost_fns := fun _ => .nil) (hsec_slots := fun _ => rfl)

theorem Evolves.mainsOn (h : Evolves s t) : Evolves s { t with
    pwr := { t.pwr with mainOn := true, standby := true, inputLost := false }, boot := { t.boot with pwrgd := true } } := h.record

theorem Evolves.railsIO (h : Evolves s t) : Evolves s (t.railsIO) := by
  unfold State.railsIO
  extract_lets -underBinder t1 t2
  have h1 : Evolves s t1 := h.each fun _ _ h' => h'.updRail
  have h2 : Evolves s t2 := h1.each fun _ _ h' => h'.setDom.setPhys
  clear_value t2
  exact h2.mainsOn.emit

theorem Evolves.coldPowerOn {slot hsris} (h : Evolves s t) : Evolves s (t.coldPowerOn slot hsris) := by
  unfold State.coldPowerOn
  extract_lets -underBinder rev t1 _ _ t2
  refine .ite h ?_
  have h1 : Evolves s t1 := h.coldBase.railsIO
  clear_value t1
  have h2 : Evolves s t2 := h1.record (hfw_cores := fun _ => rfl)
  clear_value t2
  exact .ite h2.setPwr.pwrCode h2

theorem Answers.coldPowerOn {slotId hsris} (h : Evolves s t) : Answers s (execColdPowerOn slotId hsris t) := .next h.coldPowerOn

theorem Evolves.computeRails (h : Evolves s t) : Evolves s (t.computeRails) := .ite h.setPwr.railsOn.setBoot h

theorem Answers.computeRailStart (h : Evolves s t) : Answers s (execComputeRailStart t) := .next h.computeRails

theorem Evolves.bringup {p bad failed} (h : Evolves s t) : Evolves s (t.bringup p bad failed) :=
  .ite h ((h.each fun _ _ h' => h'.retireUnit).bringBack)

theorem Answers.partitionBringup {p bad failedUnits} (h : Evolves s t) : Answers s (execPartitionBringup p bad failedUnits t) := .next h.bringup

theorem Evolves.reachReady (h : Evolves s t) : Evolves s (t.reachReady) := .ite (.ite ((h.setBoot.each fun _ _ h' => h'.updFn)) h.setBoot) h

theorem Answers.ready (h : Evolves s t) : Answers s (execReady t) := .next h.reachReady

theorem Evolves.modReset {low} (h : Evolves s t) : Evolves s (t.modReset low) :=
  .ite h.setBoot (by dsimp only; split; exacts [h.setBoot, h.setBoot.startStep.computeOff, h.setBoot, h.setBoot.computeOff.setBoot])

theorem Answers.modResetN {low} (h : Evolves s t) : Answers s (execModResetN low t) := .next h.modReset

theorem Answers.perstN {h₁ released} (h : Evolves s t) : Answers s (execPerstN h₁ released t) := .next (.updHport (.ite h h.linkDown))

theorem Evolves.prsnt {d present} (h : Evolves s t) : Evolves s (t.prsnt d present) := .ite h.updFar.farStart (.ite h.updFar h.updFar.farLeave)

theorem Answers.prsntN {d present} (h : Evolves s t) : Answers s (execPrsntN d present t) := .next h.prsnt

theorem Answers.refclkBad (h : Evolves s t) : Answers s (execRefclkBad t) := .next ((h.setBoot.each fun _ _ h' => h'.linkDown))

theorem Evolves.refclk {c} (h : Evolves s t) : Evolves s (t.refclk c) := by
  unfold State.refclk
  split
  · exact h
  · exact h.setBoot

theorem Answers.refclkReturn {cls} (h : Evolves s t) : Answers s (execRefclkReturn cls t) := .next h.refclk

theorem Evolves.inputBack (h : Evolves s t) : Evolves s (t.inputBack) := .ite h.railsIO.startStep h

theorem Answers.inputReturn (h : Evolves s t) : Answers s (execInputReturn t) := .next h.inputBack

theorem Answers.reversedPolarity (h : Evolves s t) : Answers s (execReversedPolarity t) := .next h.setPwr

theorem Evolves.hostTick (h : Evolves s t) : Evolves s (t.hostTick) := h.each fun _ _ h' => h'.updHport

theorem Evolves.hostTrained {h₁ width rate} (h : Evolves s t) : Evolves s (t.hostTrained h₁ width rate) :=
  .ite (.ite (.ite h.updHport.hostCode h.updHport) (.ite (.hostCode (.ite h.updHport.hostCode h.updHport)) h)) h

theorem Answers.hostLinkUp {h₁ width rate} (h : Evolves s t) : Answers s (execHostLinkUp h₁ width rate t) := .next h.hostTrained

theorem Evolves.storeExpiry {c} (h : Evolves s t) : Evolves s (t.storeExpiry c) :=
  .ite (.ite h.setBoot.readStore.restoreComp h.setBoot.readStore.updComp.enterUnbinding) h

theorem Answers.storeWaitExpiry {c} (h : Evolves s t) : Answers s (execStoreWaitExpiry c t) := .next h.storeExpiry

theorem Answers.setEndpointId {eid dynAddr} (h : Evolves s t) : Answers s (execSetEndpointId eid dynAddr t) := by
  unfold execSetEndpointId
  refine .next ?_
  split
  exacts [h.setBoot, h.setBoot]

end Sys2Proof.Machine
end

section
/-!
SUPPORT. The definitions of Machine/Clock: each answers a state that comes of the one before.
-/

namespace Sys2Proof.Machine

set_option Elab.async false

variable {s t : State}

theorem Evolves.stageTick {c g} (h : Evolves s t) : Evolves s (t.stageTick c g) :=
  .updStage (by split; exacts [(by split; exacts [h, h.setWork]), .ite h h.chargeStop, h])

theorem Evolves.stagesTick (h : Evolves s t) : Evolves s (t.stagesTick) := h.each fun _ _ h' => (h'.each fun _ _ h1' => h1'.stageTick)

theorem Evolves.parkTick (h : Evolves s t) : Evolves s (t.parkTick) := .ite h.parkSkim h

theorem Evolves.rampsEnd (h : Evolves s t) : Evolves s (t.rampsEnd) := h.each fun _ _ h' => h'.updEng

theorem Evolves.jobsTick (h : Evolves s t) : Evolves s (t.jobsTick) := h.each fun _ _ h' => h'.jobReturn.freqChange

theorem Evolves.portsTick (h : Evolves s t) : Evolves s (t.portsTick) := h.forwardAll.auditTick

theorem Evolves.rollTick (h : Evolves s t) : Evolves s (t.rollTick) := (h.each fun _ _ h' => h'.undo).settleHellos

theorem Evolves.trainTick (h : Evolves s t) : Evolves s (t.trainTick) := h.each fun _ _ h' => (h'.each fun _ _ h1' => h1'.updChan)

theorem Evolves.regionTick (h : Evolves s t) : Evolves s (t.regionTick) := (h.each fun _ _ h' => h'.lateNotices).handTick

theorem Evolves.timers (h : Evolves s t) :
    Evolves s t.farTick.trainTick.stagesTick.parkTick.rampsEnd.rollTick.jobsTick.portsTick.regionTick.hostTick.farSettle.ageSettle.sendAnswers :=
  h.farTick.trainTick.stagesTick.parkTick.rampsEnd.rollTick.jobsTick.portsTick.regionTick.hostTick.farSettle.ageSettle.sendAnswers

end Sys2Proof.Machine
end

section
/-!
SUPPORT. The definitions of Machine/Network: each answers a state that comes of the one before.
-/

namespace Sys2Proof.Machine

set_option Elab.async false

variable {s t : State}

theorem Evolves.eccSeen {r} (h : Evolves s t) : Evolves s (t.eccSeen r).2 := h.updRouter

theorem Evolves.flitIn {r port f} (h : Evolves s t) : Evolves s (t.flitIn r port f) := by
  unfold State.flitIn
  refine .ite h ?_
  split
  · exact .ite h.landOn.crossAll.checkPool.takeFlit h
  · extract_lets -underBinder
    refine .ite h (.ite h (.ite h ?_))
    split
    · exact h
    next u heq =>
      have hu : Evolves s u := EvolvesIn.takeQueue h u heq
      exact .ite hu.sendOn.landOn.crossAll.takeFlit hu.sendOn

theorem Evolves.branchSend {r o id e f} (h : Evolves s t) : Evolves s (t.branchSend r o id e f) :=
  .ite (.ite h.cross.usedLink.landCollective.inject h.cross.usedLink.landCollective) h.goOut

theorem Evolves.pour {r port} (h : Evolves s t) : Evolves s (t.pour r port) := by
  unfold State.pour
  split
  · exact h
  · extract_lets -underBinder
    split
    · exact h.updRouter.dropFlit
    · exact .ite (.each (.ite h.updRouter.freeOn.toWindow.updEntry h.updRouter.freeOn) fun _ _ h' => h'.branchSend) h

theorem Answers.pourForward {r port} (h : Evolves s t) : Answers s (execPourForward r port t) := .next h.pour

theorem Evolves.churn {r cid g} (h : Evolves s t) : Evolves s (t.churn r cid g) := by
  unfold State.churn
  split
  · exact h
  dsimp only
  split
  · exact h
  have htake {l : List Held} : Evolves s (t.each l fun s y => (s.updRouter r (fun z => { z with inq := z.inq.erase y })).freeOn y.pool) :=
    h.each fun _ _ h' => h'.updRouter.freeOn
  refine .ite h (.ite h.churnBreak (.ite (.ite htake.cross.usedLink.churnRoot h) ?_))
  split
  · exact h
  · exact .ite htake.branchSend h

theorem Answers.churnCombine {r c group} (h : Evolves s t) : Answers s (execChurnCombine r c group t) := .next h.churn

theorem Evolves.installDetours {g} (h : Evolves s t) : Evolves s (t.installDetours g) := h.each fun _ _ h' => .ite h' h'.updRouter

theorem Evolves.fencePort {r port} (h : Evolves s t) : Evolves s (t.fencePort r port) := by
  unfold State.fencePort
  extract_lets -underBinder _ t1 t2
  have h1 : Evolves s t1 := h.updRouter
  have h2 : Evolves s t2 := (h1.each fun _ _ h' => h'.updPool).each fun _ _ h' => h'.updPool
  split
  · exact h2.each fun _ _ h' => h'.updPool
  · exact (h2.updRouter.each fun _ _ h' => h'.updPool).each fun _ _ h' => h'.updPool

theorem Evolves.discardRoutes {on out} (h : Evolves s t) : Evolves s (t.discardRoutes on out) := h.each fun _ _ h' => .ite h'.finishWork h'

theorem Evolves.discardCrossing {f} (h : Evolves s t) : Evolves s (t.discardCrossing f) := h.discardRoutes

theorem Evolves.endpointLost {p n} (h : Evolves s t) : Evolves s (t.endpointLost p n) :=
  .ite h.losePart.updPart ((h.losePart.each fun _ _ h' => h'.updChan))

theorem Evolves.endpointGone {r} (h : Evolves s t) : Evolves s (t.endpointGone r) := by
  unfold State.endpointGone
  split
  · exact h.retireUnit
  · exact h.endpointLost

theorem Evolves.retireUnreached (h : Evolves s t) : Evolves s (t.retireUnreached) :=
  .ite h ((h.each fun _ _ h' => ((h'.each fun _ _ h1' => h1'.endpointGone).each fun _ _ h1' => .ite h1'.endpointGone h1')))

theorem Evolves.routerFault {r} (h : Evolves s t) : Evolves s (t.routerFault r) :=
  .ite h ((h.updRouter.setFlt.each fun _ _ h' => h'.fencePort).discardCrossing.endpointGone.installDetours.retireUnreached.health)

theorem Answers.routerFaulty {r} (h : Evolves s t) : Answers s (execRouterFaulty r t) := .next h.routerFault

theorem Evolves.linkFail {l} (h : Evolves s t) : Evolves s (t.linkFail l) := by
  unfold State.linkFail
  extract_lets -underBinder t1
  have h1 : Evolves s t1 := h.each fun _ _ h' => h'.fencePort
  exact h1.discardRoutes.installDetours.retireUnreached

theorem Answers.linkWordCrcFail {l sparesUsed} (h : Evolves s t) : Answers s (execLinkWordCrcFail l sparesUsed t) :=
  .next (.ite h (.ite h.setNet.linkFail h.setNet))

theorem Answers.flitArrive {r port f} (h : Evolves s t) : Answers s (execFlitArrive r port f t) :=
  .next (.ite (.ite h.flitIn.eccSeen.routerFault h.flitIn.eccSeen) h.flitIn)

theorem Evolves.stirRouter {r} (h : Evolves s t) : Evolves s (t.stirRouter r) := h.drainRouter.drainOut

theorem Evolves.wakePool {id} (h : Evolves s t) : Evolves s (t.wakePool id) :=
  .ite h (.ite h (.ite h.drainRouter (.ite h.drainOut (by split; exacts [h, h.drainRouter]))))

theorem Answers.creditReturn {pool} (h : Evolves s t) : Answers s (execCreditReturn pool t) := .next (.ite h.updPool.checkPool.wakePool h)

theorem Evolves.auditQueue {id} (h : Evolves s t) : Evolves s (t.auditQueue id) := .ite h.qUse.qFree h.qUse.qFree.updPool

theorem Answers.auditInject {pool} (h : Evolves s t) : Answers s (execAuditInject pool t) := .next (.ite h.auditQueue (.ite h.sendOn.updPool h))

theorem Answers.auditArrive {pool} (h : Evolves s t) : Answers s (execAuditArrive pool t) := by
  unfold execAuditArrive
  refine .next ?_
  split
  exacts [h, .ite h h.landOn.auditLand]

theorem Answers.auditAnswerArrive {pool} (h : Evolves s t) : Answers s (execAuditAnswerArrive pool t) := by
  unfold execAuditAnswerArrive
  refine .next ?_
  split
  exacts [h, .ite h h.updPool]

theorem Evolves.wakeQueue {id} (h : Evolves s t) : Evolves s (t.wakeQueue id) := by
  unfold State.wakeQueue
  exact .ite h (.ite h.repost h)

theorem Answers.auditResolve {pool} (h : Evolves s t) : Answers s (execAuditResolve pool t) := by
  unfold execAuditResolve
  extract_lets -underBinder _ _ t1
  have h1 : Evolves s t1 := h.updPool
  refine .next ?_
  exact .ite h (.ite (.ite h (.ite h.updPool.wakeQueue h.updPool.routerFault))
    (.ite h (.ite h.updPool.wakePool (.routerFault (.ite h1 h1.fencePort)))))

theorem Evolves.stirXing {x} (h : Evolves s t) : Evolves s (t.stirXing x) := h.each fun _ _ h' => h'.stirRouter

theorem Evolves.wakeXing {x} (h : Evolves s t) : Evolves s (t.wakeXing x) := h.restart.stirXing

theorem Answers.crossingWake {x} (h : Evolves s t) : Answers s (execCrossingWake x t) := .next (.ite h.updXing.wakeXing h.updXing)

theorem Answers.crossingModeSet {x service} (h : Evolves s t) : Answers s (execCrossingModeSet x service t) :=
  .next (.ite h.updXing.wakeXing h.updXing)

theorem Answers.rsyncReq {x} (h : Evolves s t) : Answers s (execRsyncReq x t) := by
  unfold execRsyncReq
  refine .next ?_
  extract_lets -underBinder t1
  have h1 : Evolves s t1 := h.each fun _ _ h' => ((h'.each fun _ _ h1' => h1'.landOn.dropFlit.returnQueue).each
    fun _ _ h1' => h1'.updRouter.dropFlit.returnQueue)
  exact .ite h h1.updXing

theorem Evolves.restorePool {id} (h : Evolves s t) : Evolves s (t.restorePool id) :=
  .ite ((h.each fun _ _ h' => h'.returnQueue).setNet.updPool) ((h.each fun _ _ h' => h'.returnQueue).setNet.updPool.updPool)

theorem Answers.rsyncPeerEmpty {x} (h : Evolves s t) : Answers s (execRsyncPeerEmpty x t) := by
  unfold execRsyncPeerEmpty
  refine .next ?_
  extract_lets -underBinder t1 t2 t3
  have h1 : Evolves s t1 := h.each fun _ _ h' => h'.restorePool
  have h2 : Evolves s t2 := h1.updXing
  have h3 : Evolves s t3 := h2.updXing
  exact .ite h (.ite h2.updXing.stirXing ((h3.each fun _ _ h' => (h'.each fun _ _ h1' => h1'.updPool))))

end Sys2Proof.Machine
end

section
/-!
SUPPORT. The definitions of Machine/Registers: each answers a state that comes of the one before.
-/

namespace Sys2Proof.Machine

set_option Elab.async false

variable {s t : State}

theorem Evolves.withBuffer {r run} (h : Evolves s t) (hrun : ∀ t, Evolves s t → Evolves s (run t)) : Evolves s (t.withBuffer r run) :=
  .ite h.mbxError ((hrun _ h))

theorem Evolves.mbxDispatch {code r} (h : Evolves s t) : Evolves s (t.mbxDispatch code r) := by
  unfold State.mbxDispatch
  split
  · exact h.runStage
  · exact h.runBind
  · exact h.runApply
  · exact h.runUnbind
  · exact .ite h.mbxError ((h.withBuffer (fun _ h' => h'.runQuery)))
  · exact h.runCtxCreate
  · exact h.runCtxDestroy
  · exact h.runTokenNew
  · exact h.runTokenMove
  · exact h.runTokenRelease
  · exact h.runMap
  · exact h.runUnmap
  · exact h.runRangeQuery
  · exact h.withBuffer (fun _ h' => h'.runFabJoin)
  · exact h.runFabFctx
  · exact h.signerEnroll
  · exact h.signerRevoke
  · exact h.withBuffer (fun _ h' => h'.fwWrite)
  · exact h.fwActivate
  · exact h.coreRestart

theorem Evolves.mbxHold {slot} (h : Evolves s t) : Evolves s (t.mbxHold slot) := h.setFw

theorem Evolves.mbxTake {slot} (h : Evolves s t) : Evolves s (t.mbxTake slot) := by
  unfold State.mbxTake
  extract_lets -underBinder _ _ _ t1
  have h1 : Evolves s t1 := h.updMslot
  exact .ite h.mbxHold (by split; exacts [h1.mbxError, .ite h1.mbxError (.ite h1.mbxError (.ite h1.mbxError (.ite h1.mbxHold h1.mbxDispatch)))])

theorem Evolves.mbxGo {slot port} (h : Evolves s t) : Evolves s (t.mbxGo slot port) := .ite h h.updMslot.mbxTake

theorem Evolves.mbxLate (h : Evolves s t) : Evolves s (t.mbxLate) := h.setFw.each fun _ _ h' => h'.mbxTake

theorem Answers.coreFirstHeartbeat {core} (h : Evolves s t) : Answers s (execCoreFirstHeartbeat core t) := .next h.firstHeartbeat.mbxLate

theorem Evolves.unitWrite {u o w hw} (h : Evolves s t) : Evolves s (t.unitWrite u o w hw) :=
  .ite h (by split; exacts [(by split; exacts [h.updEng, h.updVt, h]), .ite h.flush (.ite h.resume h), h])

theorem Evolves.slotWrite {port slot o w hw} (h : Evolves s t) : Evolves s (t.slotWrite port slot o w hw) :=
  .ite (.ite h.updMslot.mbxGo h.updMslot) (.ite h.updMslot h)

theorem Evolves.resetReq {w} (h : Evolves s t) : Evolves s (t.resetReq w) := by
  unfold State.resetReq
  extract_lets -underBinder target step _ t1
  have h1 : Evolves s t1 := h.setFlt
  refine .ite h1 ?_
  clear_value t1 step target
  split
  · exact .ite h1.startStep h1.fltLast
  · exact .ite h1.startStep h1.fltLast
  · exact .ite h1.startStep h1.fltLast
  · exact h1.startStep
  · exact h1.startStep
  · exact h1.fltLast

theorem Evolves.vfWrite {h₁ f w} (h : Evolves s t) : Evolves s (t.vfWrite h₁ f w) :=
  .ite h.vfFrom.vfUnassign (.ite h.vfFrom.handOff h.vfFrom.vfAssign)

theorem Evolves.logBaseWrite {k w} (h : Evolves s t) : Evolves s (t.logBaseWrite k w) := h.updFn (fun _ hx => by split; exacts [hx, hx])

theorem Evolves.nodeWrite {w} (h : Evolves s t) : Evolves s (t.nodeWrite w) := .ite h.setFab.journal h

theorem Evolves.topoWrite {w} (h : Evolves s t) : Evolves s (t.topoWrite w) := h.setFab.journal

theorem Evolves.mtrSel {w} (h : Evolves s t) : Evolves s (t.mtrSel w) := h.updPail

theorem EvolvesIn.write64 {port a w hw} (h : Evolves s t) : EvolvesIn s (t.write64 port a w hw) := by
  refine .ite (.some (h.setBoot.each fun _ _ h' => h'.marked)) ?_
  refine .ite (.ite (.some h.budgetWrite) .none) ?_
  refine .ite (.some h.nodeWrite) (.ite (.some h.topoWrite) ?_)
  refine .ite (.ite .none (.ite (.some h.vfWrite) (.ite (.some h.logBaseWrite) .none))) ?_
  refine .ite (.some h.resetReq) (.ite (.some h.fqBase) ?_)
  refine .ite (.ite (.some h.slotWrite) .none) ?_
  exact .ite (.some (.ite h.updPail h)) (.ite (.some h.mtrSel) .none)

theorem Evolves.evtCtl {w} (h : Evolves s t) : Evolves s (t.evtCtl w) := h.setBoot

theorem Evolves.migWrite {k w} (h : Evolves s t) : Evolves s (t.migWrite k w) := by
  unfold State.migWrite State.migCtl
  refine .ite ?_ h.tdiBreach
  have h1 : Evolves s (if has w 0 then t.logStart k else t) := .ite h.logStart h
  have h2 := Evolves.ite (c := has w 1) (h1.updFn (k := k) (f := fun x => { x with logging := false })) h1
  have h3 := Evolves.ite (c := has w 2) (h2.pauseFn (f := k)) h2
  exact .ite h3.resumeFn h3

theorem Evolves.policyWrite {w} (h : Evolves s t) : Evolves s (t.policyWrite w) := h.setSec.journal.measurePolicy

theorem Evolves.farWrite {d w} (h : Evolves s t) : Evolves s (t.farWrite d w) := h.updFar.farCtl

theorem Evolves.selWrite {a w} (h : Evolves s t) : Evolves s (t.selWrite a w) := by
  unfold State.selWrite
  extract_lets -underBinder
  split
  · exact h.setFab
  · split
    · exact .ite h.setPwr h
    · exact .ite (.ite h.setPwr h) (.ite (.ite h.setFlt h) (.ite h.setSch (.ite h.setXlt (.ite (.ite h.setFw h) (.ite (.ite h.setFw h) h)))))

theorem Evolves.hostWrite {a w} (h : Evolves s t) : Evolves s (t.hostWrite a w) :=
  .ite (.ite h (by split; exacts [h.updHport, h.updHport, h])) (.ite h (by split; exacts [h.migWrite, h.logHeadWrite, h]))

theorem Evolves.write32 {a w hw} (h : Evolves s t) : Evolves s (t.write32 a w hw) := by
  unfold State.write32
  extract_lets -underBinder
  split
  · exact h.evtCtl
  · split
    · split
      exacts [h, .ite h h.unitWrite]
    · split
      · exact h.fabCtl
      · split
        · exact h.hostWrite
        · exact .ite h.farWrite (.ite h.capWrite (.ite h.warmWrite (.ite h.fqHead (.ite (.ite h.rollbackCommit h) (.ite h.policyWrite h.selWrite)))))

theorem Evolves.bar0Write {port a bytes w hw} (h : Evolves s t) : Evolves s (t.bar0Write port a bytes w hw) := by
  unfold State.bar0Write
  refine .ite h (.ite h.write32 ?_)
  split
  next u heq => exact EvolvesIn.write64 h u heq
  · exact h.write32.write32

theorem Evolves.ringCfgWrite {k r w} (h : Evolves s t) : Evolves s (t.ringCfgWrite k r w) := .ite (.ite h h.ringDisable) (.ite h.ringEnable h.updRing)

theorem Evolves.cwWrite {k a bytes w} (h : Evolves s t) : Evolves s (t.cwWrite k a bytes w) :=
  .ite h (.ite (.ite h.ackJournal h) (.ite h.updFn (.ite (by split; exacts [h.ringCfgWrite, .ite h h.updRing, h]) h)))

end Sys2Proof.Machine
end

section
/-!
SUPPORT. The definitions of Machine/Scalar: each answers a state that comes of the one before.
-/

namespace Sys2Proof.Machine

set_option Elab.async false

variable {s t : State}

theorem Answers.kissue {p t₁} (h : Evolves s t) : Answers s (execKissue p t₁ t) := .next ((h.krun (fun _ h' => h'.kissue)))

theorem Answers.kissueWake {p t₁} (h : Evolves s t) : Answers s (execKissueWake p t₁ t) := .next ((h.krun (fun _ h' => h'.kissue)))

theorem Answers.ktryissue {p t₁} (h : Evolves s t) : Answers s (execKtryissue p t₁ t) := .next ((h.krun (fun _ h' => h'.kissue)))

theorem Answers.kevpop {p t₁} (h : Evolves s t) : Answers s (execKevpop p t₁ t) := .next ((h.krun (fun _ h' => h'.kevpop)))

theorem Answers.kevwait {p t₁} (h : Evolves s t) : Answers s (execKevwait p t₁ t) := .next ((h.krun (fun _ h' => h'.kevpop)))

theorem Answers.kevwaitWake {p t₁} (h : Evolves s t) : Answers s (execKevwaitWake p t₁ t) := .next ((h.krun (fun _ h' => h'.kevpop)))

theorem Evolves.kcwait {p t₁} (h : Evolves s t) : Evolves s (t.kcwait p t₁) := by
  unfold State.kcwait
  dsimp only
  split
  · exact h.draw.trap
  · exact .ite h.updSt h.updSt

theorem Answers.kcwait {p t₁} (h : Evolves s t) : Answers s (execKcwait p t₁ t) := .next ((h.krun (fun _ h' => h'.kcwait)))

theorem Answers.kcwaitWake {p t₁} (h : Evolves s t) : Answers s (execKcwaitWake p t₁ t) := .next ((h.krun (fun _ h' => h'.kcwait)))

theorem Evolves.kqctl {p t₁} (h : Evolves s t) : Evolves s (t.kqctl p t₁) := by
  unfold State.kqctl
  dsimp only
  split
  · exact h.draw.trap
  · exact .updSt (.ite h.flush (.ite h.resume h))

theorem Answers.kqctl {p t₁} (h : Evolves s t) : Answers s (execKqctl p t₁ t) := .next ((h.krun (fun _ h' => h'.kqctl)))

theorem Evolves.pcvtOut {p t₁} (h : Evolves s t) : Evolves s (t.pcvtOut p t₁) := by
  unfold State.pcvtOut
  dsimp only
  split
  · exact (by split; exacts [h.touch.pcvtEnd, h.pcvtEnd])
  · exact h.updUnit.updSt

theorem Evolves.pcvtIn {p t₁} (h : Evolves s t) : Evolves s (t.pcvtIn p t₁) := by
  unfold State.pcvtIn
  dsimp only
  split
  · exact h.pcvtEnd
  · exact h.pcvtEnd

theorem Answers.kpcvtDeviceToHost {p t₁} (h : Evolves s t) : Answers s (execKpcvtDeviceToHost p t₁ t) := .next ((h.krun (fun _ h' => h'.pcvtOut)))

theorem Answers.kpcvtHostToDevice {p t₁} (h : Evolves s t) : Answers s (execKpcvtHostToDevice p t₁ t) := .next ((h.krun (fun _ h' => h'.pcvtIn)))

theorem Answers.kbarArriveWait {p t₁} (h : Evolves s t) : Answers s (execKbarArriveWait p t₁ t) := .next ((h.krun (fun _ h' => h'.kbar)))

theorem Answers.kbarArrive {p t₁} (h : Evolves s t) : Answers s (execKbarArrive p t₁ t) := .next ((h.krun (fun _ h' => h'.kbar)))

theorem Answers.kbarWait {p t₁} (h : Evolves s t) : Answers s (execKbarWait p t₁ t) := .next ((h.krun (fun _ h' => h'.kbar)))

theorem Evolves.kdrain {p t₁} (h : Evolves s t) : Evolves s (t.kdrain p t₁) := .ite h.retireSt h.updSt

theorem Answers.kdrain {p t₁} (h : Evolves s t) : Answers s (execKdrain p t₁ t) := .next ((h.krun (fun _ h' => h'.kdrain)))

theorem Answers.kdrainWake {p t₁} (h : Evolves s t) : Answers s (execKdrainWake p t₁ t) := .next ((h.krun (fun _ h' => h'.kdrain)))

theorem Evolves.kdma {p t₁} (h : Evolves s t) : Evolves s (t.kdma p t₁) := by
  unfold State.kdma
  extract_lets -underBinder k x a w d t1
  have h1 : Evolves s t1 := h.draw.updSt fun x hx => (STile.retire_lm x _).symm ▸ hx
  clear_value t1
  exact .ite h.trap (.ite h.trap (.ite h1.xferGo h1))

theorem Answers.kdma {p t₁} (h : Evolves s t) : Answers s (execKdma p t₁ t) := .next ((h.krun (fun _ h' => h'.kdma)))

theorem Answers.ecallEndOfWork {p t₁} (h : Evolves s t) : Answers s (execEcallEndOfWork p t₁ t) :=
  .next (.ite (by dsimp only; split; exacts [h.updSt, h.updSt.setWork]) h)

theorem Answers.userTrap {p t₁ cause tval} (h : Evolves s t) : Answers s (execUserTrap p t₁ cause tval t) := .next (.ite (.ite h.trap h.trap) h)

theorem Answers.barArrive {c b} (h : Evolves s t) : Answers s (execBarArrive c b t) := by
  unfold execBarArrive
  extract_lets -underBinder
  refine .next (.ite h ?_)
  split
  · exact h
  next u heq =>
    have hu : Evolves s u := EvolvesIn.express h u heq
    exact .ite hu.updBar (.ite hu.updBar.barLocal hu.updBar.barFlip)

theorem Answers.barRelease {c b p} (h : Evolves s t) : Answers s (execBarRelease c b p t) := by
  unfold execBarRelease
  extract_lets -underBinder
  refine .next (.ite h ?_)
  split
  · exact h
  next u heq => exact (EvolvesIn.express h u heq).barReach

theorem Answers.softStartHoldEnd {p e} (h : Evolves s t) : Answers s (execSoftStartHoldEnd p e t) := .next (.ite h.updEng.startUnits h)

theorem Answers.tileStopRequest {u} (h : Evolves s t) : Answers s (execTileStopRequest u t) := .next h.stopTile

end Sys2Proof.Machine
end

section
/-!
SUPPORT. What every command and every step keeps, and the obligations it settles.
-/

namespace Sys2Proof.Machine

set_option Elab.async false

/-! ## Every command and every step -/

/-- A register write that is well formed answers a next state. -/
theorem Answers.registerWrite {s : State} {w a n d x} (ok : accessOk w a n = true) : Answers s (execRegisterWrite w a n d x s) := by
  unfold execRegisterWrite
  rw [if_pos ok]
  cases w with
  | bar0 h => exact .next (Evolves.refl s).bar0Write
  | cw h f => exact .next (.ite (.refl s) (Evolves.refl s).cwWrite)

theorem execRegisterWrite_illFormed {s : State} {w a n d x} (bad : accessOk w a n = false) :
    execRegisterWrite w a n d x s = .fault .badAccess := by
  unfold execRegisterWrite
  rw [bad]
  rfl

/-- A command answers a next state, which comes of the state before, or it is a register write that is ill formed. -/
theorem exec_cases (c : Instr) (s : State) :
    Answers s (exec c s) ∨ ∃ w a n d x, c = .registerWrite w a n d x ∧ accessOk w a n = false := by
  have r : Evolves s s := .refl s
  cases c with
  | registerWrite w a n d x =>
    cases ok : accessOk w a n with
    | true => exact .inl (.registerWrite ok)
    | false => exact .inr ⟨w, a, n, d, x, rfl, ok⟩
  | gateFreePartition => exact .inl (.gateFreePartition r)
  | spareSubstitute => exact .inl (.spareSubstitute r)
  | nop => exact .inl (.nop r)
  | mma => exact .inl (.mma r)
  | epi => exact .inl (.epi r)
  | accld => exact .inl (.accld r)
  | dmaRead => exact .inl (.dmaRead r)
  | dmaWrite => exact .inl (.dmaWrite r)
  | aaddF32 => exact .inl (.aaddF32 r)
  | aaddI64 => exact .inl (.aaddI64 r)
  | aswap64 => exact .inl (.aswap64 r)
  | nsend => exact .inl (.nsend r)
  | wait => exact .inl (.wait r)
  | live => exact .inl (.live r)
  | commandComplete => exact .inl (.commandComplete r)
  | waitWake => exact .inl (.waitWake r)
  | qctlFlush => exact .inl (.qctlFlush r)
  | qctlResume => exact .inl (.qctlResume r)
  | engineStopRequest => exact .inl (.engineStopRequest r)
  | engineUnitsHalted => exact .inl (.engineUnitsHalted r)
  | engineRestore => exact .inl (.engineRestore r)
  | vadd => exact .inl (.vadd r)
  | vsub => exact .inl (.vsub r)
  | vmul => exact .inl (.vmul r)
  | vmax => exact .inl (.vmax r)
  | vmin => exact .inl (.vmin r)
  | vand => exact .inl (.vand r)
  | vor => exact .inl (.vor r)
  | vxor => exact .inl (.vxor r)
  | vfma => exact .inl (.vfma r)
  | vfms => exact .inl (.vfms r)
  | vdotw => exact .inl (.vdotw r)
  | vexp2 => exact .inl (.vexp2 r)
  | vlog2 => exact .inl (.vlog2 r)
  | vrcp => exact .inl (.vrcp r)
  | vrsq => exact .inl (.vrsq r)
  | vtanh => exact .inl (.vtanh r)
  | vsig => exact .inl (.vsig r)
  | vceq => exact .inl (.vceq r)
  | vclt => exact .inl (.vclt r)
  | vcle => exact .inl (.vcle r)
  | vrsum => exact .inl (.vrsum r)
  | vrmax => exact .inl (.vrmax r)
  | vrmin => exact .inl (.vrmin r)
  | vbcast => exact .inl (.vbcast r)
  | vshuf => exact .inl (.vshuf r)
  | vwlo => exact .inl (.vwlo r)
  | vwhi => exact .inl (.vwhi r)
  | vnrw => exact .inl (.vnrw r)
  | vqmx => exact .inl (.vqmx r)
  | vld => exact .inl (.vld r)
  | vst => exact .inl (.vst r)
  | srd => exact .inl (.srd r)
  | srdWake => exact .inl (.srdWake r)
  | swr => exact .inl (.swr r)
  | xdma => exact .inl (.xdma r)
  | aaddi => exact .inl (.aaddi r)
  | aadd => exact .inl (.aadd r)
  | amul => exact .inl (.amul r)
  | ashl => exact .inl (.ashl r)
  | amovv => exact .inl (.amovv r)
  | bnez => exact .inl (.bnez r)
  | jmp => exact .inl (.jmp r)
  | waitc => exact .inl (.waitc r)
  | waitcWake => exact .inl (.waitcWake r)
  | fence => exact .inl (.fence r)
  | fenceWake => exact .inl (.fenceWake r)
  | vend => exact .inl (.vend r)
  | vlaunch => exact .inl (.vlaunch r)
  | launchComplete => exact .inl (.launchComplete r)
  | streamFlitDeliver => exact .inl (.streamFlitDeliver r)
  | kissue => exact .inl (.kissue r)
  | kissueWake => exact .inl (.kissueWake r)
  | ktryissue => exact .inl (.ktryissue r)
  | kevpop => exact .inl (.kevpop r)
  | kevwait => exact .inl (.kevwait r)
  | kevwaitWake => exact .inl (.kevwaitWake r)
  | kcwait => exact .inl (.kcwait r)
  | kcwaitWake => exact .inl (.kcwaitWake r)
  | kqctl => exact .inl (.kqctl r)
  | kpcvtDeviceToHost => exact .inl (.kpcvtDeviceToHost r)
  | kpcvtHostToDevice => exact .inl (.kpcvtHostToDevice r)
  | kbarArriveWait => exact .inl (.kbarArriveWait r)
  | kbarArrive => exact .inl (.kbarArrive r)
  | kbarWait => exact .inl (.kbarWait r)
  | kdrain => exact .inl (.kdrain r)
  | kdrainWake => exact .inl (.kdrainWake r)
  | kdma => exact .inl (.kdma r)
  | ecallEndOfWork => exact .inl (.ecallEndOfWork r)
  | userTrap => exact .inl (.userTrap r)
  | barArrive => exact .inl (.barArrive r)
  | barRelease => exact .inl (.barRelease r)
  | softStartHoldEnd => exact .inl (.softStartHoldEnd r)
  | tileStopRequest => exact .inl (.tileStopRequest r)
  | flitArrive => exact .inl (.flitArrive r)
  | pourForward => exact .inl (.pourForward r)
  | churnCombine => exact .inl (.churnCombine r)
  | routerFaulty => exact .inl (.routerFaulty r)
  | creditReturn => exact .inl (.creditReturn r)
  | auditInject => exact .inl (.auditInject r)
  | auditArrive => exact .inl (.auditArrive r)
  | auditAnswerArrive => exact .inl (.auditAnswerArrive r)
  | auditResolve => exact .inl (.auditResolve r)
  | crossingWake => exact .inl (.crossingWake r)
  | crossingModeSet => exact .inl (.crossingModeSet r)
  | rsyncReq => exact .inl (.rsyncReq r)
  | rsyncPeerEmpty => exact .inl (.rsyncPeerEmpty r)
  | linkWordCrcFail => exact .inl (.linkWordCrcFail r)
  | stage => exact .inl (.stage r)
  | bind => exact .inl (.bind r)
  | frameLoad => exact .inl (.frameLoad r)
  | bindCommit => exact .inl (.bindCommit r)
  | apply => exact .inl (.apply r)
  | rebindBegin => exact .inl (.rebindBegin r)
  | prepared => exact .inl (.prepared r)
  | stageDrained => exact .inl (.stageDrained r)
  | moveCopyDone => exact .inl (.moveCopyDone r)
  | rebindCommit => exact .inl (.rebindCommit r)
  | rebindEnd => exact .inl (.rebindEnd r)
  | rebindRollback => exact .inl (.rebindRollback r)
  | drainLimitExpired => exact .inl (.drainLimitExpired r)
  | quiesceDone => exact .inl (.quiesceDone r)
  | unbind => exact .inl (.unbind r)
  | unbindEnd => exact .inl (.unbindEnd r)
  | query => exact .inl (.query r)
  | repair => exact .inl (.repair r)
  | repairHoldExpiry => exact .inl (.repairHoldExpiry r)
  | compositionRestore => exact .inl (.compositionRestore r)
  | tokenNew => exact .inl (.tokenNew r)
  | tokenMove => exact .inl (.tokenMove r)
  | handoffCopyDone => exact .inl (.handoffCopyDone r)
  | handoffAck => exact .inl (.handoffAck r)
  | tokenRelease => exact .inl (.tokenRelease r)
  | memRead => exact .inl (.memRead r)
  | memWrite => exact .inl (.memWrite r)
  | memPartialWrite => exact .inl (.memPartialWrite r)
  | patrolRead => exact .inl (.patrolRead r)
  | repairReset => exact .inl (.repairReset r)
  | weightReloadDone => exact .inl (.weightReloadDone r)
  | weightReloadRetry => exact .inl (.weightReloadRetry r)
  | mr4Poll => exact .inl (.mr4Poll r)
  | thermalRejoin => exact .inl (.thermalRejoin r)
  | requestAgePromote => exact .inl (.requestAgePromote r)
  | keyCacheFill => exact .inl (.keyCacheFill r)
  | memcBudgetWrite => exact .inl (.memcBudgetWrite r)
  | farEnable => exact .inl (.farEnable r)
  | farDisable => exact .inl (.farDisable r)
  | farLinkUp => exact .inl (.farLinkUp r)
  | farConfigDone => exact .inl (.farConfigDone r)
  | farConfigTimeout => exact .inl (.farConfigTimeout r)
  | farPortDown => exact .inl (.farPortDown r)
  | farEventPoll => exact .inl (.farEventPoll r)
  | rangeMiss => exact .inl (.rangeMiss r)
  | missReply => exact .inl (.missReply r)
  | map => exact .inl (.map r)
  | unmap => exact .inl (.unmap r)
  | rangeQuery => exact .inl (.rangeQuery r)
  | invalidationReceive => exact .inl (.invalidationReceive r)
  | withdrawAck => exact .inl (.withdrawAck r)
  | withdrawTimeout => exact .inl (.withdrawTimeout r)
  | faultRecordWrite => exact .inl (.faultRecordWrite r)
  | fqHeadWrite => exact .inl (.fqHeadWrite r)
  | fqBaseWrite => exact .inl (.fqBaseWrite r)
  | ctxCreate => exact .inl (.ctxCreate r)
  | ctxDestroy => exact .inl (.ctxDestroy r)
  | teardown => exact .inl (.teardown r)
  | descriptorRead => exact .inl (.descriptorRead r)
  | workStart => exact .inl (.workStart r)
  | workComplete => exact .inl (.workComplete r)
  | deadlineFire => exact .inl (.deadlineFire r)
  | sliceEnd => exact .inl (.sliceEnd r)
  | creamPreempt => exact .inl (.creamPreempt r)
  | creamBudgetEmpty => exact .inl (.creamBudgetEmpty r)
  | creamBudgetRefill => exact .inl (.creamBudgetRefill r)
  | switchSaveDone => exact .inl (.switchSaveDone r)
  | switchRestoreDone => exact .inl (.switchRestoreDone r)
  | fabPortEnable => exact .inl (.fabPortEnable r)
  | signalDetect => exact .inl (.signalDetect r)
  | detectTimeout => exact .inl (.detectTimeout r)
  | detectRetry => exact .inl (.detectRetry r)
  | equalizeDone => exact .inl (.equalizeDone r)
  | equalizeTimeout => exact .inl (.equalizeTimeout r)
  | alignDone => exact .inl (.alignDone r)
  | identify => exact .inl (.identify r)
  | identifyTimeout => exact .inl (.identifyTimeout r)
  | codewordReceive => exact .inl (.codewordReceive r)
  | replayRequest => exact .inl (.replayRequest r)
  | retrainDone => exact .inl (.retrainDone r)
  | linkFailed => exact .inl (.linkFailed r)
  | frameReceive => exact .inl (.frameReceive r)
  | frameEnd => exact .inl (.frameEnd r)
  | creditFrameSend => exact .inl (.creditFrameSend r)
  | creditFrameReceive => exact .inl (.creditFrameReceive r)
  | auditFrame => exact .inl (.auditFrame r)
  | fabJoin => exact .inl (.fabJoin r)
  | fabFctx => exact .inl (.fabFctx r)
  | hello => exact .inl (.hello r)
  | formationTimeout => exact .inl (.formationTimeout r)
  | nodeDown => exact .inl (.nodeDown r)
  | nodeUp => exact .inl (.nodeUp r)
  | abandon => exact .inl (.abandon r)
  | freqOffer => exact .inl (.freqOffer r)
  | freqSet => exact .inl (.freqSet r)
  | freqRoundTimer => exact .inl (.freqRoundTimer r)
  | combine => exact .inl (.combine r)
  | barFrame => exact .inl (.barFrame r)
  | lnkDetour => exact .inl (.lnkDetour r)
  | cpresNFall => exact .inl (.cpresNFall r)
  | watchedLineNotice => exact .inl (.watchedLineNotice r)
  | msixCoalesceTimer => exact .inl (.msixCoalesceTimer r)
  | eventRecordWrite => exact .inl (.eventRecordWrite r)
  | hostTransferTimeout => exact .inl (.hostTransferTimeout r)
  | cqWriteRetry => exact .inl (.cqWriteRetry r)
  | leaseRenewal => exact .inl (.leaseRenewal r)
  | leaseRelease => exact .inl (.leaseRelease r)
  | leaseTimeout => exact .inl (.leaseTimeout r)
  | leaseQuiesce => exact .inl (.leaseQuiesce r)
  | leaseExpire => exact .inl (.leaseExpire r)
  | journalAck => exact .inl (.journalAck r)
  | flr => exact .inl (.flr r)
  | hostLinkDown => exact .inl (.hostLinkDown r)
  | ringEnable => exact .inl (.ringEnable r)
  | ringDisable => exact .inl (.ringDisable r)
  | vfAssign => exact .inl (.vfAssign r)
  | vfUnassign => exact .inl (.vfUnassign r)
  | handOff => exact .inl (.handOff r)
  | lockInterface => exact .inl (.lockInterface r)
  | startInterface => exact .inl (.startInterface r)
  | stopInterface => exact .inl (.stopInterface r)
  | logStart => exact .inl (.logStart r)
  | logStop => exact .inl (.logStop r)
  | logheadWrite => exact .inl (.logheadWrite r)
  | pause => exact .inl (.pause r)
  | pauseComplete => exact .inl (.pauseComplete r)
  | migResume => exact .inl (.migResume r)
  | rollbackCommit => exact .inl (.rollbackCommit r)
  | signerEnroll => exact .inl (.signerEnroll r)
  | signerRevoke => exact .inl (.signerRevoke r)
  | keyslotChange => exact .inl (.keyslotChange r)
  | getMeasurements => exact .inl (.getMeasurements r)
  | cosign => exact .inl (.cosign r)
  | getCocert => exact .inl (.getCocert r)
  | compReport => exact .inl (.compReport r)
  | spdmRequest => exact .inl (.spdmRequest r)
  | hostviewAccess => exact .inl (.hostviewAccess r)
  | debugToken => exact .inl (.debugToken r)
  | tcWindowUpdate => exact .inl (.tcWindowUpdate r)
  | dieLineFrame => exact .inl (.dieLineFrame r)
  | portLineFrame => exact .inl (.portLineFrame r)
  | lineLost => exact .inl (.lineLost r)
  | periodicClose => exact .inl (.periodicClose r)
  | eventClose => exact .inl (.eventClose r)
  | recordDurable => exact .inl (.recordDurable r)
  | labelReceive => exact .inl (.labelReceive r)
  | labelTimeout => exact .inl (.labelTimeout r)
  | pailCompaction => exact .inl (.pailCompaction r)
  | mtrAck => exact .inl (.mtrAck r)
  | mdPresentFall => exact .inl (.mdPresentFall r)
  | mdPresentRise => exact .inl (.mdPresentRise r)
  | pailSelfTestDone => exact .inl (.pailSelfTestDone r)
  | sealOpen => exact .inl (.sealOpen r)
  | sealToken => exact .inl (.sealToken r)
  | oscCheck => exact .inl (.oscCheck r)
  | inputUndervolt => exact .inl (.inputUndervolt r)
  | inputOvervolt => exact .inl (.inputOvervolt r)
  | inputHigh => exact .inl (.inputHigh r)
  | inputOvercurrent => exact .inl (.inputOvercurrent r)
  | standbyStop => exact .inl (.standbyStop r)
  | phaseShort => exact .inl (.phaseShort r)
  | railShort => exact .inl (.railShort r)
  | senseOpen => exact .inl (.senseOpen r)
  | tsensorTest => exact .inl (.tsensorTest r)
  | inletHot => exact .inl (.inletHot r)
  | ageingRead => exact .inl (.ageingRead r)
  | capCheck => exact .inl (.capCheck r)
  | pwrCapWrite => exact .inl (.pwrCapWrite r)
  | pwrGateCtlWrite => exact .inl (.pwrGateCtlWrite r)
  | droop => exact .inl (.droop r)
  | droopSetpointReturn => exact .inl (.droopSetpointReturn r)
  | junctionRead => exact .inl (.junctionRead r)
  | flowOkLow => exact .inl (.flowOkLow r)
  | flowOkRestore => exact .inl (.flowOkRestore r)
  | npOverrun => exact .inl (.npOverrun r)
  | loadOverrun => exact .inl (.loadOverrun r)
  | stopTimeout => exact .inl (.stopTimeout r)
  | noProgress => exact .inl (.noProgress r)
  | stepTimeout => exact .inl (.stepTimeout r)
  | contextStep => exact .inl (.contextStep r)
  | engineStep => exact .inl (.engineStep r)
  | partitionStep => exact .inl (.partitionStep r)
  | moduleStep => exact .inl (.moduleStep r)
  | powerCycle => exact .inl (.powerCycle r)
  | heartbeatMiss => exact .inl (.heartbeatMiss r)
  | coreRestart => exact .inl (.coreRestart r)
  | coreFirstHeartbeat => exact .inl (.coreFirstHeartbeat r)
  | fwWrite => exact .inl (.fwWrite r)
  | fwActivate => exact .inl (.fwActivate r)
  | journalCommit => exact .inl (.journalCommit r)
  | writerTakeover => exact .inl (.writerTakeover r)
  | journalReplay => exact .inl (.journalReplay r)
  | journalCompaction => exact .inl (.journalCompaction r)
  | coldPowerOn => exact .inl (.coldPowerOn r)
  | computeRailStart => exact .inl (.computeRailStart r)
  | partitionBringup => exact .inl (.partitionBringup r)
  | ready => exact .inl (.ready r)
  | modResetN => exact .inl (.modResetN r)
  | perstN => exact .inl (.perstN r)
  | prsntN => exact .inl (.prsntN r)
  | refclkBad => exact .inl (.refclkBad r)
  | refclkReturn => exact .inl (.refclkReturn r)
  | inputReturn => exact .inl (.inputReturn r)
  | reversedPolarity => exact .inl (.reversedPolarity r)
  | hostLinkUp => exact .inl (.hostLinkUp r)
  | ideFailure => exact .inl (.ideFailure r)
  | watchedLineOwnership => exact .inl (.watchedLineOwnership r)
  | warmPowerUp => exact .inl (.warmPowerUp r)
  | backgroundEraseDone => exact .inl (.backgroundEraseDone r)
  | storeWaitExpiry => exact .inl (.storeWaitExpiry r)
  | setEndpointId => exact .inl (.setEndpointId r)

/-- What a command answers comes of the state before. -/
theorem exec_evolves {c : Instr} {s t : State} (h : exec c s = .next t) : Evolves s t := by
  obtain ⟨u, hu, e⟩ | ⟨w, a, n, d, x, rfl, bad⟩ := exec_cases c s
  · obtain rfl : u = t := Host.Outcome.next.inj (hu.symm.trans h)
    exact e
  · exact nomatch (execRegisterWrite_illFormed bad).symm.trans h

/-- What an idle microsecond keeps: the timers run, then the clock and the meter move on. -/
structure Idles (s t : State) : Prop where
  keepsCanon : Canon s → Canon t
  keepsPending : t.pending = s.pending
  movesNow : t.now = s.now + 1000
  keepsSvn : s.sec.svnBlown ≤ t.sec.svnBlown
  keepsDebug : s.sec.debugUsedBlown = true → t.sec.debugUsedBlown = true

theorem Evolves.idles {s t : State} (h : Evolves s t) (p : Pail) : Idles s { t with now := t.now + 1000, pail := p } :=
  ⟨fun c => { h.keepsCanon c with }, h.keepsPending, congrArg (· + 1000) h.keepsNow, h.keepsSvn, h.keepsDebug⟩

theorem tick_idles (s : State) : Idles s (tick s) := by
  unfold tick
  exact (Evolves.refl s).timers.idles _

/-- The canonical form does not speak of the queue. -/
theorem canon_pending (s : State) (l : List Instr) : ({ s with pending := l } : State).canon = s.canon := rfl

/-! ## The obligations -/

/-- A step runs the timers of an idle microsecond, or the command at the front of the queue. -/
theorem step_cases {s t : State} (h : step s = .next t) : t = tick s ∨ ∃ c r, s.pending = c :: r ∧ exec c { s with pending := r } = .next t := by
  unfold step at h
  split at h
  · exact .inl (Host.Outcome.next.inj h).symm
  next c r e => exact .inr ⟨c, r, e, h⟩

/-- Settles O4, from what every command and an idle microsecond keep. -/
theorem stepKeepsCanonical : Obligations.StepKeepsCanonical := by
  intro s t hs h
  obtain rfl | ⟨c, r, -, hc⟩ := step_cases h
  · exact (canon_iff _).2 ((tick_idles s).keepsCanon ((canon_iff s).1 hs))
  · exact (exec_evolves hc).canonOf ((canon_iff _).1 ((canon_pending s r).trans hs))

/-- Settles O5. -/
theorem commandsKeepQueueAndHistory : Obligations.CommandsKeepQueueAndHistory := by
  intro c s t h
  have e := exec_evolves h
  exact ⟨e.keepsPending, e.keepsOut, e.keepsNow.ge, e.keepsFresh⟩

/-- SVN_FLOOR rises with the fuses blown. -/
theorem svnFloor_mono {s t : State} (h : s.sec.svnBlown ≤ t.sec.svnBlown) : s.svnFloor ≤ t.svnFloor :=
  min_le_min le_rfl (max_le_max le_rfl h)

/-- Settles O6. -/
theorem fusesStayBlown : Obligations.FusesStayBlown := by
  intro s t h
  obtain rfl | ⟨c, r, -, hc⟩ := step_cases h
  · exact ⟨svnFloor_mono (tick_idles s).keepsSvn, (tick_idles s).keepsDebug⟩
  · exact ⟨svnFloor_mono (exec_evolves hc).keepsSvn, (exec_evolves hc).keepsDebug⟩

/-- Settles O7, from what every command answers. -/
theorem onlyIllFormedAccessStops : Obligations.OnlyIllFormedAccessStops := by
  intro c s
  obtain ⟨t, h, -⟩ | ⟨w, a, n, d, x, rfl, bad⟩ := exec_cases c s
  · exact .inl ⟨t, h⟩
  · exact .inr ⟨w, a, n, d, x, rfl, bad, execRegisterWrite_illFormed bad⟩

/-- Settles O1: it is the step's definition. -/
theorem stepRunsFrontCommand : Obligations.StepRunsFrontCommand := fun _ _ _ => rfl

/-- Settles O2. -/
theorem idleStepIsAMicrosecond : Obligations.IdleStepIsAMicrosecond := by
  intro s h
  refine ⟨tick s, ?_, (tick_idles s).keepsPending.trans h, (tick_idles s).movesNow⟩
  unfold step
  rw [h]

/-- Settles O3: no table holds an entry after reset but the ones listed there. -/
theorem resetIsCanonical : Obligations.ResetIsCanonical := by
  unfold Obligations.ResetIsCanonical
  decide
end Sys2Proof.Machine
end

section
/-!
SUPPORT. Lanes of a register (chapter 4): what a list of lanes put together holds, and the obligation of the lane-wise results.
-/

namespace Sys2Proof.Machine

theorem unchunk_mod (w : Nat) (l : List Nat) : unchunk w l % 2 ^ w = l.headD 0 % 2 ^ w := by
  cases l with
  | nil => rfl
  | cons x r =>
    rw [unchunk, Nat.shiftLeft_eq, Nat.add_mul_mod_self_right]
    exact Nat.mod_mod _ _

theorem unchunk_cons_shiftRight (w x : Nat) (r : List Nat) : unchunk w (x :: r) >>> w = unchunk w r := by
  rw [unchunk, Nat.shiftLeft_eq, Nat.shiftRight_eq_div_pow, Nat.add_mul_div_right _ _ (Nat.two_pow_pos w),
    Nat.div_eq_of_lt (Nat.mod_lt _ (Nat.two_pow_pos w)), Nat.zero_add]

theorem unchunk_shiftRight (w : Nat) (l : List Nat) (n : Nat) : unchunk w l >>> (w * n) = unchunk w (l.drop n) := by
  induction n generalizing l with
  | zero => rfl
  | succ n ih =>
    cases l with
    | nil => exact Nat.zero_shiftRight _
    | cons x r => rw [Nat.mul_succ, Nat.add_comm, Nat.shiftRight_add, unchunk_cons_shiftRight, ih, List.drop_succ_cons]

/-- The lane of a register whose value is known, for a lane inside the register. -/
theorem lane_ofNat {w l : Nat} (h : w * l + w ≤ 4096) (n : Nat) : lane w l (BitVec.ofNat 4096 n) = (n >>> (w * l)) % 2 ^ w := by
  have hd : (2 : Nat) ^ 4096 = 2 ^ (4096 - w * l) * 2 ^ (w * l) := by rw [← pow_add, Nat.sub_add_cancel (by omega)]
  have hw : (2 : Nat) ^ w ∣ 2 ^ (4096 - w * l) := pow_dvd_pow 2 (by omega)
  rw [lane, BitVec.extractLsb'_toNat, BitVec.toNat_ofNat, Nat.shiftRight_eq_div_pow, hd, mul_comm, Nat.mod_mul_right_div_self,
    Nat.mod_mod_of_dvd _ hw, Nat.shiftRight_eq_div_pow]

/-- A lane of lanes put together is the lane put there. -/
theorem lane_ofLanes {w l : Nat} (h : w * l + w ≤ 4096) (xs : List Nat) (hl : l < xs.length) : lane w l (ofLanes w xs) = xs[l] % 2 ^ w := by
  rw [ofLanes, lane_ofNat h, unchunk_shiftRight, unchunk_mod, List.drop_eq_getElem_cons hl]
  rfl

theorem lane_lt (w l : Nat) (v : BitVec 4096) : lane w l v < 2 ^ w := BitVec.isLt _

/-- Settles O16: the lane of a lane-wise result is the lane put there, and fits. -/
theorem lanesAreIndependent : Obligations.LanesAreIndependent := by
  intro t i w l srcs f hw hl hf
  have hin : w * l + w ≤ 4096 := by rcases hw with rfl | rfl | rfl <;> omega
  rw [VTile.mapLanes, lane_ofLanes hin _ (by simpa using hl)]
  simp only [List.getElem_map, List.getElem_range]
  split
  · exact Nat.mod_eq_of_lt (hf _)
  · exact Nat.mod_eq_of_lt (lane_lt _ _ _)

end Sys2Proof.Machine
end

section
/-!
SUPPORT. Instructions of a vector tile (chapter 4): one rule for an instruction that passes its checks, one for an instruction that writes
vd, and the obligations of the arithmetic, unary, memory, address and control instructions.
-/

namespace Sys2Proof.Machine

/-! ## An instruction that passes its checks -/

section
variable {s : State} {p v : Nat} {opc func : Nat} {w : VWait} {chk : VTile → VI → List (Nat × Bool)} {go : State → VTile → VI → State}

/-- An instruction that passes its checks has its effect. -/
theorem State.vstep_of_vReady (hr : s.vReady p v opc func w chk) : s.vstep p v opc func w chk go = go s (s.vt (kVt p v)) (s.vt (kVt p v)).word := by
  obtain ⟨launch, wait, hopc, hfunc, rsv, ty, pass⟩ := hr
  have none_fails : (chk (s.vt (kVt p v)) (s.vt (kVt p v)).word).filter (fun c => c.2) = [] := by
    rw [List.filter_eq_nil_iff]
    intro c hc
    simpa using List.all_eq_true.1 pass c hc
  unfold State.vstep
  simp only [launch, wait, hopc, hfunc, rsv, decide_true, beq_self_eq_true, Bool.and_self, if_true]
  rw [List.filter_cons_of_neg (by simp), List.filter_cons_of_neg (by simpa using ty), none_fails]
  rfl

theorem State.vnext_eq (n : Nat) (fl : Byte) : s.vnext p v n fl = s.updVt (kVt p v) (fun t => t.ran n fl) := rfl

/-- What follows a change of the tile in a canonical state reads the changed tile. -/
theorem State.updVt_vnext (h : s.canon = true) (g : VTile → VTile) (n : Nat) (fl : Byte) :
    (s.updVt (kVt p v) g).vnext p v n fl = s.updVt (kVt p v) (fun t => (g t).ran n fl) := State.updVt_updVt h _ _ _

/-- An instruction that writes vd, of a tile that an earlier part of the instruction changed without moving its program. -/
theorem State.updVt_vdest (h : s.canon = true) (g : VTile → VTile) (n : Nat) (f : VTile → BitVec 4096 × Byte)
    (hg : (g (s.vt (kVt p v))).word = (s.vt (kVt p v)).word) :
    (s.updVt (kVt p v) g).vdest p v n (s.vt (kVt p v)).word (f (s.vt (kVt p v))) = s.updVt (kVt p v) (fun t => (g t).put n (f t)) := by
  unfold State.vdest
  rw [State.updVt_updVt h, State.updVt_vnext h]
  refine State.updVt_congr _ _ ?_
  unfold VTile.put
  rw [hg]

theorem State.vdest_put (h : s.canon = true) (n : Nat) (f : VTile → BitVec 4096 × Byte) :
    s.vdest p v n (s.vt (kVt p v)).word (f (s.vt (kVt p v))) = s.updVt (kVt p v) (fun t => t.put n (f t)) := by
  unfold State.vdest
  rw [State.updVt_vnext h]
  exact State.updVt_congr _ _ rfl

/-- An instruction that passes its checks and writes vd. -/
theorem State.vstep_put (h : s.canon = true) (hr : s.vReady p v opc func w chk) {n : Nat} {f : VTile → BitVec 4096 × Byte}
    (hgo : go s (s.vt (kVt p v)) (s.vt (kVt p v)).word = s.vdest p v n (s.vt (kVt p v)).word (f (s.vt (kVt p v)))) :
    s.vstep p v opc func w chk go = s.updVt (kVt p v) (fun t => t.put n (f t)) := by
  rw [State.vstep_of_vReady hr, hgo, State.vdest_put h]

/-- An instruction that passes its checks, changes the tile and writes vd. -/
theorem State.vstep_updVt_put (h : s.canon = true) (hr : s.vReady p v opc func w chk) {g g' : VTile → VTile} {n : Nat}
    {f : VTile → BitVec 4096 × Byte}
    (hgo : go s (s.vt (kVt p v)) (s.vt (kVt p v)).word = (s.updVt (kVt p v) g').vdest p v n (s.vt (kVt p v)).word (f (s.vt (kVt p v))))
    (hg' : g' (s.vt (kVt p v)) = g (s.vt (kVt p v))) (hg : (g (s.vt (kVt p v))).word = (s.vt (kVt p v)).word) :
    s.vstep p v opc func w chk go = s.updVt (kVt p v) (fun t => (g t).put n (f t)) := by
  rw [State.vstep_of_vReady hr, hgo, State.updVt_congr s _ hg', State.updVt_vdest h _ _ _ hg]

/-- An instruction that passes its checks and changes the tile on its way past it. -/
theorem State.vstep_ran (h : s.canon = true) (hr : s.vReady p v opc func w chk) {g g' : VTile → VTile} {n : Nat} {fl : Byte}
    (hgo : go s (s.vt (kVt p v)) (s.vt (kVt p v)).word = (s.updVt (kVt p v) g').vnext p v n fl)
    (hg' : g' (s.vt (kVt p v)) = g (s.vt (kVt p v))) :
    s.vstep p v opc func w chk go = s.updVt (kVt p v) (fun t => (g t).ran n fl) := by
  rw [State.vstep_of_vReady hr, hgo, State.updVt_congr s _ hg', State.updVt_vnext h]

end

/-! ## Arithmetic -/

/-- What a command answers when its state function answers that. -/
theorem next_congr {t u : State} (h : t = u) : (.next t : Host.Outcome State Fault Refusal) = .next u := congrArg _ h

/-- The value of an arithmetic result does not depend on the operands its flags are found from. -/
theorem arith_fst (f : Fmt) (ops : List Val) (r : Val) : (arith f ops r).1 = (f.narrow r).1 := rfl

/-- Settles O15, from the rule of an instruction that writes vd. -/
theorem vectorArithmetic : Obligations.VectorArithmetic := by
  intro s p v h k i w two three lanes
  refine ⟨fun r => ?_, fun r => ?_, fun r => ?_, fun r => ?_, fun r => ?_, fun r => ?_, fun r => ?_, fun r => ?_, fun r => ?_, fun r => ?_,
    fun r => ?_⟩
  · exact next_congr (State.vstep_put h r rfl)
  · exact next_congr (State.vstep_put h r rfl)
  · exact next_congr (State.vstep_put h r rfl)
  · exact next_congr (State.vstep_put h r rfl)
  · exact next_congr (State.vstep_put h r rfl)
  · exact next_congr (State.vstep_put h r rfl)
  · exact next_congr (State.vstep_put h r rfl)
  · exact next_congr (State.vstep_put h r rfl)
  · exact next_congr (State.vstep_updVt_put h r rfl rfl rfl)
  · exact next_congr (State.vstep_updVt_put h r rfl rfl rfl)
  · exact ⟨_, next_congr (State.vstep_updVt_put h r rfl rfl rfl), fun c x y hx hy => by
      have low {a b c : Nat} : nth 0 [a, b, c] 0 = a ∧ nth 0 [a, b, c] 1 = b ∧ nth 0 [a, b, c] 2 = c := ⟨rfl, rfl, rfl⟩
      have high {n : Nat} (hn : n < 2 ^ 32) : n / 65536 % 65536 = n / 65536 := Nat.mod_eq_of_lt (by omega)
      dsimp only
      rw [arith_fst, arith_fst, low.1, low.2.1, low.2.2, high hx, high hy]⟩

/-! ## Unary instructions and lane forms -/

theorem vectorSpecialFunctions : Clauses.VectorSpecialFunctions := by
  intro s p v h k i r
  refine ⟨fun r => ?_, fun r => ?_, fun r => ?_, fun r => ?_, fun r => ?_, fun r => ?_⟩
  · exact next_congr (State.vstep_put h r rfl)
  · exact next_congr (State.vstep_put h r rfl)
  · exact next_congr (State.vstep_put h r rfl)
  · exact next_congr (State.vstep_put h r rfl)
  · exact next_congr (State.vstep_put h r rfl)
  · exact next_congr (State.vstep_put h r rfl)

/-- A compare writes its mask register and takes its free values. -/
theorem State.vcmp_of_vReady {s : State} {p v func : Nat} (h : s.canon = true) (hr : s.vReady p v 4 func .none noChk) (g : Val → Val → Bool)
    (f : Int → Int → Bool) :
    let i := (s.vt (kVt p v)).word
    let r := (s.vt (kVt p v)).compare i s.fresh g f
    s.vcmp p v func g f = ({ s with fresh := r.2.2 } : State).updVt (kVt p v) (fun t =>
      { t with m := Map.set 0 (i.vd % 8) r.1 t.m }.ran 1 r.2.1) := by
  intro i r
  unfold State.vcmp
  rw [State.vstep_of_vReady hr]
  exact State.updVt_vnext (s := { s with fresh := r.2.2 }) h _ _ _

theorem vectorComparesAndReductions : Clauses.VectorComparesAndReductions := by
  intro s p v h k i cmp
  refine ⟨fun r => ?_, fun r => ?_, fun r => ?_, fun r => ?_, fun r => ?_, fun r => ?_⟩
  · exact next_congr (State.vcmp_of_vReady h r _ _)
  · exact next_congr (State.vcmp_of_vReady h r _ _)
  · exact next_congr (State.vcmp_of_vReady h r _ _)
  · exact next_congr (State.vstep_put h r rfl)
  · exact next_congr (State.vstep_put h r rfl)
  · exact next_congr (State.vstep_put h r rfl)

theorem vectorMovesAndConversions : Clauses.VectorMovesAndConversions := by
  intro s p v h k i w
  refine ⟨fun r hi => ?_, fun r hi => ?_, fun r => ?_, fun r => ?_, fun r => ?_, fun r => ?_, fun r => ?_⟩
  · refine next_congr ?_
    rw [State.vstep_of_vReady r]
    dsimp only
    rw [if_pos hi]
    exact State.vdest_put h 1 fun t => (t.merge i w (ofLanes w (List.replicate (4096 / w) (lane w i.imm (t.vreg i.vs1)))), 0)
  · refine next_congr ?_
    rw [State.vstep_of_vReady r]
    dsimp only
    rw [if_neg (Nat.not_lt.2 hi)]
    exact State.vdest_put (s := { s with fresh := s.fresh + 1 }) h 1
      fun t => (t.merge i w (ofLanes w (List.replicate (4096 / w) ((Config.freeValue s.fresh).toNat % 2 ^ w))), 0)
  · exact next_congr (State.vstep_put h r rfl)
  · exact next_congr (State.vstep_put h r rfl)
  · exact next_congr (State.vstep_put h r rfl)
  · exact next_congr (State.vstep_put h r rfl)
  · exact next_congr (State.vstep_put h r rfl)

/-- Settles O17. -/
theorem vectorUnaryAndLaneForms : Obligations.VectorUnaryAndLaneForms :=
  ⟨vectorSpecialFunctions, vectorComparesAndReductions, vectorMovesAndConversions⟩

/-! ## Loads and stores -/

/-- A change of one tile by several parts in turn, and what follows it. -/
theorem State.each_updVt {α : Type} (f : α → VTile → VTile) (hf : ∀ a x, Bytes.wf x.lm = true → Bytes.wf (f a x).lm = true)
    (g : VTile → VTile)
    (k : Nat) (l : List α) {s : State} (h : s.canon = true) :
    (s.each l (fun s a => s.updVt k (f a))).updVt k g = s.updVt k (fun t => g (l.foldl (fun t a => f a t) t)) := by
  unfold State.each
  induction l generalizing s with
  | nil => rfl
  | cons a l ih =>
    have ha : (s.updVt k (f a)).canon = true := ((Evolves.refl s).updVt (hf a)).canonOf ((canon_iff s).1 h)
    rw [List.foldl_cons, ih ha, State.updVt_updVt h]
    rfl

/-- The words of some lanes written to a memory from address a on. -/
def Bytes.wrLanes (m : Bytes) (a : Nat) (w : Nat → List Byte) (l : List Nat) : Bytes := l.foldl (fun m i => m.wrL (a + 4 * i) (w i)) m

theorem VTile.foldl_wrLanes (a : Nat) (w : Nat → List Byte) (l : List Nat) (x : VTile) :
    l.foldl (fun (x : VTile) i => { x with lm := x.lm.wrL (a + 4 * i) (w i) }) x = { x with lm := x.lm.wrLanes a w l } := by
  unfold Bytes.wrLanes
  induction l generalizing x with
  | nil => rfl
  | cons i l ih => exact ih _

section
variable {a : Nat} {w : Nat → List Byte} (hw : ∀ i, (w i).length = 4)
include hw

theorem Bytes.rd_wrLanes_out (m : Bytes) (c : Nat) (l : List Nat) (hc : ∀ i ∈ l, c < a + 4 * i ∨ a + 4 * i + 4 ≤ c) :
    (m.wrLanes a w l).rd c = m.rd c := by
  unfold Bytes.wrLanes
  induction l generalizing m with
  | nil => rfl
  | cons i l ih =>
    rw [List.foldl_cons, ih _ fun j hj => hc j (List.mem_cons_of_mem _ hj)]
    exact Bytes.rd_wrL_out _ _ _ _ (by rw [hw]; exact hc i List.mem_cons_self)

theorem Bytes.rd_wrLanes_in (m : Bytes) (hm : m.wf = true) (l : List Nat) (hl : l.Nodup) {i j : Nat} (hi : i ∈ l) (hj : j < 4) :
    (m.wrLanes a w l).rd (a + 4 * i + j) = (w i)[j]'(by rw [hw]; exact hj) := by
  unfold Bytes.wrLanes
  induction l generalizing m with
  | nil => cases hi
  | cons b l ih =>
    obtain ⟨hb, hl⟩ := List.nodup_cons.1 hl
    rw [List.foldl_cons]
    rcases List.mem_cons.1 hi with rfl | hi
    · have later : ∀ k ∈ l, a + 4 * i + j < a + 4 * k ∨ a + 4 * k + 4 ≤ a + 4 * i + j := fun k hk => by
        have : k ≠ i := fun e => hb (e ▸ hk)
        omega
      exact (Bytes.rd_wrLanes_out hw _ _ l later).trans (Bytes.rd_wrL_in _ _ _ _ hm _)
    · exact ih _ (Bytes.wrL_wf _ _ _ hm) hl hi

end

theorem leBytes_length (v n : Nat) : (leBytes v n).length = n := by
  induction n generalizing v with
  | zero => rfl
  | succ n ih => exact congrArg (· + 1) (ih _)

theorem leBytes_getElem (v n i : Nat) (h : i < (leBytes v n).length) : (leBytes v n)[i] = BitVec.ofNat 8 (v / 256 ^ i) := by
  induction n generalizing v i with
  | zero => exact absurd h (Nat.not_lt_zero _)
  | succ n ih =>
    cases i with
    | zero => rw [Nat.pow_zero, Nat.div_one]; rfl
    | succ i =>
      refine (ih (v / 256) i _).trans ?_
      rw [Nat.div_div_eq_div_mul, Nat.pow_succ, Nat.mul_comm]

/-- A byte of a lane of a register is the byte of the register there. -/
theorem leBytes_lane (x : BitVec 4096) {l j : Nat} (hj : j < 4) :
    BitVec.ofNat 8 (lane 32 l x / 256 ^ j) = x.extractLsb' (32 * l + 8 * j) 8 := by
  apply BitVec.eq_of_toNat_eq
  rw [BitVec.toNat_ofNat, BitVec.extractLsb'_toNat, lane, BitVec.extractLsb'_toNat, Nat.shiftRight_add]
  generalize x.toNat >>> (32 * l) = y
  have h256 : 256 ^ j = 2 ^ (8 * j) := by rw [Nat.pow_mul]
  have split32 : (2 : Nat) ^ 32 = 2 ^ (32 - 8 * j) * 2 ^ (8 * j) := by rw [← pow_add, Nat.sub_add_cancel (by omega)]
  have fits : (2 : Nat) ^ 8 ∣ 2 ^ (32 - 8 * j) := pow_dvd_pow 2 (by omega)
  rw [h256, split32, mul_comm, Nat.mod_mul_right_div_self, Nat.mod_mod_of_dvd _ fits, Nat.shiftRight_eq_div_pow]

/-- The memory after a store of the lanes that are not masked off. -/
def VTile.stored (x : VTile) (i : VI) : Bytes :=
  x.lm.wrLanes (vaddrOf x i) (fun l => leBytes (lane 32 l (x.vreg i.vs2)) 4) ((List.range 128).filter (x.act i 32))

theorem exec_vst_of_vReady {s : State} {p : PartId} {v : VtId} (h : s.canon = true)
    (r : s.vReady p.val v.val 8 1 .none (fun t i => localChk t (vaddrOf t i) 512 true)) :
    let x := s.vt (kVt p.val v.val)
    exec (.vst p v) s = .next (s.updVt (kVt p.val v.val) (fun t => { t with lm := x.stored x.word }.ran 1 0)) := by
  intro x
  refine next_congr ((State.vstep_of_vReady r).trans ?_)
  refine (State.each_updVt (fun l y => { y with lm := y.lm.wrL (vaddrOf x x.word + 4 * l) (leBytes (lane 32 l (x.vreg x.word.vs2)) 4) })
    (fun _ _ hy => Bytes.wrL_wf _ _ _ hy) (fun t => t.ran 1 0) _ _ h).trans ?_
  refine State.updVt_congr _ _ ?_
  rw [VTile.foldl_wrLanes]
  rfl

/-- Settles O18: what a store leaves in memory is what its lanes write. -/
theorem vectorLoadAndStore : Obligations.VectorLoadAndStore := by
  intro s p v h k x i
  refine ⟨fun r => next_congr (State.vstep_put h r rfl), fun r => ⟨x.stored i, exec_vst_of_vReady h r, ?_, ?_⟩⟩
  · intro l j hl hj act
    have wf : x.lm.wf = true := ((canon_iff s).1 h).vts.get rfl k
    rw [VTile.stored, Bytes.rd_wrLanes_in (fun _ => leBytes_length _ _) _ wf _ (List.nodup_range.filter _)
      (List.mem_filter.2 ⟨List.mem_range.2 hl, act⟩) hj, leBytes_getElem, leBytes_lane _ hj]
  · intro a out
    refine Bytes.rd_wrLanes_out (fun _ => leBytes_length _ _) _ _ _ fun l hl => ?_
    obtain ⟨hl, act⟩ := List.mem_filter.1 hl
    exact out l (List.mem_range.1 hl) act

/-! ## Address registers, branches, waits -/

theorem VTile.setA_areg_zero (t : VTile) (j : Nat) (x : Word64) : (t.setA j x).areg 0 = t.areg 0 := by
  unfold VTile.setA
  split
  · rfl
  · exact Map.get_set_ne _ _ _ _ _ (by omega)

theorem VTile.setA_word (t : VTile) (j : Nat) (x : Word64) : (t.setA j x).word = t.word := by
  unfold VTile.setA
  split <;> rfl

theorem vectorAddressRegisters : Clauses.VectorAddressRegisters := by
  intro s p v h k i
  refine ⟨fun r => ?_, fun r => ?_, fun r => ?_, fun r hn => ?_, fun r hn => ?_, fun r => ?_, VTile.setA_areg_zero⟩
  · exact next_congr (State.vstep_ran h r rfl rfl)
  · exact next_congr (State.vstep_ran h r rfl rfl)
  · exact next_congr (State.vstep_ran h r rfl rfl)
  · refine next_congr ((State.vstep_of_vReady r).trans ?_)
    dsimp only
    rw [if_pos hn]
    exact State.updVt_vnext h _ _ _ |>.trans (State.updVt_congr _ _ rfl)
  · refine next_congr ((State.vstep_of_vReady r).trans ?_)
    dsimp only
    rw [if_neg (Nat.not_lt.2 hn)]
    exact State.updVt_vnext (s := { s with fresh := s.fresh + 1 }) h _ _ _ |>.trans (State.updVt_congr _ _ rfl)
  · exact next_congr (State.vstep_ran h r rfl rfl)

theorem vectorControlFlow : Clauses.VectorControlFlow := by
  intro s p v h k x i next jump met
  refine ⟨fun r hz => ?_, fun r hz => ?_, fun r => ?_, fun r hm => ?_, fun r hm => ?_, fun r hm => ?_, fun r hx => ?_, fun r hx => ?_,
    fun r hx => ?_, fun r => ?_⟩
  · exact next_congr ((State.vstep_of_vReady r).trans (if_pos hz))
  · exact next_congr ((State.vstep_of_vReady r).trans (if_neg hz))
  · exact next_congr (State.vstep_of_vReady r)
  · exact next_congr ((State.vstep_of_vReady r).trans (if_pos hm))
  · exact next_congr ((State.vstep_of_vReady r).trans (if_neg (Bool.eq_false_iff.1 hm)))
  · exact next_congr ((State.vstep_of_vReady r).trans (if_pos hm))
  · exact next_congr ((State.vstep_of_vReady r).trans (if_pos (List.isEmpty_iff.2 hx)))
  · exact next_congr ((State.vstep_of_vReady r).trans (if_neg (fun e => hx (List.isEmpty_iff.1 e))))
  · exact next_congr ((State.vstep_of_vReady r).trans (if_pos (List.isEmpty_iff.2 hx)))
  · obtain ⟨-, -, opc, func, -⟩ := id r
    have listed : vListed (s.vt k).word.opc (s.vt k).word.func = true := by rw [opc, func]; rfl
    exact next_congr ((if_pos listed).trans (State.vstep_of_vReady r))

/-- Settles O19. -/
theorem vectorAddressesAndControl : Obligations.VectorAddressesAndControl := ⟨vectorAddressRegisters, vectorControlFlow⟩

/-! ## Streams, transfers and launches -/

/-- No bytes drawn take no free value. -/
theorem State.drawBytes_zero (s : State) : s.drawBytes 0 = ([], s) := rfl

/-- The tile after an SRD popped its flits. -/
def VTile.popped (q : List (BitVec 512)) (i : VI) (t : VTile) : VTile :=
  { t with
    sc := Map.set [] (streamCh i) (q.drop (streamN i)) t.sc
    scCred := Map.upd 128 (streamCh i) (fun c => c + streamN i) t.scCred
    v := Map.set 0 i.vd (t.merge i 32 (BitVec.ofNat 4096 (unchunk 512 ((q.take (streamN i)).map (fun (f : BitVec 512) => f.toNat))))) t.v }

/-- What an SRD does once its flits are popped: a stalled epilogue of the bound engine goes on. -/
def State.feedBound (s : State) (p : Nat) (e : Option Nat) : State :=
  match e with
  | none => s
  | some e => s.epiFeed p e

/-- An SRD whose flits are present pops them and lets the bound engine go on. -/
theorem State.vsrd_of_le {s : State} {p v : Nat} {i : VI} (h : s.canon = true)
    (hn : streamN i ≤ (Map.get [] (s.vt (kVt p v)).sc (streamCh i)).length) :
    s.vsrd p v (s.vt (kVt p v)) i =
      ((s.qFree (streamPool (kVt p v) (streamCh i)) (streamN i)).updVt (kVt p v) (fun t =>
        (t.popped (Map.get [] (s.vt (kVt p v)).sc (streamCh i)) i).ran 1 0)).feedBound p
        ((s.part p).meMap[vtChan (s.vt (kVt p v)).cfg (streamCh i)]?) := by
  unfold State.vsrd
  rw [if_neg (Nat.not_lt.2 hn)]
  dsimp only
  rw [State.vnext_eq, State.updVt_updVt (s := s.qFree _ _) h, State.updVt_part]
  rfl

theorem vectorStreamsAndTransfers : Clauses.VectorStreamsAndTransfers := by
  intro s p v h k x i n ch q popped go
  refine ⟨fun r hn => ?_, fun r hn => ?_, fun r hn => ?_, fun e r he hn => ?_, fun r => ?_⟩
  · exact next_congr ((State.vstep_of_vReady r).trans (State.vsrd_of_le h hn))
  · exact next_congr ((State.vstep_of_vReady r).trans (if_pos hn))
  · exact next_congr ((State.vstep_of_vReady r).trans (State.vsrd_of_le h hn))
  · refine next_congr ((State.vstep_of_vReady r).trans ?_)
    unfold State.vswr
    rw [he]
    have len : ((leBytes (x.vreg i.vs1).toNat 512).take (64 * n)).length = 64 * n := by
      rw [List.length_take, leBytes_length]
      omega
    dsimp only
    rw [len, Nat.sub_self, State.drawBytes_zero, List.append_nil]
    rfl
  · intro started
    have tail : (s.vnext p.val v.val 1 0).updVt k (fun t => { t with
        xfers := t.xfers ++ [{ d := BitVec.ofNat 256 (x.lm.rdLE (x.areg i.vs1).toNat 32) }] }) = started :=
      (State.updVt_updVt h _ _ _).trans (State.updVt_congr _ _ rfl)
    refine next_congr ((State.vstep_of_vReady r).trans ((congrArg (fun u : State =>
      if x.xfers.isEmpty then u.xferGo (uVt p.val v.val) else u) tail).trans ?_))
    simp only [List.isEmpty_iff]

section
variable {β : Type} [DecidableEq β] {d : β}

/-- A key that no write of several names keeps its entry. -/
theorem Map.get_foldl_set_ne {α : Type} (k : α → Nat) (v : α → β) (l : List α) (m : Map β) (j : Nat) (hj : ∀ a ∈ l, j ≠ k a) :
    Map.get d (l.foldl (fun m a => Map.set d (k a) (v a) m) m) j = Map.get d m j := by
  induction l generalizing m with
  | nil => rfl
  | cons a l ih =>
    rw [List.foldl_cons, ih _ fun b hb => hj b (List.mem_cons_of_mem _ hb), Map.get_set_ne _ _ _ _ _ (hj a List.mem_cons_self)]

/-- Of several writes to different keys each is read back. -/
theorem Map.get_foldl_set_mem {α : Type} (k : α → Nat) (v : α → β) (l : List α) (m : Map β) (hm : Map.wf d m = true)
    (inj : l.Pairwise (fun a b => k a ≠ k b)) {a : α} (ha : a ∈ l) :
    Map.get d (l.foldl (fun m a => Map.set d (k a) (v a) m) m) (k a) = v a := by
  induction l generalizing m with
  | nil => cases ha
  | cons b l ih =>
    obtain ⟨hb, inj⟩ := List.pairwise_cons.1 inj
    rw [List.foldl_cons]
    rcases List.mem_cons.1 ha with rfl | ha
    · rw [Map.get_foldl_set_ne k v l _ _ hb, Map.get_set_self _ _ _ _ hm]
    · exact ih _ (Map.set_wf _ _ _ _ hm) inj ha

end

/-- The address registers after a1 to a7 are written. -/
def loadedArgs (c : Cmd) (a : Map Word64) : Map Word64 :=
  (List.range 7).foldl (fun m j => Map.set 0 ((j + 1) % 16) (c.extractLsb' (64 * (j + 1)) 64) m) a

theorem VTile.foldl_setA (x : VTile) (c : Cmd) :
    (List.range 7).foldl (fun t j => t.setA (j + 1) (c.extractLsb' (64 * (j + 1)) 64)) x = { x with a := loadedArgs c x.a } := by
  unfold loadedArgs
  have h : ∀ j ∈ List.range 7, (j + 1) % 16 ≠ 0 := by decide
  generalize List.range 7 = l at h
  induction l generalizing x with
  | nil => rfl
  | cons j l ih =>
    rw [List.foldl_cons, VTile.setA, if_neg (h j List.mem_cons_self), ih _ fun i hi => h i (List.mem_cons_of_mem _ hi)]
    rfl

theorem loadedArgs_get (c : Cmd) (a : Map Word64) (ha : Map.wf 0 a = true) {j : Nat} (h0 : 0 < j) (h8 : j < 8) :
    Map.get 0 (loadedArgs c a) (j % 16) = c.extractLsb' (64 * j) 64 := by
  obtain ⟨i, rfl⟩ := Nat.exists_eq_succ_of_ne_zero (Nat.pos_iff_ne_zero.1 h0)
  exact Map.get_foldl_set_mem (fun j => (j + 1) % 16) _ _ _ ha (by decide) (List.mem_range.2 (by omega))

/-- What a launch leaves of its tile. -/
def VTile.launched (c : Cmd) (t : VTile) : VTile :=
  { t with queue := t.queue.drop 1, launch := some { cmd := c }, pc := bits c 47 32, wait := .none, a := loadedArgs c t.a }

theorem exec_vlaunch {s : State} {p : PartId} {v : VtId} {c : Cmd} (h : s.canon = true) (head : s.headCmd (uVt p.val v.val) = some c)
    (op : cOp c = 0x10) (ok : s.vtCode p.val v.val c = 0) :
    exec (.vlaunch p v) s = .next (s.updVt (kVt p.val v.val) (VTile.launched c)) := by
  have pop : s.popHead (uVt p.val v.val) = s.updVt (kVt p.val v.val) (fun x => { x with queue := x.queue.drop 1 }) := by
    unfold State.popHead
    rw [ukind_uVt]
  refine next_congr ?_
  dsimp only
  rw [head]
  dsimp only
  rw [if_neg (not_not_intro op), ok, if_neg (not_not_intro rfl), pop, State.updVt_updVt h]
  refine State.updVt_congr _ _ ?_
  rw [VTile.foldl_setA]
  rfl

theorem launchesAndFlits : Clauses.LaunchesAndFlits := by
  intro s p v h k u
  refine ⟨fun c head op ok ha => ?_, fun l launch ended xfers run => ?_, fun ch f r fly => ?_⟩
  · refine ⟨_, exec_vlaunch h head op ok, ?_⟩
    rw [State.vt_updVt_self h]
    exact ⟨rfl, rfl, rfl, rfl, fun j h0 h8 => loadedArgs_get c _ ha h0 h8, rfl, rfl, rfl, rfl, fun j hj => State.vt_updVt_ne _ _ _ _ hj⟩
  · refine next_congr ?_
    unfold State.endLaunch
    dsimp only
    rw [launch]
    dsimp only
    rw [ended, xfers, run]
    rfl
  · refine next_congr (State.updVt_congr _ _ ?_)
    rw [fly]

/-- Settles O20. -/
theorem vectorStreamsAndLaunches : Obligations.VectorStreamsAndLaunches := ⟨vectorStreamsAndTransfers, launchesAndFlits⟩

end Sys2Proof.Machine
end

section
/-!
SUPPORT. Matrix-engine commands (chapter 3): what leaves the head of a queue, what completes, what a unit runs, and the obligations about
an engine's queue and units.
-/

namespace Sys2Proof.Machine

/-! ## The head of an engine's queue -/

theorem State.popHead_uEng (s : State) (p : PartId) (e : EngId) :
    s.popHead (uEng p.val e.val) = s.updEng (kEng p.val e.val) (fun x => { x with queue := x.queue.drop 1 }) := by
  unfold State.popHead
  rw [ukind_uEng]

/-- A head command that is asked for, may leave and passes its checks is accepted. -/
theorem State.leave_of_engReady {s : State} {p : PartId} {e : EngId} {c : Cmd} {want : Cmd → Bool} (r : s.engReady p.val e.val c)
    (hw : want c = true) :
    s.leave p.val e.val want = (s.updEng (kEng p.val e.val) (fun x => { x with queue := x.queue.drop 1 })).accept p.val e.val c := by
  obtain ⟨head, may, ok⟩ := r
  unfold State.leave
  dsimp only
  rw [head]
  dsimp only
  rw [hw, may, ok, State.popHead_uEng]
  rfl

/-- A head command that is asked for, may leave and fails a check is refused. -/
theorem State.leave_of_refused {s : State} {p : PartId} {e : EngId} {c : Cmd} {want : Cmd → Bool}
    (head : s.headCmd (uEng p.val e.val) = some c) (may : (s.engine (kEng p.val e.val)).canLeave c = true)
    (bad : s.engCode p.val e.val c ≠ 0) (hw : want c = true) :
    s.leave p.val e.val want =
      (s.updEng (kEng p.val e.val) (fun x => { x with queue := x.queue.drop 1 })).refuse (uEng p.val e.val) c (s.engCode p.val e.val c) 0 := by
  unfold State.leave
  dsimp only
  rw [head]
  dsimp only
  rw [hw, may, Bool.and_self, if_pos rfl, if_neg bad, State.popHead_uEng]

theorem State.leaveHead_uEng (s : State) (p : PartId) (e : EngId) (want : Cmd → Bool) :
    s.leaveHead (uEng p.val e.val) want = s.leave p.val e.val want := by
  unfold State.leaveHead
  rw [ukind_uEng]

theorem State.setLive_uEng (s : State) (p : PartId) (e : EngId) (c : Cmd) :
    s.setLive (uEng p.val e.val) c =
      s.updEng (kEng p.val e.val) (fun x => { x with lmap := Map.set {} (liveEntry c) (liveOf c) x.lmap }) := by
  unfold State.setLive
  rw [ukind_uEng]

/-! ## A command that passed its checks -/

section
variable {s : State} {p : PartId} {e : EngId} {c : Cmd}

/-- The run of a command dispatched now. -/
abbrev Engine.runOf (x : Engine) (c : Cmd) : Run := { cmd := c, seq := x.seq }

/-- A command of a unit that is accepted at the head: its engine is past the head, changed as the unit says. -/
theorem State.updEng_accepted (h : s.canon = true) (k : Nat) (unit : ¬(cUnit c = .dma ∧ cOp c ≠ 4 ∧ cOp c ≠ 5))
    (f : Run → Engine → Engine) :
    let t := s.updEng k (fun x => { x with queue := x.queue.drop 1 })
    let d := (t.engine k).dispatch ((t.engine k).runOf c)
    let d' := (s.engine k).dispatch ((s.engine k).runOf c)
    (t.updEng k (fun _ => { (if cUnit c = .dma ∧ cOp c ≠ 4 ∧ cOp c ≠ 5 then t.engine k else d.1) with seq := (t.engine k).seq + 1 })).updEng k
      (f d.2) = s.updEng k (fun _ => f d'.2 d'.1.took) := by
  intro t d d'
  have eng : t.engine k = { s.engine k with queue := (s.engine k).queue.drop 1 } := State.engine_updEng_self h _ _
  have second : d.2 = d'.2 := by
    unfold d d'
    rw [eng]
    rfl
  have first : { d.1 with seq := (t.engine k).seq + 1 } = d'.1.took := by
    unfold d d'
    rw [eng]
    rfl
  rw [if_neg unit, first, second, State.updEng_updEng (Evolves.updEng (.refl s) |>.canonOf ((canon_iff s).1 h)), State.updEng_updEng h]

/-- An accepted command becomes the pending one of its unit. -/
def Engine.toUnit (c : Cmd) (r : Run) (x : Engine) : Engine :=
  match cOp c with
  | 1 => Engine.left { x with arr := { x.arr with pend := some r } } c
  | 3 => Engine.left { x with arr := { x.arr with pend := some r } } c
  | 2 => Engine.left { x with epi := { x.epi with pend := some r } } c
  | _ => { x with dma := { x.dma with pend := some r } }

/-- MMA, ACCLD, EPI, DMA and NSEND that are accepted at the head go to their unit. -/
theorem State.accept_unit (h : s.canon = true) (op : cOp c = 1 ∨ cOp c = 2 ∨ cOp c = 3 ∨ cOp c = 4 ∨ cOp c = 5) :
    let d := (s.engine (kEng p.val e.val)).dispatch ((s.engine (kEng p.val e.val)).runOf c)
    (s.updEng (kEng p.val e.val) (fun x => { x with queue := x.queue.drop 1 })).accept p.val e.val c =
      (s.updEng (kEng p.val e.val) (fun _ => d.1.took.toUnit c d.2)).startUnits p.val e.val := by
  intro d
  have unit : ¬(cUnit c = .dma ∧ cOp c ≠ 4 ∧ cOp c ≠ 5) := by
    unfold cUnit
    rcases op with op | op | op | op | op <;> rw [op] <;> decide
  rw [← State.updEng_accepted h _ unit (fun r x => x.toUnit c r)]
  unfold State.accept Engine.toUnit
  generalize cOp c = o at op ⊢
  rcases op with rfl | rfl | rfl | rfl | rfl <;> rfl

/-- The head commands need no unit. -/
theorem cUnit_of_head (op : cOp c = 0 ∨ cOp c = 6 ∨ cOp c = 7) : cUnit c = .dma ∧ cOp c ≠ 4 ∧ cOp c ≠ 5 := by
  unfold cUnit
  rcases op with op | op | op <;> rw [op] <;> decide

/-- An accepted head command moves its engine past the head. -/
theorem State.updEng_took (h : s.canon = true) (k : Nat) (head : cUnit c = .dma ∧ cOp c ≠ 4 ∧ cOp c ≠ 5) :
    let t := s.updEng k (fun x => { x with queue := x.queue.drop 1 })
    t.updEng k (fun _ => { (if cUnit c = .dma ∧ cOp c ≠ 4 ∧ cOp c ≠ 5 then t.engine k else
      ((t.engine k).dispatch ((t.engine k).runOf c)).1) with seq := (t.engine k).seq + 1 }) = s.updEng k Engine.took := by
  intro t
  rw [if_pos head, State.updEng_updEng h]
  refine State.updEng_congr _ _ ?_
  rw [show t.engine k = _ from State.engine_updEng_self h _ _]
  rfl

/-- NOP and WAIT that are accepted complete at the head. -/
theorem State.accept_done (h : s.canon = true) (op : cOp c = 0 ∨ cOp c = 6) :
    (s.updEng (kEng p.val e.val) (fun x => { x with queue := x.queue.drop 1 })).accept p.val e.val c =
      (s.updEng (kEng p.val e.val) Engine.took).complete (uEng p.val e.val) c 0 0 0 := by
  rw [← State.updEng_took h _ (cUnit_of_head (c := c) (by omega))]
  unfold State.accept
  generalize cOp c = o at op ⊢
  rcases op with rfl | rfl <;> rfl

/-- A LIVE that is accepted writes its live-map entry and completes at the head. -/
theorem State.accept_live (h : s.canon = true) (op : cOp c = 7) :
    (s.updEng (kEng p.val e.val) (fun x => { x with queue := x.queue.drop 1 })).accept p.val e.val c =
      (s.updEng (kEng p.val e.val) (fun x => { x.took with lmap := Map.set {} (liveEntry c) (liveOf c) x.lmap })).complete
        (uEng p.val e.val) c 0 0 0 := by
  have entry : (s.updEng (kEng p.val e.val) Engine.took).setLive (uEng p.val e.val) c =
      s.updEng (kEng p.val e.val) (fun x => { x.took with lmap := Map.set {} (liveEntry c) (liveOf c) x.lmap }) := by
    rw [State.setLive_uEng, State.updEng_updEng h]
    rfl
  rw [← entry, ← State.updEng_took h _ (cUnit_of_head (c := c) (by omega))]
  unfold State.accept
  generalize cOp c = o at op ⊢
  subst op
  rfl

end

theorem engineHeadCommandsComplete : Clauses.EngineHeadCommandsComplete := by
  intro s p e u c h hu r
  rw [hu]
  have hd (want : Cmd → Bool) (hw : want c = true) : s.leaveHead u.val want = _ :=
    (congrArg (s.leaveHead · want) hu).trans ((s.leaveHead_uEng p e want).trans (State.leave_of_engReady r hw))
  refine ⟨fun op => ?_, fun op => ⟨?_, ?_⟩, fun op => ?_⟩
  · refine next_congr ((hd _ ?_).trans (State.accept_done h (.inl op)))
    rw [hu, ukind_uEng, op]
    rfl
  · exact next_congr ((hd _ (by simp [op])).trans (State.accept_done h (.inr op)))
  · exact next_congr ((hd _ (by simp [op])).trans (State.accept_done h (.inr op)))
  · exact next_congr ((hd _ (by simp [op])).trans (State.accept_live h op))

theorem engineCommandsGoToTheirUnit : Clauses.EngineCommandsGoToTheirUnit := by
  intro s p e c h r k d run dma
  have goes (want : Cmd → Bool) (hw : want c = true) (op : cOp c = 1 ∨ cOp c = 2 ∨ cOp c = 3 ∨ cOp c = 4 ∨ cOp c = 5) {x : Engine}
      (hx : d.1.took.toUnit c d.2 = x) : s.leave p.val e.val want = (s.updEng k (fun _ => x)).startUnits p.val e.val := by
    rw [State.leave_of_engReady r hw, State.accept_unit h op, ← hx]
  have toDma (op : cOp c = 4 ∨ cOp c = 5) : d.1.took.toUnit c d.2 = { d.1.took with dma := { d.1.dma with pend := some run } } := by
    unfold Engine.toUnit
    rcases op with op | op <;> rw [op] <;> rfl
  refine ⟨fun op => ?_, fun op => ?_, fun op rel => ?_, fun op rel => ?_, fun op dop => ?_, fun op dop => ?_, fun op dop => ?_,
    fun op dop => ?_, fun op dop => ?_, fun op => ?_⟩
  · refine next_congr (goes _ (by simp [op]) (by simp [op]) ?_)
    unfold Engine.toUnit Engine.left
    rw [op]
    rfl
  · refine next_congr (goes _ (by simp [op]) (by simp [op]) ?_)
    unfold Engine.toUnit Engine.left
    rw [op]
    rfl
  · refine next_congr (goes _ (by simp [op]) (by simp [op]) ?_)
    unfold Engine.toUnit Engine.left
    rw [op]
    exact if_neg (Bool.eq_false_iff.1 rel)
  · refine next_congr (goes _ (by simp [op]) (by simp [op]) ?_)
    unfold Engine.toUnit Engine.left
    rw [op]
    exact if_pos rel
  · exact next_congr (goes _ (by simp [op, dop]) (by simp [op]) (toDma (.inl op)))
  · exact next_congr (goes _ (by simp [op, dop]) (by simp [op]) (toDma (.inl op)))
  · exact next_congr (goes _ (by simp [op, dop]) (by simp [op]) (toDma (.inl op)))
  · exact next_congr (goes _ (by simp [op, dop]) (by simp [op]) (toDma (.inl op)))
  · exact next_congr (goes _ (by simp [op, dop]) (by simp [op]) (toDma (.inl op)))
  · exact next_congr (goes _ (by simp [op]) (by simp [op]) (toDma (.inr op)))

/-! ## Pending commands start -/

/-- The array's part of the start of pending commands. -/
def State.startArr (s : State) (p e : Nat) : State :=
  match (s.engine (kEng p e)).arr.exe, (s.engine (kEng p e)).arr.pend with
  | none, some r =>
    if (s.engine (kEng p e)).slotFree r && !(decide ((s.engine (kEng p e)).soft = Soft.hold) && cOp r.cmd == 1) then
      (s.updEng (kEng p e) (fun y => { y with arr := {} })).runArr p e r
    else s
  | _, _ => s

/-- The epilogue unit's part of the start of pending commands. -/
def State.startEpi (s : State) (p e : Nat) : State :=
  match (s.engine (kEng p e)).epi.exe, (s.engine (kEng p e)).epi.pend with
  | none, some r =>
    if (s.engine (kEng p e)).slotFree r then (s.updEng (kEng p e) (fun y => { y with epi := {} })).runEpi p e r else s
  | _, _ => s

/-- The DMA unit's part of the start of pending commands. -/
def State.startDma (s : State) (p e : Nat) : State :=
  match (s.engine (kEng p e)).dma.exe, (s.engine (kEng p e)).dma.pend with
  | none, some r => (s.updEng (kEng p e) (fun y => { y with dma := {} })).runDma p e r
  | _, _ => s

section
variable {s : State} {p e : Nat}

theorem State.startUnits_eq :
    s.startUnits p e = if (s.unit (uEng p e)).st ≠ .run then s else ((s.startArr p e).startEpi p e).startDma p e := rfl

theorem State.startArr_idle (pend : (s.engine (kEng p e)).arr.pend = none) : s.startArr p e = s := by
  unfold State.startArr
  rw [pend]
  cases (s.engine (kEng p e)).arr.exe <;> rfl

theorem State.startEpi_idle (pend : (s.engine (kEng p e)).epi.pend = none) : s.startEpi p e = s := by
  unfold State.startEpi
  rw [pend]
  cases (s.engine (kEng p e)).epi.exe <;> rfl

theorem State.startDma_idle (pend : (s.engine (kEng p e)).dma.pend = none) : s.startDma p e = s := by
  unfold State.startDma
  rw [pend]
  cases (s.engine (kEng p e)).dma.exe <;> rfl

/-- Units that nothing waits for start nothing. -/
theorem State.startUnits_idle (arr : (s.engine (kEng p e)).arr.pend = none) (epi : (s.engine (kEng p e)).epi.pend = none)
    (dma : (s.engine (kEng p e)).dma.pend = none) : s.startUnits p e = s := by
  rw [State.startUnits_eq, State.startArr_idle arr, State.startEpi_idle epi, State.startDma_idle dma, ite_self]

/-- With the other units idle and no hold, the command that waits for the array starts in it. -/
theorem State.startUnits_arr (h : s.canon = true) {r : Run} (run : (s.unit (uEng p e)).st = .run)
    (arr : (s.engine (kEng p e)).arr = { pend := some r }) (epi : (s.engine (kEng p e)).epi = {}) (dma : (s.engine (kEng p e)).dma = {})
    (soft : (s.engine (kEng p e)).soft ≠ .hold) (op : cOp r.cmd ≠ 2) :
    s.startUnits p e = s.updEng (kEng p e) (fun x => { x with soft := .none, arr := { exe := some { r with done := 0 } } }) := by
  have free : (s.engine (kEng p e)).slotFree r = true := by
    unfold Engine.slotFree
    rw [epi, if_neg op]
    rfl
  have started : s.startArr p e = s.updEng (kEng p e) (fun x => { x with soft := .none, arr := { exe := some { r with done := 0 } } }) := by
    unfold State.startArr
    rw [arr]
    dsimp only
    rw [free, decide_eq_false soft]
    refine (State.updEng_updEng h _ _ _).trans (State.updEng_congr _ _ ?_)
    simp only [if_neg soft]
  have eng := State.engine_updEng_self h (kEng p e) (fun x => { x with soft := .none, arr := { exe := some { r with done := 0 } } })
  rw [State.startUnits_eq, if_neg (not_not_intro run), started, State.startEpi_idle (by rw [eng, epi]), State.startDma_idle (by rw [eng, dma])]

end

/-- A command that is dispatched while the units hold nothing shares no row. -/
theorem Engine.dispatch_idle {x : Engine} (arr : x.arr = {}) (epi : x.epi = {}) (dma : x.dma = {}) (r : Run) : x.dispatch r = (x, r) := by
  cases x
  subst arr epi dma
  rfl

/-- With idle units and no hold, an MMA or ACCLD that passes the checks starts in the array. -/
theorem State.leave_array {s : State} {p : PartId} {e : EngId} {c : Cmd} {slot : Nat} {want : Cmd → Bool} (h : s.canon = true)
    (r : s.engReady p.val e.val c) (hw : want c = true) (op : cOp c = 1 ∨ cOp c = 3)
    (arr : (s.engine (kEng p.val e.val)).arr = {}) (epi : (s.engine (kEng p.val e.val)).epi = {})
    (dma : (s.engine (kEng p.val e.val)).dma = {}) (soft : (s.engine (kEng p.val e.val)).soft ≠ .hold)
    (run : (s.unit (uEng p.val e.val)).st = .run)
    (goes : ∀ (r : Run) (y : Engine), y.toUnit c r = { y with arr := { y.arr with pend := some r } }.uses slot true) :
    s.leave p.val e.val want = s.updEng (kEng p.val e.val) (fun x =>
      { x.took.uses slot true with soft := .none, arr := { exe := some (x.runOf c) } }) := by
  have pends : (s.updEng (kEng p.val e.val) (fun _ => (s.engine (kEng p.val e.val)).took.toUnit c ((s.engine (kEng p.val e.val)).runOf c))) =
      s.updEng (kEng p.val e.val) (fun x => { x.took.uses slot true with arr := { x.arr with pend := some (x.runOf c) } }) :=
    State.updEng_congr _ _ (goes _ _)
  have eng := State.engine_updEng_self h (kEng p.val e.val) (fun x =>
    { x.took.uses slot true with arr := { x.arr with pend := some (x.runOf c) } })
  rw [State.leave_of_engReady r hw, State.accept_unit h (by omega), Engine.dispatch_idle arr epi dma, pends,
    State.startUnits_arr (r := (s.engine (kEng p.val e.val)).runOf c) (Evolves.updEng (.refl s) |>.canonOf ((canon_iff s).1 h)) run
      (by rw [eng, arr]) (by rw [eng]; exact epi) (by rw [eng]; exact dma) (by rw [eng]; exact soft)
      (show cOp c ≠ 2 by omega), State.updEng_updEng h]
  exact State.updEng_congr _ _ rfl

theorem Engine.toUnit_mma {c : Cmd} (op : cOp c = 1) (r : Run) (y : Engine) :
    y.toUnit c r = { y with arr := { y.arr with pend := some r } }.uses (mmaOf c).slot true := by
  unfold Engine.toUnit Engine.left
  rw [op]
  rfl

theorem Engine.toUnit_accld {c : Cmd} (op : cOp c = 3) (r : Run) (y : Engine) :
    y.toUnit c r = { y with arr := { y.arr with pend := some r } }.uses (ldSlot c) true := by
  unfold Engine.toUnit Engine.left
  rw [op]
  rfl

theorem arrayCommandsStart : Clauses.ArrayCommandsStart := by
  intro s p e c h r x go arr epi dma soft run
  refine ⟨fun op => ?_, fun op => ?_⟩
  · exact next_congr ((State.leave_array h r (by simp [op]) (.inl op) arr epi dma soft run (Engine.toUnit_mma op)).trans
      (State.updEng_congr _ _ rfl))
  · exact next_congr ((State.leave_array h r (by simp [op]) (.inr op) arr epi dma soft run (Engine.toUnit_accld op)).trans
      (State.updEng_congr _ _ rfl))

/-- Settles O10. -/
theorem engineCommandsIssue : Obligations.EngineCommandsIssue :=
  ⟨engineHeadCommandsComplete, engineCommandsGoToTheirUnit, arrayCommandsStart⟩

/-! ## Completion -/

section
variable {s : State} {p : PartId} {e : EngId}

theorem State.advCnt_uEng (s : State) (p : PartId) (e : EngId) (i : Nat) :
    s.advCnt (uEng p.val e.val) i = s.updEng (kEng p.val e.val) (fun x => { x with cnt := Map.upd 0 i (fun v => v + 1) x.cnt }) := by
  unfold State.advCnt
  rw [ukind_uEng]

theorem State.creditBack_uEng (s : State) (p : PartId) (e : EngId) :
    s.creditBack (uEng p.val e.val) =
      (s.qFree (queuePool (uEng p.val e.val)) 1).updEng (kEng p.val e.val) (fun x => { x with cred := x.cred + 1 }) := by
  unfold State.creditBack
  rw [ukind_uEng]

theorem State.issuer_uEng (s : State) (p : PartId) (e : EngId) :
    s.issuer (uEng p.val e.val) = kSt p.val (bits (s.engine (kEng p.val e.val)).cfg 7 0) := by
  unfold State.issuer
  rw [ukind_uEng]

/-- A completion is counted at the issuer and in the command's counter. -/
def State.counted (s : State) (u : Nat) (c : Cmd) (code : Nat) : State :=
  if cCntEn c ∧ (code = 0 ∨ code = 0xF) then (s.updSt (s.issuer u) (fun t => { t with completed := t.completed + 1 })).advCnt u (cCnt c)
  else s.updSt (s.issuer u) (fun t => { t with completed := t.completed + 1 })

/-- A counted completion either posts its record or gives its credit back. -/
theorem State.complete_eq (s : State) (u : Nat) (c : Cmd) (code : Nat) (fl : Byte) (amax : Word32) :
    s.complete u c code fl amax = if cEvent c ∨ code ≠ 0 then (s.counted u c code).post u (doneRec c code fl amax)
      else (s.counted u c code).creditBack u := rfl

theorem State.canon_counted (h : s.canon = true) (u : Nat) (c : Cmd) (code : Nat) : (s.counted u c code).canon = true := by
  unfold State.counted
  split
  · exact (Evolves.refl s).updSt.advCnt.canonOf ((canon_iff s).1 h)
  · exact (Evolves.refl s).updSt.canonOf ((canon_iff s).1 h)

theorem State.net_counted (s : State) (p : PartId) (e : EngId) (c : Cmd) (code : Nat) : (s.counted (uEng p.val e.val) c code).net = s.net := by
  unfold State.counted
  rw [State.advCnt_uEng]
  split <;> rfl

theorem State.engine_counted (h : s.canon = true) (p : PartId) (e : EngId) (c : Cmd) (code : Nat) :
    (s.counted (uEng p.val e.val) c code).engine (kEng p.val e.val) = { s.engine (kEng p.val e.val) with
      cnt := if cCntEn c = true ∧ (code = 0 ∨ code = 0xF) then Map.upd 0 (cCnt c) (fun v => v + 1) (s.engine (kEng p.val e.val)).cnt
        else (s.engine (kEng p.val e.val)).cnt } := by
  unfold State.counted
  split
  · rw [State.advCnt_uEng, State.engine_updEng_self ((Evolves.refl s).updSt.canonOf ((canon_iff s).1 h))]
    rfl
  · rfl

theorem State.tile_counted (h : s.canon = true) (p : PartId) (e : EngId) (c : Cmd) (code : Nat) :
    (s.counted (uEng p.val e.val) c code).tile (s.issuer (uEng p.val e.val)) =
      { s.tile (s.issuer (uEng p.val e.val)) with completed := (s.tile (s.issuer (uEng p.val e.val))).completed + 1 } := by
  unfold State.counted
  rw [State.advCnt_uEng]
  split
  · rw [State.updEng_tile, State.tile_updSt_self h]
  · rw [State.tile_updSt_self h]

theorem State.issuer_counted (h : s.canon = true) (p : PartId) (e : EngId) (c : Cmd) (code : Nat) :
    (s.counted (uEng p.val e.val) c code).issuer (uEng p.val e.val) = s.issuer (uEng p.val e.val) := by
  rw [State.issuer_uEng, State.issuer_uEng, State.engine_counted h]

theorem State.engine_creditBack (h : s.canon = true) (p : PartId) (e : EngId) :
    (s.creditBack (uEng p.val e.val)).engine (kEng p.val e.val) =
      { s.engine (kEng p.val e.val) with cred := (s.engine (kEng p.val e.val)).cred + 1 } := by
  rw [State.creditBack_uEng, State.engine_updEng_self ((Evolves.refl s).qFree.canonOf ((canon_iff s).1 h))]
  rfl

theorem State.tile_creditBack (s : State) (p : PartId) (e : EngId) (k : Nat) : (s.creditBack (uEng p.val e.val)).tile k = s.tile k := by
  rw [State.creditBack_uEng]
  rfl

/-- With a posting credit whose pool is not being counted, a record goes to the issuer's event queue. -/
theorem State.post_of_credit (c : 0 < (s.tile (s.issuer (uEng p.val e.val))).evCred)
    (free : (s.pool (eventPool (s.issuer (uEng p.val e.val)))).resolving = false) (r : BitVec 128) :
    s.post (uEng p.val e.val) r = (s.pushEvent (s.issuer (uEng p.val e.val)) r).creditBack (uEng p.val e.val) :=
  if_pos ⟨c, by rw [free]; rfl⟩

/-- Otherwise the engine holds the record. -/
theorem State.post_held (c : ¬(0 < (s.tile (s.issuer (uEng p.val e.val))).evCred ∧ !(s.pool (eventPool (s.issuer (uEng p.val e.val)))).resolving))
    (r : BitVec 128) :
    s.post (uEng p.val e.val) r = s.updEng (kEng p.val e.val) (fun x => { x with posts := x.posts ++ [r] }) := by
  refine (if_neg c).trans ?_
  rw [ukind_uEng]

theorem State.pushEvent_of_credit {k : Nat} (c : 0 < (s.tile k).evCred) (r : BitVec 128) :
    s.pushEvent k r = (s.qUse (eventPool k) 1).updSt k (fun t => { t with evq := t.evq ++ [r], evCred := t.evCred - 1 }) := if_pos c

theorem State.engine_pushEvent (s : State) (i k : Nat) (r : BitVec 128) : (s.pushEvent i r).engine k = s.engine k := by
  unfold State.pushEvent
  split <;> rfl

end

/-- The three ways a completion ends: the credit goes back; the record goes to the event queue; the engine holds the record. -/
theorem State.complete_cases (s : State) (p : PartId) (e : EngId) (c : Cmd) (code : Nat) (fl : Byte) (amax : Word32) (h : s.canon = true) :
    let u := uEng p.val e.val
    let i := s.issuer u
    let w := s.counted u c code
    let r := doneRec c code fl amax
    (cEvent c = false ∧ code = 0 ∧ s.complete u c code fl amax = w.creditBack u) ∨
    ((cEvent c = true ∨ code ≠ 0) ∧ 0 < (s.tile i).evCred ∧
      s.complete u c code fl amax = ((w.qUse (eventPool i) 1).updSt i (fun t => { t with evq := t.evq ++ [r], evCred := t.evCred - 1 })).creditBack u) ∨
    ((cEvent c = true ∨ code ≠ 0) ∧ ((s.tile i).evCred = 0 ∨ (s.pool (eventPool i)).resolving = true) ∧
      s.complete u c code fl amax = w.updEng (kEng p.val e.val) (fun x => { x with posts := x.posts ++ [r] })) := by
  intro u i w r
  have iss : w.issuer u = i := State.issuer_counted h p e c code
  have cred : (w.tile i).evCred = (s.tile i).evCred := by
    rw [show w.tile i = _ from State.tile_counted h p e c code]
  have pool : w.pool (eventPool i) = s.pool (eventPool i) := by
    unfold State.pool
    rw [show w.net = s.net from State.net_counted s p e c code]
  rw [State.complete_eq]
  by_cases ev : cEvent c = true ∨ code ≠ 0
  · rw [if_pos ev]
    by_cases cr : 0 < (s.tile i).evCred ∧ (s.pool (eventPool i)).resolving = false
    · refine .inr (.inl ⟨ev, cr.1, ?_⟩)
      rw [State.post_of_credit (by rw [iss, cred]; exact cr.1) (by rw [iss, pool]; exact cr.2), iss,
        State.pushEvent_of_credit (by rw [cred]; exact cr.1)]
    · refine .inr (.inr ⟨ev, ?_, State.post_held ?_ _⟩)
      · by_cases z : 0 < (s.tile i).evCred
        · exact .inr (Bool.of_not_eq_false fun f => cr ⟨z, f⟩)
        · exact .inl (Nat.eq_zero_of_not_pos z)
      · rw [iss, cred, pool]
        exact fun k => cr ⟨k.1, by simpa using k.2⟩
  · rw [if_neg ev]
    exact .inl ⟨by simpa using fun t => ev (.inl t), not_not.1 fun z => ev (.inr z), rfl⟩

/-- Settles O13. -/
theorem completionRule : Obligations.CompletionRule := by
  intro s p e c code fl amax h k u i t
  have hc := State.canon_counted h u c code
  have tile : (s.counted u c code).tile i = { s.tile i with completed := (s.tile i).completed + 1 } := State.tile_counted h p e c code
  have eng := State.engine_counted h p e c code
  obtain ⟨ev, cd, eq⟩ | ⟨ev, cr, eq⟩ | ⟨ev, cr, eq⟩ := State.complete_cases s p e c code fl amax h
  · have te : t.engine k = _ := (congrArg (State.engine · k) eq).trans (State.engine_creditBack hc p e)
    have tt : t.tile i = _ := (congrArg (State.tile · i) eq).trans (State.tile_creditBack _ p e i)
    rw [te, tt, eng, tile]
    refine ⟨rfl, rfl, fun _ _ => ⟨rfl, rfl⟩, fun n => ?_, fun n => ?_⟩
    · exact absurd n (by simp [ev, cd])
    · exact absurd n (by simp [ev, cd])
  · have hq : (((s.counted u c code).qUse (eventPool i) 1).updSt i (fun t =>
        { t with evq := t.evq ++ [doneRec c code fl amax], evCred := t.evCred - 1 })).canon = true :=
      (Evolves.refl (s.counted u c code)).qUse.updSt.canonOf ((canon_iff _).1 hc)
    have te : t.engine k = { (s.counted u c code).engine k with cred := ((s.counted u c code).engine k).cred + 1 } :=
      (congrArg (State.engine · k) eq).trans (State.engine_creditBack hq p e)
    have tt : t.tile i = { (s.counted u c code).tile i with
        evq := ((s.counted u c code).tile i).evq ++ [doneRec c code fl amax], evCred := ((s.counted u c code).tile i).evCred - 1 } :=
      (congrArg (State.tile · i) eq).trans ((State.tile_creditBack _ p e i).trans (State.tile_updSt_self (s := (s.counted u c code).qUse _ _) hc i _))
    rw [te, tt, eng, tile]
    refine ⟨rfl, rfl, fun e0 c0 => ?_, fun _ _ _ => ⟨rfl, rfl, rfl⟩, fun _ z => absurd z (Nat.ne_of_gt cr)⟩
    exact absurd ev (by simp [e0, c0])
  · have te : t.engine k = { (s.counted u c code).engine k with posts := ((s.counted u c code).engine k).posts ++ [doneRec c code fl amax] } :=
      (congrArg (State.engine · k) eq).trans (State.engine_updEng_self hc _ _)
    have tt : t.tile i = (s.counted u c code).tile i := (congrArg (State.tile · i) eq).trans (State.updEng_tile _ _ _ _)
    rw [te, tt, eng, tile]
    refine ⟨rfl, rfl, fun e0 c0 => ?_, fun _ pos free => ?_, fun _ z => ⟨rfl, rfl⟩⟩
    · exact absurd ev (by simp [e0, c0])
    · exact cr.elim (fun z => absurd z (Nat.ne_of_gt pos)) (fun z => absurd z (Bool.eq_false_iff.1 free))

/-- A completion changes nothing of its engine but the counter, the credits and the held records. -/
theorem State.engine_complete {s : State} (h : s.canon = true) (p : PartId) (e : EngId) (c : Cmd) (code : Nat) (fl : Byte) (amax : Word32) :
    ∃ cnt cred posts, (s.complete (uEng p.val e.val) c code fl amax).engine (kEng p.val e.val) =
      { s.engine (kEng p.val e.val) with cnt := cnt, cred := cred, posts := posts } := by
  have hc := State.canon_counted h (uEng p.val e.val) c code
  have eng := State.engine_counted h p e c code
  obtain ⟨-, -, eq⟩ | ⟨-, -, eq⟩ | ⟨-, -, eq⟩ := State.complete_cases s p e c code fl amax h
  · rw [eq, State.engine_creditBack hc p e, eng]
    exact ⟨_, _, _, rfl⟩
  · rw [eq, State.engine_creditBack (Evolves.updSt (.qUse (.refl _)) |>.canonOf ((canon_iff _).1 hc)) p e, State.updSt_engine,
      show ∀ t : State, ∀ i n k, (t.qUse i n).engine k = t.engine k from fun _ _ _ _ => rfl, eng]
    exact ⟨_, _, _, rfl⟩
  · rw [eq, State.engine_updEng_self hc, eng]
    exact ⟨_, _, _, rfl⟩

/-! ## Refusal -/

theorem State.capture_uEng (s : State) (p : PartId) (e : EngId) (c : Cmd) (code pc : Nat) :
    s.capture (uEng p.val e.val) c code pc = s.updEng (kEng p.val e.val) (fun x => { x with
      halted := true
      cmdErr := if x.halted then x.cmdErr else BitVec.ofNat 64 (fld 48 (cTag c) + fld 40 (cOp c) + fld 36 code + fld 16 pc) }) := by
  unfold State.capture
  rw [ukind_uEng]

/-- An engine whose head command was refused with the capture w. -/
def Engine.refused (w : Word64) (x : Engine) : Engine :=
  { x with queue := x.queue.drop 1, halted := true, cmdErr := if x.halted then x.cmdErr else w }

theorem State.refuse_popped {s : State} (h : s.canon = true) (p : PartId) (e : EngId) (c : Cmd) (code pc : Nat) :
    (s.updEng (kEng p.val e.val) (fun x => { x with queue := x.queue.drop 1 })).refuse (uEng p.val e.val) c code pc =
      (s.updEng (kEng p.val e.val) (Engine.refused (BitVec.ofNat 64 (fld 48 (cTag c) + fld 40 (cOp c) + fld 36 code + fld 16 pc)))).complete
        (uEng p.val e.val) c code 0 0 := by
  unfold State.refuse
  rw [State.capture_uEng, State.updEng_updEng h]
  rfl

/-- A command stands at the head of a queue that is not halted. -/
theorem State.headCmd_halted {s : State} {p : PartId} {e : EngId} {c : Cmd} (head : s.headCmd (uEng p.val e.val) = some c) :
    (s.engine (kEng p.val e.val)).halted = false := by
  unfold State.headCmd at head
  rw [ukind_uEng] at head
  dsimp only at head
  split at head
  · cases head
  · split at head
    · cases head
    · exact Bool.eq_false_iff.2 ‹_›

/-- Settles O14. -/
theorem refusalHaltsTheQueue : Obligations.RefusalHaltsTheQueue := by
  intro s p e c h head may bad op
  refine ⟨_, next_congr ((State.leave_of_refused head may bad (by simp [op])).trans (State.refuse_popped h p e c _ 0)), ?_⟩
  intro x y
  obtain ⟨cnt, cred, posts, eng⟩ := State.engine_complete (Evolves.updEng (f := Engine.refused _) (.refl s) |>.canonOf ((canon_iff s).1 h))
    p e c (s.engCode p.val e.val c) 0 0
  rw [show y = _ from eng, State.engine_updEng_self h]
  unfold Engine.refused
  rw [State.headCmd_halted head]
  exact ⟨rfl, rfl, rfl, rfl, rfl, rfl, rfl, rfl, rfl⟩

/-! ## What a completion leaves to others -/

section
variable {s : State} {p : PartId} {e : EngId}

/-- What an operation on an engine leaves: every other engine, the vector tiles, the channels and the units. -/
def State.SameBut (k : Nat) (s t : State) : Prop :=
  (∀ j, j ≠ k → t.engine j = s.engine j) ∧ t.vts = s.vts ∧ t.chans = s.chans ∧ t.units = s.units

theorem State.SameBut.trans {k : Nat} {s t u : State} (a : State.SameBut k s t) (b : State.SameBut k t u) : State.SameBut k s u := by
  obtain ⟨ae, av, ac, au⟩ := a
  obtain ⟨be, bv, bc, bu⟩ := b
  exact ⟨fun j hj => (be j hj).trans (ae j hj), bv.trans av, bc.trans ac, bu.trans au⟩

/-- An operation that leaves engines, vector tiles, channels and units. -/
theorem State.SameBut.of_eq {k : Nat} {s t : State} (e : t.eng = s.eng) (v : t.vts = s.vts) (c : t.chans = s.chans) (u : t.units = s.units) :
    State.SameBut k s t :=
  ⟨fun j _ => congrArg (fun m : Map Engine => Map.get ({} : Engine) m j) e, v, c, u⟩

theorem State.SameBut.updEng (s : State) (k : Nat) (f : Engine → Engine) : State.SameBut k s (s.updEng k f) :=
  ⟨fun j hj => State.engine_updEng_ne s k j f hj, rfl, rfl, rfl⟩

theorem State.SameBut.counted (s : State) (p : PartId) (e : EngId) (c : Cmd) (code : Nat) :
    State.SameBut (kEng p.val e.val) s (s.counted (uEng p.val e.val) c code) := by
  unfold State.counted
  rw [State.advCnt_uEng]
  split
  · exact .trans (.of_eq rfl rfl rfl rfl) (.updEng _ _ _)
  · exact .of_eq rfl rfl rfl rfl

theorem State.SameBut.creditBack (s : State) (p : PartId) (e : EngId) :
    State.SameBut (kEng p.val e.val) s (s.creditBack (uEng p.val e.val)) := by
  rw [State.creditBack_uEng]
  exact .trans (.of_eq rfl rfl rfl rfl) (.updEng _ _ _)

theorem State.SameBut.complete (h : s.canon = true) (c : Cmd) (code : Nat) (fl : Byte) (amax : Word32) :
    State.SameBut (kEng p.val e.val) s (s.complete (uEng p.val e.val) c code fl amax) := by
  refine .trans (.counted s p e c code) ?_
  obtain ⟨-, -, eq⟩ | ⟨-, -, eq⟩ | ⟨-, -, eq⟩ := State.complete_cases s p e c code fl amax h
  · rw [eq]
    exact .creditBack _ p e
  · rw [eq]
    exact .trans (.of_eq rfl rfl rfl rfl) (.creditBack _ p e)
  · rw [eq]
    exact .updEng _ _ _

theorem State.workFlags_eng (s : State) (u : Nat) (f : Byte) : (s.workFlags u f).eng = s.eng := by
  unfold State.workFlags
  split <;> rfl

theorem State.SameBut.workFlags (s : State) (u : Nat) (f : Byte) (k : Nat) : State.SameBut k s (s.workFlags u f) := by
  unfold State.workFlags
  split
  · exact .of_eq rfl rfl rfl rfl
  · exact .of_eq rfl rfl rfl rfl

end

/-! ## The array goes on -/

section
variable {s : State} {p e : Nat} {r : Run}

/-- Nothing that nothing shares is blurred. -/
theorem State.blurAll_nil (s : State) (k : Nat) (haz : r.haz = []) : s.blurAll k r = s := by
  have none_shared : clash (spans r.cmd) r.haz = [] := by
    rw [haz]
    exact List.flatMap_eq_nil_iff.2 fun _ _ => rfl
  unfold State.blurAll
  rw [none_shared]
  rfl

/-- The array's command goes on to k-step or row n. -/
def State.arrTo (s : State) (p e n : Nat) (r : Run) : State :=
  let k := kEng p e
  let cyc := arrCycles r.cmd n - arrCycles r.cmd r.done
  let s := s.tcAdd (s.unit (uEng p e)).xid 0 cyc
  if cOp r.cmd = 1 then
    let a := mmaOf r.cmd
    let t := mmaPass (s.engine k).sp a r.done n (s.engine k).acc
    (s.tcAdd (s.unit (uEng p e)).xid 1 (4096 * (n - r.done))).updEng k (fun x => { x with
      acc := t.1, live := setBit x.live a.slot, macs := x.macs + BitVec.ofNat 64 (4096 * (n - r.done)),
      arrBusy := x.arrBusy + BitVec.ofNat 64 cyc,
      arr := { x.arr with exe := some { r with done := n, flags := r.flags ||| t.2, fin := decide (n = a.k) } } })
  else
    s.updEng k (fun x => { x with
      acc := ldSlots x.sp r.cmd r.done n x.acc, live := setBit x.live (ldSlot r.cmd), arrBusy := x.arrBusy + BitVec.ofNat 64 cyc,
      arr := { x.arr with exe := some { r with done := n, fin := decide (n = 64) } } })

theorem State.arrGo_none (n : Nat) (exe : (s.engine (kEng p e)).arr.exe = none) : s.arrGo p e n = s := by
  unfold State.arrGo
  dsimp only
  rw [exe]

theorem State.arrGo_some (n : Nat) (exe : (s.engine (kEng p e)).arr.exe = some r) :
    s.arrGo p e n = if r.fin ∨ min n (arrEnd r.cmd) ≤ r.done then s else (s.blurAll (kEng p e) r).arrTo p e (min n (arrEnd r.cmd)) r := by
  unfold State.arrGo
  dsimp only
  rw [exe]
  rfl

end


/-- The end of a command whose effects are done. -/
theorem State.finish_of_fin {s : State} {p e : Nat} {w : EUnit} {r : Run} (exe : ((s.engine (kEng p e)).unitQ w).exe = some r)
    (fin : r.fin = true) :
    s.finish p e w = ((((s.updEng (kEng p e) (fun x =>
      { x.updUnitQ w (fun q => { q with exe := none }) with flags := x.flags ||| r.flags })).workFlags (uEng p e) r.flags).complete
        (uEng p e) r.cmd 0 r.flags (if cOp r.cmd = 2 then r.amax else 0)).startUnits p e) := by
  unfold State.finish
  dsimp only
  rw [exe]
  dsimp only
  rw [fin]
  rfl

theorem bits_le {w : Nat} (v : BitVec w) (hi lo : Nat) : bits v hi lo + 1 ≤ 2 ^ (hi + 1 - lo) := BitVec.isLt _

theorem arrEnd_le (c : Cmd) : arrEnd c ≤ 65536 := by
  unfold arrEnd
  split
  · exact bits_le c 47 32
  · decide

/-- The end of the array's command, once it has gone on to its end with nothing else in the engine's units. -/
theorem State.finish_array {s : State} {p : PartId} {e : EngId} {r : Run} {x : Engine} (h : s.canon = true)
    (eng : s.engine (kEng p.val e.val) = x) (exe : x.arr.exe = some r) (pend : x.arr.pend = none)
    (epi : x.epi = {}) (dma : x.dma = {}) (fin : r.fin = true) :
    ∃ t cnt cred posts, s.finish p.val e.val .arr = t ∧ State.SameBut (kEng p.val e.val) s t ∧
      t.engine (kEng p.val e.val) = { x with arr := {}, flags := x.flags ||| r.flags, cnt := cnt, cred := cred, posts := posts } := by
  subst eng
  let u : State := (s.updEng (kEng p.val e.val) (fun x =>
      { x.updUnitQ .arr (fun q => { q with exe := none }) with flags := x.flags ||| r.flags })).workFlags (uEng p.val e.val) r.flags
  have hu : u.canon = true := Evolves.workFlags (.updEng (.refl s)) |>.canonOf ((canon_iff s).1 h)
  have ue : u.engine (kEng p.val e.val) = { s.engine (kEng p.val e.val) with arr := {}, flags := (s.engine (kEng p.val e.val)).flags ||| r.flags } := by
    refine (congrArg (fun m : Map Engine => Map.get ({} : Engine) m (kEng p.val e.val)) (State.workFlags_eng _ _ _)).trans ((State.engine_updEng_self h _ _).trans ?_)
    simp only [Engine.updUnitQ, pend]
  obtain ⟨cnt, cred, posts, eq⟩ := State.engine_complete hu p e r.cmd 0 r.flags (if cOp r.cmd = 2 then r.amax else 0)
  rw [ue] at eq
  refine ⟨_, cnt, cred, posts, rfl, ?_⟩
  rw [State.finish_of_fin (w := .arr) exe fin, State.startUnits_idle (by rw [eq]) (by rw [eq, epi]) (by rw [eq, dma])]
  exact ⟨.trans (.updEng _ _ _) (.trans (.workFlags _ _ _ _) (.complete hu _ _ _ _)), eq⟩


/-- The array's command with nothing shared goes on to its end. -/
theorem State.arrGo_end {s : State} {p e : Nat} {r : Run} (exe : (s.engine (kEng p e)).arr.exe = some r) (fin : r.fin = false)
    (haz : r.haz = []) (more : r.done < arrEnd r.cmd) : s.arrGo p e 65536 = s.arrTo p e (arrEnd r.cmd) r := by
  have last : min 65536 (arrEnd r.cmd) = arrEnd r.cmd := Nat.min_eq_right (arrEnd_le _)
  rw [State.arrGo_some _ exe, last, State.blurAll_nil s _ haz, if_neg]
  rw [fin]
  exact fun o => o.elim Bool.false_ne_true (Nat.not_le.2 more)

/-- An MMA at its end, with the flags of its pass. -/
def Run.mmaEnded (r : Run) (fl : Byte) : Run :=
  { r with done := (mmaOf r.cmd).k, flags := r.flags ||| fl, fin := decide ((mmaOf r.cmd).k = (mmaOf r.cmd).k) }

theorem Run.mmaEnded_fin (r : Run) (fl : Byte) : (r.mmaEnded fl).fin = true := decide_eq_true rfl

/-- An ACCLD at its end. -/
def Run.accldEnded (r : Run) : Run := { r with done := 64, fin := decide (64 = 64) }

theorem Run.accldEnded_fin (r : Run) : r.accldEnded.fin = true := rfl

/-- An engine whose array ran an MMA to its end, from accumulator and flags m. -/
def Engine.mmaEnded (r : Run) (cyc : Nat) (m : Map Word32 × Byte) (x : Engine) : Engine := { x with
  acc := m.1
  live := setBit x.live (mmaOf r.cmd).slot
  macs := x.macs + BitVec.ofNat 64 (4096 * ((mmaOf r.cmd).k - r.done))
  arrBusy := x.arrBusy + BitVec.ofNat 64 cyc
  arr := { x.arr with exe := some (r.mmaEnded m.2) } }

/-- An engine whose array ran an ACCLD to its end. -/
def Engine.accldEnded (r : Run) (cyc : Nat) (x : Engine) : Engine := { x with
  acc := ldSlots x.sp r.cmd r.done 64 x.acc
  live := setBit x.live (ldSlot r.cmd)
  arrBusy := x.arrBusy + BitVec.ofNat 64 cyc
  arr := { x.arr with exe := some r.accldEnded } }

/-- An MMA runs to its end. -/
theorem State.arrTo_mma (s : State) (p e : Nat) (r : Run) (op : cOp r.cmd = 1) :
    s.arrTo p e (mmaOf r.cmd).k r =
      ((s.tcAdd (s.unit (uEng p e)).xid 0 (arrCycles r.cmd (mmaOf r.cmd).k - arrCycles r.cmd r.done)).tcAdd (s.unit (uEng p e)).xid 1
        (4096 * ((mmaOf r.cmd).k - r.done))).updEng (kEng p e)
        (Engine.mmaEnded r (arrCycles r.cmd (mmaOf r.cmd).k - arrCycles r.cmd r.done)
          (mmaPass (s.engine (kEng p e)).sp (mmaOf r.cmd) r.done (mmaOf r.cmd).k (s.engine (kEng p e)).acc)) := if_pos op

/-- An ACCLD runs to its end. -/
theorem State.arrTo_accld (s : State) (p e : Nat) (r : Run) (op : cOp r.cmd ≠ 1) :
    s.arrTo p e 64 r = (s.tcAdd (s.unit (uEng p e)).xid 0 (arrCycles r.cmd 64 - arrCycles r.cmd r.done)).updEng (kEng p e)
      (Engine.accldEnded r (arrCycles r.cmd 64 - arrCycles r.cmd r.done)) := if_neg op

section
variable {s : State} {p : PartId} {e : EngId} {r : Run} {x : Engine}

/-- The array's command that nothing overlaps runs to its end and completes. -/
theorem State.commandComplete_array {u : State} {f : Engine → Engine} {r' : Run} (h : s.canon = true) (hu : u.canon = true)
    (go : s.arrGo p.val e.val 65536 = u.updEng (kEng p.val e.val) f) (eng : u.eng = s.eng) (vts : u.vts = s.vts) (chans : u.chans = s.chans)
    (units : u.units = s.units) (exe : (f (s.engine (kEng p.val e.val))).arr.exe = some r')
    (pend : (f (s.engine (kEng p.val e.val))).arr.pend = none) (epi : (f (s.engine (kEng p.val e.val))).epi = {})
    (dma : (f (s.engine (kEng p.val e.val))).dma = {}) (fin : r'.fin = true) :
    ∃ t cnt cred posts, exec (.commandComplete p e .arr) s = .next t ∧ State.SameBut (kEng p.val e.val) s t ∧
      t.engine (kEng p.val e.val) = { f (s.engine (kEng p.val e.val)) with
        arr := {}, flags := (f (s.engine (kEng p.val e.val))).flags ||| r'.flags, cnt := cnt, cred := cred, posts := posts } := by
  have ran : (s.arrGo p.val e.val 65536).engine (kEng p.val e.val) = f (s.engine (kEng p.val e.val)) := by
    rw [go, State.engine_updEng_self hu, show u.engine (kEng p.val e.val) = _ from congrArg (fun m : Map Engine => Map.get ({} : Engine) m _) eng]
    rfl
  have others : State.SameBut (kEng p.val e.val) s (s.arrGo p.val e.val 65536) := by
    rw [go]
    exact .trans (.of_eq eng vts chans units) (.updEng _ _ _)
  obtain ⟨t, cnt, cred, posts, eq, same, eng⟩ :=
    State.finish_array ((Evolves.arrGo (.refl s)).canonOf ((canon_iff s).1 h)) ran exe pend epi dma fin
  exact ⟨t, cnt, cred, posts, next_congr eq, others.trans same, eng⟩

/-- An MMA that nothing overlaps runs from its k-step to its end and completes; m is its pass. -/
theorem State.commandComplete_mma {m : Map Word32 × Byte} (h : s.canon = true) (eng : s.engine (kEng p.val e.val) = x)
    (arr : x.arr = { exe := some r }) (epi : x.epi = {}) (dma : x.dma = {}) (fin : r.fin = false) (haz : r.haz = [])
    (more : r.done < arrEnd r.cmd) (op : cOp r.cmd = 1) (hm : mmaPass x.sp (mmaOf r.cmd) r.done (mmaOf r.cmd).k x.acc = m) :
    ∃ t cnt cred posts, exec (.commandComplete p e .arr) s = .next t ∧ State.SameBut (kEng p.val e.val) s t ∧
      t.engine (kEng p.val e.val) = { x.mmaEnded r (arrCycles r.cmd (arrEnd r.cmd) - arrCycles r.cmd r.done) m with
        arr := {}, flags := x.flags ||| (r.flags ||| m.2), cnt := cnt, cred := cred, posts := posts } := by
  subst eng
  have len : arrEnd r.cmd = (mmaOf r.cmd).k := if_pos op
  have go := State.arrGo_end (congrArg UnitQ.exe arr) fin haz more
  rw [len, State.arrTo_mma _ _ _ _ op, hm] at go
  rw [len]
  exact State.commandComplete_array (r' := r.mmaEnded m.2) h (Evolves.tcAdd (.tcAdd (.refl s)) |>.canonOf ((canon_iff s).1 h)) go
    rfl rfl rfl rfl rfl (congrArg UnitQ.pend arr) epi dma (r.mmaEnded_fin _)

/-- An ACCLD that nothing overlaps loads its rows and completes; m is what its slot is left with. -/
theorem State.commandComplete_accld (h : s.canon = true) (eng : s.engine (kEng p.val e.val) = x)
    (arr : x.arr = { exe := some r }) (epi : x.epi = {}) (dma : x.dma = {}) (fin : r.fin = false) (haz : r.haz = [])
    (more : r.done < arrEnd r.cmd) (op : cOp r.cmd = 3) :
    ∃ t cnt cred posts, exec (.commandComplete p e .arr) s = .next t ∧ State.SameBut (kEng p.val e.val) s t ∧
      t.engine (kEng p.val e.val) = { x.accldEnded r (arrCycles r.cmd (arrEnd r.cmd) - arrCycles r.cmd r.done) with
        arr := {}, flags := x.flags ||| r.flags, cnt := cnt, cred := cred, posts := posts } := by
  subst eng
  have op' : cOp r.cmd ≠ 1 := by rw [op]; decide
  have len : arrEnd r.cmd = 64 := if_neg op'
  have go := State.arrGo_end (congrArg UnitQ.exe arr) fin haz more
  rw [len, State.arrTo_accld _ _ _ _ op'] at go
  rw [len]
  exact State.commandComplete_array (r' := r.accldEnded) h (Evolves.tcAdd (.refl s) |>.canonOf ((canon_iff s).1 h)) go
    rfl rfl rfl rfl rfl (congrArg UnitQ.pend arr) epi dma r.accldEnded_fin

end

/-- Settles O11. -/
theorem arrayCommandsRun : Obligations.ArrayCommandsRun := by
  intro s p e r h k x arr epi dma fin haz more cyc rest
  refine ⟨fun op => ?_, fun op => ?_⟩
  · obtain ⟨m, hm⟩ : ∃ m, mmaPass x.sp (mmaOf r.cmd) r.done (mmaOf r.cmd).k x.acc = m := ⟨_, rfl⟩
    obtain ⟨t, cnt, cred, posts, eq, ⟨engs, vts, chans, units⟩, eng⟩ := State.commandComplete_mma h rfl arr epi dma fin haz more op hm
    refine ⟨t, eq, ?_, ?_⟩
    · unfold rest
      rw [eng]
      exact ⟨rfl, rfl, rfl, rfl, engs, vts, chans, units⟩
    · rw [eng, hm]
      exact ⟨rfl, rfl, rfl, rfl⟩
  · obtain ⟨t, cnt, cred, posts, eq, ⟨engs, vts, chans, units⟩, eng⟩ := State.commandComplete_accld h rfl arr epi dma fin haz more op
    refine ⟨t, eq, ?_, ?_⟩
    · unfold rest
      rw [eng]
      exact ⟨rfl, rfl, rfl, rfl, engs, vts, chans, units⟩
    · rw [eng]
      exact ⟨rfl, rfl, rfl, rfl⟩

/-! ## The life of an engine -/

section
variable {s : State} {p : PartId} {e : EngId}

/-- A command whose effects are done runs no further. -/
theorem State.runOut_of_fin {w : EUnit} {r : Run} (exe : ((s.engine (kEng p.val e.val)).unitQ w).exe = some r) (fin : r.fin = true) :
    s.runOut p.val e.val w = s := by
  cases w with
  | arr => exact (State.arrGo_some _ exe).trans (if_pos (.inl fin))
  | epi =>
    unfold State.runOut State.epiGo
    dsimp only
    rw [show (s.engine (kEng p.val e.val)).epi.exe = some r from exe]
    exact if_pos fin
  | dma => rfl

end

section
variable {s : State} {p e : Nat}

/-- What the array's unit holds is changed by no change of the engine's other parts. -/
theorem State.arr_updEng (h : s.canon = true) {k : Nat} {f : Engine → Engine} (hf : ∀ x, (f x).arr = x.arr) :
    ((s.updEng k f).engine k).arr = (s.engine k).arr := by
  rw [State.engine_updEng_self h, hf]

theorem State.arr_havoc (h : s.canon = true) (k : Nat) (l : List Nat) : ((s.havoc k l).engine k).arr = (s.engine k).arr := by
  induction l generalizing s with
  | nil => rfl
  | cons a l ih =>
    exact (ih (Evolves.havoc (l := [a]) (.refl s) |>.canonOf ((canon_iff s).1 h))).trans
      (State.arr_updEng (s := { s with fresh := s.fresh + 1 }) h fun _ => rfl)

theorem State.arr_epiRows (h : s.canon = true) (fuel : Nat) (r : Run) :
    ((s.epiRows p e fuel r).2.engine (kEng p e)).arr = (s.engine (kEng p e)).arr := by
  induction fuel generalizing s r with
  | zero => rfl
  | succ n ih =>
    unfold State.epiRows
    split
    · rfl
    · dsimp only
      split
      · split
        · rfl
        · split
          · rfl
          · rw [ih ((Evolves.updVt (.qUse (.refl s))).canonOf ((canon_iff s).1 h))]
            rfl
      · rw [ih ((Evolves.updEng (.refl s) fun x hx => Bytes.wrL_wf _ _ _ (Bytes.wrL_wf _ _ _ hx)).canonOf ((canon_iff s).1 h))]
        refine State.arr_updEng h ?_
        exact fun _ => rfl

theorem State.arr_epiGo (h : s.canon = true) (n : Nat) : ((s.epiGo p e n).engine (kEng p e)).arr = (s.engine (kEng p e)).arr := by
  have c := (canon_iff s).1 h
  unfold State.epiGo
  dsimp only
  split
  · rfl
  · next r _ =>
    split
    · rfl
    · have c1 := (Evolves.blurAll (k := kEng p e) (r := r) (.refl s)).canonOf c
      have c2 := (Evolves.epiRows (p := p) (e := e) (fuel := n - r.done) (r := r) (.blurAll (k := kEng p e) (r := r) (.refl s))).canonOf c
      have c3 := (Evolves.blurOut (k := kEng p e) (r := r) (.epiRows (p := p) (e := e) (fuel := n - r.done) (r := r)
        (.blurAll (k := kEng p e) (r := r) (.refl s)))).canonOf c
      refine (State.arr_updEng c3 ?_).trans ?_
      · exact fun _ => rfl
      · exact (State.arr_havoc c2 _ _).trans ((State.arr_epiRows c1 _ _).trans (State.arr_havoc h _ _))

/-- How far the array's command is after it went on. -/
theorem State.done_arrGo (h : s.canon = true) {r : Run} (n : Nat) (exe : (s.engine (kEng p e)).arr.exe = some r) :
    (((s.arrGo p e n).engine (kEng p e)).arr.exe.map (fun r => r.done)) =
      some (if r.fin ∨ min n (arrEnd r.cmd) ≤ r.done then r.done else min n (arrEnd r.cmd)) := by
  have c := (canon_iff s).1 h
  rw [State.arrGo_some n exe]
  split
  · rw [exe]
    rfl
  · unfold State.arrTo
    dsimp only
    split
    · rw [State.engine_updEng_self ((Evolves.tcAdd (.tcAdd (.blurAll (.refl s)))).canonOf c)]
      rfl
    · rw [State.engine_updEng_self ((Evolves.tcAdd (.blurAll (.refl s))).canonOf c)]
      rfl

/-- The array of an engine that halts goes on to its stop point. -/
theorem State.arr_haltUnits (h : s.canon = true) {r : Run} (exe : (s.engine (kEng p e)).arr.exe = some r) :
    ((s.haltUnits p e).engine (kEng p e)).arr =
      ((s.draw.2.arrGo p e (stopPoint r.done (arrEnd r.cmd) (if cOp r.cmd = 1 then 32 else 1) s.draw.1)).engine (kEng p e)).arr := by
  have c := (canon_iff s).1 h
  unfold State.haltUnits
  dsimp only
  rw [exe]
  dsimp only
  split
  · rfl
  · split
    · rfl
    · exact State.arr_epiGo ((Evolves.draw (.arrGo (.draw (.refl s)))).canonOf c) _

end

/-- A stop point of an MMA that stands at a multiple of 32 k-steps is one, or the end. -/
theorem stopPoint_mma {d last : Nat} (hd : d % 32 = 0) (v : BitVec 64) : stopPoint d last 32 v % 32 = 0 ∨ stopPoint d last 32 v = last := by
  unfold stopPoint
  omega

/-- Zeroing an engine leaves its scratchpad and its slots empty. -/
theorem State.engine_clearUnit {s : State} (h : s.canon = true) (p : PartId) (e : EngId) :
    (s.clearUnit (uEng p.val e.val)).engine (kEng p.val e.val) = ((s.engine (kEng p.val e.val))).cleared := by
  unfold State.clearUnit State.handBack
  rw [ukind_uEng]
  exact State.engine_updEng_self (s := s.qFree _ _) h _ _

theorem engineCompletesStopsAndRestores : Clauses.EngineCompletesStopsAndRestores := by
  intro s p e h k u
  refine ⟨fun w r exe fin => ?_, fun st iss landed => ?_, fun st stop => ?_, ⟨?_, fun j r exe op d0 fin dj => ?_⟩, fun x r st saved => ?_⟩
  · exact next_congr ((congrArg (State.finish · p.val e.val w) (State.runOut_of_fin exe fin)).trans (State.finish_of_fin exe fin))
  · exact next_congr (if_pos ⟨st, iss, landed⟩)
  · exact next_congr (if_pos ⟨st, stop⟩)
  · rw [State.engine_clearUnit h]
    exact ⟨rfl, rfl, rfl⟩
  · rw [State.arr_haltUnits h exe, State.done_arrGo (s := s.draw.2) h _ exe, if_pos op] at dj
    have len : arrEnd r.cmd = (mmaOf r.cmd).k := if_pos op
    have stops := stopPoint_mma (last := arrEnd r.cmd) d0 s.draw.1
    rw [← Option.some.inj dj, ← len]
    split
    · exact .inl d0
    · next far =>
      rcases Nat.le_total (stopPoint r.done (arrEnd r.cmd) 32 s.draw.1) (arrEnd r.cmd) with le | le
      · rwa [Nat.min_eq_left le]
      · exact .inr (Nat.min_eq_right le)
  · exact next_congr ((if_pos st).trans (by rw [saved]))

theorem queueControl : Clauses.QueueControl := by
  intro s p e u h hu k
  refine ⟨next_congr ?_, fun halted => next_congr ?_⟩
  · unfold State.flush
    rw [hu, ukind_uEng]
  · unfold State.resume
    rw [hu, ukind_uEng]
    exact State.updEng_congr _ _ (if_pos halted)

/-- Settles O12. -/
theorem engineLifecycle : Obligations.EngineLifecycle := ⟨engineCompletesStopsAndRestores, queueControl⟩

end Sys2Proof.Machine
end

section
/-!
SUPPORT. Instructions of a scalar tile (chapter 4): one rule for an instruction that stands at the program counter, the credits and
records of its queues, barriers and their release, and the obligations of the scalar tile.
-/

namespace Sys2Proof.Machine

/-! ## An instruction at the program counter -/

/-- The control instruction at the program counter runs. -/
theorem State.krun_of_kat {s : State} {p t f3 f7 : Nat} {w : KWait} {go : State → State} (at_ : s.kat p t f3 f7 w = true) :
    s.krun p t f3 f7 w go = go s := if_pos at_

section
variable {s : State} {p : PartId} {t : StId} {e : EngId}

/-- A tile that holds a usable credit for an engine. -/
theorem State.creditOf_pos (h : 0 < s.creditOf (uEng p.val e.val)) :
    s.creditOf (uEng p.val e.val) = (s.engine (kEng p.val e.val)).cred ∧ (s.pool (queuePool (uEng p.val e.val))).resolving = false := by
  unfold State.creditOf at h ⊢
  split at h
  · exact absurd h (Nat.lt_irrefl 0)
  · next r =>
    unfold State.heldCred
    rw [if_neg r, ukind_uEng]
    exact ⟨rfl, Bool.eq_false_iff.2 r⟩

/-- A command put into an open engine's queue against a credit. -/
def State.issued (s : State) (k : Nat) (p : PartId) (e : EngId) (c : Cmd) : State :=
  ((s.qUse (queuePool (uEng p.val e.val)) 1).updEng (kEng p.val e.val) (fun y => { y with queue := y.queue ++ [c], cred := y.cred - 1 })).updSt k
    (fun y => { y with issued := y.issued + 1 })

theorem State.enqueue_uEng (k : Nat) (c : Cmd) (open_ : (s.unit (uEng p.val e.val)).portClosed = false)
    (fence : (s.unit (uEng p.val e.val)).fenced = false) : s.enqueue k (uEng p.val e.val) c = s.issued k p e c := by
  unfold State.enqueue
  rw [if_neg (by simp [open_, fence])]
  dsimp only
  rw [ukind_uEng]
  rfl

/-- The credits left after a command was issued. -/
theorem State.creditOf_issued (h : s.canon = true) (k : Nat) (c : Cmd) (cr : 0 < s.creditOf (uEng p.val e.val)) :
    (s.issued k p e c).creditOf (uEng p.val e.val) = s.creditOf (uEng p.val e.val) - 1 := by
  obtain ⟨held, free⟩ := State.creditOf_pos cr
  rw [held]
  unfold State.creditOf State.heldCred
  rw [if_neg (by rw [show (s.issued k p e c).pool _ = s.pool _ from rfl, free]; exact Bool.false_ne_true), ukind_uEng]
  exact congrArg Engine.cred (State.engine_updEng_self (s := s.qUse (queuePool (uEng p.val e.val)) 1) h (kEng p.val e.val) (fun y =>
    { y with queue := y.queue ++ [c], cred := y.cred - 1 }))

/-- KISSUE and KTRYISSUE of 64 aligned bytes inside local memory to an open engine. -/
theorem State.kissue_open (h : s.canon = true) (try_ : Bool)
    (operand : s.unitOperand p.val t.val (s.tile (kSt p.val t.val)).rs2.toNat = some (uEng p.val e.val))
    (aligned : (s.tile (kSt p.val t.val)).rs1.toNat % 64 = 0)
    (ok : (s.tile (kSt p.val t.val)).userOk (s.tile (kSt p.val t.val)).rs1.toNat 64 false = true)
    (open_ : (s.unit (uEng p.val e.val)).portClosed = false) (fence : (s.unit (uEng p.val e.val)).fenced = false) :
    s.kissue p.val t.val try_ = if s.creditOf (uEng p.val e.val) = 0 then
        (if try_ then s.updSt (kSt p.val t.val) (fun y => y.retire 1) else s.updSt (kSt p.val t.val) (fun y => { y with wait := .kissue }))
      else (s.issued (kSt p.val t.val) p e (BitVec.ofNat 512 ((s.tile (kSt p.val t.val)).lm.rdLE
        (s.tile (kSt p.val t.val)).rs1.toNat 64))).updSt (kSt p.val t.val) (fun y =>
          y.retire (if try_ then 0 else BitVec.ofNat 64 (s.creditOf (uEng p.val e.val) - 1))) := by
  unfold State.kissue
  dsimp only
  rw [operand]
  dsimp only
  rw [if_neg (by simp [aligned, ok]), State.enqueue_uEng _ _ open_ fence]
  split
  · rfl
  · next cr => rw [State.creditOf_issued h _ _ (Nat.pos_of_ne_zero cr)]

end

theorem scalarIssue : Clauses.ScalarIssue := by
  intro s p t e h k x u cr c sent operand aligned ok open_ fence
  have issue (try_ : Bool) := State.kissue_open h try_ operand aligned ok open_ fence
  have retired (v : Word64) (c : Cmd) : (s.issued k p e c).updSt k (fun y => y.retire v) = 
     ((s.qUse (queuePool u) 1).updEng (kEng p.val e.val) (fun y => { y with queue := y.queue ++ [c], cred := y.cred - 1 })).updSt k (fun y =>
      ({ y with issued := y.issued + 1 } : STile).retire v) :=
    State.updSt_updSt ((Evolves.updEng (.qUse (.refl s))).canonOf ((canon_iff s).1 h)) _ _ _
  refine ⟨fun r pos => ?_, fun r z => ?_, fun r pos => ?_, fun r pos => ?_, fun r z => ?_⟩
  · exact next_congr ((State.krun_of_kat r).trans ((issue false).trans ((if_neg (Nat.ne_of_gt pos)).trans (retired _ _))))
  · exact next_congr ((State.krun_of_kat r).trans ((issue false).trans (if_pos z)))
  · exact next_congr ((State.krun_of_kat r).trans ((issue false).trans ((if_neg (Nat.ne_of_gt pos)).trans (retired _ _))))
  · exact next_congr ((State.krun_of_kat r).trans ((issue true).trans ((if_neg (Nat.ne_of_gt pos)).trans (retired _ _))))
  · exact next_congr ((State.krun_of_kat r).trans ((issue true).trans (if_pos z)))

/-! ## Events, waits and queue control -/

section
variable {s : State} {p t : Nat}

theorem State.kevpop_nil (wait : Bool) (q : (s.tile (kSt p t)).evq = []) :
    s.kevpop p t wait = if wait then s.updSt (kSt p t) (fun y => { y with wait := .kevwait })
      else s.updSt (kSt p t) (fun y => y.retire (BitVec.ofInt 64 (-1))) := by
  unfold State.kevpop
  dsimp only
  rw [q]

theorem State.kevpop_cons (wait : Bool) {r : BitVec 128} {rest : List (BitVec 128)} (q : (s.tile (kSt p t)).evq = r :: rest)
    (ok : (s.tile (kSt p t)).userOk (s.tile (kSt p t)).rs1.toNat 16 true = true) :
    s.kevpop p t wait = ((s.qFree (eventPool (kSt p t)) 1).updSt (kSt p t) (fun y =>
      ({ y with evq := rest, evCred := y.evCred + 1 }.retire (BitVec.ofNat 64 rest.length)).wrEvent (s.tile (kSt p t)).rs1.toNat r)).repost
        (kSt p t) := by
  unfold State.kevpop
  dsimp only
  rw [q]
  dsimp only
  rw [ok]
  rfl

theorem State.kcwait_some {u : Nat} (operand : s.unitOperand p t (bits (s.tile (kSt p t)).rs2 16 8) = some u) :
    s.kcwait p t = if reached (s.cntOf u (bits (s.tile (kSt p t)).rs2 2 0)) (bits (s.tile (kSt p t)).rs1 31 0) = true then
      s.updSt (kSt p t) STile.goOn else s.updSt (kSt p t) (fun y => { y with wait := .kcwait }) := by
  unfold State.kcwait
  dsimp only
  rw [operand]

theorem State.kqctl_some {u : Nat} (operand : s.unitOperand p t (s.tile (kSt p t)).rs2.toNat = some u) :
    s.kqctl p t = (if bit (s.tile (kSt p t)).rs1 1 then s.flush u else if bit (s.tile (kSt p t)).rs1 0 then s.resume u else s).updSt
      (kSt p t) STile.goOn := by
  unfold State.kqctl
  dsimp only
  rw [operand]

end

theorem scalarEvents : Clauses.ScalarEvents := by
  intro s p t h k x pop
  refine ⟨fun r rest q ok => ⟨fun at_ => ?_, fun at_ => ?_, fun at_ => ?_⟩, fun q at_ => ?_, fun q at_ => ?_⟩
  · exact next_congr ((State.krun_of_kat at_).trans (State.kevpop_cons false q ok))
  · exact next_congr ((State.krun_of_kat at_).trans (State.kevpop_cons true q ok))
  · exact next_congr ((State.krun_of_kat at_).trans (State.kevpop_cons true q ok))
  · exact next_congr ((State.krun_of_kat at_).trans (State.kevpop_nil false q))
  · exact next_congr ((State.krun_of_kat at_).trans (State.kevpop_nil true q))

theorem scalarWaitsAndQueueControl : Clauses.ScalarWaitsAndQueueControl := by
  intro s p t h k x
  refine ⟨fun u operand => ⟨fun at_ met => ?_, fun at_ met => ?_, fun at_ met => ?_⟩,
    fun u operand at_ => ⟨fun flush => ?_, fun flush resume => ?_, fun flush resume => ?_⟩,
    fun at_ done => ?_, fun at_ more => ?_, fun at_ done => ?_⟩
  · exact next_congr ((State.krun_of_kat at_).trans ((State.kcwait_some operand).trans (if_pos met)))
  · exact next_congr ((State.krun_of_kat at_).trans ((State.kcwait_some operand).trans (if_neg (Bool.eq_false_iff.1 met))))
  · exact next_congr ((State.krun_of_kat at_).trans ((State.kcwait_some operand).trans (if_pos met)))
  · exact next_congr ((State.krun_of_kat at_).trans ((State.kqctl_some operand).trans (congrArg (State.updSt · k STile.goOn) (if_pos flush))))
  · exact next_congr ((State.krun_of_kat at_).trans ((State.kqctl_some operand).trans (congrArg (State.updSt · k STile.goOn)
      ((if_neg (Bool.eq_false_iff.1 flush)).trans (if_pos resume)))))
  · exact next_congr ((State.krun_of_kat at_).trans ((State.kqctl_some operand).trans (congrArg (State.updSt · k STile.goOn)
      ((if_neg (Bool.eq_false_iff.1 flush)).trans (if_neg (Bool.eq_false_iff.1 resume))))))
  · exact next_congr ((State.krun_of_kat at_).trans (if_pos done))
  · exact next_congr ((State.krun_of_kat at_).trans (if_neg more))
  · exact next_congr ((State.krun_of_kat at_).trans (if_pos done))

/-! ## Pointer conversion -/

theorem State.touch_some {s : State} {u va : Nat} {c : CacheEnt} (hit : s.cached u va = some c) :
    s.touch u va = s.updUnit u (fun x => { x with cache := c :: x.cache.erase c }) := by
  unfold State.touch
  rw [hit]

theorem pointerConversion : Clauses.PointerConversion := by
  intro s p t h k u a xid
  refine ⟨fun c at_ hit kind => ?_, fun at_ miss => ?_, fun v at_ found => ?_, fun at_ found => ?_⟩
  · refine next_congr ((State.krun_of_kat at_).trans ?_)
    unfold State.pcvtOut hostView
    dsimp only
    rw [hit]
    dsimp only
    rw [kind]
    rw [State.touch_some hit]
    rfl
  · refine next_congr ((State.krun_of_kat at_).trans ?_)
    unfold State.pcvtOut
    dsimp only
    rw [miss]
  · refine next_congr ((State.krun_of_kat at_).trans ?_)
    unfold State.pcvtIn
    dsimp only
    rw [found]
    rfl
  · refine next_congr ((State.krun_of_kat at_).trans ?_)
    unfold State.pcvtIn
    dsimp only
    rw [found]
    rfl

/-- Settles O21. -/
theorem scalarIssueAndEvents : Obligations.ScalarIssueAndEvents :=
  ⟨scalarIssue, scalarEvents, scalarWaitsAndQueueControl, pointerConversion⟩

/-! ## Transfers, traps and stops -/

/-- A trap halts its tile with cause and value recorded, and detects a fatal fault unless the context is reset or has one already. -/
theorem State.trap_effect {s : State} {p : PartId} {t : StId} {n : Nat} {a : Word64} (h : s.canon = true) (hn : n < 256) :
    let u := uSt p.val t.val
    let k := kSt p.val t.val
    let r := s.trap p.val t.val n a
    (r.unit u).st = .trapped ∧ (r.tile k).cause = n ∧ (r.tile k).tval = a ∧ (r.tile k).x = (s.tile k).x ∧ (r.tile k).pc = (s.tile k).pc ∧
      ((s.ctx (s.unit u).xid).st ≠ .resetting → (s.xlt.faults.any (fun g => g.xid == (s.unit u).xid && g.fatal)) = false →
        ∃ f, r.xlt.faults = s.xlt.faults ++ [f] ∧ f.status = 0x030E ∧ f.kind = 2 ∧ f.fatal = true ∧ f.xid = (s.unit u).xid ∧
          f.addr = a.toNat) := by
  intro u k r
  let w : State := (s.updSt k (fun x => { x with cause := n % 256, tval := a, wait := .none })).updUnit u (fun x => { x with st := .trapped })
  have unit : w.unit u = { s.unit u with st := .trapped } :=
    State.unit_updUnit_self ((Evolves.updSt (.refl s)).canonOf ((canon_iff s).1 h)) _ _
  have tile : w.tile k = { s.tile k with cause := n % 256, tval := a, wait := .none } := State.tile_updSt_self h k (fun x =>
    { x with cause := n % 256, tval := a, wait := .none })
  have same (f : Fault0) : (w.fault f).units = w.units ∧ (w.fault f).sts = w.sts := by
    unfold State.fault
    split <;> exact ⟨rfl, rfl⟩
  have cause : n % 256 = n := Nat.mod_eq_of_lt hn
  obtain ⟨f, hf, rest⟩ : ∃ f, r = w.fault f ∧ f.status = 0x030E ∧ f.kind = 2 ∧ f.fatal = true ∧ f.xid = (w.unit u).xid ∧ f.addr = a.toNat :=
    ⟨_, rfl, rfl, rfl, rfl, rfl, rfl⟩
  have runit : r.unit u = { s.unit u with st := .trapped } := by
    rw [hf, ← unit]
    exact congrArg (fun m : Map UnitC => Map.get ({} : UnitC) m u) (same f).1
  have rtile : r.tile k = { s.tile k with cause := n, tval := a, wait := .none } := by
    rw [hf, ← cause, ← tile]
    exact congrArg (fun m : Map STile => Map.get ({} : STile) m k) (same f).2
  rw [unit] at rest
  rw [runit, rtile]
  refine ⟨rfl, rfl, rfl, rfl, rfl, fun st none_ => ⟨f, ?_, ?_⟩⟩
  · have off : (decide ((w.ctx f.xid).st = .resetting) || w.xlt.faults.any (fun g => g.xid == f.xid && g.fatal)) = false := by
      rw [Bool.or_eq_false_iff, rest.2.2.2.1]
      exact ⟨decide_eq_false st, none_⟩
    rw [hf]
    exact congrArg (fun v : State => v.xlt.faults) (if_neg (Bool.eq_false_iff.1 off))
  · exact rest

theorem State.workOn_updSt (s : State) (k : Nat) (f : STile → STile) (u : Nat) : (s.updSt k f).workOn u = s.workOn u := rfl

/-- Settles O22. -/
theorem scalarTransfersTrapsAndStops : Obligations.ScalarTransfersTrapsAndStops := by
  intro s p t h k u x
  refine ⟨fun at_ fits ok => ?_, fun run more idle word a7 => ⟨fun w on => ?_, fun off => ?_⟩, fun n a hn run more => ?_,
    fun n hn run ext => ?_⟩
  · intro started
    refine next_congr ((State.krun_of_kat at_).trans ((if_neg (Nat.not_lt.2 fits)).trans ((if_neg (Bool.eq_false_iff.1 ok)).trans ?_)))
    simp only [List.isEmpty_iff]
    rfl
  · refine next_congr ((if_pos ⟨run, by rw [more]; rfl, idle, word, a7⟩).trans ?_)
    dsimp only
    rw [State.workOn_updSt, show s.workOn (uSt p.val t.val) = some w from on]
    rfl
  · refine next_congr ((if_pos ⟨run, by rw [more]; rfl, idle, word, a7⟩).trans ?_)
    dsimp only
    rw [State.workOn_updSt, show s.workOn (uSt p.val t.val) = none from off]
  · by_cases bad : (x.illegal && decide (x.wait = .none)) = true
    · refine ⟨_, next_congr ((if_pos ⟨run, by rw [more]; rfl⟩).trans (if_pos bad)), ?_⟩
      simp only [bad, if_true]
      exact State.trap_effect h (by decide)
    · refine ⟨_, next_congr ((if_pos ⟨run, by rw [more]; rfl⟩).trans (if_neg bad)), ?_⟩
      simp only [bad]
      exact State.trap_effect h hn
  · refine next_congr ?_
    unfold State.stopTile
    dsimp only
    rw [hn, show ukind u = _ from ukind_uSt p t]
    dsimp only
    rw [run, ext]
    exact (if_pos ⟨.inl rfl, rfl⟩).trans rfl

/-! ## Barriers -/

section
variable {s : State} {p t : Nat}

/-- A member tile's KBAR of a barrier that is not broken, in a composition of one module. -/
theorem State.kbar_member (mode : Nat) (member : s.barMember p t ((s.tile (kSt p t)).rs1.toNat % 32) = true)
    (whole : (s.bar (s.part p).cid ((s.tile (kSt p t)).rs1.toNat % 32)).broken = false) (one : (s.comp (s.part p).cid).multi = false) :
    s.kbar p t mode = match mode with
      | 0 => (s.barSend p t ((s.tile (kSt p t)).rs1.toNat % 32)).barWait p t ((s.tile (kSt p t)).rs1.toNat % 32)
      | 1 =>
        let u := s.barSend p t ((s.tile (kSt p t)).rs1.toNat % 32)
        u.draw.2.updSt (kSt p t) (fun y => { y.retire u.draw.1 with kpst := 0 })
      | _ => if has (s.tile (kSt p t)).arrived ((s.tile (kSt p t)).rs1.toNat % 32) then s.barWait p t ((s.tile (kSt p t)).rs1.toNat % 32)
        else s.draw.2.updSt (kSt p t) (fun y => { y.retire s.draw.1 with kpst := 0 }) := by
  unfold State.kbar
  dsimp only
  rw [member, whole, one]
  rfl

theorem State.barSend_new {b : Nat} (new : has (s.tile (kSt p t)).arrived b = false) :
    s.barSend p t b = (s.updSt (kSt p t) (fun y => { y with arrived := setBit y.arrived b })).updBar (s.part p).cid b (fun x =>
      { x with arriving := x.arriving + 1, src := x.src ++ [p] }) := if_neg (Bool.eq_false_iff.1 new)

end

theorem scalarBarriers : Clauses.ScalarBarriers := by
  intro s p t h k b c arrive waits member whole one
  have kbar (mode : Nat) := State.kbar_member (s := s) mode member whole one
  refine ⟨fun at_ new => ?_, fun at_ new => ?_, fun at_ out => ?_, fun at_ new => ?_⟩
  · exact next_congr ((State.krun_of_kat at_).trans ((kbar 0).trans (congrArg (State.barWait · p.val t.val b) (State.barSend_new new))))
  · exact next_congr ((State.krun_of_kat at_).trans ((kbar 1).trans (by rw [State.barSend_new new]; rfl)))
  · exact next_congr ((State.krun_of_kat at_).trans ((kbar 2).trans (if_pos out)))
  · exact next_congr ((State.krun_of_kat at_).trans ((kbar 2).trans (if_neg (Bool.eq_false_iff.1 new))))

/-! ## The release of a barrier -/

theorem Nat.testBit_clrBit (m i : Nat) : (clrBit m i).testBit i = false := by
  unfold clrBit
  split
  · next b =>
    rw [Nat.testBit_eq_decide_div_mod_eq] at b ⊢
    have odd : m / 2 ^ i % 2 = 1 := of_decide_eq_true b
    have quotient : (m - 2 ^ i) / 2 ^ i = m / 2 ^ i - 1 := by
      simpa using Nat.sub_mul_div m (2 ^ i) 1
    rw [quotient, decide_eq_false_iff_not]
    omega
  · next b => exact Bool.eq_false_iff.2 b

/-- What every step of a walk leaves, the walk leaves. -/
theorem State.each_keeps {α γ : Type} (g : State → γ) {f : State → α → State} (hf : ∀ s a, g (f s a) = g s) (s : State) (l : List α) :
    g (s.each l f) = g s := by
  unfold State.each
  induction l generalizing s with
  | nil => rfl
  | cons a l ih => rw [List.foldl_cons, ih, hf]

section
variable {s : State}

theorem State.bars_barFree (s : State) (b k : Nat) : (s.barFree b k).bars = s.bars := by
  unfold State.barFree
  dsimp only
  split <;> rfl

/-- A release leaves a tile's arrival cleared, and clears that of its own tile. -/
theorem State.arrived_barFree (h : s.canon = true) (b k j : Nat) (hj : j = k ∨ has (s.tile j).arrived b = false) :
    has ((s.barFree b k).tile j).arrived b = false := by
  have cleared : has ((s.updSt k (fun y => { y with arrived := clrBit y.arrived b })).tile j).arrived b = false := by
    by_cases e : j = k
    · rw [e, State.tile_updSt_self h]
      exact Nat.testBit_clrBit _ b
    · rw [State.tile_updSt_ne _ _ _ _ e]
      exact hj.resolve_left e
  unfold State.barFree
  dsimp only
  split
  · by_cases e : j = k
    · subst e
      rw [State.tile_updSt_self (s := (s.updSt j _).draw.2) ((Evolves.draw (.updSt (.refl s))).canonOf ((canon_iff s).1 h))]
      unfold STile.retire STile.setX
      dsimp only
      split <;> exact cleared
    · rw [State.tile_updSt_ne _ _ _ _ e]
      exact cleared
  · exact cleared

theorem State.arrived_each_barFree (h : s.canon = true) (b p : Nat) (l : List Nat) (j : Nat)
    (hj : (∃ i ∈ l, j = kSt p i) ∨ has (s.tile j).arrived b = false) :
    has ((s.each l (fun s t => s.barFree b (kSt p t))).tile j).arrived b = false := by
  induction l generalizing s with
  | nil =>
    obtain ⟨i, hi, -⟩ | hj := hj
    · cases hi
    · exact hj
  | cons a l ih =>
    refine ih (s := s.barFree b (kSt p a)) ((Evolves.barFree (.refl s)).canonOf ((canon_iff s).1 h)) ?_
    obtain ⟨i, hi, e⟩ | hj := hj
    · rcases List.mem_cons.1 hi with rfl | hi
      · exact .inr (State.arrived_barFree h _ _ _ (.inl e))
      · exact .inl ⟨i, hi, e⟩
    · exact .inr (State.arrived_barFree h _ _ _ (.inr hj))

theorem State.advCnt_keeps (s : State) (u i : Nat) : (s.advCnt u i).sts = s.sts ∧ (s.advCnt u i).bars = s.bars := by
  unfold State.advCnt
  split <;> exact ⟨rfl, rfl⟩

theorem State.barEngine_keeps (s : State) (p i n : Nat) : (s.barEngine p i n).sts = s.sts ∧ (s.barEngine p i n).bars = s.bars := by
  unfold State.barEngine
  split
  · exact ⟨rfl, rfl⟩
  · exact State.advCnt_keeps s _ n

/-- A release at a partition: the barrier has reached it, none of its tiles waits, and its member tiles may arrive again. -/
theorem State.barReach_effect (h : s.canon = true) {c b p : Nat} (due : (s.bar c b).toRelease.contains p = true) :
    ((s.barReach c b p).bar c b).toRelease = (s.bar c b).toRelease.erase p ∧
      (∀ k ∈ ((s.barReach c b p).bar c b).waiting, k / 4 ≠ p) ∧
      (∀ l ∈ (s.bar c b).members, lrefPart l = (s.part p).lp → has ((s.barReach c b p).tile (kSt p (lrefIdx l))).arrived b = false) := by
  let x := s.bar c b
  let lp := (s.part p).lp
  let ts := (x.members.filter (fun l => lrefPart l == lp)).map lrefIdx
  let s0 : State := s.updBar c b (fun y => { y with
      toRelease := y.toRelease.erase p, waiting := y.waiting.filter (fun k => !(decide (k / 4 = p))) })
  let s1 : State := s0.each ts (fun s t => s.barFree b (kSt p t))
  have reach : ∃ g : State → Nat → State, (∀ s y, (g s y).sts = s.sts ∧ (g s y).bars = s.bars) ∧
      s.barReach c b p = (s1.each (s1.ctxsOf c) g).each (x.engs.filter (fun e => lrefPart e.1 == lp)) (fun s e => s.barEngine p (lrefIdx e.1) e.2) := by
    refine ⟨_, ?_, (if_neg (by rw [due]; exact Bool.false_ne_true)).trans rfl⟩
    exact fun s y => ⟨rfl, rfl⟩
  obtain ⟨g, hg, eq⟩ := reach
  have sts : (s.barReach c b p).sts = s1.sts := by
    rw [eq, State.each_keeps State.sts fun s a => (State.barEngine_keeps s _ _ _).1, State.each_keeps State.sts fun s a => (hg s a).1]
  have bars : (s.barReach c b p).bars = s0.bars := by
    rw [eq, State.each_keeps State.bars fun s a => (State.barEngine_keeps s _ _ _).2, State.each_keeps State.bars fun s a => (hg s a).2]
    exact State.each_keeps State.bars (fun s a => State.bars_barFree s _ _) _ _
  have bar : (s.barReach c b p).bar c b = { x with
      toRelease := x.toRelease.erase p, waiting := x.waiting.filter (fun k => !(decide (k / 4 = p))) } :=
    (congrArg (fun m : Map Barrier => Map.get ({} : Barrier) m (32 * c + b)) bars).trans (State.bar_updBar_self h c b _)
  rw [bar]
  refine ⟨rfl, fun k hk => by simpa using (List.mem_filter.1 hk).2, fun l hl part => ?_⟩
  rw [show (s.barReach c b p).tile (kSt p (lrefIdx l)) = s1.tile (kSt p (lrefIdx l)) from
    congrArg (fun m : Map STile => Map.get ({} : STile) m _) sts]
  refine State.arrived_each_barFree ((Evolves.updBar (.refl s)).canonOf ((canon_iff s).1 h)) b p ts _ (.inl ⟨lrefIdx l, ?_, rfl⟩)
  exact List.mem_map_of_mem (List.mem_filter.2 ⟨hl, beq_iff_eq.2 part⟩)

end

/-! ## The express links -/

theorem State.cross_keeps (s : State) (x : Nat) :
    (s.cross (some x)).bars = s.bars ∧ (s.cross (some x)).parts = s.parts ∧ (s.cross (some x)).comps = s.comps := by
  unfold State.cross
  dsimp only
  split <;> exact ⟨rfl, rfl, rfl⟩

theorem State.crossAll_keeps (s : State) (l : List Nat) :
    (s.crossAll l).bars = s.bars ∧ (s.crossAll l).parts = s.parts ∧ (s.crossAll l).comps = s.comps :=
  ⟨State.each_keeps State.bars (fun u x => (State.cross_keeps u x).1) s l,
    State.each_keeps State.parts (fun u x => (State.cross_keeps u x).2.1) s l,
    State.each_keeps State.comps (fun u x => (State.cross_keeps u x).2.2) s l⟩

/-- One hop of a flit on the express links. -/
def State.expressHop (f : Flit) (s : State) (id : Nat) : State := (((s.sendOn id f).crossAll (expressXings id)).landOn id f).freeOn id

theorem State.sendOn_keeps (s : State) (id : Nat) (f : Flit) :
    (s.sendOn id f).bars = s.bars ∧ (s.sendOn id f).parts = s.parts ∧ (s.sendOn id f).comps = s.comps := ⟨rfl, rfl, rfl⟩

theorem State.landOn_freeOn_keeps (s : State) (id : Nat) (f : Flit) : ((s.landOn id f).freeOn id).bars = s.bars ∧
    ((s.landOn id f).freeOn id).parts = s.parts ∧ ((s.landOn id f).freeOn id).comps = s.comps := ⟨rfl, rfl, rfl⟩

theorem State.expressHop_keeps (f : Flit) (s : State) (id : Nat) :
    (s.expressHop f id).bars = s.bars ∧ (s.expressHop f id).parts = s.parts ∧ (s.expressHop f id).comps = s.comps := by
  obtain ⟨sb, sp, sc⟩ := State.sendOn_keeps s id f
  obtain ⟨cb, cp, cc⟩ := State.crossAll_keeps (s.sendOn id f) (expressXings id)
  obtain ⟨lb, lp, lc⟩ := State.landOn_freeOn_keeps ((s.sendOn id f).crossAll (expressXings id)) id f
  exact ⟨lb.trans (cb.trans sb), lp.trans (cp.trans sp), lc.trans (cc.trans sc)⟩

theorem State.express_eq (s : State) (p q : Nat) (f : Flit) :
    s.express p q f = if (expressHops 16 p q).all (fun id => (s.pool id).ready && (expressXings id).all (fun x => s.xingOpen (some x))) then
      some (s.each (expressHops 16 p q) (State.expressHop f)) else none := rfl

/-- A flit on the express links changes no barrier, partition or composition. -/
theorem State.express_keeps {s s' : State} {p q : Nat} {f : Flit} (sent : s.express p q f = some s') :
    s'.bars = s.bars ∧ s'.parts = s.parts ∧ s'.comps = s.comps := by
  rw [State.express_eq] at sent
  split at sent
  · rw [← Option.some.inj sent]
    exact ⟨State.each_keeps State.bars (fun u id => (State.expressHop_keeps f u id).1) _ _,
      State.each_keeps State.parts (fun u id => (State.expressHop_keeps f u id).2.1) _ _,
      State.each_keeps State.comps (fun u id => (State.expressHop_keeps f u id).2.2) _ _⟩
  · cases sent

theorem mkLref_member (lp j : Nat) (hl : lp < 64) (hj : j < 4) : lrefPart (mkLref lp 2 j) = lp ∧ lrefIdx (mkLref lp 2 j) = j := by
  unfold lrefPart lrefIdx mkLref nbits
  rw [Nat.shiftRight_eq_div_pow, Nat.shiftRight_eq_div_pow]
  omega

theorem barrierRootAndSoftStart : Clauses.BarrierRootAndSoftStart := by
  refine ⟨fun s s' c b h whole some_ => ?_, fun s s' c b p h due => ?_, fun s p q f open_ => ?_, fun s p e hold => next_congr (if_pos hold)⟩
  · intro x root first sent
    obtain ⟨bars, -, comps⟩ := State.express_keeps sent
    have h' : s'.canon = true := ((EvolvesIn.express (.refl s)) s' sent).canonOf ((canon_iff s).1 h)
    have arrives : ¬((s.bar c.val b.val).broken ∨ (s.bar c.val b.val).arriving = 0) := by
      rw [whole]
      exact fun o => o.elim Bool.false_ne_true (Nat.ne_of_gt some_)
    refine ⟨fun more => ?_, fun last one => ?_⟩
    · refine next_congr ((if_neg arrives).trans ?_)
      rw [show s.express _ _ _ = some s' from sent]
      exact if_pos more
    · refine next_congr ((if_neg arrives).trans ?_)
      rw [show s.express _ _ _ = some s' from sent]
      refine (if_neg (Nat.not_lt.2 last)).trans ?_
      rw [State.updBar_comp, show s'.comp c.val = s.comp c.val from congrArg (fun m : Map Comp => Map.get ({} : Comp) m c.val) comps, one]
      refine (State.updBar_updBar h' _ _ _ _).trans (State.updBar_congr _ _ _ ?_)
      rw [← show s'.comp c.val = s.comp c.val from congrArg (fun m : Map Comp => Map.get ({} : Comp) m c.val) comps]
      rfl
  · intro root sent
    obtain ⟨bars, parts, -⟩ := State.express_keeps sent
    have h' : s'.canon = true := ((EvolvesIn.express (.refl s)) s' sent).canonOf ((canon_iff s).1 h)
    have bar : s'.bar c.val b.val = s.bar c.val b.val := congrArg (fun m : Map Barrier => Map.get ({} : Barrier) m _) bars
    have part : s'.part p.val = s.part p.val := congrArg (fun m : Map Part => Map.get ({} : Part) m p.val) parts
    have effect := State.barReach_effect h' (c := c.val) (b := b.val) (p := p.val) (by rw [bar]; exact due)
    rw [bar, part] at effect
    obtain ⟨release, waiting, arrived⟩ := effect
    refine ⟨s'.barReach c.val b.val p.val, ?_, release, waiting, fun j hj lp => ?_⟩
    · refine next_congr ((if_neg (by rw [due]; exact Bool.false_ne_true)).trans ?_)
      rw [show s.express _ _ _ = some s' from sent]
    · obtain ⟨mpart, midx⟩ := mkLref_member (s.part p.val).lp j.val lp j.isLt
      simpa only [midx] using arrived _ hj mpart
  · rw [State.express_eq, if_pos open_]
    rfl

/-- Settles O23. -/
theorem barriersOfACulture : Obligations.BarriersOfACulture := ⟨scalarBarriers, barrierRootAndSoftStart⟩

end Sys2Proof.Machine
end

section
/-!
SUPPORT. The die network (chapter 5): flits that land, pours and churns, credits, audits and crossings.
-/

namespace Sys2Proof.Machine

/-! ## Flits -/

section
variable {s : State} {r : RouterId} {port : RPort} {f : Flit} {id : Nat}

/-- What a flit that lands leaves before its router looks at it. -/
def State.landed (s : State) (r : RouterId) (port : RPort) (f : Flit) (id : Nat) : State :=
  ((s.landOn id (cleanFlit f)).crossAll (landXings r.val (RPort.num port))).checkPool id

/-- A flit next in flight, at a powered router over open crossings, lands and is looked at. -/
theorem State.flitIn_landed (on : s.routerOn r.val = true) (flight : s.flightOf r.val (RPort.num port) f = some id)
    (open_ : s.landOpen r.val (RPort.num port) = true) :
    s.flitIn r.val (RPort.num port) f = (s.landed r port f id).takeFlit r.val (RPort.num port) id f := by
  unfold State.flitIn
  rw [on, flight]
  exact (if_neg (by decide)).trans (if_pos open_)

theorem exec_flitArrive_good (good : f.eccBad = false) : exec (.flitArrive r port f) s = .next (s.flitIn r.val (RPort.num port) f) := by
  refine next_congr ?_
  rw [good]
  rfl

theorem exec_flitArrive_bad (bad : f.eccBad = true) (on : (s.flitIn r.val (RPort.num port) f).routerOn r.val = true) :
    exec (.flitArrive r port f) s = .next (let e := (s.flitIn r.val (RPort.num port) f).eccSeen r.val
      if e.1 then e.2.routerFault r.val else e.2) := by
  refine next_congr ?_
  dsimp only
  rw [bad, on]
  rfl

end

section
variable {s : State} {r port id : Nat} {f : Flit}

/-- A flit with a bad control word, or on a VC that is not its KIND's, is dropped. -/
theorem State.takeFlit_dropped (parity : f.parityBad = 0) (bad : f.eccBad = true ∨ kindVc f.kind f.vc ≠ some f.vc) :
    s.takeFlit r port id f = (s.dropFlit r id).returnQueue f := by
  unfold State.takeFlit
  rw [if_pos parity]
  exact if_pos bad

/-- A good pour flit. -/
theorem State.takeFlit_pour (parity : f.parityBad = 0) (ecc : f.eccBad = false) (vc : kindVc f.kind f.vc = some f.vc) (kind : f.kind = 4) :
    s.takeFlit r port id f = match s.entryOf r f with
      | none => s.dropFlit r id
      | some _ => s.updRouter r (fun x => { x with inq := x.inq ++ [⟨port, id, f⟩] }) := by
  unfold State.takeFlit
  rw [if_pos parity]
  refine (if_neg (by simp [ecc, vc])).trans ((if_neg (by rw [kind]; decide)).trans (if_pos kind))

/-- A good churn flit without an entry. -/
theorem State.takeFlit_churn_none (parity : f.parityBad = 0) (ecc : f.eccBad = false) (vc : kindVc f.kind f.vc = some f.vc) (kind : f.kind = 5)
    (entry : s.entryOf r f = none) : s.takeFlit r port id f = s.dropFlit r id := by
  unfold State.takeFlit
  rw [if_pos parity]
  refine (if_neg (by simp [ecc, vc])).trans ((if_neg (by rw [kind]; decide)).trans ((if_neg (by rw [kind]; decide)).trans ((if_pos kind).trans ?_)))
  rw [entry]

/-- Any other good flit with none waiting before it moves on, if it can. -/
theorem State.takeFlit_other (parity : f.parityBad = 0) (ecc : f.eccBad = false) (vc : kindVc f.kind f.vc = some f.vc) (k4 : f.kind ≠ 4)
    (k5 : f.kind ≠ 5) (k8 : f.kind ≠ 8) (first : (s.router r).inq.any (fun x => x.pool == id) = false) {u : State}
    (moves : s.moveOn r id f = (true, u)) : s.takeFlit r port id f = u := by
  unfold State.takeFlit
  rw [if_pos parity]
  refine (if_neg (by simp [ecc, vc])).trans ((if_neg k8).trans ((if_neg k4).trans ((if_neg k5).trans
    ((if_neg (Bool.eq_false_iff.1 first)).trans ?_))))
  rw [moves]
  rfl

end

/-- Settles O24. -/
theorem flitsLandAndMoveOn : Obligations.FlitsLandAndMoveOn := by
  intro s r port f id landed dropped t on flight open_ parity
  have lands := State.flitIn_landed on flight open_
  have bad (h : f.eccBad = true ∨ kindVc f.kind f.vc ≠ some f.vc) : s.flitIn r.val (RPort.num port) f = dropped :=
    lands.trans (State.takeFlit_dropped parity h)
  refine ⟨fun ecc on' => ?_, fun ecc vc => ?_, fun ecc vc => ⟨fun kind entry => ?_, fun e kind entry => ?_⟩, fun ecc vc k4 k5 k8 first => ⟨?_, ?_⟩⟩
  · have at_ := bad (.inl ecc)
    rw [exec_flitArrive_bad ecc (by rw [at_]; exact on'), at_]
  · exact (exec_flitArrive_good ecc).trans (congrArg _ (bad (.inr vc)))
  · refine (exec_flitArrive_good ecc).trans (congrArg _ (lands.trans ?_))
    rcases kind with kind | kind
    · rw [State.takeFlit_pour parity ecc vc kind, show (s.landed r port f id).entryOf r.val f = none from entry]
      rfl
    · exact State.takeFlit_churn_none parity ecc vc kind entry
  · refine (exec_flitArrive_good ecc).trans (congrArg _ (lands.trans ?_))
    rw [State.takeFlit_pour parity ecc vc kind, show (s.landed r port f id).entryOf r.val f = some e from entry]
    rfl
  · intro last free xing
    refine (exec_flitArrive_good ecc).trans (congrArg _ (lands.trans (State.takeFlit_other parity ecc vc k4 k5 k8 first ?_)))
    exact (if_pos last).trans (if_pos (by rw [free, xing]; rfl))
  · intro more may
    refine (exec_flitArrive_good ecc).trans (congrArg _ (lands.trans (State.takeFlit_other parity ecc vc k4 k5 k8 first ?_)))
    exact (if_neg more).trans (if_pos may)

/-! ## Credits and audits -/

/-- An entry that is listed reads back, whatever the table. -/
theorem Map.get_set_listed {β : Type} [DecidableEq β] {d v : β} (hv : v ≠ d) (k : Nat) (m : Map β) : Map.get d (Map.set d k v m) k = v := by
  induction m with
  | nil => simp [Map.set, Map.get, hv]
  | cons e m ih =>
    unfold Map.set
    split
    · exact if_pos rfl
    · split
      · exact if_pos rfl
      · next hne =>
        rw [Map.get, if_neg (Ne.symm hne), ih]

section
variable {s : State} {pool : Nat}

theorem State.pool_updPool (s : State) (id : Nat) (f : Pool → Pool) : (s.updPool id f).pool id = f (s.pool id) := by
  unfold State.updPool State.pool
  dsimp only
  rw [Map.get_set_listed (Option.some_ne_none _)]
  rfl

theorem State.updPool_congr {id : Nat} {f g : Pool → Pool} (h : f (s.pool id) = g (s.pool id)) : s.updPool id f = s.updPool id g := by
  unfold State.updPool
  rw [h]

/-- The audit a pool waits for stands until its flit is answered. -/
theorem State.audit_landed (s : State) (id : Nat) (f : Flit) : (((s.landOn id f).freeOn id).pool id).audit = (s.pool id).audit := by
  have freed := State.pool_updPool (s.landOn id f) id (fun p => { p with occ := p.occ - 1, fly := p.fly + 1, ret := p.ret + 1, cs := p.cs + 1 })
  have landed : (s.landOn id f).pool id =
      { s.pool id with fly := (s.pool id).fly - 1, occ := (s.pool id).occ + 1, rx := (s.pool id).rx + 1 } := State.pool_updPool s id (fun p => { p with fly := p.fly - 1, occ := p.occ + 1, rx := p.rx + 1 })
  refine (congrArg Pool.audit freed).trans ?_
  rw [landed]

end

theorem creditsAndAudits : Clauses.CreditsAndAudits := by
  intro s pool q
  have bounded (h : pool < 2 ^ 21 ∨ 2 ^ 27 ≤ pool) : ¬(2 ^ 21 ≤ pool ∧ pool < 2 ^ 27) := by omega
  refine ⟨fun ret first => ?_, fun site ready audit answer between => ?_, fun lo hi => ?_, fun v audit next => ?_, fun v answer behind => ?_,
    fun site res occ fly held => ?_, fun site res occ fly held => ?_, fun lo hi res balance => ⟨fun held => ?_, fun held => ?_⟩⟩
  · exact next_congr (if_pos (by rw [decide_eq_true ret, first]; rfl))
  · refine next_congr ((if_neg (bounded site)).trans (if_pos ?_))
    rw [show (s.pool pool).ready = true from ready, show (s.pool pool).audit = none from audit, show (s.pool pool).answer = none from answer, between]
    rfl
  · exact next_congr (if_pos ⟨lo, hi⟩)
  · refine next_congr ?_
    rw [show (s.pool pool).audit = some v from audit]
    refine (if_neg (not_not_intro next)).trans (State.updPool_congr ?_)
    rw [State.audit_landed, show (s.pool pool).audit = some v from audit]
  · refine next_congr ?_
    rw [show (s.pool pool).answer = some v from answer]
    refine if_neg ?_
    unfold Pool.answerFirst
    rw [show (s.pool pool).answer = some v from answer]
    simpa using behind
  · exact next_congr ((if_neg (by simp [show (s.pool pool).resolving = true from res])).trans ((if_neg (bounded site)).trans
      ((if_neg (by simp [show (s.pool pool).occ = 0 from occ, show (s.pool pool).fly = 0 from fly])).trans (if_pos held))))
  · intro t stopped
    exact next_congr ((if_neg (by simp [show (s.pool pool).resolving = true from res])).trans ((if_neg (bounded site)).trans
      ((if_neg (by simp [show (s.pool pool).occ = 0 from occ, show (s.pool pool).fly = 0 from fly])).trans (if_neg held))))
  · exact next_congr ((if_neg (by simp [show (s.pool pool).resolving = true from res])).trans ((if_pos ⟨lo, hi⟩).trans
      ((if_neg (not_not_intro balance)).trans (if_pos held))))
  · exact next_congr ((if_neg (by simp [show (s.pool pool).resolving = true from res])).trans ((if_pos ⟨lo, hi⟩).trans
      ((if_neg (not_not_intro balance)).trans (if_neg held))))

/-! ## Crossings -/

section
variable {s : State} {x : Nat}

theorem State.xing_updXing (h : Map.wf {} s.net.xings = true) (f : Xing → Xing) : (s.updXing x f).xing x = f (s.xing x) :=
  Map.get_upd_self _ _ _ _ h

theorem State.updXing_updXing (h : Map.wf {} s.net.xings = true) (f g : Xing → Xing) :
    (s.updXing x f).updXing x g = s.updXing x (fun y => g (f y)) := by
  unfold State.updXing
  dsimp only
  rw [Map.upd_upd _ _ _ _ _ h]

theorem State.updXing_congr {f g : Xing → Xing} (h : f (s.xing x) = g (s.xing x)) : s.updXing x f = s.updXing x g := by
  unfold State.updXing Map.upd
  rw [show f (Map.get {} s.net.xings x) = g (Map.get {} s.net.xings x) from h]

/-- A walk whose every step leaves the state is none. -/
theorem State.each_fixed {α : Type} {f : State → α → State} {l : List α} (h : ∀ a ∈ l, f s a = s) : s.each l f = s := by
  unfold State.each
  induction l with
  | nil => rfl
  | cons a l ih => rw [List.foldl_cons, h a List.mem_cons_self, ih fun b hb => h b (List.mem_cons_of_mem _ hb)]

end

theorem crossings : Clauses.Crossings := by
  intro s x y stopped
  have service (wf : Map.wf {} s.net.xings = true) : (stopped.xing x).service = y.service := by
    rw [show stopped.xing x = _ from State.xing_updXing wf _]
  refine ⟨fun wf off => ?_, fun wf on => ?_, ?_, fun off clock data => ?_, fun no => ?_, fun idle clean => ?_, fun wf res pools size => ?_⟩
  · exact next_congr (if_neg (by rw [show (stopped.xing x).service = _ from service wf, off]; exact Bool.false_ne_true))
  · exact next_congr (if_pos ((service wf).trans on))
  · exact next_congr (if_neg (by simp))
  · refine next_congr (if_pos ?_)
    rw [show (s.xing x).service = false from off, show (s.xing x).clockStopped = true from clock, decide_eq_true data]
    rfl
  · refine next_congr (if_neg ?_)
    rcases no with on | clock | data
    · simp [show (s.xing x).service = true from on]
    · simp [show (s.xing x).clockStopped = false from clock]
    · simp [data]
  · refine next_congr ((if_neg (not_not_intro idle)).trans ?_)
    have stays : s.each (xingFrom x) (fun s e =>
        let s := s.each (s.net.flights.filter (fun y => poolSite y.1 == e && y.2.kind != 8 && s.oldFlit y.2)) (fun s y =>
          ((s.landOn y.1 y.2).dropFlit e.1 y.1).returnQueue y.2)
        s.each ((s.router e.1).inq.filter (fun y => y.port == e.2 && s.oldFlit y.flit)) (fun s y =>
          ((s.updRouter e.1 (fun z => { z with inq := z.inq.erase y })).dropFlit e.1 y.pool).returnQueue y.flit)) = s := by
      refine State.each_fixed fun e he => ?_
      obtain ⟨flights, held⟩ := clean e he
      have noFlight : s.net.flights.filter (fun y => poolSite y.1 == e && y.2.kind != 8 && s.oldFlit y.2) = [] := by
        rw [List.filter_eq_nil_iff]
        intro z hz old
        simp only [Bool.and_eq_true, beq_iff_eq, bne_iff_ne] at old
        exact absurd old.2 (Bool.eq_false_iff.1 (flights z hz old.1.1 old.1.2))
      have noHeld : (s.router e.1).inq.filter (fun y => y.port == e.2 && s.oldFlit y.flit) = [] := by
        rw [List.filter_eq_nil_iff]
        intro z hz old
        simp only [Bool.and_eq_true, beq_iff_eq] at old
        exact absurd old.2 (Bool.eq_false_iff.1 (held z hz old.1))
      dsimp only
      rw [noFlight]
      exact (congrArg (fun l => s.each l _) noHeld)
    dsimp only
    rw [stays]
  · refine next_congr ((if_neg (not_not_intro res)).trans ?_)
    rw [pools]
    have counted := State.xing_updXing (x := x) wf (fun y => { y with held := y.held + (y.sent - y.credRcvd).toNat, credRcvd := y.sent, rsync := 0 })
    refine Eq.trans (if_pos ⟨(congrArg Xing.held counted).trans (size.trans (congrArg Xing.size counted).symm), rfl⟩) ?_
    refine congrArg (State.stirXing · x) ((State.updXing_updXing wf _ _).trans (State.updXing_congr ?_))
    rw [show (s.xing x).held + ((s.xing x).sent - (s.xing x).credRcvd).toNat = (s.xing x).size from size]

/-- Settles O26. -/
theorem creditsAndCrossings : Obligations.CreditsAndCrossings := ⟨creditsAndAudits, crossings⟩

end Sys2Proof.Machine
end

section
/-!
SUPPORT. What answering a request and writing the journal leave unchanged, and what leaving units and serving a withdrawn keyslot leave
unchanged.
-/
namespace Sys2Proof.Machine

set_option Elab.async false

/-! ## What an answer and a journal record leave unchanged -/

/-- The tables of partitions, compositions, contexts, tokens and ranges of `t` are those of `s`. -/
structure Answered (s t : State) : Prop where
  keepsParts : t.parts = s.parts
  keepsComps : t.comps = s.comps
  keepsCtxs : t.ctxs = s.ctxs
  keepsTokens : t.tokens = s.tokens
  keepsXlt : t.xlt = s.xlt
  keepsFreedXids : t.freedXids = s.freedXids
  keepsFreeCids : t.freeCids = s.freeCids

theorem Answered.refl (s : State) : Answered s s := ⟨rfl, rfl, rfl, rfl, rfl, rfl, rfl⟩

theorem Answered.trans {r s t : State} (h : Answered r s) (g : Answered s t) : Answered r t :=
  ⟨g.keepsParts.trans h.keepsParts, g.keepsComps.trans h.keepsComps, g.keepsCtxs.trans h.keepsCtxs, g.keepsTokens.trans h.keepsTokens,
    g.keepsXlt.trans h.keepsXlt, g.keepsFreedXids.trans h.keepsFreedXids, g.keepsFreeCids.trans h.keepsFreeCids⟩

section
variable {s t : State}

theorem Answered.ite {c : Prop} [Decidable c] {a b : State} (ha : Answered s a) (hb : Answered s b) : Answered s (if c then a else b) := by
  split
  · exact ha
  · exact hb

theorem Answered.each {α : Type} {l : List α} {f : State → α → State} (h : Answered s t)
    (hf : ∀ u a, Answered s u → Answered s (f u a)) : Answered s (t.each l f) := by
  induction l generalizing t with
  | nil => exact h
  | cons a l ih => exact ih (hf t a h)

theorem Answered.comp (h : Answered s t) (c : Nat) : t.comp c = s.comp c := congrArg (fun m : Map Comp => Map.get ({} : Comp) m c) h.keepsComps
theorem Answered.part (h : Answered s t) (p : Nat) : t.part p = s.part p := congrArg (fun m : Map Part => Map.get ({} : Part) m p) h.keepsParts
theorem Answered.ctx (h : Answered s t) (x : Nat) : t.ctx x = s.ctx x := congrArg (fun m : Map Ctx => Map.get ({} : Ctx) m x) h.keepsCtxs
theorem Answered.token (h : Answered s t) (k : Nat) : t.token k = s.token k := congrArg (fun m : Map Token => Map.get ({} : Token) m k) h.keepsTokens
theorem Answered.slot (h : Answered s t) (x i : Nat) : t.slot x i = s.slot x i := congrArg (fun r : Xlt => Map.get {} r.slots (4096 * x + i)) h.keepsXlt

/-- What a change outside those tables keeps. -/
theorem Answered.of {u : State} (h : Answered s t) (hp : u.parts = t.parts := by rfl) (hc : u.comps = t.comps := by rfl)
    (hx : u.ctxs = t.ctxs := by rfl) (ht : u.tokens = t.tokens := by rfl) (hr : u.xlt = t.xlt := by rfl)
    (hf : u.freedXids = t.freedXids := by rfl) (hg : u.freeCids = t.freeCids := by rfl) : Answered s u :=
  h.trans ⟨hp, hc, hx, ht, hr, hf, hg⟩

theorem Answered.updFn {c f} (h : Answered s t) : Answered s (t.updFn c f) := h.of
theorem Answered.emit {o} (h : Answered s t) : Answered s (t.emit o) := h.of
theorem Answered.updRing {c r f} (h : Answered s t) : Answered s (t.updRing c r f) := h.updFn
theorem Answered.hostTx {p n} (h : Answered s t) : Answered s (t.hostTx p n) := h.of
theorem Answered.updHmem {p f} (h : Answered s t) : Answered s (t.updHmem p f) := h.of
theorem Answered.mbxRespond {i status err tag ws} (h : Answered s t) : Answered s (t.mbxRespond i status err tag ws) := h.of

theorem Answered.logPage {c page kind} (h : Answered s t) : Answered s (t.logPage c page kind) :=
  .ite h (.ite h.updFn (.ite h.updFn (h.updHmem.hostTx.updFn)))

theorem Answered.cqVisible {c r slot rec_} (h : Answered s t) : Answered s (t.cqVisible c r slot rec_) := h.updHmem.updRing.hostTx.logPage

theorem Answered.signal {c r} (h : Answered s t) : Answered s (t.signal c r) := .ite h.emit.updRing h

theorem Answered.cqWrite {c r rec_} (h : Answered s t) : Answered s (t.cqWrite c r rec_) :=
  .ite h.updRing.updRing h.updRing.cqVisible.signal

theorem Answered.recall {c line} (h : Answered s t) : Answered s (t.recall c line) := .ite h.updFn.emit h

theorem Answered.wrRegion {f o bs} (h : Answered s t) : Answered s (t.wrRegion f o bs) :=
  ((h.each fun _ _ h' => h'.recall).updFn).logPage

theorem Answered.toJournal {c r rec_} (h : Answered s t) : Answered s (t.toJournal c r rec_) := h.updFn.wrRegion

theorem Answered.putRecord {c r era rec_} (h : Answered s t) : Answered s (t.putRecord c r era rec_) :=
  .ite (.updRing (.ite h.updRing.cqWrite h.updRing.toJournal)) h.toJournal

theorem Answered.answer {r status ws} (h : Answered s t) : Answered s (t.answer r status ws) := by
  unfold State.answer
  split
  · exact h.emit
  · exact h.mbxRespond
  · exact h.updFn.putRecord

theorem Answered.reply {r status ws} (h : Answered s t) : Answered s (t.reply r status ws) := by
  unfold State.reply
  split
  · exact h
  · exact h.answer

theorem Answered.append {e} (h : Answered s t) : Answered s (t.append e) := h.of

theorem Answered.durableRun {rs} (h : Answered s t) : Answered s (t.durableRun rs) :=
  (h.of : Answered s { t with jrn := { t.jrn with waiting := [] } }).each fun _ _ h' => h'.append

theorem Answered.journalRun {rs} (h : Answered s t) : Answered s (t.journalRun rs) := .ite h.durableRun h.of

theorem Answered.journal {r} (h : Answered s t) : Answered s (t.journal r) := h.journalRun

theorem Answered.sendAnswers (h : Answered s t) : Answered s t.sendAnswers :=
  (h.of : Answered s { t with jrn := { t.jrn with owed := [] } }).each fun _ _ h' => h'.answer

theorem Answered.answerDurable {r ws} (h : Answered s t) : Answered s (t.answerDurable r ws) := by
  unfold State.answerDurable
  split
  · exact h.sendAnswers.answer
  · exact h.of

end

/-! ## What leaving units and serving a keyslot leave unchanged -/

/-- The tokens, the freed names and the generations of compositions of `t` are those of `s`. -/
structure Aside (s t : State) : Prop where
  keepsTokens : t.tokens = s.tokens
  keepsFreedXids : t.freedXids = s.freedXids
  keepsFreeCids : t.freeCids = s.freeCids
  keepsGens : ∀ c, (t.comp c).gen = (s.comp c).gen

theorem Aside.refl (s : State) : Aside s s := ⟨rfl, rfl, rfl, fun _ => rfl⟩

theorem Aside.trans {r s t : State} (h : Aside r s) (g : Aside s t) : Aside r t :=
  ⟨g.keepsTokens.trans h.keepsTokens, g.keepsFreedXids.trans h.keepsFreedXids, g.keepsFreeCids.trans h.keepsFreeCids,
    fun c => (g.keepsGens c).trans (h.keepsGens c)⟩

theorem Answered.aside {s t : State} (h : Answered s t) : Aside s t :=
  ⟨h.keepsTokens, h.keepsFreedXids, h.keepsFreeCids, fun c => congrArg Comp.gen (h.comp c)⟩

section
variable {s t : State}

theorem Aside.ite {c : Prop} [Decidable c] {a b : State} (ha : Aside s a) (hb : Aside s b) : Aside s (if c then a else b) := by
  split
  · exact ha
  · exact hb

theorem Aside.each {α : Type} {l : List α} {f : State → α → State} (h : Aside s t) (hf : ∀ u a, Aside s u → Aside s (f u a)) :
    Aside s (t.each l f) := by
  induction l generalizing t with
  | nil => exact h
  | cons a l ih => exact ih (hf t a h)

theorem Aside.of {u : State} (h : Aside s t) (ht : u.tokens = t.tokens := by rfl) (hf : u.freedXids = t.freedXids := by rfl)
    (hg : u.freeCids = t.freeCids := by rfl) (hc : u.comps = t.comps := by rfl) : Aside s u :=
  h.trans ⟨ht, hf, hg, fun c => congrArg (fun m : Map Comp => (Map.get ({} : Comp) m c).gen) hc⟩

theorem Aside.updUnit {u f} (h : Aside s t) : Aside s (t.updUnit u f) := h.of
theorem Aside.updEng {u f} (h : Aside s t) : Aside s (t.updEng u f) := h.of
theorem Aside.updVt {u f} (h : Aside s t) : Aside s (t.updVt u f) := h.of
theorem Aside.updSt {u f} (h : Aside s t) : Aside s (t.updSt u f) := h.of
theorem Aside.updChan {u f} (h : Aside s t) : Aside s (t.updChan u f) := h.of
theorem Aside.updStage {c g f} (h : Aside s t) : Aside s (t.updStage c g f) := h.of
theorem Aside.updPart {p f} (h : Aside s t) : Aside s (t.updPart p f) := h.of
theorem Aside.updIsl {p f} (h : Aside s t) : Aside s (t.updIsl p f) := h.of
theorem Aside.qFree {i n} (h : Aside s t) : Aside s (t.qFree i n) := h.of
theorem Aside.emit {o} (h : Aside s t) : Aside s (t.emit o) := h.of
theorem Aside.answer {r status ws} (h : Aside s t) : Aside s (t.answer r status ws) := h.trans (Answered.refl t).answer.aside
theorem Aside.journal {r} (h : Aside s t) : Aside s (t.journal r) := h.trans (Answered.refl t).journal.aside

theorem Aside.handBack {u} (h : Aside s t) : Aside s (t.handBack u) := by
  unfold State.handBack
  split
  · exact h.qFree
  · exact h.qFree.each fun _ _ h' => h'.qFree
  · exact h.qFree

theorem Aside.clearUnit {u} (h : Aside s t) : Aside s (t.clearUnit u) := by
  unfold State.clearUnit
  dsimp only
  split
  · exact h.handBack.updEng
  · exact h.handBack.updVt
  · exact h.handBack.updSt

theorem Aside.ackWithdraw {x idx u} (h : Aside s t) : Aside s (t.ackWithdraw x idx u) := by
  unfold State.ackWithdraw
  split
  · exact h
  · exact .ite (.answer h.of) h.of

theorem Aside.leaveUnit {u} (h : Aside s t) : Aside s (t.leaveUnit u) := h.updUnit.each fun _ _ h' => h'.ackWithdraw

theorem Aside.evict {c g} (h : Aside s t) : Aside s (t.evict c g) := (h.each fun _ _ h' => h'.clearUnit.leaveUnit).updStage

theorem Aside.leaveAll {x} (h : Aside s t) : Aside s (t.leaveAll x) :=
  (h.each fun _ _ h' => h'.evict).each fun _ _ h' => h'.clearUnit.leaveUnit

theorem Comp.gen_updComp {c : Nat} {f : Comp → Comp} (hf : ∀ x, f x ≠ {}) (hg : ∀ x, (f x).gen = x.gen) (s : State) (d : Nat) :
    ((s.updComp c f).comp d).gen = (s.comp d).gen := by
  by_cases hd : d = c
  · subst hd
    exact (congrArg Comp.gen (Map.get_set_listed (hf _) d s.comps)).trans (hg _)
  · exact congrArg Comp.gen (Map.get_upd_ne _ _ _ _ _ hd)

theorem Map.set_ne_nil {β : Type} [DecidableEq β] {d v : β} (hv : v ≠ d) (k : Nat) (m : Map β) : Map.set d k v m ≠ [] := fun h =>
  hv ((Map.get_set_listed hv k m).symm.trans (congrArg (fun m => Map.get d m k) h))

theorem Aside.poisonSet {ch off} (h : Aside s t) : Aside s (t.poisonSet ch off) := by
  unfold State.poisonSet
  split
  · exact h
  · refine h.trans ⟨rfl, rfl, rfl, Comp.gen_updComp ?_ ?_ t⟩
    · intro x hx
      refine Map.set_ne_nil ?_ _ _ (congrArg Comp.weights hx)
      intro hv
      have hp := congrArg WSet.poisoned hv
      dsimp only at hp
      split at hp
      · next hq => exact absurd (hq.symm.trans hp) (by decide)
      · exact Bool.noConfusion (hp : true = false)
    · exact fun _ => rfl

theorem Aside.queueRow {ch row} (h : Aside s t) : Aside s (t.queueRow ch row) := .ite h h.of

theorem Aside.poisonBlock {ch b} (h : Aside s t) : Aside s (t.poisonBlock ch b) := h.updChan.queueRow.each fun _ _ h' => h'.poisonSet

theorem Aside.decodeSector {ch i err} (h : Aside s t) : Aside s (t.decodeSector ch i err).2 := by
  unfold State.decodeSector
  extract_lets -underBinder
  split
  · exact h
  · split
    · exact h
    · extract_lets -underBinder _ _ t1
      have h1 : Aside s t1 := h.updChan
      exact .ite h1.queueRow h1
    · dsimp only
      exact h.updChan.queueRow.poisonSet
    · dsimp only
      exact h.poisonBlock

theorem Aside.rdSector {ch i keysel cls err} (h : Aside s t) : Aside s (t.rdSector ch i keysel cls err).2.2 := by
  unfold State.rdSector
  dsimp only
  split
  · exact h.decodeSector.updChan
  · exact h.decodeSector.updChan

theorem Aside.wrSector {ch i keysel cls d} (h : Aside s t) : Aside s (t.wrSector ch i keysel cls d) := h.updChan

theorem Aside.wrPartial {ch i keysel cls d mask err} (h : Aside s t) : Aside s (t.wrPartial ch i keysel cls d mask err).2 := by
  unfold State.wrPartial
  dsimp only
  split
  · exact h.rdSector
  · exact h.rdSector.wrSector

theorem Aside.wrSectorErr {ch i keysel cls d err} (h : Aside s t) : Aside s (t.wrSectorErr ch i keysel cls d err) := by
  unfold State.wrSectorErr
  split
  · exact h.poisonBlock.wrSector
  · exact h.wrSector

theorem Aside.serve {r ovr} (h : Aside s t) : Aside s (t.serve r ovr) := by
  unfold State.serve
  extract_lets -underBinder t1
  have h1 : Aside s t1 := .ite h.updChan h
  split
  exacts [h1.rdSector.emit, h1.wrSectorErr.emit, .ite h1.wrPartial.emit h1.wrPartial.emit]

theorem Aside.serveKey {ch slot fuel} (h : Aside s t) : Aside s (t.serveKey ch slot fuel) := by
  induction fuel generalizing t with
  | zero => exact h
  | succ n ih =>
    unfold State.serveKey
    dsimp only
    split
    · exact h
    · exact ih h.updChan.serve

theorem Aside.freeHeld {pkg} (h : Aside s t) : Aside s (t.freeHeld pkg) := h.of

theorem Aside.enter {r} (h : Aside s t) : Aside s (t.enter r) := .ite h.updChan h.serve

theorem Aside.letIn {ch fuel} (h : Aside s t) : Aside s (t.letIn ch fuel) := by
  induction fuel generalizing t with
  | zero => exact h
  | succ n ih =>
    unfold State.letIn
    split
    · exact h
    · exact .ite (ih h.updChan.freeHeld.enter) h

theorem Aside.serveSlot {slot} (h : Aside s t) : Aside s (t.serveSlot slot) :=
  h.each fun _ _ h' => .ite ((h'.serveKey.updChan.each fun _ _ h1 => h1.freeHeld.serve).each fun _ _ h1 => h1.letIn) h'

theorem Aside.withdrawSlot {k} (h : Aside s t) : Aside s (t.withdrawSlot k) := h.serveSlot.of

end

end Sys2Proof.Machine
end

section
/-! SUPPORT. Contexts are created, destroyed and torn down (R239, R240, R447). -/
namespace Sys2Proof.Machine

/-! ## The tokens a teardown releases -/

section
variable {β : Type} [DecidableEq β] {d : β}

/-- A listed entry reads back. -/
theorem Map.get_of_mem {m : Map β} (h : Map.wf d m = true) {e : Nat × β} (he : e ∈ m) : Map.get d m e.1 = e.2 := by
  induction m with
  | nil => exact absurd he (by simp)
  | cons a m ih =>
    obtain ⟨-, hk, hm⟩ := (Map.wf_cons d a.2 a.1 m).1 h
    rcases List.mem_cons.1 he with rfl | he
    · exact if_pos rfl
    · exact (if_neg (Nat.ne_of_lt (hk e he))).trans (ih hm he)

omit [DecidableEq β] in
/-- What a key reads as is listed, unless it is the default. -/
theorem Map.mem_of_get {m : Map β} {k : Nat} (h : Map.get d m k ≠ d) : (k, Map.get d m k) ∈ m := by
  induction m with
  | nil => exact absurd rfl h
  | cons a m ih =>
    unfold Map.get at h ⊢
    split
    · next hk => exact hk ▸ List.mem_cons_self
    · next hk =>
      rw [if_neg hk] at h
      exact List.mem_cons_of_mem _ (ih h)

end

/-- Whether a token is one that a context holds: it is neither free nor released. -/
def Token.live (k : Token) : Prop := k.st ≠ .none ∧ k.st ≠ .released

theorem State.mem_tokensOf (s : State) (hs : s.canon = true) (x k : Nat) :
    k ∈ s.tokensOf x ↔ (s.token k).xid = x ∧ (s.token k).live := by
  simp only [State.tokensOf, List.mem_map, List.mem_filter, Bool.and_eq_true, beq_iff_eq, decide_eq_true_eq]
  constructor
  · rintro ⟨e, ⟨he, hx, hl⟩, rfl⟩
    have hg : s.token e.1 = e.2 := Map.get_of_mem (State.tokens_wf hs) he
    rw [hg]
    exact ⟨hx, hl⟩
  · rintro ⟨hx, hl⟩
    refine ⟨(k, s.token k), ⟨Map.mem_of_get fun h => hl.1 ?_, hx, hl⟩, rfl⟩
    exact congrArg Token.st h

theorem State.tokensOf_congr {s t : State} {x : Nat} (h : t.tokens = s.tokens) : t.tokensOf x = s.tokensOf x := by
  unfold State.tokensOf
  rw [h]

section
variable {s : State} {t : Nat}

theorem State.ackHandoff_token_ne {o : Owed} {k : Nat} (hk : k ≠ t) : (s.ackHandoff t o).token k = s.token k := by
  unfold State.ackHandoff
  extract_lets _ _ t1 t2
  have hu : t2.token k = s.token k := (State.token_updTok_ne _ _ _ _ hk).trans ((Answered.refl s).journal.token k)
  split
  · exact hu
  · exact ((Answered.refl t2).answerDurable.token k).trans hu

theorem State.setToken_token_ne {f : Token → Token} {k : Nat} (hk : k ≠ t) : (s.setToken t f).token k = s.token k :=
  ((Answered.refl _).journal.token k).trans (State.token_updTok_ne _ _ _ _ hk)

theorem State.setToken_token_self (hs : s.canon = true) {f : Token → Token} : (s.setToken t f).token t = f (s.token t) :=
  ((Answered.refl _).journal.token t).trans (State.token_updTok_self hs _ _)

theorem State.releaseToken_token_ne {k : Nat} (hk : k ≠ t) : (s.releaseToken t).token k = s.token k := by
  have ha : ∀ l : List Owed, (s.each l (fun s o => s.ackHandoff t o)).token k = s.token k :=
    fun l => State.each_keeps (fun s => s.token k) (fun _ _ => State.ackHandoff_token_ne hk) s l
  unfold State.releaseToken
  dsimp only
  split
  · exact ((Answered.refl _).reply.token k).trans ((State.setToken_token_ne hk).trans (ha _))
  · exact (State.setToken_token_ne hk).trans (ha _)

theorem State.releaseToken_token_self (hs : s.canon = true) : ((s.releaseToken t).token t).st = .released := by
  have hc : ∀ l : List Owed, (s.each l (fun s o => s.ackHandoff t o)).canon = true :=
    fun l => ((Evolves.refl s).each fun _ _ h => h.ackHandoff).canonOf ((canon_iff s).1 hs)
  unfold State.releaseToken
  dsimp only
  split
  · exact congrArg Token.st (((Answered.refl _).reply.token t).trans (State.setToken_token_self (hc _)))
  · exact congrArg Token.st (State.setToken_token_self (hc _))

/-- Once every token of a list is released, none of a context that held no other is left. -/
theorem State.each_releaseToken {x : Nat} (l : List Nat) (hs : s.canon = true) (hl : ∀ k ∈ s.tokensOf x, k ∈ l) :
    (s.each l (fun s t => s.releaseToken t)).tokensOf x = [] := by
  induction l generalizing s with
  | nil => exact List.eq_nil_iff_forall_not_mem.2 fun k hk => absurd (hl k hk) (by simp)
  | cons a l ih =>
    have hc : (s.releaseToken a).canon = true := (Evolves.refl s).releaseToken.canonOf ((canon_iff s).1 hs)
    refine ih hc fun k hk => ?_
    obtain ⟨hx, hv⟩ := (State.mem_tokensOf _ hc x k).1 hk
    by_cases ha : k = a
    · subst ha
      exact absurd (State.releaseToken_token_self hs) hv.2
    · rw [State.releaseToken_token_ne ha] at hx hv
      exact (List.mem_cons.1 (hl k ((State.mem_tokensOf s hs x k).2 ⟨hx, hv⟩))).resolve_left ha

end

theorem Aside.freedXids_releaseToken {s t : State} {k : Nat} (h : t.freedXids = s.freedXids) : (t.releaseToken k).freedXids = s.freedXids := by
  have ha : ∀ (u : State) (o : Owed), (u.ackHandoff k o).freedXids = u.freedXids := by
    intro u o
    unfold State.ackHandoff
    dsimp only
    split
    · exact (Answered.refl u).journal.keepsFreedXids
    · exact (Answered.refl _).answerDurable.keepsFreedXids.trans (Answered.refl u).journal.keepsFreedXids
  have he : ∀ l : List Owed, (t.each l (fun s o => s.ackHandoff k o)).freedXids = t.freedXids :=
    fun l => State.each_keeps State.freedXids ha t l
  unfold State.releaseToken
  dsimp only
  split
  · exact (Answered.refl _).reply.keepsFreedXids.trans ((Answered.refl _).journal.keepsFreedXids.trans ((he _).trans h))
  · exact (Answered.refl _).journal.keepsFreedXids.trans ((he _).trans h)

/-! ## The end of a teardown -/

/-- R447 steps 2 and 3: the context has left its units, its tokens are released and its keyslot withdrawn. -/
def State.strip (s : State) (x : Nat) : State :=
  (((s.leaveAll x).each ((s.leaveAll x).tokensOf x) (fun s t => s.releaseToken t))).withdrawSlot (s.ctx x).slot

/-- R447 steps 4 and 5: its ranges and withdrawals go, and it is free. -/
def State.unlist (s : State) (x : Nat) : State :=
  ({ s with xlt := { s.xlt with
      slots := s.xlt.slots.filter (fun e => decide (e.1 / 4096 ≠ x)), wds := s.xlt.wds.filter (fun w => w.xid != x) } } : State).updCtx x
    (fun _ => {})

/-- R447 step 6: its name joins the freed ones. -/
def State.unname (s : State) (x : Nat) : State := { s with freedXids := s.freedXids ++ [x] }

@[simp] theorem State.unname_ctx (s : State) (x y : Nat) : (s.unname x).ctx y = s.ctx y := rfl
@[simp] theorem State.unname_slot (s : State) (x y i : Nat) : (s.unname x).slot y i = s.slot y i := rfl
@[simp] theorem State.unname_tokens (s : State) (x : Nat) : (s.unname x).tokens = s.tokens := rfl
@[simp] theorem State.unname_freedXids (s : State) (x : Nat) : (s.unname x).freedXids = s.freedXids ++ [x] := rfl
@[simp] theorem State.unlist_tokens (s : State) (x : Nat) : (s.unlist x).tokens = s.tokens := rfl
@[simp] theorem State.unlist_freedXids (s : State) (x : Nat) : (s.unlist x).freedXids = s.freedXids := rfl

/-- The end of a teardown is the stripped state with the context unlisted, its end journaled, its name freed, and an answer where one is
owed. -/
theorem State.finishTeardown_eq {s : State} {x : Nat} (h : (s.ctx x).st = .teardown) :
    s.finishTeardown x = ((((s.strip x).unlist x).journal (.ctxEnd x)).unname x).reply (s.ctx x).req 0 [0] := by
  unfold State.finishTeardown
  dsimp only
  rw [h]
  rfl

theorem State.strip_tokensOf {s : State} {x : Nat} (hs : s.canon = true) : (s.strip x).tokensOf x = [] := by
  have hc : (s.leaveAll x).canon = true := (Evolves.refl s).leaveAll.canonOf ((canon_iff s).1 hs)
  have hw := ((Aside.refl ((s.leaveAll x).each ((s.leaveAll x).tokensOf x) (fun s t => s.releaseToken t))).withdrawSlot
    (k := (s.ctx x).slot)).keepsTokens
  have hr := State.each_releaseToken (x := x) ((s.leaveAll x).tokensOf x) hc fun _ h => h
  exact (State.tokensOf_congr hw).trans hr

theorem State.strip_freedXids (s : State) (x : Nat) : (s.strip x).freedXids = s.freedXids :=
  ((Aside.refl _).withdrawSlot.keepsFreedXids).trans
    ((State.each_keeps State.freedXids (fun _ _ => Aside.freedXids_releaseToken rfl) (s.leaveAll x) _).trans
      (Aside.refl s).leaveAll.keepsFreedXids)

theorem Evolves.strip {s : State} {x : Nat} : Evolves s (s.strip x) :=
  ((Evolves.refl s).leaveAll.each fun _ _ h => h.releaseToken).withdrawSlot

theorem State.unlist_ctx {s : State} {x : Nat} (hs : s.canon = true) : (s.unlist x).ctx x = {} :=
  Map.get_upd_self ({} : Ctx) x (fun _ => {}) s.ctxs (State.ctxs_wf hs)

theorem State.unlist_slot (s : State) (x i : Nat) (hi : i < 4096) : (s.unlist x).slot x i = {} := by
  have hk : (4096 * x + i) / 4096 = x := by omega
  by_contra hne
  have hm := Map.mem_of_get (m := s.xlt.slots.filter (fun e => decide (e.1 / 4096 ≠ x))) hne
  exact absurd hk (of_decide_eq_true (List.mem_filter.1 hm).2)

/-- The context is free once its teardown has ended. -/
theorem State.finishTeardown_effect {s : State} {x : Nat} (hs : s.canon = true) (h : (s.ctx x).st = .teardown) :
    let t := s.finishTeardown x
    t.ctx x = {} ∧ t.freedXids = s.freedXids ++ [x] ∧ (∀ i, i < 4096 → t.slot x i = {}) ∧ t.tokensOf x = [] := by
  have hc : (s.strip x).canon = true := Evolves.strip.canonOf ((canon_iff s).1 hs)
  have hj : Answered ((s.strip x).unlist x) (((s.strip x).unlist x).journal (.ctxEnd x)) := (Answered.refl _).journal
  have ha : Answered ((((s.strip x).unlist x).journal (.ctxEnd x)).unname x) (s.finishTeardown x) :=
    State.finishTeardown_eq h ▸ (Answered.refl _).reply
  intro t
  refine ⟨?_, ?_, fun i hi => ?_, ?_⟩
  · rw [ha.ctx, State.unname_ctx, hj.ctx, State.unlist_ctx hc]
  · rw [ha.keepsFreedXids, State.unname_freedXids, hj.keepsFreedXids, State.unlist_freedXids, State.strip_freedXids]
  · rw [ha.slot, State.unname_slot, hj.slot, State.unlist_slot _ _ _ hi]
  · have hk : (s.finishTeardown x).tokens = (s.strip x).tokens := by
      rw [ha.keepsTokens, State.unname_tokens, hj.keepsTokens, State.unlist_tokens]
    exact (State.tokensOf_congr hk).trans (State.strip_tokensOf hs)

/-- With every unit of a context at rest its teardown ends. -/
theorem State.endTeardown_atRest {s : State} {x : Nat} (h : (s.ctx x).st = .teardown)
    (hu : (s.ctxUnits x).all (fun u => !s.npRunning u && (s.stepOn .engine u).isNone && (s.unit u).ext.isNone) = true) :
    s.endTeardown x = s.finishTeardown x := by
  have hall : ∀ u ∈ s.ctxUnits x, s.npRunning u = false ∧ s.stepOn .engine u = none ∧ (s.unit u).ext = none := by
    intro u hm
    have := List.all_eq_true.1 hu u hm
    simp only [Bool.and_eq_true, Bool.not_eq_true', Option.isNone_iff_eq_none] at this
    exact ⟨this.1.1, this.1.2, this.2⟩
  have hr : ∀ cause, s.restUnits x cause = (true, s) := by
    intro cause
    have hf : (s.ctxUnits x).filter s.npRunning = [] := List.filter_eq_nil_iff.2 fun u hm => by simp [(hall u hm).1]
    have ha : (s.ctxUnits x).any (fun u => (s.stepOn .engine u).isSome || (s.unit u).ext.isSome) = false :=
      List.any_eq_false.2 fun u hm => by simp [(hall u hm).2.1, (hall u hm).2.2]
    unfold State.restUnits
    dsimp only
    rw [hf, State.each, List.foldl_nil, ha]
    rfl
  unfold State.endTeardown
  rw [h]
  dsimp only
  rw [hr]
  rfl

/-! ## Obligations -/

/-- The creation of a context where the composition serves (R239). -/
theorem State.runCtxCreate_eq {s : State} {r : Request} (h : (s.comp r.cid).st = .active ∨ (s.comp r.cid).st = .rebinding) :
    s.runCtxCreate r =
      if !(s.comp r.cid).classOpen (bit r.p0 0) then s.answer r 0x010E [0]
      else if (s.comp r.cid).maxCtx ≤ (s.ctxsOf r.cid).length ∨ s.sec.debugActive then s.answer r 0x010C [0]
      else match s.freeXid, s.freeSlot with
        | some xid, some slot =>
          let t := ((s.takeXid).grantSlot slot (.ctx xid)).updCtx xid (fun _ =>
            { st := if s.sch.park && bit r.p0 0 then .parked else .idle, cid := r.cid, client := r.client, skim := bit r.p0 0, slot := slot })
          let m := t.copyTemplate xid slot (templateOf (s.comp r.cid).frames).zipIdx
          if m.1 ≠ 0 then (s.countClear m.1).answer r m.1 [0]
          else ((m.2.shareWeights xid).journalCtx xid).answer r 0 [xid]
        | _, _ => s.answer r 0x010C [0] :=
  if_neg (by rcases h with h | h <;> simp [h])

/-- Settles O37: creation and destruction follow the checks of their requests in order, and a teardown at rest ends in its own step. -/
theorem contextsComeAndGo : Obligations.ContextsComeAndGo := by
  unfold Obligations.ContextsComeAndGo
  refine ⟨?_, ?_, ?_⟩
  · intro s r x skim hst
    have he := State.runCtxCreate_eq hst
    refine ⟨fun ho => ?_, fun ho hm => ?_, ?_⟩
    · exact next_congr (he.trans (if_pos (by simp [skim, x] at ho; simp [ho])))
    · exact next_congr (he.trans ((if_neg (by simp [skim, x] at ho; simp [ho])).trans (if_pos (Or.inl hm))))
    · intro xid slot ho hm hd hx hk t m
      have hcreate : s.runCtxCreate r = if m.1 ≠ 0 then (s.countClear m.1).answer r m.1 [0]
          else ((m.2.shareWeights xid).journalCtx xid).answer r 0 [xid] := by
        refine he.trans ((if_neg (by simp [skim, x] at ho; simp [ho])).trans ((if_neg ?_).trans ?_))
        · rintro (h | h)
          · exact absurd hm (Nat.not_lt.2 h)
          · exact absurd (h.symm.trans hd) (by decide)
        · rw [hx, hk]
      exact ⟨fun h0 => next_congr (hcreate.trans (if_neg (not_not.2 h0))), fun h0 => next_congr (hcreate.trans (if_pos h0))⟩
  · intro s r hown hst
    have hgo : ¬((!s.ownsCtx r) = true ∨ (s.ctx r.xid).st = .teardown) := by simp [hown, hst]
    refine ⟨fun hw => ?_, fun hw => ?_, fun hf => ?_⟩
    · exact next_congr ((if_neg hgo).trans (if_pos (by simpa using hw)))
    · exact next_congr ((if_neg hgo).trans (if_neg (by simp [hw])))
    · unfold State.startTeardown
      split
      · next h => exact absurd h hf
      · next h => exact absurd h hst
      · rfl
  · intro s x hs hc hst hu
    refine ⟨s.finishTeardown x.val, ?_, State.finishTeardown_effect hs hst⟩
    exact next_congr ((if_pos hc).trans (State.endTeardown_atRest hst hu))

end Sys2Proof.Machine
end

section
/-! SUPPORT. Unbinding, repair and restoration of a composition (R167 to R169, R185, R446). -/
namespace Sys2Proof.Machine

/-! ## Freeing a partition and a CID -/

section
variable {s t : State}

theorem Aside.useSpares {p} (h : Aside s t) : Aside s (t.useSpares p) := h.updPart

theorem Aside.settleSpares {p} (h : Aside s t) : Aside s (t.settleSpares p) := .ite h h.useSpares.journal

theorem Aside.setClock {p mhz cause} (h : Aside s t) : Aside s (t.setClock p mhz cause) := h.each fun _ _ h' => h'.updIsl

theorem Aside.wipe {p} (h : Aside s t) : Aside s (t.wipe p) :=
  (((h.each fun _ _ h' => h'.updEng).each fun _ _ h' => h'.updVt).each fun _ _ h' => h'.updSt).each fun _ _ h' => h'.leaveUnit

theorem Aside.freePart {p} (h : Aside s t) : Aside s (t.freePart p) := by
  unfold State.freePart
  split
  · exact h.wipe.updPart.settleSpares.setClock
  · exact h.wipe.updPart.settleSpares.setClock
  · exact h

theorem Aside.unassign {f} (h : Aside s t) : Aside s (t.unassign f) := .ite (.journal h.of) h

/-- R165, R167: a CID that is freed keeps its generation alone and becomes the most recently freed. -/
theorem State.freeCid_effect {c : Nat} (hs : s.canon = true) :
    (s.freeCid c).comp c = { gen := (s.comp c).gen } ∧ (s.freeCid c).freeCids = s.freeCids ++ [c] := by
  unfold State.freeCid
  extract_lets -underBinder t1 t2 t3 t4 _ t5 t6 t7
  have e1 : Evolves s t1 ∧ Aside s t1 :=
    ⟨(Evolves.refl s).each fun _ _ h => h.unassign, (Aside.refl s).each fun _ _ h => h.unassign⟩
  have e2 : Evolves s t2 ∧ Aside s t2 := by
    unfold t2
    split
    · exact e1
    · exact ⟨e1.1.withdrawSlot, e1.2.withdrawSlot⟩
  have e4 : Evolves s t4 := e2.1.dropEntries.setBars (Map.filter_wf _ _ _)
  have e5 : Evolves s t5 ∧ Aside s t5 := ⟨e4.setSch (hstages := Map.filter_wf _ _ _), e2.2.of⟩
  have e6 : Evolves s t6 ∧ Aside s t6 := ⟨.ite e5.1 e5.1.updJob.journal, .ite e5.2 (.journal e5.2.of)⟩
  have h7 : t7.comp c = { gen := (t6.comp c).gen } := State.comp_updComp_self (e6.1.canonOf ((canon_iff s).1 hs)) _ _
  rw [e6.2.keepsGens] at h7
  exact ⟨h7, congrArg (fun l : List Nat => l ++ [c]) e6.2.keepsFreeCids⟩

end

/-- What the end of an unbind does once the composition's contexts are torn down. -/
theorem State.unbindEnd_eq {s : State} {c : Nat} (h : (s.comp c).st = .unbinding) (hx : s.ctxsOf c = []) :
    s.unbindEnd c =
      let u := s.each ((s.comp c).members ++ (s.comp c).toRelease) (fun s p => if (s.part p).cid = c then s.freePart p else s)
      match (s.comp c).op with
      | none => (u.journal (.done c)).freeCid c
      | some v => ((u.journal (.done c)).freeCid c).each (v.req :: v.more) (fun s q => s.reply q 0 []) := by
  unfold State.unbindEnd
  rw [h]
  dsimp only
  rw [hx]
  unfold State.each
  rw [List.foldl_nil, hx]
  rfl

theorem State.unbindEnd_effect {s : State} {c : Nat} (hs : s.canon = true) (h : (s.comp c).st = .unbinding) (hx : s.ctxsOf c = []) :
    (s.unbindEnd c).comp c = { gen := (s.comp c).gen } ∧ (s.unbindEnd c).freeCids = s.freeCids ++ [c] := by
  rw [State.unbindEnd_eq h hx]
  extract_lets u
  have hu : Evolves s (u.journal (.done c)) ∧ Aside s (u.journal (.done c)) :=
    ⟨((Evolves.refl s).each fun _ _ h => .ite h.freePart h).journal, ((Aside.refl s).each fun _ _ h => .ite h.freePart h).journal⟩
  obtain ⟨hc, hf⟩ := State.freeCid_effect (c := c) (hu.1.canonOf ((canon_iff s).1 hs))
  rw [hu.2.keepsGens] at hc
  rw [hu.2.keepsFreeCids] at hf
  split
  · exact ⟨hc, hf⟩
  · next v _ =>
    have ha : Answered ((u.journal (.done c)).freeCid c) (((u.journal (.done c)).freeCid c).each (v.req :: v.more)
        (fun s q => s.reply q 0 [])) := (Answered.refl _).each fun _ _ h => h.reply
    exact ⟨(ha.comp c).trans hc, ha.keepsFreeCids.trans hf⟩

/-! ## Obligations -/

theorem execUnbind_free (s : State) (r : Request) (hst : (s.comp r.cid).st = .free) (hf : bit r.p0 0 = false) :
    exec (.unbind r) s = .next (s.answer r 0 []) := by
  refine next_congr ?_
  unfold State.runUnbind
  dsimp only
  rw [hf]
  rw [if_neg (fun h => absurd h.1 (by decide)), hst]

theorem execUnbind_active (s : State) (r : Request) (hst : (s.comp r.cid).st = .active) (ho : (s.comp r.cid).op = none)
    (hf : bit r.p0 0 = false) : exec (.unbind r) s = .next ((s.updComp r.cid (fun x => { x with op := some { kind := .unbind, req := r } })).compState
      r.cid .quiescing) := by
  refine next_congr ?_
  unfold State.runUnbind
  dsimp only
  rw [hf]
  rw [if_neg (fun h => absurd h.1 (by decide)), hst]
  simp only [ho, hst, reduceCtorEq, Bool.false_eq_true, if_false]
  rfl

theorem execRepair_eq {s : State} {c : CidT} (hc : s.canCommit = true) (hst : (s.comp c.val).st = .impaired) (ho : (s.comp c.val).op = none) :
    exec (.repair c) s = .next (if s.storeGood c.val then (s.readStore c.val).repair c.val
      else (s.readStore c.val).enterUnbinding c.val Request.zero false []) := by
  refine next_congr ?_
  rw [hst, ho]
  exact if_neg (by simp [hc])

theorem unbindRepairAndRestoreClauses : Clauses.UnbindRepairAndRestore := by
  unfold Clauses.UnbindRepairAndRestore
  refine ⟨execUnbind_free, execUnbind_active, ?_, ?_, ?_, ?_, ?_⟩
  · exact fun s c hc _ => next_congr (if_pos hc)
  · exact fun s c hc hst ho hg => (execRepair_eq hc hst ho).trans (next_congr (if_pos hg))
  · exact fun s c hc hst ho hg => (execRepair_eq hc hst ho).trans (next_congr (if_neg (by simp [hg])))
  · intro s n w hw hst hheld
    refine next_congr ?_
    rw [hw]
    exact if_pos ⟨hst, hheld⟩
  · intro s c hst ho hr hboot hfirst
    have hgo : ¬((!(s.comp c.val).restoring) = true ∨ s.boot.cold = true ∧ s.boot.phase ≠ .ready ∨ s.restoreFirst c.val = true) := by
      rw [hr, hfirst]
      rcases hboot with h | h <;> simp [h]
    have he : exec (.compositionRestore c) s = .next (if !s.storeReady c.val then
        (if s.boot.storeWait.contains c.val then s else { s with boot := { s.boot with storeWait := s.boot.storeWait ++ [c.val] } })
      else
        let s' := { s with boot := { s.boot with storeWait := s.boot.storeWait.erase c.val } }
        if s'.storeGood c.val && (s.comp c.val).weights.all (fun e => (s'.goldenOf e.2 (s.comp c.val).storePort).isSome) then
          (s'.readStore c.val).restoreComp c.val
        else ((s'.readStore c.val).updComp c.val (fun y => { y with restoring := false, place := [] })).enterUnbinding c.val Request.zero
          false []) := by
      refine next_congr ?_
      dsimp only
      rw [hst, ho]
      exact if_neg hgo
    refine ⟨fun hsr hw => he.trans (next_congr ?_), ?_⟩
    · exact (if_pos (by simp [hsr])).trans (if_neg (by simp only [hw]; decide))
    · intro t hsr hg hw
      refine he.trans (next_congr ((if_neg (by simp [hsr])).trans ?_))
      dsimp only
      rw [hw]
      exact if_pos (by rw [List.all_nil, Bool.and_true]; exact hg)

/-- Settles O30: the clauses are the model's cases, and freeing a CID leaves its generation alone. -/
theorem unbindRepairAndRestore : Obligations.UnbindRepairAndRestore := by
  refine ⟨unbindRepairAndRestoreClauses, ?_⟩
  intro s c hs hc hst hx _
  exact ⟨s.unbindEnd c.val, next_congr (if_pos hc), State.unbindEnd_effect hs hst hx⟩

end Sys2Proof.Machine
end

section
/-! SUPPORT. Frame loads, and the commit of a bind (R156, R170). -/
namespace Sys2Proof.Machine

/-! ## Binding a partition -/

@[simp] theorem State.pwrCode_comps (s : State) (c a : Nat) : (s.pwrCode c a).comps = s.comps := rfl
@[simp] theorem State.pwrCode_parts (s : State) (c a : Nat) : (s.pwrCode c a).parts = s.parts := rfl

theorem State.runClock_comps (s : State) (p : Nat) : (s.runClock p).comps = s.comps :=
  State.each_keeps State.comps (fun s u => State.updIsl_comps s u _) s _

theorem State.runClock_parts (s : State) (p : Nat) : (s.runClock p).parts = s.parts :=
  State.each_keeps State.parts (fun s u => State.updIsl_parts s u _) s _

/-- Binding a partition leaves every composition. -/
theorem State.bindPart_comps (s : State) (p : Nat) : (s.bindPart p).comps = s.comps := by
  unfold State.bindPart
  dsimp only
  split
  · split
    · rw [State.pwrCode_comps, State.runClock_comps, State.updPart_comps]
    · rw [State.runClock_comps, State.updPart_comps]
  · rfl

/-- A partition that is claimed is bound by it, and another stays as it is. -/
theorem State.bindPart_parts (s : State) (p : Nat) :
    (s.bindPart p).parts = if (s.part p).st = .claimed then (s.updPart p (fun x => { x with st := .bound })).parts else s.parts := by
  unfold State.bindPart
  dsimp only
  split
  · split
    · rw [State.pwrCode_parts, State.runClock_parts]
    · rw [State.runClock_parts]
  · rfl

theorem State.bindPart_part_ne (s : State) {p q : Nat} (h : q ≠ p) : (s.bindPart p).part q = s.part q := by
  unfold State.part
  rw [State.bindPart_parts]
  split
  · exact State.part_updPart_ne s _ _ _ h
  · rfl

theorem State.bindPart_part_self {s : State} {p : Nat} (h : (s.part p).st = .claimed) : ((s.bindPart p).part p).st = .bound := by
  unfold State.part
  rw [State.bindPart_parts, if_pos h]
  refine congrArg Part.st (Map.get_set_listed (d := ({} : Part)) (v := { s.part p with st := .bound }) ?_ p s.parts)
  exact fun he => PState.noConfusion (congrArg Part.st he)

theorem State.bindPart_bound {s : State} {p q : Nat} (h : (s.part q).st = .bound) : ((s.bindPart p).part q).st = .bound := by
  by_cases hq : q = p
  · subst hq
    unfold State.part
    rw [State.bindPart_parts, if_neg (by rw [h]; decide)]
    exact h
  · rw [State.bindPart_part_ne s hq]
    exact h

theorem State.each_bindPart_bound {s : State} {q : Nat} (l : List (Nat × Nat)) (h : (s.part q).st = .bound) :
    ((s.each l (fun s e => s.bindPart e.2)).part q).st = .bound := by
  induction l generalizing s with
  | nil => exact h
  | cons e l ih => exact ih (State.bindPart_bound h)

/-- Every claimed target is bound. -/
theorem State.each_bindPart {s : State} {q : Nat} (l : List (Nat × Nat)) (h : (s.part q).st = .claimed) (hq : q ∈ l.map (fun e => e.2)) :
    ((s.each l (fun s e => s.bindPart e.2)).part q).st = .bound := by
  induction l generalizing s with
  | nil => exact absurd hq (by simp)
  | cons e l ih =>
    by_cases he : q = e.2
    · subst he
      exact State.each_bindPart_bound l (State.bindPart_part_self h)
    · refine ih ?_ ((List.mem_cons.1 hq).resolve_left he)
      rw [State.bindPart_part_ne s he]
      exact h

/-! ## The commit of a bind -/

/-- What the commit of a bind makes of the composition. -/
def Comp.placed (x : Comp) (o : CompOp) : Comp := { x with place := o.targets.foldl (fun m e => Map.set 255 e.1 e.2 m) [], op := none, shape := 0 }

/-- Defining barriers and filling budgets leaves the compositions and the partitions. -/
theorem State.defineBars_comps (s : State) (c : Nat) : (s.defineBars c).comps = s.comps := by
  refine (State.each_keeps State.comps (fun _ _ => ?_) _ _).trans rfl
  split
  · rfl
  · rfl

theorem State.defineBars_parts (s : State) (c : Nat) : (s.defineBars c).parts = s.parts := by
  refine (State.each_keeps State.parts (fun _ _ => ?_) _ _).trans rfl
  split
  · rfl
  · rfl

/-- R170 step 5: the composition is placed and ACTIVE, and COMMIT is journaled. -/
def State.placeComp (s : State) (c : Nat) (o : CompOp) : State :=
  (s.updComp c (fun x => x.placed o)).compRun c .active [.commit c ((s.updComp c (fun x => x.placed o)).comp c) []]

theorem State.commitBind_eq (s : State) (c : Nat) (o : CompOp) :
    s.commitBind c o =
      let u := ((s.placeComp c o).each o.targets (fun s e => s.bindPart e.2)).defineBars c
      let v := u.each (u.comp c).groups (fun s g => s.fullBudget c g.first)
      v.answer o.req 0 [c + (v.comp c).gen.toNat <<< 16] := rfl

theorem State.placeComp_part (s : State) (c : Nat) (o : CompOp) (p : Nat) : (s.placeComp c o).part p = s.part p :=
  (Answered.refl _).journalRun.part p

theorem State.placeComp_comp_self {s : State} (hs : s.canon = true) (c : Nat) (o : CompOp) :
    (s.placeComp c o).comp c = { (s.comp c).placed o with st := .active } := by
  have h1 : (s.updComp c (fun x => x.placed o)).canon = true := ((Evolves.refl s).updComp).canonOf ((canon_iff s).1 hs)
  refine ((Answered.refl _).journalRun.comp c).trans ?_
  rw [State.comp_updComp_self h1, State.comp_updComp_self hs]

theorem State.placeComp_comp_ne (s : State) {c d : Nat} (o : CompOp) (h : d ≠ c) : (s.placeComp c o).comp d = s.comp d := by
  refine ((Answered.refl _).journalRun.comp d).trans ?_
  rw [State.comp_updComp_ne _ _ _ _ h, State.comp_updComp_ne _ _ _ _ h]

@[simp] theorem State.fullBudget_comps (s : State) (c g : Nat) : (s.fullBudget c g).comps = s.comps := rfl
@[simp] theorem State.fullBudget_parts (s : State) (c g : Nat) : (s.fullBudget c g).parts = s.parts := rfl

theorem State.each_fullBudget_comps (u : State) (c : Nat) (l : List Grp) : (u.each l (fun s g => s.fullBudget c g.first)).comps = u.comps :=
  State.each_keeps State.comps (fun s g => State.fullBudget_comps s c g.first) u l

theorem State.each_fullBudget_parts (u : State) (c : Nat) (l : List Grp) : (u.each l (fun s g => s.fullBudget c g.first)).parts = u.parts :=
  State.each_keeps State.parts (fun s g => State.fullBudget_parts s c g.first) u l

theorem State.each_bindPart_comps (u : State) (l : List (Nat × Nat)) : (u.each l (fun s e => s.bindPart e.2)).comps = u.comps :=
  State.each_keeps State.comps (fun s e => State.bindPart_comps s e.2) u l

theorem State.answer_comps (s : State) (r : Request) (n : Nat) (ws : List Nat) : (s.answer r n ws).comps = s.comps :=
  (Answered.refl s).answer.keepsComps

theorem State.answer_parts (s : State) (r : Request) (n : Nat) (ws : List Nat) : (s.answer r n ws).parts = s.parts :=
  (Answered.refl s).answer.keepsParts

/-- After the placement the commit changes no composition any more. -/
theorem State.commitBind_comps (s : State) (c : Nat) (o : CompOp) : (s.commitBind c o).comps = (s.placeComp c o).comps := by
  rw [State.commitBind_eq]
  dsimp only
  rw [State.answer_comps, State.each_fullBudget_comps, State.defineBars_comps, State.each_bindPart_comps]

/-- After the targets are bound the commit changes no partition any more. -/
theorem State.commitBind_parts (s : State) (c : Nat) (o : CompOp) :
    (s.commitBind c o).parts = ((s.placeComp c o).each o.targets (fun s e => s.bindPart e.2)).parts := by
  rw [State.commitBind_eq]
  dsimp only
  rw [State.answer_parts, State.each_fullBudget_parts, State.defineBars_parts]

theorem State.comp_commitBind (s : State) (c : Nat) (o : CompOp) (d : Nat) : (s.commitBind c o).comp d = (s.placeComp c o).comp d :=
  congrArg (fun m : Map Comp => Map.get ({} : Comp) m d) (State.commitBind_comps s c o)

theorem State.part_commitBind (s : State) (c : Nat) (o : CompOp) (p : Nat) :
    (s.commitBind c o).part p = ((s.placeComp c o).each o.targets (fun s e => s.bindPart e.2)).part p :=
  congrArg (fun m : Map Part => Map.get ({} : Part) m p) (State.commitBind_parts s c o)

/-! ## Obligations -/

/-- A frame load writes units alone. -/
theorem State.loadFrame_comps (s : State) (frames : List Frm) (p typ key : Nat) : (s.loadFrame frames p typ key).comps = s.comps := by
  unfold State.loadFrame
  dsimp only
  split
  · exact State.each_keeps State.comps (fun s e => State.updEng_comps s _ _) s _
  · exact State.each_keeps State.comps (fun s e => State.updVt_comps s _ _) s _
  · exact State.each_keeps State.comps (fun s e => State.updSt_comps s _ _) s _
  · refine (State.each_keeps State.comps (fun s e => ?_) _ _).trans (State.each_keeps State.comps (fun s e => ?_) s _)
    · split
      · exact State.updSt_comps s _ _
      · rfl
    · split
      · exact State.updVt_comps s _ _
      · rfl
  · rfl

theorem State.comp_loadFrame (s : State) (frames : List Frm) (p typ key c : Nat) : (s.loadFrame frames p typ key).comp c = s.comp c :=
  congrArg (fun m : Map Comp => Map.get ({} : Comp) m c) (State.loadFrame_comps s frames p typ key)

theorem loadsAndBindCommit : Clauses.LoadsAndBindCommit := by
  unfold Clauses.LoadsAndBindCommit
  intro s c o ho
  refine ⟨fun p typ key hl => next_congr ?_, fun hst hr hk => next_congr ?_, fun hst hr hk => next_congr ?_, fun hst hr => next_congr ?_⟩
  · unfold State.doLoad
    rw [ho]
    dsimp only
    rw [if_pos hl, State.comp_loadFrame]
  · rw [hst, ho]
    exact (if_pos hr).trans (if_neg (by rw [hk]; decide))
  · rw [hst, ho]
    exact (if_pos hr).trans (if_pos hk)
  · rw [hst, ho]
    exact if_neg (by simp [hr])

/-- Settles O28: the commit binds its targets and changes no composition but its own. -/
theorem bindCommits : Obligations.BindCommits := by
  refine ⟨loadsAndBindCommit, ?_⟩
  intro s c o hs ho hst hr hk
  obtain ⟨-, hcommit, -⟩ := loadsAndBindCommit s c o ho
  have hc := (State.comp_commitBind s c.val o c.val).trans (State.placeComp_comp_self hs c.val o)
  refine ⟨s.commitBind c.val o, hcommit hst hr hk, ?_, ?_, ?_, ?_, ?_, ?_, ?_, ?_⟩
  · rw [hc]
  · rw [hc, Comp.placed]
  · rw [hc, Comp.placed]
  · rw [hc, Comp.placed]
  · rw [hc, Comp.placed]
  · rw [hc, Comp.placed]
  · intro p hp hm
    rw [State.part_commitBind]
    exact State.each_bindPart _ ((congrArg Part.st (State.placeComp_part s c.val o p)).trans hp) hm
  · exact fun d hd => (State.comp_commitBind s c.val o d).trans (State.placeComp_comp_ne s o hd)

end Sys2Proof.Machine
end

section
/-! SUPPORT. Staging, binding and querying a composition (R157, R158, R165, R168, R170). -/
namespace Sys2Proof.Machine

/-! ## The CID of a bind -/

/-- R165: what assigning a CID writes, before its generation is journaled. -/
def State.nameComp (s : State) (c : Nat) (k : Culture) (r : Request) : State :=
  (({ s with freeCids := s.freeCids.erase c, sch := { s.sch with
      accept := Map.set 0 c 0 s.sch.accept, refuse := Map.set 0 c 0 s.sch.refuse,
      discard := Map.set 0 c 0 s.sch.discard, miss := Map.set 0 c 0 s.sch.miss } } : State).updComp c
    (fun _ => bindComp k r ((s.comp c).gen + 1))).updFq c (fun q => { q with lost := 0, seq := 0 })

theorem State.assignCid_eq (s : State) (c : Nat) (k : Culture) (r : Request) :
    s.assignCid c k r = (s.nameComp c k r).compRun c .binding [.gen .comp c ((s.comp c).gen + 1)] := rfl

theorem State.compRun_comp_self {s : State} {c : Nat} (h : Map.wf {} s.comps = true) (st : CState) (pre : List JRec) :
    (s.compRun c st pre).comp c = { s.comp c with st := st } :=
  ((Answered.refl _).journalRun.comp c).trans (Map.get_upd_self ({} : Comp) c (fun x => { x with st := st }) s.comps h)

theorem State.compRun_comp_ne (s : State) {c d : Nat} (h : d ≠ c) (st : CState) (pre : List JRec) :
    (s.compRun c st pre).comp d = s.comp d :=
  ((Answered.refl _).journalRun.comp d).trans (State.comp_updComp_ne s c d _ h)

theorem bindAssignsTheCid : Clauses.BindAssignsTheCid := by
  unfold Clauses.BindAssignsTheCid
  intro s r k c hs hn t
  have ht : t = (s.nameComp c.val k r).compRun c.val .binding [.gen .comp c.val ((s.comp c.val).gen + 1)] := State.assignCid_eq s c.val k r
  have hw : Map.wf {} s.comps = true := State.comps_wf hs
  have hn' : (s.nameComp c.val k r).comps = Map.upd {} c.val (fun _ => bindComp k r ((s.comp c.val).gen + 1)) s.comps := rfl
  have hname : (s.nameComp c.val k r).comp c.val = bindComp k r ((s.comp c.val).gen + 1) :=
    Map.get_upd_self ({} : Comp) c.val (fun _ => bindComp k r ((s.comp c.val).gen + 1)) s.comps hw
  have hcomp : t.comp c.val = bindComp k r ((s.comp c.val).gen + 1) := by
    rw [ht, State.compRun_comp_self (hn' ▸ Map.upd_wf _ _ _ _ hw), hname]
    rfl
  refine ⟨hcomp, congrArg Comp.st hcomp, ?_, fun d hd => ?_⟩
  · have hf : t.freeCids = s.freeCids.erase c.val := ht ▸ (Answered.refl _).journalRun.keepsFreeCids
    rw [hf]
    exact hn.not_mem_erase
  · rw [ht, State.compRun_comp_ne _ hd]
    exact Map.get_upd_ne ({} : Comp) c.val d (fun _ => bindComp k r ((s.comp c.val).gen + 1)) s.comps hd

/-! ## Staging, binding and querying -/

/-- The outcome of STAGE of bytes that can be read. -/
theorem execStage_eq {s : State} {r : Request} {port : Nat} {b : List Byte} (hk : r.p0.toNat ≤ 1) (hn : r.p2.toNat ≤ 2 ^ 27)
    (hp : port = (match r.reply with | .mbx i => (s.mslot i).port | _ => r.client / 256))
    (hb : s.storeBytes r.p0.toNat port r.p1.toNat r.p2.toNat = some b) :
    exec (.stage r) s = .next (
      let t := s.countRead r.p0.toNat port r.p1.toNat r.p2.toNat
      if t.validate b ≠ 0 then t.answer r (t.validate b) []
      else ({ t with staged := t.stagedRoom ++ [cultureOf b t.nextHandle r.p0.toNat r.p1.toNat port], nextHandle := t.nextHandle + 1 } :
        State).answer r 0 [t.nextHandle]) := by
  have hk' : ¬1 < r.p0.toNat := Nat.not_lt.2 hk
  refine next_congr ?_
  unfold State.runStage
  cases hr : r.reply
  all_goals
    rw [hr] at hp
    subst hp
    dsimp only at hb ⊢
    rw [if_neg hk', Nat.min_eq_left hn, hb]
    dsimp only
    rw [if_pos hn]

/-- The outcome of BIND of a staged culture that passes stage 2 while a CID is free. -/
theorem execBind_eq {s : State} {r : Request} {k : Culture} {c : Nat} {rest : List Nat}
    (hk : s.staged.find? (fun k => k.handle == r.p0.toNat) = some k) (h2 : (s.useStaged k.handle).stage2 k.signer = 0) (hc : s.freeCids = c :: rest) :
    exec (.bind r) s = .next (
      let t := (s.useStaged k.handle).assignCid c k r
      let code := if k.part then 0x061E else (t.bindStage9 c).1
      if code ≠ 0 then t.rollback c code code
      else (t.journal (.bindBegin c (t.comp c).gen k.digest)).beginBinds) := by
  have hf : (s.useStaged k.handle).freeCids = c :: rest := hc
  refine next_congr ?_
  unfold State.runBind
  rw [hk]
  dsimp only
  rw [if_neg (not_not.2 h2), hf]

theorem stageBindAndQueryClauses : Clauses.StageBindAndQuery := by
  unfold Clauses.StageBindAndQuery
  intro s r
  refine ⟨?_, ?_, ?_⟩
  · intro port b hk hn hp hb t
    have he := execStage_eq hk hn hp hb
    exact ⟨fun h => he.trans (next_congr (if_neg (not_not.2 h))), fun h => he.trans (next_congr (if_pos h))⟩
  · intro k c rest hk h2 hc t code
    have he := execBind_eq hk h2 hc
    exact ⟨fun h => he.trans (next_congr (if_pos h)), fun h => he.trans (next_congr (if_neg (not_not.2 h)))⟩
  · intro i hi
    refine next_congr ?_
    unfold State.runQuery
    rw [hi]

/-- Settles O27: the clauses are the model's cases, and the CID a bind takes holds the culture alone. -/
theorem stageBindAndQuery : Obligations.StageBindAndQuery := ⟨stageBindAndQueryClauses, bindAssignsTheCid⟩

end Sys2Proof.Machine
end

section
/-! SUPPORT. A re-bind from APPLY to END, and its rollback (R164, R174 to R178). -/
namespace Sys2Proof.Machine

theorem applyAndBegin : Clauses.ApplyAndBegin := by
  unfold Clauses.ApplyAndBegin
  refine ⟨?_, ?_⟩
  · intro s r k t x o hlim hst hop hm hk h2 hbase hcheck hplace hw
    refine next_congr ?_
    unfold State.runApply
    rw [if_neg (Nat.not_lt.2 hlim), if_neg (by show ¬x.st = .free; rw [hst]; decide), hk]
    dsimp only
    rw [if_neg (not_not.2 h2), if_neg (not_not.2 hbase), if_neg (show ¬(x.op.isSome = true ∨ x.st ≠ .active) by simp [hop, hst]),
      if_neg (not_not.2 hcheck), if_neg (show ¬(x.multi = true ∧ _) by simp [hm]), if_neg (not_not.2 hplace), hw]
    rfl
  · intro s c o x b hop hst hend hbeg hc t
    have hgo : ∀ k, o.kind = k → k = .fast ∨ k = .slow →
        x.st = .active ∧ (!x.ending) = true ∧ (!o.begun) = true ∧ (o.kind = .fast ∨ o.kind = .slow) ∧ s.canCommit = true := by
      intro k hk h
      exact ⟨hst, by simp [hend], by simp [hbeg], by rw [hk]; exact h, hc⟩
    refine ⟨fun hk => next_congr ?_, fun hk => next_congr ?_⟩
    · dsimp only
      rw [show (s.comp c.val).op = some o from hop]
      dsimp only
      refine (if_pos (hgo _ hk (.inl rfl))).trans ?_
      rw [if_pos hk, if_pos hk]
    · have hne : ¬o.kind = .fast := by rw [hk]; decide
      dsimp only
      rw [show (s.comp c.val).op = some o from hop]
      dsimp only
      refine (if_pos (hgo _ hk (.inr rfl))).trans ?_
      rw [if_neg hne, if_neg hne]

/-- A stage without work is settled already. -/
theorem State.settleStage_none {s : State} {c g : Nat} (h : (s.stage c g).work = none) : s.settleStage c g = s := by
  unfold State.settleStage
  rw [h]

theorem State.stageDrained_kept {s : State} {c g : Nat} {o : CompOp} (ho : (s.comp c).op = some o) (hst : (s.comp c).st = .rebinding)
    (hp : o.prepared = true) (hr : o.rolled = false) (hd : o.drained.contains g = false)
    (hg : (s.comp c).groups.any (fun y => y.first == g) = true) (hold : s.oldWorkOn c (some g) = false) (hm : o.moved.contains g = false)
    (hch : o.changed.contains g = false) (hrm : o.removed.contains g = false) :
    s.stageDrained c g = s.updComp c (fun y => { y with op := some { o with drained := o.drained ++ [g] } }) := by
  unfold State.stageDrained
  rw [ho]
  dsimp only
  rw [if_pos ⟨hst, hp, by simp [hr], by simp only [hd]; decide, hg, by simp [hold]⟩]
  simp only [hm, hch, hrm, Bool.or_self, Bool.false_eq_true, if_false, List.append_nil]

theorem rebindSteps : Clauses.RebindSteps := by
  unfold Clauses.RebindSteps
  intro s c o ho x
  refine ⟨?_, ?_, ?_, ?_, ?_, ?_, ?_⟩
  · intro hp hc
    refine next_congr ?_
    dsimp only
    rw [ho]
    exact if_pos (by rw [show (s.comp c.val).preparable o = true from hp, hc]; rfl)
  · intro g hw hst hp hr hd hg hold hm hch hrm
    refine next_congr ?_
    rw [State.settleStage_none hw]
    exact State.stageDrained_kept ho hst hp hr hd hg hold hm hch hrm
  · intro g hr hm hcp hst hres
    refine next_congr ?_
    unfold State.moveCopied
    rw [ho]
    dsimp only
    refine (if_pos ⟨by simp [hr], hm, by simp only [hcp]; decide, Or.inl hst, by rw [hres]; rfl⟩).trans ?_
    exact if_neg (by show ¬x.st = .rebinding; rw [hst]; decide)
  · intro hk hr
    refine next_congr ?_
    rw [ho]
    exact (if_neg hk).trans (if_pos hr)
  · intro hk hr
    refine next_congr ?_
    rw [ho]
    exact (if_neg hk).trans (if_neg (by simp [hr]))
  · intro hk hr
    refine next_congr ?_
    rw [ho]
    exact (if_pos hk).trans (if_pos hr)
  · intro hk hr
    refine next_congr ?_
    rw [ho]
    exact (if_pos hk).trans (if_neg (by simp [hr]))

/-- The end of quiescing of a slow operation whose contexts are all saved. -/
theorem State.quiesceDone_slow {s : State} {c : Nat} {o : CompOp} (ho : (s.comp c).op = some o) (hst : (s.comp c).st = .quiescing)
    (hw : s.workOfComp c = []) (hk : o.kind = .slow) :
    s.quiesceDone c =
      let t := s.saveAll c
      if t.stillSaves c then t
      else
        let u := t.compState c .reshaping
        (if o.removed.isEmpty && o.moved.isEmpty then u
          else u.updComp c (fun x => { x with op := x.op.map (fun v => { v with drainBy := some (u.now + 1000000 * v.drainMs) }) })).claimTargets
            c := by
  unfold State.quiesceDone
  rw [hst, ho]
  dsimp only
  rw [hw]
  exact (if_neg (by decide)).trans (if_neg (by rw [hk]; decide))

theorem rebindEndAndRollback : Clauses.RebindEndAndRollback := by
  unfold Clauses.RebindEndAndRollback
  intro s c x
  refine ⟨?_, ?_, ?_, ?_, ?_, ?_, ?_, ?_⟩
  · intro hc he
    exact next_congr ((if_pos hc).trans (if_pos he))
  · intro o ho hk
    refine next_congr ?_
    unfold State.rebindBack
    rw [show (s.comp c.val).op = some o from ho]
    exact if_pos (by rcases hk with h | h | h <;> simp [h])
  · intro o ho hk hd ht
    refine next_congr ?_
    rw [show (s.comp c.val).op = some o from ho]
    refine (if_pos ⟨hd, ht⟩).trans ?_
    unfold State.rebindBack
    rw [show (s.comp c.val).op = some o from ho]
    exact if_pos (by rcases hk with h | h <;> simp [h])
  · intro o ho hst hw hk hs
    exact next_congr ((State.quiesceDone_slow ho hst hw hk).trans (if_pos hs))
  · intro o ho hst hw hk hs hr hm
    refine next_congr ((State.quiesceDone_slow ho hst hw hk).trans ((if_neg (by simp [hs])).trans ?_))
    dsimp only
    rw [if_pos (by rw [hr, hm]; rfl)]
  · intro o ho hst hw hk hs hrm
    refine next_congr ((State.quiesceDone_slow ho hst hw hk).trans ((if_neg (by simp [hs])).trans ?_))
    dsimp only
    rw [if_neg (by rcases hrm with h | h <;> simp [h])]
  · intro o ho hst hk hq hb hs
    refine next_congr ?_
    unfold State.quiesceDone
    rw [show (s.comp c.val).st = .impaired from hst, show (s.comp c.val).op = some o from ho]
    exact (if_pos ⟨hk, by simp [hq], by simp [hb]⟩).trans (if_neg (by simp [hs]))
  · intro o ho hst hw hk
    refine next_congr ?_
    unfold State.quiesceDone
    rw [show (s.comp c.val).st = .quiescing from hst, show (s.comp c.val).op = some o from ho]
    dsimp only
    rw [hw]
    exact (if_neg (by decide)).trans (if_pos hk)

/-- Settles O29: each event of a re-bind is the case of the model its premises name. -/
theorem rebinding : Obligations.Rebinding := ⟨applyAndBegin, rebindSteps, rebindEndAndRollback⟩

end Sys2Proof.Machine
end

section
/-! SUPPORT. State tokens are made, moved, handed off and released (R180 to R183, R239). -/
namespace Sys2Proof.Machine

/-- A record that is journaled while the writer commits is the last of the log. -/
theorem State.journal_log {s : State} (hc : s.canCommit = true) (r : JRec) : (s.journal r).jrn.log.getLast? = some { r := r } := by
  have he : s.journal r = (({ s with jrn := { s.jrn with waiting := [] } } : State).each s.jrn.waiting (fun s e => s.append e)).append
      { r := r } := (if_pos hc).trans (List.foldl_append ..)
  rw [he]
  exact List.getLast?_concat

theorem State.canCommit_updTok (s : State) (t : Nat) (f : Token → Token) : (s.updTok t f).canCommit = s.canCommit := rfl

/-- The outcome of TOKEN_NEW for the client's own context. -/
theorem execTokenNew_made {s : State} {r : Request} {pool : Word64} (ho : s.ownsCtx r = true) (h64 : r.p2.toNat % 64 = 0)
    (hcomp : (s.tokens.filter (fun e => e.2.held && e.2.cid == (s.ctx r.xid).cid)).length < 65536)
    (hall : (s.tokens.filter (fun e => e.2.held)).length < 262144) (hp : s.poolNamed (s.ctx r.xid).cid r.p0 = some pool) :
    let k : Token := { st := .owned, cid := (s.ctx r.xid).cid, xid := r.xid, epoch := 0, pool := pool, off := r.p1.toNat, len := r.p2.toNat }
    exec (.tokenNew r) s = .next (((({ s with nextToken := s.nextToken + 1 } : State).updTok s.nextToken (fun _ => k)).journal
      (.token (BitVec.ofNat 64 s.nextToken) k)).answerDurable r [s.nextToken]) := by
  refine next_congr ?_
  unfold State.runTokenNew
  dsimp only
  rw [if_neg (by simp [ho]), if_neg (not_or.2 ⟨Nat.not_le.2 hcomp, Nat.not_le.2 hall⟩), if_neg (not_not.2 h64), hp]

/-- TOKEN_MOVE of a token its context owns makes it SENDING. -/
theorem execTokenMove_sending {s : State} {r : Request} {pool : Word64} (ho : s.ownsCtx r = true) (hst : (s.token r.p0.toNat).st = .owned)
    (hx : (s.token r.p0.toNat).xid = r.xid) (he : (s.token r.p0.toNat).epoch < 0xFFFFFFFF)
    (hp : s.poolNamed (s.token r.p0.toNat).cid r.p1 = some pool) :
    exec (.tokenMove r) s = .next (s.setToken r.p0.toNat (fun k => { k with st := .sending, peer := pool, req := r })) := by
  refine next_congr ?_
  unfold State.runTokenMove
  dsimp only
  rw [if_neg (by simp [ho]), if_neg (not_or.2 ⟨not_not.2 hst, not_or.2 ⟨not_not.2 hx, Nat.not_le.2 he⟩⟩), hp]

theorem handoffs (s : State) (token : Word64) :
    let t := token.toNat
    let k := s.token t
    s.canCommit = true →
    (k.st = .sending → s.poolGen k.pool = true → s.poolFresh k.peer = true → k.epoch < 0xFFFFFFFF → exec (.handoffCopyDone token) s = .next
      ((s.copyPool k.cid k.pool k.peer k.off k.len).setToken t (fun k =>
        { k with st := .owned, epoch := k.epoch + 1, pool := k.peer, peer := 0, req := Request.zero,
                 owed := k.owed ++ [{ epoch := k.epoch, pool := k.pool, req := k.req }] }))) ∧
    (k.st = .sending → s.poolGen k.pool = false → exec (.handoffCopyDone token) s = .next (s.loseToken t)) ∧
    (k.st = .sending → s.poolGen k.pool = true → s.poolFresh k.peer = false → exec (.handoffCopyDone token) s = .next (s.failHandoff t)) ∧
    (∀ o l, k.owed = o :: l → exec (.handoffAck token) s = .next (s.ackHandoff t o)) := by
  intro t k hc
  have hgood : s.poolGen k.pool = true → ¬(!s.poolGen k.pool) = true := fun h => ne_true_of_eq_false (congrArg not h)
  refine ⟨fun hst hg hf he => ?_, fun hst hg => ?_, fun hst hg hf => ?_, fun o l ho => ?_⟩
  · exact next_congr ((if_pos ⟨hst, hc⟩).trans ((if_neg (hgood hg)).trans (if_pos (Bool.and_eq_true_iff.2 ⟨hf, decide_eq_true he⟩))))
  · exact next_congr ((if_pos ⟨hst, hc⟩).trans (if_pos (congrArg not hg)))
  · exact next_congr ((if_pos ⟨hst, hc⟩).trans ((if_neg (hgood hg)).trans (if_neg (ne_true_of_eq_false (Bool.and_eq_false_iff.2 (.inl hf))))))
  · refine next_congr ?_
    rw [show (s.token token.toNat).owed = o :: l from ho]
    exact if_pos hc

theorem stateTokensClauses : Clauses.StateTokens := by
  unfold Clauses.StateTokens
  refine ⟨?_, ?_, handoffs, ?_, ?_⟩
  · exact fun s r pool ho h64 hcomp hall hp => execTokenNew_made ho h64 hcomp hall hp
  · intro s r pool k hs ho hst hx he hp
    refine ⟨_, execTokenMove_sending ho hst hx he hp, State.setToken_token_self hs, fun hc => ?_⟩
    refine (State.journal_log ((State.canCommit_updTok s _ _).trans hc) _).trans ?_
    rw [State.token_updTok_self hs]
    rfl
  · intro s r ho hx hst
    exact next_congr ((if_neg (by simp [ho])).trans (if_pos ⟨hx, hst⟩))
  · intro s r ho
    have hno : (!s.ownsCtx r) = true := by simp [ho]
    exact ⟨next_congr (if_pos hno), next_congr (if_pos hno), next_congr (if_pos hno)⟩

theorem tokenRecordsMeet : Clauses.TokenRecordsMeet := by
  unfold Clauses.TokenRecordsMeet
  intro y k hy
  refine ⟨fun hs _ he => ?_, fun hlt => ?_, fun he hp => ?_⟩
  · unfold Token.meets
    rw [if_neg hy, if_pos (by omega), if_pos hs]
  · have hm : y.meets k = { y with owed := y.owed.filter (fun o => o.epoch != k.epoch || o.pool != k.pool) } := by
      unfold Token.meets
      rw [if_neg hy, if_neg (by omega), if_pos hlt]
    rw [hm]
    refine ⟨rfl, rfl, rfl, fun o ho => ?_⟩
    simpa using (List.mem_filter.1 ho).2
  · unfold Token.meets
    rw [if_neg hy, if_neg (by omega), if_neg (by omega), if_pos (.inl hp)]

/-- Settles O31: each request and each event of a handoff is the model's case, and records meet by their epochs. -/
theorem stateTokens : Obligations.StateTokens := ⟨stateTokensClauses, tokenRecordsMeet⟩

end Sys2Proof.Machine
end

section
/-! SUPPORT. Reads and writes of a channel (R192 to R194, R203 to R207). -/
namespace Sys2Proof.Machine

/-! ## Sectors -/

theorem sectorsReadBack : Clauses.SectorsReadBack := by
  intro d
  refine ⟨fun k t => if_pos rfl, rfl, fun key => ?_⟩
  cases key with
  | some kt => exact Bool.and_false _
  | none =>
    refine (Bool.and_true _).trans (decide_eq_false ?_)
    rintro ⟨hd, hc⟩
    have hz : checkOf d = 0 := if_pos hd
    exact absurd (hz.symm.trans hc) (by decide)

/-! ## What a request the code finds clean does -/

/-- A channel whose read bytes are counted. -/
def State.readCounted (s : State) (k cls : Nat) : State := s.updChan k (fun c => { c with rdBytes := bump c.rdBytes cls 64 })

section
variable {s : State} {k i ks cls : Nat}

theorem State.decodeSector_clean (h : (Map.get {} (s.chan k).secs i).isPoison = false) : s.decodeSector k i .clean = (false, s) := by
  unfold State.decodeSector
  dsimp only
  rw [h]
  rfl

theorem State.decodeSector_poison (h : (Map.get {} (s.chan k).secs i).isPoison = true) (e : ReadErr) : s.decodeSector k i e = (true, s) := by
  unfold State.decodeSector
  dsimp only
  rw [h]
  rfl

/-- A clean read returns what the sector holds under the key. -/
theorem State.rdSector_clean (hs : s.canon = true) (h : (Map.get {} (s.chan k).secs i).isPoison = false)
    (hset : s.inPoisonedSet k (64 * i) = false) :
    s.rdSector k i ks cls .clean = ((Map.get {} (s.chan k).secs i).view (s.keyOf ks (s.tweakOf k i)), false, s.readCounted k cls) := by
  have hb : (false || (s.readCounted k cls).inPoisonedSet k (64 * i)) = false := hset
  have hc : ((s.readCounted k cls).chan k).secs = (s.chan k).secs := (congrArg Chan.secs
    (State.chan_updChan_self hs k (fun c => { c with rdBytes := bump c.rdBytes cls 64 }))).trans rfl
  unfold State.rdSector
  rw [State.decodeSector_clean h]
  refine (if_neg (ne_true_of_eq_false hb)).trans ?_
  exact Prod.ext (congrArg (fun m : Map Sector => (Map.get {} m i).view (s.keyOf ks (s.tweakOf k i))) hc) rfl

/-- A read of a poison marker returns zeros as poison. -/
theorem State.rdSector_poison (h : (Map.get {} (s.chan k).secs i).isPoison = true) (e : ReadErr) :
    s.rdSector k i ks cls e = (0, true, s.readCounted k cls) := by
  unfold State.rdSector
  rw [State.decodeSector_poison h]
  rfl

end

/-- A request of a class reaches its channel. -/
theorem State.memAccess_of {s : State} {p ch off ks op : Nat} {m : Sender} {cls : MClass} (h : masterOf m = some cls) (d mk : BitVec 512) (e : ReadErr) :
    s.memAccess p ch off ks m op d mk e =
      s.request { ch := 8 * p + ch, off := off, keysel := ks, cls := mclass cls, op := op, data := d, mask := mk, err := e } := by
  unfold State.memAccess
  rw [h]

theorem State.memAccess_none {s : State} {p ch off ks op : Nat} {m : Sender} (h : masterOf m = none) (d mk : BitVec 512) (e : ReadErr) :
    s.memAccess p ch off ks m op d mk e = s := by
  unfold State.memAccess
  rw [h]

section
variable {s : State} {r : MemReq}

/-- A request that finds room enters the table. -/
theorem State.request_enters (ho : r.off < chanBytes) (hr : (s.chan r.ch).st = .ready) (ht : s.tableCount (r.ch / 4) < 256) :
    s.request r = s.enter r :=
  (if_neg (not_or.2 ⟨Nat.not_le.2 ho, not_not.2 hr⟩)).trans (if_pos ht)

theorem State.request_held (ho : r.off < chanBytes) (hr : (s.chan r.ch).st = .ready) (ht : 256 ≤ s.tableCount (r.ch / 4)) :
    s.request r = s.holdReq r :=
  (if_neg (not_or.2 ⟨Nat.not_le.2 ho, not_not.2 hr⟩)).trans (if_neg (Nat.not_lt.2 ht))

/-- A request in the clear, or whose key is held, and in budget is served at once. -/
theorem State.enter_served (hk : (!r.keysel.testBit 12 || (Map.get [] s.sec.caches (r.ch / 4)).contains (r.keysel % 4096)) = true)
    (hb : (s.chan r.ch).inBudget r.cls ((s.chan r.ch).outOf r.cls + 1) = true) : s.enter r = s.serve r false := by
  have hno : ¬(r.keysel.testBit 12 && !(Map.get [] s.sec.caches (r.ch / 4)).contains (r.keysel % 4096)) = true := by
    rw [Bool.not_eq_true, ← Bool.not_eq_true', Bool.not_and, Bool.not_not]
    exact hk
  unfold State.enter
  dsimp only
  rw [if_neg hno, hb]
  rfl

theorem State.enter_waits (hk : (!r.keysel.testBit 12 || (Map.get [] s.sec.caches (r.ch / 4)).contains (r.keysel % 4096)) = false) :
    s.enter r = s.updChan r.ch (fun c => { c with waiting := c.waiting ++ [r] }) := by
  obtain ⟨h1, h2⟩ := Bool.or_eq_false_iff.1 hk
  exact if_pos (Bool.and_eq_true_iff.2 ⟨(Bool.not_eq_false' _).mp h1, congrArg not h2⟩)

end

theorem memoryAccessClauses : Clauses.MemoryAccesses := by
  unfold Clauses.MemoryAccesses
  intro s p ch off ks m d mk hs k c i key old held
  refine ⟨fun h => if_pos h, fun hm e => ?_, fun cls hm ho hr => ?_⟩
  · exact ⟨next_congr (State.memAccess_none hm _ _ _), next_congr (State.memAccess_none hm _ _ _), next_congr (State.memAccess_none hm _ _ _)⟩
  intro req read
  refine ⟨fun ht hk hb => ?_, fun ht hk e => ?_, fun ht e => ?_⟩
  · have hserve : ∀ op d mk, s.memAccess p.val ch.val off ks.toNat m op d mk .clean = s.serve (req op d mk .clean) false := fun op d mk =>
      (State.memAccess_of hm d mk .clean).trans ((State.request_enters ho hr ht).trans (State.enter_served hk hb))
    refine ⟨fun hp hset => next_congr ((hserve 0 0 0).trans ?_), fun hp => next_congr ((hserve 0 0 0).trans ?_),
      next_congr ((hserve 1 d 0).trans ?_), fun hp hset => next_congr ((hserve 2 d mk).trans ?_)⟩
    · have hrd := State.rdSector_clean (ks := ks.toNat) (cls := mclass cls) hs hp hset
      exact congrArg (fun t : BitVec 512 × Bool × State => t.2.2.emit (.data t.1 t.2.1)) hrd
    · have hrd := State.rdSector_poison (ks := ks.toNat) (cls := mclass cls) hp .clean
      exact congrArg (fun t : BitVec 512 × Bool × State => t.2.2.emit (.data t.1 t.2.1)) hrd
    · rfl
    · have hrd := State.rdSector_clean (ks := ks.toNat) (cls := mclass cls) hs hp hset
      have hw : s.wrPartial k i ks.toNat (mclass cls) d mk .clean =
          (true, (s.readCounted k (mclass cls)).wrSector k i ks.toNat (mclass cls) ((old.view key &&& ~~~mk) ||| (d &&& mk))) := by
        unfold State.wrPartial
        rw [hrd]
        rfl
      have hu : (s.readCounted k (mclass cls)).wrSector k i ks.toNat (mclass cls) ((old.view key &&& ~~~mk) ||| (d &&& mk)) =
          s.updChan k (fun c => { c with secs := Map.set {} i (Sector.make key ((old.view key &&& ~~~mk) ||| (d &&& mk))) c.secs,
                                         rdBytes := bump c.rdBytes (mclass cls) 64, wrBytes := bump c.wrBytes (mclass cls) 64 }) :=
        State.updChan_updChan hs k _ _
      refine Eq.trans (b := (s.wrPartial k i ks.toNat (mclass cls) d mk .clean).2.emit (.ack 0)) ?_ ?_
      · exact if_pos (.inl (congrArg Prod.fst hw))
      · rw [hw, hu]
  · exact next_congr ((State.memAccess_of hm 0 0 e).trans ((State.request_enters ho hr ht).trans (State.enter_waits hk)))
  · exact next_congr ((State.memAccess_of hm d 0 e).trans (State.request_held ho hr ht))

/-- Settles O32: a request that finds room, its key and its budget is served at once, and sectors read back what was written. -/
theorem memoryAccesses : Obligations.MemoryAccesses := ⟨memoryAccessClauses, sectorsReadBack⟩

end Sys2Proof.Machine
end

section
/-! SUPPORT. Upkeep of channels, repair, reload, temperature, and far ports (R190, R195 to R197, R200, R204, R209, R211 to R213, R434). -/
namespace Sys2Proof.Machine

/-! ## Upkeep of channels -/

/-- A read the code finds clean changes nothing. -/
theorem State.decodeSector_clean_state (s : State) (ch i : Nat) : (s.decodeSector ch i .clean).2 = s := by
  cases h : (Map.get {} (s.chan ch).secs i).isPoison with
  | false => exact congrArg Prod.snd (State.decodeSector_clean h)
  | true => exact congrArg Prod.snd (State.decodeSector_poison h .clean)

theorem channelUpkeep : Clauses.ChannelUpkeep := by
  unfold Clauses.ChannelUpkeep
  intro s p ch _ k
  refine ⟨fun hr => next_congr ((if_pos hr).trans ?_), rfl, fun v hp => next_congr ?_, fun cache slot hh => ?_⟩
  · unfold State.patrolStep
    dsimp only
    split
    · exact State.decodeSector_clean_state _ _ _
    · rfl
  · exact if_neg (ne_true_of_eq_false hp)
  · exact ⟨fun hc => next_congr ((if_neg hh).trans (if_neg (Nat.not_lt.2 hc))), fun hc => next_congr ((if_neg hh).trans (if_pos hc))⟩

/-! ## Repair, reload and temperature -/

theorem State.each_congr {α : Type} {f g : State → α → State} (h : ∀ s a, f s a = g s a) (s : State) (l : List α) : s.each l f = s.each l g := by
  rw [show f = g from funext fun s => funext fun a => h s a]

theorem State.repairChan_eq (s : State) (ch : Nat) (u : Bool) :
    s.repairChan ch u = if (s.chan ch).rows.length ≤ Config.pprLeft ch (s.chan ch).pprUsed ∨ u = false then
        (s.updChan ch (fun c => { c with rows := [], pprUsed := c.pprUsed + c.rows.length })).journal (.repair ch [])
      else s.updChan ch (fun c => { c with st := .failed }) := by
  have h : s.repairable ch u = true ↔ (s.chan ch).rows.length ≤ Config.pprLeft ch (s.chan ch).pprUsed ∨ u = false := by
    unfold State.repairable
    rw [Bool.or_eq_true, decide_eq_true_eq, Bool.not_eq_true']
  exact if_congr h rfl rfl

/-- One attempt to reload a set whose golden copy and keyslot are there. -/
theorem State.reload_read {s : State} {c w k : Nat} {bs : List Byte} (hb : s.golden c (Map.get {} (s.comp c).weights w) = some bs)
    (hk : s.sharedSlot c = some k) :
    s.reload c w =
      let x := Map.get {} (s.comp c).weights w
      let v := (s.readGolden c x).writeSet c w k bs
      if decide (Config.sha384 bs = x.digest) then
        (v.updComp c (fun k => { k with weights := Map.upd {} w (fun v => { v with poisoned := false, fails := 0 }) k.weights })).eventAll c 0 w
      else
        let t := v.updComp c (fun k => { k with weights := Map.upd {} w (fun v => { v with fails := min 3 (v.fails + 1) }) k.weights })
        if x.fails = 2 then (t.emit (.operator 0x0619 w)).eventAll c 0x0619 w else t := by
  unfold State.reload
  dsimp only
  rw [hb, hk]
  rfl

/-- One attempt to reload a set whose golden copy cannot be read. -/
theorem State.reload_unread {s : State} {c w : Nat} (hb : s.golden c (Map.get {} (s.comp c).weights w) = none) :
    s.reload c w =
      let t := s.updComp c (fun k => { k with weights := Map.upd {} w (fun v => { v with fails := min 3 (v.fails + 1) }) k.weights })
      if (Map.get {} (s.comp c).weights w).fails = 2 then (t.emit (.operator 0x0619 w)).eventAll c 0x0619 w else t := by
  unfold State.reload
  dsimp only
  rw [hb]
  rfl

theorem reloads (s : State) (c : CidT) (w : Nat) :
    let x := Map.get {} (s.comp c.val).weights w
    x.poisoned = true → (s.comp c.val).st ≠ .impaired →
    (∀ bs k, s.golden c.val x = some bs → s.sharedSlot c.val = some k →
      let v := (s.readGolden c.val x).writeSet c.val w k bs
      let good := (v.updComp c.val (fun k =>
        { k with weights := Map.upd {} w (fun v => { v with poisoned := false, fails := 0 }) k.weights })).eventAll c.val 0 w
      (Config.sha384 bs = x.digest →
        (x.fails < 3 → exec (.weightReloadDone c w) s = .next good) ∧ (3 ≤ x.fails → exec (.weightReloadRetry c w) s = .next good)) ∧
      (Config.sha384 bs ≠ x.digest → x.fails < 2 → exec (.weightReloadDone c w) s = .next (v.updComp c.val (fun k =>
        { k with weights := Map.upd {} w (fun v => { v with fails := min 3 (v.fails + 1) }) k.weights })))) ∧
    (s.golden c.val x = none →
      let t := s.updComp c.val (fun k => { k with weights := Map.upd {} w (fun v => { v with fails := min 3 (v.fails + 1) }) k.weights })
      (x.fails < 2 → exec (.weightReloadDone c w) s = .next t) ∧
      (x.fails = 2 → exec (.weightReloadDone c w) s = .next ((t.emit (.operator 0x0619 w)).eventAll c.val 0x0619 w))) := by
  intro x hp hst
  have hmay : s.mayReload c.val w = true := Bool.and_eq_true_iff.2 ⟨hp, decide_eq_true hst⟩
  have hfirst : x.fails < 3 → exec (.weightReloadDone c w) s = .next (s.reload c.val w) := fun h => next_congr (if_pos ⟨hmay, h⟩)
  have hagain : 3 ≤ x.fails → exec (.weightReloadRetry c w) s = .next (s.reload c.val w) := fun h => next_congr (if_pos ⟨hmay, h⟩)
  refine ⟨fun bs k hb hk => ?_, fun hb => ?_⟩
  · intro v good
    have hr := State.reload_read hb hk
    refine ⟨fun hd => ?_, fun hd hf => ?_⟩
    · have hg : s.reload c.val w = good := hr.trans (if_pos (decide_eq_true hd))
      exact ⟨fun hf => (hfirst hf).trans (next_congr hg), fun hf => (hagain hf).trans (next_congr hg)⟩
    · refine (hfirst (by omega)).trans (next_congr (hr.trans ((if_neg (ne_true_of_eq_false (decide_eq_false hd))).trans ?_)))
      exact if_neg (show ¬x.fails = 2 by omega)
  · intro t
    have hr := State.reload_unread hb
    refine ⟨fun hf => (hfirst (by omega)).trans (next_congr (hr.trans ?_)), fun hf => (hfirst (by omega)).trans (next_congr (hr.trans ?_))⟩
    · exact if_neg (show ¬x.fails = 2 by omega)
    · exact if_pos hf

/-- Since when a package is cool: it is G1 or cooler, and was already or is from now on. -/
theorem State.coolFrom_eq (s : State) (pkg g : Nat) :
    s.coolFrom pkg g = if g ≤ 1 then (if Map.get 0 s.cool pkg = 0 then s.now + 1 else Map.get 0 s.cool pkg) else 0 := by
  unfold State.coolFrom
  split
  · next h => rw [if_neg (Nat.not_le.2 h)]
  · next h => rw [if_pos (Nat.not_lt.1 h)]

theorem repairReloadAndTemperature : Clauses.RepairReloadAndTemperature := by
  unfold Clauses.RepairReloadAndTemperature
  refine ⟨?_, reloads, ?_, ?_⟩
  · intro s p f retest hp hq
    refine next_congr ((if_neg (not_or.2 ⟨not_not.2 hp, ?_⟩)).trans ?_)
    · rwa [List.isEmpty_iff]
    · exact congrArg (fun t : State => t.bringBack p.val f.bad retest) (State.each_congr (fun s ch => State.repairChan_eq s ch _) _ _)
  · intro s pkg g seen t
    have ht : ({ s with grades := Map.set 0 pkg.val g.val s.grades, cool := Map.set 0 pkg.val (s.coolFrom pkg.val g.val) s.cool } : State) = t := by
      rw [State.coolFrom_eq]
    refine ⟨fun hg => next_congr ((if_neg (Nat.ne_of_lt hg)).trans ht), fun hg => next_congr ((if_pos hg).trans ?_)⟩
    exact congrArg (fun t : State => t.fenceHot (pkg.val / 2)) ht
  · intro s p bad hh hc
    exact next_congr (if_pos ⟨hh, hc⟩)

/-! ## Far ports -/

/-- A port that trains or is configured goes DOWN. -/
theorem State.farLeave_early {s : State} {d : Nat} (h : (s.farP d).st = .training ∨ (s.farP d).st = .config) :
    s.farLeave d = (s.emit (.pin 2 d false)).updFar d Far.toDown := by
  have hd : ¬(s.farP d).st = .down := by rcases h with h | h <;> rw [h] <;> decide
  have hr : ¬(s.farP d).st = .ready := by rcases h with h | h <;> rw [h] <;> decide
  unfold State.farLeave
  dsimp only
  rw [if_neg hd]
  exact if_neg hr

/-- A READY port advances its generation as it goes DOWN. -/
theorem State.farLeave_ready {s : State} {d : Nat} (hs : s.canon = true) (h : (s.farP d).st = .ready) :
    s.farLeave d = ((((s.emit (.pin 2 d false)).updFar d (fun f =>
      { f.toDown with gen := f.gen + 1, linkDown := min 0xFFFF (f.linkDown + 1) })).journal (.gen .far d ((s.farP d).gen + 1))).farCut d).loseTokens
        (fun t => poolOfFar t d) := by
  have he : (s.emit (.pin 2 d false)).canon = true := (Evolves.refl s).emit.canonOf ((canon_iff s).1 hs)
  have hg := congrArg Far.gen (State.farP_updFar_self he d (fun f =>
      { f.toDown with gen := f.gen + 1, linkDown := sat 0xFFFF (f.linkDown + 1) }))
  unfold State.farLeave
  dsimp only
  rw [if_neg (show ¬(s.farP d).st = .down by rw [h]; decide)]
  refine (if_pos h).trans ?_
  rw [hg]
  rfl

theorem farPorts : Clauses.FarPorts := by
  unfold Clauses.FarPorts
  intro s d hs f down
  refine ⟨?_, ?_, ?_, ?_, ?_, ?_, ?_, ?_, ?_, ?_, ?_⟩
  · intro hst hp hd
    have hf := State.farP_updFar_self hs d.val (fun f => { f with enable := true, disPend := false })
    refine next_congr ((if_pos rfl).trans ((if_pos ⟨(congrArg Far.st hf).trans hst, congrArg Far.enable hf, (congrArg Far.present hf).trans hp,
      hd⟩).trans ?_))
    exact congrArg (fun t : State => (t.emit (.pin 3 d.val true)).emit (.pin 2 d.val true)) (State.updFar_updFar hs d.val _ _)
  · intro hr
    refine next_congr ((if_neg (by decide)).trans (if_neg ?_))
    rintro ⟨h, -⟩
    exact hr ((congrArg Far.st (State.farP_updFar_self hs d.val (fun f => { f with enable := false }))).symm.trans h)
  · intro hr ht
    have hf := State.farP_updFar_self hs d.val (fun f => { f with enable := false })
    refine next_congr ((if_neg (by decide)).trans ((if_pos ?_).trans ((if_pos ht).trans ?_)))
    · exact ⟨(congrArg Far.st hf).trans hr, congrArg (fun f : Far => !f.enable) hf⟩
    · exact State.updFar_updFar hs d.val _ _
  · intro w r hst hok
    refine next_congr ?_
    rw [show (s.farP d.val).st = .training from hst]
    exact if_pos hok
  · intro w r hst
    refine next_congr ?_
    rw [show (s.farP d.val).st = .training from hst]
    exact (if_neg Bool.false_ne_true).trans (State.farLeave_early (.inl hst))
  · intro cap l hst hen
    refine next_congr ((if_pos hst).trans ((if_pos rfl).trans (if_neg ?_)))
    rintro ⟨-, h⟩
    have hf := State.farP_updFar_self hs d.val (fun f => { f with st := .ready, ide := true, capGib := min 2048 cap, poison := l })
    have he : (!f.enable) = true := (congrArg (fun f : Far => !f.enable) hf).symm.trans h
    rw [hen] at he
    exact absurd he (by decide)
  · intro cap l hst hreq
    refine next_congr ((if_pos hst).trans ((if_neg ?_).trans (State.farLeave_early (.inr hst))))
    rw [show (s.farP d.val).ideReq = true from hreq]
    decide
  · exact fun hst => next_congr ((if_pos hst).trans (State.farLeave_early (.inr hst)))
  · intro hst
    exact next_congr ((if_neg (by rcases hst with h | h <;> rw [show (s.farP d.val).st = _ from h] <;> decide)).trans (State.farLeave_early hst))
  · intro hst
    exact next_congr ((if_neg (by rw [show (s.farP d.val).st = _ from hst]; decide)).trans (State.farLeave_ready hs hst))
  · exact fun l hst => next_congr (if_pos hst)

/-- Settles O33: each event of a channel, a set, a package and a far port is the case of the model its premises name. -/
theorem channelsAndFarPorts : Obligations.ChannelsAndFarPorts := ⟨channelUpkeep, repairReloadAndTemperature, farPorts⟩

end Sys2Proof.Machine
end

section
/-! SUPPORT. MAP, UNMAP and RANGE_QUERY (R218, R229, R302). -/
namespace Sys2Proof.Machine

/-- Settles O34: the requests follow their checks in order; a range of a context resident nowhere is withdrawn and invalidated in one step. -/
theorem rangeRequests : Obligations.RangeRequests := by
  unfold Obligations.RangeRequests
  intro s r hs i k
  refine ⟨fun ho => ?_, fun ho hi => ?_⟩
  · have hno : (!s.ownsCtx r) = true := congrArg not ho
    exact ⟨next_congr (if_pos hno), next_congr (if_pos hno), next_congr (if_pos hno)⟩
  have hown : ¬(!s.ownsCtx r) = true := ne_true_of_eq_false (congrArg not ho)
  have hlt : ¬4096 ≤ i := Nat.not_le.2 hi
  refine ⟨fun hk he => ?_, fun hk he => ?_, fun hk hu => ?_, fun hk hu => ?_, ?_⟩
  · exact next_congr ((if_neg hown).trans ((if_neg hlt).trans ((if_neg (not_not.2 hk)).trans (if_neg (not_not.2 he)))))
  · exact next_congr ((if_neg hown).trans ((if_neg hlt).trans ((if_neg (not_not.2 hk)).trans (if_pos he))))
  · refine next_congr ((if_neg hown).trans ((if_neg hlt).trans ?_))
    rw [show (s.slot r.xid r.p0.toNat).st = .valid from hk]
    refine (if_pos (by rw [hu]; rfl)).trans ?_
    exact congrArg (fun t : State => (t.answer r 0 [0]).farSettle) (State.updSlot_updSlot hs r.xid i _ _)
  · refine next_congr ((if_neg hown).trans ((if_neg hlt).trans ?_))
    rw [show (s.slot r.xid r.p0.toNat).st = .valid from hk]
    exact if_neg (by rwa [List.isEmpty_iff])
  · exact next_congr ((if_neg hown).trans (if_neg hlt))

end Sys2Proof.Machine
end

section
/-! SUPPORT. Misses and withdrawals of address ranges, and fault records (R222 to R237). -/
namespace Sys2Proof.Machine

/-! ## Misses and withdrawals -/

theorem xltOf_lt (d : Nat) : xltOf d < 4 := by
  unfold xltOf
  dsimp only
  split <;> split <;> decide

/-- The core of the die's block serves its misses while it runs, else the next one. -/
theorem State.xltServing_eq {s : State} (h : s.roleHalted 2 = false) (die : Nat) :
    s.xltServing die = ([xltOf die, (xltOf die + 1) % 4, (xltOf die + 2) % 4, (xltOf die + 3) % 4] : List Nat).find?
      (fun i => decide ((s.coreS (3 + i)).st = .running)) := by
  unfold State.xltServing
  rw [h]
  refine (if_neg (by decide)).trans ?_
  rw [show (List.range 4).map (fun i => (xltOf die + i) % 4) = [(xltOf die + 0) % 4, (xltOf die + 1) % 4, (xltOf die + 2) % 4, (xltOf die + 3) % 4]
    from rfl, Nat.add_zero, Nat.mod_eq_of_lt (xltOf_lt die)]

theorem execRangeMiss_sent {s : State} {u : UnitId} {c : Nat} (h : s.xltServing (dieOf (ukind u.val).part) = some c) :
    exec (.rangeMiss u) s = .next (s.updUnit u.val (fun k => { k with miss := k.miss.map (fun m => { m with core := some c }) })) := by
  refine next_congr ?_
  rw [show s.xltFor u.val = some c from h]

/-- The reply to an engine's miss counts it and ends it, and then faults or fills the cache. -/
theorem execMissReply_engine {s : State} {u : UnitId} {m : Miss} {p : PartId} {e : EngId} (hu : u.val = uEng p.val e.val)
    (hm : (s.unit u.val).miss = some m) (hc : m.core ≠ none) (hx : s.xltFor u.val ≠ none) :
    exec (.missReply u) s = .next (
      let t := ({ s with xlt := { s.xlt with misses := s.xlt.misses + 1 } } : State).updUnit u.val (fun k => { k with miss := none })
      match s.slotAt m.xid m.va with
      | none => t.xlFault u.val 0x0302 0xFFFF 0 m.va m.len m.acc
      | some r =>
        if m.acc ≠ 3 ∧ !eHas r.2.entry (m.va + m.len - 1) then t.xlFault u.val 0x0304 r.1 r.2.epoch m.va m.len m.acc
        else (t.fillCache u.val r.1 r.2).xferGo u.val) := by
  have hgo : ¬(m.core.isNone = true ∨ (s.xltFor u.val).isNone = true) := by
    rw [Option.isNone_iff_eq_none, Option.isNone_iff_eq_none]
    exact not_or.2 ⟨hc, hx⟩
  have hslot : (({ s with xlt := { s.xlt with misses := s.xlt.misses + 1 } } : State).updUnit u.val (fun k => { k with miss := none })).slotAt
      m.xid m.va = s.slotAt m.xid m.va := rfl
  refine next_congr ?_
  unfold State.missReply
  rw [hm]
  refine (if_neg hgo).trans ?_
  dsimp only
  rw [hslot, show ukind u.val = .eng p.val e.val from hu ▸ ukind_uEng p e]
  cases s.slotAt m.xid m.va with
  | none => rfl
  | some r => rfl

/-- Settles O35: a miss goes to the first running core of its order, and its reply or a withdrawal is the model's case. -/
theorem missesAndWithdrawals : Obligations.MissesAndWithdrawals := by
  unfold Obligations.MissesAndWithdrawals
  intro s u _ home
  refine ⟨fun hh hr => ?_, fun hh hn hr => ?_, fun hh => ?_, ?_, ?_, ?_, ?_⟩
  · refine execRangeMiss_sent ((State.xltServing_eq hh _).trans ?_)
    exact List.find?_cons_of_pos (decide_eq_true hr)
  · refine execRangeMiss_sent ((State.xltServing_eq hh _).trans ?_)
    have hne : ¬decide ((s.coreS (3 + home)).st = .running) = true := ne_true_of_eq_false (decide_eq_false hn)
    exact (List.find?_cons_of_neg (p := fun i => decide ((s.coreS (3 + i)).st = .running)) hne).trans (List.find?_cons_of_pos (decide_eq_true hr))
  · refine next_congr ?_
    rw [show s.xltFor u.val = none from if_pos hh]
  · intro m p e hu hm hc hx ha t
    have he := execMissReply_engine hu hm hc hx
    refine ⟨fun hs => he.trans (next_congr ?_), fun r hs hr => he.trans (next_congr ?_)⟩
    · rw [hs]
    · rw [hs]
      refine if_neg fun h => ?_
      rw [hr] at h
      exact Bool.false_ne_true h.2
  · intro x i hit hw
    exact next_congr (if_pos hw)
  · intro x i hw hc
    exact next_congr (if_pos (Bool.and_eq_true_iff.2 ⟨hw, congrArg not hc⟩))
  · intro x i w hw
    refine next_congr ?_
    rw [hw]

/-! ## Fault records -/

/-- A fault record in its queue's slot, with TAIL still to move. -/
def State.fqLine (s : State) (c : Nat) (r : BitVec 512) : State :=
  (s.updHmem (s.comp c).fqPort (fun m => m.wrL ((s.fq c).base * 65536 + 64 * ((s.fq c).tail % 1024)) (lineBytes r))).hostTx (s.comp c).fqPort 64

theorem State.fqPut_updFq {s : State} (hs : s.canon = true) (c : Nat) (r : BitVec 512) (f : FaultQ → FaultQ) :
    (s.fqPut c r).updFq c f = (s.fqLine c r).updFq c (fun q => f { q with tail := (q.tail + 1) % 2048 }) :=
  State.updFq_updFq ((((Evolves.refl s).updHmem (fun _ h => Bytes.wrL_wf _ _ _ h)).hostTx).canonOf ((canon_iff s).1 hs)) c _ f

/-- The state in which the oldest detected fault is out of its queue. -/
def State.takeFault (s : State) (rest : List Fault0) : State := { s with xlt := { s.xlt with faults := rest } }

theorem State.takeFault_canon {s : State} (hs : s.canon = true) (rest : List Fault0) : (s.takeFault rest).canon = true := hs

/-- The oldest fault becomes a record where nothing keeps it from its queue. -/
theorem State.faultWrite_open {s : State} {f : Fault0} {rest : List Fault0} (hf : s.xlt.faults = f :: rest)
    (hup : s.hostUp (s.comp f.cid).fqPort = true) (hb : (s.fq f.cid).base ≠ 0) (ho : (s.fq f.cid).ovf = false)
    (hl : (s.fn (s.ctx f.xid).client).lease ≠ .lapsed) (hq : (s.fn (s.ctx f.xid).client).lease ≠ .quiesced) (ht : (s.ctx f.xid).st ≠ .teardown) :
    s.faultWrite =
      let t := s.takeFault rest
      let q := s.fq f.cid
      let lost := (Map.get 0 s.xlt.lostX f.xid).toNat
      let gen := (s.comp f.cid).gen
      if q.occ < 1023 then
        let u := (t.fqPut f.cid (faultRec f f.kind gen q.seq.toNat lost (q.tail.testBit 10))).updFq f.cid (fun q => { q with seq := q.seq + 1 })
        if f.fatal then (u.ctxStepStart f.xid f.status).startStep .context f.xid 11 else u
      else ((t.fqPut f.cid (faultRec f 5 gen q.seq.toNat (lost + 1) (q.tail.testBit 10))).updFq f.cid
        (fun v => { v with ovf := true, ovfAt := q.tail })).faultLost f := by
  have hgo : ¬((s.fq f.cid).base = 0 ∨ (s.fq f.cid).ovf = true ∨
      decide ((s.fn (s.ctx f.xid).client).lease = .lapsed ∨ (s.fn (s.ctx f.xid).client).lease = .quiesced) = true ∨
      (s.ctx f.xid).st = .teardown ∨ s.hostUp (s.comp f.cid).fqPort = false) := by
    rw [decide_eq_true_eq, ho, hup]
    rintro (h | h | (h | h) | h | h)
    exacts [hb h, absurd h (by decide), hl h, hq h, ht h, absurd h (by decide)]
  unfold State.faultWrite
  rw [hf]
  exact if_neg hgo

/-- Settles O36: a record is put where a slot is free, an OVERFLOW record in the last slot, and HEAD and BASE follow their rules. -/
theorem faultQueues : Obligations.FaultQueues := by
  unfold Obligations.FaultQueues
  intro s hs
  refine ⟨?_, ?_, ?_⟩
  · intro f rest hf t q lost gen put hup hb ho hl hq ht
    have he := State.faultWrite_open hf hup hb ho hl hq ht
    have hput := fun r g => State.fqPut_updFq (State.takeFault_canon hs rest) f.cid r g
    refine ⟨fun hocc hfat => next_congr (he.trans ((if_pos hocc).trans ?_)), fun hocc hfat => next_congr (he.trans ((if_pos hocc).trans ?_)),
      fun hocc => next_congr (he.trans ((if_neg (Nat.not_lt.2 hocc)).trans ?_))⟩
    · exact (if_neg (ne_true_of_eq_false hfat)).trans (hput _ _)
    · exact (if_pos hfat).trans (congrArg (fun u : State => (u.ctxStepStart f.xid f.status).startStep .context f.xid 11) (hput _ _))
    · refine congrArg (fun u : State => u.faultLost f) ((hput _ _).trans ?_)
      exact State.updFq_congr _ f.cid rfl
  · intro c v q h
    refine ⟨fun hle => next_congr ?_, fun hlt => ⟨_, rfl, ?_⟩⟩
    · exact State.updFq_congr s c.val (if_pos hle)
    · exact (State.fq_updFq_self hs c.val _).trans (if_neg (Nat.not_le.2 hlt))
  · intro c v ho
    exact next_congr (State.updFq_congr s c.val (if_pos ho))

end Sys2Proof.Machine
end

section
/-! SUPPORT. Descriptors are read from a ring (R171, R299 to R304), and stages switch contexts (R241, R244 to R251, R254). -/
namespace Sys2Proof.Machine

/-! ## Descriptors -/

/-- SCH reads the descriptor at the head of a ring that has its notice. -/
theorem State.readDescriptor_eq {s : State} {k r : Nat} (hr : s.readsRings k = true) (hon : (s.ring k r).on = true)
    (hn : (s.fn k).notices.contains (sqOffset r (s.ring k r).sqLog2 (s.ring k r).sqHead / 64) = true)
    (hs : let d := (s.fn k).region.rdN (sqOffset r (s.ring k r).sqLog2 (s.ring k r).sqHead) 128
      s.schAway (fle d 0 1) (fle d 1 1) = false) :
    s.readDescriptor k r =
      let x := s.fn k
      let g := s.ring k r
      let o := sqOffset r g.sqLog2 g.sqHead
      let d := x.region.rdN o 128
      let kind := fle d 0 1
      if kind = 0 then s.updFn k (fun x => { x with notices := x.notices.filter (fun l => l != o / 64) })
      else if x.granted.contains (o / 64 + 1) then s.emit (.bisnp (k / 256) (k % 256) (o / 64 + 1))
      else if kind = 1 then
        if g.free < 2 ∨ !(s.comp x.cid).readable (fle d 4 2) then s
        else ((s.updRing k r (fun g => { g with reserved := g.reserved + 2 })).consumeSlot k r).takeWork k r d (g.sqHead % 2 ^ g.sqLog2)
      else if g.free < 1 ∨ 1024 ≤ x.ctlOut then s
      else ((s.updRing k r (fun g => { g with reserved := g.reserved + 1 })).consumeSlot k r).takeControl k r d := by
  refine if_neg (ne_true_of_eq_false ?_)
  rw [hs, hr, hon, hn]
  rfl

/-- Settles O38: SCH acts on the kind of the descriptor, the grant of its second line, and the room of the ring. -/
theorem descriptorsAreRead : Obligations.DescriptorsAreRead := by
  unfold Obligations.DescriptorsAreRead
  intro s h f ring k g o d hr hon hn hs
  have he : exec (.descriptorRead h f ring) s = .next _ := next_congr (State.readDescriptor_eq hr hon hn hs)
  refine ⟨fun h0 => he.trans (next_congr (if_pos h0)), fun h0 hg => he.trans (next_congr ((if_neg h0).trans (if_pos hg))),
    fun h1 hg hf hb => he.trans (next_congr ?_), fun h1 hg hf hc => he.trans (next_congr ?_)⟩
  · have h0 : ¬fle d 0 1 = 0 := by omega
    refine (if_neg h0).trans ((if_neg (ne_true_of_eq_false hg)).trans ((if_pos h1).trans (if_neg (not_or.2 ⟨Nat.not_lt.2 hf, ?_⟩))))
    exact ne_true_of_eq_false (congrArg not hb)
  · have h0 : ¬fle d 0 1 = 0 := by omega
    have h1' : ¬fle d 0 1 = 1 := by omega
    exact (if_neg h0).trans ((if_neg (ne_true_of_eq_false hg)).trans ((if_neg h1').trans
      (if_neg (not_or.2 ⟨Nat.not_lt.2 hf, Nat.not_le.2 hc⟩))))

/-! ## Work starts and ends -/

theorem State.stopFor_none {s : State} {c g : Nat} (h : (s.stage c g).resident = none) (y : Nat) :
    s.stopFor c g (some y) = s.startRestore c g y := by
  unfold State.stopFor
  rw [h]

theorem State.stopFor_some {s : State} {c g x : Nat} (h : (s.stage c g).resident = some x) (next : Option Nat) :
    s.stopFor c g next = (s.updStage c g (fun y => { y with
      work := none, phase := .saving x next, npStop := if (s.stageUnits c g).any s.npRunning then some s.now else none })).updCtx x
        (fun k => if k.st = .running then { k with st := .switching } else k) := by
  unfold State.stopFor
  rw [h]

/-- The work SCH picks on a quiet stage starts there, or takes the stage over. -/
theorem State.workStart_picked {s : State} {n g : Nat} {w v : Work} (hw : s.work n = some w) (h1 : ((s.settleStage w.cid g).stage w.cid g).work = none)
    (h2 : ((s.settleStage w.cid g).stage w.cid g).phase = .quiet)
    (h3 : ((s.settleStage w.cid g).stageUnits w.cid g).any (fun u => ((s.settleStage w.cid g).unit u).retired) = false)
    (h4 : (s.settleStage w.cid g).pick w.cid g = some (n, v)) :
    s.workStart n g =
      let t := s.settleStage w.cid g
      if (t.stage w.cid g).resident = some v.xid then t.startWork w.cid g n v else t.stopFor w.cid g (some v.xid) := by
  unfold State.workStart
  rw [hw]
  dsimp only
  rw [if_neg, h4]
  · exact if_neg (not_not.2 rfl)
  · rw [h1, h3]
    rintro (h | h | h)
    exacts [absurd h (by decide), h h2, absurd h (by decide)]

theorem workStartsAndEnds : Clauses.WorkStartsAndEnds := by
  unfold Clauses.WorkStartsAndEnds
  refine ⟨?_, ?_, ?_⟩
  · intro s n g w v hw t h1 h2 h3 h4
    have he := State.workStart_picked hw h1 h2 h3 h4
    refine ⟨fun h => next_congr (he.trans (if_pos h)), fun h => next_congr (he.trans ((if_neg ?_).trans (State.stopFor_none h _))),
      fun x h hx => next_congr (he.trans ((if_neg ?_).trans (State.stopFor_some h _)))⟩
    · rw [show ((s.settleStage w.cid g.val).stage w.cid g.val).resident = none from h]
      exact nofun
    · rw [show ((s.settleStage w.cid g.val).stage w.cid g.val).resident = some x from h]
      exact fun h => hx (Option.some.inj h)
  · intro s n w v hw t hv
    have he : s.workComplete n = if v.stages.all (fun g => decide (v.on g = .done)) then t.finishWork n 0 else t := by
      unfold State.workComplete
      rw [hw]
      dsimp only
      rw [show (s.each w.stages (fun s g => if (s.stage w.cid g).work = some n then s.settleStage w.cid g else s)).work n = some v from hv]
    exact ⟨fun h => next_congr (he.trans (if_pos h)), fun h => next_congr (he.trans (if_neg (ne_true_of_eq_false h)))⟩
  · intro s n w hw t
    have he : s.deadline n = if (t.comp w.cid).multi then t.sendAbandon w.cid else t := by
      unfold State.deadline
      rw [hw]
    exact ⟨fun h => next_congr (he.trans (if_neg (ne_true_of_eq_false h))), fun h => next_congr (he.trans (if_pos h))⟩

/-! ## Stages switch contexts -/

/-- Settling a stage does not change whether skim work is parked. -/
theorem State.settleStage_park (s : State) (c g : Nat) : (s.settleStage c g).sch.park = s.sch.park := by
  unfold State.settleStage
  split
  · rfl
  · split
    · rfl
    · rfl

/-- A save that is done. -/
theorem State.saveDone_eq {s : State} {c g x : Nat} {next : Option Nat} (hp : (s.stage c g).phase = .saving x next) :
    s.saveDone c g =
      let h := s.stopStage c g
      let v := (((h.chargeStop c g x).evict c g).settleSaved x).updStage c g (fun y =>
        { y with sliceLeft := 0, empty := y.empty && !(h.ctx x).skim })
      let v := if (v.comp c).op.any (fun o => o.savedCtx.contains (g, x)) then v.stepSaves c g x 2 else v
      if !h.stageHalted c g then h
      else match (generalizing := false) next with
        | none => v
        | some y => if v.canRestore y then v.startRestore c g y else v := by
  unfold State.saveDone
  rw [hp] <;> rfl

/-- A restore that is done. -/
theorem State.restoreDone_eq {s : State} {c g x : Nat} (h : (s.stage c g).phase = .restoring x) :
    s.restoreDone c g =
      let r := (s.restoreStage c g x).dropSaved x ((s.comp c).lpsOf g)
      let v := if (r.ctx x).skim then r.newSlice c g x else r
      if s.canRestore x then match v.underWay c g x with
        | none => v
        | some e => v.runOn c g e.1 e.2
      else s.evict c g := by
  unfold State.restoreDone
  rw [h] <;> rfl

/-- The end of a slice over skim work. -/
theorem State.sliceEnd_eq {s : State} {c g x : Nat} (hx : ((s.settleStage c g).stage c g).resident = some x)
    (hq : ((s.settleStage c g).stage c g).phase = .quiet) (hk : (s.settleStage c g).runsSkim c g true = true) :
    s.sliceEnd c g =
      let t := s.settleStage c g
      let v := t.updStage c g (fun v => { v with sliceLeft := 0 })
      match (if 0 < (t.stage c g).budget then v.pickCream c g else none) with
      | some e => (v.updStage c g (fun v => { v with empty := false })).stopFor c g (some e.2.xid)
      | none =>
        match v.pickSkim c g ((v.eligible c g true).filter (fun e => e.2.xid != x || v.urgent c g e.2)) with
        | some e => if e.2.xid = x then v.newSlice c g x else v.stopFor c g (some e.2.xid)
        | none => if s.sch.park then v.stopFor c g none else v.newSlice c g x := by
  have hgo : ¬(((s.settleStage c g).stage c g).phase ≠ .quiet ∨ (!(s.settleStage c g).runsSkim c g true) = true) :=
    not_or.2 ⟨not_not.2 hq, ne_true_of_eq_false (congrArg not hk)⟩
  unfold State.sliceEnd
  dsimp only
  rw [hx]
  dsimp only
  rw [if_neg hgo, show ((s.settleStage c g).updStage c g (fun v => { v with sliceLeft := 0 })).sch.park = s.sch.park from State.settleStage_park s c g] <;> rfl

/-- Ready cream on a stage whose budget is not empty. -/
theorem State.creamPreempt_eq {s : State} {c g : Nat} {e : Nat × Work} (he : (s.settleStage c g).pickCream c g = some e)
    (hn : ((s.settleStage c g).stage c g).empty = false) (hb : 0 < ((s.settleStage c g).stage c g).budget) :
    s.creamPreempt c g =
      let t := s.settleStage c g
      match (t.stage c g).phase with
      | .quiet => if t.runsSkim c g true then t.stopFor c g (some e.2.xid) else t
      | .saving x _ => if (t.ctx x).skim then t.updStage c g (fun v => { v with phase := .saving x (some e.2.xid) }) else t
      | .restoring x => if (t.ctx x).skim then ((t.evict c g).settleSaved x).startRestore c g e.2.xid else t := by
  unfold State.creamPreempt
  dsimp only
  rw [he]
  refine (if_neg (not_or.2 ⟨ne_true_of_eq_false hn, by omega⟩)).trans ?_
  rfl

theorem stagesSwitch : Clauses.StagesSwitch := by
  unfold Clauses.StagesSwitch
  intro s c g y t q
  refine ⟨?_, ?_, ?_, ?_, ?_, ?_, ?_, ?_⟩
  · intro x next hp h v v'
    have he := State.saveDone_eq hp
    have hgo : ∀ hh : h.stageHalted c.val g.val = true, ¬(!h.stageHalted c.val g.val) = true := fun hh => ne_true_of_eq_false (congrArg not hh)
    refine ⟨fun hh => next_congr (he.trans (if_pos (congrArg not hh))), fun hh hn => next_congr (he.trans ((if_neg (hgo hh)).trans ?_)),
      fun x' hh hn hr => next_congr (he.trans ((if_neg (hgo hh)).trans ?_))⟩
    · rw [hn]
    · rw [hn]
      exact if_pos hr
  · exact fun x hp hr => next_congr ((State.restoreDone_eq hp).trans (if_neg (ne_true_of_eq_false hr)))
  · intro x hp hr r v
    have he := (State.restoreDone_eq hp).trans (if_pos hr)
    refine ⟨fun hu => next_congr (he.trans ?_), fun e hu => next_congr (he.trans ?_)⟩
    · rw [show State.underWay _ c.val g.val x = none from hu]
    · rw [show State.underWay _ c.val g.val x = some e from hu]
  · intro x hx hq hk v others
    have he := State.sliceEnd_eq hx hq hk
    refine ⟨fun e hb hc => next_congr (he.trans ?_), fun hno => ?_⟩
    · dsimp only
      rw [if_pos hb, hc]
    have hnone : (if 0 < ((s.settleStage c.val g.val).stage c.val g.val).budget then v.pickCream c.val g.val else none) = none := by
      split
      · next hb => exact hno.resolve_left (by show ¬q.budget = 0; exact Nat.ne_of_gt hb)
      · rfl
    refine ⟨fun e ho hne => next_congr (he.trans ?_), fun e ho heq => next_congr (he.trans ?_), fun ho hp => next_congr (he.trans ?_),
      fun ho hp => next_congr (he.trans ?_)⟩
    · dsimp only
      rw [hnone, show State.pickSkim _ c.val g.val _ = some e from ho]
      exact if_neg hne
    · dsimp only
      rw [hnone, show State.pickSkim _ c.val g.val _ = some e from ho]
      exact if_pos heq
    · dsimp only
      rw [hnone, show State.pickSkim _ c.val g.val _ = none from ho]
      exact if_neg (ne_true_of_eq_false hp)
    · dsimp only
      rw [hnone, show State.pickSkim _ c.val g.val _ = none from ho]
      exact if_pos hp
  · intro e hc hn hb
    have he := State.creamPreempt_eq hc hn hb
    refine ⟨fun hp hk => next_congr (he.trans ?_), fun x z hp hk => next_congr (he.trans ?_), fun x hp hk => next_congr (he.trans ?_)⟩
    · dsimp only
      rw [show ((s.settleStage c.val g.val).stage c.val g.val).phase = _ from hp]
      exact if_pos hk
    · dsimp only
      rw [show ((s.settleStage c.val g.val).stage c.val g.val).phase = _ from hp]
      exact if_pos hk
    · dsimp only
      rw [show ((s.settleStage c.val g.val).stage c.val g.val).phase = _ from hp]
      exact if_pos hk
  · intro v hp hk
    have he : s.creamEmpty c.val g.val = match v.pickSkim c.val g.val (v.eligible c.val g.val true) with
        | none => v
        | some e => v.stopFor c.val g.val (some e.2.xid) := if_pos ⟨hp, hk⟩
    refine ⟨fun hs => next_congr (he.trans ?_), fun e hs => next_congr (he.trans ?_)⟩
    · rw [hs]
    · rw [hs]
  · exact fun h => next_congr (if_pos h)
  · exact fun h => next_congr (if_neg (ne_true_of_eq_false h))

/-- Settles O39: SCH acts on what runs on the stage, on what waits for it, and on its budget. -/
theorem workAndStages : Obligations.WorkAndStages := ⟨workStartsAndEnds, stagesSwitch⟩

end Sys2Proof.Machine
end

section
/-! SUPPORT. Fabric ports train, and their links replay and fail (R261 to R264, R271, R287, R288, R293, R435). -/
namespace Sys2Proof.Machine

/-! ## Updates that change nothing, and what the journal leaves -/

/-- An update that keeps the entry keeps the table. -/
theorem Map.upd_fixed {β : Type} [DecidableEq β] {d : β} {m : Map β} {k : Nat} {f : β → β} (h : Map.wf d m = true)
    (hf : f (Map.get d m k) = Map.get d m k) : Map.upd d k f m = m := by
  unfold Map.upd
  rw [hf]
  clear hf
  induction m with
  | nil => exact if_pos rfl
  | cons e m ih =>
    obtain ⟨hv, hk, hm⟩ := (Map.wf_cons d e.2 e.1 m).1 h
    by_cases hlt : k < e.1
    · have hg : Map.get d (e :: m) k = d := Map.get_of_lt d k _ fun x hx => by
        rcases List.mem_cons.1 hx with rfl | hx
        · exact hlt
        · exact lt_trans hlt (hk x hx)
      rw [hg]
      exact (if_pos hlt).trans (if_pos rfl)
    · by_cases heq : e.1 = k
      · have hg : Map.get d (e :: m) k = e.2 := if_pos heq
        rw [hg]
        refine (if_neg hlt).trans ((if_pos heq.symm).trans ((if_neg hv).trans ?_))
        rw [← heq]
      · have hg : Map.get d (e :: m) k = Map.get d m k := if_neg heq
        rw [hg]
        exact (if_neg hlt).trans ((if_neg (Ne.symm heq)).trans (congrArg (e :: ·) (ih hm)))

theorem State.updFport_fixed {s : State} {p : Nat} {f : FabPort → FabPort} (hs : s.canon = true) (hf : f (s.fport p) = s.fport p) :
    s.updFport p f = s := by
  unfold State.updFport
  rw [Map.upd_fixed (State.fab_ports_wf hs) hf]

/-- Journaling changes the journal alone. -/
theorem State.durableRun_eq (s : State) (rs : List JRec) : ∃ j, s.durableRun rs = { s with jrn := j } := by
  have he : ∀ (l : List JEnt) (t : State), (∃ j, t = { s with jrn := j }) → ∃ j, t.each l (fun s e => s.append e) = { s with jrn := j } := by
    intro l
    induction l with
    | nil => exact fun t h => h
    | cons e l ih =>
      rintro t ⟨j, rfl⟩
      exact ih _ ⟨_, rfl⟩
  exact he _ _ ⟨_, rfl⟩

theorem State.journal_eq (s : State) (r : JRec) : ∃ j, s.journal r = { s with jrn := j } := by
  unfold State.journal State.journalRun
  split
  · exact State.durableRun_eq s [r]
  · exact ⟨_, rfl⟩

/-! ## Training -/

section
variable {s : State} {p : Nat}

/-- A port that may start looks for its peer, in the role its control register gives. -/
theorem State.fabStart_starts (hd : (s.fport p).st = .down) (he : bit (s.fport p).ctl 0 = true) (hc : (s.fport p).cpres = true)
    (ho : s.domOn (domPort p) = true) (hr : s.roleHalted 6 = false) :
    s.fabStart p = s.updFport p (fun x => { x with st := .detect, role := bits x.ctl 7 4 }) :=
  State.updFport_congr s p (if_pos ⟨hd, he, hc, ho, congrArg not hr⟩)

theorem State.fabStart_stays (hs : s.canon = true) (hd : (s.fport p).st ≠ .down) : s.fabStart p = s :=
  State.updFport_fixed hs (if_neg fun h => hd h.1)

/-- A port that is not in service has nothing to leave. -/
theorem State.fabLeave_idle (ha : (s.fport p).st ≠ .active) (hr : (s.fport p).st ≠ .retrain) : s.fabLeave p = s :=
  if_neg (not_or.2 ⟨ha, hr⟩)

theorem State.fabStop_idle (ha : (s.fport p).st ≠ .active) (hr : (s.fport p).st ≠ .retrain) (st : FPState) (code : Nat) :
    s.fabStop p st code = (s.updFport p (fun x => { x with st := st })).fabCode p code := by
  unfold State.fabStop
  rw [State.fabLeave_idle ha hr]

theorem State.fabMove_moves {a b : FPState} (h : (s.fport p).st = a) : s.fabMove p a b = s.updFport p (fun x => { x with st := b }) :=
  State.updFport_congr s p (if_pos h)

/-- The state in which a control register is written and journaled. -/
def State.fabSet (s : State) (p : Nat) (w : Word32) : State :=
  ((s.updFport p (fun x => { x with ctl := w })).journal (.setting (.fabRole p) (bits w 7 4))).journal (.setting (.fabExpect p) (bits w 31 19))

theorem State.fabSet_eq (s : State) (p : Nat) (w : Word32) : ∃ j, s.fabSet p w = { s.updFport p (fun x => { x with ctl := w }) with jrn := j } := by
  obtain ⟨j, hj⟩ := State.journal_eq (s.updFport p (fun x => { x with ctl := w })) (.setting (.fabRole p) (bits w 7 4))
  unfold State.fabSet
  rw [hj]
  obtain ⟨i, hi⟩ := State.journal_eq { s.updFport p (fun x => { x with ctl := w }) with jrn := j } (.setting (.fabExpect p) (bits w 31 19))
  exact ⟨i, hi⟩

theorem State.fabSet_fport (hs : s.canon = true) (w : Word32) : (s.fabSet p w).fport p = { s.fport p with ctl := w } := by
  obtain ⟨j, hj⟩ := State.fabSet_eq s p w
  rw [hj]
  exact State.fport_updFport_self hs p (fun x => { x with ctl := w })

theorem State.fabSet_canon (hs : s.canon = true) (w : Word32) : (s.fabSet p w).canon = true :=
  (((Evolves.refl s).updFport).journal.journal).canonOf ((canon_iff s).1 hs)

theorem State.fabSet_may (w : Word32) (d : Nat) : (s.fabSet p w).domOn d = s.domOn d ∧ (s.fabSet p w).roleHalted 6 = s.roleHalted 6 := by
  obtain ⟨j, hj⟩ := State.fabSet_eq s p w
  rw [hj]
  exact ⟨rfl, rfl⟩

end

theorem fabPortEnables (s : State) (f : FabId) (hs : s.canon = true) (v : Word32) :
    let x := s.fport f.val
    let p := f.val
    let w := v &&& 0xFFF800F1
    let t := ((s.updFport p (fun x => { x with ctl := w })).journal (.setting (.fabRole p) (bits w 7 4))).journal
      (.setting (.fabExpect p) (bits w 31 19))
    (x.st = .down → x.cpres = true → s.domOn (domPort p) = true → s.roleHalted 6 = false → bit w 0 = true →
      exec (.fabPortEnable f v) s = .next (t.updFport p (fun x => { x with st := .detect, role := bits w 7 4 }))) ∧
    (x.st ≠ .down → bit w 0 = true → exec (.fabPortEnable f v) s = .next t) ∧
    (x.st ≠ .active → x.st ≠ .retrain → bit w 0 = false → exec (.fabPortEnable f v) s = .next (t.updFport p (fun x =>
      { x with st := .down }))) := by
  intro x p w t
  have hf : t.fport p = { x with ctl := w } := State.fabSet_fport hs w
  have hst : (t.fport p).st = x.st := (congrArg FabPort.st hf).trans rfl
  obtain ⟨hdom, hrole⟩ := State.fabSet_may (s := s) (p := p) w (domPort p)
  refine ⟨fun hd hc ho hr hb => next_congr ((if_pos hb).trans ?_), fun hd hb => next_congr ((if_pos hb).trans ?_),
    fun ha hr hb => next_congr ((if_neg (ne_true_of_eq_false hb)).trans ?_)⟩
  · refine (State.fabStart_starts (s := t) (hst.trans hd) ?_ ((congrArg FabPort.cpres hf).trans hc) (hdom.trans ho) (hrole.trans hr)).trans ?_
    · rw [hf]
      exact hb
    · refine State.updFport_congr t p ?_
      rw [hf]
  · exact State.fabStart_stays (State.fabSet_canon hs w) (fun h => hd (hst.symm.trans h))
  · exact congrArg (fun u : State => u.updFport p (fun x => { x with st := .down }))
      (State.fabLeave_idle (s := t) (fun h => ha (hst.symm.trans h)) (fun h => hr (hst.symm.trans h)))

/-- What the identity of a peer leads to. -/
theorem identifies (s : State) (f : FabId) (q : PeerId) (hst : (s.fport f.val).st = .identify) :
    let x := s.fport f.val
    let p := f.val
    (q.system = s.fab.system → q.node ≠ s.fab.node → bit x.ctl 19 = false ∨ q.node = bits x.ctl 31 20 →
      let t := s.updFport p (fun x => { x with
        st := .active, peer := some q, seq := 0, ack := 1023, cwLeft := 0, replay := [], replays := [], vcs := [], audAt := s.now })
      (s.fab.upOwed = false → exec (.identify f q) s = .next t) ∧
      (s.fab.upOwed = true → exec (.identify f q) s = .next (t.portSend p (t.notice 2 t.fab.node t.fab.mgen 0 0 0)))) ∧
    (q.system ≠ s.fab.system →
      exec (.identify f q) s = .next ((s.updFport p (fun x => { x with st := .fenced })).fabCode p 0x0787)) ∧
    (q.system = s.fab.system → q.node = s.fab.node →
      exec (.identify f q) s = .next ((s.updFport p (fun x => { x with st := .fenced })).fabCode p 0x0786)) ∧
    (q.system = s.fab.system → q.node ≠ s.fab.node → bit x.ctl 19 = true → q.node ≠ bits x.ctl 31 20 →
      exec (.identify f q) s = .next ((s.updFport p (fun x => { x with st := .fenced })).fabCode p 0x0785)) := by
  intro x p
  have hfence : ∀ code, s.identityCode p q = code → code ≠ 0 →
      exec (.identify f q) s = .next ((s.updFport p (fun x => { x with st := .fenced })).fabCode p code) := by
    intro code hc hne
    refine next_congr ((if_pos hst).trans ((if_neg (by rw [show s.identityCode f.val q = code from hc]; exact hne)).trans ?_))
    rw [show s.identityCode f.val q = code from hc]
    exact State.fabStop_idle (by rw [hst]; decide) (by rw [hst]; decide) _ _
  refine ⟨fun h1 h2 h3 => ?_, fun h1 => hfence _ (if_pos h1) (by decide), fun h1 h2 => hfence _ ?_ (by decide),
    fun h1 h2 h3 h4 => hfence _ ?_ (by decide)⟩
  · have hc : s.identityCode p q = 0 := by
      refine (if_neg (not_not.2 h1)).trans ((if_neg h2).trans (if_neg ?_))
      rintro ⟨ha, hb⟩
      exact h3.elim (fun h => ne_true_of_eq_false h ha) hb
    intro t
    exact ⟨fun h => next_congr ((if_pos hst).trans ((if_pos hc).trans (if_neg (ne_true_of_eq_false h)))),
      fun h => next_congr ((if_pos hst).trans ((if_pos hc).trans (if_pos h)))⟩
  · exact (if_neg (not_not.2 h1)).trans (if_pos h2)
  · exact (if_neg (not_not.2 h1)).trans ((if_neg h2).trans (if_pos ⟨h3, h4⟩))

theorem fabricPortsTrain : Clauses.FabricPortsTrain := by
  unfold Clauses.FabricPortsTrain
  intro s f hs x p
  have hstop : ∀ st code, x.st = .detect ∨ x.st = .equalize ∨ x.st = .identify →
      s.fabStop p st code = (s.updFport p (fun x => { x with st := st })).fabCode p code := by
    intro st code h
    refine State.fabStop_idle ?_ ?_ st code
    · rcases h with h | h | h <;> rw [show (s.fport p).st = _ from h] <;> decide
    · rcases h with h | h | h <;> rw [show (s.fport p).st = _ from h] <;> decide
  refine ⟨fabPortEnables s f hs, fun h => next_congr (State.fabMove_moves h), fun h => next_congr (State.fabMove_moves h),
    fun h => next_congr ((if_pos h).trans (hstop _ _ (.inl h))), fun h => next_congr ((if_pos h).trans (hstop _ _ (.inr (.inl h)))),
    fun h => next_congr ((if_pos h).trans (hstop _ _ (.inr (.inr h)))), fun hd he hc ho hr => next_congr (State.fabStart_starts hd he hc ho hr),
    ?_, ?_, ?_, fun q hst => identifies s f q hst⟩
  · intro hd he ho hr
    refine next_congr ((State.updFport_updFport hs p _ _).trans (State.updFport_congr s p ?_))
    exact if_pos ⟨hd, he, rfl, ho, congrArg not hr⟩
  · intro hd
    refine next_congr ((State.updFport_updFport hs p _ _).trans (State.updFport_congr s p ?_))
    exact if_neg fun h => hd h.1
  · intro l q h t t' t''
    exact next_congr (if_pos h)

/-! ## Replay and the loss of a link -/

/-- A link in service that fails. -/
theorem State.fabLeave_served {s : State} {p : Nat} (hs : s.canon = true) (h : (s.fport p).st = .active ∨ (s.fport p).st = .retrain) :
    s.fabLeave p =
      let x := s.fport p
      let t := (s.updFport p (fun x => { x with
        st := .down, gen := x.gen + 1, replay := [], replays := [], vcs := [], wait := [], inq := [], resv := [], lent := [],
        cwLeft := 0 })).journal (.gen .fab p (x.gen + 1))
      let told := match x.peer with
        | none => false | some q => t.fab.seen.any (fun k => k.1 == 1 && k.2.1 == q.node && k.2.2.1 == q.mgen.toNat)
      let t := if told then t else t.each (x.replay.map (fun e => e.2)) (fun s f => s.lostFrame f)
      let t := (t.detourLost s).each x.inq (fun s f => if s.transits f then s.sendFrame { f with hops := f.hops + 1 } else s.endFrame p f)
      t.each x.wait (fun s f => if f.typ = 9 then s else s.sendFrame f) := by
  have hg : ((s.updFport p (fun x => { x with
      st := .down, gen := x.gen + 1, replay := [], replays := [], vcs := [], wait := [], inq := [], resv := [], lent := [],
      cwLeft := 0 })).fport p).gen = (s.fport p).gen + 1 := congrArg FabPort.gen (State.fport_updFport_self hs p _)
  unfold State.fabLeave
  dsimp only
  rw [hg]
  exact if_pos h

theorem fabricLinksReplay : Clauses.FabricLinksReplay := by
  unfold Clauses.FabricLinksReplay
  intro s f hs x p
  have hup : x.st = .active → ¬(s.fport f.val).st ≠ .active := fun h => not_not.2 h
  refine ⟨fun ack n h => ?_, fun seq ack n h hne => ?_, fun seq ack n h => ?_, ?_, ?_, fun t l => rfl, ?_⟩
  · refine next_congr ((if_neg (hup h)).trans ((if_neg (by decide)).trans (State.updFport_congr s p ?_)))
    rw [if_pos rfl]
  · refine next_congr ((if_neg (hup h)).trans ((if_neg (by decide)).trans (State.updFport_congr s p ?_)))
    rw [if_neg hne]
  · exact next_congr ((if_neg (hup h)).trans (if_pos rfl))
  · intro seq h l t
    have hr : (t.fport p).replays = within s.now 10000 x.replays := congrArg FabPort.replays
      (State.fport_updFport_self hs p (fun x => { x with replays := within s.now 10000 x.replays }))
    refine ⟨fun hn => next_congr ((if_neg (hup h)).trans (if_neg ?_)), fun hn => next_congr ((if_neg (hup h)).trans (if_pos ?_))⟩
    · rw [show FabPort.replays _ = _ from hr]
      exact Nat.not_le.2 hn
    · rw [show FabPort.replays _ = _ from hr]
      exact hn
  · intro a b h ha h1 h2 h3 h4
    refine next_congr (if_pos ⟨h, ?_⟩)
    rw [show (s.fport f.val).peer = some a from ha, Option.map_some, h1, h2, h3, h4]
  · intro h t told t1 t2
    refine next_congr ((if_pos h).trans ?_)
    exact congrArg (fun u : State => (u.updFport p (fun x => { x with st := .down })).fabCode p 0x0788) (State.fabLeave_served hs h)

/-- Settles O40: each event of a fabric port is the case of the model its state names. -/
theorem fabricPortsAndLinks : Obligations.FabricPortsAndLinks := ⟨fabricPortsTrain, fabricLinksReplay⟩

end Sys2Proof.Machine
end

section
/-! SUPPORT. Frames, credits, audits, notices and detours of the fabric (R266 to R268, R270, R271, R275 to R277, R287). -/
namespace Sys2Proof.Machine

/-! ## The argument of a notice -/

theorem bits_ofNat (w n hi lo : Nat) : bits (BitVec.ofNat w n) hi lo = n % 2 ^ w / 2 ^ lo % 2 ^ (hi + 1 - lo) := by
  unfold bits
  rw [BitVec.extractLsb'_toNat, BitVec.toNat_ofNat, Nat.shiftRight_eq_div_pow]

section
variable {code node : Nat} {mgen fgen : Word16}

/-- The number a notice without a value carries. -/
theorem noticeArg_eq (code node : Nat) (mgen fgen : Word16) :
    noticeArg code mgen node fgen 0 =
      BitVec.ofNat 64 (code * 72057594037927936 + mgen.toNat * 1099511627776 + node * 268435456 + fgen.toNat * 4096) := by
  unfold noticeArg fld
  simp only [Nat.shiftLeft_eq, Nat.add_zero]

theorem noticeArg_code (hc : code < 256) (hn : node < 4096) : bits (noticeArg code mgen node fgen 0) 63 56 = code := by
  have h1 := mgen.isLt
  have h2 := fgen.isLt
  rw [noticeArg_eq, bits_ofNat]
  norm_num at *
  omega

theorem noticeArg_node (hn : node < 4096) : bits (noticeArg code mgen node fgen 0) 39 28 = node := by
  have h1 := mgen.isLt
  have h2 := fgen.isLt
  rw [noticeArg_eq, bits_ofNat]
  norm_num at *
  omega

theorem noticeArg_mgen (hn : node < 4096) : BitVec.ofNat 16 (bits (noticeArg code mgen node fgen 0) 55 40) = mgen := by
  have h1 := mgen.isLt
  have h2 := fgen.isLt
  refine BitVec.eq_of_toNat_eq ?_
  rw [BitVec.toNat_ofNat, noticeArg_eq, bits_ofNat]
  norm_num at *
  omega

theorem noticeArg_fgen : BitVec.ofNat 16 (bits (noticeArg code mgen node fgen 0) 27 12) = fgen := by
  have h1 := mgen.isLt
  have h2 := fgen.isLt
  refine BitVec.eq_of_toNat_eq ?_
  rw [BitVec.toNat_ofNat, noticeArg_eq, bits_ofNat]
  norm_num at *
  omega

end

/-! ## Notices -/

section
variable {s : State} {p code node fjob : Nat} {mgen fgen : Word16}

/-- The notice of a node as a port hands it on. -/
def State.noticed (s : State) (p code node : Nat) (mgen : Word16) (fjob : Nat) (fgen : Word16) : State :=
  ({ s with fab := { s.fab with seen := s.fab.seen ++ [noticeKey code node mgen fjob fgen] } } : State).flood
    { s.notice code node mgen fgen fjob 0 with src := node, srcMgen := mgen, hops := 1 } (some p)

/-- What a module does with a notice that is new to it. -/
def State.heed (s : State) (code node : Nat) (mgen : Word16) (fjob : Nat) (fgen : Word16) : State :=
  if code = 1 then s.nodeDown node mgen else if code = 2 then s.nodeUp node mgen else if code = 3 then s.takeAbandon fjob fgen else s

theorem State.noticeBy_eq (ha : (s.fport p).st = .active) (hc : code < 256) (hn : node < 4096) :
    s.noticeBy p code node mgen fjob fgen =
      if s.fab.seen.contains (noticeKey code node mgen fjob fgen) then s
      else (s.noticed p code node mgen fjob fgen).heed code node mgen fjob fgen := by
  refine (if_pos ha).trans ?_
  unfold State.takeNotice
  dsimp only [State.notice]
  rw [noticeArg_code hc hn, noticeArg_node hn, noticeArg_mgen hn, noticeArg_fgen]
  unfold State.noticeNew
  dsimp only
  split
  · rfl
  · rcases code with _ | _ | _ | _ | code
    all_goals rfl

end

/-- A notice of a node that went down or came up. -/
theorem nodeNotices (s : State) (f : FabId) (node : Nat) (mgen : Word16) (ha : (s.fport f.val).st = .active) (hn : node < 4096) :
    let p := f.val
    let sent (code : Nat) : State := ({ s with fab := { s.fab with seen := s.fab.seen ++ [noticeKey code node mgen 0 0] } } : State).flood
      { s.notice code node mgen 0 0 0 with src := node, srcMgen := mgen, hops := 1 } (some p)
    (s.fab.seen.contains (noticeKey 1 node mgen 0 0) = false → exec (.nodeDown f node mgen) s = .next ((sent 1).nodeDown node mgen)) ∧
    (s.fab.seen.contains (noticeKey 1 node mgen 0 0) = true → exec (.nodeDown f node mgen) s = .next s) ∧
    (s.fab.seen.contains (noticeKey 2 node mgen 0 0) = false → exec (.nodeUp f node mgen) s = .next ((sent 2).nodeUp node mgen)) ∧
    (s.fab.seen.contains (noticeKey 2 node mgen 0 0) = true → exec (.nodeUp f node mgen) s = .next s) := by
  intro p sent
  have hm : ∀ code, s.noticeBy f.val code (node % 4096) mgen 0 0 = s.noticeBy f.val code node mgen 0 0 := fun code => by
    rw [Nat.mod_eq_of_lt hn]
  have hdown := (hm 1).trans (State.noticeBy_eq ha (by decide) hn)
  have hup := (hm 2).trans (State.noticeBy_eq ha (by decide) hn)
  exact ⟨fun h => next_congr (hdown.trans (if_neg (ne_true_of_eq_false h))), fun h => next_congr (hdown.trans (if_pos h)),
    fun h => next_congr (hup.trans (if_neg (ne_true_of_eq_false h))), fun h => next_congr (hup.trans (if_pos h))⟩

theorem abandons (s : State) (f : FabId) (q : PeerId) (fjob : Nat) (fgen : Word16) (ha : (s.fport f.val).st = .active)
    (hq : (s.fport f.val).peer = some q) (hn : q.node < 4096) (hj : fjob < 65536) :
    (s.fab.seen.contains (noticeKey 3 q.node q.mgen fjob fgen) = true → exec (.abandon f fjob fgen) s = .next s) ∧
    (s.fab.seen.contains (noticeKey 3 q.node q.mgen fjob fgen) = false → exec (.abandon f fjob fgen) s = .next
      ((({ s with fab := { s.fab with seen := s.fab.seen ++ [noticeKey 3 q.node q.mgen fjob fgen] } } : State).flood
        { s.notice 3 q.node q.mgen fgen fjob 0 with src := q.node, srcMgen := q.mgen, hops := 1 } (some f.val)).takeAbandon fjob fgen)) := by
  have he : exec (.abandon f fjob fgen) s = .next (s.noticeBy f.val 3 q.node q.mgen fjob fgen) := by
    refine next_congr ?_
    rw [hq]
    dsimp only
    rw [Nat.mod_eq_of_lt hn, Nat.mod_eq_of_lt hj]
  have hb := State.noticeBy_eq (mgen := q.mgen) (fjob := fjob) (fgen := fgen) ha (show 3 < 256 by decide) hn
  exact ⟨fun h => he.trans (next_congr (hb.trans (if_pos h))),
    fun h => he.trans (next_congr (hb.trans (if_neg (ne_true_of_eq_false h))))⟩

/-! ## Frames that arrive -/

/-- What a frame of a type up to NOTICE does as it arrives. -/
theorem State.frameIn_eq {s : State} {p : Nat} {fr : Frame} (h0 : 0 < fr.typ) (hA : fr.typ < 0x0A) :
    s.frameIn p fr =
      let t := (s.updFport p (fun x => { x with rxBytes := x.rxBytes + BitVec.ofNat 64 (frBytes fr) })).updFport p (fun x =>
        x.updVc (vcNum fr) (fun v => { v with rcvd := v.rcvd + BitVec.ofNat 32 (frUnits fr) }))
      if 0x0C < fr.typ ∨ !fr.hcrcOk then t.dropFrame p fr
      else if 32 ≤ fr.hops then ((t.dropFrame p fr).fabCode p 0x078E).lostFrame fr
      else
        let u := t.updFport p (fun x => { x with inq := x.inq ++ [fr] })
        if u.transits fr then u.forward p fr else u := by
  unfold State.frameIn
  dsimp only
  rw [if_neg (show ¬fr.typ = 0 by omega), if_neg (show ¬(fr.typ = 0 ∨ fr.typ = 0x0C) by omega), if_neg (fun h => absurd h.1 (by omega)),
    if_neg (show ¬fr.typ = 0x0A by omega), if_neg (show ¬fr.typ = 0x0B by omega)]

theorem framesArrive (s : State) (f : FabId) (fr : Frame) (ha : (s.fport f.val).st = .active) (h0 : 0 < fr.typ) (hA : fr.typ < 0x0A) :
    let p := f.val
    let n := BitVec.ofNat 32 (frUnits fr)
    let t := (s.updFport p (fun x => { x with rxBytes := x.rxBytes + BitVec.ofNat 64 (frBytes fr) })).updFport p (fun x =>
      x.updVc (vcNum fr) (fun v => { v with rcvd := v.rcvd + n }))
    (fr.hcrcOk = false → exec (.frameReceive f fr) s = .next ((t.freeFrame p fr).updFport p (fun x => { x with drops := x.drops + 1 }))) ∧
    (fr.hcrcOk = true → 32 ≤ fr.hops → exec (.frameReceive f fr) s = .next
      ((((t.freeFrame p fr).updFport p (fun x => { x with drops := x.drops + 1 })).fabCode p 0x078E).lostFrame fr)) ∧
    (fr.hcrcOk = true → fr.hops < 32 → flooded fr = true ∨ fr.dst = s.fab.node →
      exec (.frameReceive f fr) s = .next (t.updFport p (fun x => { x with inq := x.inq ++ [fr] }))) ∧
    (fr.hcrcOk = true → fr.hops < 32 → flooded fr = false → fr.dst ≠ s.fab.node →
      exec (.frameReceive f fr) s = .next ((t.updFport p (fun x => { x with inq := x.inq ++ [fr] })).forward p fr)) := by
  intro p n t
  have he : exec (.frameReceive f fr) s = .next _ := next_congr ((if_pos ha).trans (State.frameIn_eq h0 hA))
  have hok : fr.hcrcOk = true → ¬(0x0C < fr.typ ∨ (!fr.hcrcOk) = true) := by
    rintro h (h1 | h1)
    · omega
    · exact ne_true_of_eq_false (congrArg not h) h1
  refine ⟨fun h => he.trans (next_congr (if_pos (.inr (congrArg not h)))),
    fun h hh => he.trans (next_congr ((if_neg (hok h)).trans (if_pos hh))), fun h hh hd => ?_, fun h hh hf hd => ?_⟩
  · refine he.trans (next_congr ((if_neg (hok h)).trans ((if_neg (Nat.not_le.2 hh)).trans (if_neg ?_))))
    refine ne_true_of_eq_false (congrArg not (Bool.or_eq_true_iff.2 (hd.imp_right fun h => ?_)))
    exact decide_eq_true h
  · refine he.trans (next_congr ((if_neg (hok h)).trans ((if_neg (Nat.not_le.2 hh)).trans (if_pos ?_))))
    exact congrArg not (Bool.or_eq_false_iff.2 ⟨hf, decide_eq_false hd⟩)

theorem State.forward_eq {s : State} {p : Nat} {fr : Frame} {q : Nat} {g : Frame} (hin : (s.fport p).inq.contains fr = true)
    (hfirst : ((s.fport p).inq.takeWhile (fun g => g != fr)).any (fun g => s.transits g && vcNum g == vcNum fr) = false)
    (hr : s.route (some p) { fr with hops := fr.hops + 1 } = some (q, g)) :
    s.forward p fr =
      let t := (s.updFport p (fun x => { x with inq := x.inq.erase fr })).freeFrame p fr
      let key := 16 * (p / 8) + vcNum g
      if q / 8 = p / 8 then t.portSend q g
      else if Map.get 0 (s.fport q).resv key + frUnits g ≤ 32 then
        (t.updFport q (fun y => { y with resv := Map.upd 0 key (fun n => n + frUnits g) y.resv, lent := y.lent ++ [(p / 8, g)] })).portSend q g
      else s := by
  unfold State.forward
  dsimp only
  rw [if_neg, hr]
  rw [hin, hfirst]
  decide

/-- A frame that ends here, with a payload whose PCRC is good. -/
theorem State.endFrame_eq {s : State} {p : Nat} {fr : Frame} (hp : fr.pcrcOk = true) (hf : flooded fr = false) :
    s.endFrame p fr =
      if (s.compOfJob fr.fjob).isNone && !fr.poison && fr.typ == 9 && bits fr.arg 63 56 == 6 && (s.joinBy fr.fjob).isSome then
        let d := fr.payload.headD 0
        s.earlyHello fr.fjob (bits d 415 400) (BitVec.ofNat 384 (bits d 383 0)) (bits d 399 384) fr.srcMgen
      else if s.frameStale fr then s.updFport p (fun x => { x with drops := x.drops + 1 })
      else match s.compOfJob fr.fjob with
        | none => s
        | some c => s.consume c fr := by
  unfold State.endFrame
  dsimp only
  rw [if_pos hp, hf]
  rfl

theorem framesEnd (s : State) (f : FabId) (fr : Frame) (hin : (s.fport f.val).inq.contains fr = true) (hd : fr.dst = s.fab.node)
    (hm : s.mayEnd f.val fr = true) (hp : fr.pcrcOk = true) (hf : flooded fr = false) :
    let p := f.val
    let t := (s.updFport p (fun x => { x with inq := x.inq.erase fr })).freeFrame p fr
    (t.frameStale fr = true → (t.compOfJob fr.fjob).isSome = true ∨ t.joinBy fr.fjob = none →
      exec (.frameEnd f fr) s = .next ((t.updFport p (fun x => { x with drops := x.drops + 1 })).auditSettle p (vcNum fr))) ∧
    (∀ d, t.compOfJob fr.fjob = none → (t.joinBy fr.fjob).isSome = true → fr.poison = false → fr.typ = 9 → bits fr.arg 63 56 = 6 →
      fr.payload = [d] → exec (.frameEnd f fr) s = .next
        ((t.earlyHello fr.fjob (bits d 415 400) (BitVec.ofNat 384 (bits d 383 0)) (bits d 399 384) fr.srcMgen).auditSettle p (vcNum fr))) ∧
    (∀ c, t.frameStale fr = false → t.compOfJob fr.fjob = some c → exec (.frameEnd f fr) s = .next
      ((t.consume c fr).auditSettle p (vcNum fr))) := by
  intro p t
  have hend : exec (.frameEnd f fr) s = .next ((t.endFrame p fr).auditSettle p (vcNum fr)) := by
    refine next_congr ((if_neg (ne_true_of_eq_false (congrArg not hin))).trans ((if_neg ?_).trans (if_pos hm)))
    exact ne_true_of_eq_false (congrArg not (Bool.or_eq_true_iff.2 (.inr (decide_eq_true hd))))
  have hset : ∀ u, t.endFrame p fr = u → exec (.frameEnd f fr) s = .next (u.auditSettle p (vcNum fr)) := by
    rintro u rfl
    exact hend
  have he := State.endFrame_eq (s := t) (p := p) hp hf
  refine ⟨fun hs hj => hset _ (he.trans ((if_neg ?_).trans (if_pos hs))), fun d hc hj hpo h9 h6 hd => hset _ (he.trans ((if_pos ?_).trans ?_)),
    fun c hs hc => hset _ (he.trans ((if_neg ?_).trans ((if_neg (ne_true_of_eq_false hs)).trans ?_)))⟩
  · simp only [Bool.and_eq_true, not_and]
    intro h1 h2
    rcases hj with hj | hj
    · obtain ⟨⟨⟨hn, -⟩, -⟩, -⟩ := h1
      rw [Option.isNone_iff_eq_none] at hn
      rw [hn] at hj
      exact absurd hj (by decide)
    · rw [hj] at h2
      exact absurd h2 (by decide)
  · rw [hc, hpo, h9, h6, hj]
    rfl
  · rw [hd]
    rfl
  · rw [hc]
    exact Bool.false_ne_true
  · rw [hc]

/-! ## Credits and audits of a VC -/

theorem vcCounts (s : State) (f : FabId) (vc : Fin 16) (ha : (s.fport f.val).st = .active) :
    let x := s.fport f.val
    let p := f.val
    ((x.vc vc.val).freed ≠ (x.vc vc.val).freedSent → exec (.creditFrameSend f vc) s = .next ((s.updFport p (fun x =>
      x.updVc vc.val (fun v => { v with freedSent := v.freed }))).transmit p (s.vcFrame 0x0A vc.val (x.vc vc.val).freed))) ∧
    (∀ n : Word32,
      let t := s.updFport p (fun x => x.updVc vc.val (fun v => { v with used := v.used - (n - v.retRcvd).toNat, retRcvd := n }))
      let v := x.vc vc.val
      ((n - v.retRcvd).toNat ≤ v.used → exec (.creditFrameReceive f vc n) s = .next (t.portDrain p (t.fport p).wait.length)) ∧
      (v.used < (n - v.retRcvd).toNat → exec (.creditFrameReceive f vc n) s = .next (s.fabStop p .fenced 0x0789))) ∧
    (∀ n : Word32,
      let t := s.transmit p (s.vcFrame 0x0B vc.val (x.vc vc.val).sent)
      (((t.fport p).vc vc.val).rcvd = n → exec (.auditFrame f vc n) s = .next (t.sendCredit p vc.val)) ∧
      (((t.fport p).vc vc.val).rcvd ≠ n → exec (.auditFrame f vc n) s = .next
        ((t.updFport p (fun x => x.updVc vc.val (fun v => { v with failed := some n }))).auditSettle p vc.val))) ∧
    (∀ n, (x.vc vc.val).failed = some n → x.inq.any (fun f => vcNum f == vc.val) = false →
      ((x.vc vc.val).rcvd = n → s.auditSettle p vc.val = s.updFport p (fun x => x.updVc vc.val (fun v => { v with failed := none }))) ∧
      ((x.vc vc.val).rcvd ≠ n → s.auditSettle p vc.val = s.fabStop p .fenced 0x0789)) := by
  intro x p
  refine ⟨fun h => next_congr ((if_pos ⟨ha, h⟩).trans ?_), fun n => ?_, fun n => ?_, fun n hf hq => ?_⟩
  · exact congrArg (fun u : State => u.transmit p (s.vcFrame 0x0A vc.val (x.vc vc.val).freed)) (State.updFport_congr s p rfl)
  · exact ⟨fun h => next_congr ((if_pos ha).trans (if_neg (Nat.not_lt.2 h))), fun h => next_congr ((if_pos ha).trans (if_pos h))⟩
  · exact ⟨fun h => next_congr ((if_pos ha).trans (if_pos h)), fun h => next_congr ((if_pos ha).trans (if_neg h))⟩
  · have he : s.auditSettle p vc.val = if (x.vc vc.val).rcvd = n then
        s.updFport p (fun x => x.updVc vc.val (fun v => { v with failed := none })) else s.fabStop p .fenced 0x0789 := by
      unfold State.auditSettle
      dsimp only
      rw [show ((s.fport p).vc vc.val).failed = some n from hf]
      exact if_neg (ne_true_of_eq_false hq)
    exact ⟨fun h => he.trans (if_pos h), fun h => he.trans (if_neg h)⟩

/-- Settles O41: a frame goes the way its header gives, a notice goes on once, and counts are checked against what is out. -/
theorem fabricFramesAndNotices : Obligations.FabricFramesAndNotices := by
  unfold Obligations.FabricFramesAndNotices
  intro s f x p
  refine ⟨framesArrive s f, ?_, ?_, ?_, framesEnd s f, vcCounts s f, fun node mgen => nodeNotices s f node mgen, abandons s f, ?_⟩
  · intro fr q g hin hfirst hr t key
    have he := State.forward_eq hin hfirst hr
    exact ⟨fun h => he.trans (if_pos h), fun h hv => he.trans ((if_neg h).trans (if_pos hv)),
      fun h hv => he.trans ((if_neg h).trans (if_neg (Nat.not_le.2 hv)))⟩
  · exact fun fr hin ht => next_congr ((if_neg (ne_true_of_eq_false (congrArg not hin))).trans (if_pos ht))
  · exact fun fr hin ht hm => next_congr ((if_neg (ne_true_of_eq_false (congrArg not hin))).trans ((if_neg (ne_true_of_eq_false ht)).trans
      (if_neg (ne_true_of_eq_false hm))))
  · intro node way hr t
    exact ⟨fun h => next_congr ((if_neg (ne_true_of_eq_false hr)).trans (if_pos h)),
      fun h => next_congr ((if_neg (ne_true_of_eq_false hr)).trans (if_neg (ne_true_of_eq_false h)))⟩

end Sys2Proof.Machine
end

section
/-! SUPPORT. Fabric jobs form, combine, agree and meet at barriers (R278 to R286, R289). -/
namespace Sys2Proof.Machine

/-! ## Requests -/

/-- Reading a request's buffer counts bytes at a host port and nothing else. -/
theorem State.countBuf_eq (s : State) (r : Request) : ∃ ps, s.countBuf r = { s with host := { s.host with ports := ps } } := by
  unfold State.countBuf
  split
  · exact ⟨_, rfl⟩
  · exact ⟨_, rfl⟩

/-- FAB_JOIN of a staged culture with a binding of ranks. -/
theorem State.runFabJoin_eq {s : State} {r : Request} {k : Culture} {b : Machine.Frm}
    (hk : s.staged.find? (fun k => k.handle == r.p0.toNat) = some k) (hb : k.frames.find? (fun f => f.typ == 0x0A) = some b) :
    s.runFabJoin r =
      let ranks := fle b.body 0 2
      let nodes := rankTable (s.reqBuf r) ranks
      if r.p1.toNat = 0 ∨ 65535 < r.p1.toNat ∨ ranks ≤ r.p2.toNat ∨ nodes.eraseDups.length ≠ ranks ∨ nth 4096 nodes r.p2.toNat ≠ s.fab.node ∨
          (s.jobs.any (fun c => (s.job c).fjob == r.p1.toNat) || s.fab.joins.any (fun e => e.2.fjob == r.p1.toNat && e.1 != r.p0.toNat)) then
        (s.countBuf r).answer r 0x078D []
      else
        let j : Job := { st := .joined, fjob := r.p1.toNat, rank := r.p2.toNat, ranks := ranks, nodes := nodes, handle := r.p0.toNat }
        (({ s.countBuf r with fab := { s.fab with joins := Map.set {} r.p0.toNat j s.fab.joins } } : State).journal
          (.fjob 256 r.p1.toNat r.p2.toNat ranks nodes)).answer r 0 [] := by
  obtain ⟨ps, hps⟩ := State.countBuf_eq s r
  unfold State.runFabJoin
  dsimp only
  rw [hk]
  dsimp only
  rw [hb, hps]
  rfl

theorem fabJoins (s : State) (r : Request) (k : Culture) (b : Machine.Frm) :
    let nodes := rankTable (s.reqBuf r) (fle b.body 0 2)
    let j : Job := { st := .joined, fjob := r.p1.toNat, rank := r.p2.toNat, ranks := fle b.body 0 2, nodes := nodes, handle := r.p0.toNat }
    s.staged.find? (fun k => k.handle == r.p0.toNat) = some k → k.frames.find? (fun f => f.typ == 0x0A) = some b →
    0 < r.p1.toNat → r.p1.toNat < 65536 → r.p2.toNat < fle b.body 0 2 → nodes.eraseDups.length = fle b.body 0 2 →
    nth 4096 nodes r.p2.toNat = s.fab.node → s.jobs.any (fun c => (s.job c).fjob == r.p1.toNat) = false →
    s.fab.joins.any (fun e => e.2.fjob == r.p1.toNat && e.1 != r.p0.toNat) = false →
    exec (.fabJoin r) s = .next ((({ s.countBuf r with fab := { s.fab with joins := Map.set {} r.p0.toNat j s.fab.joins } } : State).journal
      (.fjob 256 j.fjob j.rank j.ranks nodes)).answer r 0 []) := by
  intro nodes j hk hb h0 h1 hr hn hnode hj hjoin
  refine next_congr ((State.runFabJoin_eq hk hb).trans (if_neg ?_))
  rw [hj, hjoin]
  rintro (h | h | h | h | h | h)
  exacts [by omega, by omega, by omega, h hn, h hnode, absurd h (by decide)]

theorem fabFctxs (s : State) (r : Request) (hst : (s.ctx r.xid).st ≠ .free) (hc : (s.ctx r.xid).client = r.client) (hp : r.p0.toNat ≤ 4095)
    (hf : (s.ctxsOf (s.ctx r.xid).cid).any (fun x => decide ((s.ctx x).fctx = r.p0.toNat + 1)) = false) :
    exec (.fabFctx r) s = .next (((s.updCtx r.xid (fun c => { c with fctx := r.p0.toNat + 1 })).journalCtx r.xid).answer r 0 []) := by
  refine next_congr ((if_neg (not_or.2 ⟨hst, not_not.2 hc⟩)).trans (if_neg ?_))
  exact not_or.2 ⟨Nat.not_lt.2 hp, ne_true_of_eq_false hf⟩

/-! ## Forming -/

theorem State.endJob_ends {s : State} {c : Nat} (h : (s.job c).st = .forming) :
    s.endJob c = (s.updJob c (fun _ => {})).journal (.fjobEnd c) := if_neg (by rw [h]; decide)

/-- A formation that fails outside a bind ends the job. -/
theorem State.formFail_ends {s : State} {c : Nat} (h : (s.job c).st = .forming) (ho : ∀ o, (s.comp c).op = some o → o.kind ≠ .bind) :
    s.formFail c = ((s.updJob c (fun _ => {})).journal (.fjobEnd c)).emit (.operator 0x061A c) := by
  refine (if_neg (not_not.2 h)).trans ?_
  rw [← State.endJob_ends h]
  cases hop : (s.comp c).op with
  | none => rfl
  | some o => exact if_neg (ho o hop)

/-! ## Collectives -/

section
variable {s : State} {c g step off : Nat} {w : CWin} {ws : List CWin}

/-- The units of a window of a churn whose inputs are all there. -/
theorem State.combine_churn (hf : (s.job c).st = .formed) (hch : (findFrm (s.comp c).frames 7 g).isSome = true)
    (hw : (s.job c).windows.filter (fun w => w.group == g && w.step == step && w.offset == off) = w :: ws)
    (hall : ((s.job c).rank :: s.fab.children (s.job c) (s.job c).rank).all (fun r => (w :: ws).any (fun v => v.input == r)) = true) :
    s.combine c g step off =
      if ws.any (fun v => v.last != w.last) then
        let x := match s.rootEntry c g with | none => 0 | some (u, _) => (s.unit u).xid
        (s.churnBreak c g x).sendAbandon c
      else
        let t := s.updJob c (fun j => { j with windows := j.windows.filter (fun v => !(v.group == g && v.step == step && v.offset == off)) })
        let d := churnOp (fle (frmBody (s.comp c).frames 7 g) 2 1) ((w :: ws).map (fun v => v.data))
        let poison := (w :: ws).any (fun v => v.poison)
        if (s.job c).rank = 0 then t.pourDown c g step off d w.last poison false
        else t.toParent c (t.collFrame c 6 g step off d w.last poison) := by
  unfold State.combine
  dsimp only
  rw [hch, hw]
  exact if_pos ⟨hf, hall⟩

/-- The one unit of a window of a pour. -/
theorem State.combine_pour (hf : (s.job c).st = .formed) (hch : (findFrm (s.comp c).frames 7 g).isSome = false)
    (hw : (s.job c).windows.filter (fun w => w.group == g && w.step == step && w.offset == off) = [w]) (hin : w.input = (s.job c).rank) :
    s.combine c g step off =
      let t := s.updJob c (fun j => { j with windows := j.windows.filter (fun v => !(v.group == g && v.step == step && v.offset == off)) })
      if (s.job c).rank = 0 then t.pourDown c g step off w.data w.last w.poison true
      else t.toParent c (t.collFrame c 6 g step off w.data w.last w.poison) := by
  have hall : ([(s.job c).rank] : List Nat).all (fun r => [w].any (fun v => v.input == r)) = true := by simp [hin]
  have hp : [w].any (fun v => v.poison) = w.poison := Bool.or_false _
  unfold State.combine
  dsimp only
  rw [hch, hw]
  refine (if_pos ⟨hf, hall⟩).trans ?_
  rw [hp]
  rfl

end

theorem jobEvents (s : State) (c : CidT) :
    let j := s.job c.val
    (∀ (rank : Nat) (mgen : Word16), j.st = .forming → rank < j.ranks → s.roleHalted 6 = false →
      let t := s.updJob c.val (fun j => { j with hello := if j.hello.contains rank then j.hello else j.hello ++ [rank],
                                                 mgens := Map.set 0 (nth 0 j.nodes rank) mgen j.mgens })
      ((t.job c.val).allHere = false → exec (.hello c rank (s.helloDigest c.val) j.ranks mgen) s = .next t) ∧
      ((t.job c.val).allHere = true → exec (.hello c rank (s.helloDigest c.val) j.ranks mgen) s = .next (t.jobFormed c.val))) ∧
    (j.st = .forming → (∀ o, (s.comp c.val).op = some o → o.kind ≠ .bind) → exec (.formationTimeout c) s = .next
      (((s.updJob c.val (fun _ => {})).journal (.fjobEnd c.val)).emit (.operator 0x061A c.val))) ∧
    (∀ o, j.st = .forming → (s.comp c.val).op = some o → o.kind = .bind → exec (.formationTimeout c) s = .next
      (s.rollback c.val 0x061A 0x061A)) := by
  intro j
  refine ⟨?_, fun hf ho => next_congr (State.formFail_ends hf ho), fun o hf ho hk => next_congr ?_⟩
  · intro rank mgen hf hr hh t
    have he : exec (.hello c rank (s.helloDigest c.val) j.ranks mgen) s = .next (if (t.job c.val).allHere then t.jobFormed c.val else t) := by
      refine next_congr ((if_neg (ne_true_of_eq_false hh)).trans ((if_pos ?_).trans (if_pos ⟨hf, hr, rfl, rfl⟩)))
      rw [show (s.job c.val).st = .forming from hf]
      decide
    exact ⟨fun h => he.trans (next_congr (if_neg (ne_true_of_eq_false h))), fun h => he.trans (next_congr (if_pos h))⟩
  · refine (if_neg (not_not.2 hf)).trans ?_
    rw [ho]
    exact if_pos hk

/-- Settles O42: each request and each event of a job is the case of the model its state, its ranks and its windows name. -/
theorem fabricJobs : Obligations.FabricJobs := by
  unfold Obligations.FabricJobs
  refine ⟨fun s r hk => next_congr ?_, fabJoins, fun s r h => next_congr (if_pos h), fabFctxs, fun s c => ?_⟩
  · unfold State.runFabJoin
    dsimp only
    rw [hk]
  intro j
  obtain ⟨hhello, htimeout, hback⟩ := jobEvents s c
  refine ⟨hhello, htimeout, hback, fun rank mhz hf hc => next_congr (if_pos ⟨hf, hc⟩), fun mhz step hf hr => next_congr ?_,
    fun hf => next_congr ?_, ?_, ?_, ?_, ?_⟩
  · exact (if_pos hr).trans (if_neg (not_not.2 hf))
  · exact if_neg (not_not.2 hf)
  · intro g step off w ws hf hch hw hall hlast t d poison
    have he := (State.combine_churn hf hch hw hall).trans (if_neg (ne_true_of_eq_false hlast))
    exact ⟨fun h => next_congr (he.trans (if_pos h)), fun h => next_congr (he.trans (if_neg (Nat.ne_of_gt h)))⟩
  · intro g step off w hf hch hw hin t
    have he := State.combine_pour hf hch hw hin
    exact ⟨fun h => next_congr (he.trans (if_pos h)), fun h => next_congr (he.trans (if_neg (Nat.ne_of_gt h)))⟩
  · intro g step off w ws u e hf hch hw hall hlast hroot
    refine next_congr ((State.combine_churn hf hch hw hall).trans ((if_pos hlast).trans ?_))
    rw [hroot]
  · intro b rank hf
    have hgo : ¬((s.job c.val).st ≠ .formed ∨ (s.job c.val).fgen ≠ j.fgen) := not_or.2 ⟨not_not.2 hf, not_not.2 rfl⟩
    exact ⟨fun h => next_congr ((if_neg hgo).trans ((if_pos rfl).trans (if_pos h))),
      fun h hr => next_congr ((if_neg hgo).trans ((if_neg Bool.false_ne_true).trans (if_pos ⟨h, hr⟩)))⟩

end Sys2Proof.Machine
end

section
/-! SUPPORT. Watched lines, rings, interrupts and events of a host port (R297 to R310). -/
namespace Sys2Proof.Machine

/-! ## Watched lines -/

theorem State.lineOwned_of {s : State} {k line : Nat} (hv : (s.fn k).valid = true) (hl : line < 2 ^ 24) (hu : s.hostUp (k / 256) = true)
    (hg : (s.fn k).granted.contains line = false) :
    s.lineOwned k line = (s.updFn k (fun x => { x with granted := x.granted ++ [line] })).emit (.bisnp (k / 256) (k % 256) line) := by
  refine (if_pos ⟨hv, hl, hu⟩).trans (congrArg (fun t : State => t.emit (.bisnp (k / 256) (k % 256) line)) (State.updFn_congr s k ?_))
  exact congrArg (fun g => { s.fn k with granted := g }) (if_neg (ne_true_of_eq_false hg))

/-- The state in which a granted line has come back to the module. -/
def State.lineBack (s : State) (k line : Nat) : State :=
  (s.updFn k (fun x => { x with granted := x.granted.erase line })).hostRx (k / 256) 64

/-- The state in which a line is noticed. -/
def State.lineNoticed (s : State) (k line : Nat) : State :=
  s.updFn k (fun x => { x with notices := if x.notices.contains line then x.notices else x.notices ++ [line] })

theorem State.lineNotice_of {s : State} {k line : Nat} (d : BitVec 512) (hv : (s.fn k).valid = true)
    (hg : (s.fn k).granted.contains line = true) (hu : s.hostUp (k / 256) = true) :
    s.lineNotice k line d =
      if ((s.lineBack k line).comp ((s.lineBack k line).fn k).cid).copiesRegion then
        (s.lineBack k line).updFn k (fun x => { x with late := x.late ++ [(line, d)] })
      else (s.lineBack k line).takeLine k line d := if_pos ⟨hv, hg, hu⟩

/-- The line of bytes that nothing backs is noticed only. -/
theorem State.takeLine_unbacked {g : State} {k line : Nat} (d : BitVec 512) (h : (g.lineNoticed k line).regionBacked k (64 * line) = false) :
    g.takeLine k line d = g.lineNoticed k line := if_pos (congrArg not h)

/-- The line of backed bytes is stored; then the lease line and the ring control lines take effect. -/
theorem State.takeLine_backed {g : State} {k line : Nat} (d : BitVec 512) (h : (g.lineNoticed k line).regionBacked k (64 * line) = true) :
    g.takeLine k line d =
      (let u := (g.lineNoticed k line).updFn k (fun x => { x with region := x.region.wrL (64 * line) (lineBytes d) })
       if 64 * line = 0 then
         let s := u.updFn k (fun x => { x with notices := x.notices.erase 0 })
         if bit d 64 then (s.updFn k (fun x => { x with seq := d.extractLsb' 0 64 })).lapse k else s.renew k (d.extractLsb' 0 64) (bit d 65)
       else if 0x1000 ≤ 64 * line ∧ 64 * line < 0x100000 then
         (u.updFn k (fun x => { x with notices := x.notices.erase line })).cqHeadWrite k ((64 * line - 0x1000) / 64) (bits d 31 0)
       else u) := if_neg (ne_true_of_eq_false (congrArg not h))

/-- The lease line is always backed. -/
theorem State.regionBacked_zero (s : State) (k : Nat) : s.regionBacked k (64 * 0) = true := rfl

/-- A backed line above the lease line and below the submission slots is a ring control line. -/
theorem State.regionBacked_control {s : State} {k o : Nat} (h : s.regionBacked k o = true) (h0 : 64 ≤ o) (h1 : o < 0x100000) : 0x1000 ≤ o := by
  simp only [State.regionBacked, Bool.or_eq_true, Bool.and_eq_true, decide_eq_true_eq] at h
  omega

theorem watchedLines : Clauses.WatchedLines := by
  intro s h f line hv
  dsimp only
  refine ⟨fun hl hu hg => next_congr (State.lineOwned_of hv hl hu hg), fun d hg hu hc => ?_, fun d hg hu hc => ?_⟩
  · exact next_congr ((State.lineNotice_of d hv hg hu).trans (if_pos hc))
  · have hT : ∀ {t}, (s.lineBack (clientOf h.val f.val) line).takeLine (clientOf h.val f.val) line d = t →
        exec (.watchedLineNotice h f line d) s = .next t := fun ht =>
      next_congr (((State.lineNotice_of d hv hg hu).trans (if_neg (ne_true_of_eq_false hc))).trans ht)
    refine ⟨fun hb => hT (State.takeLine_unbacked d hb), fun hb hl => hT ?_, fun hb hp hl => hT ?_, fun h0 ht => ?_, fun h0 ht => ?_⟩
    · exact (State.takeLine_backed d hb).trans ((if_neg (by omega)).trans (if_neg (by omega)))
    · have h0 := State.regionBacked_control hb (by omega) hl
      exact (State.takeLine_backed d hb).trans ((if_neg (by omega)).trans (if_pos ⟨h0, hl⟩))
    · subst h0
      exact hT ((State.takeLine_backed d (State.regionBacked_zero _ _)).trans ((if_pos rfl).trans (if_pos ht)))
    · subst h0
      exact hT ((State.takeLine_backed d (State.regionBacked_zero _ _)).trans ((if_pos rfl).trans (if_neg (ne_true_of_eq_false ht))))

/-! ## Rings -/

/-- A ring after its own update, where the function's rings are well formed. -/
theorem State.ring_updRing_self {s : State} (h : s.canon = true) {k : Nat} (hw : Map.wf {} (s.fn k).rings = true) (r : Nat) (f : Ring → Ring) :
    (s.updRing k r f).ring k r = f (s.ring k r) := by
  have hf := State.fn_updFn_self h k (fun x => { x with rings := Map.upd {} r f x.rings })
  exact (congrArg (fun x : Fn => Map.get {} x.rings r) hf).trans (Map.get_upd_self ({} : Ring) r f _ hw)

theorem State.updRing_canon {s : State} (h : s.canon = true) (k r : Nat) (f : Ring → Ring) : (s.updRing k r f).canon = true :=
  (Evolves.updRing (.refl s)).canonOf ((canon_iff s).1 h)

theorem State.updRing_wf {s : State} (h : s.canon = true) {k : Nat} (hw : Map.wf {} (s.fn k).rings = true) (r : Nat) (f : Ring → Ring) :
    Map.wf {} ((s.updRing k r f).fn k).rings = true := by
  have hf := State.fn_updFn_self h k (fun x => { x with rings := Map.upd {} r f x.rings })
  exact (congrArg (fun x : Fn => Map.wf {} x.rings) hf).trans (Map.upd_wf _ r f _ hw)

/-- An enabled ring after RING_DISABLE: OFF where no slot is reserved, and otherwise with the disable pending. -/
theorem State.ring_ringDisable {s : State} (h : s.canon = true) {k r : Nat} (hw : Map.wf {} (s.fn k).rings = true)
    (he : (s.ring k r).enable = true) :
    (s.ringDisable k r).ring k r =
      if (s.ring k r).reserved = 0 then
        { Ring.settled { s.ring k r with enable := false, disPend := true } with on := false, disPend := false }
      else { s.ring k r with enable := false, disPend := true } := by
  have h1 := State.ring_updRing_self h hw r (fun g => if g.enable then { g with enable := false, disPend := true } else g)
  refine (State.ring_updRing_self (State.updRing_canon h k r _) (State.updRing_wf h hw r _) r _).trans ?_
  rw [h1, if_pos he]
  by_cases hr : (s.ring k r).reserved = 0
  · rw [if_pos hr]
    exact if_pos ⟨rfl, hr⟩
  · rw [if_neg hr]
    exact if_neg (fun h => hr h.2)

@[simp] theorem Ring.settled_enable (g : Ring) : g.settled.enable = g.enable := by
  unfold Ring.settled
  split <;> rfl

theorem ringEnables (s : State) (h : HPort) (f : Func) (r : Fin 256) (v : Word64) :
    let k := clientOf h.val f.val
    (s.fn k).valid = true → r.val < (s.comp (s.fn k).cid).rings → (s.ring k r.val).enable = false →
    (s.ringCfgOk k r.val v = true → exec (.ringEnable h f r v) s = .next ((s.updRing k r.val (fun g =>
      { g.settled.configured v.toNat with enable := true, on := true, disPend := false })).flushEvents k)) ∧
    (s.ringCfgOk k r.val v = false → exec (.ringEnable h f r v) s = .next
      ((s.updRing k r.val (fun g => { g.store v.toNat with lastCode := 0x0703 })).hostCode (k / 256) 0x0703)) := by
  intro k hv hr he
  have hok : ¬((!(s.fn k).valid) = true ∨ (s.comp (s.fn k).cid).rings ≤ r.val) :=
    not_or.2 ⟨ne_true_of_eq_false (congrArg not hv), Nat.not_le.2 hr⟩
  have hT : ∀ {t}, _ = t → exec (.ringEnable h f r v) s = .next t := fun ht =>
    next_congr ((if_neg hok).trans ((if_neg (ne_true_of_eq_false he)).trans ht))
  exact ⟨fun hc => hT (if_pos hc), fun hc => hT (if_neg (ne_true_of_eq_false hc))⟩

theorem ringDisables (s : State) (h : HPort) (f : Func) (r : Fin 256) :
    let k := clientOf h.val f.val
    let g := s.ring k r.val
    s.canon = true → Map.wf {} (s.fn k).rings = true → g.enable = true → (g.reserved = 0 → ∃ t, exec (.ringDisable h f r) s = .next t ∧
      (t.ring k r.val).enable = false ∧ (t.ring k r.val).on = false ∧ (t.ring k r.val).disPend = false) ∧
    (0 < g.reserved → ∃ t, exec (.ringDisable h f r) s = .next t ∧
      (t.ring k r.val).enable = false ∧ (t.ring k r.val).on = g.on ∧ (t.ring k r.val).disPend = true) := by
  intro k g hc hw he
  have hd := State.ring_ringDisable hc hw he
  refine ⟨fun hr => ⟨s.ringDisable k r.val, rfl, ?_⟩, fun hr => ⟨s.ringDisable k r.val, rfl, ?_⟩⟩
  · rw [hd, if_pos hr]
    exact ⟨Ring.settled_enable _, rfl, rfl⟩
  · rw [hd, if_neg (Nat.pos_iff_ne_zero.1 hr)]
    exact ⟨rfl, rfl, rfl⟩

/-! ## Records and events -/

theorem cqRetries (s : State) (h : HPort) (f : Func) (r : Fin 256) :
    let k := clientOf h.val f.val
    let g := s.ring k r.val
    (s.hostUp (k / 256) = true → exec (.cqWriteRetry h f r true) s = .next
      (((s.updRing k r.val (fun g => { g with retry := [], stuck := false })).each g.retry (fun s e =>
        s.cqVisible k r.val e.1 e.2)).signal k r.val)) ∧
    (s.hostUp (k / 256) = false → exec (.cqWriteRetry h f r true) s = .next s) ∧
    (g.retry = [] → exec (.cqWriteRetry h f r false) s = .next (s.updRing k r.val (fun g => { g with stuck := true }))) ∧
    (g.retry ≠ [] → exec (.cqWriteRetry h f r false) s = .next
      (((s.updHport (k / 256) (fun p => { p with cqTimeout := min 0xFFFF (p.cqTimeout + 1) })).updRing k r.val (fun g =>
        { g with lastCode := 0x0704 })).hostCode (k / 256) 0x0704)) := by
  intro k g
  refine ⟨fun hu => ?_, fun hu => ?_, fun hr => ?_, fun hr => ?_⟩
  · exact next_congr (if_pos hu)
  · exact next_congr (if_neg (ne_true_of_eq_false hu))
  · exact next_congr (if_pos (List.isEmpty_iff.2 hr))
  · exact next_congr (if_neg (mt List.isEmpty_iff.1 hr))

theorem State.cqWrite_eq (s : State) (k r : Nat) (rec_ : BitVec 512) :
    let g := s.ring k r
    let slot := g.cqTail % g.size
    let t := s.updRing k r (fun g => { g with cqTail := add32 g.cqTail 1 })
    (g.stuck = true ∨ g.retry ≠ [] ∨ t.hostUp (k / 256) = false → s.cqWrite k r rec_ = t.updRing k r (fun g =>
      { g with retry := g.retry ++ [(slot, rec_)] })) ∧
    (g.stuck = false → g.retry = [] → t.hostUp (k / 256) = true → s.cqWrite k r rec_ = (t.cqVisible k r slot rec_).signal k r) := by
  intro g slot t
  refine ⟨fun h => if_pos ?_, fun h1 h2 h3 => if_neg ?_⟩
  · rw [Bool.or_eq_true, Bool.or_eq_true, Bool.not_eq_true', Bool.not_eq_true', List.isEmpty_eq_false_iff]
    exact or_assoc.2 h
  · rw [show (s.ring k r).stuck = false from h1, show (s.ring k r).retry = [] from h2, show State.hostUp _ (k / 256) = true from h3]
    decide

theorem State.hostTimeout_of {s : State} {h u : Nat} {w : ExtWait} (hw : (s.unit u).ext = some w) (h1 : w.peer = false) (h2 : w.far = false)
    (h3 : w.port = h) :
    s.hostTimeout h u =
      (let t := s.updHport h (fun p => { p with hostTimeout := min 0xFFFF (p.hostTimeout + 1) })
       let wr := match t.heldRow u with | none => false | some d => d.1.op == 1
       ((t.extEnd u (if wr then none else some [])).poisonWork u).hostCode h 0x0705) := by
  unfold State.hostTimeout
  rw [hw]
  refine if_neg ?_
  rw [h1, h2]
  exact fun h => h.elim Bool.false_ne_true (fun h => h.elim Bool.false_ne_true (fun h => h h3))

theorem hostTimeouts (s : State) (h : HPort) (u : UnitId) (w : ExtWait) (hw : (s.unit u.val).ext = some w) (h1 : w.peer = false)
    (h2 : w.far = false) (h3 : w.port = h.val) :
    let t := s.updHport h.val (fun p => { p with hostTimeout := min 0xFFFF (p.hostTimeout + 1) })
    (∀ d, t.heldRow u.val = some d → d.1.op = 1 → exec (.hostTransferTimeout h u) s = .next
      (((t.extEnd u.val none).poisonWork u.val).hostCode h.val 0x0705)) ∧
    (∀ d, t.heldRow u.val = some d → d.1.op ≠ 1 → exec (.hostTransferTimeout h u) s = .next
      (((t.extEnd u.val (some [])).poisonWork u.val).hostCode h.val 0x0705)) := by
  intro t
  have hT := State.hostTimeout_of hw h1 h2 h3
  refine ⟨fun d hd ho => next_congr (hT.trans ?_), fun d hd ho => next_congr (hT.trans ?_)⟩
  · dsimp only
    rw [show (s.updHport h.val (fun p => { p with hostTimeout := min 0xFFFF (p.hostTimeout + 1) })).heldRow u.val = some d from hd]
    dsimp only
    rw [if_pos (beq_iff_eq.2 ho)]
  · dsimp only
    rw [show (s.updHport h.val (fun p => { p with hostTimeout := min 0xFFFF (p.hostTimeout + 1) })).heldRow u.val = some d from hd]
    dsimp only
    rw [if_neg (mt beq_iff_eq.1 ho)]

theorem ringsAndInterrupts : Clauses.RingsAndInterrupts := by
  intro s h f r
  dsimp only
  obtain ⟨hup, hdown, hnone, hsome⟩ := cqRetries s h f r
  refine ⟨fun v hv hr he => ringEnables s h f r v hv hr he, fun hc hw he => ringDisables s h f r hc hw he,
    fun hu => next_congr (if_pos hu), fun hu => next_congr (if_neg (by omega)), fun e he => next_congr ?_, hup, hdown, hnone,
    fun rec_ => State.cqWrite_eq s _ _ rec_, fun _ _ => rfl, hsome, fun u w hw h1 h2 h3 => hostTimeouts s h u w hw h1 h2 h3⟩
  unfold State.flushEvent
  rw [he]

/-- Settles O43: each event of a host port unfolds to its one branch; a ring's record after an update is read back from a function whose rings
are well formed. -/
theorem hostRings : Obligations.HostRings := ⟨watchedLines, ringsAndInterrupts⟩

end Sys2Proof.Machine
end

section
/-! SUPPORT. What a step outside the assignment, the lease and the controls of a function leaves of it. -/
namespace Sys2Proof.Machine

set_option Elab.async false

/-- A function without its traffic: rings, records, notices and log. -/
def Fn.standing (x : Fn) : Fn :=
  { x with region := [], journal := [], rings := [], granted := [], notices := [], events := [], late := [], ctlOut := 0, logTail := 0, ovf := false }

/-- From `s`, whose functions are a well formed table, to `t` no function has changed in what `π` reads of it. -/
structure FnKept {β : Type} (π : Fn → β) (s t : State) : Prop where
  wf : Map.wf {} t.host.fns = true
  keeps : ∀ k, π (t.fn k) = π (s.fn k)

section
variable {β : Type} {π : Fn → β}

theorem FnKept.refl {s : State} (h : s.canon = true) : FnKept π s s := ⟨State.host_fns_wf h, fun _ => rfl⟩

theorem FnKept.trans {r s t : State} (h : FnKept π r s) (g : FnKept π s t) : FnKept π r t := ⟨g.wf, fun k => (g.keeps k).trans (h.keeps k)⟩

variable {s t : State}

/-- An update of one function that `π` does not see. -/
theorem FnKept.updFn {c f} (h : FnKept π s t) (hf : ∀ x : Fn, π (f x) = π x := by exact fun _ => rfl) : FnKept π s (t.updFn c f) := by
  refine ⟨Map.upd_wf _ c f _ h.wf, fun k => ?_⟩
  by_cases hk : k = c
  · subst hk
    exact (congrArg π (Map.get_upd_self ({} : Fn) k f _ h.wf)).trans ((hf _).trans (h.keeps k))
  · exact (congrArg π (State.fn_updFn_ne t c k f hk)).trans (h.keeps k)

/-- A step that leaves every function. -/
theorem FnKept.of {u : State} (h : FnKept π s t) (hu : u.host.fns = t.host.fns := by rfl) : FnKept π s u :=
  ⟨hu ▸ h.wf, fun k => (congrArg (fun m => π (Map.get ({} : Fn) m k)) hu).trans (h.keeps k)⟩

theorem FnKept.ite {c : Prop} [Decidable c] {a b : State} (ha : FnKept π s a) (hb : FnKept π s b) : FnKept π s (if c then a else b) := by
  split
  · exact ha
  · exact hb

theorem FnKept.each {α : Type} {l : List α} {f : State → α → State} (h : FnKept π s t) (hf : ∀ u a, FnKept π s u → FnKept π s (f u a)) :
    FnKept π s (t.each l f) := by
  unfold State.each
  induction l generalizing t with
  | nil => exact h
  | cons a l ih => exact ih (hf t a h)

theorem FnKept.journal {r} (h : FnKept π s t) : FnKept π s (t.journal r) := by
  obtain ⟨j, hj⟩ := State.journal_eq t r
  rw [hj]
  exact h.of

end

/-- No function has changed but in its traffic. -/
abbrev Standing (s t : State) : Prop := FnKept Fn.standing s t

theorem Standing.refl {s : State} (h : s.canon = true) : Standing s s := FnKept.refl h

section
variable {s t : State}

theorem Standing.updFn {c f} (h : Standing s t) (hf : ∀ x : Fn, (f x).standing = x.standing := by exact fun _ => rfl) :
    Standing s (t.updFn c f) := FnKept.updFn h hf
theorem Standing.of {u : State} (h : Standing s t) (hu : u.host.fns = t.host.fns := by rfl) : Standing s u := FnKept.of h hu
theorem Standing.ite {c : Prop} [Decidable c] {a b : State} (ha : Standing s a) (hb : Standing s b) : Standing s (if c then a else b) :=
  FnKept.ite ha hb
theorem Standing.each {α : Type} {l : List α} {f : State → α → State} (h : Standing s t) (hf : ∀ u a, Standing s u → Standing s (f u a)) :
    Standing s (t.each l f) := FnKept.each h hf
theorem Standing.journal {r} (h : Standing s t) : Standing s (t.journal r) := FnKept.journal h

/-! ## Tables -/

theorem Standing.emit {o} (h : Standing s t) : Standing s (t.emit o) := h.of
theorem Standing.updUnit {n f} (h : Standing s t) : Standing s (t.updUnit n f) := h.of
theorem Standing.updEng {n f} (h : Standing s t) : Standing s (t.updEng n f) := h.of
theorem Standing.updVt {n f} (h : Standing s t) : Standing s (t.updVt n f) := h.of
theorem Standing.updSt {n f} (h : Standing s t) : Standing s (t.updSt n f) := h.of
theorem Standing.updChan {n f} (h : Standing s t) : Standing s (t.updChan n f) := h.of
theorem Standing.updComp {n f} (h : Standing s t) : Standing s (t.updComp n f) := h.of
theorem Standing.updCtx {n f} (h : Standing s t) : Standing s (t.updCtx n f) := h.of
theorem Standing.updSlot {x i f} (h : Standing s t) : Standing s (t.updSlot x i f) := h.of
theorem Standing.updStage {c g f} (h : Standing s t) : Standing s (t.updStage c g f) := h.of
theorem Standing.updHport {n f} (h : Standing s t) : Standing s (t.updHport n f) := h.of
theorem Standing.updHmem {n f} (h : Standing s t) : Standing s (t.updHmem n f) := h.of
theorem Standing.updMslot {i f} (h : Standing s t) : Standing s (t.updMslot i f) := h.of
theorem Standing.setWork {n w} (h : Standing s t) : Standing s (t.setWork n w) := h.of
theorem Standing.qFree {i n} (h : Standing s t) : Standing s (t.qFree i n) := h.of
theorem Standing.updRing {c r f} (h : Standing s t) : Standing s (t.updRing c r f) := h.updFn

/-! ## Records and the journal -/

theorem Standing.hostCode {p c} (h : Standing s t) : Standing s (t.hostCode p c) := h.of
theorem Standing.hostTx {p n} (h : Standing s t) : Standing s (t.hostTx p n) := h.of
theorem Standing.logPage {c page kind} (h : Standing s t) : Standing s (t.logPage c page kind) :=
  .ite h (.ite h.updFn (.ite h.updFn h.updHmem.hostTx.updFn))
theorem Standing.signal {c r} (h : Standing s t) : Standing s (t.signal c r) := .ite h.emit.updRing h
theorem Standing.cqVisible {c r slot rec_} (h : Standing s t) : Standing s (t.cqVisible c r slot rec_) := h.updHmem.updRing.hostTx.logPage
theorem Standing.cqWrite {c r rec_} (h : Standing s t) : Standing s (t.cqWrite c r rec_) := .ite h.updRing.updRing h.updRing.cqVisible.signal
theorem Standing.recall {c line} (h : Standing s t) : Standing s (t.recall c line) := .ite h.updFn.emit h
theorem Standing.wrRegion {f o bs} (h : Standing s t) : Standing s (t.wrRegion f o bs) := (h.each fun _ _ h' => h'.recall).updFn.logPage
theorem Standing.toJournal {c r rec_} (h : Standing s t) : Standing s (t.toJournal c r rec_) := h.updFn.wrRegion
theorem Standing.putRecord {c r era rec_} (h : Standing s t) : Standing s (t.putRecord c r era rec_) :=
  .ite (.updRing (.ite h.updRing.cqWrite h.updRing.toJournal)) h.toJournal
theorem Standing.retryToJournal {f r} (h : Standing s t) : Standing s (t.retryToJournal f r) := (h.each fun _ _ h' => h'.toJournal).updRing

theorem Standing.flushEvent {c} (h : Standing s t) : Standing s (t.flushEvent c) := by
  unfold State.flushEvent
  split
  · exact h
  · exact h.updFn.cqWrite

theorem Standing.flushEvents {c} (h : Standing s t) : Standing s (t.flushEvents c) := h.each fun _ _ h' => h'.flushEvent
theorem Standing.event {c code arg} (h : Standing s t) : Standing s (t.event c code arg) := h.updFn.flushEvent

theorem Standing.answer {r status ws} (h : Standing s t) : Standing s (t.answer r status ws) := by
  unfold State.answer
  split
  · exact h.emit
  · exact h.of
  · exact h.updFn.putRecord

/-! ## Contexts and work -/

theorem Standing.direct {ch cls} (h : Standing s t) : Standing s (t.direct ch cls) := .ite h h.updChan

theorem Standing.ackWithdraw {x idx u} (h : Standing s t) : Standing s (t.ackWithdraw x idx u) := by
  unfold State.ackWithdraw
  split
  · exact h
  · exact .ite (.answer h.of) h.of

theorem Standing.ackAll {u} (h : Standing s t) : Standing s (t.ackAll u) := h.each fun _ _ h' => h'.ackWithdraw

theorem Standing.handBack {u} (h : Standing s t) : Standing s (t.handBack u) := by
  unfold State.handBack
  split
  · exact h.qFree
  · exact h.qFree.each fun _ _ h' => h'.qFree
  · exact h.qFree

theorem Standing.clearUnit {u} (h : Standing s t) : Standing s (t.clearUnit u) := by
  unfold State.clearUnit
  dsimp only
  split
  · exact h.handBack.updEng
  · exact h.handBack.updVt
  · exact h.handBack.updSt

theorem Standing.leaveUnit {u} (h : Standing s t) : Standing s (t.leaveUnit u) := h.updUnit.ackAll
theorem Standing.evict {c g} (h : Standing s t) : Standing s (t.evict c g) := (h.each fun _ _ h' => h'.clearUnit.leaveUnit).updStage

theorem Standing.settleBatch {c} (h : Standing s t) : Standing s (t.settleBatch c) := by
  unfold State.settleBatch
  dsimp only
  split
  · exact h
  · exact .ite h.updComp (.ite h h.updComp)

theorem Standing.journalCtx {x} (h : Standing s t) : Standing s (t.journalCtx x) := h.journal
theorem Standing.ctxIdle {x} (h : Standing s t) : Standing s (t.ctxIdle x) := .ite h.updCtx.journalCtx h.updCtx

theorem Standing.settleCtx {x} (h : Standing s t) : Standing s (t.settleCtx x) := by
  refine .ite h ?_
  dsimp only
  split
  · exact .ite h.ctxIdle h
  · exact .ite h (h.each fun _ _ h' => h'.evict).ctxIdle
  · exact h

theorem Standing.finishWork {w status} (h : Standing s t) : Standing s (t.finishWork w status) := by
  unfold State.finishWork
  split
  · exact h
  · exact .settleCtx (.settleBatch (.putRecord (.each (.ite h.of h.setWork) fun _ _ h' => h'.updStage)))

theorem Standing.discardIf {p code} (h : Standing s t) : Standing s (t.discardIf p code) := h.each fun _ _ h' => h'.finishWork

/-! ## Saving a context -/

theorem Standing.havoc {k l} (h : Standing s t) : Standing s (t.havoc k l) := h.each fun _ _ h' => (h'.of (u := _)).updEng
theorem Standing.saveTraffic {p n wr} (h : Standing s t) : Standing s (t.saveTraffic p n wr) := h.each fun _ _ h' => h'.updChan

theorem Standing.arrGo {p e n} (h : Standing s t) : Standing s (t.arrGo p e n) := by
  unfold State.arrGo
  dsimp only
  split
  · exact h
  · exact .ite h (.ite (Standing.updEng (.updCtx (.updCtx h.havoc))) (Standing.updEng (.updCtx h.havoc)))

theorem Standing.epiRows {p e fuel r} (h : Standing s t) : Standing s (t.epiRows p e fuel r).2 := by
  induction fuel generalizing t r with
  | zero => exact h
  | succ n ih =>
    unfold State.epiRows
    split
    · exact h
    · extract_lets -underBinder
      split
      · split
        · exact h
        · extract_lets -underBinder
          split
          · exact h
          · exact ih h.of
      · exact ih h.updEng

theorem Standing.epiGo {p e n} (h : Standing s t) : Standing s (t.epiGo p e n) := by
  unfold State.epiGo
  dsimp only
  split
  · exact h
  · exact .ite h (.updEng (.havoc (.epiRows h.havoc)))

theorem Standing.stopEng {p e} (h : Standing s t) : Standing s (t.stopEng p e) := .ite h.updUnit.updEng h

theorem Standing.putSave {x u r} (h : Standing s t) : Standing s (t.putSave x u r) := by
  unfold State.putSave
  split
  · exact h
  · exact h.updCtx.saveTraffic

theorem Standing.haltUnits {p e} (h : Standing s t) : Standing s (t.haltUnits p e) := by
  unfold State.haltUnits
  extract_lets -underBinder _ _ t2
  have h2 : Standing s t2 := by
    unfold t2
    split
    · exact h
    · exact .arrGo h.of
  split
  · exact h2
  · exact .ite h2 (.epiGo h2.of)

theorem Standing.saveEng {p e} (h : Standing s t) : Standing s (t.saveEng p e) := .ite h.haltUnits.putSave.clearUnit.updUnit.ackAll h

theorem Standing.stopTile {u} (h : Standing s t) : Standing s (t.stopTile u) := by
  unfold State.stopTile
  extract_lets -underBinder
  split
  · exact h
  · exact .ite h.putSave.clearUnit.updUnit.ackAll h
  · exact .ite (Standing.ackAll (.updUnit (.clearUnit (.putSave h.of)))) h

theorem Standing.saveUnit {u} (h : Standing s t) : Standing s (t.saveUnit u) := by
  unfold State.saveUnit
  split
  · exact h.stopEng.saveEng
  · exact h.stopTile

theorem Standing.settleSaved {x} (h : Standing s t) : Standing s (t.settleSaved x) := by
  unfold State.settleSaved
  dsimp only
  split
  · exact .ite h.updCtx (.ite h.updCtx (.ite h.ctxIdle h.updCtx))
  · exact .ite h.updCtx (.ite h.updCtx (.ite h.ctxIdle h.updCtx))
  · exact h

theorem Standing.stopStage {c g} (h : Standing s t) : Standing s (t.stopStage c g) :=
  (h.each fun _ _ h' => h'.saveUnit).each fun _ _ h' => h'.saveUnit

theorem Standing.saveOut {c g} (h : Standing s t) : Standing s (t.saveOut c g) := by
  unfold State.saveOut
  split
  · exact h
  · exact .ite h.stopStage.evict.settleSaved h.stopStage.updStage.updCtx

theorem Standing.saveCtx {x} (h : Standing s t) : Standing s (t.saveCtx x) := by
  refine h.each fun _ _ h' => ?_
  dsimp only
  split
  · exact h'.evict.settleSaved
  · exact h'.saveOut

end

end Sys2Proof.Machine
end

section
/-! SUPPORT. Leases of functions, and the links of host ports (R295, R310 to R314, R327, R433, R436). -/
namespace Sys2Proof.Machine

set_option Elab.async false

/-! ## Leases -/

/-- A function that takes its lease, or takes it back. -/
def Fn.leased (now : Nat) (seq : Word64) (x : Fn) : Fn :=
  { x with seq := seq, lease := .held, renewed := now, since := now, mustAck := !x.journal.isEmpty }

/-- A change of SEQ that takes a lapsed lease back: its contexts may run again and the host is told. -/
def State.reclaimed (s : State) (k : Nat) (seq : Word64) : State :=
  let t := s.updFn k (Fn.leased s.now seq)
  let xs := (t.ctxs.filter (fun e => decide (e.2.client = k ∧ e.2.st = .quiesced))).map (fun e => e.1)
  let u := (t.each xs (fun s k => (s.ctxIdle k).journalCtx k)).hostCode (k / 256) 0x070A
  (u.event k 0x070A (u.fn k).journal.length).flushEvents k

theorem State.renew_of {s : State} {k : Nat} {seq : Word64} (b : Bool) (hv : (s.fn k).valid = true) (hn : seq ≠ (s.fn k).seq) :
    s.renew k seq b =
      match (s.fn k).lease with
      | .held => s.updFn k (fun x => { x with seq := seq, renewed := s.now })
      | .none => (s.updFn k (Fn.leased s.now seq)).flushEvents k
      | _ => if !b then s.updFn k (fun x => { x with seq := seq }) else s.reclaimed k seq :=
  if_neg (not_or.2 ⟨ne_true_of_eq_false (congrArg not hv), hn⟩)

theorem State.renew_lost {s : State} {k : Nat} {seq : Word64} (b : Bool) (hv : (s.fn k).valid = true) (hn : seq ≠ (s.fn k).seq)
    (hl : (s.fn k).lease = .lapsed ∨ (s.fn k).lease = .quiesced) :
    s.renew k seq b = if !b then s.updFn k (fun x => { x with seq := seq }) else s.reclaimed k seq := by
  rw [State.renew_of b hv hn]
  rcases hl with hl | hl <;> rw [hl]

/-- What decides the lease of a function and its rings, read off what a step leaves standing. -/
theorem Standing.lease {s t : State} (h : Standing s t) (k : Nat) : (t.fn k).lease = (s.fn k).lease := (congrArg Fn.lease (h.keeps k) :)
theorem Standing.seq {s t : State} (h : Standing s t) (k : Nat) : (t.fn k).seq = (s.fn k).seq := (congrArg Fn.seq (h.keeps k) :)
theorem Standing.renewed {s t : State} (h : Standing s t) (k : Nat) : (t.fn k).renewed = (s.fn k).renewed := (congrArg Fn.renewed (h.keeps k) :)
theorem Standing.since {s t : State} (h : Standing s t) (k : Nat) : (t.fn k).since = (s.fn k).since := (congrArg Fn.since (h.keeps k) :)
theorem Standing.mustAck {s t : State} (h : Standing s t) (k : Nat) : (t.fn k).mustAck = (s.fn k).mustAck := (congrArg Fn.mustAck (h.keeps k) :)
theorem Standing.tdi {s t : State} (h : Standing s t) (k : Nat) : (t.fn k).tdi = (s.fn k).tdi := (congrArg Fn.tdi (h.keeps k) :)

theorem State.updFn_canon {s : State} (h : s.canon = true) (k : Nat) (f : Fn → Fn)
    (hf : ∀ x : Fn, Bytes.wf x.region = true → Bytes.wf (f x).region = true := by exact fun _ hx => hx) : (s.updFn k f).canon = true :=
  ((Evolves.refl s).updFn hf).canonOf ((canon_iff s).1 h)

theorem State.reclaimed_standing {s : State} (h : s.canon = true) (k : Nat) (seq : Word64) :
    Standing (s.updFn k (Fn.leased s.now seq)) (s.reclaimed k seq) :=
  (((Standing.refl (State.updFn_canon h k (Fn.leased s.now seq))).each fun _ _ h' => h'.ctxIdle.journalCtx).hostCode).event.flushEvents

theorem leaseRenewals (s : State) (h : HPort) (f : Func) (seq : Word64) (b : Bool) :
    let k := clientOf h.val f.val
    let x := s.fn k
    x.valid = true → seq ≠ x.seq →
      (x.lease = .held → exec (.leaseRenewal h f seq b) s = .next (s.updFn k (fun x => { x with seq := seq, renewed := s.now }))) ∧
      (x.lease = .none → exec (.leaseRenewal h f seq b) s = .next ((s.updFn k (fun x =>
        { x with seq := seq, lease := .held, renewed := s.now, since := s.now, mustAck := !x.journal.isEmpty })).flushEvents k)) ∧
      (x.lease = .lapsed ∨ x.lease = .quiesced → b = false →
        exec (.leaseRenewal h f seq b) s = .next (s.updFn k (fun x => { x with seq := seq }))) ∧
      (x.lease = .lapsed ∨ x.lease = .quiesced → b = true → s.canon = true → ∃ t, exec (.leaseRenewal h f seq b) s = .next t ∧
        (t.fn k).lease = .held ∧ (t.fn k).seq = seq ∧ (t.fn k).renewed = s.now ∧ (t.fn k).mustAck = !x.journal.isEmpty) := by
  intro k x hv hn
  have hr := State.renew_of b hv hn
  refine ⟨fun hl => next_congr ?_, fun hl => next_congr ?_, fun hl hb => next_congr ?_, fun hl hb hc => ?_⟩
  · exact hr.trans (by rw [hl])
  · exact hr.trans (by rw [hl]; rfl)
  · exact (State.renew_lost b hv hn hl).trans (if_pos (congrArg not hb))
  · have hs := State.reclaimed_standing hc k seq
    have hf := State.fn_updFn_self hc k (Fn.leased s.now seq)
    refine ⟨s.reclaimed k seq, next_congr ((State.renew_lost b hv hn hl).trans (if_neg (ne_true_of_eq_false (congrArg not hb)))), ?_⟩
    rw [hs.lease, hs.seq, hs.renewed, hs.mustAck, hf]
    exact ⟨rfl, rfl, rfl, rfl⟩

theorem State.lapse_held {s : State} {k : Nat} (h : (s.fn k).lease = .held) :
    s.lapse k =
      (let l := s.updFn k (fun x => { x with lease := .lapsed, since := s.now })
       (l.each ((l.fn k).rings.map (fun e => e.1)) (fun s r => s.retryToJournal k r)).hostCode (k / 256) 0x0708) := if_pos h

theorem leaseTimeouts (s : State) (h : HPort) (f : Func) :
    let k := clientOf h.val f.val
    ((s.fn k).pause = .serving → exec (.leaseTimeout h f) s = .next (s.lapse k)) ∧
      ((s.fn k).pause ≠ .serving → exec (.leaseTimeout h f) s = .next s) :=
  ⟨fun h => next_congr (if_pos h), fun h => next_congr (if_neg h)⟩

/-- The state in which a lapsed lease is quiesced, before its work is discarded. -/
def State.leaseQuiesced (s : State) (k : Nat) : State := s.updFn k (fun x => { x with lease := .quiesced, since := s.now })

theorem State.quiesceLease_standing {s : State} (hc : s.canon = true) {k : Nat} (hl : (s.fn k).lease = .lapsed) :
    Standing (s.leaseQuiesced k) (s.quiesceLease k) := by
  have h0 := Standing.refl (State.updFn_canon hc k (fun x => { x with lease := .quiesced, since := s.now }))
  unfold State.quiesceLease
  rw [if_pos hl]
  refine (h0.discardIf.each fun u x h' => ?_).hostCode
  dsimp only
  split
  · exact h'.saveCtx.ctxIdle
  · exact h'.saveCtx.ctxIdle
  · exact h'.saveCtx.ctxIdle
  · exact h'.saveCtx

theorem leaseQuiesces (s : State) (h : HPort) (f : Func) :
    let k := clientOf h.val f.val
    (s.fn k).lease = .lapsed → s.canon = true → ∃ t, exec (.leaseQuiesce h f) s = .next t ∧ (t.fn k).lease = .quiesced ∧ (t.fn k).since = s.now := by
  intro k hl hc
  have hs := State.quiesceLease_standing hc hl
  have hf : (s.leaseQuiesced k).fn k = _ := State.fn_updFn_self hc k _
  refine ⟨s.quiesceLease k, rfl, ?_⟩
  rw [hs.lease, hs.since, hf]
  exact ⟨rfl, rfl⟩

/-! ## A function reset -/

/-- A reset takes a held lease, and no other, to LAPSED. -/
theorem State.lapse_lease {s : State} (hc : s.canon = true) (k : Nat) :
    ((s.lapse k).fn k).lease = (if (s.fn k).lease = .held then .lapsed else (s.fn k).lease) ∧ ((s.lapse k).fn k).tdi = (s.fn k).tdi := by
  by_cases hl : (s.fn k).lease = .held
  · have h0 := Standing.refl (State.updFn_canon hc k (fun x => { x with lease := .lapsed, since := s.now }))
    have hs := (h0.each (l := ((s.updFn k (fun x => { x with lease := .lapsed, since := s.now })).fn k).rings.map (fun e => e.1))
      (f := fun s r => s.retryToJournal k r) fun _ _ h' => h'.retryToJournal).hostCode (p := k / 256) (c := 0x0708)
    have hf := State.fn_updFn_self hc k (fun x => { x with lease := .lapsed, since := s.now })
    rw [State.lapse_held hl, if_pos hl]
    exact ⟨(hs.lease k).trans (congrArg Fn.lease hf), (hs.tdi k).trans (congrArg Fn.tdi hf :)⟩
  · rw [show s.lapse k = s from if_neg hl, if_neg hl]
    exact ⟨rfl, rfl⟩

/-- A reset's rings: their records wait in the journal. -/
theorem State.ringsOff_fn {s : State} (hc : s.canon = true) (k : Nat) :
    ((s.ringsOff k).fn k).lease = (s.fn k).lease ∧ ((s.ringsOff k).fn k).tdi = (s.fn k).tdi ∧ ((s.ringsOff k).fn k).rings = [] ∧
      ((s.ringsOff k).fn k).tcSel = 0 := by
  have hs := (Standing.refl hc).each (l := (s.fn k).rings.map (fun e => e.1)) (f := fun s r => s.retryToJournal k r)
    fun _ _ h' => h'.retryToJournal
  have hf : (s.ringsOff k).fn k = _ := Map.get_upd_self ({} : Fn) k (fun x => { x with rings := [], tcSel := 0, era := x.era + 1 }) _ hs.wf
  rw [hf]
  exact ⟨hs.lease k, hs.tdi k, rfl, rfl⟩

/-- What a reset makes of an interface. -/
def Tdi.reset : Tdi → Tdi
  | .locked => .error
  | .run => .error
  | t => t

theorem Tdi.reset_eq (t : Tdi) : t.reset = if t = .locked ∨ t = .run then .error else t := by
  cases t <;> rfl

theorem State.fnReset_fn {s : State} (hc : s.canon = true) (k : Nat) :
    ((s.fnReset k).fn k).lease = (if (s.fn k).lease = .held then .lapsed else (s.fn k).lease) ∧ ((s.fnReset k).fn k).rings = [] ∧
      ((s.fnReset k).fn k).tcSel = 0 ∧
      ((s.fnReset k).fn k).tdi = (if (s.fn k).tdi = .locked ∨ (s.fn k).tdi = .run then .error else (s.fn k).tdi) := by
  have h1 : (s.lapse k).canon = true := (Evolves.lapse (.refl s)).canonOf ((canon_iff s).1 hc)
  have h2 : ((s.lapse k).ringsOff k).canon = true := (Evolves.ringsOff (.refl _)).canonOf ((canon_iff _).1 h1)
  obtain ⟨hl, ht⟩ := State.lapse_lease hc k
  obtain ⟨hl', ht', hr, hz⟩ := State.ringsOff_fn h1 k
  have hf : (s.fnReset k).fn k = { ((s.lapse k).ringsOff k).fn k with tdi := (((s.lapse k).ringsOff k).fn k).tdi.reset } :=
    (State.fn_updFn_self h2 k _).trans (congrArg (fun t => { ((s.lapse k).ringsOff k).fn k with tdi := t }) (by unfold Tdi.reset; rfl))
  rw [hf]
  exact ⟨hl'.trans hl, hr, hz, (congrArg Tdi.reset (ht'.trans ht)).trans (Tdi.reset_eq _)⟩

theorem flrs (s : State) (h : HPort) (f : Func) (hc : s.canon = true) :
    let k := clientOf h.val f.val
    let x := s.fn k
    ∃ t, exec (.flr h f) s = .next t ∧ (t.fn k).lease = (if x.lease = .held then .lapsed else x.lease) ∧
      (t.fn k).rings = [] ∧ (t.fn k).tcSel = 0 ∧ (t.fn k).tdi = (if x.tdi = .locked ∨ x.tdi = .run then .error else x.tdi) := by
  intro k x
  by_cases hv : (s.fn k).valid = true
  · have hc' : ((s.updHport h.val (fun p => { p with flrs := sat 0xFFFF (p.flrs + 1) })).hostCode h.val 0x070C).canon = true :=
      (Evolves.hostCode (.updHport (.refl s))).canonOf ((canon_iff s).1 hc)
    exact ⟨_, next_congr (congrArg (fun u : State => u.fnReset k) (if_pos hv)), State.fnReset_fn hc' k⟩
  · exact ⟨_, next_congr (congrArg (fun u : State => u.fnReset k) (if_neg hv)), State.fnReset_fn hc k⟩

theorem leases : Clauses.Leases := by
  intro s h f
  dsimp only
  obtain ⟨htime, hpause⟩ := leaseTimeouts s h f
  exact ⟨fun seq b => leaseRenewals s h f seq b,
    fun hl => ⟨next_congr (State.lapse_held hl), fun hp => (htime hp).trans (next_congr (State.lapse_held hl))⟩, hpause, leaseQuiesces s h f,
    fun hl => next_congr (if_pos hl), fun hl => next_congr (if_pos hl), fun hl => next_congr (if_neg hl), flrs s h f⟩

/-! ## Links of host ports -/

/-- A port's training, of a port that may train. -/
theorem State.hostTrained_of {s : State} {h : Nat} (w r : Nat) (hst : (s.hport h).st = .down ∨ (s.hport h).st = .training)
    (hb : s.boot.pwrgd = true) (hd : s.domOn (domHost h) = true) (hp : (s.hport h).perstRel = true)
    (hr : has s.boot.hsris h = true ∨ s.boot.refOk = true) :
    s.hostTrained h w r =
      (let up (st : HPState) : State :=
         let t := s.updHport h (fun p => { p with st := st, width := w, rate := r, ide := false, ideDue := (s.hport h).ideReq })
         if (s.hport h).ideReq then t.hostCode h 0x070B else t
       if w = 8 ∧ r = 64 then up .up else if r = 32 ∧ (w = 8 ∨ w = 4) then (up .degraded).hostCode h 0x0707 else s) :=
  if_pos ⟨hst, hb, hd, hp, hr⟩

theorem linkDown_up {s : State} {h : Nat} (hst : (s.hport h).st = .up ∨ (s.hport h).st = .degraded) :
    s.linkDown h =
      (let t := s.updHport h (fun p =>
         { p with st := .down, width := 0, rate := 0, ide := false, ideDue := false, linkDown := min 0xFFFF (p.linkDown + 1) })
       (t.each (t.fnsOnPort h) (fun s f => s.fnReset f)).hostCode h 0x0706) := by
  refine if_neg ?_
  rcases hst with hst | hst <;> rw [hst] <;> decide

theorem hostLinks : Clauses.HostLinks := by
  intro s h hc
  have hu (st : HPState) (w r : Nat) : s.updHport h.val (fun p => { p with st := st, width := w, rate := r, ide := false, ideDue := p.ideReq }) =
      s.updHport h.val (fun p => { p with st := st, width := w, rate := r, ide := false, ideDue := (s.hport h.val).ideReq }) :=
    State.updHport_congr s h.val rfl
  dsimp only
  refine ⟨fun hst hb hd hp hr => ⟨next_congr ?_, fun w hw => next_congr ?_⟩, fun hst => next_congr (linkDown_up hst),
    fun hst => next_congr (if_pos hst), rfl, fun hst => next_congr (congrArg (fun u : State => u.updHport h.val _) (if_pos hst)),
    fun hst => next_congr (congrArg (fun u : State => u.updHport h.val _) (linkDown_up hst)), rfl⟩
  · rw [hu]
    exact (State.hostTrained_of 8 64 hst hb hd hp hr).trans (if_pos ⟨rfl, rfl⟩)
  · rw [hu]
    exact (State.hostTrained_of w 32 hst hb hd hp hr).trans ((if_neg (by omega)).trans (if_pos ⟨rfl, hw⟩))

/-- Settles O44: the lease and the interface after an event are read off the function's update, since what follows leaves the function standing
(`Standing`). -/
theorem leasesAndLinks : Obligations.LeasesAndLinks := ⟨leases, hostLinks⟩

end Sys2Proof.Machine
end

section
/-! SUPPORT. Functions are assigned, unassigned and handed off (R319, R321, R328, Table 13.3). -/
namespace Sys2Proof.Machine

set_option Elab.async false

/-! ## The check of an assignment -/

/-- Where a value that `p` does not tell from the one listed replaces it, and `p` holds of no default, `p` picks the same keys. -/
theorem Map.keys_filter_set {β : Type} [DecidableEq β] {d v : β} (p : β → Bool) (hd : p d = false) (k : Nat) :
    ∀ m : Map β, Map.wf d m = true → p v = p (Map.get d m k) →
      ((Map.set d k v m).filter (fun e => p e.2)).map (fun e => e.1) = (m.filter (fun e => p e.2)).map (fun e => e.1)
  | [], _, hv => by
    have hv : p v = false := hv.trans hd
    unfold Map.set
    split
    · rfl
    · simp [hv]
  | (k', v') :: r, hw, hv => by
    obtain ⟨_, hk, hr⟩ := (Map.wf_cons d v' k' r).1 hw
    unfold Map.set
    unfold Map.get at hv
    split
    · rename_i hlt
      rw [if_neg (by omega), Map.get_of_lt d k r (fun e he => hlt.trans (hk e he)), hd] at hv
      split
      · rfl
      · rw [List.filter_cons_of_neg (by simp [hv])]
    · split
      · rename_i _ he
        rw [if_pos he.symm] at hv
        split
        · rename_i hvd
          rw [hvd, hd] at hv
          rw [List.filter_cons_of_neg (by simp [← hv])]
        · simp only [List.filter_cons, hv, he]
          split <;> rfl
      · rename_i hlt hne
        rw [if_neg (Ne.symm hne)] at hv
        simp only [List.filter_cons]
        split
        · rw [List.map_cons, List.map_cons, Map.keys_filter_set p hd k r hr hv]
        · exact Map.keys_filter_set p hd k r hr hv

/-- The functions of a composition after an update that leaves what a function serves. -/
theorem State.fnsOf_updFn {s : State} (h : s.canon = true) (k : Nat) (f : Fn → Fn) 
    (hf : ∀ x : Fn, (f x).valid = x.valid ∧ (f x).cid = x.cid) (c : Nat) :
    (s.updFn k f).fnsOf c = s.fnsOf c := by
  refine Map.keys_filter_set (fun x : Fn => x.valid && x.cid == c) rfl k s.host.fns (State.host_fns_wf h) ?_
  rw [(hf _).1, (hf _).2]

/-- The write of the FROM fields, of a function whose interface does not freeze them. -/
def State.unfrom (s : State) (k : Nat) : State := s.updFn k (fun x => { x with fromEn := false, fromPort := 0, fromFunc := 0 })

theorem State.unfrom_canon {s : State} (h : s.canon = true) (k : Nat) : (s.unfrom k).canon = true := State.updFn_canon h k _

theorem State.fn_unfrom {s : State} (h : s.canon = true) (k : Nat) :
    (s.unfrom k).fn k = { s.fn k with fromEn := false, fromPort := 0, fromFunc := 0 } := State.fn_updFn_self h k _

theorem State.vfFrom_open {s : State} {k : Nat} (h1 : (s.fn k).tdi ≠ .locked) (h2 : (s.fn k).tdi ≠ .run) : s.vfFrom k false 0 0 = s.unfrom k :=
  if_neg (not_or.2 ⟨h1, h2⟩)

theorem State.assignErr_unfrom {s : State} (h : s.canon = true) (k c : Nat) (gen : Word16) :
    (s.unfrom k).assignErr k c gen = s.assignErr k c gen := by
  have hr : (s.unfrom k).reserved0 c = s.reserved0 c :=
    congrArg (fun l : List Nat => (s.comp c).maxCtx * (s.comp c).saveKib * 1024 + (s.comp c).maxCtx * 144 * 1024 + l.length * (s.comp c).regionBytes)
      (State.fnsOf_updFn h k (fun x => { x with fromEn := false, fromPort := 0, fromFunc := 0 }) (fun _ => ⟨rfl, rfl⟩) c)
  unfold State.assignErr
  rw [State.fn_unfrom h k, hr]
  rfl

/-- A function that passes every check of an assignment is unlocked. -/
theorem State.unlocked_of_assignErr {s : State} {k c : Nat} {gen : Word16} (h : s.assignErr k c gen = 0) : (s.fn k).tdi = .unlocked := by
  by_contra hn
  have h3 : decide ((s.fn k).tdi ≠ .unlocked) = true := decide_eq_true hn
  unfold State.assignErr firstCode at h
  dsimp only at h
  rw [h3] at h
  simp only [List.find?_cons] at h
  split at h
  · rename_i hf
    repeat' split at hf
    all_goals cases hf
  · rename_i hf
    repeat' split at hf
    all_goals cases hf; exact Nat.succ_ne_zero _ h

theorem Tdi.open_of_unlocked {t : Tdi} (h : t = .unlocked) : t ≠ .locked ∧ t ≠ .run := by
  subst h
  decide

theorem State.tdiBreach_open {s : State} {k : Nat} (h1 : (s.fn k).tdi ≠ .locked) (h2 : (s.fn k).tdi ≠ .run) : s.tdiBreach k = s :=
  if_neg (not_or.2 ⟨h1, h2⟩)

/-- ERR after the write of the FROM fields. -/
theorem State.setErr_unfrom {s : State} (h : s.canon = true) (k e : Nat) :
    (s.unfrom k).setErr k e = s.updFn k (fun x => { x with fromEn := false, fromPort := 0, fromFunc := 0, err := e }) :=
  State.updFn_updFn h k _ _

theorem State.unassign_valid {s : State} {k : Nat} (h : (s.fn k).valid = true) :
    s.unassign k = (s.updFn k (fun x => x.bare)).journal (.assign (k / 256) (k % 256) false 0 0) := if_pos h

/-! ## Assignment -/

theorem State.vfAssign_refused {s : State} {k c : Nat} {gen : Word16} (he : s.assignErr k c gen ≠ 0) :
    s.vfAssign k c gen = (s.tdiBreach k).setErr k (s.assignErr k c gen) := if_pos he

theorem vfAssigns (s : State) (h : HPort) (f : Func) (c : CidT) (gen : Word16) (hc : s.canon = true) (h0 : f.val ≠ 0) :
    let k := clientOf h.val f.val
    s.assignErr k c.val gen = 0 →
      let t := (s.updFn k (fun x => { x with fromEn := false, fromPort := 0, fromFunc := 0 })).updFn k (fun x =>
        { (if x.valid then x else x.bare) with valid := true, cid := c.val, gen := gen, err := 0 })
      exec (.vfAssign h f c gen) s = .next (((t.regionWritten k).updFn k (fun x =>
        { x with region := [], journal := [], mustAck := false, notices := [], late := [], lease := .none, since := t.now })).journal
          (.assign (k / 256) (k % 256) true c.val gen)) := by
  intro k he t
  obtain ⟨h1, h2⟩ := Tdi.open_of_unlocked (State.unlocked_of_assignErr he)
  refine next_congr ((if_neg h0).trans ?_)
  rw [State.vfFrom_open h1 h2]
  exact if_neg (not_not.2 ((State.assignErr_unfrom hc k c.val gen).trans he))

theorem vfAssignRefusals (s : State) (h : HPort) (f : Func) (c : CidT) (gen : Word16) (hc : s.canon = true) (h0 : f.val ≠ 0) :
    let k := clientOf h.val f.val
    s.assignErr k c.val gen ≠ 0 → (s.fn k).tdi ≠ .locked → (s.fn k).tdi ≠ .run → exec (.vfAssign h f c gen) s = .next
      (s.updFn k (fun x => { x with fromEn := false, fromPort := 0, fromFunc := 0, err := s.assignErr k c.val gen })) := by
  intro k he h1 h2
  have ha := State.assignErr_unfrom hc k c.val gen
  refine next_congr ((if_neg h0).trans ?_)
  rw [State.vfFrom_open h1 h2, State.vfAssign_refused (ha ▸ he), ha, State.tdiBreach_open, State.setErr_unfrom hc]
  · rw [State.fn_unfrom hc]
    exact h1
  · rw [State.fn_unfrom hc]
    exact h2

theorem vfUnassigns (s : State) (h : HPort) (f : Func) (hc : s.canon = true) (h0 : f.val ≠ 0) :
    let k := clientOf h.val f.val
    let x := s.fn k
    (x.tdi = .unlocked → x.lease ≠ .none ∨ s.ctxsOfClient k ≠ [] → exec (.vfUnassign h f) s = .next
      (s.updFn k (fun x => { x with fromEn := false, fromPort := 0, fromFunc := 0, err := 4 }))) ∧
    (x.tdi = .unlocked → x.lease = .none → s.ctxsOfClient k = [] → x.valid = true → exec (.vfUnassign h f) s = .next
      ((((s.updFn k (fun x => { x with fromEn := false, fromPort := 0, fromFunc := 0 })).updFn k (fun x => x.bare)).journal
        (.assign (k / 256) (k % 256) false 0 0)).updFn k (fun x => { x with err := 0 }))) := by
  intro k x
  have hf := State.fn_unfrom hc k
  have hT (ht : x.tdi = .unlocked) {t : State}
      (hu : (if ((s.unfrom k).fn k).lease ≠ .none ∨ !((s.unfrom k).ctxsOfClient k).isEmpty then (s.unfrom k).setErr k 4
        else ((s.unfrom k).unassign k).setErr k 0) = t) : exec (.vfUnassign h f) s = .next t := by
    obtain ⟨h1, h2⟩ := Tdi.open_of_unlocked ht
    refine next_congr ((if_neg h0).trans ?_)
    rw [State.vfFrom_open h1 h2]
    refine (if_neg (not_not.2 ?_)).trans hu
    rw [hf]
    exact ht
  refine ⟨fun ht hb => hT ht ?_, fun ht hl hx hv => hT ht ?_⟩
  · rw [hf]
    refine (if_pos (hb.imp_right fun hx => ?_)).trans (State.setErr_unfrom hc k 4)
    exact congrArg not (List.isEmpty_eq_false_iff.2 hx)
  · rw [hf]
    refine (if_neg (not_or.2 ⟨not_not.2 hl, ?_⟩)).trans (congrArg (fun u : State => u.setErr k 0) (if_pos ?_))
    · rw [show (s.unfrom k).ctxsOfClient k = [] from hx]
      decide
    · rw [hf]
      exact hv

/-! ## The hand-off -/

/-- Whether a hand-off may take the client of `y`. -/
def handsOver (y : Fn) (c : Nat) (gen : Word16) (src k : Nat) : Bool :=
  y.valid && decide (y.cid = c ∧ y.gen = gen ∧ y.pause = .paused) && !y.logging && decide (src ≠ k)

/-- The source of a hand-off that cannot be taken, as the model asks. -/
theorem handsOver_eq_false {y : Fn} {c : Nat} {gen : Word16} {src k : Nat} :
    handsOver y c gen src k = false ↔
      ((!y.valid) = true ∨ y.cid ≠ c ∨ y.gen ≠ gen ∨ y.pause ≠ .paused ∨ y.logging = true ∨ src = k) := by
  unfold handsOver
  rw [← Bool.not_eq_true]
  simp only [Bool.and_eq_true, decide_eq_true_eq, Bool.not_eq_true']
  by_cases hv : y.valid = true <;> by_cases hl : y.logging = true <;> simp [hv, hl]
  tauto

/-- The function that has taken the client of `y` over. -/
def Fn.takenOver (x y : Fn) (c : Nat) (gen : Word16) (src now : Nat) : Fn :=
  { x with
    hand := none, late := y.late, era := max x.era y.era + 1, valid := true, cid := c, gen := gen, err := 0, fromEn := true, fromPort := src / 256,
    fromFunc := src % 256, lease := .lapsed, since := now, seq := 0, region := y.region, journal := y.journal, mustAck := false, events := y.events,
    notices := y.notices, rings := [], ctlOut := y.ctlOut, pause := .serving }

/-- The target's update of a hand-off. -/
def State.takes (s : State) (k c : Nat) (gen : Word16) (src : Nat) : State := s.updFn k (fun x => x.takenOver (s.fn src) c gen src s.now)

/-- The requests of a client and its count of jobs go to another function. -/
def State.moveJobs (s : State) (src k : Nat) : State :=
  let u := s.moveRequests src k
  { u with sch := { u.sch with jobs := Map.set 0 src 0 (Map.set 0 k (Map.get 0 u.sch.jobs src) u.sch.jobs) } }

/-- The hand-off up to the client's contexts. -/
def State.handing (s : State) (k c : Nat) (gen : Word16) (src : Nat) : State :=
  (((s.takes k c gen src).regionWritten k).updFn k (fun x => { x with granted := [] })).moveJobs src k

/-- The contexts of a client go to another function. -/
def State.moveCtxs (s : State) (src k : Nat) : State :=
  s.each (s.ctxsOfClient src) (fun s x => (s.updCtx x (fun c => { c with client := k })).journalCtx x)

/-- The hand-off. -/
def State.handed (s : State) (k c : Nat) (gen : Word16) (src : Nat) : State :=
  (((s.handing k c gen src).moveCtxs src k).journal (.assign (k / 256) (k % 256) true c gen)).unassign src

theorem State.handOff_eq {s : State} {k c : Nat} {gen : Word16} (src : Nat) (he : s.assignErr k c gen = 0) :
    s.handOff k c gen src =
      let ends := decide ((s.comp c).st = .unbinding) || (s.comp c).op.any (fun o => decide (o.kind = .unbind))
      let e := if ends = true then 1 else if (s.fn src).tdi ≠ .unlocked then 3 else if handsOver (s.fn src) c gen src k = false then 5 else 0
      if e ≠ 0 then s.setErr k e
      else if (s.comp c).copiesRegion then s.updFn k (fun x => { x with hand := some (c, gen, src) })
      else s.handed k c gen src := by
  obtain ⟨h1, h2⟩ := Tdi.open_of_unlocked (State.unlocked_of_assignErr he)
  unfold State.handOff
  dsimp only
  rw [he, State.tdiBreach_open h1 h2]
  simp only [handsOver_eq_false, true_and, ne_eq, not_true_eq_false, if_false]
  rfl

/-- A function but for its granted lines and its log, which a step that writes its region moves. -/
def Fn.content (x : Fn) : Fn := { x with granted := [], logTail := 0, ovf := false }

theorem Fn.fields_of_content {x y : Fn} (h : x.content = y.content) :
    x.valid = y.valid ∧ x.cid = y.cid ∧ x.gen = y.gen ∧ x.lease = y.lease ∧ x.region = y.region ∧ x.journal = y.journal ∧ x.pause = y.pause := by
  simp only [Fn.content, Fn.mk.injEq] at h
  tauto

theorem FnKept.hostLog {β : Type} {π : Fn → β} {s t : State} {p q n} {f : Bytes → Bytes} (h : FnKept π s t) :
    FnKept π s ((t.updHmem p f).hostTx q n) := h.of

theorem FnKept.logPage {s t : State} {c page kind} (h : FnKept Fn.content s t) : FnKept Fn.content s (t.logPage c page kind) :=
  .ite h (.ite h.updFn (.ite h.updFn h.hostLog.updFn))

theorem FnKept.emit {β : Type} {π : Fn → β} {s t : State} {o} (h : FnKept π s t) : FnKept π s (t.emit o) := h.of

theorem FnKept.recall {s t : State} {c line} (h : FnKept Fn.content s t) : FnKept Fn.content s (t.recall c line) :=
  .ite h.updFn.emit h

theorem FnKept.regionWritten {s t : State} {k} (h : FnKept Fn.content s t) : FnKept Fn.content s (t.regionWritten k) :=
  .ite ((h.each fun _ _ h' => h'.recall).each fun _ _ h' => h'.logPage) (h.each fun _ _ h' => h'.recall)

theorem FnKept.moveCtxs {s t : State} {src k} (h : FnKept Fn.content s t) : FnKept Fn.content s (t.moveCtxs src k) :=
  h.each fun _ _ h' => (FnKept.of h').journal

theorem State.takes_evolves (s : State) (k c : Nat) (gen : Word16) (src : Nat) : Evolves s (s.takes k c gen src) :=
  (Evolves.refl s).updFnOf fun w => (((Evolves.refl s).keepsCanon w).host_fns.get rfl src :)

theorem State.takes_canon {s : State} (hc : s.canon = true) (k c : Nat) (gen : Word16) (src : Nat) : (s.takes k c gen src).canon = true :=
  (s.takes_evolves k c gen src).canonOf ((canon_iff s).1 hc)

theorem State.fn_takes_self {s : State} (hc : s.canon = true) (k c : Nat) (gen : Word16) (src : Nat) :
    (s.takes k c gen src).fn k = (s.fn k).takenOver (s.fn src) c gen src s.now := State.fn_updFn_self hc k _

theorem State.fn_takes_ne (s : State) {k : Nat} (c : Nat) (gen : Word16) {src : Nat} (h : src ≠ k) : (s.takes k c gen src).fn src = s.fn src :=
  State.fn_updFn_ne s k src _ h

theorem FnKept.moveJobs {s t : State} {src k} (h : FnKept Fn.content s t) : FnKept Fn.content s (t.moveJobs src k) := h.of

/-- The target's update and what follows it. -/
theorem State.handing_kept {s : State} (hc : s.canon = true) (k c : Nat) (gen : Word16) (src : Nat) :
    FnKept Fn.content (s.takes k c gen src) (s.handing k c gen src) := by
  exact (FnKept.refl (State.takes_canon hc k c gen src)).regionWritten.updFn.moveJobs

theorem State.handing_canon {s : State} (hc : s.canon = true) (k c : Nat) (gen : Word16) (src : Nat) : (s.handing k c gen src).canon = true := by
  have h1 := s.takes_evolves k c gen src
  have h2 : Evolves s ((((s.takes k c gen src).regionWritten k).updFn k (fun x => { x with granted := [] })).moveRequests src k) :=
    h1.regionWritten.updFn.moveRequests
  exact (Evolves.setSch h2).canonOf ((canon_iff s).1 hc)

/-- Once every context of a client has gone to another function, the client holds none. -/
theorem State.moveEach_none {src k : Nat} (hne : src ≠ k) (l : List Nat) :
    ∀ {s : State}, s.canon = true → (∀ x, (s.ctx x).st ≠ .free → (s.ctx x).client = src → x ∈ l) →
      let t := s.each l (fun s x => (s.updCtx x (fun c => { c with client := k })).journalCtx x)
      t.canon = true ∧ ∀ x, (t.ctx x).st ≠ .free → (t.ctx x).client ≠ src := by
  induction l with
  | nil => exact fun hc h => ⟨hc, fun x hst hx => absurd (h x hst hx) List.not_mem_nil⟩
  | cons a l ih =>
    intro s hc h
    refine ih ((Evolves.journalCtx (.updCtx (.refl s))).canonOf ((canon_iff s).1 hc)) fun x hst hx => ?_
    have hj : ((s.updCtx a (fun c => { c with client := k })).journalCtx a).ctx x = (s.updCtx a (fun c => { c with client := k })).ctx x :=
      (Answered.refl _).journal.ctx x
    rw [hj] at hst hx
    by_cases hxa : x = a
    · subst hxa
      rw [State.ctx_updCtx_self hc] at hx
      exact absurd hx.symm hne
    · rw [State.ctx_updCtx_ne s a x _ hxa] at hst hx
      exact (List.mem_cons.1 (h x hst hx)).resolve_left hxa

theorem State.mem_ctxsOfClient {s : State} {x f : Nat} (h : (s.ctx x).st ≠ .free) (hx : (s.ctx x).client = f) : x ∈ s.ctxsOfClient f := by
  have hm : (x, s.ctx x) ∈ s.ctxs := Map.mem_of_get (fun hd => h (congrArg Ctx.st hd))
  exact List.mem_map.2 ⟨_, List.mem_filter.2 ⟨hm, decide_eq_true ⟨h, hx⟩⟩, rfl⟩

theorem State.ctxsOfClient_eq_nil {s : State} (hc : s.canon = true) {f : Nat} (h : ∀ x, (s.ctx x).st ≠ .free → (s.ctx x).client ≠ f) :
    s.ctxsOfClient f = [] := by
  refine List.map_eq_nil_iff.2 (List.filter_eq_nil_iff.2 fun e he hd => ?_)
  obtain ⟨hst, hx⟩ := of_decide_eq_true hd
  have hg : s.ctx e.1 = e.2 := Map.get_of_mem (State.ctxs_wf hc) he
  exact h e.1 (hg ▸ hst) (hg ▸ hx)

theorem State.moveCtxs_none {s : State} (hc : s.canon = true) {src k : Nat} (hne : src ≠ k) :
    (s.moveCtxs src k).canon = true ∧ (s.moveCtxs src k).ctxsOfClient src = [] := by
  obtain ⟨hc', hn⟩ := State.moveEach_none hne (s.ctxsOfClient src) hc fun x => State.mem_ctxsOfClient
  exact ⟨hc', State.ctxsOfClient_eq_nil hc' hn⟩

/-- An unassignment takes its own function back and nothing of another function or a context. -/
theorem State.unassign_effect {s : State} (hc : s.canon = true) {k src : Nat} (hne : k ≠ src) (hv : (s.fn src).valid = true) :
    (s.unassign src).fn k = s.fn k ∧ (s.unassign src).fn src = (s.fn src).bare ∧ (s.unassign src).ctxs = s.ctxs := by
  obtain ⟨j, hj⟩ := State.journal_eq (s.updFn src (fun x => x.bare)) (.assign (src / 256) (src % 256) false 0 0)
  rw [State.unassign_valid hv, hj]
  exact ⟨State.fn_updFn_ne s src k _ hne, State.fn_updFn_self hc src _, rfl⟩

/-- The hand-off before its source is unassigned. -/
def State.handedTo (s : State) (k c : Nat) (gen : Word16) (src : Nat) : State :=
  ((s.handing k c gen src).moveCtxs src k).journal (.assign (k / 256) (k % 256) true c gen)

theorem State.handedTo_kept {s : State} (hc : s.canon = true) (k c : Nat) (gen : Word16) (src : Nat) :
    FnKept Fn.content (s.takes k c gen src) (s.handedTo k c gen src) := (State.handing_kept hc k c gen src).moveCtxs.journal

theorem State.handedTo_none {s : State} (hc : s.canon = true) {k c : Nat} {gen : Word16} {src : Nat} (hne : src ≠ k) :
    (s.handedTo k c gen src).canon = true ∧ (s.handedTo k c gen src).ctxsOfClient src = [] := by
  obtain ⟨hcm, hnone⟩ := State.moveCtxs_none (State.handing_canon hc k c gen src) hne
  refine ⟨(Evolves.journal (.refl _)).canonOf ((canon_iff _).1 hcm), ?_⟩
  unfold State.ctxsOfClient State.handedTo
  rw [(Answered.refl _).journal.keepsCtxs]
  exact hnone

/-- What the hand-off leaves at the target and at the source. -/
theorem State.handed_effect {s : State} (hc : s.canon = true) {k c : Nat} {gen : Word16} {src : Nat} (hne : src ≠ k)
    (hv : (s.fn src).valid = true) :
    ((s.handed k c gen src).fn k).content = ((s.fn k).takenOver (s.fn src) c gen src s.now).content ∧
      ((s.handed k c gen src).fn src).valid = false ∧ ((s.handed k c gen src).fn src).region = [] ∧
      (s.handed k c gen src).ctxsOfClient src = [] := by
  have hk := State.handedTo_kept hc k c gen src
  have hsrc := hk.keeps src
  rw [State.fn_takes_ne s c gen hne] at hsrc
  obtain ⟨hcj, hnone⟩ := State.handedTo_none (c := c) (gen := gen) hc hne
  obtain ⟨hfk, hfs, hx⟩ := State.unassign_effect hcj hne.symm ((Fn.fields_of_content hsrc).1.trans hv)
  have htgt := hk.keeps k
  rw [State.fn_takes_self hc] at htgt
  have hd : s.handed k c gen src = (s.handedTo k c gen src).unassign src := rfl
  unfold State.ctxsOfClient
  rw [hd, hfk, hfs, hx]
  exact ⟨htgt, rfl, rfl, hnone⟩

theorem handOffs (s : State) (h : HPort) (f : Func) (c : CidT) (gen : Word16) (q : HPort) (g : Func) (hc : s.canon = true) (h0 : f.val ≠ 0) :
    let k := clientOf h.val f.val
    let src := clientOf q.val g.val
    let y := s.fn src
    let ends := decide ((s.comp c.val).st = .unbinding) || (s.comp c.val).op.any (fun o => decide (o.kind = .unbind))
    let good := y.valid && decide (y.cid = c.val ∧ y.gen = gen ∧ y.pause = .paused) && !y.logging && decide (src ≠ k)
    let bad (e : Nat) : Prop := exec (.handOff h f c gen q g) s = .next (s.updFn k (fun x => { x with err := e }))
    s.assignErr k c.val gen = 0 →
    (ends = true → bad 1) ∧ (ends = false → y.tdi ≠ .unlocked → bad 3) ∧ (ends = false → y.tdi = .unlocked → good = false → bad 5) ∧
    (ends = false → y.tdi = .unlocked → good = true → (s.comp c.val).copiesRegion = true → exec (.handOff h f c gen q g) s = .next
      (s.updFn k (fun x => { x with hand := some (c.val, gen, src) }))) ∧
    (ends = false → y.tdi = .unlocked → good = true → (s.comp c.val).copiesRegion = false → ∃ t, exec (.handOff h f c gen q g) s = .next t ∧
      (t.fn k).valid = true ∧ (t.fn k).cid = c.val ∧ (t.fn k).gen = gen ∧
      (t.fn k).lease = .lapsed ∧ (t.fn k).region = y.region ∧ (t.fn k).journal = y.journal ∧ (t.fn k).pause = .serving ∧
      (t.fn src).valid = false ∧ (t.fn src).region = [] ∧ t.ctxsOfClient src = []) := by
  intro k src y ends good bad he
  have hT {t : State} (ht : s.handOff k c.val gen src = t) : exec (.handOff h f c gen q g) s = .next t := next_congr ((if_neg h0).trans ht)
  have hE := State.handOff_eq src he
  dsimp only at hE
  have hgo (hn : ends = false) (hy : y.tdi = .unlocked) (hg : good = true) : s.handOff k c.val gen src =
      if (s.comp c.val).copiesRegion then s.updFn k (fun x => { x with hand := some (c.val, gen, src) }) else s.handed k c.val gen src := by
    refine hE.trans (if_neg (not_not.2 ?_))
    refine (if_neg (ne_true_of_eq_false hn)).trans ((if_neg (not_not.2 hy)).trans (if_neg ?_))
    exact fun hb => Bool.false_ne_true (hb.symm.trans hg)
  refine ⟨fun hn => hT ?_, fun hn hy => hT ?_, fun hn hy hg => hT ?_, fun hn hy hg hr => hT ((hgo hn hy hg).trans (if_pos hr)),
    fun hn hy hg hr => ⟨_, hT ((hgo hn hy hg).trans (if_neg (ne_true_of_eq_false hr))), ?_⟩⟩
  · rw [hE, if_pos hn]
    rfl
  · rw [hE, if_neg (ne_true_of_eq_false hn), if_pos hy]
    rfl
  · rw [hE, if_neg (ne_true_of_eq_false hn), if_neg (not_not.2 hy), if_pos (show handsOver (s.fn src) c.val gen src k = false from hg)]
    rfl
  · simp only [good, Bool.and_eq_true, decide_eq_true_eq] at hg
    obtain ⟨⟨⟨hv, _⟩, _⟩, hne⟩ := hg
    obtain ⟨hk, hs⟩ := State.handed_effect (c := c.val) (gen := gen) hc hne hv
    obtain ⟨hv', hcid, hgen, hlease, hregion, hjournal, hpause⟩ := Fn.fields_of_content hk
    exact ⟨hv', hcid, hgen, hlease, hregion, hjournal, hpause, hs⟩

/-- Settles O45: an assignment's checks read nothing that its own write of the FROM fields changes; the hand-off's target keeps what it took over
through the recalls and the log (`Fn.content`), and every context of the source goes with it. -/
theorem assignment : Obligations.Assignment := by
  intro s h f hc h0
  obtain ⟨hbusy, hgone⟩ := vfUnassigns s h f hc h0
  exact ⟨fun c gen => vfAssigns s h f c gen hc h0, fun c gen => vfAssignRefusals s h f c gen hc h0, hbusy, hgone,
    fun c gen q g => handOffs s h f c gen q g hc h0⟩

end Sys2Proof.Machine
end

section
/-! SUPPORT. TDISP interfaces and migration controls (R322 to R327, R341). -/
namespace Sys2Proof.Machine

set_option Elab.async false

/-! ## What the end of a context leaves of the functions and of the other contexts -/

/-- No function has changed but in its traffic, and no context. -/
structure CtxStill (s t : State) : Prop where
  stands : FnKept Fn.standing s t
  keepsCtxs : t.ctxs = s.ctxs

section
variable {s t : State}

theorem CtxStill.of {u : State} (h : CtxStill s t) (hf : u.host.fns = t.host.fns := by rfl) (hc : u.ctxs = t.ctxs := by rfl) : CtxStill s u :=
  ⟨h.stands.of hf, hc.trans h.keepsCtxs⟩

theorem CtxStill.ite {c : Prop} [Decidable c] {a b : State} (ha : CtxStill s a) (hb : CtxStill s b) : CtxStill s (if c then a else b) := by
  split
  · exact ha
  · exact hb

theorem CtxStill.each {α : Type} {l : List α} {f : State → α → State} (h : CtxStill s t) (hf : ∀ u a, CtxStill s u → CtxStill s (f u a)) :
    CtxStill s (t.each l f) := by
  unfold State.each
  induction l generalizing t with
  | nil => exact h
  | cons a l ih => exact ih (hf t a h)

theorem CtxStill.emit {o} (h : CtxStill s t) : CtxStill s (t.emit o) := h.of
theorem CtxStill.updUnit {n f} (h : CtxStill s t) : CtxStill s (t.updUnit n f) := h.of
theorem CtxStill.updEng {n f} (h : CtxStill s t) : CtxStill s (t.updEng n f) := h.of
theorem CtxStill.updVt {n f} (h : CtxStill s t) : CtxStill s (t.updVt n f) := h.of
theorem CtxStill.updSt {n f} (h : CtxStill s t) : CtxStill s (t.updSt n f) := h.of
theorem CtxStill.updChan {n f} (h : CtxStill s t) : CtxStill s (t.updChan n f) := h.of
theorem CtxStill.updComp {n f} (h : CtxStill s t) : CtxStill s (t.updComp n f) := h.of
theorem CtxStill.updTok {n f} (h : CtxStill s t) : CtxStill s (t.updTok n f) := h.of
theorem CtxStill.updStage {c g f} (h : CtxStill s t) : CtxStill s (t.updStage c g f) := h.of
theorem CtxStill.qFree {i n} (h : CtxStill s t) : CtxStill s (t.qFree i n) := h.of
theorem CtxStill.journal {r} (h : CtxStill s t) : CtxStill s (t.journal r) :=
  ⟨h.stands.journal, (Answered.refl t).journal.keepsCtxs.trans h.keepsCtxs⟩
theorem CtxStill.answer {r status ws} (h : CtxStill s t) : CtxStill s (t.answer r status ws) :=
  ⟨Standing.answer h.stands, (Answered.refl t).answer.keepsCtxs.trans h.keepsCtxs⟩
theorem CtxStill.putRecord {c r era rec_} (h : CtxStill s t) : CtxStill s (t.putRecord c r era rec_) :=
  ⟨Standing.putRecord h.stands, (Answered.refl t).putRecord.keepsCtxs.trans h.keepsCtxs⟩

theorem CtxStill.reply {r status ws} (h : CtxStill s t) : CtxStill s (t.reply r status ws) := by
  unfold State.reply
  split
  · exact h
  · exact h.answer

theorem CtxStill.answerDurable {r ws} (h : CtxStill s t) : CtxStill s (t.answerDurable r ws) := by
  unfold State.answerDurable
  split
  · exact CtxStill.answer ((h.of : CtxStill s { t with jrn := { t.jrn with owed := [] } }).each fun _ _ h' => h'.answer)
  · exact h.of

/-! ## Units -/

theorem CtxStill.handBack {u} (h : CtxStill s t) : CtxStill s (t.handBack u) := by
  unfold State.handBack
  split
  · exact h.qFree
  · exact h.qFree.each fun _ _ h' => h'.qFree
  · exact h.qFree

theorem CtxStill.clearUnit {u} (h : CtxStill s t) : CtxStill s (t.clearUnit u) := by
  unfold State.clearUnit
  dsimp only
  split
  · exact h.handBack.updEng
  · exact h.handBack.updVt
  · exact h.handBack.updSt

theorem CtxStill.ackWithdraw {x idx u} (h : CtxStill s t) : CtxStill s (t.ackWithdraw x idx u) := by
  unfold State.ackWithdraw
  split
  · exact h
  · exact .ite (.answer h.of) h.of

theorem CtxStill.leaveUnit {u} (h : CtxStill s t) : CtxStill s (t.leaveUnit u) := h.updUnit.each fun _ _ h' => h'.ackWithdraw
theorem CtxStill.evict {c g} (h : CtxStill s t) : CtxStill s (t.evict c g) := (h.each fun _ _ h' => h'.clearUnit.leaveUnit).updStage
theorem CtxStill.leaveAll {x} (h : CtxStill s t) : CtxStill s (t.leaveAll x) :=
  (h.each fun _ _ h' => h'.evict).each fun _ _ h' => h'.clearUnit.leaveUnit

/-! ## Memory -/

theorem CtxStill.poisonSet {ch off} (h : CtxStill s t) : CtxStill s (t.poisonSet ch off) := by
  unfold State.poisonSet
  split
  · exact h
  · exact h.updComp

theorem CtxStill.queueRow {ch row} (h : CtxStill s t) : CtxStill s (t.queueRow ch row) := .ite h h.of
theorem CtxStill.poisonBlock {ch b} (h : CtxStill s t) : CtxStill s (t.poisonBlock ch b) := h.updChan.queueRow.each fun _ _ h' => h'.poisonSet

theorem CtxStill.decodeSector {ch i err} (h : CtxStill s t) : CtxStill s (t.decodeSector ch i err).2 := by
  unfold State.decodeSector
  extract_lets -underBinder
  split
  · exact h
  · split
    · exact h
    · extract_lets -underBinder _ _ t1
      have h1 : CtxStill s t1 := h.updChan
      exact .ite h1.queueRow h1
    · dsimp only
      exact h.updChan.queueRow.poisonSet
    · dsimp only
      exact h.poisonBlock

theorem CtxStill.rdSector {ch i keysel cls err} (h : CtxStill s t) : CtxStill s (t.rdSector ch i keysel cls err).2.2 := by
  unfold State.rdSector
  dsimp only
  split
  · exact h.decodeSector.updChan
  · exact h.decodeSector.updChan

theorem CtxStill.wrSector {ch i keysel cls d} (h : CtxStill s t) : CtxStill s (t.wrSector ch i keysel cls d) := h.updChan

theorem CtxStill.wrPartial {ch i keysel cls d mask err} (h : CtxStill s t) : CtxStill s (t.wrPartial ch i keysel cls d mask err).2 := by
  unfold State.wrPartial
  dsimp only
  split
  · exact h.rdSector
  · exact h.rdSector.wrSector

theorem CtxStill.wrSectorErr {ch i keysel cls d err} (h : CtxStill s t) : CtxStill s (t.wrSectorErr ch i keysel cls d err) := by
  unfold State.wrSectorErr
  split
  · exact h.poisonBlock.wrSector
  · exact h.wrSector

theorem CtxStill.serve {r ovr} (h : CtxStill s t) : CtxStill s (t.serve r ovr) := by
  unfold State.serve
  extract_lets -underBinder t1
  have h1 : CtxStill s t1 := .ite h.updChan h
  split
  exacts [h1.rdSector.emit, h1.wrSectorErr.emit, .ite h1.wrPartial.emit h1.wrPartial.emit]

theorem CtxStill.serveKey {ch slot fuel} (h : CtxStill s t) : CtxStill s (t.serveKey ch slot fuel) := by
  induction fuel generalizing t with
  | zero => exact h
  | succ n ih =>
    unfold State.serveKey
    dsimp only
    split
    · exact h
    · exact ih h.updChan.serve

theorem CtxStill.freeHeld {pkg} (h : CtxStill s t) : CtxStill s (t.freeHeld pkg) := h.of
theorem CtxStill.enter {r} (h : CtxStill s t) : CtxStill s (t.enter r) := .ite h.updChan h.serve

theorem CtxStill.letIn {ch fuel} (h : CtxStill s t) : CtxStill s (t.letIn ch fuel) := by
  induction fuel generalizing t with
  | zero => exact h
  | succ n ih =>
    unfold State.letIn
    split
    · exact h
    · exact .ite (ih h.updChan.freeHeld.enter) h

theorem CtxStill.serveSlot {slot} (h : CtxStill s t) : CtxStill s (t.serveSlot slot) :=
  h.each fun _ _ h' => .ite ((h'.serveKey.updChan.each fun _ _ h1 => h1.freeHeld.serve).each fun _ _ h1 => h1.letIn) h'

theorem CtxStill.withdrawSlot {k} (h : CtxStill s t) : CtxStill s (t.withdrawSlot k) := h.serveSlot.of

/-! ## Tokens and work -/

theorem CtxStill.ackHandoff {k o} (h : CtxStill s t) : CtxStill s (t.ackHandoff k o) := by
  unfold State.ackHandoff
  dsimp only
  split
  · exact h.journal.updTok
  · exact h.journal.updTok.answerDurable

theorem CtxStill.releaseToken {k} (h : CtxStill s t) : CtxStill s (t.releaseToken k) :=
  have h1 := h.each (l := (t.token k).owed) (f := fun s o => s.ackHandoff k o) fun _ _ h' => h'.ackHandoff
  .ite h1.updTok.journal.reply h1.updTok.journal

theorem CtxStill.settleBatch {c} (h : CtxStill s t) : CtxStill s (t.settleBatch c) := by
  unfold State.settleBatch
  dsimp only
  split
  · exact h
  · exact .ite h.updComp (.ite h h.updComp)

theorem CtxStill.strip {x} (h : CtxStill s t) : CtxStill s (t.strip x) := (h.leaveAll.each fun _ _ h' => h'.releaseToken).withdrawSlot

end

/-- No function has changed but in its traffic, and every context has its client, and is free, as before. -/
structure Parting (s t : State) : Prop where
  stands : FnKept Fn.standing s t
  wf : Map.wf {} t.ctxs = true
  held : ∀ x, ((t.ctx x).st = .free ↔ (s.ctx x).st = .free) ∧ (t.ctx x).client = (s.ctx x).client

section
variable {s t : State}

theorem Parting.refl {s : State} (h : s.canon = true) : Parting s s := ⟨FnKept.refl h, State.ctxs_wf h, fun _ => ⟨Iff.rfl, rfl⟩⟩

/-- A step that changes no context. -/
theorem Parting.still {u : State} (h : Parting s t) (hu : CtxStill t u) : Parting s u := by
  refine ⟨h.stands.trans hu.stands, hu.keepsCtxs ▸ h.wf, fun x => ?_⟩
  rw [show u.ctx x = t.ctx x from congrArg (fun m => Map.get ({} : Ctx) m x) hu.keepsCtxs]
  exact h.held x

theorem Parting.stays (h : Parting s t) : CtxStill t t := ⟨⟨h.stands.wf, fun _ => rfl⟩, rfl⟩

theorem Parting.each {α : Type} {l : List α} {f : State → α → State} (h : Parting s t) (hf : ∀ u a, Parting s u → Parting s (f u a)) :
    Parting s (t.each l f) := by
  unfold State.each
  induction l generalizing t with
  | nil => exact h
  | cons a l ih => exact ih (hf t a h)

/-- An update of a context that leaves its client and whether it is free. -/
theorem Parting.updCtx {x f} (h : Parting s t) (hf : ((f (t.ctx x)).st = .free ↔ (t.ctx x).st = .free) ∧ (f (t.ctx x)).client = (t.ctx x).client) :
    Parting s (t.updCtx x f) := by
  refine ⟨h.stands.of, Map.upd_wf _ x f _ h.wf, fun y => ?_⟩
  by_cases hyx : y = x
  · subst hyx
    rw [show (t.updCtx y f).ctx y = f (t.ctx y) from Map.get_upd_self ({} : Ctx) y f _ h.wf]
    exact ⟨hf.1.trans (h.held y).1, hf.2.trans (h.held y).2⟩
  · rw [State.ctx_updCtx_ne t x y f hyx]
    exact h.held y

theorem Parting.ctxIdle {x} (h : Parting s t) (hst : (t.ctx x).st ≠ .free) : Parting s (t.ctxIdle x) := by
  unfold State.ctxIdle
  dsimp only
  split
  · have h1 := h.updCtx (x := x) (f := fun k => { k with st := .quiesced, debtUs := 0 }) ⟨iff_of_false nofun hst, rfl⟩
    exact h1.still h1.stays.journal
  · refine h.updCtx ⟨iff_of_false ?_ hst, rfl⟩
    dsimp only
    split <;> nofun

theorem Parting.settleCtx {x} (h : Parting s t) : Parting s (t.settleCtx x) := by
  unfold State.settleCtx
  dsimp only
  split
  · exact h
  · split
    · next hst =>
      split
      · exact h.ctxIdle (by rw [hst]; decide)
      · exact h
    · next hst =>
      split
      · exact h
      · have he := h.stays.each (l := t.residentOn x) (f := fun s g => s.evict (t.ctx x).cid g) fun _ _ h' => h'.evict
        refine (h.still he).ctxIdle ?_
        rw [show State.ctx _ x = t.ctx x from congrArg (fun m => Map.get ({} : Ctx) m x) he.keepsCtxs, hst]
        decide
    · exact h

theorem Parting.finishWork {w status} (h : Parting s t) : Parting s (t.finishWork w status) := by
  unfold State.finishWork
  split
  · exact h
  · refine Parting.settleCtx (h.still (CtxStill.settleBatch (.putRecord (.each ?_ fun _ _ h' => h'.updStage))))
    exact .ite h.stays.of h.stays.of

theorem Parting.discardIf {p code} (h : Parting s t) : Parting s (t.discardIf p code) := h.each fun _ _ h' => h'.finishWork

theorem Parting.startTeardown {x code req} (h : Parting s t) : Parting s (t.startTeardown x code req) := by
  unfold State.startTeardown
  split
  · exact h
  · exact h
  · next hst _ =>
    refine h.discardIf.updCtx ⟨iff_of_false nofun fun hf => hst ?_, rfl⟩
    exact (h.held x).1.2 (((h.discardIf (p := fun w => w.xid == x) (code := code)).held x).1.1 hf)

end

/-- A teardown that starts stands at TEARDOWN. -/
theorem State.startTeardown_st {s : State} (hc : s.canon = true) {x : Nat} (h : (s.ctx x).st ≠ .free) (code : Nat) (req : Request) :
    ((s.startTeardown x code req).ctx x).st = .teardown := by
  unfold State.startTeardown
  split
  · next hst => exact absurd hst h
  · next hst => exact hst
  · exact congrArg Ctx.st (State.ctx_updCtx_self ((Evolves.discardIf (.refl s)).canonOf ((canon_iff s).1 hc)) x _)

theorem State.finishTeardown_idle {s : State} {x : Nat} (h : (s.ctx x).st ≠ .teardown) : s.finishTeardown x = s := by
  unfold State.finishTeardown
  dsimp only
  split
  · next hst => exact absurd hst h
  · rfl

theorem FnKept.unlist {β : Type} {π : Fn → β} {s t : State} {x : Nat} (h : FnKept π s t) : FnKept π s (t.unlist x) := h.of
theorem FnKept.unname {β : Type} {π : Fn → β} {s t : State} {x : Nat} (h : FnKept π s t) : FnKept π s (t.unname x) := h.of

theorem Standing.reply {s t : State} {r status ws} (h : FnKept Fn.standing s t) : FnKept Fn.standing s (t.reply r status ws) := by
  unfold State.reply
  split
  · exact h
  · exact Standing.answer h

theorem State.unlist_ctx_ne (s : State) {x y : Nat} (hy : y ≠ x) : (s.unlist x).ctx y = s.ctx y := Map.get_upd_ne ({} : Ctx) x y (fun _ => {}) s.ctxs hy

/-- The end of a teardown leaves the functions but their traffic, and every other context. -/
theorem State.finishTeardown_others {s : State} (hc : s.canon = true) {x : Nat} (h : (s.ctx x).st = .teardown) :
    FnKept Fn.standing s (s.finishTeardown x) ∧ ∀ y, y ≠ x → (s.finishTeardown x).ctx y = s.ctx y := by
  have hs : CtxStill s (s.strip x) := CtxStill.strip ⟨FnKept.refl hc, rfl⟩
  rw [State.finishTeardown_eq h]
  refine ⟨Standing.reply hs.stands.unlist.journal.unname, fun y hy => ?_⟩
  rw [(Answered.refl _).reply.ctx, State.unname_ctx, (Answered.refl _).journal.ctx, State.unlist_ctx_ne _ hy]
  exact congrArg (fun m => Map.get ({} : Ctx) m y) hs.keepsCtxs

/-- A context that is torn down at once. -/
def State.tornDown (s : State) (x : Nat) : State := (s.startTeardown x 0x0208 Request.zero).finishTeardown x

theorem State.tornDown_canon {s : State} (hc : s.canon = true) (x : Nat) : (s.tornDown x).canon = true :=
  (Evolves.finishTeardown (.startTeardown (.refl s))).canonOf ((canon_iff s).1 hc)

/-- After its teardown a context is free; every other has its client, and is free, as before. -/
theorem State.tornDown_effect {s : State} (hc : s.canon = true) (x : Nat) :
    FnKept Fn.standing s (s.tornDown x) ∧ ((s.tornDown x).ctx x).st = .free ∧
      ∀ y, y ≠ x → (((s.tornDown x).ctx y).st = .free ↔ (s.ctx y).st = .free) ∧ ((s.tornDown x).ctx y).client = (s.ctx y).client := by
  have hp := (Parting.refl hc).startTeardown (x := x) (code := 0x0208) (req := Request.zero)
  by_cases hx : (s.ctx x).st = .free
  · have hs : s.startTeardown x 0x0208 Request.zero = s := by
      unfold State.startTeardown
      rw [hx]
    have ht : s.tornDown x = s := (congrArg (fun u : State => u.finishTeardown x) hs).trans (State.finishTeardown_idle (by rw [hx]; decide))
    rw [ht]
    exact ⟨FnKept.refl hc, hx, fun _ _ => ⟨Iff.rfl, rfl⟩⟩
  · have hc1 : (s.startTeardown x 0x0208 Request.zero).canon = true := (Evolves.startTeardown (.refl s)).canonOf ((canon_iff s).1 hc)
    have hst := State.startTeardown_st hc hx 0x0208 Request.zero
    obtain ⟨hf, ho⟩ := State.finishTeardown_others hc1 hst
    refine ⟨hp.stands.trans hf, congrArg Ctx.st (State.finishTeardown_effect hc1 hst).1, fun y hy => ?_⟩
    rw [show (s.tornDown x).ctx y = (s.startTeardown x 0x0208 Request.zero).ctx y from ho y hy]
    exact hp.held y

/-- Once every context of a client has been torn down it holds none, and its function stands. -/
theorem State.tornDown_each {f : Nat} (l : List Nat) :
    ∀ {s : State}, s.canon = true → (∀ x, (s.ctx x).st ≠ .free → (s.ctx x).client = f → x ∈ l) →
      let t := s.each l State.tornDown
      t.canon = true ∧ FnKept Fn.standing s t ∧ ∀ x, (t.ctx x).st ≠ .free → (t.ctx x).client ≠ f := by
  induction l with
  | nil => exact fun hc h => ⟨hc, FnKept.refl hc, fun x hst hx => absurd (h x hst hx) List.not_mem_nil⟩
  | cons a l ih =>
    intro s hc h
    obtain ⟨hf, ha, ho⟩ := State.tornDown_effect hc a
    obtain ⟨hc', hf', hn⟩ := ih (State.tornDown_canon hc a) fun x hst hx => by
      by_cases hxa : x = a
      · subst hxa
        exact absurd ha hst
      · obtain ⟨hfr, hcl⟩ := ho x hxa
        exact (List.mem_cons.1 (h x (fun hs => hst (hfr.2 hs)) (hcl.symm.trans hx))).resolve_left hxa
    exact ⟨hc', hf.trans hf', hn⟩

/-! ## Interfaces -/

theorem stopInterfaces (s : State) (h : HPort) (f : Func) :
    let k := clientOf h.val f.val
    (s.fn k).tdi ≠ .unlocked → s.canon = true → ∃ t, exec (.stopInterface h f) s = .next t ∧ (t.fn k).tdi = .unlocked ∧
      (t.fn k).pause = .serving ∧ (t.fn k).lease ≠ .held ∧ t.ctxsOfClient k = [] := by
  intro k ht hc
  have hcl : (s.lapse k).canon = true := (Evolves.lapse (.refl s)).canonOf ((canon_iff s).1 hc)
  obtain ⟨hl, _⟩ := State.lapse_lease hc k
  obtain ⟨hcu, hf, hn⟩ := State.tornDown_each ((s.lapse k).ctxsOfClient k) hcl fun x => State.mem_ctxsOfClient
  have hfn := State.fn_updFn_self hcu k (fun x => { x with tdi := .unlocked, pause := .serving })
  refine ⟨((s.lapse k).each ((s.lapse k).ctxsOfClient k) State.tornDown).updFn k (fun x => { x with tdi := .unlocked, pause := .serving }),
    next_congr (if_neg ht), ?_⟩
  rw [hfn]
  refine ⟨rfl, rfl, ?_, State.ctxsOfClient_eq_nil hcu hn⟩
  have hlease := (Standing.lease hf k).trans hl
  dsimp only
  rw [hlease]
  split
  · nofun
  · assumption

theorem lockInterfaces (s : State) (h : HPort) (f : Func) :
    let k := clientOf h.val f.val
    let x := s.fn k
    (x.tdi = .unlocked → x.valid = true → x.rings.any (fun e => e.2.on) = false →
      (s.holdsClear k = false → exec (.lockInterface h f) s = .next ((s.updFn k (fun x => { x with tdi := .locked })).emit
        (.tdi (k / 256) (k % 256) 0x1000000 (hostBaseOf k) (2 ^ 45 + 2 ^ 30) x.cid x.gen.toNat (s.comp x.cid).shape))) ∧
      (s.holdsClear k = true → exec (.lockInterface h f) s = .next ((s.emit (.tdispError (k / 256) (k % 256))).secCode 0x040C))) ∧
    (x.tdi ≠ .unlocked → exec (.lockInterface h f) s = .next (s.emit (.tdispError (k / 256) (k % 256)))) := by
  intro k x
  refine ⟨fun ht hv hr => ?_, fun ht => next_congr (if_pos (.inl ht))⟩
  have hok : ¬(x.tdi ≠ .unlocked ∨ (!x.valid) = true ∨ x.rings.any (fun e => e.2.on) = true) :=
    not_or.2 ⟨not_not.2 ht, not_or.2 ⟨ne_true_of_eq_false (congrArg not hv), ne_true_of_eq_false hr⟩⟩
  exact ⟨fun hh => next_congr ((if_neg hok).trans (if_neg (ne_true_of_eq_false hh))), fun hh => next_congr ((if_neg hok).trans (if_pos hh))⟩

/-! ## Migration controls -/

theorem migControls (s : State) (h : HPort) (f : Func) :
    let k := clientOf h.val f.val
    let x := s.fn k
    x.tdi = .unlocked →
      (x.logBase ≠ 0 → exec (.logStart h f) s = .next (s.updFn k (fun x =>
        { x with logging := true, logTail := 0, logHead := 0, ovf := false }))) ∧
      (exec (.logStop h f) s = .next (s.updFn k (fun x => { x with logging := false }))) ∧
      (x.valid = true → x.pause = .serving → exec (.pause h f) s = .next (s.updFn k (fun x => { x with pause := .pausing }))) ∧
      (x.pause ≠ .serving → exec (.migResume h f) s = .next (s.updFn k (fun x => { x with pause := .serving, renewed := s.now }))) := by
  intro k x ht
  exact ⟨fun hb => next_congr ((if_pos ht).trans (State.updFn_congr s k (if_neg hb))), next_congr (if_pos ht),
    fun hv hp => next_congr ((if_pos ht).trans (State.updFn_congr s k (if_pos ⟨hv, hp⟩))),
    fun hp => next_congr ((if_pos ht).trans (State.updFn_congr s k (if_neg hp)))⟩

theorem State.pauseDone_of {s : State} {k : Nat} (hp : (s.fn k).pause = .pausing) (hw : s.allWork.any (fun e => e.2.client == k) = false) :
    s.pauseDone k =
      (let t := s.each (s.ctxsOfClient k) (fun s x => s.saveCtx x)
       let busy := (t.ctxsOfClient k).any (fun x => !(t.heldOn x).isEmpty || decide ((t.ctx x).st = .resetting))
       if busy || (t.fn k).rings.any (fun e => !e.2.retry.isEmpty) then t else t.updFn k (fun x => { x with pause := .paused })) :=
  if_pos ⟨hp, hw⟩

/-- What a pause waits for, as the model asks. -/
theorem State.paused_iff (t : State) (k : Nat) :
    ((t.ctxsOfClient k).all (fun x => (t.heldOn x).isEmpty && decide ((t.ctx x).st ≠ .resetting)) &&
      (t.fn k).rings.all (fun e => e.2.retry.isEmpty)) =
    !((t.ctxsOfClient k).any (fun x => !(t.heldOn x).isEmpty || decide ((t.ctx x).st = .resetting)) ||
      (t.fn k).rings.any (fun e => !e.2.retry.isEmpty)) := by
  simp only [Bool.not_or, List.not_any_eq_all_not, Bool.not_not, decide_not]

theorem pauseCompletes (s : State) (h : HPort) (f : Func) :
    let k := clientOf h.val f.val
    let x := s.fn k
    (x.pause = .pausing → s.allWork.any (fun e => e.2.client == k) = true → exec (.pauseComplete h f) s = .next s) ∧
    (x.pause = .pausing → s.allWork.any (fun e => e.2.client == k) = false →
      let t := s.each (s.ctxsOfClient k) (fun s x => s.saveCtx x)
      let done := (t.ctxsOfClient k).all (fun x => (t.heldOn x).isEmpty && decide ((t.ctx x).st ≠ .resetting)) &&
        (t.fn k).rings.all (fun e => e.2.retry.isEmpty)
      (done = true → exec (.pauseComplete h f) s = .next (t.updFn k (fun x => { x with pause := .paused }))) ∧
      (done = false → exec (.pauseComplete h f) s = .next t)) := by
  intro k x
  refine ⟨fun hp hw => next_congr (if_neg fun h => Bool.false_ne_true (h.2.symm.trans hw)), fun hp hw => ?_⟩
  intro t done
  have hT := State.pauseDone_of hp hw
  have hd : done = _ := State.paused_iff t k
  refine ⟨fun h => next_congr (hT.trans (if_neg ?_)), fun h => next_congr (hT.trans (if_pos ?_))⟩
  · rw [h, eq_comm, Bool.not_eq_true'] at hd
    exact ne_true_of_eq_false hd
  · rw [h, eq_comm, Bool.not_eq_false'] at hd
    exact hd

theorem logHeads (s : State) (h : HPort) (f : Func) (v : Word32) :
    let k := clientOf h.val f.val
    let x := s.fn k
    (sub32 v.toNat x.logHead ≤ sub32 x.logTail x.logHead →
      exec (.logheadWrite h f v) s = .next (s.updFn k (fun x => { x with logHead := v.toNat }))) ∧
    (s.canon = true → sub32 x.logTail x.logHead < sub32 v.toNat x.logHead → ∃ t, exec (.logheadWrite h f v) s = .next t ∧ t.fn k = x) := by
  intro k x
  refine ⟨fun hv => next_congr (State.updFn_congr s k (if_pos hv)), fun hc hv => ⟨s.logHeadWrite k v.toNat, rfl, ?_⟩⟩
  exact (State.fn_updFn_self hc k _).trans (if_neg (Nat.not_le.2 hv))

/-- Settles O46: each event unfolds to its one branch; the teardown of an interface's contexts is followed context by context
(`State.tornDown_effect`), and leaves the function's lease as its lapse made it. -/
theorem interfacesAndMigration : Obligations.InterfacesAndMigration := by
  intro s h f
  obtain ⟨hlock, hlocked⟩ := lockInterfaces s h f
  obtain ⟨hbusy, hpause⟩ := pauseCompletes s h f
  exact ⟨hlock, hlocked, fun ht => next_congr (if_pos ht), fun ht => next_congr (if_neg ht), stopInterfaces s h f, fun ht => next_congr (if_pos ht),
    migControls s h f, fun v => (logHeads s h f v).1, fun v => (logHeads s h f v).2, hbusy, hpause⟩

end Sys2Proof.Machine
end

section
/-! SUPPORT. The root of trust, and attestation (R333 to R349). -/
namespace Sys2Proof.Machine

set_option Elab.async false

/-! ## Culture signers -/

/-- The four parts of an enrolment's buffer. -/
theorem enrolParts (rsa slh p1 p2 : List Byte) (h1 : slh.length = 48) (h2 : p1.length = 384) (h3 : p2.length = 16224) :
    let b := rsa ++ slh ++ p1 ++ p2
    b.length = rsa.length + 48 + 384 + 16224 ∧ b.take rsa.length = rsa ∧ (b.drop rsa.length).take 48 = slh ∧
      (b.drop (rsa.length + 48)).take 384 = p1 ∧ b.drop (rsa.length + 432) = p2 := by
  intro b
  have hb : b = rsa ++ (slh ++ (p1 ++ p2)) := by simp only [b, List.append_assoc]
  have hd : b.drop rsa.length = slh ++ (p1 ++ p2) := by rw [hb, List.drop_left]
  have hd1 : b.drop (rsa.length + 48) = p1 ++ p2 := by rw [← List.drop_drop, hd, List.drop_left' h1]
  have hd2 : b.drop (rsa.length + 432) = p2 := by
    rw [show rsa.length + 432 = rsa.length + 48 + 384 from rfl, ← List.drop_drop, hd1, List.drop_left' h2]
  refine ⟨?_, ?_, ?_, ?_, hd2⟩
  · simp only [b, List.length_append, h1, h2, h3]
  · rw [hb, List.take_left]
  · rw [hd, List.take_left' h1]
  · rw [hd1, List.take_left' h2]

/-- An enrolment whose buffer holds the two keys and the two proofs. -/
theorem State.signerEnroll_of {s : State} {r : Request} {rsa slh p1 p2 : List Byte} (hr : s.roleHalted 0 = false)
    (hb : s.bufferOf r = some (rsa ++ slh ++ p1 ++ p2)) (h0 : rsa.length = bits r.p0 15 0) (h1 : slh.length = 48) (h2 : p1.length = 384)
    (h3 : p2.length = 16224) :
    s.signerEnroll r =
      let id := Config.sha384 (rsa ++ slh)
      let d := octetsOf (Config.sha384 (leBytes Config.modSerial.toNat 8 ++ octetsOf id))
      let i := Map.firstFree s.sec.signers
      if !(Config.rsaVerify rsa d p1 && Config.slhVerify slh enrolCtx d p2) then (s.secCode 0x0407).answer r 0x0407 []
      else if (s.signerOf id).isSome then s.answer r 0 []
      else if 16 ≤ i then (s.secCode 0x0406).answer r 0x0406 []
      else (s.setSigner i (some { id := id, rsa := rsa, slh := slh })).answer r 0 [] := by
  obtain ⟨hl, ht, ht1, ht2, ht3⟩ := enrolParts rsa slh p1 p2 h1 h2 h3
  unfold State.signerEnroll
  dsimp only at hl ht ht1 ht2 ht3 ⊢
  rw [if_neg (ne_true_of_eq_false hr), hb]
  dsimp only
  rw [← h0, if_neg (not_not.2 hl), ht, ht1, ht2, ht3]

theorem signerEnrolls (s : State) (r : Request) (rsa slh p1 p2 : List Byte) (hr : s.roleHalted 0 = false)
    (hb : s.bufferOf r = some (rsa ++ slh ++ p1 ++ p2)) (h0 : rsa.length = bits r.p0 15 0) (h1 : slh.length = 48) (h2 : p1.length = 384)
    (h3 : p2.length = 16224) :
    let id := Config.sha384 (rsa ++ slh)
    let d := octetsOf (Config.sha384 (leBytes Config.modSerial.toNat 8 ++ octetsOf id))
    ((Config.rsaVerify rsa d p1 && Config.slhVerify slh enrolCtx d p2) = false →
      exec (.signerEnroll r) s = .next ((s.secCode 0x0407).answer r 0x0407 [])) ∧
    ((Config.rsaVerify rsa d p1 && Config.slhVerify slh enrolCtx d p2) = true → s.signerOf id = none →
      (Map.firstFree s.sec.signers < 16 → exec (.signerEnroll r) s = .next
        ((s.setSigner (Map.firstFree s.sec.signers) (some { id := id, rsa := rsa, slh := slh })).answer r 0 [])) ∧
      (16 ≤ Map.firstFree s.sec.signers → exec (.signerEnroll r) s = .next ((s.secCode 0x0406).answer r 0x0406 []))) := by
  intro id d
  have hE := State.signerEnroll_of hr hb h0 h1 h2 h3
  refine ⟨fun hk => next_congr (hE.trans (if_pos (congrArg not hk))), fun hk hn => ?_⟩
  have hgo {t} (h : _ = t) := hE.trans ((if_neg (ne_true_of_eq_false (congrArg not hk))).trans
    ((if_neg (ne_true_of_eq_false (congrArg Option.isSome hn))).trans (h : _ = t)))
  exact ⟨fun hi => next_congr (hgo (if_neg (Nat.not_le.2 hi))), fun hi => next_congr (hgo (if_pos hi))⟩

theorem signerRevokes (s : State) (r : Request) (hr : s.roleHalted 0 = false) :
    let live := s.sec.signers.find? (fun e => e.2.any (fun g => g.id == r.signer && !g.revoked))
    (∀ i g, live = some (i, some g) → exec (.signerRevoke r) s = .next
      ((s.setSigner i (some { g with revoked := true })).answer r 0 [])) ∧
    (∀ i, live = none → s.signerSlot r.signer = some i →
      s.comps.any (fun e => decide (e.2.st ≠ .free) && e.2.signers.contains r.signer) = false →
      exec (.signerRevoke r) s = .next ((s.setSigner i none).answer r 0 [])) ∧
    (live = none → s.signerSlot r.signer = none → exec (.signerRevoke r) s = .next ((s.secCode 0x0408).answer r 0x0408 [])) := by
  intro live
  refine ⟨fun i g hl => next_congr ((if_neg (ne_true_of_eq_false hr)).trans ?_), fun i hl hi hc => next_congr ((if_neg (ne_true_of_eq_false hr)).trans ?_),
    fun hl hi => next_congr ((if_neg (ne_true_of_eq_false hr)).trans ?_)⟩
  · rw [show s.sec.signers.find? _ = some (i, some g) from hl]
  · rw [show s.sec.signers.find? _ = none from hl, hi]
    exact if_neg (ne_true_of_eq_false hc)
  · rw [show s.sec.signers.find? _ = none from hl, hi]

/-! ## Keyslots and the debug token -/

theorem keyslotChanges (s : State) (k : Fin 4096) (n : Nat) (b : Bool) :
    ((s.kslot k.val).hold = .free →
      exec (.keyslotChange k true n b) s = .next (s.grantSlot k.val (if b then .shared n else .ctx n))) ∧
    ((s.kslot k.val).hold ≠ .free → exec (.keyslotChange k false n b) s = .next (s.withdrawSlot k.val)) :=
  ⟨fun h => next_congr ((if_pos rfl).trans (if_pos (decide_eq_true h))),
    fun h => next_congr ((if_neg Bool.false_ne_true).trans (if_neg (ne_true_of_eq_false (decide_eq_false h))))⟩

theorem debugTokens (s : State) :
    (∀ n, 0 < n →
      let t := s.each ((s.ctxs.filter (fun e => decide (e.2.st ≠ .free))).map (fun e => e.1)) (fun s x =>
        (s.startTeardown x 0x0201 Request.zero).finishTeardown x)
      exec (.debugToken true n) s = .next ((({ t with sec := { t.sec with debugUsedBlown := true, debugActive := true, token := n } } : State).journal
        (.setting .debugToken n)).measureFuse)) ∧
    (∀ n, exec (.debugToken false n) s = .next (s.secCode 0x040D)) :=
  ⟨fun _ hn => next_congr (if_neg (not_or.2 ⟨Bool.false_ne_true, Nat.pos_iff_ne_zero.1 hn⟩)), fun _ => next_congr (if_pos (.inl rfl))⟩

theorem rootOfTrust : Clauses.RootOfTrust := by
  intro s
  obtain ⟨hvalid, hother⟩ := debugTokens s
  exact ⟨⟨fun h => next_congr (if_pos h), fun h => next_congr (if_neg (ne_true_of_eq_false h))⟩,
    fun r rsa slh p1 p2 => signerEnrolls s r rsa slh p1 p2, fun r => signerRevokes s r, fun k n b => keyslotChanges s k n b, hvalid, hother⟩

/-! ## Attestation -/

theorem State.spdm_serves {s : State} (hr : s.sec.recovery = false) (ha : s.secAway = false) (q : SpdmReq) : s.spdm q = s.spdmServe q :=
  (if_neg (ne_true_of_eq_false hr)).trans (if_neg (ne_true_of_eq_false ha))

theorem State.spdm_waits {s : State} (hr : s.sec.recovery = false) (ha : s.secAway = true) (q : SpdmReq) :
    s.spdm q = { s with sec := { s.sec with waits := s.sec.waits ++ [q] } } := (if_neg (ne_true_of_eq_false hr)).trans (if_pos ha)

theorem State.spdm_recovery {s : State} (hr : s.sec.recovery = true) (q : SpdmReq) : s.spdm q = s := if_pos hr

/-- Another request: its sessions, its transcript and the standard's answer. -/
theorem State.spdmServe_other {s : State} (conn : Nat) (bs : List Byte) (b : Bool) (h : (nth 0 bs 1).toNat ≠ 0xE4 ∨ s.sec.sessions.length < 8) :
    let code := (nth 0 bs 1).toNat
    let ss := if code = 0xE4 then s.sec.sessions ++ [conn] else if code = 0xEC then s.sec.sessions.erase conn else s.sec.sessions
    let hs := if b then Map.upd [] conn (fun l => (Config.spdmTranscript bs :: l).take 4) s.sec.hashes else s.sec.hashes
    s.spdmServe (.other conn bs b) =
      ({ s with sec := { s.sec with sessions := ss, hashes := hs } } : State).emit (.answer conn (Config.spdmAnswer bs)) := by
  intro code ss hs
  refine (if_neg fun hc => h.elim (fun h => h hc.1) (fun h => absurd hc.2 (by omega))).trans ?_
  cases b <;> rfl

/-- Every value of a table under a change that keeps the default. -/
theorem Map.get_mapV {β : Type} [DecidableEq β] {d : β} {f : Nat → β → β} (hf : ∀ k, f k d = d) (k : Nat) :
    ∀ m : Map β, Map.wf d m = true → Map.get d (Map.mapV d f m) k = f k (Map.get d m k)
  | [], _ => (hf k).symm
  | (k', v) :: r, hw => by
    obtain ⟨_, hk, hr⟩ := (Map.wf_cons d v k' r).1 hw
    have ih := Map.get_mapV hf k r hr
    unfold Map.mapV at ih ⊢
    rw [List.map_cons, List.filter_cons]
    by_cases hkk : k' = k
    · subst hkk
      have hg : Map.get d ((k', v) :: r) k' = v := if_pos rfl
      rw [hg]
      split
      · exact if_pos rfl
      · next hd =>
        rw [ih, Map.get_of_lt d k' r hk, hf]
        exact (not_not.1 fun hne => hd (decide_eq_true hne)).symm
    · have hg : Map.get d ((k', v) :: r) k = Map.get d r k := if_neg hkk
      rw [hg]
      split
      · exact (if_neg hkk).trans ih
      · exact ih

theorem State.ctx_tcPublish {s : State} (hc : s.canon = true) (x : Nat) :
    s.tcPublish.ctx x = { s.ctx x with pub := Map.mapV 0 (fun _ r => (r >>> 10) <<< 10) (s.ctx x).raw } :=
  Map.get_mapV (d := ({} : Ctx)) (f := fun _ x => { x with pub := Map.mapV 0 (fun _ r => (r >>> 10) <<< 10) x.raw }) (fun _ => rfl) x
    s.ctxs (State.ctxs_wf hc)

theorem tcWindows (s : State) (w : Nat) : ∃ t, exec (.tcWindowUpdate w) s = .next t ∧ t.sec.tcPower = min 65535 w / 50 * 50 ∧
    (s.canon = true → ∀ x i, Map.wf 0 (s.ctx x).raw = true →
      Map.get 0 (t.ctx x).pub i = (Map.get 0 (s.ctx x).raw i >>> 10) <<< 10 ∧ (t.ctx x).st = (s.ctx x).st) := by
  refine ⟨_, rfl, rfl, fun hc x i hw => ?_⟩
  have hx := State.ctx_tcPublish hc x
  have hp := Map.get_mapV (d := (0 : Word64)) (f := fun _ r => (r >>> 10) <<< 10) (fun _ => by decide) i (s.ctx x).raw hw
  exact ⟨(congrArg (fun c : Ctx => Map.get 0 c.pub i) hx :).trans hp, (congrArg Ctx.st hx :)⟩

theorem attestationServes (s : State) (hr : s.sec.recovery = false) (ha : s.secAway = false) :
    (exec (.getMeasurements 0) s = .next (s.emit (.answer 0 (leBytes 16 1)))) ∧
    (∀ i, 0 < i → i ≤ 16 → exec (.getMeasurements i) s = .next (s.emit (.answer 0 (s.measBlock i)))) ∧
    (∀ i, 16 < i → i ≠ 0xFF → exec (.getMeasurements i) s = .next (s.emit (.answer 0 (Config.spdmAnswer (leBytes i 1))))) ∧
    (exec (.getMeasurements 0xFF) s = .next (s.emit (.answer 0 ((List.range 16).flatMap (fun i => s.measBlock (i + 1)))))) ∧
    (∀ conn d, (Map.get [] s.sec.hashes conn).contains d = true → exec (.cosign conn d) s = .next
      (s.emit (.answer conn (((Config.signatureBlock spdmCtx d).drop 384).take 16224)))) ∧
    (∀ conn d, (Map.get [] s.sec.hashes conn).contains d = false → exec (.cosign conn d) s = .next
      ((s.secCode 0x040E).emit (.answer conn (leBytes 0x040E 2)))) := by
  have hs := State.spdm_serves hr ha
  refine ⟨next_congr (hs _), fun i h0 h1 => next_congr ((hs _).trans ((if_neg (by omega)).trans (if_pos h1))),
    fun i h1 hn => next_congr ((hs _).trans ((if_neg (by omega)).trans ((if_neg (by omega)).trans (if_neg hn)))), next_congr (hs _),
    fun conn d hd => next_congr ((hs _).trans (if_pos hd)), fun conn d hd => next_congr ((hs _).trans (if_neg (ne_true_of_eq_false hd)))⟩

theorem attestation : Clauses.Attestation := by
  intro s
  refine ⟨fun hr ha => ?_, fun hr i conn d c n bs b => ?_, fun hr ha => ?_, fun w => tcWindows s w⟩
  · have hs := State.spdm_serves hr ha
    obtain ⟨h0, hi, ho, hall, hco, hno⟩ := attestationServes s hr ha
    exact ⟨h0, hi, ho, hall, hco, hno, next_congr (hs _), fun c n => next_congr (hs _),
      fun conn bs b hc hl => next_congr ((hs _).trans (if_pos ⟨hc, hl⟩)),
      fun conn bs b h => next_congr ((hs _).trans (State.spdmServe_other conn bs b h))⟩
  · have hs := State.spdm_recovery hr
    exact ⟨next_congr (hs _), next_congr (hs _), next_congr (hs _), next_congr (hs _), next_congr (hs _)⟩
  · intro kept i conn d c n bs b
    have hs := State.spdm_waits hr ha
    exact ⟨next_congr (hs _), next_congr (hs _), next_congr (hs _), next_congr (hs _), next_congr (hs _)⟩

/-- Settles O47: each request unfolds to its one branch; an enrolment's buffer is read back in its four parts, and a published counter is read
off the table it stands in. -/
theorem trustAndAttestation : Obligations.TrustAndAttestation := ⟨rootOfTrust, attestation⟩

end Sys2Proof.Machine
end

section
/-! SUPPORT. Host accesses to device memory (R297, R299, R342). -/
namespace Sys2Proof.Machine

set_option Elab.async false

section
variable {s : State} {h : HPort} {f : Func}

/-- An access to the submission region of an assigned function whose port is up. -/
theorem State.hostview_region {addr : Nat} {write : Bool} {d m : BitVec 512} {tee : Bool} (h0 : f.val ≠ 0)
    (hv : (s.fn (clientOf h.val f.val)).valid = true) (hu : s.hostUp h.val = true) (hlo : 2 ^ 45 ≤ addr) (hhi : addr < 2 ^ 45 + 2 ^ 30) :
    s.hostview h.val f.val addr write d m tee .clean =
      (let l := (addr - 2 ^ 45) / 64
       let x := bytesLine ((s.fn (clientOf h.val f.val)).region.rdN (64 * l) 64)
       if write then (s.lineNotice (clientOf h.val f.val) l ((x &&& ~~~m) ||| (d &&& m))).emit (.ack 0)
       else (s.hostTx h.val 64).emit (.data x false)) := by
  refine (if_neg ?_).trans (if_pos hlo)
  exact not_or.2 ⟨h0, not_or.2 ⟨ne_true_of_eq_false (congrArg not hv), not_or.2 ⟨by omega, ne_true_of_eq_false (congrArg not hu)⟩⟩⟩

/-- The sector of device memory that a host access finds, with the range that allows it. -/
def State.hostFinds (s : State) (k addr : Nat) (w : Bool) : Option (BitVec 256 × Nat × Nat) :=
  (s.hostviewEntry k (addr / 2 ^ 39) (addr % 2 ^ 39 / 64 * 64) w).bind (fun e =>
    ((s.comp (s.ctx e.1).cid).chanAt (eAux e.2) (addr % 2 ^ 39 / 64 * 64)).map (fun l => (e.2, l)))

/-- An access to an interleave-set slot of an assigned function whose port is up, and which is not in RUN without TEE. -/
theorem State.hostview_set {addr : Nat} {write : Bool} {d m : BitVec 512} {tee : Bool} (h0 : f.val ≠ 0)
    (hv : (s.fn (clientOf h.val f.val)).valid = true) (hlo : addr < 2 ^ 45) (hu : s.hostUp h.val = true)
    (ht : (s.fn (clientOf h.val f.val)).tdi ≠ .run ∨ tee = true) :
    s.hostview h.val f.val addr write d m tee .clean =
      match s.hostFinds (clientOf h.val f.val) addr write with
      | some (e, ch, i) =>
        let s := (s.cacheKey (ch / 4) (eKeysel e)).direct ch 2
        if write then
          let s := s.updHport h.val (fun p => { p with rxBytes := p.rxBytes + 64 })
          if m = BitVec.allOnes 512 then (s.wrSectorErr ch i (eKeysel e) 2 d .clean).emit (.ack 0)
          else ((s.wrPartial ch i (eKeysel e) 2 d m .clean).2).emit (.ack 0)
        else
          let t := s.rdSector ch i (eKeysel e) 2 .clean
          (t.2.2.updHport h.val (fun p => { p with txBytes := p.txBytes + 64 })).emit (.data t.1 t.2.1)
      | none =>
        let s := ({ s with sec := { s.sec with denyHost := s.sec.denyHost + 1 } } : State).secCode 0x040A
        if write then s.emit (.ack 0) else s.emit (.data 0 true) := by
  have hr : (decide ((s.fn (clientOf h.val f.val)).tdi = .run) && !tee) = false := by
    rcases ht with ht | ht
    · rw [decide_eq_false ht, Bool.false_and]
    · rw [ht, Bool.not_true, Bool.and_false]
  unfold State.hostview
  dsimp only
  rw [if_neg (not_or.2 ⟨h0, not_or.2 ⟨ne_true_of_eq_false (congrArg not hv), not_or.2 ⟨by omega, ne_true_of_eq_false (congrArg not hu)⟩⟩⟩),
    if_neg (Nat.not_le.2 hlo), if_neg (ne_true_of_eq_false hr)]
  rfl

end

/-- Settles O48: the access's address decides its branch; a set access goes by the sector that `State.hostFinds` names. -/
theorem hostViewAccesses : Obligations.HostViewAccesses := by
  intro s h f addr d m tee
  dsimp only
  refine ⟨fun h0 hv hu hlo hhi => ⟨next_congr (State.hostview_region h0 hv hu hlo hhi), next_congr (State.hostview_region h0 hv hu hlo hhi)⟩,
    fun h0 hv hlo hu ht => ?_⟩
  have hS (w : Bool) (m : BitVec 512) := State.hostview_set (addr := addr) (write := w) (d := d) (m := m) h0 hv hlo hu ht
  refine ⟨fun e ch i he => next_congr ((hS true (BitVec.allOnes 512)).trans ?_), fun e ch i he hm => next_congr ((hS true m).trans ?_),
    fun e ch i he => next_congr ((hS false m).trans ?_), fun he => next_congr ((hS true m).trans ?_), fun he => next_congr ((hS false m).trans ?_)⟩
  · rw [show s.hostFinds (clientOf h.val f.val) addr true = some (e, ch, i) from he]
    dsimp only
    rw [if_pos rfl, if_pos rfl]
  · rw [show s.hostFinds (clientOf h.val f.val) addr true = some (e, ch, i) from he]
    exact if_neg hm
  · rw [show s.hostFinds (clientOf h.val f.val) addr false = some (e, ch, i) from he]
    rfl
  · rw [show s.hostFinds (clientOf h.val f.val) addr true = none from he]
    rfl
  · rw [show s.hostFinds (clientOf h.val f.val) addr false = none from he]
    rfl

end Sys2Proof.Machine
end

section
/-! SUPPORT. Records, lines and states of the metering die (R353 to R366). -/
namespace Sys2Proof.Machine

set_option Elab.async false

/-! ## Records -/

@[simp] theorem State.measure_pail (s : State) (i : Nat) (d : Digest) : (s.measure i d).pail = s.pail := by
  unfold State.measure
  split <;> rfl

@[simp] theorem State.measureMeter_pail (s : State) : s.measureMeter.pail = s.pail := State.measure_pail s _ _

/-- The record being signed is appended. -/
def Pail.signed (p : Pail) (r : MRec) : Pail :=
  { p with signing := none, records := p.records ++ [r], used := p.used + r.size, seq := r.seq, lastDigest := r.digest }

theorem State.pailDurable_of {s : State} {r : MRec} (h : s.pail.signing = some r) (hd : s.pail.periodicDue = false) :
    s.pailDurable =
      if r.kind = 3 then
        (((s.updPail (fun p => p.signed r)).updPail (fun p => { p with st := .metered })).mtrCode 0x080A).measureMeter
      else s.updPail (fun p => p.signed r) := by
  unfold State.pailDurable
  rw [h]
  dsimp only
  split
  · rw [State.measureMeter_pail]
    exact if_neg (ne_true_of_eq_false hd)
  · exact if_neg (ne_true_of_eq_false hd)

theorem recordDurables (s : State) (r : MRec) (h : s.pail.signing = some r) (hd : s.pail.periodicDue = false) :
    let t := s.updPail (fun p => { p with
      signing := none, records := p.records ++ [r], used := p.used + r.size, seq := r.seq, lastDigest := r.digest })
    (r.kind ≠ 3 → exec .recordDurable s = .next t) ∧
    (r.kind = 3 → exec .recordDurable s = .next (((t.updPail (fun p => { p with st := .metered })).mtrCode 0x080A).measureMeter)) :=
  have hp := State.pailDurable_of h hd
  ⟨fun hk => next_congr (hp.trans (if_neg hk)), fun hk => next_congr (hp.trans (if_pos hk))⟩

theorem recordCloses (s : State) (hm : s.pail.st = .metered) :
    (s.pail.signing = none → exec .periodicClose s = .next (s.updPail Pail.closePeriodic)) ∧
    (∀ r, s.pail.signing = some r → exec .periodicClose s = .next (s.updPail (fun p => { p with periodicDue := true }))) ∧
    (s.pail.signing = none → s.pail.fifo ≠ [] → s.pail.periodicDue = false → exec .eventClose s = .next (s.updPail Pail.closeEvent)) ∧
    (s.pail.signing = none → pailLimit ≤ s.pail.used →
      let l := s.pail.records.filter (fun r => decide (s.pail.ack < r.seq))
      recsSize l ≤ pailLimit →
      exec .pailCompaction s = .next (s.updPail (fun p => { p with records := l, used := recsSize l, thinning := false }))) := by
  have hm' : ¬s.pail.st ≠ .metered := not_not.2 hm
  refine ⟨fun hn => next_congr ((if_neg hm').trans ?_), fun r hr => next_congr ((if_neg hm').trans ?_), fun hn hf hd => next_congr ?_,
    fun hn hu => ?_⟩
  · rw [hn]
  · rw [hr]
  · refine (if_neg (not_or.2 ⟨hm', mt List.isEmpty_iff.1 hf⟩)).trans ?_
    rw [hn]
    exact congrArg (fun p => ({ s with pail := p } : State)) (if_neg (ne_true_of_eq_false hd))
  · intro l hs
    refine next_congr ((if_neg ?_).trans (if_pos hs))
    rw [hn]
    exact not_or.2 ⟨hm', not_or.2 ⟨Nat.not_lt.2 hu, Bool.false_ne_true⟩⟩

theorem labels (s : State) (c : CidT) (ha : s.pail.st ≠ .absent) :
    let g := s.pail.genOf c.val
    let b := frmBody (s.comp c.val).frames 13 0
    ((s.comp c.val).st ≠ .free → exec (.labelReceive c) s = .next (s.updPail (fun p => p.updAcct c.val (s.comp c.val).gen (fun a =>
      { a with labelled := true, labelMissing := false, profile := fle b 0 2, quantities := fle b 2 1,
               contract := BitVec.ofNat 128 (fle b 8 16) })))) ∧
    ((s.pail.acct c.val g).tracked = true → (s.pail.acct c.val g).labelled = false → exec (.labelTimeout c) s = .next
      ((s.updPail (fun p => p.updAcct c.val g (fun a => { a with labelMissing := true }))).mtrCode 0x0808)) :=
  ⟨fun hc => next_congr (if_neg (not_or.2 ⟨ha, hc⟩)),
    fun ht hl => next_congr (if_neg (not_or.2 ⟨ha, not_or.2 ⟨ne_true_of_eq_false (congrArg not ht), ne_true_of_eq_false hl⟩⟩))⟩

/-- Settles O49: each event of the pail unfolds to its one branch. -/
theorem pailRecords : Obligations.PailRecords := by
  intro s
  refine ⟨recordCloses s, recordDurables s, fun hn => next_congr ?_, labels s, fun v h1 h2 => next_congr (if_pos ⟨h1, h2⟩),
    fun v h => next_congr (if_neg (by omega))⟩
  unfold State.pailDurable
  rw [hn]

/-! ## Lines -/

theorem pailLines : Clauses.PailLines := by
  intro s ha
  have hok : ¬((!true) = true ∨ s.pail.st = .absent) := not_or.2 ⟨Bool.false_ne_true, ha⟩
  refine ⟨fun d down => next_congr (if_neg hok), fun d down => next_congr (if_pos (.inl rfl)), fun i => next_congr ((if_neg hok).trans (if_pos rfl)),
    fun i row => ?_, fun l => next_congr (if_neg ha)⟩
  intro t
  refine ⟨fun hr => next_congr ((if_neg hok).trans ?_), fun hr => next_congr ((if_neg hok).trans ?_)⟩
  · exact (if_neg (by omega)).trans ((if_pos (by omega)).trans (if_neg (by omega)))
  · exact (if_neg (by omega)).trans ((if_pos (by omega)).trans (if_pos hr))

/-! ## States -/

@[simp] theorem State.setDom_pail (s : State) (n : Nat) (on : Bool) : (s.setDom n on).pail = s.pail := rfl

/-- What a change of the pail's state makes of it. -/
theorem State.pailTo_pail (s : State) (st : PailSt) (code : Nat) : (s.pailTo st code).pail =
    { s.pail with
      st := st, gaps := if s.pail.st = .metered then sat 0xFFFFFFFF (s.pail.gaps + 1) else s.pail.gaps, signing := none, periodicDue := false,
      fifo := [], merged := 0, coalescing := false, lastCode := code } := State.measureMeter_pail _

theorem selfTests (s : State) (ppm : Nat) (hs : s.pail.st = .starting) (hn : s.pail.signing = none) :
    (exec (.pailSelfTestDone false ppm) s = .next (s.pailTo .fault 0x0802)) ∧
    (s.oscBand.2 < ppm → exec (.pailSelfTestDone true ppm) s = .next (s.pailTo .fault 0x0802)) ∧
    (ppm ≤ s.oscBand.2 → s.pail.unsealed = true ∨ s.pail.sealOpen = true →
      exec (.pailSelfTestDone true ppm) s = .next (s.pailTo .unsealed 0x0803)) ∧
    (ppm ≤ s.oscBand.2 → s.pail.unsealed = false → s.pail.sealOpen = false →
      exec (.pailSelfTestDone true ppm) s = .next (s.updPail (fun p => { p with oscFault := decide (s.oscBand.1 < ppm) }.startChain))) := by
  have h0 : ¬(s.pail.st ≠ .starting ∨ s.pail.signing.isSome = true) :=
    not_or.2 ⟨not_not.2 hs, ne_true_of_eq_false (congrArg Option.isSome hn)⟩
  have hp (h : ppm ≤ s.oscBand.2) : ¬((!true) = true ∨ s.oscBand.2 < ppm) := not_or.2 ⟨Bool.false_ne_true, Nat.not_lt.2 h⟩
  refine ⟨next_congr ((if_neg h0).trans (if_pos (.inl rfl))), fun h => next_congr ((if_neg h0).trans (if_pos (.inr h))),
    fun h hu => next_congr ((if_neg h0).trans ((if_neg (hp h)).trans (if_pos hu))), fun h hu ho => next_congr ((if_neg h0).trans ?_)⟩
  exact (if_neg (hp h)).trans (if_neg (not_or.2 ⟨ne_true_of_eq_false hu, ne_true_of_eq_false ho⟩))

theorem oscChecks (s : State) (ppm : Nat) (hm : s.pail.st = .metered) :
    (s.oscBand.2 < ppm → exec (.oscCheck ppm) s = .next (s.pailTo .fault 0x0802)) ∧
    (ppm ≤ s.oscBand.2 → s.oscBand.1 < ppm → exec (.oscCheck ppm) s = .next
      ((s.updPail (fun p => { p with oscFault := true })).mtrCode 0x0805)) ∧
    (ppm ≤ s.oscBand.2 → ppm ≤ s.oscBand.1 → exec (.oscCheck ppm) s = .next (s.updPail (fun p => { p with oscFault := false }))) := by
  have hm' : ¬s.pail.st ≠ .metered := not_not.2 hm
  exact ⟨fun h => next_congr ((if_neg hm').trans (if_pos h)),
    fun h h1 => next_congr ((if_neg hm').trans ((if_neg (Nat.not_lt.2 h)).trans (if_pos h1))),
    fun h h1 => next_congr ((if_neg hm').trans ((if_neg (Nat.not_lt.2 h)).trans (if_neg (Nat.not_lt.2 h1))))⟩

theorem pailStates : Clauses.PailStates := by
  intro s
  refine ⟨fun hp => ⟨_, next_congr (if_neg (ne_true_of_eq_false (congrArg not hp))), ?_⟩,
    fun hp => ⟨_, next_congr (if_neg (ne_true_of_eq_false hp)), rfl, rfl, rfl⟩, selfTests s, fun ha => ⟨next_congr (if_neg ha), ?_, fun hu => ?_⟩,
    oscChecks s⟩
  · rw [State.setDom_pail, State.pailTo_pail]
    exact ⟨rfl, rfl, rfl, rfl⟩
  · exact next_congr ((if_neg ha).trans (if_pos rfl))
  · exact next_congr ((if_neg ha).trans ((if_neg Bool.false_ne_true).trans (if_pos hu)))

/-- Settles O50: each frame and event of the metering die unfolds to its one branch. -/
theorem pailLinesAndStates : Obligations.PailLinesAndStates := ⟨pailLines, pailStates⟩

end Sys2Proof.Machine
end

section
/-! SUPPORT. Gating, the input and the coolant (R370 to R376, R383, R386, Table 18.1). -/
namespace Sys2Proof.Machine

set_option Elab.async false

theorem gates (s : State) (p : PartId) (hr : s.pwrRuns = true) (hst : (s.part p.val).st = .free) (hl : (s.part p.val).logicOn = true)
    (hg : s.gatesAll = true ∨ s.pwr.warm < s.warmCount ∧ s.warmOne p.val = false) :
    exec (.gateFreePartition p) s = .next (((s.each (List.range 8) (fun s k => s.updChan (8 * p.val + k) (fun c =>
      if c.st = .failed then c else { c with st := .off, secs := [] }))).updPart p.val (fun x =>
        { x with logicOn := false, retOn := false })).setClock p.val 0 0) :=
  next_congr ((if_pos ⟨hr, hg.imp_right fun h => ⟨h.1, congrArg not h.2⟩⟩).trans (if_pos ⟨hst, hl⟩))

theorem warmUps (s : State) (p : PartId) (hr : s.pwrRuns = true) (hst : (s.part p.val).st = .free) (hl : (s.part p.val).logicOn = false)
    (hw : s.warmOne p.val = true) (hg : s.gatesAll = false) (hk : s.railsOk p.val = true) :
    exec (.warmPowerUp p) s = .next (((s.each (List.range 8) (fun s k => s.updChan (8 * p.val + k) (fun c =>
      if c.st = .failed then c else { c with st := .ready, secs := [] }))).updPart p.val (fun x =>
        { x with logicOn := true, retOn := true })).setClock p.val 400 1) :=
  next_congr ((if_pos ⟨hr, hst, hw, congrArg not hg, hk⟩).trans (if_neg (ne_true_of_eq_false hl)))

theorem gating : Clauses.Gating := by
  intro s p
  exact ⟨gates s p, warmUps s p,
    fun hr => ⟨next_congr (if_neg fun h => ne_true_of_eq_false hr h.1), next_congr (if_neg fun h => ne_true_of_eq_false hr h.1)⟩,
    fun v hv => next_congr (if_pos hv), fun v hv => next_congr (if_neg (Nat.not_le.2 hv))⟩

theorem flowRestores (s : State) (p : PartId) (b : BitVec 69) (h1 : s.boot.resetRel = true) (h2 : s.pwr.mainOn = true)
    (h3 : s.boot.replayed = true) :
    let t : State := { s with pwr := { s.pwr with flowOk := true } }
    let u := if t.boot.computeOn then t else t.railsOn
    ((u.part p.val).holds.contains .coolant = true → exec (.flowOkRestore p b) s = .next
      (((u.failUnits p.val b 8).updPart p.val (fun x => x.dropHold .coolant)).bringBack p.val (b.extractLsb' 0 8) false)) ∧
    ((u.part p.val).holds.contains .coolant = false → exec (.flowOkRestore p b) s = .next u) := by
  intro t u
  have hgo {v : State} (hv : (if (u.part p.val).holds.contains .coolant then
      ((u.failUnits p.val b 8).updPart p.val (fun x => x.dropHold .coolant)).bringBack p.val (b.extractLsb' 0 8) false else u) = v) :
      exec (.flowOkRestore p b) s = .next v := by
    refine next_congr ((if_neg ?_).trans hv)
    rw [h1, h2, h3]
    decide
  exact ⟨fun h => hgo (if_pos h), fun h => hgo (if_neg (ne_true_of_eq_false h))⟩

/-- The fall of FLOW_OK up to the phase of the start-up. -/
def State.flowFallen (s : State) : State :=
  ((({ s with pwr := { s.pwr with flowOk := false } } : State).pwrCode 0x0509 0).each (s.fab.jobs.map (fun e => e.1)) (fun s c =>
    s.sendAbandon c)).computeOff (some .coolant) false true 8

/-- A start-up that has brought its partitions up waits for the coolant again. -/
def State.flowPhase (s : State) : State :=
  match s.boot.phase with
  | .partitions => { s with boot := { s.boot with phase := .waitFlow } }
  | _ => s

theorem State.flowLost_eq (s : State) : s.flowLost = s.flowFallen.flowPhase := by
  unfold State.flowLost
  extract_lets _ u v w t _
  have hw : w = v.each (s.fab.jobs.map (fun e => e.1)) (fun s c => s.sendAbandon c) := by
    show v.each (v.fab.jobs.map (fun e => e.1)) _ = _
    rw [show v.fab.jobs = s.fab.jobs from rfl]
  have ht : t = s.flowFallen := congrArg (fun u : State => u.computeOff (some .coolant) false true 8) hw
  rw [← ht]
  clear_value t
  rfl

theorem State.flowPhase_partitions {s : State} (h : s.boot.phase = .partitions) :
    s.flowPhase = { s with boot := { s.boot with phase := .waitFlow } } := by
  unfold State.flowPhase
  rw [h]

theorem State.flowPhase_other {s : State} (h : s.boot.phase ≠ .partitions) : s.flowPhase = s := by
  unfold State.flowPhase
  split
  · next hp => exact absurd hp h
  · rfl

theorem flowFalls (s : State) :
    (s.flowFallen.boot.phase = .partitions →
      exec .flowOkLow s = .next { s.flowFallen with boot := { s.flowFallen.boot with phase := .waitFlow } }) ∧
    (s.flowFallen.boot.phase ≠ .partitions → exec .flowOkLow s = .next s.flowFallen) :=
  ⟨fun h => next_congr ((State.flowLost_eq s).trans (State.flowPhase_partitions h)),
    fun h => next_congr ((State.flowLost_eq s).trans (State.flowPhase_other h))⟩

theorem inputAndCoolant : Clauses.InputAndCoolant := by
  intro s
  refine ⟨fun hl hp => ?_, fun h => ⟨next_congr (if_pos h), next_congr (if_pos h)⟩, rfl, rfl, rfl, fun h => ?_, fun h => ?_, ?_, fun p b h => ?_,
    flowRestores s⟩
  · exact ⟨next_congr (if_neg (not_or.2 ⟨ne_true_of_eq_false hl, hp⟩)), next_congr (if_neg (not_or.2 ⟨ne_true_of_eq_false hl, hp⟩))⟩
  · exact next_congr (if_neg (ne_true_of_eq_false (congrArg not h)))
  · exact next_congr (if_pos (congrArg not h))
  · exact flowFalls s
  · refine next_congr (if_pos ?_)
    exact h.imp (congrArg not) (Or.imp (congrArg not) (congrArg not))

/-- Settles O51: each event unfolds to its one branch. -/
theorem gatingInputAndCoolant : Obligations.GatingInputAndCoolant := ⟨gating, inputAndCoolant⟩

end Sys2Proof.Machine
end

section
/-! SUPPORT. Rails, sensors and droops (R374, R380). -/
namespace Sys2Proof.Machine

set_option Elab.async false

/-! ## Rails -/

/-- The state in which a shorted rail has stopped and been reported. -/
def State.railStopped (s : State) (r : Nat) : State := (s.updRail r (fun x => { x with st := .shorted })).pwrCode 0x0505 r

/-- The partitions a stopped rail feeds are reset and unpowered. -/
def State.partsUnfed (s : State) (r : Nat) : State :=
  s.each (railParts r) (fun s p =>
    ((if (s.part p).st = .offline ∨ (s.part p).st = .degraded then s else s.partStep p 0x0201 9 s.now 0 false).updPart p (fun x =>
      { x with logicOn := false, retOn := false })).setClock p 0 0)

/-- An I/O die without its rail: its ports are down, and MOD_PWRGD low. -/
def State.ioUnfed (s : State) (i : Nat) : State :=
  let s := s.linkDown i
  let s := if (s.farP i).st = .down then s else s.farLeave i
  let s := s.each ((List.range 8).map (fun j => 8 * i + j)) (fun s f =>
    if (s.fport f).st = .down then s else (s.fabLeave f).updFport f (fun x => { x with st := .down }))
  let s := s.setPhys i false
  ({ s with boot := { s.boot with pwrgd := false } } : State).emit (.pin 1 0 false)

theorem State.partsUnfed_railStopped (s : State) (r : Nat) :
    ((s.updRail r (fun x => { x with st := .shorted })).pwrCode 0x0505 r).each (railParts r) (fun s p =>
      ((if (s.part p).st = .offline ∨ (s.part p).st = .degraded then s else s.partStep p 0x0201 9 s.now 0 false).updPart p (fun x =>
        { x with logicOn := false, retOn := false })).setClock p 0 0) = (s.railStopped r).partsUnfed r := rfl

/-- The rail of a compute die. -/
theorem State.railShort_compute {s : State} {r : Nat} (h : (s.rail r).st ≠ .shorted) (hr : r < 64) :
    s.railShort r =
      if 16 ≤ r ∧ r < 32 then ((s.railStopped r).partsUnfed r).routersOff (r - 16) else (s.railStopped r).partsUnfed r := by
  unfold State.railShort
  rw [if_neg h]
  dsimp only
  rw [if_pos hr]
  rfl

/-- The rail of an I/O die. -/
theorem State.railShort_io {s : State} {r : Nat} (h : (s.rail r).st ≠ .shorted) (h0 : 64 ≤ r) (hr : r < 68) :
    s.railShort r = ((s.railStopped r).partsUnfed r).ioUnfed (r - 64) := by
  have hn : ¬(16 ≤ r ∧ r < 32) := by omega
  unfold State.railShort
  rw [if_neg h]
  dsimp only
  rw [if_neg (Nat.not_lt.2 h0), if_pos hr]
  simp only [if_neg hn]
  rw [State.partsUnfed_railStopped]
  generalize (s.railStopped r).partsUnfed r = u
  rfl

/-- The standby rail. -/
theorem State.railShort_vstby {s : State} {r : Nat} (h : (s.rail r).st ≠ .shorted) (hr : 68 ≤ r) :
    s.railShort r = (((s.railStopped r).partsUnfed r).inputLoss 1 0x0505).standbyStop := by
  have hn : ¬(16 ≤ r ∧ r < 32) := by omega
  unfold State.railShort
  rw [if_neg h]
  dsimp only
  rw [if_neg (show ¬r < 64 by omega), if_neg (Nat.not_lt.2 hr), if_neg hn]
  rfl

/-- A rail of an I/O die, and VSTBY, feed no partition. -/
theorem State.partsUnfed_io (s : State) {r : Nat} (h : 64 ≤ r) : s.partsUnfed r = s :=
  congrArg (fun l => s.each l _) (if_neg (Nat.not_lt.2 h) : railParts r = [])

theorem railShorts (s : State) (r : Fin 69) (h : (s.rail r.val).st ≠ .shorted) :
    let t := (s.updRail r.val (fun x => { x with st := .shorted })).pwrCode 0x0505 r.val
    let u := t.partsUnfed r.val
    (r.val < 16 ∨ 32 ≤ r.val → r.val < 64 → exec (.railShort r) s = .next u) ∧
    (16 ≤ r.val → r.val < 32 → exec (.railShort r) s = .next (u.routersOff (r.val - 16))) ∧
    (64 ≤ r.val → r.val < 68 → exec (.railShort r) s = .next (t.ioUnfed (r.val - 64))) ∧
    (r.val = 68 → exec (.railShort r) s = .next (t.inputLoss 1 0x0505).standbyStop) := by
  intro t u
  have hio (hr : 64 ≤ r.val) : (s.railStopped r.val).partsUnfed r.val = t := State.partsUnfed_io _ hr
  refine ⟨fun h0 h1 => next_congr ?_, fun h0 h1 => next_congr ?_, fun h0 h1 => next_congr ?_, fun h0 => next_congr ?_⟩
  · exact (State.railShort_compute h h1).trans (if_neg (by omega))
  · exact (State.railShort_compute h (by omega)).trans (if_pos ⟨h0, h1⟩)
  · rw [State.railShort_io h h0 h1, hio h0]
  · rw [State.railShort_vstby h (by omega), hio (by omega)]

theorem phaseShorts (s : State) (r : Fin 69) (h : (s.rail r.val).st ≠ .shorted) :
    let t := (s.updRail r.val (fun x => { x with phasesOut := x.phasesOut + 1, st := .derated })).pwrCode 0x0504 r.val
    (16 ≤ r.val → exec (.phaseShort r) s = .next t) ∧
    (r.val < 16 →
      (7 < (t.rail r.val).phasesOut ∨ t.dieLimit r.val < t.dieHeld r.val → exec (.phaseShort r) s = .next (t.railShort r.val)) ∧
      ((t.rail r.val).phasesOut ≤ 7 → t.dieHeld r.val ≤ t.dieLimit r.val → exec (.phaseShort r) s = .next t)) := by
  intro t
  have ht : s.phaseShort r.val =
      if r.val < 16 ∧ (7 < (t.rail r.val).phasesOut ∨ t.dieLimit r.val < t.dieHeld r.val) then t.railShort r.val else t := by
    unfold State.phaseShort
    rw [State.updRail_congr s r.val (f' := fun x => { x with phasesOut := x.phasesOut + 1, st := .derated })
      (congrArg (fun st => { s.rail r.val with phasesOut := (s.rail r.val).phasesOut + 1, st := st }) (if_neg h))]
  exact ⟨fun h0 => next_congr (ht.trans (if_neg (by omega))), fun h0 => ⟨fun h1 => next_congr (ht.trans (if_pos ⟨h0, h1⟩)),
    fun h1 h2 => next_congr (ht.trans (if_neg (by omega)))⟩⟩

theorem senseOpens (s : State) (r : Fin 69) (h : (s.rail r.val).st ≠ .shorted) : exec (.senseOpen r) s = .next
    (let t := (s.updRail r.val (fun x => { x with st := .localSense })).pwrCode 0x0506 r.val
     t.each (railIslands r.val) (fun s i => s.updIsl i (fun x =>
      { x with set := min x.set (max (s.islMin i) (s.fmaxOf i * 9 / 10 / 25 * 25)) }))) := by
  have hu := State.updRail_congr s r.val (f := fun x => { x with st := if x.st = .shorted then .shorted else .localSense })
    (f' := fun x => { x with st := .localSense }) (congrArg (fun st => { s.rail r.val with st := st }) (if_neg h))
  exact next_congr (congrArg (fun u : State => (u.pwrCode 0x0506 r.val).each (railIslands r.val) _) hu)

/-! ## Sensors and droops -/

/-- A failed sensor. -/
theorem State.sensorTest_failed (s : State) (i : Nat) {w : SensorTest} (hw : w = .openWire ∨ w = .shorted) :
    let t := (s.updIsl i (fun x => { x with sensorFault := true })).pwrCode (if w = .openWire then 0x0507 else 0x0508) i
    s.sensorTest i w =
      if i < 3904 ∧ t.sensorless (i / 61) = true ∧ t.holdOf (i / 61) ≠ 0 then t.setClock (i / 61) (t.holdOf (i / 61)) 8 else t := by
  rcases hw with rfl | rfl <;> rfl

theorem sensorTests (s : State) (i : Fin 4185) :
    (exec (.tsensorTest i .good) s = .next (s.updIsl i.val (fun x => { x with sensorFault := false }))) ∧
    (3904 ≤ i.val → exec (.tsensorTest i .openWire) s = .next ((s.updIsl i.val (fun x => { x with sensorFault := true })).pwrCode 0x0507
      i.val)) ∧
    (3904 ≤ i.val → exec (.tsensorTest i .shorted) s = .next ((s.updIsl i.val (fun x => { x with sensorFault := true })).pwrCode 0x0508
      i.val)) ∧
    (∀ w, w = .openWire ∨ w = .shorted → i.val < 3904 →
      let t := (s.updIsl i.val (fun x => { x with sensorFault := true })).pwrCode (if w = .openWire then 0x0507 else 0x0508) i.val
      (t.sensorless (i.val / 61) = true → t.holdOf (i.val / 61) ≠ 0 → exec (.tsensorTest i w) s = .next
        (t.setClock (i.val / 61) (t.holdOf (i.val / 61)) 8)) ∧
      (t.sensorless (i.val / 61) = false ∨ t.holdOf (i.val / 61) = 0 → exec (.tsensorTest i w) s = .next t)) := by
  refine ⟨rfl, fun h => next_congr ((State.sensorTest_failed s i.val (.inl rfl)).trans (if_neg (by omega))),
    fun h => next_congr ((State.sensorTest_failed s i.val (.inr rfl)).trans (if_neg (by omega))), fun w hw hi => ?_⟩
  intro t
  have hT := State.sensorTest_failed s i.val hw
  refine ⟨fun h1 h2 => next_congr (hT.trans (if_pos ⟨hi, h1, h2⟩)), fun h => next_congr (hT.trans (if_neg fun hc => ?_))⟩
  exact h.elim (fun h => Bool.false_ne_true (h.symm.trans hc.2.1)) (fun h => hc.2.2 h)

theorem droops (s : State) (i : Fin 4185) (hi : i.val < 3904) :
    (exec (.droop i false) s = .next (s.updIsl i.val (fun x => { x with droops := min 255 (x.droops + 1) }))) ∧
    (let t := s.updIsl i.val (fun x => { x with droops := min 255 (x.droops + 1) })
     let d := i.val / 244
     exec (.droop i true) s = .next ((t.updRail d (fun x =>
       if t.vcoreBase d + x.raise_ + 10 ≤ 900 then { x with raise_ := x.raise_ + 10 } else x)).pwrCode 0x050E i.val)) :=
  ⟨next_congr (if_neg (by omega)), next_congr (if_neg (by omega))⟩

/-- Settles O52: each event unfolds to its one branch; the rails of the I/O dies and VSTBY feed no partition (`State.partsUnfed_io`). -/
theorem railsSensorsAndDroop : Obligations.RailsSensorsAndDroop := by
  intro s _
  refine ⟨railShorts s, fun r h => next_congr (if_pos h), fun r h0 h => (phaseShorts s r h).1 h0, fun r h0 h => (phaseShorts s r h).2 h0,
    senseOpens s, fun i => ?_, fun r => rfl⟩
  obtain ⟨hgood, hopen, hshort, hfail⟩ := sensorTests s i
  exact ⟨hgood, hopen, hshort, hfail, fun hi => (droops s i hi).1, fun hi => (droops s i hi).2⟩

end Sys2Proof.Machine
end

section
/-! SUPPORT. Ageing, power caps and junction temperatures (R378, R382, R383, R385, Table 18.1). -/
namespace Sys2Proof.Machine

set_option Elab.async false

/-! ## Ageing -/

theorem ageingReads (s : State) (i : Fin 4185) (mhz : Nat) (hi : i.val < 3936) (hr : s.pwrRuns = true) :
    let v := (mhz - 50) / 25 * 25
    let t := ((s.updIsl i.val (fun x => { x with
      fmax := some v, deferred := none, set := min x.set (if 3904 ≤ i.val ∧ i.val < 3936 then max 1000 v else v) })).journal
        (.fmax i.val v)).pwrCode 0x050D i.val
    (v < s.fmaxOf i.val → s.islHold i.val ≤ v → 1600 ≤ v ∨ 3904 ≤ i.val → exec (.ageingRead i mhz) s = .next t) ∧
    (v < s.fmaxOf i.val → s.islHold i.val ≤ v → v < 1600 → i.val < 3904 → exec (.ageingRead i mhz) s = .next (t.retireUnit i.val true 6)) ∧
    (v < s.fmaxOf i.val → v < s.islHold i.val → exec (.ageingRead i mhz) s = .next (s.updIsl i.val (fun x =>
      { x with deferred := some (match x.deferred with | none => v | some w => min v w) }))) ∧
    (s.fmaxOf i.val ≤ v → exec (.ageingRead i mhz) s = .next s) := by
  intro v t
  have hgo (hv : v < s.fmaxOf i.val) : ¬(3936 ≤ i.val ∨ s.pwrRuns = false ∨ s.fmaxOf i.val ≤ v) :=
    not_or.2 ⟨by omega, not_or.2 ⟨fun h => Bool.false_ne_true (h.symm.trans hr), by omega⟩⟩
  exact ⟨fun hv hh hk => next_congr ((if_neg (hgo hv)).trans ((if_neg (Nat.not_lt.2 hh)).trans (if_neg (by omega)))),
    fun hv hh hk hu => next_congr ((if_neg (hgo hv)).trans ((if_neg (Nat.not_lt.2 hh)).trans (if_pos ⟨hu, hk⟩))),
    fun hv hh => next_congr ((if_neg (hgo hv)).trans (if_pos hh)), fun hv => next_congr (if_pos (.inr (.inr hv)))⟩

/-! ## Caps -/

/-- The state with the mean input power measured. -/
def State.measured (s : State) (w : Nat) : State := { s with pwr := { s.pwr with watts := min 65535 w } }

/-- No time below the cap is counted. -/
def State.notLow (s : State) : State := { s with pwr := { s.pwr with lowSince := none } }

theorem State.capCheck_over {s : State} {w : Nat} (hr : s.pwrRuns = true) (hw : (s.measured w).capEff < w) :
    s.capCheck w =
      let u := (s.measured w).notLow
      if 2 ≤ s.pwr.step ∧ u.boundParts.any u.aboveHold = true then ({ u with pwr := { u.pwr with stepAt := s.now } } : State).lowerNotch
      else if s.pwr.step = 0 ∨ s.pwr.step < 6 ∧ s.pwr.stepAt + 1000000 ≤ s.now then u.applyStep (s.pwr.step + 1)
      else u := (if_neg (ne_true_of_eq_false (congrArg not hr))).trans (if_pos hw)

theorem State.capCheck_low {s : State} {w : Nat} (hr : s.pwrRuns = true) (hw : w ≤ (s.measured w).capEff)
    (hl : 100 * w < 95 * (s.measured w).capEff) :
    s.capCheck w =
      match s.pwr.lowSince with
      | none => { s.measured w with pwr := { (s.measured w).pwr with lowSince := some s.now } }
      | some b =>
        if b + 100000000 ≤ s.now ∧ 0 < s.pwr.step then
          ({ s.measured w with pwr := { (s.measured w).pwr with lowSince := some s.now } } : State).dropStep s.pwr.step
        else s.measured w :=
  (if_neg (ne_true_of_eq_false (congrArg not hr))).trans ((if_neg (Nat.not_lt.2 hw)).trans (if_pos hl))

theorem capChecks (s : State) (w : Nat) (hr : s.pwrRuns = true) :
    let t := s.measured w
    let u := t.notLow
    (t.capEff < w → s.pwr.step = 0 → exec (.capCheck w) s = .next (u.applyStep 1)) ∧
    (t.capEff < w → 2 ≤ s.pwr.step → u.boundParts.any u.aboveHold = true → exec (.capCheck w) s = .next
      (({ u with pwr := { u.pwr with stepAt := s.now } } : State).lowerNotch)) ∧
    (t.capEff < w → 0 < s.pwr.step → s.pwr.step < 2 ∨ u.boundParts.any u.aboveHold = false →
      (s.pwr.step < 6 → s.pwr.stepAt + 1000000 ≤ s.now → exec (.capCheck w) s = .next (u.applyStep (s.pwr.step + 1))) ∧
      (6 ≤ s.pwr.step ∨ s.now < s.pwr.stepAt + 1000000 → exec (.capCheck w) s = .next u)) ∧
    (w ≤ t.capEff → 100 * w < 95 * t.capEff → s.pwr.lowSince = none → exec (.capCheck w) s = .next
      { t with pwr := { t.pwr with lowSince := some s.now } }) ∧
    (∀ b, w ≤ t.capEff → 100 * w < 95 * t.capEff → s.pwr.lowSince = some b → b + 100000000 ≤ s.now → 0 < s.pwr.step →
      exec (.capCheck w) s = .next (({ t with pwr := { t.pwr with lowSince := some s.now } } : State).dropStep s.pwr.step)) ∧
    (w ≤ t.capEff → 95 * t.capEff ≤ 100 * w → exec (.capCheck w) s = .next u) := by
  intro t u
  have hstep (h : s.pwr.step < 2 ∨ u.boundParts.any u.aboveHold = false) : ¬(2 ≤ s.pwr.step ∧ u.boundParts.any u.aboveHold = true) :=
    fun hc => h.elim (fun h => absurd hc.1 (Nat.not_le.2 h)) (fun h => Bool.false_ne_true (h.symm.trans hc.2))
  refine ⟨fun hw h0 => next_congr ?_, fun hw h2 ha => next_congr ((State.capCheck_over hr hw).trans (if_pos ⟨h2, ha⟩)), fun hw h0 hn => ⟨?_, ?_⟩,
    fun hw hl hs => next_congr ?_, fun b hw hl hs hb h0 => next_congr ?_, fun hw hl => next_congr ?_⟩
  · refine (State.capCheck_over hr hw).trans ((if_neg (hstep (.inl (by omega)))).trans ((if_pos (.inl h0)).trans ?_))
    rw [h0]
  · exact fun h6 ht => next_congr ((State.capCheck_over hr hw).trans ((if_neg (hstep hn)).trans (if_pos (.inr ⟨h6, ht⟩))))
  · exact fun h6 => next_congr ((State.capCheck_over hr hw).trans ((if_neg (hstep hn)).trans (if_neg (by omega))))
  · rw [State.capCheck_low hr hw hl, hs]
  · rw [State.capCheck_low hr hw hl, hs]
    exact if_pos ⟨hb, h0⟩
  · exact (if_neg (ne_true_of_eq_false (congrArg not hr))).trans ((if_neg (Nat.not_lt.2 hw)).trans (if_neg (Nat.not_lt.2 hl)))

/-! ## Junctions -/

/-- The fall of an island's clock by one step of heat. -/
def Isl.fallen (x : Isl) (low now : Nat) : Isl :=
  { x with hot := true, fellAt := some now, set := if low + 25 ≤ x.set then x.set - 25 else x.set }

/-- What a junction's reading leaves of the thermal trip: nothing where none is open. -/
theorem State.critOff_off {s : State} (h : s.pwr.crit = false) : s.critOff = s := if_neg (by rw [h, Bool.false_and]; decide)

theorem State.tripSettle_none {s : State} (h : s.pwr.trip = []) (d : Nat) : (s.tripSettle d).pwr.isls = s.pwr.isls := by
  unfold State.tripSettle
  dsimp only
  rw [h]
  rfl

/-- The state with the junction's temperature read. -/
def State.reads (s : State) (i c : Nat) : State := s.updIsl i (fun x => { x with temp := c })

theorem State.reads_canon {s : State} (hc : s.canon = true) (i c : Nat) : (s.reads i c).canon = true :=
  (Evolves.updIsl (.refl s)).canonOf ((canon_iff s).1 hc)

theorem State.isl_reads {s : State} (hc : s.canon = true) (i c : Nat) : (s.reads i c).isl i = { s.isl i with temp := c } :=
  State.isl_updIsl_self hc i _

theorem State.islTemp_reads {s : State} (hc : s.canon = true) {i : Nat} (c : Nat) (hf : (s.isl i).sensorFault = false) :
    (s.reads i c).islTemp i c = c := by
  refine if_pos ?_
  rw [State.isl_reads hc]
  exact congrArg not hf

/-- A first reading above 95 °C and below T_crit of a partition's island. -/
theorem State.junction_hot {s : State} (hc : s.canon = true) {i c : Nat} (hi : i < 3904) (hf : (s.isl i).sensorFault = false)
    (hn : (s.isl i).fellAt = none) (h1 : 95 < c) (h2 : c < 105) :
    s.junction i c = (((s.reads i c).updIsl i (fun x => x.fallen (max 400 (s.islHold i)) s.now)).critOff).tripSettle (i / 244) := by
  have htemp := State.islTemp_reads hc c hf
  have hx := State.isl_reads hc i c
  unfold State.reads at htemp hx
  unfold State.junction
  dsimp only
  rw [htemp, show islDie i = some (i / 244) from if_pos hi]
  dsimp only
  rw [if_neg (show ¬(105 ≤ c ∧ _) by omega), if_neg (show ¬(115 ≤ c ∧ _) by omega), if_pos h1, hx]
  dsimp only
  rw [hn]
  dsimp only
  rw [if_pos rfl, if_pos hi]
  rfl

theorem State.isl_junction {s : State} (hc : s.canon = true) {i c : Nat} (hi : i < 3904) (hf : (s.isl i).sensorFault = false)
    (hn : (s.isl i).fellAt = none) (h1 : 95 < c) (h2 : c < 105) (hcr : s.pwr.crit = false) (ht : s.pwr.trip = []) :
    (s.junction i c).isl i = Isl.fallen { s.isl i with temp := c } (max 400 (s.islHold i)) s.now := by
  have hco : ((s.reads i c).updIsl i (fun x => x.fallen (max 400 (s.islHold i)) s.now)).critOff = _ := State.critOff_off hcr
  have htr := State.tripSettle_none (s := (s.reads i c).updIsl i (fun x => x.fallen (max 400 (s.islHold i)) s.now)) ht (i / 244)
  have hy := State.isl_updIsl_self (State.reads_canon hc i c) i (fun x => x.fallen (max 400 (s.islHold i)) s.now)
  rw [State.junction_hot hc hi hf hn h1 h2, hco]
  exact (congrArg (fun m => Map.get ({} : Isl) m i) htr).trans (hy.trans (by rw [State.isl_reads hc]))

theorem junctions (s : State) (hc : s.canon = true) (i : Fin 4185) (c : Nat) (hi : i.val < 3904) (hf : (s.isl i.val).sensorFault = false)
    (hn : (s.isl i.val).fellAt = none) (h1 : 95 < c) (h2 : c < 105) (hcr : s.pwr.crit = false) (ht : s.pwr.trip = []) :
    ∃ t, exec (.junctionRead i c) s = .next t ∧ (t.isl i.val).temp = c ∧ (t.isl i.val).hot = true ∧ (t.isl i.val).fellAt = some s.now ∧
      (t.isl i.val).set = (if max 400 (s.islHold i.val) + 25 ≤ (s.isl i.val).set then (s.isl i.val).set - 25 else (s.isl i.val).set) := by
  refine ⟨s.junction i.val c, rfl, ?_⟩
  rw [State.isl_junction hc hi hf hn h1 h2 hcr ht]
  exact ⟨rfl, rfl, rfl, rfl⟩

/-- Settles O53: each reading unfolds to its one branch; with no trip open, what a junction's reading leaves of its island is what the fall of its
clock made of it. -/
theorem ageingCapsAndJunctions : Obligations.AgeingCapsAndJunctions := by
  intro s hc
  refine ⟨fun i mhz hr => next_congr (if_pos (.inr (.inl hr))), ageingReads s, fun w => ?_, fun v => ?_, junctions s hc⟩
  · intro t u
    exact ⟨fun hr => next_congr (if_pos (congrArg not hr)), capChecks s w⟩
  · intro w t
    exact ⟨fun h => next_congr (if_neg (Nat.not_lt.2 h)), fun h => next_congr (if_pos h)⟩

end Sys2Proof.Machine
end

section
/-! SUPPORT. Watchdogs and the ladder's escalation (R156, R390 to R392). -/
namespace Sys2Proof.Machine

set_option Elab.async false

/-- What follows an overrun of a step: it is counted as overrun, and the next wider step starts. -/
def State.overran (s : State) (l : LStep) (n : Nat) (x : StepIn) : State := (s.stepDone l n).fltLast x.cause (LStep.num l) 2 n x.at_

theorem stepTimeouts (s : State) (n : Nat) (x : StepIn) :
    (s.stepOn .context n = some x → exec (.stepTimeout .context n) s = .next
      ((s.overran .context n x).each (s.ctxUnits n) (fun s u => s.startStep .engine u 7))) ∧
    (s.stepOn .engine n = some x → exec (.stepTimeout .engine n) s = .next ((s.overran .engine n x).startStep .partition (ukind n).part 7)) ∧
    (s.stepOn .partition n = some x → exec (.stepTimeout .partition n) s = .next ((s.overran .partition n x).startStep .module 0 7)) ∧
    (s.stepOn .module n = some x → exec (.stepTimeout .module n) s = .next ((s.overran .module n x).startStep .powerCycle 0 7)) := by
  refine ⟨fun h => next_congr ?_, fun h => next_congr ?_, fun h => next_congr ?_, fun h => next_congr ?_⟩
  all_goals
    unfold State.stepTimeout State.overran
    simp only [h]

theorem State.loadOverrun_of {s : State} {c : CidT} {p : PartId} {o : CompOp} (ho : (s.comp c.val).op = some o)
    (hl : o.loads.any (fun l => l.1 == p.val) = true) :
    let t := s.startStep .partition p.val 3
    exec (.loadOverrun c p) s =
      .next (if (t.comp c.val).op.isSome ∧ o.kind ≠ .restore ∧ o.kind ≠ .unbind then t.undo c.val 0x0201 0x0201 else t) := by
  refine next_congr ?_
  rw [ho]
  exact if_neg (ne_true_of_eq_false (congrArg not hl))

theorem loadOverruns (s : State) (c : CidT) (p : PartId) (o : CompOp) (ho : (s.comp c.val).op = some o)
    (hl : o.loads.any (fun l => l.1 == p.val) = true) :
    let t := s.startStep .partition p.val 3
    ((t.comp c.val).op.isSome = true → o.kind ≠ .restore → o.kind ≠ .unbind →
      exec (.loadOverrun c p) s = .next (t.undo c.val 0x0201 0x0201)) ∧
    ((t.comp c.val).op = none ∨ o.kind = .restore ∨ o.kind = .unbind → exec (.loadOverrun c p) s = .next t) := by
  intro t
  have hT := State.loadOverrun_of ho hl
  refine ⟨fun h1 h2 h3 => hT.trans (next_congr (if_pos ⟨h1, h2, h3⟩)), fun h => hT.trans (next_congr (if_neg fun hc => ?_))⟩
  obtain ⟨h1, h2, h3⟩ := hc
  rcases h with h | h | h
  · rw [show (State.comp _ c.val).op = none from h] at h1
    exact Bool.false_ne_true h1
  · exact h2 h
  · exact h3 h

/-- Settles O54: each watchdog unfolds to its one branch. -/
theorem watchdogs : Obligations.Watchdogs := by
  intro s
  exact ⟨fun u h => next_congr (if_pos h), fun u h => next_congr (if_neg (ne_true_of_eq_false h)), fun u h => next_congr (if_pos h),
    fun u h => next_congr (if_neg h), fun u h => next_congr (if_pos h), fun u h => next_congr (if_neg (ne_true_of_eq_false h)),
    loadOverruns s, stepTimeouts s⟩

end Sys2Proof.Machine
end

section
/-! SUPPORT. The steps of the ladder, and the substitution of spares (R395 to R400, R405, R406). -/
namespace Sys2Proof.Machine

set_option Elab.async false

/-! ## Context steps -/

section
variable {s : State} {x cause : Nat}

theorem State.contextStep_waits (h : ((s.startStep .context x cause).restUnits x cause).1 = false) :
    s.contextStep x cause = ((s.startStep .context x cause).restUnits x cause).2 := if_pos (congrArg not h)

theorem State.contextStep_ends (h : ((s.startStep .context x cause).restUnits x cause).1 = true)
    (hst : (((s.startStep .context x cause).restUnits x cause).2.ctx x).st = .resetting) :
    s.contextStep x cause = ((s.startStep .context x cause).restUnits x cause).2.ctxStepEnd x cause (s.startedAt .context x) := by
  refine (if_neg (ne_true_of_eq_false (congrArg not h))).trans ?_
  rw [hst]

theorem State.contextStep_moot (h : ((s.startStep .context x cause).restUnits x cause).1 = true)
    (hst : (((s.startStep .context x cause).restUnits x cause).2.ctx x).st ≠ .resetting) :
    s.contextStep x cause = ((s.startStep .context x cause).restUnits x cause).2.stepDone .context x := by
  refine (if_neg (ne_true_of_eq_false (congrArg not h))).trans ?_
  split
  · next hr => exact absurd hr hst
  · rfl

/-- The barriers of a composition that the partitions of a context's groups take part in are broken off. -/
def State.barsBroken (s : State) (c : Nat) (lps : List Nat) : State :=
  { s with bars := Map.mapV {} (fun j b =>
      if j / 32 = c ∧ b.members.any (fun l => lps.contains (lrefPart l)) = true then
        { b with count := 0, arriving := 0, src := [], waiting := [] } else b) s.bars }

/-- A context step is counted. -/
def State.ctxCounted (s : State) : State := { s with flt := { s.flt with nCtx := sat 0xFFFF (s.flt.nCtx + 1) } }

theorem State.ctxStepEnd_of (h : (s.ctx x).st = .resetting) (at_ : Nat) :
    s.ctxStepEnd x cause at_ =
      ((((((s.leaveAll x).barsBroken (s.ctx x).cid ((s.heldOn x).flatMap (s.comp (s.ctx x).cid).lpsOf)).updCtx x
        (fun k => { k with saved := [], raw := [], pub := [] })).ctxIdle x).ctxCounted.stepDone .context x).fltLast cause 1 1 x at_).health := by
  unfold State.ctxStepEnd
  rw [h]
  rfl

end

theorem contextStep_effect {s : State} {x : XidT} {cause : Fin 16}
    (h : ((s.startStep .context x.val cause.val).restUnits x.val cause.val).1 = true)
    (hst : (((s.startStep .context x.val cause.val).restUnits x.val cause.val).2.ctx x.val).st = .resetting) {e : State}
    (he : let t := ((s.startStep .context x.val cause.val).restUnits x.val cause.val).2
      e = ((((t.leaveAll x.val).barsBroken (t.ctx x.val).cid ((t.heldOn x.val).flatMap (t.comp (t.ctx x.val).cid).lpsOf)).updCtx x.val
        (fun k => { k with saved := [], raw := [], pub := [] })).ctxIdle x.val).ctxCounted) :
    exec (.contextStep x cause) s =
      .next ((e.stepDone .context x.val).fltLast cause.val 1 1 x.val (s.startedAt .context x.val)).health := by
  subst he
  exact next_congr ((State.contextStep_ends h hst).trans (State.ctxStepEnd_of hst _))

/-! ## Engine steps -/

/-- The ladle of an engine is taken, unless it has been. -/
def State.ladleTaken (s : State) (u cause : Nat) (ladleRead : Bool) : State :=
  match ukind u with
  | .eng p e => if s.flt.ladled.contains u then s else s.takeLadle p e cause 2 ladleRead
  | _ => s

/-- The units a scalar tile issues to are reset with it. -/
def State.issuesReset (s : State) (u : Nat) : State :=
  match ukind u with
  | .st p v => s.each (s.issues p v) (fun s w => s.resetOne w)
  | _ => s

/-- An engine step is counted, and no ladle of its unit is held any more. -/
def State.engCounted (s : State) (u : Nat) : State :=
  { s with flt := { s.flt with nEng := sat 0xFFFF (s.flt.nEng + 1), ladled := s.flt.ladled.filter (fun x => x != u) } }

/-- The steps of a unit in the last 24 h. -/
def State.stepNoted (s : State) (u : Nat) : State :=
  s.updUnit u (fun x => { x with steps24 := within s.now 86400000000000 x.steps24 })

/-- The unit of an engine step is emptied, reset and loaded again, and the step counted. -/
def State.engReset (s : State) (u cause : Nat) (ladleRead : Bool) : State :=
  ((((((s.ladleTaken u cause ladleRead).stageLost u cause).issuesReset u).resetOne u).loadProg u).stepNoted u).engCounted u

theorem State.engStep_eq (s : State) (u cause at_ : Nat) (passed ladleRead : Bool) :
    s.engStep u cause at_ passed ladleRead =
      let a := s.engReset u cause ladleRead
      let retire := !passed || decide (3 ≤ (a.unit u).steps24.length)
      let b := if retire then a.retireUnit u false cause else a
      ((b.stepDone .engine u).fltLast cause 2 (if retire then 3 else 1) u at_).health := rfl

section
variable {s : State} {u cause : Nat} {b r : Bool}

theorem State.engineStep_none (h : (s.startStep .engine u cause).stepOn .engine u = none) :
    s.engineStep u cause b r = s.startStep .engine u cause := if_neg fun hc => by rw [h] at hc; cases hc

theorem State.engineStep_some (h : ((s.startStep .engine u cause).stepOn .engine u).isSome = true) :
    s.engineStep u cause b r = (s.startStep .engine u cause).engStep u cause (s.startedAt .engine u) b r := if_pos h

/-- A unit that passes its test and has had fewer than three steps in 24 h stays in use. -/
theorem State.engStep_kept (at_ : Nat) (h : ((s.engReset u cause r).unit u).steps24.length < 3) :
    s.engStep u cause at_ true r = (((s.engReset u cause r).stepDone .engine u).fltLast cause 2 1 u at_).health := by
  have hr : (!true || decide (3 ≤ ((s.engReset u cause r).unit u).steps24.length)) = false := by
    rw [decide_eq_false (Nat.not_le.2 h)]; rfl
  rw [State.engStep_eq]
  dsimp only
  rw [hr]
  rfl

/-- A unit that fails its test, or has had three steps in 24 h, is retired. -/
theorem State.engStep_retires (at_ : Nat) (h : b = false ∨ 3 ≤ ((s.engReset u cause r).unit u).steps24.length) :
    s.engStep u cause at_ b r =
      ((((s.engReset u cause r).retireUnit u false cause).stepDone .engine u).fltLast cause 2 3 u at_).health := by
  have hr : (!b || decide (3 ≤ ((s.engReset u cause r).unit u).steps24.length)) = true :=
    h.elim (fun hb => by rw [hb]; rfl) (fun hn => by rw [decide_eq_true hn, Bool.or_true])
  rw [State.engStep_eq]
  dsimp only
  rw [hr]
  rfl

end

theorem engineStep_effect {s : State} {u : UnitId} {cause : Fin 16} {b r : Bool}
    (h : ((s.startStep .engine u.val cause.val).stepOn .engine u.val).isSome = true) {a : State}
    (ha : a = (s.startStep .engine u.val cause.val).engReset u.val cause.val r) :
    (b = true → (a.unit u.val).steps24.length < 3 → exec (.engineStep u cause b r) s = .next
      ((a.stepDone .engine u.val).fltLast cause.val 2 1 u.val (s.startedAt .engine u.val)).health) ∧
    (b = false ∨ 3 ≤ (a.unit u.val).steps24.length → exec (.engineStep u cause b r) s = .next
      (((a.retireUnit u.val false cause.val).stepDone .engine u.val).fltLast cause.val 2 3 u.val (s.startedAt .engine u.val)).health) := by
  subst ha
  refine ⟨fun hb hn => ?_, fun hb => ?_⟩
  · subst hb
    exact next_congr ((State.engineStep_some h).trans (State.engStep_kept _ hn))
  · exact next_congr ((State.engineStep_some h).trans (State.engStep_retires _ hb))

/-! ## Partition steps -/

/-- A partition is taken offline, or, where it is already, what fails of it is retired. -/
def State.partTested (s : State) (p cause : Nat) (b : BitVec 69) : State :=
  if (s.part p).st = .offline then s.failUnits p b cause
  else if (s.part p).st = .degraded then ((s.resetPart p).testDegraded p (b.extractLsb' 0 8)).failUnits p b cause
  else (s.takeOffline p 0x0201 cause true).failUnits p b cause

/-- A partition step is counted, and no ladle of the partition's engines is held any more. -/
def State.partCounted (s : State) (p : Nat) : State :=
  { s with flt := { s.flt with nPart := sat 0xFFFF (s.flt.nPart + 1),
                               ladled := s.flt.ladled.filter (fun u => decide ((ukind u).part ≠ p)) } }

section
variable {s : State} {p cause : Nat} {b : BitVec 69} {r : Bool}

theorem State.partStep_eq (at_ : Nat) : s.partStep p 0x0201 cause at_ b r =
    (((((s.partTested p cause b).partCounted p).bringBack p (b.extractLsb' 0 8) r).stepDone .partition p).fltLast cause 3 1 p at_).health := by
  unfold State.partStep State.partTested
  cases (s.part p).st <;> rfl

theorem State.partitionStep_none (h : (s.startStep .partition p cause).stepOn .partition p = none) :
    s.partitionStep p cause b r = s.startStep .partition p cause := if_neg fun hc => by rw [h] at hc; cases hc

theorem State.partitionStep_some (h : ((s.startStep .partition p cause).stepOn .partition p).isSome = true) :
    s.partitionStep p cause b r = (s.startStep .partition p cause).partStep p 0x0201 cause (s.startedAt .partition p) b r := if_pos h

end

theorem partitionSteps (s : State) (p : PartId) (cause : Fin 16) (b : BitVec 69) (r : Bool) :
    let t := s.startStep .partition p.val cause.val
    let at_ := match s.stepOn .partition p.val with | some w => w.at_ | none => s.now
    (t.stepOn .partition p.val = none → exec (.partitionStep p cause b r) s = .next t) ∧
    ((t.stepOn .partition p.val).isSome = true →
      exec (.partitionStep p cause b r) s = .next
        (((((t.partTested p.val cause.val b).partCounted p.val).bringBack p.val (b.extractLsb' 0 8) r).stepDone .partition p.val).fltLast
          cause.val 3 1 p.val at_).health) :=
  ⟨fun h => next_congr (State.partitionStep_none h),
    fun h => next_congr ((State.partitionStep_some h).trans (State.partStep_eq _))⟩

/-! ## Module steps and the power cycle -/

theorem exec_powerCycle (s : State) (cause : Fin 16) : exec (.powerCycle cause) s = .next (s.powerCycle cause.val) := rfl

/-- A third module step within an hour asks for a power cycle. -/
theorem State.moduleStep_third {s : State} {cause : Nat} (l : List Nat) (h : s.roleHalted 5 = false)
    (hn : 3 ≤ (within s.now 3600000000000 s.flt.mod1h).length) :
    s.moduleStep cause l = (s.fltLast cause 4 2 0 (s.startedAt .module 0)).powerCycle 12 :=
  (if_neg (ne_true_of_eq_false h)).trans (if_pos hn)

theorem moduleSteps (s : State) (cause : Fin 16) (l : List Nat) :
    let times := within s.now 3600000000000 s.flt.mod1h
    let at_ := match s.stepOn .module 0 with | some w => w.at_ | none => s.now
    (s.roleHalted 5 = true → exec (.moduleStep cause l) s = exec (.powerCycle cause) s) ∧
    (s.roleHalted 5 = false → 3 ≤ times.length →
      exec (.moduleStep cause l) s = exec (.powerCycle 12) (s.fltLast cause.val 4 2 0 at_)) ∧
    (s.roleHalted 5 = false → times.length < 3 →
      let t := (({ s with flt := { s.flt with mod1h := times } } : State).moduleDown cause.val).moduleBoot.moduleUp l
      exec (.moduleStep cause l) s = .next (t.fltLast cause.val 4 1 0 at_).health) := by
  refine ⟨fun h => next_congr (if_pos h), fun h hn => ?_, fun h hn => next_congr ?_⟩
  · rw [exec_powerCycle]
    exact congrArg Host.Outcome.next (State.moduleStep_third l h hn)
  · exact (if_neg (ne_true_of_eq_false h)).trans (if_neg (Nat.not_le.2 hn))

theorem State.powerCycle_first {s : State} (cause : Nat) (h : s.flt.pwrCycleReq = false) :
    s.powerCycle cause =
      let t := ((s.journal (.cause cause)).sendNodeDown).computeOff none false false cause
      (({ t with flt := { t.flt with pwrCycleReq := true, steps := [] } } : State).fltLast cause 5 1 0 t.now).emit (.pin 0 0 true) := by
  unfold State.powerCycle
  rw [if_neg (ne_true_of_eq_false h)]

theorem powerCycle_first (s : State) (cause : Fin 16) (h : s.flt.pwrCycleReq = false) :
    let t := ((s.journal (.cause cause.val)).sendNodeDown).computeOff none false false cause.val
    exec (.powerCycle cause) s = .next ((({ t with flt := { t.flt with pwrCycleReq := true, steps := [] } } : State).fltLast cause.val 5 1 0
      t.now).emit (.pin 0 0 true)) :=
  congrArg Host.Outcome.next (State.powerCycle_first cause.val h)

theorem powerCycle_again (s : State) (cause : Fin 16) (h : s.flt.pwrCycleReq = true) : exec (.powerCycle cause) s = .next s :=
  next_congr (if_pos h)

/-! ## Spares -/

theorem State.spareFor_eng {s : State} {p : PartId} {e : EngId} {n : Nat} {rest : List Nat}
    (hm : (s.part p.val).meMap.contains e.val = true) (hs : (s.part p.val).meSpare = n :: rest) :
    s.spareFor (uEng p.val e.val) = some (uEng p.val n) := by
  unfold State.spareFor
  rw [ukind_uEng]
  dsimp only
  rw [if_pos hm, hs]
  rfl

theorem spareSubstitutes (s : State) (p : PartId) (e : EngId) (n : Nat) (rest : List Nat) (u : UnitId) (hu : u.val = uEng p.val e.val)
    (hr : (s.unit u.val).retired = true) (hm : (s.part p.val).meMap.contains e.val = true) (hs : (s.part p.val).meSpare = n :: rest)
    (hn : n < 38) (hb : (s.part p.val).st = .bound) (ho : (s.comp (s.part p.val).cid).op = none) (h1 : s.roleHalted 1 = false) :
    let c := (s.part p.val).cid
    let t := ((s.updPart p.val (fun x => { x with meMap := x.meMap.map (fun y => if y = e.val then n else y),
                                                  meSpare := x.meSpare.erase n })).moveRecord u.val (uEng p.val n)).journalSpares p.val
    let ents := t.treesOf c (t.comp c).frames (t.comp c).place
    (t.treesCode c ents = 0 → exec (.spareSubstitute u) s = .next (t.installTrees c ents)) ∧
    (t.treesCode c ents ≠ 0 → exec (.spareSubstitute u) s = .next (t.losePart p.val 6)) := by
  have hk : ukind u.val = .eng p.val e.val := by rw [hu]; exact ukind_uEng p e
  have hp : (UKind.eng p.val e.val).part = p.val := rfl
  have hv : ukind (uEng p.val n) = .eng p.val n := ukind_uEng p ⟨n, hn⟩
  have hf : s.spareFor u.val = some (uEng p.val n) := by rw [hu]; exact State.spareFor_eng hm hs
  have hg : ¬((!(s.unit u.val).retired) = true ∨ (s.part p.val).st ≠ .bound ∨ (s.comp (s.part p.val).cid).op.isSome = true ∨
      s.roleHalted 1 = true) := by
    rw [hr, hb, ho, h1]
    decide
  intro c t ents
  have he : s.substitute u.val = if t.treesCode c ents = 0 then t.installTrees c ents else t.losePart p.val 6 := by
    unfold State.substitute
    rw [hf, hk]
    dsimp only
    rw [hv, hp, if_neg hg]
  exact ⟨fun h => next_congr (he.trans (if_pos h)), fun h => next_congr (he.trans (if_neg h))⟩

/-- Settles O55: each step of the ladder is cut at its guard, and what it leaves is named once. -/
theorem ladderSteps : Obligations.LadderSteps := by
  unfold Obligations.LadderSteps
  intro s
  refine ⟨fun x cause => ⟨fun h => next_congr (State.contextStep_waits h), fun h hst => ?_,
      fun h hst => next_congr (State.contextStep_moot h hst)⟩,
    fun u cause b r => ⟨fun h => next_congr (State.engineStep_none h), fun h => ?_⟩,
    fun p cause b r _ => partitionSteps s p cause b r, moduleSteps s, powerCycle_first s, powerCycle_again s, ?_⟩
  · intro c lps a b d e
    have hb : b = a.barsBroken c lps := rfl
    have he : e = d.ctxCounted := rfl
    refine contextStep_effect h hst (e := e) ?_
    simp only [he, d, hb, a, c, lps]
  · intro a₁ a₂ a₃ a₄ a₅ a₆
    have h₁ : a₁ = (s.startStep .engine u.val cause.val).ladleTaken u.val cause.val r := rfl
    have h₃ : a₃ = a₂.issuesReset u.val := rfl
    have h₆ : a₆ = (s.startStep .engine u.val cause.val).engReset u.val cause.val r := by
      simp only [a₆, a₅, a₄, h₃, a₂, h₁, State.engReset, State.engCounted, State.stepNoted]
    clear_value a₆
    exact engineStep_effect h h₆
  · intro p e n rest u hu hr hm hs hn hb ho h1
    exact spareSubstitutes s p e n rest u hu hr hm hs hn hb ho h1

end Sys2Proof.Machine
end

section
/-! SUPPORT. Start-up and the sideband (R436). -/
namespace Sys2Proof.Machine

set_option Elab.async false

/-- Far port 0 is listed twice: DOWN with an expander, and behind that entry READY. No state in canonical form lists a key twice. -/
def farTwice : State := { far := [(0, { present := true }), (0, { st := .ready })] }

/-- Its port reads as DOWN. -/
theorem farTwice_down : (farTwice.farP 0).st = .down := rfl

/-- With its expander gone the first entry is the unlisted one and goes, so the second is read, and the port leaves READY. -/
theorem farTwice_prsnt : (farTwice.prsnt 0 false).out ≠ [] := by decide +kernel

/-- Taking the expander away alone sends nothing. -/
theorem farTwice_upd : (farTwice.updFar 0 (fun f => { f with present := false })).out = [] := rfl

/-- Refutes O57: the clause of an expander that goes from a DOWN port has no hypothesis of canonical form, and in `farTwice`, which reads port 0
as DOWN, removing the port's first entry uncovers one that is READY: the port leaves READY and tells so on its pin. -/
theorem not_startUpAndSideband : ¬ Obligations.StartUpAndSideband := by
  unfold Obligations.StartUpAndSideband Clauses.Sideband
  rintro ⟨-, hside⟩
  obtain ⟨-, -, -, -, hfar, -⟩ := hside farTwice
  obtain ⟨-, hdown, -⟩ := hfar 0
  have h : farTwice.prsnt 0 false = farTwice.updFar 0 (fun f => { f with present := false }) :=
    Host.Outcome.next.inj (hdown farTwice_down)
  exact farTwice_prsnt (by rw [h]; exact farTwice_upd)

end Sys2Proof.Machine
end

section
/-! SUPPORT. Register writes (R5 to R7, R10, R28, R75, R293). -/
namespace Sys2Proof.Machine

set_option Elab.async false

/-! ## The window and the width of an access -/

section
variable {s : State} {h : HPort} {d hw : Word64} {a : Nat}

theorem exec_registerWrite_bad {w : Window} {n : Nat} (ha : accessOk w a n = false) :
    exec (.registerWrite w a n d hw) s = .fault .badAccess := if_neg (ne_true_of_eq_false ha)

theorem exec_registerWrite_bar0 {n : Nat} (ha : accessOk (.bar0 h) a n = true) :
    exec (.registerWrite (.bar0 h) a n d hw) s = .next (s.bar0Write h.val a n d.toNat hw.toNat) := if_pos ha

theorem exec_registerWrite_cw {f : Func} {n : Nat} (ha : accessOk (.cw h f) a n = true) (hm : s.stepOn .module 0 = none) :
    exec (.registerWrite (.cw h f) a n d hw) s = .next (s.cwWrite (clientOf h.val f.val) a n d.toNat) :=
  (if_pos ha).trans (congrArg Host.Outcome.next (if_neg (by rw [hm]; exact Bool.false_ne_true)))

theorem State.bar0Write_closed {port n w k : Nat} (ho : s.windowOpen a = false) : s.bar0Write port a n w k = s :=
  if_pos (by rw [ho]; rfl)

/-- Outside a module step an open window takes the access. -/
theorem State.bar0Write_open {port n w k : Nat} (hm : s.stepOn .module 0 = none) (ho : s.windowOpen a = true) :
    s.bar0Write port a n w k =
      if n = 4 then s.write32 a (w % 2 ^ 32) (k % 2 ^ 32)
      else match s.write64 port a w k with
        | some t => t
        | none => (s.write32 a (w % 2 ^ 32) (k % 2 ^ 32)).write32 (a + 4) (w >>> 32) (k >>> 32) :=
  if_neg (by rw [ho, hm]; exact Bool.false_ne_true)

/-- A 4-byte write reaches the 32-bit register at its offset. -/
theorem registerWrite_four (hm : s.stepOn .module 0 = none) (ho : s.windowOpen a = true) (ha : accessOk (.bar0 h) a 4 = true) :
    exec (.registerWrite (.bar0 h) a 4 d hw) s = .next (s.write32 a (d.toNat % 2 ^ 32) (hw.toNat % 2 ^ 32)) :=
  (exec_registerWrite_bar0 ha).trans (congrArg Host.Outcome.next ((State.bar0Write_open hm ho).trans (if_pos rfl)))

/-- An 8-byte write reaches the 64-bit register that begins at its offset. -/
theorem registerWrite_eight {t : State} (hm : s.stepOn .module 0 = none) (ho : s.windowOpen a = true)
    (ha : accessOk (.bar0 h) a 8 = true) (ht : s.write64 h.val a d.toNat hw.toNat = some t) :
    exec (.registerWrite (.bar0 h) a 8 d hw) s = .next t := by
  rw [exec_registerWrite_bar0 ha, State.bar0Write_open hm ho, ht]
  rfl

end

/-! ## Power -/

section
variable {s : State} (d : Word64) (k : Nat)

theorem State.write32_pwrCap (w : Nat) : s.write32 0x04000008 w k = s.capWrite (w % 65536) := by
  unfold State.write32
  rw [if_neg (by decide), if_neg (by decide), if_neg (by decide), if_neg (by decide), if_neg (by decide), if_pos (by decide)]

theorem State.write32_pwrGate (w : Nat) : s.write32 0x04000028 w k = s.warmWrite (w % 128) := by
  unfold State.write32
  rw [if_neg (by decide), if_neg (by decide), if_neg (by decide), if_neg (by decide), if_neg (by decide), if_neg (by decide),
    if_pos (by decide)]

theorem bits_low32 (n : Nat) : bits (d.setWidth 32) n 0 = d.toNat % 2 ^ 32 % 2 ^ (n + 1) := by
  unfold bits
  rw [BitVec.extractLsb'_toNat, BitVec.toNat_setWidth, Nat.shiftRight_zero, Nat.sub_zero]

end

theorem writes_pwrCap {s : State} {h : HPort} {d hw : Word64} (hm : s.stepOn .module 0 = none) (ho : s.windowOpen 0x04000008 = true) :
    exec (.registerWrite (.bar0 h) 0x04000008 4 d hw) s = exec (.pwrCapWrite (d.setWidth 32)) s := by
  rw [registerWrite_four hm ho (by rfl), State.write32_pwrCap]
  exact congrArg (fun n => Host.Outcome.next (s.capWrite n)) (bits_low32 d 15).symm

theorem writes_pwrGate {s : State} {h : HPort} {d hw : Word64} (hm : s.stepOn .module 0 = none) (ho : s.windowOpen 0x04000028 = true) :
    exec (.registerWrite (.bar0 h) 0x04000028 4 d hw) s = exec (.pwrGateCtlWrite (d.setWidth 32)) s := by
  rw [registerWrite_four hm ho (by rfl), State.write32_pwrGate]
  exact congrArg (fun n => Host.Outcome.next (s.warmWrite n)) (bits_low32 d 6).symm

theorem writes_mtrAck {s : State} {h : HPort} {d hw : Word64} (hm : s.stepOn .module 0 = none) (ho : s.windowOpen 0x07800010 = true) :
    exec (.registerWrite (.bar0 h) 0x07800010 8 d hw) s = exec (.mtrAck d) s :=
  registerWrite_eight hm ho (by rfl) rfl

/-! ## QCTL of an engine -/

/-- The window of a partition has QCTL of engine `e` at 0x1018 + 0x1000 `e`. -/
theorem windowUnit_qctl (p : Nat) (e : EngId) : windowUnit p (0x1018 + 0x1000 * e.val) = some (uEng p e.val, 0x18) := by
  have he := e.isLt
  have hk : (0x1018 + 0x1000 * e.val - 0x1000) / 0x1000 = e.val := by omega
  have ho : (0x1018 + 0x1000 * e.val) % 0x1000 = 0x18 := by omega
  unfold windowUnit
  rw [hk, ho]
  exact if_pos ⟨by omega, he⟩

/-- A 4-byte write at the QCTL offset of an engine of a partition that runs. -/
theorem State.write32_qctl {s : State} {p : PartId} {e : EngId} (w k : Nat) (hr : s.partInReset p.val = false)
    (hi : s.inEngStep (uEng p.val e.val) = false) :
    s.write32 (0x01001018 + 0x40000 * p.val + 0x1000 * e.val) w k =
      if has w 2 then s.flush (uEng p.val e.val) else if has w 1 then s.resume (uEng p.val e.val) else s := by
  have hp := p.isLt
  have he := e.isLt
  have hq : (0x01001018 + 0x40000 * p.val + 0x1000 * e.val - 0x01000000) / 0x40000 = p.val := by omega
  have ho : (0x01001018 + 0x40000 * p.val + 0x1000 * e.val) % 0x40000 = 0x1018 + 0x1000 * e.val := by omega
  unfold State.write32
  rw [if_neg (by omega), if_pos (by omega), hq, ho]
  dsimp only
  rw [windowUnit_qctl]
  exact (if_neg (ne_true_of_eq_false hr)).trans (if_neg (ne_true_of_eq_false hi))

theorem has_low32 (d : Word64) {i : Nat} (hi : i < 32) : has (d.toNat % 2 ^ 32) i = d.getLsbD i := by
  unfold has
  rw [Nat.testBit_mod_two_pow, decide_eq_true hi, Bool.true_and]
  rfl

theorem writes_qctl {s : State} {h : HPort} {d hw : Word64} {p : PartId} {e : EngId} (hm : s.stepOn .module 0 = none)
    (ho : s.windowOpen (0x01001018 + 0x40000 * p.val + 0x1000 * e.val) = true) (hr : s.partInReset p.val = false)
    (hi : s.inEngStep (uEng p.val e.val) = false) :
    exec (.registerWrite (.bar0 h) (0x01001018 + 0x40000 * p.val + 0x1000 * e.val) 4 d hw) s =
      .next (if d.getLsbD 2 then s.flush (uEng p.val e.val) else if d.getLsbD 1 then s.resume (uEng p.val e.val) else s) := by
  have hp := p.isLt
  have he := e.isLt
  have ha : accessOk (.bar0 h) (0x01001018 + 0x40000 * p.val + 0x1000 * e.val) 4 = true := by
    have h4 : (0x01001018 + 0x40000 * p.val + 0x1000 * e.val) % 4 = 0 := by omega
    have hl : 0x01001018 + 0x40000 * p.val + 0x1000 * e.val < 0x08000000 := by omega
    unfold accessOk
    rw [h4, decide_eq_true hl]
    rfl
  rw [registerWrite_four hm ho ha, State.write32_qctl _ _ hr hi, has_low32 d (by decide), has_low32 d (by decide)]

/-! ## FAB_NODE -/

theorem State.nodeWrite_down {s : State} (w : Nat) (hd : (List.range 32).all (fun f => decide ((s.fport f).st = .down)) = true) :
    (s.nodeWrite w).fab = { s.fab with system := BitVec.ofNat 32 (nbits w 47 16), node := nbits w 11 0 } := by
  have he : s.nodeWrite w = ({ s with fab := { s.fab with system := BitVec.ofNat 32 (nbits w 47 16), node := nbits w 11 0 } } : State).journal
      (.setting .fabNode (fld 16 (nbits w 47 16) + nbits w 11 0)) := if_pos hd
  obtain ⟨j, hj⟩ := State.journal_eq ({ s with fab := { s.fab with system := BitVec.ofNat 32 (nbits w 47 16), node := nbits w 11 0 } } : State)
    (.setting .fabNode (fld 16 (nbits w 47 16) + nbits w 11 0))
  rw [he, hj]

theorem nbits_eq_extractLsb' (d : Word64) (hi lo : Nat) : nbits d.toNat hi lo = (d.extractLsb' lo (hi + 1 - lo)).toNat := by
  unfold nbits
  rw [BitVec.extractLsb'_toNat]

theorem writes_fabNode {s : State} {h : HPort} {d hw : Word64} (hm : s.stepOn .module 0 = none) (ho : s.windowOpen 0x02000000 = true)
    (hd : (List.range 32).all (fun f => decide ((s.fport f).st = .down)) = true) :
    ∃ t, exec (.registerWrite (.bar0 h) 0x02000000 8 d hw) s = .next t ∧ t.fab.node = (d.extractLsb' 0 12).toNat ∧
      t.fab.system = d.extractLsb' 16 32 := by
  have hf := State.nodeWrite_down d.toNat hd
  refine ⟨s.nodeWrite d.toNat, registerWrite_eight hm ho (by rfl) rfl, ?_, ?_⟩
  · rw [hf]
    exact nbits_eq_extractLsb' d 11 0
  · rw [hf]
    exact (congrArg (BitVec.ofNat 32) (nbits_eq_extractLsb' d 47 16)).trans (BitVec.ofNat_toNat _ _ |>.trans (BitVec.setWidth_eq _))

/-! ## The composition windows -/

theorem clientOf_has_window (h : HPort) {f : Func} (hf : f.val ≠ 0) : ¬ clientOf h.val f.val % 256 = 0 := by
  have := f.isLt
  unfold clientOf
  omega

theorem writes_journalAck {s : State} {h : HPort} {d hw : Word64} {f : Func} (hm : s.stepOn .module 0 = none) (hf : f.val ≠ 0)
    (hd : d.getLsbD 0 = true) : exec (.registerWrite (.cw h f) 0x08 8 d hw) s = exec (.journalAck h f) s := by
  rw [exec_registerWrite_cw (by rfl) hm]
  exact next_congr ((if_neg (clientOf_has_window h hf)).trans (if_pos hd))

theorem writes_tcSel {s : State} {h : HPort} {d hw : Word64} {f : Func} (hm : s.stepOn .module 0 = none) (hf : f.val ≠ 0) :
    exec (.registerWrite (.cw h f) 0x100000 4 d hw) s =
      .next (s.updFn (clientOf h.val f.val) (fun x => { x with tcSel := d.toNat % 4096 })) := by
  rw [exec_registerWrite_cw (by rfl) hm]
  exact congrArg Host.Outcome.next (if_neg (clientOf_has_window h hf))

/-- Settles O58: an access that is well formed reaches its window's register, and each register's offset names its write. -/
theorem registerWrites : Obligations.RegisterWrites := by
  unfold Obligations.RegisterWrites
  intro s h d hw hm
  refine ⟨fun a n ha ho => (exec_registerWrite_bar0 ha).trans (congrArg Host.Outcome.next (State.bar0Write_closed ho)),
    fun w a n ha => exec_registerWrite_bad ha, writes_pwrCap hm, writes_pwrGate hm, writes_mtrAck hm, ?_, writes_fabNode hm,
    fun f hf => ⟨writes_journalAck hm hf, writes_tcSel hm hf⟩⟩
  intro p e a ho hr hi
  have hq := writes_qctl (h := h) (d := d) (hw := hw) hm ho hr hi
  refine ⟨fun h2 => hq.trans ?_, fun h2 h1 => hq.trans ?_⟩
  · rw [if_pos h2]
  · rw [if_neg (ne_true_of_eq_false h2), if_pos h1]

end Sys2Proof.Machine
end

section
/-!
SUPPORT. What the fault of a router leaves of the routers: none that is faulty is mended, and none but it is counted (R116). The walk over the
functions is that of `Evolves`, which says nothing of either.
-/
namespace Sys2Proof.Machine

set_option Elab.async false

/-! ## Faulty routers and their count -/

/-- The count of faulty routers in `t` is that of `s`, and a router faulty in `s` is faulty in `t`. -/
structure FaultsKept (s t : State) : Prop where
  keepsCount : t.flt.retRouters = s.flt.retRouters
  keepsFaulty : ∀ r, (s.router r).faulty = true → (t.router r).faulty = true

theorem FaultsKept.refl (s : State) : FaultsKept s s := ⟨rfl, fun _ h => h⟩

theorem FaultsKept.trans {r s t : State} (h : FaultsKept r s) (g : FaultsKept s t) : FaultsKept r t :=
  ⟨g.keepsCount.trans h.keepsCount, fun k hk => g.keepsFaulty k (h.keepsFaulty k hk)⟩

/-- A faulty router's entry is listed, so a change that leaves it faulty is read back in any table. -/
theorem faulty_upd {m : Map Router} {f : Router → Router} (hf : ∀ x, (f x).faulty = x.faulty) (k r : Nat)
    (h : (Map.get ({} : Router) m r).faulty = true) : (Map.get ({} : Router) (Map.upd {} k f m) r).faulty = true := by
  by_cases hr : r = k
  · subst hr
    have hv : (f (Map.get {} m r)).faulty = true := (hf _).trans h
    have hn : f (Map.get {} m r) ≠ ({} : Router) := fun he => by rw [he] at hv; cases hv
    exact (congrArg Router.faulty (Map.get_set_listed hn r m)).trans hv
  · exact (congrArg Router.faulty (Map.get_upd_ne _ _ _ _ _ hr)).trans h

theorem faulty_mapV {f : Nat → Router → Router} (hf : ∀ k x, (f k x).faulty = x.faulty) (m : Map Router) (r : Nat)
    (h : (Map.get ({} : Router) m r).faulty = true) : (Map.get ({} : Router) (Map.mapV {} f m) r).faulty = true := by
  induction m with
  | nil => exact h
  | cons e m ih =>
    obtain ⟨k, v⟩ := e
    unfold Map.mapV at ih ⊢
    rw [List.map_cons, List.filter_cons]
    by_cases hk : k = r
    · have hv : (f k v).faulty = true := (hf k v).trans ((congrArg Router.faulty (if_pos hk).symm).trans h)
      have hn : f k v ≠ ({} : Router) := fun he => by rw [he] at hv; cases hv
      rw [if_pos (decide_eq_true hn)]
      exact (congrArg Router.faulty (if_pos hk)).trans hv
    · have hm := ih ((congrArg Router.faulty (if_neg hk).symm).trans h)
      split
      · exact (congrArg Router.faulty (if_neg hk)).trans hm
      · exact hm

section
variable {s t : State}

theorem FaultsKept.ite {c : Prop} [Decidable c] {a b : State} (ha : FaultsKept s a) (hb : FaultsKept s b) :
    FaultsKept s (if c then a else b) := by
  split
  · exact ha
  · exact hb

theorem FaultsKept.each {α : Type} {l : List α} {f : State → α → State} (h : FaultsKept s t)
    (hf : ∀ (t : State) (a : α), FaultsKept s t → FaultsKept s (f t a)) : FaultsKept s (t.each l f) := by
  induction l generalizing t with
  | nil => exact h
  | cons a l ih => exact ih (hf t a h)

/-- What a change outside the routers and their count keeps. -/
theorem FaultsKept.of {u : State} (h : FaultsKept s t) (hn : u.net.routers = t.net.routers := by rfl)
    (hc : u.flt.retRouters = t.flt.retRouters := by rfl) : FaultsKept s u :=
  ⟨hc.trans h.keepsCount, fun r hr => (congrArg (fun m : Map Router => (Map.get ({} : Router) m r).faulty) hn).trans (h.keepsFaulty r hr)⟩

theorem FaultsKept.updRouter {r f} (h : FaultsKept s t) (hf : ∀ x : Router, (f x).faulty = x.faulty := by exact fun _ => rfl) :
    FaultsKept s (t.updRouter r f) :=
  ⟨h.keepsCount, fun k hk => faulty_upd hf r k (h.keepsFaulty k hk)⟩

/-- What a change of every listed router that mends none keeps. -/
theorem FaultsKept.mapRouters {f : Nat → Router → Router} (h : FaultsKept s t) {u : State} (hn : u.net.routers = Map.mapV {} f t.net.routers)
    (hf : ∀ k x, (f k x).faulty = x.faulty) (hc : u.flt.retRouters = t.flt.retRouters := by rfl) : FaultsKept s u := by
  refine ⟨hc.trans h.keepsCount, fun r hr => ?_⟩
  exact (congrArg (fun m : Map Router => (Map.get ({} : Router) m r).faulty) hn).trans (faulty_mapV hf _ r (h.keepsFaulty r hr))

theorem FaultsKept.updPart {n f} (h : FaultsKept s t) : FaultsKept s (t.updPart n f) := h.of
theorem FaultsKept.updUnit {n f} (h : FaultsKept s t) : FaultsKept s (t.updUnit n f) := h.of
theorem FaultsKept.updComp {n f} (h : FaultsKept s t) : FaultsKept s (t.updComp n f) := h.of
theorem FaultsKept.updCtx {n f} (h : FaultsKept s t) : FaultsKept s (t.updCtx n f) := h.of
theorem FaultsKept.updTok {n f} (h : FaultsKept s t) : FaultsKept s (t.updTok n f) := h.of
theorem FaultsKept.updHport {n f} (h : FaultsKept s t) : FaultsKept s (t.updHport n f) := h.of
theorem FaultsKept.updFport {n f} (h : FaultsKept s t) : FaultsKept s (t.updFport n f) := h.of
theorem FaultsKept.updJob {n f} (h : FaultsKept s t) : FaultsKept s (t.updJob n f) := h.of
theorem FaultsKept.updIsl {n f} (h : FaultsKept s t) : FaultsKept s (t.updIsl n f) := h.of
theorem FaultsKept.updMslot {n f} (h : FaultsKept s t) : FaultsKept s (t.updMslot n f) := h.of
theorem FaultsKept.updEng {n f} (h : FaultsKept s t) : FaultsKept s (t.updEng n f) := h.of
theorem FaultsKept.updVt {n f} (h : FaultsKept s t) : FaultsKept s (t.updVt n f) := h.of
theorem FaultsKept.updSt {n f} (h : FaultsKept s t) : FaultsKept s (t.updSt n f) := h.of
theorem FaultsKept.updChan {n f} (h : FaultsKept s t) : FaultsKept s (t.updChan n f) := h.of
theorem FaultsKept.updFar {n f} (h : FaultsKept s t) : FaultsKept s (t.updFar n f) := h.of
theorem FaultsKept.updFn {n f} (h : FaultsKept s t) : FaultsKept s (t.updFn n f) := h.of
theorem FaultsKept.updHmem {n f} (h : FaultsKept s t) : FaultsKept s (t.updHmem n f) := h.of
theorem FaultsKept.updPool {n f} (h : FaultsKept s t) : FaultsKept s (t.updPool n f) := h.of
theorem FaultsKept.updXing {n f} (h : FaultsKept s t) : FaultsKept s (t.updXing n f) := h.of
theorem FaultsKept.updBar {c b f} (h : FaultsKept s t) : FaultsKept s (t.updBar c b f) := h.of
theorem FaultsKept.updSlot {x i f} (h : FaultsKept s t) : FaultsKept s (t.updSlot x i f) := h.of
theorem FaultsKept.updStage {c g f} (h : FaultsKept s t) : FaultsKept s (t.updStage c g f) := h.of
theorem FaultsKept.setWork {w v} (h : FaultsKept s t) : FaultsKept s (t.setWork w v) := h.of
theorem FaultsKept.updRing {c r f} (h : FaultsKept s t) : FaultsKept s (t.updRing c r f) := h.of
theorem FaultsKept.qFree {q n} (h : FaultsKept s t) : FaultsKept s (t.qFree q n) := h.of
theorem FaultsKept.append {e} (h : FaultsKept s t) : FaultsKept s (t.append e) := h.of
theorem FaultsKept.jwaitRun {rs} (h : FaultsKept s t) : FaultsKept s (t.jwaitRun rs) := h.of
theorem FaultsKept.emit {o} (h : FaultsKept s t) : FaultsKept s (t.emit o) := h.of

theorem FaultsKept.barsBroken {c lps} (h : FaultsKept s t) : FaultsKept s (t.barsBroken c lps) := h.of
theorem FaultsKept.ctxCounted (h : FaultsKept s t) : FaultsKept s t.ctxCounted := h.of
theorem FaultsKept.setGrades {m} (h : FaultsKept s t) : FaultsKept s { t with grades := m } := h.of

theorem FaultsKept.draw (h : FaultsKept s t) : FaultsKept s t.draw.2 := h.of

theorem FaultsKept.dropEntries {c} (h : FaultsKept s t) : FaultsKept s (t.dropEntries c) :=
  h.mapRouters (f := fun _ y => { y with ctab := y.ctab.filter (fun x => x.cid != c) }) rfl fun _ _ => rfl

theorem FaultsKept.tray {code arg} (h : FaultsKept s t) : FaultsKept s (t.tray code arg) := h.emit

theorem FaultsKept.durableRun {rs} (h : FaultsKept s t) : FaultsKept s (t.durableRun rs) := h.of.each fun _ _ h' => h'.append

theorem FaultsKept.jwait {r} (h : FaultsKept s t) : FaultsKept s (t.jwait r) := h.jwaitRun

theorem FaultsKept.journalRun {rs} (h : FaultsKept s t) : FaultsKept s (t.journalRun rs) := .ite h.durableRun h.jwaitRun

theorem FaultsKept.journal {r} (h : FaultsKept s t) : FaultsKept s (t.journal r) := h.journalRun

theorem FaultsKept.freeOn {id} (h : FaultsKept s t) : FaultsKept s (t.freeOn id) := h.updPool

theorem FaultsKept.countDrop {r} (h : FaultsKept s t) : FaultsKept s (t.countDrop r) := h.updRouter.emit

theorem FaultsKept.dropFlit {r id} (h : FaultsKept s t) : FaultsKept s (t.dropFlit r id) := h.freeOn.countDrop

theorem FaultsKept.transmit {p f} (h : FaultsKept s t) : FaultsKept s (t.transmit p f) := (h.each fun _ _ h' => h'.emit).updFport.emit

theorem FaultsKept.portDrain {p fuel} (h : FaultsKept s t) : FaultsKept s (t.portDrain p fuel) := by
  induction fuel generalizing t with
  | zero => exact h
  | succ n ih =>
    unfold State.portDrain
    refine .ite h ?_
    split
    · exact h
    · exact ih h.updFport.transmit

theorem FaultsKept.portSend {p f} (h : FaultsKept s t) : FaultsKept s (t.portSend p f) := .ite h.transmit h.updFport.portDrain

theorem FaultsKept.freeFrame {p f} (h : FaultsKept s t) : FaultsKept s (t.freeFrame p f) := h.updFport

theorem FaultsKept.dropFrame {p f} (h : FaultsKept s t) : FaultsKept s (t.dropFrame p f) := h.freeFrame.updFport

theorem FaultsKept.queueRow {ch row} (h : FaultsKept s t) : FaultsKept s (t.queueRow ch row) := .ite h h.updChan.jwait

theorem FaultsKept.poisonSet {ch off} (h : FaultsKept s t) : FaultsKept s (t.poisonSet ch off) := by
  unfold State.poisonSet
  split
  · exact h
  · exact h.updComp

theorem FaultsKept.poisonBlock {ch b} (h : FaultsKept s t) : FaultsKept s (t.poisonBlock ch b) :=
  h.updChan.queueRow.each fun _ _ h' => h'.poisonSet

theorem FaultsKept.decodeSector {ch i err} (h : FaultsKept s t) : FaultsKept s (t.decodeSector ch i err).2 := by
  unfold State.decodeSector
  extract_lets -underBinder
  split
  · exact h
  · split
    · exact h
    · extract_lets -underBinder _ _ t1
      have h1 : FaultsKept s t1 := h.updChan
      exact .ite h1.queueRow h1
    · dsimp only
      exact h.updChan.queueRow.poisonSet
    · dsimp only
      exact h.poisonBlock

theorem FaultsKept.rdSector {ch i keysel cls err} (h : FaultsKept s t) : FaultsKept s (t.rdSector ch i keysel cls err).2.2 := by
  unfold State.rdSector
  dsimp only
  split
  · exact h.decodeSector.updChan
  · exact h.decodeSector.updChan

theorem FaultsKept.wrSector {ch i keysel cls d} (h : FaultsKept s t) : FaultsKept s (t.wrSector ch i keysel cls d) :=
  h.updChan

theorem FaultsKept.wrSectorErr {ch i keysel cls d err} (h : FaultsKept s t) : FaultsKept s (t.wrSectorErr ch i keysel cls d err) := by
  unfold State.wrSectorErr
  split
  · exact h.poisonBlock.wrSector
  · exact h.wrSector

theorem FaultsKept.wrPartial {ch i keysel cls d mask err} (h : FaultsKept s t) : FaultsKept s (t.wrPartial ch i keysel cls d mask err).2 := by
  unfold State.wrPartial
  dsimp only
  split
  · exact h.rdSector
  · exact h.rdSector.wrSector

theorem FaultsKept.countRead {kind port a n} (h : FaultsKept s t) : FaultsKept s (t.countRead kind port a n) := .ite h.updHport h.updFar

theorem FaultsKept.serve {r ovr} (h : FaultsKept s t) : FaultsKept s (t.serve r ovr) := by
  unfold State.serve
  extract_lets -underBinder t1
  have h1 : FaultsKept s t1 := .ite h.updChan h
  split
  exacts [h1.rdSector.emit, h1.wrSectorErr.emit, .ite h1.wrPartial.emit h1.wrPartial.emit]

theorem FaultsKept.serveKey {ch slot fuel} (h : FaultsKept s t) : FaultsKept s (t.serveKey ch slot fuel) := by
  induction fuel generalizing t with
  | zero => exact h
  | succ n ih =>
    unfold State.serveKey
    dsimp only
    split
    · exact h
    · exact ih h.updChan.serve

theorem FaultsKept.enter {r} (h : FaultsKept s t) : FaultsKept s (t.enter r) := .ite h.updChan h.serve

theorem FaultsKept.freeHeld {pkg} (h : FaultsKept s t) : FaultsKept s (t.freeHeld pkg) := h.updXing

theorem FaultsKept.letIn {ch fuel} (h : FaultsKept s t) : FaultsKept s (t.letIn ch fuel) := by
  induction fuel generalizing t with
  | zero => exact h
  | succ n ih =>
    unfold State.letIn
    split
    · exact h
    · exact .ite (ih h.updChan.freeHeld.enter) h

theorem FaultsKept.letInAll {pkg} (h : FaultsKept s t) : FaultsKept s (t.letInAll pkg) := h.each fun _ _ h' => h'.letIn

theorem FaultsKept.serveSlot {slot} (h : FaultsKept s t) : FaultsKept s (t.serveSlot slot) :=
  h.each fun _ _ h' => .ite ((h'.serveKey.updChan.each fun _ _ h1' => h1'.freeHeld.serve).letInAll) h'

theorem FaultsKept.hostTx {h₁ n} (h : FaultsKept s t) : FaultsKept s (t.hostTx h₁ n) := h.updHport

theorem FaultsKept.logPage {c page kind} (h : FaultsKept s t) : FaultsKept s (t.logPage c page kind) :=
  .ite h (.ite h.updFn (.ite h.updFn (h.updHmem.hostTx.updFn)))

theorem FaultsKept.signal {c r} (h : FaultsKept s t) : FaultsKept s (t.signal c r) := .ite h.emit.updRing h

theorem FaultsKept.cqVisible {c r slot rec_} (h : FaultsKept s t) : FaultsKept s (t.cqVisible c r slot rec_) := h.updHmem.updRing.hostTx.logPage

theorem FaultsKept.cqWrite {c r rec_} (h : FaultsKept s t) : FaultsKept s (t.cqWrite c r rec_) := .ite h.updRing.updRing h.updRing.cqVisible.signal

theorem FaultsKept.ringSettle {c r} (h : FaultsKept s t) : FaultsKept s (t.ringSettle c r) := h.updRing

theorem FaultsKept.recall {c line} (h : FaultsKept s t) : FaultsKept s (t.recall c line) := .ite h.updFn.emit h

theorem FaultsKept.wrRegion {f o bs} (h : FaultsKept s t) : FaultsKept s (t.wrRegion f o bs) :=
  ((h.each fun _ _ h' => h'.recall).updFn).logPage

theorem FaultsKept.toJournal {c r rec_} (h : FaultsKept s t) : FaultsKept s (t.toJournal c r rec_) := h.updFn.wrRegion

theorem FaultsKept.putRecord {c r era rec_} (h : FaultsKept s t) : FaultsKept s (t.putRecord c r era rec_) :=
  .ite (.ringSettle (.ite h.updRing.cqWrite h.updRing.toJournal)) h.toJournal

theorem FaultsKept.flushEvent {c} (h : FaultsKept s t) : FaultsKept s (t.flushEvent c) := by
  unfold State.flushEvent
  split
  · exact h
  · exact h.updFn.cqWrite

theorem FaultsKept.event {c code arg} (h : FaultsKept s t) : FaultsKept s (t.event c code arg) := h.updFn.flushEvent

theorem FaultsKept.eventAll {cid code arg} (h : FaultsKept s t) : FaultsKept s (t.eventAll cid code arg) := h.each fun _ _ h' => h'.event

theorem FaultsKept.mbxRespond {i status err tag ws} (h : FaultsKept s t) : FaultsKept s (t.mbxRespond i status err tag ws) := h.updMslot

theorem FaultsKept.answer {r status ws} (h : FaultsKept s t) : FaultsKept s (t.answer r status ws) := by
  unfold State.answer
  split
  · exact h.emit
  · exact h.mbxRespond
  · exact h.updFn.putRecord

theorem FaultsKept.reply {r status ws} (h : FaultsKept s t) : FaultsKept s (t.reply r status ws) := by
  unfold State.reply
  split
  · exact h
  · exact h.answer

theorem FaultsKept.ackWithdraw {x idx u} (h : FaultsKept s t) : FaultsKept s (t.ackWithdraw x idx u) := by
  unfold State.ackWithdraw
  split
  · exact h
  · exact .ite h.of.updSlot.answer h.of

theorem FaultsKept.ackAll {u} (h : FaultsKept s t) : FaultsKept s (t.ackAll u) := h.each fun _ _ h' => h'.ackWithdraw

theorem FaultsKept.handBack {u} (h : FaultsKept s t) : FaultsKept s (t.handBack u) := by
  unfold State.handBack
  split
  · exact h.qFree
  · exact h.qFree.each fun _ _ h' => h'.qFree
  · exact h.qFree

theorem FaultsKept.resetUnit {u} (h : FaultsKept s t) : FaultsKept s (t.resetUnit u) := by
  unfold State.resetUnit
  dsimp only
  split
  · exact h.handBack.updEng
  · exact h.handBack.updVt
  · exact h.handBack.updSt 

theorem FaultsKept.clearUnit {u} (h : FaultsKept s t) : FaultsKept s (t.clearUnit u) := by
  unfold State.clearUnit
  dsimp only
  split
  · exact h.handBack.updEng
  · exact h.handBack.updVt
  · exact h.handBack.updSt 

theorem FaultsKept.leaveUnit {u} (h : FaultsKept s t) : FaultsKept s (t.leaveUnit u) := h.updUnit.ackAll

theorem FaultsKept.evict {c g} (h : FaultsKept s t) : FaultsKept s (t.evict c g) := (h.each fun _ _ h' => h'.clearUnit.leaveUnit).updStage

theorem FaultsKept.settleBatch {c} (h : FaultsKept s t) : FaultsKept s (t.settleBatch c) := by
  unfold State.settleBatch
  dsimp only
  split
  · exact h
  · exact .ite h.updComp (.ite h h.updComp)

theorem FaultsKept.leaveAll {x} (h : FaultsKept s t) : FaultsKept s (t.leaveAll x) :=
  (h.each fun _ _ h' => h'.evict).each fun _ _ h' => h'.clearUnit.leaveUnit

theorem FaultsKept.journalCtx {x} (h : FaultsKept s t) : FaultsKept s (t.journalCtx x) := h.journal

theorem FaultsKept.ctxIdle {x} (h : FaultsKept s t) : FaultsKept s (t.ctxIdle x) := .ite h.updCtx.journalCtx h.updCtx

theorem FaultsKept.settleCtx {x} (h : FaultsKept s t) : FaultsKept s (t.settleCtx x) :=
  .ite h (by dsimp only; split; exacts [.ite h.ctxIdle h, .ite h ((h.each fun _ _ h' => h'.evict).ctxIdle), h])

theorem FaultsKept.finishWork {w status} (h : FaultsKept s t) : FaultsKept s (t.finishWork w status) := by
  unfold State.finishWork
  split
  · exact h
  · have hw : FaultsKept s (t.setWork w none) := h.setWork
    exact .settleCtx (.settleBatch (.putRecord (.each (.ite hw.of hw) fun _ _ h' => h'.updStage)))

theorem FaultsKept.discardIf {p code} (h : FaultsKept s t) : FaultsKept s (t.discardIf p code) := h.each fun _ _ h' => h'.finishWork

theorem FaultsKept.flood {f but} (h : FaultsKept s t) : FaultsKept s (t.flood f but) := h.each fun _ _ h' => h'.portSend

theorem FaultsKept.noticeNew {p f code node mgen fgen} (h : FaultsKept s t) : FaultsKept s (t.noticeNew p f code node mgen fgen).2 := by
  unfold State.noticeNew
  dsimp only
  split
  · exact h
  · exact h.of.flood

theorem FaultsKept.originate {code fjob fgen} (h : FaultsKept s t) : FaultsKept s (t.originate code fjob fgen) := h.noticeNew

theorem FaultsKept.dropJobFrames {fjob fgen} (h : FaultsKept s t) : FaultsKept s (t.dropJobFrames fjob fgen) :=
  h.each fun _ _ h' => ((h'.each fun _ _ h1' => h1'.updFport.dropFrame).each fun _ _ h1' => h1'.updFport)

theorem FaultsKept.abandonJob {c code} (h : FaultsKept s t) : FaultsKept s (t.abandonJob c code) :=
  .ite ((h.updJob.dropJobFrames.each fun _ _ h' => h'.finishWork).eventAll.tray.emit) h

theorem FaultsKept.sendAbandon {c} (h : FaultsKept s t) : FaultsKept s (t.sendAbandon c) := .ite h.originate.of.abandonJob h

theorem FaultsKept.readStore {c} (h : FaultsKept s t) : FaultsKept s (t.readStore c) := .ite h.countRead h

theorem FaultsKept.setClock {p set pulse} (h : FaultsKept s t) : FaultsKept s (t.setClock p set pulse) := h.each fun _ _ h' => h'.updIsl

theorem FaultsKept.withdrawSlot {k} (h : FaultsKept s t) : FaultsKept s (t.withdrawSlot k) := h.serveSlot.of

theorem FaultsKept.loadFrame {frames p typ key} (h : FaultsKept s t) : FaultsKept s (t.loadFrame frames p typ key) := by
  unfold State.loadFrame
  extract_lets -underBinder
  split
  · exact h.each fun _ _ h' => h'.updEng
  · exact h.each fun _ _ h' => h'.updVt
  · exact h.each fun _ _ h' => h'.updSt
  · extract_lets -underBinder _ _ _ t1
    have h1 : FaultsKept s t1 := h.each fun _ _ h' => .ite h'.updVt h'
    exact h1.each fun _ _ h' => .ite h'.updSt h'
  · exact h

theorem FaultsKept.loadAll {frames p lp} (h : FaultsKept s t) : FaultsKept s (t.loadAll frames p lp) := h.each fun _ _ h' => h'.loadFrame

theorem FaultsKept.wipe {p} (h : FaultsKept s t) : FaultsKept s (t.wipe p) := by
  unfold State.wipe
  extract_lets -underBinder t1 t2 t3
  have h1 : FaultsKept s t1 := h.each fun _ _ h' => h'.updEng
  have h2 : FaultsKept s t2 := h1.each fun _ _ h' => h'.updVt
  have h3 : FaultsKept s t3 := h2.each fun _ _ h' => h'.updSt
  exact h3.each fun _ _ h' => h'.leaveUnit

theorem FaultsKept.journalSpares {p} (h : FaultsKept s t) : FaultsKept s (t.journalSpares p) := h.journal

theorem FaultsKept.useSpares {p} (h : FaultsKept s t) : FaultsKept s (t.useSpares p) := h.updPart

theorem FaultsKept.settleSpares {p} (h : FaultsKept s t) : FaultsKept s (t.settleSpares p) := .ite h h.useSpares.journalSpares

theorem FaultsKept.freePart {p} (h : FaultsKept s t) : FaultsKept s (t.freePart p) := by
  unfold State.freePart
  split
  · exact h.wipe.updPart.settleSpares.setClock
  · exact h.wipe.updPart.settleSpares.setClock
  · exact h

theorem FaultsKept.compRun {c st pre} (h : FaultsKept s t) : FaultsKept s (t.compRun c st pre) := h.updComp.journalRun

theorem FaultsKept.compState {c st} (h : FaultsKept s t) : FaultsKept s (t.compState c st) := h.compRun

theorem FaultsKept.unassign {f} (h : FaultsKept s t) : FaultsKept s (t.unassign f) := .ite (h.updFn.journal) h

theorem FaultsKept.freeCid {c} (h : FaultsKept s t) : FaultsKept s (t.freeCid c) := by
  unfold State.freeCid
  extract_lets -underBinder t1 t2 t3 t4 _ t5 t6 t7
  have h1 : FaultsKept s t1 := h.each fun _ _ h' => h'.unassign
  have h2 : FaultsKept s t2 := by
    unfold t2
    split
    · exact h1
    · exact h1.withdrawSlot
  have h3 : FaultsKept s t3 := h2.dropEntries
  have h4 : FaultsKept s t4 := h3.of
  have h5 : FaultsKept s t5 := h4.of
  have h6 : FaultsKept s t6 := .ite h5 h5.updJob.journal
  have h7 : FaultsKept s t7 := h6.updComp
  exact h7.of

theorem FaultsKept.resumeTile {k kpst} (h : FaultsKept s t) : FaultsKept s (t.resumeTile k kpst) :=
  h.draw.updSt

theorem FaultsKept.breakBarriers {c lps} (h : FaultsKept s t) : FaultsKept s (t.breakBarriers c lps) := by
  unfold State.breakBarriers
  refine h.each fun t1 _ h1 => ?_
  extract_lets -underBinder _ _ _ t2 t3 t4 t5 _ t6
  have h2 : FaultsKept s t2 := h1.updBar
  have h3 : FaultsKept s t3 := h2.each fun _ _ h1' => h1'.resumeTile
  have h4 : FaultsKept s t4 := h3.each fun _ _ h1' => (by split; exacts [h1', h1'.updSt])
  have h5 : FaultsKept s t5 := h4.each fun _ _ h1' => h1'.updCtx
  have h6 : FaultsKept s t6 := h5.each fun _ _ h1' => h1'.finishWork
  exact .ite h6.sendAbandon h6

theorem FaultsKept.breakTrees {c lps code} (h : FaultsKept s t) : FaultsKept s (t.breakTrees c lps code) := by
  unfold State.breakTrees
  extract_lets -underBinder _ _ _ gs _ t1 _ _ t2
  have h1 : FaultsKept s t1 := h.mapRouters (f := fun _ y =>
    { y with ctab := y.ctab.map (fun x => if x.cid = c ∧ gs.contains x.group then { x with valid := false, got := 0 } else x) }) rfl
    fun _ _ => rfl
  have h2 : FaultsKept s t2 := h1.each fun _ _ h' => (h'.each fun _ _ h1' => h1'.dropFlit.updRouter)
  exact h2.each fun _ _ h' => (h'.each fun _ _ h1' => h1'.finishWork)

theorem FaultsKept.health (h : FaultsKept s t) : FaultsKept s (t.health) := h.jwait

theorem FaultsKept.fltLast {cause step outcome target started} (h : FaultsKept s t) : FaultsKept s (t.fltLast cause step outcome target started) :=
  h.of

theorem FaultsKept.askStep {l target cause} (h : FaultsKept s t) : FaultsKept s (t.askStep l target cause) := .ite h h.of

theorem FaultsKept.stepDone {l target} (h : FaultsKept s t) : FaultsKept s (t.stepDone l target) := h.of

theorem FaultsKept.dropTrees {u} (h : FaultsKept s t) : FaultsKept s (t.dropTrees u) := h.updRouter

theorem FaultsKept.bumpUnit {u} (h : FaultsKept s t) : FaultsKept s (t.bumpUnit u) := h.dropTrees.updUnit.journal

theorem FaultsKept.ctxStepStart {x code} (h : FaultsKept s t) : FaultsKept s (t.ctxStepStart x code) := by
  unfold State.ctxStepStart
  split
  · exact h
  · exact h
  · exact h.discardIf.updCtx

theorem FaultsKept.ctxStepEnd {x cause started} (h : FaultsKept s t) : FaultsKept s (t.ctxStepEnd x cause started) := by
  by_cases hst : (t.ctx x).st = .resetting
  · rw [State.ctxStepEnd_of hst]
    exact h.leaveAll.barsBroken.updCtx.ctxIdle.ctxCounted.stepDone.fltLast.health
  · unfold State.ctxStepEnd
    split
    · next hr => exact absurd hr hst
    · exact h

theorem FaultsKept.ctxStep {x code cause} (h : FaultsKept s t) : FaultsKept s (t.ctxStep x code cause) := h.ctxStepStart.ctxStepEnd

theorem FaultsKept.ctxResetKeep {x cause} (h : FaultsKept s t) : FaultsKept s (t.ctxResetKeep x cause) := by
  unfold State.ctxResetKeep
  split
  · exact h
  · exact h
  · exact .ite h.updCtx.ctxStepEnd h.updCtx.ctxStepEnd.updCtx

theorem FaultsKept.setToken {t₁ f} (h : FaultsKept s t) : FaultsKept s (t.setToken t₁ f) := h.updTok.journal

theorem FaultsKept.failHandoff {t₁} (h : FaultsKept s t) : FaultsKept s (t.failHandoff t₁) := h.setToken.reply

theorem FaultsKept.loseToken {t₁} (h : FaultsKept s t) : FaultsKept s (t.loseToken t₁) := .ite h.setToken.reply h.setToken

theorem FaultsKept.startTeardown {x code req} (h : FaultsKept s t) : FaultsKept s (t.startTeardown x code req) := by
  unfold State.startTeardown
  split
  · exact h
  · exact h
  · exact h.discardIf.updCtx

theorem FaultsKept.takeLadle {p e cause step read} (h : FaultsKept s t) : FaultsKept s (t.takeLadle p e cause step read) := h.of

theorem FaultsKept.loseTokens {hit} (h : FaultsKept s t) : FaultsKept s (t.loseTokens hit) :=
  (h.each fun _ _ h' => h'.loseToken).each fun _ _ h' => h'.failHandoff

theorem FaultsKept.discardNew {c code} (h : FaultsKept s t) : FaultsKept s (t.discardNew c code) := h.discardIf

theorem FaultsKept.startUnbind {c req force more} (h : FaultsKept s t) : FaultsKept s (t.startUnbind c req force more) := h.updComp.compState

theorem FaultsKept.tearComp {c} (h : FaultsKept s t) : FaultsKept s (t.tearComp c) :=
  (h.each fun _ _ h' => .ite h'.emit h').each fun _ _ h' => h'.startTeardown

theorem FaultsKept.unwind {c cause} (h : FaultsKept s t) : FaultsKept s (t.unwind c cause) := by
  unfold State.unwind
  split
  · exact h
  · extract_lets -underBinder t1 t2 t3 t4
    have h1 : FaultsKept s t1 := .ite h.discardNew h
    have h2 : FaultsKept s t2 := h1.each fun _ _ h' => h'.evict
    have h3 : FaultsKept s t3 := h2.each fun _ _ h' => h'.freePart
    have h4 : FaultsKept s t4 := .ite h3.journal h3
    exact .ite h h4.updComp

theorem FaultsKept.rollback {c cause ans} (h : FaultsKept s t) : FaultsKept s (t.rollback c cause ans) := by
  unfold State.rollback
  split
  · exact h
  · split
    · exact h
    · exact h.unwind.updComp.freeCid.answer
    · exact h.unwind.updComp
    · exact h.unwind.updComp
    · extract_lets -underBinder t1 _ t2 _ t3
      have h1 : FaultsKept s t1 := h.unwind.updComp
      have h2 : FaultsKept s t2 := .ite h1.of h1
      have h3 : FaultsKept s t3 := .ite h2 h2.readStore
      exact .ite h3.answer.startUnbind.tearComp ((h3.each fun _ _ h' => h'.loadAll).compState.answer)

theorem FaultsKept.memberLost {c p code cause} (h : FaultsKept s t) : FaultsKept s (t.memberLost c p code cause) := by
  unfold State.memberLost
  extract_lets -underBinder
  split
  · exact .ite h.updComp h.rollback
  · extract_lets -underBinder _ _ t1 t2 _ t3 t4 t5 t6 t7 t8 t9
    have h1 : FaultsKept s t1 := .ite h.discardIf.discardIf h
    have h2 : FaultsKept s t2 := by unfold t2; split; exacts [.ite h1 (.ite h1.unwind h1.rollback), h1]
    have h3 : FaultsKept s t3 := h2.breakBarriers
    have h4 : FaultsKept s t4 := h3.breakTrees
    have h5 : FaultsKept s t5 := h4.each fun _ _ h' => h'.ctxResetKeep
    have h6 : FaultsKept s t6 := h5.loseTokens
    have h7 : FaultsKept s t7 := h6.sendAbandon
    have h8 : FaultsKept s t8 := h7.updComp
    have h9 : FaultsKept s t9 := h8.compState
    exact .ite h2 (by split; exacts [h9.startUnbind.tearComp, h9])

theorem FaultsKept.marked {p} (h : FaultsKept s t) : FaultsKept s (t.marked p) := .ite ((h.of.each fun _ _ h' => h'.emit)) h.of

theorem FaultsKept.resetChan {p k} (h : FaultsKept s t) : FaultsKept s (t.resetChan p k) :=
  ((h.each fun _ _ h' => h'.countDrop).each fun _ _ h' => h'.updChan.freeHeld).updChan

theorem FaultsKept.resetPart {p} (h : FaultsKept s t) : FaultsKept s (t.resetPart p) := by
  unfold State.resetPart
  extract_lets -underBinder t1 t2
  have h1 : FaultsKept s t1 := h.each fun _ _ h' => h'.resetUnit.leaveUnit.bumpUnit
  have h2 : FaultsKept s t2 := h1.wipe
  clear_value t2
  have h3 : FaultsKept s (t2.each (List.range 8) (fun s k => s.resetChan p k)) := h2.each fun _ _ h' => h'.resetChan
  exact h3.setGrades

theorem FaultsKept.loseRegions {c} (h : FaultsKept s t) : FaultsKept s (t.loseRegions c) := h.each fun _ _ h' => .ite h'.updFn h'

theorem FaultsKept.takeOffline {p code cause ladle} (h : FaultsKept s t) : FaultsKept s (t.takeOffline p code cause ladle) := by
  unfold State.takeOffline
  extract_lets -underBinder _ t1 t2 t3
  have h1 : FaultsKept s t1 := .ite ((h.each fun _ _ h' => h'.takeLadle)) h
  have h2 : FaultsKept s t2 := .ite h1.loseRegions h1
  have h3 : FaultsKept s t3 := by unfold t3; split; exacts [h2.memberLost, h2.memberLost, h2]
  exact h3.resetPart.updPart.marked

theorem FaultsKept.trainChans {p} (h : FaultsKept s t) : FaultsKept s (t.trainChans p) := .ite ((h.each fun _ _ h' => h'.updChan)) h

theorem FaultsKept.startStep {l target cause} (h : FaultsKept s t) : FaultsKept s (t.startStep l target cause) := by
  unfold State.startStep
  split
  · exact h
  · split
    · split
      exacts [h, h, h.ctxStepStart.askStep]
    · exact .ite h (.askStep (.updUnit (by split; exacts [h, h.finishWork])))
    · exact .ite h.askStep (.askStep (.trainChans (.ite h.of h.of.takeOffline)))
    · exact h.askStep
    · exact h.askStep

theorem FaultsKept.losePart {p cause} (h : FaultsKept s t) : FaultsKept s (t.losePart p cause) := .ite h h.takeOffline.startStep

theorem FaultsKept.retireUnit {u final cause} (h : FaultsKept s t) : FaultsKept s (t.retireUnit u final cause) := by
  unfold State.retireUnit
  extract_lets -underBinder _ t1 t2 _ _ t3
  have h1 : FaultsKept s t1 := h.dropTrees.updUnit
  have h2 : FaultsKept s t2 := by unfold t2; split; exacts [h1.updPart.of, h1.updPart.of, h1.updPart.of]
  have h3 : FaultsKept s t3 := by
    unfold t3
    split
    · extract_lets -underBinder t4
      have h4 : FaultsKept s t4 := by unfold t4; split; exacts [h2, h2.finishWork]
      exact .ite (by split; exacts [h4, (by split; exacts [h4, h4.ctxStep])]) h2.losePart
    · exact h2.useSpares
    · exact h2.useSpares
    · exact .ite h2.useSpares h2.losePart
  exact .ite h h3.journalSpares.health

theorem FaultsKept.installDetours {g} (h : FaultsKept s t) : FaultsKept s (t.installDetours g) := h.each fun _ _ h' => .ite h' h'.updRouter

theorem FaultsKept.fencePort {r port} (h : FaultsKept s t) : FaultsKept s (t.fencePort r port) := by
  unfold State.fencePort
  extract_lets -underBinder _ t1 t2
  have h1 : FaultsKept s t1 := h.updRouter
  have h2 : FaultsKept s t2 := (h1.each fun _ _ h' => h'.updPool).each fun _ _ h' => h'.updPool
  split
  · exact h2.each fun _ _ h' => h'.updPool
  · exact (h2.updRouter.each fun _ _ h' => h'.updPool).each fun _ _ h' => h'.updPool

theorem FaultsKept.discardRoutes {on out} (h : FaultsKept s t) : FaultsKept s (t.discardRoutes on out) := h.each fun _ _ h' => .ite h'.finishWork h'

theorem FaultsKept.discardCrossing {f} (h : FaultsKept s t) : FaultsKept s (t.discardCrossing f) := h.discardRoutes

theorem FaultsKept.endpointLost {p n} (h : FaultsKept s t) : FaultsKept s (t.endpointLost p n) :=
  .ite h.losePart.updPart ((h.losePart.each fun _ _ h' => h'.updChan))

theorem FaultsKept.endpointGone {r} (h : FaultsKept s t) : FaultsKept s (t.endpointGone r) := by
  unfold State.endpointGone
  split
  · exact h.retireUnit
  · exact h.endpointLost

theorem FaultsKept.retireUnreached (h : FaultsKept s t) : FaultsKept s (t.retireUnreached) :=
  .ite h ((h.each fun _ _ h' => ((h'.each fun _ _ h1' => h1'.endpointGone).each fun _ _ h1' => .ite h1'.endpointGone h1')))

end

/-! ## The fault of a router -/

/-- A router with its fault noted and counted. -/
def State.routerNoted (s : State) (r : Nat) : State :=
  let t := s.updRouter r (fun x => { x with faulty := true })
  { t with flt := { t.flt with retRouters := t.flt.retRouters + 1 } }

theorem State.routerNoted_faulty (s : State) (r : Nat) : ((s.routerNoted r).router r).faulty = true :=
  congrArg Router.faulty (Map.get_set_listed (fun h => Bool.noConfusion (congrArg Router.faulty h)) r s.net.routers)

theorem State.routerNoted_count (s : State) (r : Nat) : (s.routerNoted r).flt.retRouters = s.flt.retRouters + 1 := rfl

theorem FaultsKept.routerFault {s : State} {r : Nat} (h : (s.router r).faulty = false) : FaultsKept (s.routerNoted r) (s.routerFault r) := by
  have he : s.routerFault r = ((((((s.routerNoted r).each [1, 2, 3, 4] (fun s o => s.fencePort r o)).discardCrossing r).endpointGone
      r).installDetours (faultDetours r)).retireUnreached).health := if_neg (ne_true_of_eq_false h)
  rw [he]
  exact ((FaultsKept.refl _).each fun _ _ h' => h'.fencePort).discardCrossing.endpointGone.installDetours.retireUnreached.health

section
variable {s : State} {r : RouterId}

theorem exec_routerFaulty (s : State) (r : RouterId) : exec (.routerFaulty r) s = .next (s.routerFault r.val) := rfl

theorem routerFaulty_declared (h : (s.router r.val).faulty = false) :
    ∃ t, exec (.routerFaulty r) s = .next t ∧ s.flt.retRouters < t.flt.retRouters ∧ (t.router r.val).faulty = true := by
  have hk := FaultsKept.routerFault h
  refine ⟨_, exec_routerFaulty s r, ?_, hk.keepsFaulty _ (s.routerNoted_faulty r.val)⟩
  rw [hk.keepsCount, State.routerNoted_count]
  exact Nat.lt_succ_self _

end

/-! ## Replays and repairs of a die-to-die link -/

/-- The times of replay of a link, and whether it has failed. -/
def State.linkNoted (s : State) (l : Nat) (b : Bool) : State :=
  { s with net := { s.net with links := Map.set {} l { s.dlink l with replays := within s.now 1000 (s.dlink l).replays, failed := b } s.net.links } }

theorem linkWord_noted {s : State} {l : Fin 40} (sp : Bool) (h : (s.dlink l.val).failed = false) :
    exec (.linkWordCrcFail l sp) s = .next (if (sp || decide (16 ≤ (within s.now 1000 (s.dlink l.val).replays).length)) = true then
      (s.linkNoted l.val (sp || decide (16 ≤ (within s.now 1000 (s.dlink l.val).replays).length))).linkFail l.val
      else s.linkNoted l.val (sp || decide (16 ≤ (within s.now 1000 (s.dlink l.val).replays).length))) :=
  next_congr (if_neg (ne_true_of_eq_false h))

theorem linkWord_kept {s : State} {l : Fin 40} (h : (s.dlink l.val).failed = false)
    (hn : (within s.now 1000 (s.dlink l.val).replays).length < 16) :
    exec (.linkWordCrcFail l false) s = .next (s.linkNoted l.val false) := by
  rw [linkWord_noted false h, decide_eq_false (Nat.not_le.2 hn), Bool.or_false, if_neg Bool.false_ne_true]

theorem linkWord_fails {s : State} {l : Fin 40} {sp : Bool} (h : (s.dlink l.val).failed = false)
    (hn : (sp || decide (16 ≤ (within s.now 1000 (s.dlink l.val).replays).length)) = true) :
    exec (.linkWordCrcFail l sp) s = .next ((s.linkNoted l.val true).linkFail l.val) := by
  rw [linkWord_noted sp h, hn, if_pos rfl]

theorem routerAndLinkFaults : Clauses.RouterAndLinkFaults := by
  refine ⟨fun s r _ h => routerFaulty_declared h, fun s r h => next_congr (if_pos h), fun s l h => ⟨?_, ?_, ?_⟩⟩
  · exact fun hn => linkWord_kept h hn
  · exact fun hn => linkWord_fails h (by rw [decide_eq_true hn]; rfl)
  · exact linkWord_fails h rfl

/-! ## Pours -/

/-- Of a group of one module there is no combine unit whose window must have room. -/
theorem State.winReady_of_local {s : State} {c g : Nat} (h : (s.comp c).spanning g = false) : s.winReady c g = true := by
  unfold State.winReady
  rw [h]
  rfl

theorem State.pour_copied {s : State} {r port : Nat} {x : Held} {e : CEnt}
    (hx : (s.router r).inq.find? (fun y => y.port == port && y.flit.kind == 4) = some x)
    (he : (s.router r).entry (s.ctx x.flit.xid).cid x.flit.group false = some e) (hi : has e.inMask port = true)
    (ho : ((List.range 5).filter (has e.outMask)).all (fun o => s.branchReady r o x.pool x.flit) = true)
    (hs : (s.comp (s.ctx x.flit.xid).cid).spanning x.flit.group = false) :
    s.pour r port = (((s.updRouter r (fun y => { y with inq := y.inq.erase x })).freeOn x.pool).each
      ((List.range 5).filter (has e.outMask)) (fun s o => s.branchSend r o x.pool e x.flit)) := by
  unfold State.pour
  rw [hx]
  dsimp only
  rw [he]
  dsimp only
  rw [hi, ho, State.winReady_of_local hs, Bool.or_true, Bool.and_self, Bool.and_self, if_pos rfl, if_neg]
  rintro ⟨-, hc, -⟩
  exact Bool.noConfusion (hs.symm.trans hc)

/-! ## Churns -/

/-- What a node makes of the flits of its inputs. -/
def churnOut (e : CEnt) (x : Held) (rest : List Held) : Flit :=
  { x.flit with payload := churnOp e.op ((x :: rest).map (fun y => y.flit.payload)), poison := (x :: rest).any (fun y => y.flit.poison) }

/-- The inputs of a node give up the flits they presented. -/
def State.churnTaken (s : State) (r : Nat) (xs : List Held) : State :=
  s.each xs (fun s y => (s.updRouter r (fun z => { z with inq := z.inq.erase y })).freeOn y.pool)

/-- Whether the inputs end unequally with the first. -/
def unequal (x : Held) (rest : List Held) : Bool :=
  rest.any (fun y => y.flit.fidx != x.flit.fidx || y.flit.tail != x.flit.tail || y.flit.last != x.flit.last)

section
variable {s : State} {r c g : Nat} {e : CEnt} {x : Held} {rest : List Held} (he : (s.router r).entry c g true = some e)
  (hp : ((List.range 5).filter (has e.inMask)).filterMap (fun i => s.presented r i c g) = x :: rest)
  (hl : (x :: rest).length = ((List.range 5).filter (has e.inMask)).length)
include he hp hl

/-- With a flit at every input a node goes by whether they are equal and where its entry sends the result. -/
theorem State.churn_presented : s.churn r c g =
    if unequal x rest = true then s.churnBreak c g x.flit.xid
    else if has e.outMask 0 = true then
      (if (s.branchReady r 0 (nodeInput c g) (churnOut e x rest) && s.winReady c g) = true then
        (((s.churnTaken r (x :: rest)).cross (localXing r)).usedLink r 0 (nodeInput c g) (churnOut e x rest)).churnRoot r e (churnOut e x rest)
        else s)
    else match (List.range 5).find? (has e.outMask) with
      | none => s
      | some o => if s.branchReady r o (nodeInput c g) (churnOut e x rest) = true then
          (s.churnTaken r (x :: rest)).branchSend r o (nodeInput c g) e (churnOut e x rest) else s := by
  unfold State.churn
  rw [he]
  dsimp only
  rw [hp]
  exact if_neg (Nat.not_lt.2 hl.ge)

theorem State.churn_unequal (hb : unequal x rest = true) : s.churn r c g = s.churnBreak c g x.flit.xid := by
  rw [State.churn_presented he hp hl, if_pos hb]

theorem State.churn_root (hb : unequal x rest = false) (h0 : has e.outMask 0 = true)
    (hr : s.branchReady r 0 (nodeInput c g) (churnOut e x rest) = true) (hw : s.winReady c g = true) :
    s.churn r c g =
      (((s.churnTaken r (x :: rest)).cross (localXing r)).usedLink r 0 (nodeInput c g) (churnOut e x rest)).churnRoot r e (churnOut e x rest) := by
  rw [State.churn_presented he hp hl, if_neg (ne_true_of_eq_false hb), if_pos h0, hr, hw, Bool.and_self, if_pos rfl]

theorem State.churn_branch {o : Nat} (hb : unequal x rest = false) (h0 : has e.outMask 0 = false)
    (ho : (List.range 5).find? (has e.outMask) = some o) (hr : s.branchReady r o (nodeInput c g) (churnOut e x rest) = true) :
    s.churn r c g = (s.churnTaken r (x :: rest)).branchSend r o (nodeInput c g) e (churnOut e x rest) := by
  rw [State.churn_presented he hp hl, if_neg (ne_true_of_eq_false hb), if_neg (ne_true_of_eq_false h0), ho]
  exact if_pos hr

end

theorem pourAndChurn : Clauses.PourAndChurn := by
  intro s r
  refine ⟨fun port x e hx he hi ho hs => congrArg Host.Outcome.next (State.pour_copied hx he hi ho hs), ?_⟩
  intro c g e x rest he hp hl
  exact ⟨fun hb => congrArg Host.Outcome.next (State.churn_unequal he hp hl hb),
    fun hb h0 hr hw => congrArg Host.Outcome.next (State.churn_root he hp hl hb h0 hr hw),
    fun o hb h0 ho hr => congrArg Host.Outcome.next (State.churn_branch he hp hl hb h0 ho hr)⟩

/-- Settles O25: pours and churns are cut at their guards; what follows the fault of a router mends and counts no other. -/
theorem collectivesAndRouterFaults : Obligations.CollectivesAndRouterFaults := ⟨pourAndChurn, routerAndLinkFaults⟩

end Sys2Proof.Machine
end

section
/-! SUPPORT. Management cores, their images, and the journal (R412, R415, R418, R422 to R425). -/
namespace Sys2Proof.Machine

set_option Elab.async false

/-! ## Restarts of cores outside an update -/

section
variable {s : State} {i : Nat}

theorem State.haltRole_fw (s : State) (r : Nat) : (s.haltRole r).fw = s.fw := by
  unfold State.haltRole
  dsimp only
  split <;> rfl

theorem State.askStep_fw (s : State) (l : LStep) (target cause : Nat) : (s.askStep l target cause).fw = s.fw := by
  unfold State.askStep
  split <;> rfl

theorem State.startStep_module_fw (s : State) (cause : Nat) : (s.startStep .module 0 cause).fw = s.fw := by
  unfold State.startStep
  split
  · rfl
  · exact State.askStep_fw _ _ _ _

theorem State.health_fw (s : State) : s.health.fw = s.fw := rfl

theorem update_ite {c : Prop} [Decidable c] {a b : State} {u : Option Update} (ha : a.fw.update = u) (hb : b.fw.update = u) :
    (if c then a else b).fw.update = u := by
  split
  · exact ha
  · exact hb

/-- A restart leaves an update in progress to what comes after it. -/
theorem State.restartCore_update (s : State) (i : Nat) : (s.restartCore i).fw.update = s.fw.update := by
  unfold State.restartCore
  split
  · rfl
  · rfl
  · extract_lets -underBinder r t₁ _ t₂ _ t₃ t₄ t₅ t₆
    have h₂ : t₂.fw.update = s.fw.update := update_ite rfl rfl
    have h₄ : t₄.fw.update = s.fw.update := update_ite (a := _) h₂ h₂
    have h₅ : t₅.fw.update = s.fw.update := h₄
    have h₆ : (t₅.haltRole r).fw.update = s.fw.update := (congrArg Fw.update (State.haltRole_fw t₅ r)).trans h₅
    refine update_ite (update_ite (update_ite ?_ h₆) h₅) h₄
    exact (congrArg Fw.update (State.startStep_module_fw _ _)).trans h₆

theorem State.updateAgain_idle (h : s.fw.update = none) : s.updateAgain i = s := by
  unfold State.updateAgain
  rw [h]

theorem State.restarted_idle (h : s.fw.update = none) : (s.restartCore i).updateAgain i = s.restartCore i :=
  State.updateAgain_idle ((State.restartCore_update s i).trans h)

end

theorem heartbeatMisses (s : State) (i : Fin 12) (hr : (s.coreS i.val).st = .running) (hu : s.fw.update = none) :
    exec (.heartbeatMiss i) s = .next (s.restartCore i.val) :=
  next_congr ((if_pos hr).trans (State.restarted_idle hu))

section
variable {s : State} {r : Request} (h : r.p0.toNat < 12)
include h

theorem State.coreRestart_running (hu : s.fw.update = none) (hr : (s.coreS r.p0.toNat).st = .running) :
    s.coreRestart r = (s.restartCore r.p0.toNat).answer r 0 [] := by
  unfold State.coreRestart
  dsimp only
  rw [if_neg (Nat.not_le.2 h), if_pos hr, State.restarted_idle hu]

theorem State.coreRestart_idle (hr : (s.coreS r.p0.toNat).st ≠ .running) : s.coreRestart r = s.answer r 0 [] := by
  unfold State.coreRestart
  dsimp only
  rw [if_neg (Nat.not_le.2 h), if_neg hr]

end

/-! ## Images -/

/-- An image is written to the copy that is not active. -/
def State.imageKept (s : State) (role code : Nat) (img : FwImage) : State :=
  s.updRole role (fun x =>
    if x.active then { x with imgA := some img, validA := decide (code = 0) } else { x with imgB := some img, validB := decide (code = 0) })

theorem State.fwWrite_kept {s : State} {r : Request} (img : FwImage) (h0 : s.roleHalted 0 = false) (hu : s.fw.update = none)
    (hb : r.bufLen ≤ 2 ^ 24) (hr : r.p0.toNat < 7) :
    s.fwWrite r img =
      let code := s.fwCheck r.p0.toNat img
      let t := s.imageKept r.p0.toNat code img
      (if code = 0 then t else t.secCode code).dirWrite.answer r code [] := by
  unfold State.fwWrite
  rw [h0, hu]
  exact (if_neg Bool.false_ne_true).trans ((if_neg Bool.false_ne_true).trans ((if_neg (Nat.not_lt.2 hb)).trans (if_neg (Nat.not_le.2 hr))))

theorem imagesWritten (s : State) (r : Request) (img : FwImage) (h0 : s.roleHalted 0 = false) (hu : s.fw.update = none)
    (hb : r.bufLen ≤ 2 ^ 24) (hr : r.p0.toNat < 7) :
    let code := s.fwCheck r.p0.toNat img
    let t := s.imageKept r.p0.toNat code img
    (code = 0 → exec (.fwWrite r img) s = .next (t.dirWrite.answer r 0 [])) ∧
    (code ≠ 0 → exec (.fwWrite r img) s = .next ((t.secCode code).dirWrite.answer r code [])) := by
  refine ⟨fun hc => next_congr ((State.fwWrite_kept img h0 hu hb hr).trans ?_),
    fun hc => next_congr ((State.fwWrite_kept img h0 hu hb hr).trans ?_)⟩
  · dsimp only
    rw [if_pos hc, hc]
  · dsimp only
    rw [if_neg hc]

theorem imagesActivated (s : State) (r : Request) (h0 : s.roleHalted 0 = false) (hu : s.fw.update = none) :
    (7 ≤ r.p0.toNat ∨ (s.role r.p0.toNat).valid (!(s.role r.p0.toNat).active) = false →
      exec (.fwActivate r) s = .next (s.answer r 0x0404 [])) ∧
    (r.p0.toNat < 7 → (s.role r.p0.toNat).valid (!(s.role r.p0.toNat).active) = true → exec (.fwActivate r) s = .next
      ((s.flipActive r.p0.toNat).updateRun { role := r.p0.toNat, req := r, cores := [], switched := [] } (s.updateOrder r.p0.toNat))) := by
  have he : s.fwActivate r = if 7 ≤ r.p0.toNat ∨ (!(s.role r.p0.toNat).valid (!(s.role r.p0.toNat).active)) = true then s.answer r 0x0404 []
      else (s.flipActive r.p0.toNat).updateRun { role := r.p0.toNat, req := r, cores := [], switched := [] } (s.updateOrder r.p0.toNat) := by
    unfold State.fwActivate
    rw [h0, hu]
    exact (if_neg Bool.false_ne_true).trans (if_neg Bool.false_ne_true)
  refine ⟨fun h => next_congr (he.trans (if_pos (h.imp_right (congrArg not)))), fun hr hv => next_congr (he.trans (if_neg ?_))⟩
  exact not_or.2 ⟨Nat.not_le.2 hr, ne_true_of_eq_false (congrArg not hv)⟩

/-! ## The journal -/

/-- The state once records have been appended to the journal. -/
theorem State.each_append (s : State) (l : List JEnt) :
    (s.each l (fun s r => s.append r)).jrn.log = s.jrn.log ++ l.map (fun e => { e with ans := [] }) ∧
    (s.each l (fun s r => s.append r)).jrn.waiting = s.jrn.waiting ∧
    (s.each l (fun s r => s.append r)).jrn.owed = s.jrn.owed ++ l.flatMap (fun e => e.ans) ∧
    (s.each l (fun s r => s.append r)).jrn.seq = s.jrn.seq + BitVec.ofNat 64 l.length ∧
    (s.each l (fun s r => s.append r)).comps = s.comps := by
  induction l generalizing s with
  | nil => exact ⟨(List.append_nil _).symm, rfl, (List.append_nil _).symm, (BitVec.add_zero _).symm, rfl⟩
  | cons e l ih =>
    obtain ⟨hlog, hw, ho, hs, hc⟩ := ih (s.append e)
    refine ⟨hlog.trans ?_, hw, ho.trans ?_, hs.trans ?_, hc⟩
    · exact List.append_assoc _ _ _
    · exact List.append_assoc _ _ _
    · change s.jrn.seq + 1 + BitVec.ofNat 64 l.length = _
      rw [List.length_cons, BitVec.add_assoc, Nat.add_comm, BitVec.ofNat_add]
      rfl

theorem State.beginBinds_none {s : State} (h : ∀ e ∈ s.comps, e.2.st ≠ .binding) : s.beginBinds = s := by
  unfold State.beginBinds
  refine State.each_fixed fun c hc => ?_
  obtain ⟨e, he, -⟩ := List.mem_map.1 hc
  obtain ⟨hm, hp⟩ := List.mem_filter.1 he
  exact absurd (of_decide_eq_true (Bool.and_eq_true_iff.1 (Bool.and_eq_true_iff.1 hp).1).1) (h e hm)

theorem commits (s : State) (h : s.canCommit = true) :
    let now := commitRun s.jrn.waiting
    ∃ t : State, exec .journalCommit s = .next t.beginBinds.sendAnswers ∧
      t.jrn.log = s.jrn.log ++ now.map (fun e => { e with ans := [] }) ∧ t.jrn.waiting = s.jrn.waiting.drop now.length ∧
      t.jrn.owed = s.jrn.owed ++ now.flatMap (fun e => e.ans) ∧ t.jrn.seq = s.jrn.seq + BitVec.ofNat 64 now.length ∧
      ((∀ e ∈ s.comps, e.2.st ≠ .binding) → t.beginBinds = t) := by
  intro now
  obtain ⟨hlog, hw, ho, hs, hc⟩ := State.each_append ({ s with jrn := { s.jrn with waiting := s.jrn.waiting.drop now.length } } : State) now
  exact ⟨_, next_congr (if_pos h), hlog, hw, ho, hs, fun hb => State.beginBinds_none fun e he => hb e ((congrArg (e ∈ ·) hc).mp he)⟩

/-- With no handoff owed or under way there is none to resolve. -/
theorem State.resolveTokens_none {s : State} (h : ∀ k, (s.token k).owed = [] ∧ (s.token k).st ≠ .sending) : s.resolveTokens = s := by
  unfold State.resolveTokens
  refine State.each_fixed fun k _ => ?_
  rw [(h k).1]
  exact if_neg (h k).2

/-- The SUP that takes over names what the other left unwritten. -/
def State.voided (s : State) (i : Nat) : State :=
  ({ s with jrn := { s.jrn with writer := i, seq := s.jrn.seq + BitVec.ofNat 64 s.jrn.waiting.length } } : State).append
    { r := .void (s.jrn.seq.toNat + 1) (s.jrn.seq.toNat + s.jrn.waiting.length) }

theorem State.takeover_some {s : State} {i : Nat} (hw : s.jrn.writer = 0) (h1 : s.roleHalted 1 = false)
    (hf : (coresOf 1).find? (fun i => decide ((s.coreS i).st = .running)) = some i) :
    s.takeover = (if s.jrn.waiting.length = 0 then ({ s with jrn := { s.jrn with writer := i } } : State) else s.voided i).resolveTokens := by
  have hn : s.jrn.seq.toNat + 1 + s.jrn.waiting.length - 1 = s.jrn.seq.toNat + s.jrn.waiting.length := by omega
  unfold State.takeover State.voided
  rw [if_neg (by rw [hw, h1]; decide), hf]
  dsimp only
  rw [hn]

theorem takeovers (s : State) (i : Nat) (hw : s.jrn.writer = 0) (h1 : s.roleHalted 1 = false)
    (hf : (coresOf 1).find? (fun i => decide ((s.coreS i).st = .running)) = some i) :
    (s.jrn.waiting = [] → exec .writerTakeover s = .next ({ s with jrn := { s.jrn with writer := i } } : State).resolveTokens) ∧
    (s.jrn.waiting ≠ [] → ∃ t : State, exec .writerTakeover s = .next t.resolveTokens ∧ t.jrn.writer = i ∧ t.jrn.waiting = s.jrn.waiting ∧
      t.jrn.log = s.jrn.log ++ [{ r := .void (s.jrn.seq.toNat + 1) (s.jrn.seq.toNat + s.jrn.waiting.length) }] ∧
      ((∀ k, (s.token k).owed = [] ∧ (s.token k).st ≠ .sending) → t.resolveTokens = t)) := by
  have he := State.takeover_some hw h1 hf
  refine ⟨fun hn => next_congr (he.trans ?_), fun hn => ⟨s.voided i, next_congr (he.trans ?_), rfl, rfl, rfl, ?_⟩⟩
  · rw [if_pos (by rw [hn]; rfl)]
  · rw [if_neg (fun h0 => hn (List.length_eq_zero_iff.1 h0))]
  · exact fun hk => State.resolveTokens_none hk

theorem replays (s : State) (hr : s.boot.replayed = false) (hw : s.jrn.writer ≠ 0) (a : Option Nat) :
    ∃ t, exec (.journalReplay a) s = .next t ∧ t.boot.replayed = true ∧ t.boot.phase = .waitFlow :=
  ⟨_, next_congr (if_neg (by rw [hr]; exact not_or.2 ⟨Bool.false_ne_true, hw⟩)), rfl, rfl⟩

theorem compacts (s : State) (hc : s.jrn.compacting = true) (he : s.jrn.erasing = false) (hw : s.jrn.writer ≠ 0)
    (hi : s.pwr.inputLost = false) :
    ∃ t, exec .journalCompaction s = .next t ∧ t.jrn.log = s.newHalf ∧ t.jrn.half = !s.jrn.half ∧ t.jrn.epoch = s.jrn.epoch + 1 ∧
      t.jrn.erasing = true ∧ t.jrn.dirty = true ∧ t.jrn.compacting = false ∧ t.jrn.full = false := by
  have hg : s.jrn.compacting = true ∧ (!s.jrn.erasing) = true ∧ s.jrn.writer ≠ 0 ∧ (!s.pwr.inputLost) = true :=
    ⟨hc, congrArg not he, hw, congrArg not hi⟩
  exact ⟨_, next_congr (if_pos hg), rfl, rfl, rfl, rfl, rfl, rfl, rfl⟩

theorem journalKeeping : Clauses.JournalKeeping := fun s =>
  ⟨commits s, fun _ => rfl, fun h => next_congr (if_neg (ne_true_of_eq_false h)), takeovers s, replays s,
    fun h _ => next_congr (if_pos (Or.inl h)), compacts s, rfl⟩

/-! ## First heartbeats -/

/-- An image passes where its signatures do and its SVN is not below the floor. -/
theorem State.fwCheck_zero_iff {s : State} {role : Nat} {g : FwImage} : s.fwCheck role g = 0 ↔ fwSigned role g = 0 ∧ s.svnFloor ≤ g.svn := by
  unfold State.fwCheck
  dsimp only
  split
  · next h => exact ⟨fun hc => absurd hc h, fun hc => absurd hc.1 h⟩
  · next h =>
    split
    · next hl => exact ⟨fun hc => absurd hc (by decide), fun hc => absurd hl (Nat.not_lt.2 hc.2)⟩
    · next hl => exact ⟨fun _ => ⟨not_not.1 h, Nat.not_lt.1 hl⟩, fun _ => rfl⟩

/-- What passes under any floor passes after reset, where none has been blown. -/
theorem State.fwCheck_reset {s : State} {role : Nat} {g : FwImage} (h : s.fwCheck role g = 0) : State.reset.fwCheck role g = 0 := by
  obtain ⟨hs, hf⟩ := State.fwCheck_zero_iff.1 h
  refine State.fwCheck_zero_iff.2 ⟨hs, le_trans ?_ hf⟩
  exact min_le_min le_rfl (max_le_max le_rfl (Nat.zero_le _))

/-- Mailbox slot 0 asks for a restart of a core. -/
def restartSlot (i : Nat) : Slot := { req := Map.set 0 4 (BitVec.ofNat 64 i) [(0, 0x42)] }

/-- Every core runs but one that restarts, while a request to restart it waits in mailbox slot 0. -/
def coreAwaited (i : Nat) : State :=
  { fw := { cores := (List.range 12).map (fun j => (j, { st := if j = i then .restarting else .running })),
            slots := [(0, restartSlot i)], held := [0] } }

/-- And the role of that core has an image. -/
def coreImaged (i : Nat) (g : FwImage) : State := (coreAwaited i).updRole (coreRole i) (fun x => { x with imgA := some g })

theorem coreAwaited_canon : ∀ i : Fin 12, (coreAwaited i.val).canon = true := by decide +kernel

theorem coreImaged_canon (i : Fin 12) (g : FwImage) : (coreImaged i.val g).canon = true :=
  (Evolves.refl _).updRole.canonOf ((canon_iff _).1 (coreAwaited_canon i))

theorem coreImaged_role (i : Fin 12) (g : FwImage) : (coreImaged i.val g).role (coreRole i.val) = { imgA := some g } :=
  State.role_updRole_self (coreAwaited_canon i) _ _

theorem State.updRole_bootTurn (s : State) (n : Nat) (f : RoleS → RoleS) (i : Nat) : (s.updRole n f).bootTurn i = s.bootTurn i := rfl

theorem State.fwCheck_congr {s t : State} (h : s.sec.svnBlown = t.sec.svnBlown) (role : Nat) (g : FwImage) :
    s.fwCheck role g = t.fwCheck role g := by
  unfold State.fwCheck State.svnFloor
  rw [h]

theorem coreAwaited_cores : ∀ i : Fin 12, ((coreAwaited i.val).coreS i.val).st = .restarting ∧
    (i.val = 0 ∨ ((coreAwaited i.val).coreS 0).st = .running) ∧ (coreAwaited i.val).bootTurn i.val = true := by decide +kernel

theorem coreImaged_coreS (i : Nat) (g : FwImage) (j : Nat) : (coreImaged i g).coreS j = (coreAwaited i).coreS j :=
  State.updRole_coreS _ _ _ _

theorem coreImaged_cores (i : Fin 12) (g : FwImage) :
    ((coreImaged i.val g).coreS i.val).st = .restarting ∧ (i.val = 0 ∨ ((coreImaged i.val g).coreS 0).st = .running) ∧
      (coreImaged i.val g).bootTurn i.val = true := by
  obtain ⟨hl, h0, hb⟩ := coreAwaited_cores i
  rw [coreImaged_coreS, coreImaged_coreS]
  exact ⟨hl, h0, (State.updRole_bootTurn _ _ _ _).trans hb⟩

theorem coreAwaited_sec (i : Nat) : (coreAwaited i).sec = State.reset.sec := rfl

theorem coreImaged_sec (i : Nat) (g : FwImage) : (coreImaged i g).sec = State.reset.sec := coreAwaited_sec i

theorem coreImaged_fwCheck (i : Nat) (g : FwImage) (role : Nat) : (coreImaged i g).fwCheck role g = State.reset.fwCheck role g :=
  State.fwCheck_congr (congrArg Sec.svnBlown (coreImaged_sec i g)) role g

/-- What the request of a restart reads as. -/
theorem restartSlot_request : ∀ i : Fin 12, fle (restartSlot i.val).area 0 2 = 0x42 ∧
    mbxReserved (restartSlot i.val).area [(0, 1, 256 ^ 1 - 1)] = false ∧
    (mbxRequest (restartSlot i.val).area 0 0).bufLen = 0 ∧ (mbxRequest (restartSlot i.val).area 0 0).p0.toNat = i.val := by decide +kernel

/-! ## A core that has just started is asked to restart -/

theorem stopped_ite {c : Prop} [Decidable c] {a b : State} {i : Nat} (ha : (a.coreS i).st ≠ .running) (hb : (b.coreS i).st ≠ .running) :
    ((if c then a else b).coreS i).st ≠ .running := by
  split
  · exact ha
  · exact hb

theorem State.coreS_of_fw {s t : State} (h : t.fw = s.fw) (i : Nat) : t.coreS i = s.coreS i :=
  congrArg (fun f : Fw => Map.get ({} : CoreS) f.cores i) h

/-- A core that is asked to restart does not run. -/
theorem State.restartCore_stops {s : State} (hs : s.canon = true) (i : Nat) : ((s.restartCore i).coreS i).st ≠ .running := by
  unfold State.restartCore
  split
  · next h => rw [h]; decide
  · next h => rw [h]; decide
  · extract_lets -underBinder r t₁ _ t₂ _ t₃ t₄ t₅ t₆
    have e₁ : Evolves s t₁ := (Evolves.refl s).updCore
    have e₂ : Evolves s t₂ := .ite e₁.setJrn e₁
    have e₃ : Evolves s t₃ := .ite e₂.setSec e₂
    have e₄ : Evolves s t₄ := e₃.health
    have h₁ : (t₁.coreS i).st ≠ .running := by
      rw [State.coreS_updCore_self hs]
      exact CoreSt.noConfusion
    have h₂ : (t₂.coreS i).st ≠ .running := stopped_ite h₁ h₁
    have h₄ : (t₄.coreS i).st ≠ .running := stopped_ite (a := _) h₂ h₂
    have h₅ : (t₅.coreS i).st ≠ .running := by
      rw [State.coreS_updCore_self (e₄.canonOf ((canon_iff s).1 hs))]
      exact CoreSt.noConfusion
    have h₆ : ((t₅.haltRole r).coreS i).st ≠ .running := by rwa [State.coreS_of_fw (State.haltRole_fw t₅ r)]
    refine stopped_ite (stopped_ite (stopped_ite ?_ h₆) h₅) h₄
    rwa [State.coreS_of_fw (State.startStep_module_fw _ _)]

/-- The active SUP takes a request to restart a core that runs, and restarts it. -/
theorem State.mbxTake_restart {s : State} (hs : s.canon = true) (i : Fin 12) (h1 : (s.coreS 1).st = .running) (hi : (s.coreS i.val).st = .running)
    (hr : s.roleHalted 1 = false) (hu : s.fw.update = none) (hq : s.mslot 0 = restartSlot i.val) :
    ((s.mbxTake 0).coreS i.val).st ≠ .running := by
  obtain ⟨hcode, hres, hbuf, hp⟩ := restartSlot_request i
  have ha : s.roleAway 1 = false := by
    have hany : (coresOf 1).any (fun i => decide ((s.coreS i).st = .running)) = true :=
      List.any_eq_true.2 ⟨1, by decide, decide_eq_true h1⟩
    unfold State.roleAway
    rw [hany]
    exact Bool.and_false _
  have hport : (restartSlot i.val).port = 0 := rfl
  have hparams : mbxParams 0x42 = some [(0, 1, 256 ^ 1 - 1)] := rfl
  have hrole : mbxRole 0x42 = 1 := rfl
  let b := s.updMslot 0 (fun m => { m with busy := true })
  have hb : b.roleAway 1 = false := ha
  have hg : (b.roleAway 1 || decide (0x42 = 0x10) && b.secAway) = false := by rw [hb]; rfl
  have he : s.mbxTake 0 = b.mbxDispatch 0x42 (mbxRequest (restartSlot i.val).area 0 0) := by
    unfold State.mbxTake
    rw [if_neg (ne_true_of_eq_false ha), hq]
    dsimp only
    rw [hport, hcode, hparams, hrole]
    dsimp only
    rw [hres, hbuf, if_neg Bool.false_ne_true, if_neg (by decide)]
    exact (if_neg (ne_true_of_eq_false hr)).trans (if_neg (ne_true_of_eq_false hg))
  have hc : b.canon = true := (Evolves.refl s).updMslot.canonOf ((canon_iff s).1 hs)
  have hd : s.mbxTake 0 = (b.restartCore i.val).answer (mbxRequest (restartSlot i.val).area 0 0) 0 [] := by
    have hrun := State.coreRestart_running (s := b) (r := mbxRequest (restartSlot i.val).area 0 0) (by rw [hp]; exact i.isLt) hu
      (by rw [hp]; exact hi)
    rw [hp] at hrun
    exact he.trans hrun
  rw [hd]
  exact State.restartCore_stops hc i.val

/-! ## What a first heartbeat leaves -/

theorem State.resolveTokens_empty {s : State} (h : s.tokens = []) : s.resolveTokens = s := by
  unfold State.resolveTokens
  rw [h]
  rfl

theorem State.spdmLate_empty {s : State} (h : s.sec.waits = []) : s.spdmLate = { s with sec := { s.sec with waits := [] } } := by
  unfold State.spdmLate
  rw [h]
  rfl

/-- The core runs its role's active image. -/
def State.coreStarted (s : State) (i : Nat) (g : FwImage) : State :=
  s.updCore i (fun x => { x with st := .running, beat := true, release := g.release.toNat, svn := g.svn, copy := (s.role (coreRole i)).active })

theorem State.coreStarted_update (s : State) (i : Nat) (g : FwImage) : (s.coreStarted i g).fw.update = s.fw.update := rfl

theorem State.coreStarted_slots (s : State) (i : Nat) (g : FwImage) : (s.coreStarted i g).fw.slots = s.fw.slots := rfl

/-- The firmware of `t` is that of `u`, and so are the halted roles, the tokens and the requests that wait for SEC. -/
structure FwStill (u t : State) : Prop where
  keepsFw : t.fw = u.fw
  keepsHalted : t.sec.haltedRoles = u.sec.haltedRoles
  keepsTokens : t.tokens = u.tokens
  keepsWaits : t.sec.waits = u.sec.waits

theorem FwStill.refl (u : State) : FwStill u u := ⟨rfl, rfl, rfl, rfl⟩

theorem FwStill.ite {c : Prop} [Decidable c] {u a b : State} (ha : FwStill u a) (hb : FwStill u b) : FwStill u (if c then a else b) := by
  split
  · exact ha
  · exact hb

theorem FwStill.measure {u t : State} {i : Nat} {d : Digest} (h : FwStill u t) : FwStill u (t.measure i d) :=
  .ite h ⟨h.keepsFw, h.keepsHalted, h.keepsTokens, h.keepsWaits⟩

section
variable {s : State} {i : Nat} {g : FwImage} (hg : (s.role (coreRole i)).img (s.role (coreRole i)).active = some g)
  (hc : s.fwCheck (coreRole i) g = 0)
include hg hc

theorem State.copyCode_passed : s.copyCode (coreRole i) (s.role (coreRole i)).active = 0 := by
  unfold State.copyCode
  rw [hg]
  exact hc

theorem State.loadCore_passed : FwStill (s.coreStarted i g) (s.loadCore i) := by
  have hn : ¬ s.fwCheck (coreRole i) g ≠ 0 := not_not.2 hc
  have hm : FwStill (s.coreStarted i g) ((s.coreStarted i g).measure (3 + i) (fwDigest g)) := (FwStill.refl _).measure
  unfold State.loadCore
  dsimp only
  rw [State.copyCode_passed hg hc, if_pos rfl, if_pos rfl, hg]
  dsimp only
  rw [if_neg hn]
  exact .ite ⟨hm.keepsFw, hm.keepsHalted, hm.keepsTokens, hm.keepsWaits⟩ hm

/-- Outside an update, with no handoff to resolve and nothing that waits for SEC, a first heartbeat starts the core. -/
theorem State.firstHeartbeat_starts (hl : (s.coreS i).st = .loading ∨ (s.coreS i).st = .restarting) (h0 : i = 0 ∨ (s.coreS 0).st = .running)
    (hb : s.bootTurn i = true) (hu : s.fw.update = none) (ht : s.tokens = []) (hw : s.sec.waits = []) :
    FwStill (s.coreStarted i g) (s.firstHeartbeat i) := by
  have hgo : ¬((!decide ((s.coreS i).st = .loading ∨ (s.coreS i).st = .restarting)) = true ∨ i ≠ 0 ∧ (s.coreS 0).st ≠ .running ∨
      s.bootTurn i = false) := by
    rw [hb, decide_eq_true hl]
    exact not_or.2 ⟨Bool.false_ne_true, not_or.2 ⟨fun h => h0.elim h.1 h.2, Bool.noConfusion⟩⟩
  unfold State.firstHeartbeat
  extract_lets -underBinder _ _ _ t₁ _ _ _ t₂ t₃ t₄
  have h₁ : FwStill (s.coreStarted i g) t₁ := State.loadCore_passed hg hc
  have h₂ : FwStill (s.coreStarted i g) t₂ := .ite ⟨h₁.keepsFw, h₁.keepsHalted, h₁.keepsTokens, h₁.keepsWaits⟩ h₁
  have h₃ : FwStill (s.coreStarted i g) t₃ := by
    refine .ite ?_ h₂
    rw [State.resolveTokens_empty (h₂.keepsTokens.trans ht)]
    exact h₂
  have h₄ : FwStill (s.coreStarted i g) t₄ := by
    refine .ite ?_ h₃
    rw [State.spdmLate_empty (h₃.keepsWaits.trans hw)]
    exact ⟨h₃.keepsFw, h₃.keepsHalted, h₃.keepsTokens, hw.symm⟩
  have hu₄ : t₄.fw.update = none := (congrArg Fw.update h₄.keepsFw).trans ((State.coreStarted_update s i g).trans hu)
  clear_value t₄
  split
  · next hx => exact absurd hx hgo
  · rw [hu₄]
    exact h₄

end

/-! ## What the statement comes to -/

theorem coreImaged_active (i : Fin 12) (g : FwImage) :
    ((coreImaged i.val g).role (coreRole i.val)).img ((coreImaged i.val g).role (coreRole i.val)).active = some g := by
  rw [coreImaged_role]
  rfl

theorem coreAwaited_others : ∀ i j : Fin 12, j ≠ i → ((coreAwaited i.val).coreS j.val).st = .running := by decide +kernel

/-- With an image that passes, the core starts, and then the request that waited restarts it. -/
theorem coreImaged_restarted {i : Fin 12} {g : FwImage} (hc : State.reset.fwCheck (coreRole i.val) g = 0) :
    (((coreImaged i.val g).firstHeartbeat i.val).mbxLate.coreS i.val).st ≠ .running := by
  obtain ⟨hl, h0, hb⟩ := coreImaged_cores i g
  have hs := coreImaged_canon i g
  have hst := State.firstHeartbeat_starts (coreImaged_active i g) ((coreImaged_fwCheck _ _ _).trans hc) (.inr hl) h0 hb rfl rfl rfl
  let t := (coreImaged i.val g).firstHeartbeat i.val
  let u : State := { t with fw := { t.fw with held := [] } }
  have hct : Canon t := (Evolves.refl _).firstHeartbeat.keepsCanon ((canon_iff _).1 hs)
  have hcu : u.canon = true := (canon_iff _).2 ((Evolves.refl t).setFw.keepsCanon hct)
  have hcore (j : Nat) : u.coreS j = ((coreImaged i.val g).coreStarted i.val g).coreS j := State.coreS_of_fw hst.keepsFw j
  have hi : (u.coreS i.val).st = .running := by
    rw [hcore]
    exact congrArg CoreS.st (State.coreS_updCore_self hs _ _)
  have h1 : (u.coreS 1).st = .running := by
    by_cases h : i = 1
    · rw [h] at hi
      exact hi
    · rw [hcore]
      refine (congrArg CoreS.st (State.coreS_updCore_ne _ _ _ _ fun he => h (Fin.ext he.symm))).trans ?_
      rw [coreImaged_coreS]
      exact coreAwaited_others i 1 (Ne.symm h)
  have hheld : t.fw.held = [0] := congrArg Fw.held hst.keepsFw
  have he : t.mbxLate = u.mbxTake 0 := by
    unfold State.mbxLate
    rw [hheld]
    rfl
  have hslots : t.fw.slots = [(0, restartSlot i.val)] := (congrArg Fw.slots hst.keepsFw).trans (State.coreStarted_slots _ _ _)
  have hq : u.mslot 0 = restartSlot i.val := congrArg (fun m : Map Slot => Map.get ({} : Slot) m 0) hslots
  have hr : u.roleHalted 1 = false := (congrArg (fun n => has n 1) hst.keepsHalted).trans
    (congrArg (fun c : Sec => has c.haltedRoles 1) (coreImaged_sec i.val g))
  rw [show (coreImaged i.val g).firstHeartbeat i.val = t from rfl, he]
  exact State.mbxTake_restart hcu i h1 hi hr (congrArg Fw.update hst.keepsFw) hq

/-- Why O56 stays unsettled: the statement holds exactly if no image passes its checks. A core whose first heartbeat lets go on a request to restart
that same core does not end running; and whether an image passes turns on `Config.rsaVerify` and `Config.slhVerify`, which have no body. -/
theorem coresAndJournal_iff :
    Obligations.CoresAndJournal ↔ ∀ (i : Fin 12) (g : FwImage), State.reset.fwCheck (coreRole i.val) g ≠ 0 := by
  constructor
  · rintro ⟨⟨-, -, -, hfirst, -⟩, -⟩ i g hc
    obtain ⟨hl, h0, hb⟩ := coreImaged_cores i g
    obtain ⟨t, ht, hrun, -⟩ := hfirst (coreImaged i.val g) i g (coreImaged_canon i g) (.inr hl) h0 hb rfl (coreImaged_active i g)
      ((coreImaged_fwCheck _ _ _).trans hc)
    have he : ((coreImaged i.val g).firstHeartbeat i.val).mbxLate = t := Host.Outcome.next.inj ht
    exact coreImaged_restarted hc (he ▸ hrun)
  · intro hnone
    refine ⟨⟨heartbeatMisses, fun s i hr => next_congr (if_neg hr), fun s r hr hu => ⟨fun hrun => next_congr (State.coreRestart_running hr hu hrun),
      fun hrun => next_congr (State.coreRestart_idle hr hrun)⟩, fun s i g _ _ _ _ _ _ hc => absurd (State.fwCheck_reset hc) (hnone i g),
      imagesWritten, imagesActivated⟩, journalKeeping⟩

end Sys2Proof.Machine
end

section
/-! SUPPORT. What O56 turns on: the verifiers of R332, which the model leaves without a body. -/
namespace Sys2Proof.Machine

/-! ## The statement under either reading of the verifiers

`Config.rsaVerify`, `Config.slhVerify` and `Config.fusedSignersRevoked` have no body, so every value of theirs is consistent with the model:
with verifiers that reject the statement holds, with verifiers that accept it fails. -/

/-- An image that no RSA key verifies does not pass. -/
theorem fwSigned_of_rsa_rejects (h : ∀ k d sig, Config.rsaVerify k d sig = false) (role : Nat) (g : FwImage) : fwSigned role g ≠ 0 := by
  unfold fwSigned firstCode
  simp only [h]
  cases fwShapeOk role g with
  | false => exact Nat.noConfusion
  | true =>
    cases Config.fusedSignersRevoked.getLsbD g.signer with
    | false => exact Nat.noConfusion
    | true => exact Nat.noConfusion

/-- An image of a valid shape passes where both verifiers accept and no signer is revoked. -/
theorem fwSigned_of_verifiers_accept (hrsa : ∀ k d sig, Config.rsaVerify k d sig = true) (hslh : ∀ k c d sig, Config.slhVerify k c d sig = true)
    (hrev : Config.fusedSignersRevoked = 0) {role : Nat} {g : FwImage} (hg : fwShapeOk role g = true) : fwSigned role g = 0 := by
  unfold fwSigned firstCode
  simp [hrsa, hslh, hrev, hg]

/-- An image of 64 zero bytes for SEC, at the highest SVN. -/
def zeroImage : FwImage where
  magic := 0x4D494647
  version := 1
  role := 0
  svn := 127
  imageBytes := 64
  release := 0
  signer := 0
  rsvZero := true
  imageDigest := Config.sha384 (List.replicate 64 0)
  image := List.replicate 64 0
  header := []
  rsaSig := []
  slhSig := []
  tailZero := true

theorem zeroImage_shapeOk : fwShapeOk 0 zeroImage = true := by
  simp [fwShapeOk, zeroImage]

theorem coresAndJournal_of_rsa_rejects (h : ∀ k d sig, Config.rsaVerify k d sig = false) : Obligations.CoresAndJournal :=
  coresAndJournal_iff.2 fun i g hc => fwSigned_of_rsa_rejects h (coreRole i.val) g (State.fwCheck_zero_iff.1 hc).1

theorem not_coresAndJournal_of_verifiers_accept (hrsa : ∀ k d sig, Config.rsaVerify k d sig = true)
    (hslh : ∀ k c d sig, Config.slhVerify k c d sig = true) (hrev : Config.fusedSignersRevoked = 0) : ¬ Obligations.CoresAndJournal :=
  fun ho => coresAndJournal_iff.1 ho 0 zeroImage
    (State.fwCheck_zero_iff.2 ⟨fwSigned_of_verifiers_accept hrsa hslh hrev zeroImage_shapeOk, min_le_left _ _⟩)

end Sys2Proof.Machine
end
